-- ==== Sys2Proof/Word.lean ====
section
/-!
DEFINITION. Words and sparse tables.

A table with a default (a register file, the memory, the set of cores) is a list of index and value pairs,
sorted by index and without repeats.
-/

namespace Sys2Proof

abbrev Byte := BitVec 8
abbrev Word64 := BitVec 64
abbrev VReg := BitVec 512

/-! ### Sparse tables -/

/-- A table indexed by numbers; an index that is not listed holds the table's default. -/
abbrev Sparse (α : Type) := List (Nat × α)

/-- The value at index `i`, `d` where the table does not list it. -/
def Sparse.get {α : Type} (d : α) : Sparse α → Nat → α
  | [], _ => d
  | (k, v) :: t, i => if i = k then v else Sparse.get d t i

/-- The table with `x` at index `i`. -/
def Sparse.put {α : Type} : Sparse α → Nat → α → Sparse α
  | [], i, x => [(i, x)]
  | (k, v) :: t, i, x =>
    if i < k then (i, x) :: (k, v) :: t else if i = k then (i, x) :: t else (k, v) :: Sparse.put t i x

/-- The table with index `i` back at its default. -/
def Sparse.drop {α : Type} (m : Sparse α) (i : Nat) : Sparse α := m.filter (fun p => p.1 != i)

/-- The table with `x` at index `i`, where the default `d` is never listed. -/
def Sparse.set {α : Type} [DecidableEq α] (d : α) (m : Sparse α) (i : Nat) (x : α) : Sparse α :=
  if x = d then m.drop i else m.put i x

/-- Strictly rising indices. -/
def Sparse.sorted {α : Type} : Sparse α → Bool
  | [] => true
  | [_] => true
  | a :: b :: t => decide (a.1 < b.1) && Sparse.sorted (b :: t)

/-- The canonical form: strictly rising indices and no entry equal to the default. -/
def Sparse.wf {α : Type} [DecidableEq α] (d : α) (m : Sparse α) : Bool :=
  m.sorted && m.all (fun p => decide (p.2 ≠ d))

/-- A set of numbers, strictly rising. -/
abbrev NatSet := List Nat

def NatSet.insert : NatSet → Nat → NatSet
  | [], i => [i]
  | k :: t, i => if i < k then i :: k :: t else if i = k then k :: t else k :: NatSet.insert t i

def NatSet.erase (m : NatSet) (i : Nat) : NatSet := m.filter (fun k => k != i)

def NatSet.sorted : NatSet → Bool
  | [] => true
  | [_] => true
  | a :: b :: t => decide (a < b) && NatSet.sorted (b :: t)

end Sys2Proof
end

