-- ==== Sys2Proof/Machine/Bits.lean ====
section
/-!
DEFINITION. Bit fields, sign extension, narrowing and byte order.

A field of a register, a packet or a record is read with `fld` from a natural number and written back with
`setFld` (the notation `x[hi:lo]` of R5 and R18).  Integers of a type `In` or `Nn` are read with `sx` and
`zx` (R19 `SignExt`, `ZeroExt`) and narrowed with `wrapN`, `satI` and `satN` (R35, R47).
-/

namespace Sys2Proof

/-- `x[lo + w - 1 : lo]` (R5, R18). -/
def fld (x lo w : Nat) : Nat := x / 2 ^ lo % 2 ^ w

/-- Bit `i` of `x`. -/
def bitAt (x i : Nat) : Bool := fld x i 1 == 1

/-- `x` with `x[lo + w - 1 : lo]` replaced by the low `w` bits of `y` (R18). -/
def setFld (x lo w y : Nat) : Nat := x - fld x lo w * 2 ^ lo + y % 2 ^ w * 2 ^ lo

/-- R19 `SignExt(x, n)`. -/
def sx (x n : Nat) : Int :=
  if bitAt x (n - 1) then (fld x 0 n : Int) - (2 : Int) ^ n else (fld x 0 n : Int)

/-- R19 `ZeroExt(x, n)`, as an integer. -/
def zx (x n : Nat) : Int := (fld x 0 n : Int)

/-- The low `n` bits of an exact result (R35). -/
def wrapN (n : Nat) (x : Int) : Nat := (x % ((2 : Int) ^ n)).toNat

/-- R47 `Sat(x, lo, hi)`. -/
def satTo (x lo hi : Int) : Int := if x < lo then lo else if hi < x then hi else x

/-- R47 `SatI(x, n)`. -/
def satI (x : Int) (n : Nat) : Int := satTo x (-((2 : Int) ^ (n - 1))) ((2 : Int) ^ (n - 1) - 1)

/-- R47 `SatN(x, n)`. -/
def satN (x : Int) (n : Nat) : Int := satTo x 0 ((2 : Int) ^ n - 1)

/-- `ceil (a / b)`. -/
def ceilDiv (a b : Nat) : Nat := (a + b - 1) / b

/-- The least multiple of `b` that is not below `a`. -/
def roundUp (a b : Nat) : Nat := ceilDiv a b * b

/-- Whether a length has the form `LEN_M × 2^LEN_E` with `LEN_M ≤ 1023`, and the pair with the smallest
`LEN_E` (R125); `none` where there is none. -/
def lenEncode (n : Nat) : Option (Nat × Nat) :=
  ((List.range 64).find? (fun e => n % 2 ^ e == 0 && n / 2 ^ e ≤ 1023)).map (fun e => (n / 2 ^ e, e))

/-- A 56-bit address sum (R84, R97). -/
def addr56 (a : Int) : Nat := wrapN 56 a

/-- Whether the ranges `[a, a + n)` and `[b, b + m)` have a byte in common. -/
def overlaps (a n b m : Nat) : Bool := decide (a < b + m) && decide (b < a + n) && decide (0 < n) && decide (0 < m)

/-- The number held by `n` bytes, lowest address first (R6). -/
def bytesToNat : List Byte → Nat
  | [] => 0
  | b :: bs => b.toNat + 256 * bytesToNat bs

/-- The `n` bytes of a number, lowest address first (R6). -/
def natToBytes : Nat → Nat → List Byte
  | 0, _ => []
  | n + 1, x => BitVec.ofNat 8 (x % 256) :: natToBytes n (x / 256)

end Sys2Proof
end

