-- ==== Sys2Proof/Machine/Flags.lean ====
section
/-!
DEFINITION. Floating-point values, rounding and the five sticky flags (R36 to R42, R47), and bit-plane elements
(R43, R44, R46).

A format is named by the width `fb` of its fraction: 23 for FP32, 7 for BF16; both have eight exponent bits and bias
127.  A finite value is `± m × 2^e`.  Rounding takes a value `± (m + t) × 2^e` with `0 ≤ t < 1`, where `sticky` says
that `t` is not zero; `m` then has at least two bits more than the format's precision.
-/

namespace Sys2Proof.Machine

/-- The flags of R39 at their places in FFLAGS, STATUS[25:21]. -/
def flagInexact : Nat := 1
def flagUnderflow : Nat := 2
def flagOverflow : Nat := 4
def flagDivzero : Nat := 8
def flagInvalid : Nat := 16

/-- The real value, infinity or NaN of a pattern (R19 `F32Val`, `BF16Val`). -/
inductive FVal where
  | nan
  | inf (neg : Bool)
  | fin (neg : Bool) (m : Nat) (e : Int)
  deriving DecidableEq, Repr

/-- A pattern and the flags of the operation that made it. -/
abbrev Flagged := Nat × Nat

def fbOf (ty : Nat) : Nat := if ty = 8 then 23 else 7
def signOf (fb x : Nat) : Bool := bitAt x (fb + 8)
def expOf (fb x : Nat) : Nat := fld x fb 8
def fracOf (fb x : Nat) : Nat := fld x 0 fb
def isNaN (fb x : Nat) : Bool := expOf fb x == 255 && fracOf fb x != 0
/-- R37: the top bit of the fraction is 0. -/
def isSignalling (fb x : Nat) : Bool := isNaN fb x && !(bitAt x (fb - 1))
/-- The canonical quiet NaN (R37). -/
def canonNaN (fb : Nat) : Nat := 255 * 2 ^ fb + 2 ^ (fb - 1)
def infOf (fb : Nat) (neg : Bool) : Nat := (if neg then 2 ^ (fb + 8) else 0) + 255 * 2 ^ fb
/-- The largest finite value (R38). -/
def maxFinite (fb : Nat) (neg : Bool) : Nat := infOf fb neg - 1
def zeroOf (fb : Nat) (neg : Bool) : Nat := if neg then 2 ^ (fb + 8) else 0

/-- The exponent of the least subnormal: −149 or −133 (R36). -/
def qMin (fb : Nat) : Int := -126 - (fb : Int)

/-- R19 `F32Val`, `BF16Val`. -/
def fval (fb x : Nat) : FVal :=
  if expOf fb x = 255 then (if fracOf fb x = 0 then .inf (signOf fb x) else .nan)
  else if expOf fb x = 0 then .fin (signOf fb x) (fracOf fb x) (qMin fb)
  else .fin (signOf fb x) (fracOf fb x + 2 ^ fb) (qMin fb + (expOf fb x : Int) - 1)

/-- Bits of a number. -/
def bitLen (m : Nat) : Nat := if m = 0 then 0 else Nat.log2 m + 1

/-- `± (m + t) × 2^e` rounded to a multiple of `2^q` under a mode of R38: the multiple, and whether it differs. -/
def roundAt (rm : Nat) (neg : Bool) (m : Nat) (e : Int) (sticky : Bool) (q : Int) : Nat × Bool :=
  if q ≤ e then (m * 2 ^ (e - q).toNat, sticky)
  else
    let k := (q - e).toNat
    let quo := m / 2 ^ k
    let rem := m % 2 ^ k
    let inexact := rem != 0 || sticky
    let up :=
      match rm with
      | 0 => decide (2 ^ k < rem * 2) || (rem * 2 == 2 ^ k && (sticky || quo % 2 == 1))
      | 1 => false
      | 2 => inexact && !neg
      | _ => inexact && neg
    (if up then quo + 1 else quo, inexact)

/-- The pattern of `± r × 2^q`, with `r ≤ 2^(fb + 1)` and `q` at least the least exponent, overflow by R38. -/
def packFloat (fb rm : Nat) (neg : Bool) (r : Nat) (q : Int) : Flagged :=
  if r = 0 then (zeroOf fb neg, 0)
  else
    let r' := if r = 2 ^ (fb + 1) then 2 ^ fb else r
    let q' := if r = 2 ^ (fb + 1) then q + 1 else q
    let field := if r' < 2 ^ fb then 0 else (q' - qMin fb).toNat + 1
    if 255 ≤ field then
      ((match rm with
        | 0 => infOf fb neg
        | 1 => maxFinite fb neg
        | 2 => if neg then maxFinite fb neg else infOf fb neg
        | _ => if neg then infOf fb neg else maxFinite fb neg), flagOverflow + flagInexact)
    else ((if neg then 2 ^ (fb + 8) else 0) + field * 2 ^ fb + r' % 2 ^ fb, 0)

/-- R47 `RoundF32`, `RoundBF16` of a finite value, with the flags of R39. -/
def roundFin (fb rm : Nat) (neg : Bool) (m : Nat) (e : Int) (sticky : Bool) : Flagged :=
  if m = 0 && !sticky then (zeroOf fb neg, 0)
  else
    let qU := e + (bitLen m : Int) - (fb + 1 : Int)
    let q := max qU (qMin fb)
    let (r, inexact) := roundAt rm neg m e sticky q
    let (p, fl) := packFloat fb rm neg r q
    let rU := (roundAt rm neg m e sticky qU).1
    let tiny := decide ((bitLen rU : Int) + qU ≤ -126)
    (p, fl ||| (if inexact then flagInexact else 0) ||| (if inexact && tiny then flagUnderflow else 0))

/-- R47 `RoundF32`, `RoundBF16`. -/
def roundVal (fb rm : Nat) : FVal → Flagged
  | .nan => (canonNaN fb, 0)
  | .inf n => (infOf fb n, 0)
  | .fin n m e => roundFin fb rm n m e false

/-- INVALID when an operand is a signalling NaN (R37). -/
def snanFlag (fb : Nat) (xs : List Nat) : Nat := if xs.any (isSignalling fb) then flagInvalid else 0

/-- The negation of a value. -/
def FVal.neg : FVal → FVal
  | .nan => .nan
  | .inf n => .inf (!n)
  | .fin n m e => .fin (!n) m e

/-- An exact sum, the sign of a zero sum by R40; INVALID for ∞ − ∞. -/
def FVal.add (rm : Nat) : FVal → FVal → FVal × Nat
  | .nan, _ => (.nan, 0)
  | _, .nan => (.nan, 0)
  | .inf n, .inf n' => if n = n' then (.inf n, 0) else (.nan, flagInvalid)
  | .inf n, .fin .. => (.inf n, 0)
  | .fin .., .inf n => (.inf n, 0)
  | .fin n m e, .fin n' m' e' =>
    let lo := min e e'
    let x : Int := (if n then -1 else 1) * (m * 2 ^ (e - lo).toNat : Nat)
    let y : Int := (if n' then -1 else 1) * (m' * 2 ^ (e' - lo).toNat : Nat)
    if x + y = 0 then (.fin (if m = 0 && m' = 0 && n == n' then n else rm == 3) 0 0, 0)
    else (.fin (decide (x + y < 0)) (x + y).natAbs lo, 0)

/-- An exact product; INVALID for 0 × ∞. -/
def FVal.mul : FVal → FVal → FVal × Nat
  | .nan, _ => (.nan, 0)
  | _, .nan => (.nan, 0)
  | .inf n, .inf n' => (.inf (n != n'), 0)
  | .inf n, .fin n' m _ => if m = 0 then (.nan, flagInvalid) else (.inf (n != n'), 0)
  | .fin n m _, .inf n' => if m = 0 then (.nan, flagInvalid) else (.inf (n != n'), 0)
  | .fin n m e, .fin n' m' e' => (.fin (n != n') (m * m') (e + e'), 0)

/-- R127 FADD. -/
def fAdd (fb rm a b : Nat) : Flagged :=
  let (v, f) := FVal.add rm (fval fb a) (fval fb b)
  let (p, g) := roundVal fb rm v
  (p, f ||| g ||| snanFlag fb [a, b])

/-- R127 FSUB. -/
def fSub (fb a b : Nat) : Flagged :=
  let (v, f) := FVal.add 0 (fval fb a) (fval fb b).neg
  let (p, g) := roundVal fb 0 v
  (p, f ||| g ||| snanFlag fb [a, b])

/-- R127 FMUL. -/
def fMul (fb rm a b : Nat) : Flagged :=
  let (v, f) := FVal.mul (fval fb a) (fval fb b)
  let (p, g) := roundVal fb rm v
  (p, f ||| g ||| snanFlag fb [a, b])

/-- R127 FFMA: `a × b + d`, or `−a × b + d` where `negate`, rounded once. (DEDUCED, log 23.) -/
def fFma (fb rm : Nat) (negate : Bool) (a b d : Nat) : Flagged :=
  let (v, f) := FVal.mul (fval fb a) (fval fb b)
  let (w, h) := FVal.add rm (if negate then v.neg else v) (fval fb d)
  let (p, g) := roundVal fb rm w
  (p, f ||| g ||| h ||| snanFlag fb [a, b, d])

/-- The exact quotient of two values, rounded to nearest, before the signalling flag. -/
def divVal (fb : Nat) : FVal → FVal → Flagged
  | .nan, _ => (canonNaN fb, 0)
  | _, .nan => (canonNaN fb, 0)
  | .inf _, .inf _ => (canonNaN fb, flagInvalid)
  | .inf n, .fin n' _ _ => (infOf fb (n != n'), 0)
  | .fin n _ _, .inf n' => (zeroOf fb (n != n'), 0)
  | .fin n m e, .fin n' m' e' =>
    if m' = 0 then (if m = 0 then (canonNaN fb, flagInvalid) else (infOf fb (n != n'), flagDivzero))
    else if m = 0 then (zeroOf fb (n != n'), 0)
    else
      let k := fb + 4 + bitLen m'
      let x := m * 2 ^ k
      roundFin fb 0 (n != n') (x / m') (e - e' - k) (x % m' != 0)

/-- R127 FDIV. -/
def fDiv (fb a b : Nat) : Flagged :=
  let (p, f) := divVal fb (fval fb a) (fval fb b)
  (p, f ||| snanFlag fb [a, b])

/-- The integer square root of `n`, below `2^k`. -/
def isqrt (n : Nat) : Nat → Nat → Nat
  | 0, r => r
  | k + 1, r => if (r + 2 ^ k) * (r + 2 ^ k) ≤ n then isqrt n k (r + 2 ^ k) else isqrt n k r

/-- R127 FSQRT. -/
def fSqrt (fb a : Nat) : Flagged :=
  match fval fb a with
  | .nan => (canonNaN fb, snanFlag fb [a])
  | .inf n => if n then (canonNaN fb, flagInvalid) else (infOf fb false, 0)
  | .fin n m e =>
    if m = 0 then (zeroOf fb n, 0)
    else if n then (canonNaN fb, flagInvalid)
    else
      let k := 2 * fb + 8 + (if e % 2 = 0 then 0 else 1)
      let x := m * 2 ^ k
      let r := isqrt x (fb + 8 + fb) 0
      roundFin fb 0 false r ((e - k) / 2) (x != r * r)

/-- A pattern as an integer in the order of its values; −0 lies below +0. -/
def orderKey (fb x : Nat) : Int :=
  if signOf fb x then -((fld x 0 (fb + 8) : Nat) : Int) - 1 else ((fld x 0 (fb + 8) : Nat) : Int)

/-- A pattern as an integer in the order of its values; −0 equals +0. -/
def cmpKey (fb x : Nat) : Int :=
  if signOf fb x then -((fld x 0 (fb + 8) : Nat) : Int) else ((fld x 0 (fb + 8) : Nat) : Int)

/-- R41 minimumNumber (`hi` false) and maximumNumber. -/
def fMinMax (hi : Bool) (fb a b : Nat) : Flagged :=
  let p :=
    if isNaN fb a then (if isNaN fb b then canonNaN fb else b)
    else if isNaN fb b then a
    else if decide (orderKey fb a ≤ orderKey fb b) == hi then b else a
  (p, snanFlag fb [a, b])

/-- R128: the comparison named by COND, and its flags. -/
def fCompare (fb cond a b : Nat) : Bool × Nat :=
  let un := isNaN fb a || isNaN fb b
  let x := cmpKey fb a
  let y := cmpKey fb b
  let r :=
    match cond with
    | 0 => !un && decide (x = y)
    | 1 => un || decide (x ≠ y)
    | 2 => !un && decide (x < y)
    | 3 => !un && decide (x ≤ y)
    | 4 => !un && decide (y < x)
    | 5 => !un && decide (y ≤ x)
    | _ => un
  (r, snanFlag fb [a, b] ||| (if un && (cond == 2 || cond == 3 || cond == 4 || cond == 5) then flagInvalid else 0))

/-- R42, R47 `CvtInt`. -/
def cvtInt (n : Nat) (signed : Bool) (rm : Nat) (v : FVal) : Int × Nat :=
  let lo : Int := if signed then -((2 : Int) ^ (n - 1)) else 0
  let hi : Int := if signed then (2 : Int) ^ (n - 1) - 1 else (2 : Int) ^ n - 1
  match v with
  | .nan => (0, flagInvalid)
  | .inf neg => (if neg then lo else hi, flagInvalid)
  | .fin neg m e =>
    let (r, inexact) := roundAt rm neg m e false 0
    let x : Int := if neg then -(r : Int) else (r : Int)
    if x < lo then (lo, flagInvalid)
    else if hi < x then (hi, flagInvalid)
    else (x, if inexact then flagInexact else 0)

/-- The value of an integer. -/
def intVal (x : Int) : FVal := .fin (decide (x < 0)) x.natAbs 0

/-- R42: an integer rounded under a mode. -/
def cvtFromInt (fb rm : Nat) (x : Int) : Flagged := roundVal fb rm (intVal x)

/-- R129: between floating-point formats. Within one format only a signalling NaN changes, and no rounding happens. -/
def cvtFloat (dst src rm x : Nat) : Flagged :=
  if isSignalling src x then (canonNaN dst, flagInvalid)
  else if dst = src then (x, 0)
  else
    match fval src x with
    | .nan => (canonNaN dst, 0)
    | v => roundVal dst rm v

/-- R130: the one-hot class. -/
def fClass (fb x : Nat) : Nat :=
  let neg := signOf fb x
  if isNaN fb x then (if isSignalling fb x then 2 ^ 8 else 2 ^ 9)
  else if expOf fb x = 255 then (if neg then 2 ^ 0 else 2 ^ 7)
  else if expOf fb x = 0 then
    (if fracOf fb x = 0 then (if neg then 2 ^ 3 else 2 ^ 4) else (if neg then 2 ^ 2 else 2 ^ 5))
  else (if neg then 2 ^ 1 else 2 ^ 6)

/-- R47 `SeqSumF32`. -/
def seqSumF32 : List Nat → Nat
  | [] => 0
  | x :: xs => xs.foldl (fun s y => (fAdd 23 0 s y).1) x

/-- One level of R47 `HalvingF32`: the first half combined with the second. -/
def halve (op : Nat → Nat → Flagged) (xs : List Nat) : List Flagged :=
  let n := xs.length / 2
  List.zipWith op (xs.take n) (xs.drop n)

/-- R47 `HalvingF32`, for `2^k` patterns, with the flags of its steps. -/
def halving (op : Nat → Nat → Flagged) : Nat → List Nat → Nat → Flagged
  | 0, xs, fl => (xs.headD 0, fl)
  | k + 1, xs, fl =>
    let ys := halve op xs
    halving op k (ys.map (·.1)) (ys.foldl (fun f y => f ||| y.2) fl)

/-! ### Bit-plane elements -/

/-- R44 `PlaneRead`: T(x), or M(x) with midpoint correction, for an element of `P` planes read at precision `p`. -/
def planeRead (x : Int) (P p : Nat) (mid : Bool) : Int :=
  let k := P - p
  x / (2 : Int) ^ k * (2 : Int) ^ k + (if mid && decide (0 < k) then (2 : Int) ^ (k - 1) else 0)

/-- R46 `E8Val`. -/
def e8Val (e : Nat) : FVal := if e = 0xFF then .nan else .fin false 1 ((e : Int) - 127)

/-- The value of a scale entry: FP32 (1) or E8 (2). -/
def scaleVal (sfmt x : Nat) : FVal := if sfmt = 1 then fval 23 x else e8Val x

/-- Whether a scale cannot be divided by: zero, infinite or NaN (R207, R228). -/
def scaleBad : FVal → Bool
  | .fin _ m _ => m == 0
  | _ => true

/-- The nearest integer to an exact quotient of two finite values, ties to even; the divisor is not zero. -/
def quotNearest (neg : Bool) (m : Nat) (e : Int) (m' : Nat) (e' : Int) : Int :=
  let x := m * 2 ^ (e - e').toNat
  let y := m' * 2 ^ (e' - e).toNat
  let r := x / y
  let up := decide (y < 2 * (x % y)) || (2 * (x % y) == y && r % 2 == 1)
  let z : Int := ((if up then r + 1 else r : Nat) : Int)
  if neg then -z else z

/-- `a ≤ b` for two finite values that are not negative. -/
def finLe (m : Nat) (e : Int) (m' : Nat) (e' : Int) : Bool :=
  decide (m * 2 ^ (e - e').toNat ≤ m' * 2 ^ (e' - e).toNat)

end Sys2Proof.Machine
end

