-- ==== Sys2Proof/Syntax.lean ====
section
/-!
DEFINITION. The steps of the part, as syntax: one constructor of `Instr` per row of the table of operations and
events (95).  A row that is an instruction carries the fields of its 96-bit word (R83); a row that is an event of
another agent carries what identifies the agent and what the outside supplies.
-/

namespace Sys2Proof

/-- An operand specifier (R85). `rsv k` is the reserved code `0x7B + k`. -/
inductive Opnd where
  | c (n : BitVec 6)
  | v (n : BitVec 5)
  | g (n : BitVec 4)
  | q (n : BitVec 3)
  | wid
  | vcid
  | slot
  | rsv (k : Fin 5)
  deriving DecidableEq, Repr, Inhabited

/-- The HINT field (R14, R90): the counters to drain, the counter to charge (0 for none), the pace. (DEDUCED, log 8.) -/
structure Hint where
  waitmask : BitVec 8
  sbset : BitVec 4
  pace : BitVec 4
  deriving DecidableEq, Repr, Inhabited

/-- The fields of an instruction word other than OP (R83). -/
structure Fields where
  hint : Hint
  neg : Bool
  gidx : BitVec 4
  d : Opnd
  a : Opnd
  b : Opnd
  md : BitVec 12
  imm : BitVec 32
  deriving DecidableEq, Repr, Inhabited

/-- The three engines of a core that take commands (R197). -/
inductive Engine where
  | copy
  | matrix
  | quant
  deriving DecidableEq, Repr, Inhabited

/-- A message that arrives from another module of the flock: the flock job and the vcore that it is for, the sender's endpoint,
and what SEND made of it (R284, R286). (DEDUCED, log 49.) -/
structure FarMsg where
  job : Nat
  vcore : Nat
  sender : Nat
  mode : Nat
  channel : Nat
  tag : Nat
  payload : List Byte
  deriving DecidableEq, Repr, Inhabited

/-- One constructor per row of the table of operations and events. -/
inductive Instr where
  /-- ADD (R119). Adds two integer operands, wrapping or saturating under SAT, into a c register. -/
  | add (f : Fields)
  /-- SUB (R119). Subtracts B from A, wrapping or saturating under SAT. -/
  | sub (f : Fields)
  /-- MUL (R119). Writes the low n bits of the integer product. -/
  | mul (f : Fields)
  /-- MULH (R119). Writes the signed upper half of the integer product. -/
  | mulh (f : Fields)
  /-- MULHN (R119). Writes the unsigned upper half of the integer product. -/
  | mulhn (f : Fields)
  /-- DIV (R120). Signed division truncating toward zero, with fixed results for the boundary cases and no trap. -/
  | div (f : Fields)
  /-- DIVN (R120). Unsigned division with fixed results for division by zero. -/
  | divn (f : Fields)
  /-- REM (R120). Signed remainder with the sign of the dividend. -/
  | rem (f : Fields)
  /-- REMN (R120). Unsigned remainder. -/
  | remn (f : Fields)
  /-- MAD (R119). Writes d + a × b with one wrap or saturation, reading D first. -/
  | mad (f : Fields)
  /-- AND (R119). Bitwise and of two integer operands. -/
  | andI (f : Fields)
  /-- OR (R119). Bitwise or of two integer operands. -/
  | orI (f : Fields)
  /-- XOR (R119). Bitwise exclusive or of two integer operands. -/
  | xorI (f : Fields)
  /-- ANDN (R119). Writes a & ~b. -/
  | andn (f : Fields)
  /-- SHL (R119). Shifts left by the amount mod n. -/
  | shl (f : Fields)
  /-- SHR (R119). Shifts right with zero fill. -/
  | shr (f : Fields)
  /-- SAR (R119). Shifts right filling with the sign bit. -/
  | sar (f : Fields)
  /-- ROL (R119). Rotates left by the amount mod n. -/
  | rol (f : Fields)
  /-- CLZ (R119). Counts leading zeros of the n-bit operand. -/
  | clz (f : Fields)
  /-- CTZ (R119). Counts trailing zeros of the n-bit operand. -/
  | ctz (f : Fields)
  /-- POPC (R119). Counts set bits of the n-bit operand. -/
  | popc (f : Fields)
  /-- BREV (R119). Reverses the bits of the n-bit operand. -/
  | brev (f : Fields)
  /-- CLMUL (R119). Writes the low half of the carry-less product. -/
  | clmul (f : Fields)
  /-- CLMULH (R119). Writes the high half of the carry-less product. -/
  | clmulh (f : Fields)
  /-- MIN (R119). Writes the smaller signed value. -/
  | min (f : Fields)
  /-- MAX (R119). Writes the larger signed value. -/
  | max (f : Fields)
  /-- MINN (R119). Writes the smaller unsigned value. -/
  | minn (f : Fields)
  /-- MAXN (R119). Writes the larger unsigned value. -/
  | maxn (f : Fields)
  /-- SEL (R122). Copies A or B, with the tag, as the selector guard bit chooses. -/
  | sel (f : Fields)
  /-- MOV (R122). Moves a whole register between the c, g and special classes, keeping the tag c to c. -/
  | mov (f : Fields)
  /-- MOV_IMM (R122). Writes an extended literal to a c or g register. -/
  | movImm (f : Fields)
  /-- MOVH (R122). Writes the literal into bits [63:32] of D and keeps the low half. -/
  | movh (f : Fields)
  /-- BFX (R123). Extracts a bit field, signed or unsigned. -/
  | bfx (f : Fields)
  /-- BFI (R123). Inserts a bit field into D. -/
  | bfi (f : Fields)
  /-- CMP (R121). Compares two integers and writes every bit of a guard. -/
  | cmp (f : Fields)
  /-- GOP (R121). Combines guard masks by AND, OR, XOR, ANDN or NOT. -/
  | gop (f : Fields)
  /-- CBND (R124). Narrows a capability to the cursor and a new length. -/
  | cbnd (f : Fields)
  /-- CSOFF (R124). Sets a capability's offset. -/
  | csoff (f : Fields)
  /-- CINC (R124). Adds a signed increment to a capability's offset. -/
  | cinc (f : Fields)
  /-- CPERM (R124). Masks a capability's permissions. -/
  | cperm (f : Fields)
  /-- CFLD (R124). Reads one field of a capability as untagged data. -/
  | cfld (f : Fields)
  /-- CTAG (R124). Writes a register's tag to every bit of a guard. -/
  | ctag (f : Fields)
  /-- CSEAL (R126). Seals a capability with an object type that SEALMASK grants. -/
  | cseal (f : Fields)
  /-- CUNSEAL (R126). Unseals a capability of a granted object type. -/
  | cunseal (f : Fields)
  /-- CCLR (R124). Copies a register with its tag cleared. -/
  | cclr (f : Fields)
  /-- FADD (R127). Adds two floating-point values, rounded under RM. -/
  | fadd (f : Fields)
  /-- FSUB (R127). Subtracts two floating-point values, rounded to nearest. -/
  | fsub (f : Fields)
  /-- FMUL (R127). Multiplies two floating-point values, rounded under RM. -/
  | fmul (f : Fields)
  /-- FFMA (R127). Fused multiply-add with one rounding. -/
  | ffma (f : Fields)
  /-- FDIV (R127). Floating-point division rounded to nearest. -/
  | fdiv (f : Fields)
  /-- FSQRT (R127). Floating-point square root rounded to nearest. -/
  | fsqrt (f : Fields)
  /-- FMIN (R41). IEEE minimumNumber of two values. -/
  | fmin (f : Fields)
  /-- FMAX (R41). IEEE maximumNumber of two values. -/
  | fmax (f : Fields)
  /-- FCMP (R128). Compares two floating-point values into a guard. -/
  | fcmp (f : Fields)
  /-- FCVT (R129). Converts between floating-point and integer types under RM. -/
  | fcvt (f : Fields)
  /-- FCLASS (R130). Writes a one-hot class of a floating-point value. -/
  | fclass (f : Fields)
  /-- BRA (R132). Branches PC-relative within the code region. -/
  | bra (f : Fields)
  /-- JMP (R132). Jumps to an address or through a capability, which replaces the code region. -/
  | jmp (f : Fields)
  /-- CALL (R132). Branches PC-relative and writes the return address. -/
  | call (f : Fields)
  /-- CALL_IND (R132). Jumps through a register or capability and writes the return address. -/
  | callInd (f : Fields)
  /-- RET (R132). Returns through a register or capability as JMP does. -/
  | ret (f : Fields)
  /-- REP (R106). Checks and then repeats a body of up to eight instructions with stepped register numbers. -/
  | repI (f : Fields)
  /-- YIELD (R133). Yields the issue turn and may let the slot be swapped out. -/
  | yield (f : Fields)
  /-- END (R133). Waits for all scoreboard counters to drain and ends the item, starting the next or retiring the vcore. -/
  | endItem (f : Fields)
  /-- NOP (R133). Does nothing except its hints. -/
  | nop (f : Fields)
  /-- TAIL (R134). Reads a launch header and requests a tail launch from the Drover. -/
  | tail (f : Fields)
  /-- RNG (R137). Draws the next value of a random stream and advances the stream word. -/
  | rng (f : Fields)
  /-- RNGSEED (R136). Writes a fresh stream word for a stream number. -/
  | rngseed (f : Fields)
  /-- VADD (R145). Adds vector lanes under the guard. -/
  | vadd (f : Fields)
  /-- VSUB (R145). Subtracts vector lanes. -/
  | vsub (f : Fields)
  /-- VMUL (R145). Multiplies vector lanes. -/
  | vmul (f : Fields)
  /-- VFMA (R145). Fused multiply-add per lane. -/
  | vfma (f : Fields)
  /-- VFMS (R145). Fused multiply-subtract per lane. -/
  | vfms (f : Fields)
  /-- VMIN (R145). Lane minimum. -/
  | vmin (f : Fields)
  /-- VMAX (R145). Lane maximum. -/
  | vmax (f : Fields)
  /-- VABS (R145). Lane absolute value. -/
  | vabs (f : Fields)
  /-- VNEG (R145). Lane negation. -/
  | vneg (f : Fields)
  /-- VRCP (R146). Correctly rounded reciprocal per lane. -/
  | vrcp (f : Fields)
  /-- VRSQ (R146). Correctly rounded reciprocal square root per lane. -/
  | vrsq (f : Fields)
  /-- VEXP2 (R146). Correctly rounded 2^a per lane. -/
  | vexp2 (f : Fields)
  /-- VLOG2 (R146). Correctly rounded log2 per lane. -/
  | vlog2 (f : Fields)
  /-- VAND (R147). Lane bitwise and. -/
  | vand (f : Fields)
  /-- VOR (R147). Lane bitwise or. -/
  | vor (f : Fields)
  /-- VXOR (R147). Lane bitwise exclusive or. -/
  | vxor (f : Fields)
  /-- VANDN (R147). Lane a & ~b. -/
  | vandn (f : Fields)
  /-- VSHL (R147). Lane shift left. -/
  | vshl (f : Fields)
  /-- VSHR (R147). Lane logical shift right. -/
  | vshr (f : Fields)
  /-- VSAR (R147). Lane arithmetic shift right. -/
  | vsar (f : Fields)
  /-- VPOPC (R147). Lane population count. -/
  | vpopc (f : Fields)
  /-- VCLZ (R147). Lane leading-zero count. -/
  | vclz (f : Fields)
  /-- VCLMUL (R147). Lane carry-less multiply, low or high half. -/
  | vclmul (f : Fields)
  /-- VCMP (R148). Compares lanes into a guard mask. -/
  | vcmp (f : Fields)
  /-- VSEL (R149). Selects lanes of A or B by a guard mask. -/
  | vsel (f : Fields)
  /-- VCVT (R150). Converts a part of the lanes between types. -/
  | vcvt (f : Fields)
  /-- VBCAST (R151). Broadcasts a scalar or literal to every lane. -/
  | vbcast (f : Fields)
  /-- VPERM (R151). Permutes lanes by an index vector. -/
  | vperm (f : Fields)
  /-- VSLIDE (R151). Slides lanes by a signed amount with zero fill. -/
  | vslide (f : Fields)
  /-- VCOMPRESS (R151). Packs the lanes selected by a guard into the low lanes. -/
  | vcompress (f : Fields)
  /-- VIOTA (R151). Writes per lane the count of lower set guard bits. -/
  | viota (f : Fields)
  /-- VMOVC (R152). Moves one lane to a c register. -/
  | vmovc (f : Fields)
  /-- VINS (R152). Inserts a scalar into one lane. -/
  | vins (f : Fields)
  /-- VRED (R153). Reduces the lanes to one value in a fixed order. -/
  | vred (f : Fields)
  /-- VSCAN (R154). Writes the inclusive scan of the lanes in a fixed pairing. -/
  | vscan (f : Fields)
  /-- VDOT (R155). Accumulates short dot products into 32-bit lanes. -/
  | vdot (f : Fields)
  /-- LD (R166). Loads a scalar of the type's size into a c register. -/
  | ld (f : Fields)
  /-- ST (R166). Stores a scalar and clears the granule's tag. -/
  | st (f : Fields)
  /-- LDC (R167). Loads 16 bytes with their tag. -/
  | ldc (f : Fields)
  /-- STC (R167). Stores 16 bytes and sets or clears the granule's tag. -/
  | stc (f : Fields)
  /-- LDV (R168). Loads 64 bytes into a vector register. -/
  | ldv (f : Fields)
  /-- STV (R168). Stores 64 bytes, or pushes a command record into an engine queue window. -/
  | stv (f : Fields)
  /-- GATH (R169). Gathers one element per active lane. -/
  | gath (f : Fields)
  /-- SCAT (R169). Scatters one element per active lane, highest lane winning. -/
  | scat (f : Fields)
  /-- PST (R172). Posts a scalar store to another core's L through a journal entry. -/
  | pst (f : Fields)
  /-- PST_V (R172). Posts a 64-byte vector store to another core's L. -/
  | pstV (f : Fields)
  /-- PFETCH (R170). Prefetches lines and may install translations, never trapping. -/
  | pfetch (f : Fields)
  /-- QBIND (R171). Binds a stream register to an arrival queue. -/
  | qbind (f : Fields)
  /-- QREL (R171). Unbinds a stream register. -/
  | qrel (f : Fields)
  /-- TLOCK (R186). Translates and locks the TLB entries of a region in a lock record. -/
  | tlock (f : Fields)
  /-- TUNLOCK (R186). Frees a lock record and unlocks its entries. -/
  | tunlock (f : Fields)
  /-- TPROBE (R187). Reads the covering TLB entry image without a walk. -/
  | tprobe (f : Fields)
  /-- TINV (R188). Removes the TLB entries covering an address on the targeted cores. -/
  | tinv (f : Fields)
  /-- TINV_ALL (R188). Removes every TLB entry of the targeted cores. -/
  | tinvAll (f : Fields)
  /-- TFILL (R189). Installs an entry on masked cores and serves queued misses, or reports a fault for them. -/
  | tfill (f : Fields)
  /-- LDA (R245). Load with acquire at the named scopes. -/
  | lda (f : Fields)
  /-- STL (R245). Store with release at the named scopes, after earlier PSTs retire. -/
  | stl (f : Fields)
  /-- AMO (R246). Atomic read-modify-write returning the old value. -/
  | amo (f : Fields)
  /-- CAS (R247). Compare and swap of an n-bit value. -/
  | cas (f : Fields)
  /-- CASW (R247). Compare and swap of 128 bits with the tag. -/
  | casw (f : Fields)
  /-- FENCE (R248). Orders the context's accesses within a storage scope. -/
  | fence (f : Fields)
  /-- WAITM (R249). Waits while a memory value equals B, then returns it as an acquire. -/
  | waitm (f : Fields)
  /-- WAITM_POLL (R249). Periodic re-read of a waiting WAITM's location at least every 1 µs. -/
  | waitmPoll (core slot : Nat)
  /-- HURDLE (R261). Arrives at a hurdle instance and departs when every joined item has arrived or ended. -/
  | hurdle (f : Fields)
  /-- ARRIVE (R263). Atomically adds to a 64-bit counter as a release. -/
  | arrive (f : Fields)
  /-- ARRIVE_ONE (R263). Atomically adds one to a counter as a release. -/
  | arriveOne (f : Fields)
  /-- CWAIT (R264). Waits until a memory counter reaches a target, then acquires. -/
  | cwait (f : Fields)
  /-- CWAIT_POLL (R264). Periodic re-read of a waiting CWAIT's counter at least every 1 µs. -/
  | cwaitPoll (core slot : Nat)
  /-- CWAIT_SB (R265). Waits until a scoreboard counter holds at most m. -/
  | cwaitSb (f : Fields)
  /-- CYOPEN (R270). Arrives at a cycle context with a descriptor; the last arrival opens it. -/
  | cyopen (f : Fields)
  /-- CYRES (R273). Adds to the issuer's residual partial. -/
  | cyres (f : Fields)
  /-- CYSTEP (R274). Arrives at an iteration's end; the last arrival sums, tests, publishes and releases all. -/
  | cystep (f : Fields)
  /-- CYSTAT (R277). Reads a cycle context's status word. -/
  | cystat (f : Fields)
  /-- CYCLOSE (R278). Arrives at close; the first aborts an open cycle and the last releases locks and frees it. -/
  | cyclose (f : Fields)
  /-- WUPD (R282). Writes one row of a WEIGHT tensor unless an open cycle locks it. -/
  | wupd (f : Fields)
  /-- FORK (R210). Points engines at command lists in memory. -/
  | fork (f : Fields)
  /-- RDV (R211). Waits for every forked list to end and returns the abandoned mask. -/
  | rdv (f : Fields)
  /-- INRECV (R213). Removes the oldest inbox entry and acquires its operation's writes. -/
  | inrecv (f : Fields)
  /-- INPEEK (R213). Reads an inbox entry by position without removing it. -/
  | inpeek (f : Fields)
  /-- INWAIT (R213). Waits until the inbox holds an entry or a timeout passes. -/
  | inwait (f : Fields)
  /-- INWAIT_TIMEOUT (R213). Expiry of an INWAIT's timeout, writing 0 to its guard. -/
  | inwaitTimeout (core slot : Nat)
  /-- SEND_CHAN (R286). Sends up to 16 beats to an arrival queue of an endpoint. -/
  | sendChan (f : Fields)
  /-- SEND_TG (R286). Sends a tagged message to a matched buffer of an endpoint. -/
  | sendTg (f : Fields)
  /-- SEND_IN (R286). Sends an 8-byte payload to an endpoint's inbox. -/
  | sendIn (f : Fields)
  /-- RECV (R290). Pops the oldest entry of an arrival queue, waiting while empty. -/
  | recv (f : Fields)
  /-- MATCH (R291). Arms a match entry with a tag and buffer. -/
  | matchI (f : Fields)
  /-- UNMATCH (R291). Disarms the match entry of a tag. -/
  | unmatch (f : Fields)
  /-- REDC (R294). Injects one reduction contribution into the Fold router. -/
  | redc (f : Fields)
  /-- A2AT (R309). Contributes the issuer to a transposing exchange instance as a release. -/
  | a2at (f : Fields)
  /-- MAPLD (R308). Checks and loads a layout map into the Layout Map Table. -/
  | mapld (f : Fields)
  /-- PPOP (R331). Takes the stage's next record, restarts the binding, or reports the stage's end. -/
  | ppop (f : Fields)
  /-- PPUSH (R332). Returns a capability to the reserved output slot. -/
  | ppush (f : Fields)
  /-- PSPLICE (R338). Accepts a splice payload into the pipeline's splice buffer. -/
  | psplice (f : Fields)
  /-- PSTATE (R333). Returns a capability to the stage's state area. -/
  | pstate (f : Fields)
  /-- PEND (R332). Finishes the record in hand as output or hole, as a release. -/
  | pend (f : Fields)
  /-- DEMIT (R228). Converts a drained row and writes it to a tensor, ending the handler. -/
  | demit (f : Fields)
  /-- DDROP (R229). Ends the handler without writing. -/
  | ddrop (f : Fields)
  /-- DSTAT (R229). Reads the drained command's status word. -/
  | dstat (f : Fields)
  /-- TIDLD (R55). Loads a tensor identifier entry unless locked, busy or malformed. -/
  | tidld (f : Fields)
  /-- TIDST (R55). Stores a tensor identifier entry to memory. -/
  | tidst (f : Fields)
  /-- TIDINV (R55). Invalidates a tensor identifier unless locked or busy. -/
  | tidinv (f : Fields)
  /-- TRAP (R355). Raises SYSCALL after its effect. -/
  | trapI (f : Fields)
  /-- ERET (R356). Returns from a trap, restoring mode, IE, region and PC or repetition. -/
  | eret (f : Fields)
  /-- UPRET (R357). Resumes a faulted fibre from its fault-buffer entry and frees it. -/
  | upret (f : Fields)
  /-- UPRET_LEAVE (R357). Leaves the page-fault upcall by clearing INUP. -/
  | upretLeave (f : Fields)
  /-- SYSRD (R358). Reads a system register. -/
  | sysrd (f : Fields)
  /-- SYSWR (R358). Writes a system register within its access rules. -/
  | syswr (f : Fields)
  /-- WFI (R359). Waits until an item is pending or a timeout passes. -/
  | wfi (f : Fields)
  /-- WFI_TIMEOUT (R359). Expiry of a WFI's timeout. -/
  | wfiTimeout (core slot : Nat)
  /-- CTXSAVE (R362). Stops a slot, writes its context record and detaches the vcore. -/
  | ctxsave (f : Fields)
  /-- CTXLOAD (R363). Checks a context record and restores it into a slot. -/
  | ctxload (f : Fields)
  /-- BKPT (R355). Raises BREAKPOINT precisely. -/
  | bkpt (f : Fields)
  /-- PREQ (R360). Reports and clears the resumed flag in a guard. -/
  | preq (f : Fields)
  /-- ISSUE_CHOICE (R110). Each core cycle the core picks one ready context to issue. -/
  | issueChoice (core : Nat)
  /-- TAKE_PENDING (R347). At an instruction boundary takes one pending asynchronous trap or interrupt while IE is set. -/
  | takePending (core slot : Nat)
  /-- TIMER (R350). TIME reaches TIMECMP with TIMER enabled, making TIMER pending. -/
  | timer (core slot : Nat)
  /-- FBFREE (R351). A write frees a fault-buffer entry owned by the context. -/
  | fbfree (core slot : Nat) (value : Word64)
  /-- QERR_CLEAR (R60). Write-one-to-clear of a queue's DBERR lets it dispatch again. -/
  | qerrClear (ctx : Nat) (value : Word64)
  /-- LOTSEED (R58). A write loads the lottery state, zero loading 0x2545_F491. -/
  | lotseed (ctx : Nat) (value : Word64)
  /-- ABORT (R389). Ends a queue's running or suspended gang early with ABORTED. -/
  | abortW (ctx : Nat) (value : Word64)
  /-- QCLEAR (R369). Ends a core's matrix quarantine once its queued commands completed. -/
  | qclear (fold : Nat) (value : Word64)
  /-- PARTITION_CHANGE (R397). An NLOG write repartitions when all contexts are idle, else sets PARTERR. -/
  | partitionChange (value : Word64)
  /-- REGISTER_WRITE (R7). A write to any register without behaviour of its own. -/
  | registerWrite (offset : Nat) (value : Word64)
  /-- COPY (R202). Copies bytes in 4 KiB chunks after NOTBEFORE and range waits. -/
  | copy (core : Nat)
  /-- DEAL (R203). Deals blocks from near memory across the Fold's cores. -/
  | deal (core : Nat)
  /-- CMARK (R204). Copy-queue marker completing after all earlier commands retire. -/
  | cmark (core : Nat)
  /-- CMARK_CANCEL (R204). At acceptance withdraws unstarted matching copy commands of the slot. -/
  | cmarkCancel (core slot : Nat) (record : BitVec 512)
  /-- QSCALE (R206). Computes and writes a tensor's scale entries. -/
  | qscale (core : Nat)
  /-- QPACK (R207). Packs elements into bit planes using the scales. -/
  | qpack (core : Nat)
  /-- QUNPACK (R208). Reads bit planes at a precision and writes integers or floats. -/
  | qunpack (core : Nat)
  /-- MMA (R215). Bit-plane matrix multiply into the accumulator tile. -/
  | mma (core : Nat)
  /-- MZERO (R220). Clears the tile and records its slot and launch. -/
  | mzero (core : Nat)
  /-- MMARK (R220). Matrix-queue marker completing after earlier commands retire. -/
  | mmark (core : Nat)
  /-- FORK_SEQUENCE_READ (R210). A fork sequencer reads its list's next command and runs it as a push. -/
  | forkSequenceRead (core : Nat) (engine : Engine)
  /-- MMA_CHECK (R222). After the last step compares checksum predictions, replaying once or quarantining. -/
  | mmaCheck (core : Nat) (mismatch again : Bool)
  /-- DRAIN_ROW_HANDOFF (R224). Hands one finished tile row to a free drain context and starts its handler. -/
  | drainRowHandoff (core : Nat)
  /-- ENGINE_COMPLETION (R212). A retiring command writes its completion entry into the inbox. -/
  | engineCompletion (core : Nat) (engine : Engine)
  /-- CXL_ACCESS_TIMEOUT (R232). A host access not completed in 100 µs ends the copy with ECC. -/
  | cxlAccessTimeout (core : Nat)
  /-- MISS_REPORT (R183). A TLB miss sends a report to the Fold service core's miss queue. -/
  | missReport (core slot : Nat)
  /-- MISS_REPORT_REPEAT (R183). Repeats a miss report every 1 µs while the miss queue is full. -/
  | missReportRepeat (core slot : Nat)
  /-- TRANSLATION_NOTICE (R191). Root firmware posts a resolved or failed notice to the faulter's inbox. -/
  | translationNotice (fold entry : Nat) (failed : Bool)
  /-- MIGRATION_COUNT_REPORT (R195). A batch of page accesses reaches the service core and may post a migration notice. -/
  | migrationCountReport (fold page : Nat)
  /-- MQTAIL_WRITE (R195). Advancing MQTAIL consumes notices and clears their queued bits. -/
  | mqtailWrite (ctx : Nat) (value : Word64)
  /-- PST_ARRIVAL (R174). The far core checks an arriving posted store and performs, refuses or NAKs it. -/
  | pstArrival (core slot entry : Nat)
  /-- PST_ACK (R174). An acknowledgement retires the journal entry. -/
  | pstAck (core slot entry : Nat)
  /-- PST_NACK (R174). A negative acknowledgement moves the entry to retrying. -/
  | pstNack (core slot entry : Nat)
  /-- PST_RETRY (R174). Back-off expiry resends a retrying posted store. -/
  | pstRetry (core slot entry : Nat)
  /-- PST_PARKED_TIMEOUT (R174). After 1 ms of retries the store is refused with PARKED. -/
  | pstParkedTimeout (core slot entry : Nat)
  /-- REMOTE_ACCESS_ARRIVAL (R405). A remote load or synchronising access is checked and performed at the far core. -/
  | remoteAccessArrival (core slot : Nat)
  /-- MESSAGE_ARRIVAL (R289). The receiving core delivers or negatively acknowledges a transmitted message. -/
  | messageArrival (core slot entry : Nat) (far : Option FarMsg)
  /-- SEND_ACK (R287). An acknowledgement retires a retry-buffer entry. -/
  | sendAck (core slot entry : Nat)
  /-- SEND_NACK (R287). A negative acknowledgement schedules a retry or retires with SEND_UNDELIVERABLE. -/
  | sendNack (core slot entry : Nat) (reason : Nat)
  /-- SEND_RETRY (R287). Back-off expiry retransmits a message. -/
  | sendRetry (core slot entry : Nat)
  /-- REDUCTION_PACKET_ARRIVAL (R298). A router adds, discards or waits on an arriving reduction packet. -/
  | reductionPacketArrival (fold : Nat)
  /-- REDUCTION_ENTRY_TIMEOUT (R298). A combining entry's timer expires and it completes with TO set. -/
  | reductionEntryTimeout (fold tree group seq : Nat)
  /-- REDUCTION_RESULT_ARRIVAL (R300). A result going down is forwarded and delivered to waiting contexts. -/
  | reductionResultArrival (fold : Nat)
  /-- PUSH_MODE_RETURN (R303). The external switch's returned packet is taken as the root result. -/
  | pushModeReturn (fold : Nat) (gaddr header cset : Word64) (payload : BitVec 512)
  /-- PUSH_MODE_TIMEOUT (R303). No return within RTIMEOUT ends the reduction with TIMEOUT. -/
  | pushModeTimeout (fold tree group seq : Nat)
  /-- EXCHANGE_BLOCK (R311). Streams one 64 KiB block of a participant's source to its destinations. -/
  | exchangeBlock (ctx entry part : Nat)
  /-- EXCHANGE_DELIVERY (R312). Writes a participant's exchange completion entry and releases its scoreboard entries. -/
  | exchangeDelivery (ctx entry part : Nat)
  /-- CYCLE_HARD_DEADLINE (R276). TIME reaching a hard DEADLINE ends the cycle and resumes participants at EXIT. -/
  | cycleHardDeadline (ctx cycle : Nat)
  /-- DOORBELL (R60). A doorbell write queues packets, notes HELD or sets DBERR. -/
  | doorbell (ctx queue : Nat) (value : BitVec 32)
  /-- DISPATCH (R68). The Drover picks a ready queue by lottery and starts its head packet. -/
  | dispatch (ctx : Nat)
  /-- LAUNCH (R67). Checks a launch header and image and places the gang's vcores. -/
  | launch (ctx queue : Nat)
  /-- PIPE_START (R323). Checks and starts a pipeline with its stages and workers. -/
  | pipeStart (ctx queue : Nat)
  /-- PIPE_SPLICE (R338). A SPLICE packet submits a splice payload to an active pipeline. -/
  | pipeSplice (ctx queue : Nat)
  /-- COLL (R302). Reduces global buffers chunk by chunk through service cores. -/
  | coll (ctx queue : Nat)
  /-- DETLEVEL (R66). Sets the queue's determinism level and trace pointer. -/
  | detlevel (ctx queue : Nat)
  /-- FENCE_PACKET (R66). Completes when every packet it waits for has completed. -/
  | fencePacket (ctx queue : Nat)
  /-- SIGNAL_STORE (R66). Writes VALUE to ADDR as a SYSTEM release. -/
  | signalStore (ctx queue : Nat)
  /-- SIGNAL_ADD (R66). Atomically adds VALUE to ADDR as a SYSTEM release. -/
  | signalAdd (ctx queue : Nat)
  /-- WAITV (R66). Waits until a masked memory condition holds. -/
  | waitv (ctx queue : Nat)
  /-- WAITV_POLL (R66). Periodic re-read of a WAITV's location at least every 1 µs. -/
  | waitvPoll (ctx queue : Nat)
  /-- WAIT_TIMEOUT (R66). A WAITV's TIMEOUT passes and it completes with WAIT_TIMEOUT. -/
  | waitTimeout (ctx queue : Nat)
  /-- PREEMPT (R66). Sends the Crook to stop the gang of a queue, optionally setting HELD. -/
  | preempt (ctx queue : Nat)
  /-- RESERVING (R69). A head not ready for 100 µs becomes reserving. -/
  | reserving (ctx queue : Nat)
  /-- SLOT_SWAP (R75). Swaps a waiting resident slot out for a ready non-resident one and writes held entries. -/
  | slotSwap (core : Nat)
  /-- SWAP_QUANTUM_EXPIRY (R75). A slot resident for 20 µs is swapped out when another is ready. -/
  | swapQuantumExpiry (core : Nat)
  /-- CROOK_SAVE (R366). Once every engine has acknowledged, the Crook saves each slot and frees the slots. -/
  | crookSave (ctx queue : Nat)
  /-- GANG_RESUME (R368). A suspended gang whose slots are free is restored in ascending vcore order. -/
  | gangResume (ctx queue : Nat)
  /-- SOURCE_ADMIT (R327). The Drover admits the next source record or splice into area 0 when room and bytes allow. -/
  | sourceAdmit (ctx pipe : Nat)
  /-- SINK_WRITE (R328). The Drover writes the last stage's next record to the sink ring and advances HEAD. -/
  | sinkWrite (ctx pipe : Nat)
  /-- SHEPHERD_SAMPLE (R335). Every 10 µs the Shepherd may mark a worker to move between stages. -/
  | shepherdSample (ctx pipe : Nat)
  /-- REPORT (R380). Byvon writes and signs an attestation report. -/
  | report
  /-- JOIN (R381). Byvon verifies an enclave descriptor and admits the module. -/
  | join
  /-- JOIN_KEY (R382). Byvon takes a member's encapsulated session key and derives pair keys. -/
  | joinKey
  /-- REVOKE (R385). Byvon applies a quorum-signed revocation of a member. -/
  | revoke
  /-- THAW (R387). Byvon resumes a frozen master as it stood. -/
  | thaw
  /-- SCRUB (R387). Byvon zeroes and frees a frozen master's state. -/
  | scrub
  /-- BAD_OP (R378). A mailbox command of an unknown OP completes with BAD_OP. -/
  | badOp
  /-- LINK_AUTH_FAILURE (R383). An Olgus packet failing authentication is discarded and retried, freezing the port after 16. -/
  | linkAuthFailure (port : Nat)
  /-- POWER_GOOD (R400). Power-good starts FW_CHECK and Byvon's firmware verification. -/
  | powerGood (badImage : Option Nat)
  /-- REDUCED (R400). The device enters REDUCED service with die 0 and context 0. -/
  | reduced
  /-- FULL (R400). The device enters FULL service on every die, stack and link. -/
  | full
  /-- THROTTLED (R401). Power above CAP or 100 °C lowers the clocks in 50 MHz steps. -/
  | throttled (watts tjmax : Nat)
  /-- OVERTEMP_POWER_OFF (R401). At 110 °C the module powers off. -/
  | overtempPowerOff (tjmax : Nat)
  /-- TIME_SYNC (R399). Root firmware holds or sets TIME forward to keep modules in step. -/
  | timeSync (value : Word64)
  /-- LINK_STATE_CHANGE (R398). An Olgus port trains, comes up or goes down, changing LINKST. -/
  | linkStateChange (port state : Nat)
  /-- HOST_CXL_ACCESS (R395). A host CXL.mem access to device memory, refused on owned ranges. -/
  | hostCxlAccess (write : Bool) (address : Nat) (bytes : List Byte)
  /-- NOTBEFORE_REACHED (R202). TIME reaches a waiting copy or DEAL command's NOTBEFORE and the command starts its first access. -/
  | notbeforeReached (core : Nat)
  /-- NO_PORT_UP_TIMEOUT (R398). A SEND, PST or synchronising access to another module that finds no port up on its route for 1 ms meets GONE or REVOKED. -/
  | noPortUpTimeout (core slot : Nat) (posted : Bool) (entry : Nat)
  /-- POWER_LOSS (R375). Module power is lost, possibly between committing a one-time index and releasing its signature. -/
  | powerLoss
  /-- CLOCK_RESTORE (R401). Once power falls to CAP or below and the junction cools, the clocks return to nominal and STATE leaves THROTTLED. -/
  | clockRestore (watts tjmax : Nat)
  /-- HOST_PORT_TRAINING (R231). A PCIe/CXL host port trains or goes down, which decides whether port 1 carries CXL.cache traffic. -/
  | hostPortTraining (port : Nat) (trained : Bool)
  /-- CORE_REPAIR (R368). Repair lowers a core's OFFER while a gang is suspended, so its resumption meets CONTEXT_FIT and re-placement. -/
  | coreRepair (core offer : Nat)
  deriving DecidableEq, Repr, Inhabited

end Sys2Proof
end

