-- ==== Sys2Proof/Config.lean ====
section
/-!
DEFINITION. What the part fixes (R1, R2, R56), what the outside and the passing of time decide, and the free values:
what the specification leaves open.  A free value is an opaque constant, so that nothing can be proved of it.
-/

namespace Sys2Proof

/-- One step of some agent: the nanoseconds of TIME that pass before it (R5), and the step. (DESIGN CHOICE, log 100.) -/
structure Turn where
  dt : Nat
  what : Instr
  /-- A buffer word that is upset as the turn begins: its number, and what it then holds (R160). (DESIGN CHOICE, log 100.) -/
  upset : Option (Nat × BitVec 64) := none
  deriving DecidableEq, Repr, Inhabited

namespace Config

/-- Enabled compute cores (R1). -/
def cores : Nat := 2048
/-- Folds (R1). -/
def folds : Nat := 128
/-- Bytes of a core's W, A, Y and L buffers (R1). -/
def bytesW : Nat := 768 * 1024
def bytesA : Nat := 1024 * 1024
def bytesY : Nat := 256 * 1024
def bytesL : Nat := 256 * 1024

/-- DESIGN CHOICE (log 1). The order in which the agents act and the time between their steps, which the
specification does not fix, and what the outside supplies: the n-th turn of the part. -/
opaque nextTurn : Nat → Turn

/-- A value the specification leaves open, the n-th that a run meets. -/
opaque freeNat : Nat → Nat
/-- Which free queue slot, state slot or area of a pipeline a record takes (R340, R342): a number for each pipeline block, kind of choice
(0 queue slot, 1 state slot, 2 area) and sequence number, so that two runs choose alike (R393). -/
opaque freePick : BitVec 512 → Nat → Nat → Nat

/-- TVAL of a trap for which the specification names none: by the instruction's OP and what it names. (DESIGN CHOICE, log 30.) -/
opaque freeTval : Nat → Nat → Nat

/-- The TAG of a FORK list command that could not be read, by its address. (DESIGN CHOICE, log 88.) -/
opaque unreadTag : Nat → Nat

/-- How a retry-buffer entry shows its mode and its length in its second doubleword (R361 gives no layout). (PRESUMED, log 68.) -/
opaque retryModeLength : Nat → Nat → Nat

/-! ### What Byvon is given, in layouts that the specification does not state (R378, R381, R382, R385, R387) -/

/-- An enclave descriptor (R381): members as (number, HSS public key), modules as (device index, identity, member), the
signatures by member, and the bytes that they sign. -/
structure EnclaveDesc where
  flock : Nat
  quorum : Nat
  members : List (Nat × Nat)
  modules : List (Nat × Nat × Nat)
  allow : List Nat
  paddocks : List Nat
  signed : List Byte
  signatures : List (Nat × List Byte)
  deriving DecidableEq, Repr, Inhabited

/-- A JOIN block of kind KEY (R382): the member, and its encapsulation. -/
structure KeyBlock where
  member : Nat
  cipher : List Byte
  deriving DecidableEq, Repr, Inhabited

/-- A revocation record (R385): the signers with their signatures, and the bytes that they sign. -/
structure RevokeRecord where
  flock : Nat
  member : Nat
  epoch : Nat
  signed : List Byte
  signatures : List (Nat × List Byte)
  deriving DecidableEq, Repr, Inhabited

/-- A master that THAW or SCRUB names (R387): KIND, UNIT, SLOT and CORE as in a freeze report; UNIT is the number of a drain
context as well. -/
structure MasterName where
  kind : Nat
  unit : Nat
  slot : Nat
  core : Nat
  deriving DecidableEq, Repr, Inhabited

/-- Bytes of the request block of a mailbox command. (DESIGN CHOICE, log 75.) -/
opaque requestBytes : Nat → Nat
/-- A JOIN block is of kind KEY. -/
opaque isKeyBlock : List Byte → Bool
opaque readDescriptor : List Byte → Option EnclaveDesc
opaque readKeyBlock : List Byte → Option KeyBlock
opaque readRevoke : List Byte → Option RevokeRecord
opaque readMaster : List Byte → Option MasterName
/-- The physical ranges that the paddocks of an enclave own, first byte, end, paddock: R386 does not say how Byvon learns
them. -/
opaque ownedRanges : List Byte → List (Nat × Nat × Nat)

/-! ### Keys and signatures (R375 to R377, R382): the algorithms are those of RFC 8554 and FIPS 203, and the keys secret -/

/-- The HSS public key of the module, 60 bytes as a number. -/
opaque hssKey : Nat
/-- The signature of a message with a one-time index. (DESIGN CHOICE, log 76.) -/
opaque hssSign : Nat → List Byte → List Byte
/-- Whether a signature of a message verifies under a public key. -/
opaque hssVerify : Nat → List Byte → List Byte → Bool
/-- The ML-KEM-1024 public key of a power-up, and what its private key decapsulates. -/
opaque mlkemPublic : Nat → List Byte
opaque mlkemOpen : Nat → List Byte → List Byte
/-- The digests of the firmware images that a power-up loads, in load order. -/
opaque fwDigests : Nat → List Nat

/-! ### Links -/

/-- The device index of the module at the far end of an Olgus port (R398). -/
opaque portPeer : Nat → Nat
/-- Whether a port of a router (1 to 4, or 16 and the Olgus port of LINK) leads toward the module of a device index (R385). -/
opaque leadsTo : Nat → Nat → Nat → Bool
/-- The capability that PSTATE gives for a state area whose length no capability holds exactly (R333), by the area's first byte and length. -/
opaque freeState : Nat → Nat → Nat
/-- Whether the module's route to a device index leaves by an Olgus port: the route table, whose form R398 does not give. -/
opaque routeUses : Nat → Nat → Bool
/-- Which host port carries a queue's doorbell writes, by context and queue (R390): the host's own choice. (DESIGN CHOICE, log 102.) -/
opaque doorbellPort : Nat → Nat → Nat
/-- Whether a packet has passed authentication on a port since the last one that failed, at a turn (R383). -/
opaque passedBetween : Nat → Bool
/-- The Fold whose service core is told of a frozen port or host function, by KIND and UNIT (R387). (DESIGN CHOICE, log 81.) -/
opaque noticeFold : Nat → Nat → Nat

end Config

end Sys2Proof
end

