-- ==== Sys2Proof/WellFormed.lean ====
section
/-!
DEFINITION. The form of an instruction word: what each row of the opcode map (R92) accepts in its fields, and the
checks of R93 rows 2 to 7 in their order, with the reasons of R94.

`Instr.form?` is the table: one line per instruction, from the encoding tables of R105, R118 to R132, R144, R164,
R185, R209, R227, R242, R243, R260, R285, R307, R330, R354 and R54.  `Instr.check` runs the checks.  An instruction is well
formed in a context when no check fails.
-/

namespace Sys2Proof

/-- The classes of R85 that a field may accept. -/
inductive Kind where
  | c | v | g | q | special
  deriving DecidableEq, Repr

/-- How an instruction treats LIT (R87): no literal, a literal allowed in B, or LIT required; `must` carries the
FIELD that a clear LIT reports. -/
inductive LitRule where
  | no
  | may
  | must (field : Nat)
  deriving DecidableEq, Repr

/-- What the context contributes to the checks: its allotment and mode, whether it is a drain context, a service
core's context or a pipeline stage worker, and the launch header's SPAN. -/
structure DecodeEnv where
  allot : Nat
  drain : Bool
  mode : Nat
  service : Bool
  worker : Bool
  span : Nat
  deriving DecidableEq, Repr

/-- A failed check: the cause of R8 and, for TVAL, the REASON, FIELD and SPEC of R94. -/
structure DecodeTrap where
  cause : Nat
  reason : Nat
  field : Nat
  spec : Nat
  deriving DecidableEq, Repr

/-- One row of the encoding tables. -/
structure Form where
  /-- The value of OP (R92). -/
  op : Nat
  /-- The classes accepted in D, A and B; none for a field the instruction does not use. -/
  d : List Kind := []
  a : List Kind := []
  b : List Kind := []
  lit : LitRule := .no
  /-- The MOD bits that the row names, LIT apart. -/
  mmask : Nat := 0
  /-- Bit t set: the TY code t is among the types. 0 where the row has no TY. -/
  types : Nat := 0
  /-- Whether a BF16 literal must have IMM[31:16] zero (R87). -/
  bfLit : Bool := false
  /-- The FIELD of a reserved value in a field of the row's own (REASON 5), in the order of R93 row 3. -/
  own : Option Nat := none
  /-- The lowest privilege mode. -/
  priv : Nat := 0
  /-- Runs on a service core only. -/
  serviceOnly : Bool := false
  /-- Runs in a drain context, in a hart context, in a stage worker, outside one (REASON 0 otherwise). -/
  drain : Bool := true
  hart : Bool := true
  worker : Bool := true
  needWorker : Bool := false
  /-- A system instruction, whose HINT must be zero (R91). -/
  sys : Bool := false

def Opnd.kind? : Opnd → Option Kind
  | .c _ => some .c
  | .v _ => some .v
  | .g _ => some .g
  | .q _ => some .q
  | .wid => some .special
  | .vcid => some .special
  | .slot => some .special
  | .rsv _ => none

/-- The seven-bit code of a specifier (R85). -/
def Opnd.spec : Opnd → Nat
  | .c n => n.toNat
  | .v n => 0x40 + n.toNat
  | .g n => 0x60 + n.toNat
  | .q n => 0x70 + n.toNat
  | .wid => 0x78
  | .vcid => 0x79
  | .slot => 0x7A
  | .rsv k => 0x7B + k.val

namespace Fields

/-- MOD[lo + w − 1 : lo]. -/
def mod (f : Fields) (lo w : Nat) : Nat := fld f.md.toNat lo w

/-- LIT, MOD[11] (R87). -/
def lit (f : Fields) : Bool := bitAt f.md.toNat 11

/-- TY, MOD[10:7] (R88). -/
def ty (f : Fields) : Nat := f.mod 7 4

/-- IMM[lo + w − 1 : lo]. -/
def im (f : Fields) (lo w : Nat) : Nat := fld f.imm.toNat lo w

end Fields

/-- FIELD `k` when the condition holds. -/
def bad (c : Bool) (k : Nat) : Option Nat := if c then some k else none

/-- Width in bits of a type code of R88 (0 for codes that are not 0 to 9). -/
def tyWidth : Nat → Nat
  | 0 => 8
  | 1 => 16
  | 2 => 32
  | 3 => 64
  | 4 => 8
  | 5 => 16
  | 6 => 32
  | 7 => 64
  | 8 => 32
  | 9 => 16
  | _ => 0

/-- Whether a type code is a floating-point type (R88). -/
def tyFloat (t : Nat) : Bool := t == 8 || t == 9

/-- Whether a type code is a signed integer type. -/
def tySigned (t : Nat) : Bool := decide (t < 4)

namespace Form

/-- R118, R119: two operands and a result of integer type. -/
def int2 (op types : Nat) : Form :=
  { op, d := [.c], a := [.c, .special], b := [.c, .special], lit := .may, mmask := 0x780, types }

/-- R118: unary integer instructions. -/
def int1 (op : Nat) : Form := { op, d := [.c], a := [.c, .special], mmask := 0x780, types := 0xFF }

/-- R124: a capability and a data operand. -/
def cap2 (op : Nat) : Form := { op, d := [.c], a := [.c], b := [.c], lit := .may }

/-- R127: two floating-point operands; `rm` where the row has RM. -/
def fp2 (op : Nat) (rm : Bool) : Form :=
  { op, d := [.c], a := [.c], b := [.c], lit := .may, mmask := if rm then 0x783 else 0x780, types := 0x300, bfLit := true }

/-- R140: two vector operands. -/
def vec2 (op types : Nat) : Form :=
  { op, d := [.v], a := [.v, .q], b := [.v, .q, .c], lit := .may, mmask := 0x780, types, bfLit := true }

/-- R140: a unary vector instruction. -/
def vec1 (op types : Nat) : Form := { op, d := [.v], a := [.v, .q], mmask := 0x780, types }

/-- R144: SAT stands with an integer type only. -/
def satOwn (f : Fields) : Option Nat := bad (f.mod 6 1 == 1 && tyFloat f.ty) 6

/-- R164: a load, `[cA ± off]` into a register of class `k`. -/
def load (op : Nat) (k : Kind) (typed : Bool) : Form :=
  { op, d := [k], a := [.c], mmask := if typed then 0x780 else 0, types := if typed then 0x3FF else 0 }

/-- R164: a store of A at `[cD ± off]`. -/
def store (op : Nat) (k : Kind) (typed : Bool) : Form :=
  { op, d := [.c], a := [k], mmask := if typed then 0x780 else 0, types := if typed then 0x3FF else 0 }

/-- R242: MOD[6], the scope codes and IMM bits that are reserved (REASON 5). `hi` masks the IMM bits above OFF
that the row admits. -/
def ordOwn (f : Fields) (hi : Nat) (more : Option Nat) : Option Nat :=
  (bad (f.mod 6 1 == 1 || f.mod 3 3 == 7 || decide (4 < f.mod 0 3)) 6).or
    (more.or (bad (f.im 16 16 != (f.im 16 16 &&& hi)) 7))

/-- R242, R243: the ordering instructions. -/
def ord (op types : Nat) (f : Fields) (d a b : List Kind) (hi : Nat) (more : Option Nat) : Form :=
  { op, d, a, b, mmask := 0x7FF, types, own := ordOwn f hi more }

/-- R260: cycle instructions with CY in MOD[2:0]. -/
def cyc (op : Nat) (d a : List Kind) : Form := { op, d, a, mmask := 0x7, drain := false, worker := false }

/-- R354: system instructions. `immOk` says that the IMM bits outside the named field are zero. -/
def system (op : Nat) (d a b : List Kind) (immOk : Bool) (priv : Nat) (drain : Bool) : Form :=
  { op, d, a, b, own := bad (!immOk) 7, priv, drain, sys := true }

end Form

/-- Lowest mode that may read system register `n`, and lowest that may write it (R111); 3 where none may. -/
def sysRegModes (n : Nat) : Nat × Nat :=
  match n with
  | 0x000 => (0, 0)
  | 0x001 => (1, 1)
  | 0x002 => (1, 1)
  | 0x003 => (1, 1)
  | 0x004 => (0, 1)
  | 0x005 => (1, 1)
  | 0x006 => (1, 1)
  | 0x010 => (0, 1)
  | 0x011 => (0, 1)
  | 0x012 => (0, 1)
  | 0x020 => (0, 2)
  | 0x030 => (0, 3)
  | 0x031 => (0, 3)
  | 0x032 => (0, 3)
  | 0x040 => (1, 1)
  | 0x041 => (0, 0)
  | 0x042 => (0, 1)
  | 0x050 => (1, 1)
  | 0x060 => (1, 3)
  | 0x061 => (1, 3)
  | _ => (3, 3)

open Form in
/-- The encoding table: an instruction's form in a context, and its fields; `none` for an event row. -/
def Instr.form? (e : DecodeEnv) : Instr → Option (Form × Fields)
  | .add f => some ({ int2 0x001 0xFF with mmask := 0x7C0 }, f)
  | .sub f => some ({ int2 0x002 0xFF with mmask := 0x7C0 }, f)
  | .mul f => some (int2 0x003 0xFF, f)
  | .mulh f => some (int2 0x004 0x0F, f)
  | .mulhn f => some (int2 0x005 0xF0, f)
  | .div f => some (int2 0x006 0x0F, f)
  | .divn f => some (int2 0x007 0xF0, f)
  | .rem f => some (int2 0x008 0x0F, f)
  | .remn f => some (int2 0x009 0xF0, f)
  | .mad f => some ({ int2 0x00A 0xFF with mmask := 0x7C0 }, f)
  | .andI f => some (int2 0x010 0xFF, f)
  | .orI f => some (int2 0x011 0xFF, f)
  | .xorI f => some (int2 0x012 0xFF, f)
  | .andn f => some (int2 0x013 0xFF, f)
  | .shl f => some (int2 0x014 0xFF, f)
  | .shr f => some (int2 0x015 0xFF, f)
  | .sar f => some (int2 0x016 0xFF, f)
  | .rol f => some (int2 0x017 0xFF, f)
  | .clz f => some (int1 0x018, f)
  | .ctz f => some (int1 0x019, f)
  | .popc f => some (int1 0x01A, f)
  | .brev f => some (int1 0x01B, f)
  | .clmul f => some (int2 0x01C 0xF0, f)
  | .clmulh f => some (int2 0x01D 0xF0, f)
  | .min f => some (int2 0x020 0x0F, f)
  | .max f => some (int2 0x021 0x0F, f)
  | .minn f => some (int2 0x022 0xF0, f)
  | .maxn f => some (int2 0x023 0xF0, f)
  | .sel f => some ({ int2 0x024 0 with mmask := 0x01F }, f)
  | .mov f => some ({ op := 0x025, d := [.c, .g], a := [.c, .g, .special], mmask := 0x780, types := 0x88 }, f)
  | .movImm f => some ({ op := 0x025, d := [.c, .g], lit := .must 6, mmask := 0x780, types := 0x88 }, f)
  | .movh f => some ({ op := 0x026, d := [.c], lit := .must 6 }, f)
  | .bfx f => some ({ int2 0x027 0x88 with b := [.c] }, f)
  | .bfi f => some ({ int2 0x028 0x80 with b := [.c] }, f)
  | .cmp f => some ({ int2 0x029 0xFF with d := [.g], mmask := 0x787, own := bad (decide (5 < f.mod 0 3)) 6 }, f)
  | .gop f => some ({ op := 0x02A, d := [.g], a := [.g], b := if f.mod 0 3 == 4 then [] else [.g], lit := if f.mod 0 3 == 4 then .no else .may, mmask := 0x007, own := bad (decide (4 < f.mod 0 3)) 6 }, f)
  | .cbnd f => some (cap2 0x040, f)
  | .csoff f => some (cap2 0x041, f)
  | .cinc f => some (cap2 0x042, f)
  | .cperm f => some (cap2 0x043, f)
  | .cfld f => some ({ op := 0x044, d := [.c], a := [.c], mmask := 0x007, own := bad (f.mod 0 3 == 7) 6 }, f)
  | .ctag f => some ({ op := 0x045, d := [.g], a := [.c] }, f)
  | .cseal f => some (cap2 0x046, f)
  | .cunseal f => some (cap2 0x047, f)
  | .cclr f => some ({ op := 0x048, d := [.c], a := [.c] }, f)
  | .fadd f => some (fp2 0x080 true, f)
  | .fsub f => some (fp2 0x081 false, f)
  | .fmul f => some (fp2 0x082 true, f)
  | .ffma f => some (fp2 0x083 true, f)
  | .fdiv f => some (fp2 0x084 false, f)
  | .fsqrt f => some ({ op := 0x085, d := [.c], a := [.c], mmask := 0x780, types := 0x300 }, f)
  | .fmin f => some (fp2 0x086 false, f)
  | .fmax f => some (fp2 0x087 false, f)
  | .fcmp f => some ({ fp2 0x088 false with d := [.g], mmask := 0x787, own := bad (f.mod 0 3 == 7) 6 }, f)
  | .fcvt f => some ({ op := 0x089, d := [.c], a := [.c], mmask := 0x7FB, types := 0x3FF, own := bad (decide (9 < f.mod 3 4) || (decide (f.mod 3 4 < 8) && decide (f.ty < 8))) 6 }, f)
  | .fclass f => some ({ op := 0x08A, d := [.c], a := [.c], mmask := 0x780, types := 0x300 }, f)
  | .bra f => some ({ op := 0x0C0 }, f)
  | .jmp f => some ({ op := 0x0C1, a := [.c] }, f)
  | .call f => some ({ op := 0x0C2, d := [.c], mmask := 0x001, own := bad (f.mod 0 1 == 1) 6 }, f)
  | .callInd f => some ({ op := 0x0C2, d := [.c], a := [.c], mmask := 0x001, own := bad (f.mod 0 1 == 0) 6 }, f)
  | .ret f => some ({ op := 0x0C3, a := [.c] }, f)
  | .repI f => some ({ op := 0x0C4, b := [.c], lit := .may, mmask := 0x3FF }, f)
  | .yield f => some ({ op := 0x0C5 }, f)
  | .endItem f => some ({ op := 0x0C6, drain := false }, f)
  | .nop f => some ({ op := 0x0C7 }, f)
  | .tail f => some ({ op := 0x0C8, d := [.c], a := [.c], drain := false }, f)
  | .rng f => some ({ op := 0x0F0, d := [.c], a := [.c] }, f)
  | .rngseed f => some ({ op := 0x0F1, d := [.c], b := [.c], lit := .may }, f)
  | .vadd f => some ({ vec2 0x100 0x3FF with mmask := 0x7C0, own := satOwn f }, f)
  | .vsub f => some ({ vec2 0x101 0x3FF with mmask := 0x7C0, own := satOwn f }, f)
  | .vmul f => some ({ vec2 0x102 0x3FF with mmask := 0x7C0, own := satOwn f }, f)
  | .vfma f => some ({ vec2 0x103 0x3FF with mmask := 0x7C0, own := satOwn f }, f)
  | .vfms f => some ({ vec2 0x104 0x3FF with mmask := 0x7C0, own := satOwn f }, f)
  | .vmin f => some (vec2 0x105 0x3FF, f)
  | .vmax f => some (vec2 0x106 0x3FF, f)
  | .vabs f => some ({ vec1 0x107 0x30F with mmask := 0x7C0, own := satOwn f }, f)
  | .vneg f => some ({ vec1 0x108 0x30F with mmask := 0x7C0, own := satOwn f }, f)
  | .vrcp f => some (vec1 0x110 0x300, f)
  | .vrsq f => some (vec1 0x111 0x300, f)
  | .vexp2 f => some (vec1 0x112 0x300, f)
  | .vlog2 f => some (vec1 0x113 0x300, f)
  | .vand f => some (vec2 0x120 0x3FF, f)
  | .vor f => some (vec2 0x121 0x3FF, f)
  | .vxor f => some (vec2 0x122 0x3FF, f)
  | .vandn f => some (vec2 0x123 0x3FF, f)
  | .vshl f => some (vec2 0x124 0xFF, f)
  | .vshr f => some (vec2 0x125 0xFF, f)
  | .vsar f => some (vec2 0x126 0xFF, f)
  | .vpopc f => some (vec1 0x127 0xFF, f)
  | .vclz f => some (vec1 0x128 0xFF, f)
  | .vclmul f => some ({ vec2 0x129 0xF0 with mmask := 0x781 }, f)
  | .vcmp f => some ({ vec2 0x130 0x3FF with d := [.g], mmask := 0x787, own := bad (if tyFloat f.ty then f.mod 0 3 == 7 else decide (5 < f.mod 0 3)) 6 }, f)
  | .vsel f => some ({ vec2 0x131 0x3FF with mmask := 0x79F }, f)
  | .vcvt f => some ({ op := 0x132, d := [.v], a := [.v], mmask := 0x7FB, types := 0x3FF, own := (bad (decide (9 < f.mod 3 4) || (decide (f.mod 3 4 < 8) && decide (f.ty < 8) && f.mod 0 2 != 0)) 6).or (bad (f.im 3 29 != 0 || decide (Nat.max (tyWidth f.ty) (tyWidth (f.mod 3 4)) / Nat.min (tyWidth f.ty) (tyWidth (f.mod 3 4)) ≤ f.im 0 3)) 7) }, f)
  | .vbcast f => some ({ op := 0x140, d := [.v], a := if f.lit then [] else [.c, .special], lit := .may, mmask := 0x780, types := 0x3FF, bfLit := true }, f)
  | .vperm f => some (vec2 0x141 0x3FF, f)
  | .vslide f => some ({ vec2 0x142 0x3FF with b := [.c], bfLit := false }, f)
  | .vcompress f => some ({ op := 0x143, d := [.v], a := [.v, .q], b := [.g], mmask := 0x780, types := 0x3FF }, f)
  | .viota f => some ({ op := 0x144, d := [.v], a := [.g], mmask := 0x780, types := 0xFF }, f)
  | .vmovc f => some ({ op := 0x145, d := [.c], a := [.v, .q], b := [.c], lit := .may, mmask := 0x780, types := 0x3FF }, f)
  | .vins f => some ({ op := 0x146, d := [.v], a := [.c, .special], b := [.c], lit := .may, mmask := 0x780, types := 0x3FF }, f)
  | .vred f => some ({ vec1 0x150 0x3FF with d := [.c], mmask := 0x7C7, own := bad (decide (5 < f.mod 0 3) || (tyFloat f.ty && (f.mod 6 1 == 1 || decide (2 < f.mod 0 3)))) 6 }, f)
  | .vscan f => some ({ vec1 0x151 0x3FF with mmask := 0x7C7, own := bad (decide (5 < f.mod 0 3) || (tyFloat f.ty && (f.mod 6 1 == 1 || decide (2 < f.mod 0 3)))) 6 }, f)
  | .vdot f => some ({ vec2 0x152 0x211 with mmask := 0x7E0, bfLit := false, own := bad ((f.mod 5 1 == 1 && f.ty != 0) || (f.mod 6 1 == 1 && tyFloat f.ty)) 6 }, f)
  | .ld f => some (load 0x200 .c true, f)
  | .st f => some (store 0x201 .c true, f)
  | .ldc f => some (load 0x202 .c false, f)
  | .stc f => some (store 0x203 .c false, f)
  | .ldv f => some (load 0x204 .v false, f)
  | .stv f => some (store 0x205 .v false, f)
  | .gath f => some ({ load 0x206 .v true with b := [.v] }, f)
  | .scat f => some ({ store 0x207 .v true with b := [.v] }, f)
  | .pst f => some ({ store 0x208 .c true with mmask := 0x7C0, drain := false, own := bad (f.mod 6 1 == 1) 6 }, f)
  | .pstV f => some ({ store 0x208 .v true with mmask := 0x7C0, drain := false, own := bad (f.mod 6 1 == 0 || f.ty != 0) 6 }, f)
  | .pfetch f => some ({ op := 0x209, a := [.c], mmask := 0x00F }, f)
  | .qbind f => some ({ op := 0x20A, d := [.q], b := [.c], lit := .may, drain := false }, f)
  | .qrel f => some ({ op := 0x20B, d := [.q], drain := false }, f)
  | .tlock f => some ({ op := 0x220, d := [.c], a := [.c], drain := false }, f)
  | .tunlock f => some ({ op := 0x221, d := [.c], b := [.c], lit := .may, drain := false }, f)
  | .tprobe f => some ({ op := 0x222, d := [.c], a := [.c], priv := 1, drain := false }, f)
  | .tinv f => some ({ op := 0x223, a := [.c], b := if e.service then [.c] else [], lit := if e.service then .may else .no, mmask := 0x001, own := bad (f.mod 0 1 == 1) 6, priv := 1, drain := false }, f)
  | .tinvAll f => some ({ op := 0x223, b := if e.service then [.c] else [], lit := if e.service then .may else .no, mmask := 0x001, own := bad (f.mod 0 1 == 0) 6, priv := 1, drain := false }, f)
  | .tfill f => some ({ op := 0x224, d := [.c], a := [.c], b := [.c], lit := .may, mmask := 0x001, priv := 2, serviceOnly := true, drain := false }, f)
  | .lda f => some (ord 0x240 0x3FF f [.c] [.c] [] 0 none, f)
  | .stl f => some (ord 0x241 0x3FF f [.c] [.c] [] 0 none, f)
  | .amo f => some (ord 0x242 0x1CC f [.c] [.c] [.c] 0x3F ((bad ((f.ty == 8) != (f.im 16 4 == 9)) 6).or (bad (decide (9 < f.im 16 4)) 7)), f)
  | .cas f => some (ord 0x243 0xCC f [.c] [.c] [.c] 0x70 (bad (f.im 22 1 == 1 && f.im 20 1 == 0) 7), f)
  | .casw f => some (ord 0x244 0 f [.c] [.c] [.c] 0x70 ((bad (f.ty != 0) 6).or (bad (f.im 22 1 == 1 && f.im 20 1 == 0) 7)), f)
  | .fence f => some (ord 0x245 0 f [] [] [] 0x30 ((bad (f.ty != 0) 6).or (bad (f.im 0 16 != 0 || f.im 20 2 == 0) 7)), f)
  | .waitm f => some ({ ord 0x246 0xCC f [.c] [.c] [.c] 0 none with drain := false }, f)
  | .hurdle f => some ({ op := 0x280, lit := .must 7, drain := false, worker := false, own := bad (f.im 3 29 != 0 || decide (e.span < f.im 0 3)) 7 }, f)
  | .arrive f => some ({ op := 0x281, d := [.c], b := [.c], mmask := 0x001, own := bad (f.mod 0 1 == 1) 6, drain := false, worker := false }, f)
  | .arriveOne f => some ({ op := 0x281, d := [.c], mmask := 0x001, own := bad (f.mod 0 1 == 0) 6, drain := false, worker := false }, f)
  | .cwait f => some ({ op := 0x282, d := [.c], a := [.c], b := [.c], mmask := 0x040, own := bad (f.mod 6 1 == 1) 6, drain := false, worker := false }, f)
  | .cwaitSb f => some ({ op := 0x282, lit := .must 7, mmask := 0x047, own := (bad (f.mod 6 1 == 0) 6).or (bad (decide (63 < f.imm.toNat)) 7), drain := false, worker := false }, f)
  | .cyopen f => some (cyc 0x290 [.c] [.c], f)
  | .cyres f => some (cyc 0x291 [] [.c], f)
  | .cystep f => some (cyc 0x292 [.g] [], f)
  | .cystat f => some (cyc 0x293 [.c] [], f)
  | .cyclose f => some (cyc 0x294 [.c] [], f)
  | .wupd f => some ({ op := 0x2A0, d := [.c], a := [.v], b := [.c], lit := .may, mmask := 0x7FF, types := 0x104, drain := false, worker := false }, f)
  | .fork f => some ({ op := 0x300, d := [.c], a := [.c], drain := false }, f)
  | .rdv f => some ({ op := 0x301, d := [.c], drain := false }, f)
  | .inrecv f => some ({ op := 0x310, d := [.c], drain := false }, f)
  | .inpeek f => some ({ op := 0x311, d := [.c], b := [.c], lit := .may, drain := false }, f)
  | .inwait f => some ({ op := 0x312, d := [.g], b := [.c], lit := .may, drain := false }, f)
  | .sendChan f => some ({ op := 0x320, d := [.c], a := [.c], mmask := 0x7EF, own := bad (f.mod 8 2 != 0) 6, drain := false }, f)
  | .sendTg f => some ({ op := 0x320, d := [.c], a := [.c], b := [.c], mmask := 0x7EF, own := bad (f.mod 8 2 != 2 || f.mod 5 3 != 0) 6, drain := false }, f)
  | .sendIn f => some ({ op := 0x320, d := [.c], a := [.c], b := [.c], lit := .may, mmask := 0x7EF, own := (bad (f.mod 8 2 != 1 || f.mod 5 3 != 0 || f.mod 0 4 != 0) 6).or (bad (f.lit && f.im 16 16 != 0) 7), drain := false }, f)
  | .recv f => some ({ op := 0x321, d := [.v], b := [.c], lit := .may, drain := false }, f)
  | .matchI f => some ({ op := 0x322, d := [.c], a := [.c], b := [.c], drain := false }, f)
  | .unmatch f => some ({ op := 0x323, d := [.c], b := [.c], lit := .may, own := bad (f.lit && f.im 16 16 != 0) 7, drain := false }, f)
  | .redc f => some ({ op := 0x324, d := [.c], a := [.v], b := [.c], mmask := 0x7C3, types := 0x100, own := bad (f.mod 0 2 == 3) 6, drain := false }, f)
  | .a2at f => some ({ op := 0x330, d := [.c], a := [.c], b := [.c], mmask := 0x00F, drain := false, worker := false }, f)
  | .mapld f => some ({ op := 0x331, d := [.c], a := [.c], mmask := 0x00F, drain := false, worker := false }, f)
  | .ppop f => some ({ op := 0x340, d := [.c], drain := false, needWorker := true }, f)
  | .ppush f => some ({ op := 0x341, d := [.c], drain := false, needWorker := true }, f)
  | .psplice f => some ({ op := 0x342, d := [.c], a := [.c], drain := false, needWorker := true }, f)
  | .pstate f => some ({ op := 0x343, d := [.c], drain := false, needWorker := true }, f)
  | .pend f => some ({ op := 0x344, b := [.c], lit := .may, drain := false, needWorker := true }, f)
  | .demit f => some ({ op := 0x350, d := [.c], a := [.v], b := [.c], lit := .may, mmask := 0x7F0, types := 0x104, own := bad (f.mod 4 2 == 3) 6, hart := false }, f)
  | .ddrop f => some ({ op := 0x351, hart := false }, f)
  | .dstat f => some ({ op := 0x352, d := [.c], hart := false }, f)
  | .tidld f => some ({ op := 0x360, d := [.c], a := [.c], b := if f.mod 6 1 == 1 then [.c] else [], mmask := 0x07F, own := bad (f.mod 6 1 == 1 && f.mod 0 6 != 0) 6 }, f)
  | .tidst f => some ({ op := 0x361, d := [.c], b := if f.mod 6 1 == 1 then [.c] else [], mmask := 0x07F, own := bad (f.mod 6 1 == 1 && f.mod 0 6 != 0) 6 }, f)
  | .tidinv f => some ({ op := 0x362, d := [.c], b := if f.mod 6 1 == 1 then [.c] else [], mmask := 0x07F, own := bad (f.mod 6 1 == 1 && f.mod 0 6 != 0) 6 }, f)
  | .trapI f => some (system 0x380 [] [] [] (f.im 16 16 == 0) 0 true, f)
  | .eret f => some (system 0x381 [] [] [] (f.imm.toNat == 0) 1 true, f)
  | .upret f => some ({ system 0x382 [] [] [.c] (f.lit || f.imm.toNat == 0) 0 false with lit := .may, mmask := 0x001, own := (bad (f.mod 0 1 == 1) 6).or (bad (!(f.lit || f.imm.toNat == 0)) 7) }, f)
  | .upretLeave f => some ({ system 0x382 [] [] [] (f.imm.toNat == 0) 0 false with mmask := 0x001, own := (bad (f.mod 0 1 == 0) 6).or (bad (f.imm.toNat != 0) 7) }, f)
  | .sysrd f => some (system 0x383 [.c] [] [] (f.im 12 20 == 0) (sysRegModes (f.im 0 12)).1 true, f)
  | .syswr f => some (system 0x384 [] [.c] [] (f.im 12 20 == 0) (sysRegModes (f.im 0 12)).2 true, f)
  | .wfi f => some ({ system 0x385 [] [] [.c] (f.lit || f.imm.toNat == 0) 0 false with lit := .may }, f)
  | .ctxsave f => some (system 0x386 [.c] [.c] [.c] true 1 false, f)
  | .ctxload f => some (system 0x387 [.c] [.c] [.c] true 1 false, f)
  | .bkpt f => some (system 0x388 [] [] [] (f.im 16 16 == 0) 0 true, f)
  | .preq f => some (system 0x389 [.g] [] [] (f.imm.toNat == 0) 0 false, f)
  | _ => none

/-- A trap of R93 at field `k`. -/
def DecodeTrap.illegalOperand (reason k : Nat) (o : Opnd) : DecodeTrap := ⟨0x03, reason, k, o.spec⟩

/-- R86 for one field that the instruction uses, in the order of the reason codes; in D, `ro` says that special and
q registers are refused as destinations (REASON 8 ahead of 7, R93). -/
def Opnd.checkUsed (e : DecodeEnv) (kinds : List Kind) (k : Nat) (ro : Bool) (o : Opnd) : Option DecodeTrap :=
  match o.kind? with
  | none => some (.illegalOperand 6 k o)
  | some kd =>
    if ro && (kd == .special || kd == .q) then some (.illegalOperand 8 k o)
    else if !(kinds.contains kd) then some (.illegalOperand 7 k o)
    else
      match o with
      | .c n => if e.allot ≤ n.toNat then some (.illegalOperand 9 k o) else none
      | .v n => if e.drain && decide (16 ≤ n.toNat) then some (.illegalOperand 9 k o) else none
      | _ => none

/-- R86 for a field that must hold 0x00: REASON 10 where the instruction does not use it, 11 for B beside a literal. Such a field accepts no
class, and REASON 7 is not given for it. (DESIGN CHOICE, log 105.) -/
def Opnd.checkZero (e : DecodeEnv) (k reason : Nat) (ro : Bool) (o : Opnd) : Option DecodeTrap :=
  match o.kind? with
  | none => some (.illegalOperand 6 k o)
  | some kd =>
    if ro && (kd == .special || kd == .q) then some (.illegalOperand 8 k o)
    else
      match o with
      | .c n =>
        if e.allot ≤ n.toNat then some (.illegalOperand 9 k o)
        else if n = 0 then none else some (.illegalOperand reason k o)
      | .v n => if e.drain && decide (16 ≤ n.toNat) then some (.illegalOperand 9 k o) else some (.illegalOperand reason k o)
      | _ => some (.illegalOperand reason k o)

/-- One field of R86. -/
def Opnd.check (e : DecodeEnv) (kinds : List Kind) (k : Nat) (ro : Bool) (o : Opnd) : Option DecodeTrap :=
  if kinds.isEmpty then o.checkZero e k 10 ro else o.checkUsed e kinds k ro

/-- R93 row 2, for the contexts in which an instruction is not available (R133, R164, R185, R209, R225, R227, R260,
R285, R307, R330, R354). -/
def Form.checkContext (F : Form) (e : DecodeEnv) : Option DecodeTrap :=
  if (e.drain && !F.drain) || (!e.drain && !F.hart) || (e.worker && !F.worker) || (!e.worker && F.needWorker) then
    some ⟨0x01, 0, 0, 0⟩
  else none

/-- R93 row 3. -/
def Form.checkMod (F : Form) (f : Fields) : Option DecodeTrap :=
  if fld f.md.toNat 0 11 &&& F.mmask ≠ fld f.md.toNat 0 11 then some ⟨0x02, 1, 6, 0⟩
  else if f.lit && F.lit == .no then some ⟨0x02, 2, 6, 0⟩
  else if F.types ≠ 0 && !(bitAt F.types f.ty) then some ⟨0x02, 5, 6, 0⟩
  else
    match F.own with
    | some 6 => some ⟨0x02, 5, 6, 0⟩
    | own =>
      match F.lit, f.lit with
      | .must k, false => some ⟨0x02, 5, k, 0⟩
      | _, _ =>
        if F.bfLit && f.lit && f.ty == 9 && f.im 16 16 != 0 then some ⟨0x02, 5, 7, 0⟩
        else own.map (fun k => ⟨0x02, 5, k, 0⟩)

/-- R93 rows 4 and 5; `body` is set for a word of a REP body, where every hint is forbidden (R91). -/
def Form.checkGuardHint (F : Form) (body : Bool) (f : Fields) : Option DecodeTrap :=
  if f.neg && f.gidx == 0 then some ⟨0x02, 3, 4, 0⟩
  else if ((F.sys || body) && f.hint != ⟨0, 0, 0⟩) || decide (9 ≤ f.hint.sbset.toNat) then some ⟨0x02, 4, 5, 0⟩
  else none

/-- R93 row 6, in the order D, A, B; the register rule of RNG (R137) stands with A. -/
def Form.checkSpecs (F : Form) (e : DecodeEnv) (f : Fields) : Option DecodeTrap :=
  let ro := F.op ≠ 0x20A && F.op ≠ 0x20B
  (f.d.check e F.d 1 ro).or <|
  (f.a.check e F.a 2 false).or <|
  (if F.op = 0x0F0 && f.d = f.a then some (.illegalOperand 7 2 f.a) else none).or <|
  (if f.lit && F.lit ≠ .no then f.b.checkZero e 3 11 false else f.b.check e F.b 3 false)

/-- R93 row 7. -/
def Form.checkPrivilege (F : Form) (e : DecodeEnv) : Option DecodeTrap :=
  if e.mode < F.priv || (F.serviceOnly && !e.service) then some ⟨0x04, 12, 0, 0⟩ else none

/-- The checks of R93 rows 2 to 7 on an instruction in a context; `none` when all pass. -/
def Instr.checkIn (e : DecodeEnv) (body : Bool) (i : Instr) : Option DecodeTrap :=
  match i.form? e with
  | none => some ⟨0x01, 0, 0, 0⟩
  | some (F, f) =>
    (F.checkContext e).or <| (F.checkMod f).or <| (F.checkGuardHint body f).or <|
      (F.checkSpecs e f).or <| F.checkPrivilege e

/-- The checks for a word that is not in a REP body. -/
def Instr.check (e : DecodeEnv) (i : Instr) : Option DecodeTrap := i.checkIn e false

/-- An instruction that passes every check of R93 in the context. -/
def Instr.wellFormed (e : DecodeEnv) (i : Instr) : Prop := i.check e = none

end Sys2Proof
end

