-- ==== Sys2Proof/Decode.lean ====
section
/-!
DEFINITION. Reading an instruction word and writing one (R83 to R94).

A word is 96 bits, stored as 12 bytes, lowest first (R84).  `decodeWord` is total: it names the first failed check of
R93, or answers the instruction.  `encode` writes the fields of R83 back.
-/

namespace Sys2Proof

/-- The operand that a seven-bit specifier names (R85). -/
def Opnd.ofCode (x : BitVec 7) : Opnd :=
  if x.toNat < 0x40 then .c (x.extractLsb' 0 6)
  else if x.toNat < 0x60 then .v (x.extractLsb' 0 5)
  else if x.toNat < 0x70 then .g (x.extractLsb' 0 4)
  else if x.toNat < 0x78 then .q (x.extractLsb' 0 3)
  else if x = 0x78#7 then .wid
  else if x = 0x79#7 then .vcid
  else if x = 0x7A#7 then .slot
  else if x = 0x7B#7 then .rsv 0
  else if x = 0x7C#7 then .rsv 1
  else if x = 0x7D#7 then .rsv 2
  else if x = 0x7E#7 then .rsv 3
  else .rsv 4

/-- The seven-bit specifier of an operand (R85). -/
def Opnd.code (o : Opnd) : BitVec 7 := BitVec.ofNat 7 o.spec

/-- OP, bits [9:0] (R83). -/
def opOf (w : BitVec 96) : Nat := (w.extractLsb' 0 10).toNat

/-- The other fields of a word (R83, R90). -/
def Fields.ofWord (w : BitVec 96) : Fields where
  hint := ⟨w.extractLsb' 44 8, w.extractLsb' 40 4, w.extractLsb' 36 4⟩
  neg := w.extractLsb' 35 1 == 1#1
  gidx := w.extractLsb' 31 4
  d := Opnd.ofCode (w.extractLsb' 10 7)
  a := Opnd.ofCode (w.extractLsb' 17 7)
  b := Opnd.ofCode (w.extractLsb' 24 7)
  md := w.extractLsb' 52 12
  imm := w.extractLsb' 64 32

/-- The word of an OP and fields (R83). -/
def packWord (op : Nat) (f : Fields) : BitVec 96 :=
  f.imm ++ f.md ++ f.hint.waitmask ++ f.hint.sbset ++ f.hint.pace ++ (if f.neg then 1#1 else 0#1) ++ f.gidx ++
    f.b.code ++ f.a.code ++ f.d.code ++ BitVec.ofNat 10 op

/-- The opcode map (R92), with the rows that share an OP told apart by the MOD bits that select them. -/
def instrOfOp (op : Nat) (f : Fields) : Option Instr :=
  match op with
  | 0x001 => some (.add f)
  | 0x002 => some (.sub f)
  | 0x003 => some (.mul f)
  | 0x004 => some (.mulh f)
  | 0x005 => some (.mulhn f)
  | 0x006 => some (.div f)
  | 0x007 => some (.divn f)
  | 0x008 => some (.rem f)
  | 0x009 => some (.remn f)
  | 0x00A => some (.mad f)
  | 0x010 => some (.andI f)
  | 0x011 => some (.orI f)
  | 0x012 => some (.xorI f)
  | 0x013 => some (.andn f)
  | 0x014 => some (.shl f)
  | 0x015 => some (.shr f)
  | 0x016 => some (.sar f)
  | 0x017 => some (.rol f)
  | 0x018 => some (.clz f)
  | 0x019 => some (.ctz f)
  | 0x01A => some (.popc f)
  | 0x01B => some (.brev f)
  | 0x01C => some (.clmul f)
  | 0x01D => some (.clmulh f)
  | 0x020 => some (.min f)
  | 0x021 => some (.max f)
  | 0x022 => some (.minn f)
  | 0x023 => some (.maxn f)
  | 0x024 => some (.sel f)
  | 0x025 => some (if f.lit then .movImm f else .mov f)
  | 0x026 => some (.movh f)
  | 0x027 => some (.bfx f)
  | 0x028 => some (.bfi f)
  | 0x029 => some (.cmp f)
  | 0x02A => some (.gop f)
  | 0x040 => some (.cbnd f)
  | 0x041 => some (.csoff f)
  | 0x042 => some (.cinc f)
  | 0x043 => some (.cperm f)
  | 0x044 => some (.cfld f)
  | 0x045 => some (.ctag f)
  | 0x046 => some (.cseal f)
  | 0x047 => some (.cunseal f)
  | 0x048 => some (.cclr f)
  | 0x080 => some (.fadd f)
  | 0x081 => some (.fsub f)
  | 0x082 => some (.fmul f)
  | 0x083 => some (.ffma f)
  | 0x084 => some (.fdiv f)
  | 0x085 => some (.fsqrt f)
  | 0x086 => some (.fmin f)
  | 0x087 => some (.fmax f)
  | 0x088 => some (.fcmp f)
  | 0x089 => some (.fcvt f)
  | 0x08A => some (.fclass f)
  | 0x0C0 => some (.bra f)
  | 0x0C1 => some (.jmp f)
  | 0x0C2 => some (if f.mod 0 1 = 1 then .callInd f else .call f)
  | 0x0C3 => some (.ret f)
  | 0x0C4 => some (.repI f)
  | 0x0C5 => some (.yield f)
  | 0x0C6 => some (.endItem f)
  | 0x0C7 => some (.nop f)
  | 0x0C8 => some (.tail f)
  | 0x0F0 => some (.rng f)
  | 0x0F1 => some (.rngseed f)
  | 0x100 => some (.vadd f)
  | 0x101 => some (.vsub f)
  | 0x102 => some (.vmul f)
  | 0x103 => some (.vfma f)
  | 0x104 => some (.vfms f)
  | 0x105 => some (.vmin f)
  | 0x106 => some (.vmax f)
  | 0x107 => some (.vabs f)
  | 0x108 => some (.vneg f)
  | 0x110 => some (.vrcp f)
  | 0x111 => some (.vrsq f)
  | 0x112 => some (.vexp2 f)
  | 0x113 => some (.vlog2 f)
  | 0x120 => some (.vand f)
  | 0x121 => some (.vor f)
  | 0x122 => some (.vxor f)
  | 0x123 => some (.vandn f)
  | 0x124 => some (.vshl f)
  | 0x125 => some (.vshr f)
  | 0x126 => some (.vsar f)
  | 0x127 => some (.vpopc f)
  | 0x128 => some (.vclz f)
  | 0x129 => some (.vclmul f)
  | 0x130 => some (.vcmp f)
  | 0x131 => some (.vsel f)
  | 0x132 => some (.vcvt f)
  | 0x140 => some (.vbcast f)
  | 0x141 => some (.vperm f)
  | 0x142 => some (.vslide f)
  | 0x143 => some (.vcompress f)
  | 0x144 => some (.viota f)
  | 0x145 => some (.vmovc f)
  | 0x146 => some (.vins f)
  | 0x150 => some (.vred f)
  | 0x151 => some (.vscan f)
  | 0x152 => some (.vdot f)
  | 0x200 => some (.ld f)
  | 0x201 => some (.st f)
  | 0x202 => some (.ldc f)
  | 0x203 => some (.stc f)
  | 0x204 => some (.ldv f)
  | 0x205 => some (.stv f)
  | 0x206 => some (.gath f)
  | 0x207 => some (.scat f)
  | 0x208 => some (if f.mod 6 1 = 1 then .pstV f else .pst f)
  | 0x209 => some (.pfetch f)
  | 0x20A => some (.qbind f)
  | 0x20B => some (.qrel f)
  | 0x220 => some (.tlock f)
  | 0x221 => some (.tunlock f)
  | 0x222 => some (.tprobe f)
  | 0x223 => some (if f.mod 0 1 = 1 then .tinvAll f else .tinv f)
  | 0x224 => some (.tfill f)
  | 0x240 => some (.lda f)
  | 0x241 => some (.stl f)
  | 0x242 => some (.amo f)
  | 0x243 => some (.cas f)
  | 0x244 => some (.casw f)
  | 0x245 => some (.fence f)
  | 0x246 => some (.waitm f)
  | 0x280 => some (.hurdle f)
  | 0x281 => some (if f.mod 0 1 = 1 then .arriveOne f else .arrive f)
  | 0x282 => some (if f.mod 6 1 = 1 then .cwaitSb f else .cwait f)
  | 0x290 => some (.cyopen f)
  | 0x291 => some (.cyres f)
  | 0x292 => some (.cystep f)
  | 0x293 => some (.cystat f)
  | 0x294 => some (.cyclose f)
  | 0x2A0 => some (.wupd f)
  | 0x300 => some (.fork f)
  | 0x301 => some (.rdv f)
  | 0x310 => some (.inrecv f)
  | 0x311 => some (.inpeek f)
  | 0x312 => some (.inwait f)
  | 0x320 => some (if f.mod 8 2 = 1 then .sendIn f else if f.mod 8 2 = 2 then .sendTg f else .sendChan f)
  | 0x321 => some (.recv f)
  | 0x322 => some (.matchI f)
  | 0x323 => some (.unmatch f)
  | 0x324 => some (.redc f)
  | 0x330 => some (.a2at f)
  | 0x331 => some (.mapld f)
  | 0x340 => some (.ppop f)
  | 0x341 => some (.ppush f)
  | 0x342 => some (.psplice f)
  | 0x343 => some (.pstate f)
  | 0x344 => some (.pend f)
  | 0x350 => some (.demit f)
  | 0x351 => some (.ddrop f)
  | 0x352 => some (.dstat f)
  | 0x360 => some (.tidld f)
  | 0x361 => some (.tidst f)
  | 0x362 => some (.tidinv f)
  | 0x380 => some (.trapI f)
  | 0x381 => some (.eret f)
  | 0x382 => some (if f.mod 0 1 = 1 then .upretLeave f else .upret f)
  | 0x383 => some (.sysrd f)
  | 0x384 => some (.syswr f)
  | 0x385 => some (.wfi f)
  | 0x386 => some (.ctxsave f)
  | 0x387 => some (.ctxload f)
  | 0x388 => some (.bkpt f)
  | 0x389 => some (.preq f)
  | _ => none

/-- The instruction a word names, before its fields are checked; `none` for an unassigned OP (R92). -/
def readWord (w : BitVec 96) : Option Instr := instrOfOp (opOf w) (Fields.ofWord w)

/-- R93 rows 2 to 7 on a word; `body` for a word of a REP body. -/
def decodeIn (e : DecodeEnv) (body : Bool) (w : BitVec 96) : Except DecodeTrap Instr :=
  match readWord w with
  | none => .error ⟨0x01, 0, 0, 0⟩
  | some i =>
    match i.checkIn e body with
    | some t => .error t
    | none => .ok i

/-- R93 rows 2 to 7 on a word outside a REP body. -/
def decodeWord (e : DecodeEnv) (w : BitVec 96) : Except DecodeTrap Instr := decodeIn e false w

/-- R94: the value of TVAL for a word that failed a check; `body` is the index of a body word. -/
def DecodeTrap.tval (t : DecodeTrap) (w : BitVec 96) (body : Option Nat) : Nat :=
  t.reason * 2 ^ 60 + (match body with | none => 0 | some k => 2 ^ 59 + k % 8 * 2 ^ 56) + t.field * 2 ^ 53 +
    t.spec * 2 ^ 46 + (w.extractLsb' 52 12).toNat * 2 ^ 34 + (w.extractLsb' 36 16).toNat * 2 ^ 10 + opOf w

/-- The context that checks for OP and fields alone are made in. -/
def DecodeEnv.hart : DecodeEnv := ⟨64, false, 2, false, false, 6⟩

/-- OP and fields of an instruction; `none` for an event row. -/
def Instr.opFields (i : Instr) : Option (Nat × Fields) := (i.form? DecodeEnv.hart).map (fun p => (p.1.op, p.2))

/-- The word of an instruction (R83, R92). An event has none, and gets the word of zeros, which traps. -/
def encode (i : Instr) : BitVec 96 :=
  match i.opFields with
  | some (op, f) => packWord op f
  | none => 0

/-- The twelve bytes of a word, lowest address first (R84). -/
def wordBytes (w : BitVec 96) : List Byte := natToBytes 12 w.toNat

/-- The word of twelve bytes (R84). -/
def bytesWord (bs : List Byte) : BitVec 96 := BitVec.ofNat 96 (bytesToNat bs)

/-- A context in which an instruction is available: a drain context, a service core, a stage worker or a plain hart
context, in Root mode with the whole allotment. -/
def DecodeEnv.all : List DecodeEnv :=
  [⟨64, false, 2, false, false, 6⟩, ⟨64, false, 2, false, true, 6⟩, ⟨16, true, 2, false, false, 6⟩,
    ⟨64, false, 2, true, false, 6⟩]

/-- The first context of `DecodeEnv.all` in which an instruction is well formed. -/
def Instr.home? (i : Instr) : Option DecodeEnv := DecodeEnv.all.find? (fun e => (i.check e).isNone)

/-- The instruction that the decoder reads from the bits of a table row, the first byte lowest; every bit above
`nbits` is 0. -/
def decodeTableWord (nbits w : Nat) : Option Instr :=
  match readWord (bytesWord (natToBytes 12 (w % 2 ^ nbits))) with
  | none => none
  | some i => if i.home?.isSome then some i else none

end Sys2Proof
end

