-- ==== Sys2Proof/Machine/State.lean ====
section
/-!
DEFINITION. The state of the part, as plain data, and the state after reset.

Every table (`Sparse`) has a default that is the reset value of its elements, so the reset state lists nothing.
A context is named by its key: `core × 32 + slot` for a hart context, `core × 32 + 16 + d` for a drain context; a
slot by `core × 16 + slot`.  Compute cores are 0 to 2047 (R2); the service core of Fold `f` is core `2048 + f`.
-/

namespace Sys2Proof.Machine

/-- Why the machine stops. -/
inductive Fault where
  /-- Raised by no meaning: every exception of the specification is taken as a next state. Safe: it never occurs. -/
  | none
  deriving DecidableEq, Repr

/-- Why an instruction has no meaning. -/
inductive Refusal where
  /-- Raised by the dispatcher for an instruction that has no meaning in the model. Safe: the machine stops. -/
  | notModelled (mnemonic : String)
  deriving DecidableEq, Repr

/-! ### Contexts -/

/-- A c register: 128 bits and a tag (R95, R96). -/
structure CReg where
  tag : Bool := false
  val : BitVec 128 := 0
  deriving DecidableEq, Repr, Inhabited

/-- A stream register's binding (R109). -/
structure QBind where
  bound : Bool := false
  queue : BitVec 3 := 0
  deriving DecidableEq, Repr, Inhabited

/-- The repetition buffer (R106): the REP in hand, its decoded body, the pass, the next body word, the count, and the
counter that its SBSET charges. -/
structure RepState where
  stride : Nat
  step : Nat
  len : Nat
  count : Nat
  pass : Nat
  ix : Nat
  body : List Instr
  charge : Option Nat
  pace : Nat
  deriving DecidableEq, Repr, Inhabited

/-- An engine command by its name (R252): the vcore that issued it, the stream and its number there; and for a drain handler the member
and row that it drains. -/
structure Party where
  vcore : Nat
  stream : Nat
  number : Nat
  row : Option Nat := none
  deriving DecidableEq, Repr, Inhabited

/-- What a release left at a location (R237): its clock, its issuer, and its scopes; whether an ARRIVE made it, and whether a later
ARRIVE has written the location since, so that only a CWAIT acquires it (R253). -/
structure SyncRec where
  addr : Nat
  size : Nat
  core : Nat
  slot : Nat
  agent : Nat
  storage : Nat
  clock : Sparse Nat
  arrive : Bool := false
  counted : Bool := false
  deriving DecidableEq, Repr, Inhabited

/-- What happens before a context's next access (R237, R238, R248): for every vcore the turn before which it accessed, and the rest by
its key; what it has acquired of a range of bytes alone, as first byte, length and clock; release fences not yet followed by the write
that releases (agent scope, storage scope, clock); and synchronising writes that were read without acquiring. -/
structure Known where
  clock : Sparse Nat := []
  partials : List (Nat × Nat × Sparse Nat) := []
  fences : List (Nat × Nat × Sparse Nat) := []
  seen : List SyncRec := []
  deriving DecidableEq, Repr, Inhabited

/-- A hart context or a drain context (R95 to R117). (DEDUCED, log 13.) -/
structure Ctx where
  /-- A vcore is in hand, or a handler is open. -/
  live : Bool := false
  pc : BitVec 56 := 0
  /-- The code region [base, limit) (R131). -/
  regBase : BitVec 56 := 0
  regLimit : BitVec 57 := 0
  /-- PREGION, the code region before the last trap entry (R351). -/
  pregBase : BitVec 56 := 0
  pregLimit : BitVec 57 := 0
  allot : Nat := 64
  c : Sparse CReg := []
  v : Sparse VReg := []
  g : Sparse Word64 := []
  sb : Sparse Nat := []
  q : Sparse QBind := []
  status : Word64 := 0x40
  cause : Word64 := 0
  epc : Word64 := 0
  tval : Word64 := 0
  repst : Word64 := 0
  rep : Option RepState := none
  /-- Core cycles for which PACE still holds the context (R90). -/
  hold : Nat := 0
  /-- The contexts that must issue, or stop being ready, before a yielding context is chosen again (R90). -/
  yielding : List Nat := []
  /-- The epoch in which the instruction in hand was last met as waiting (R364). -/
  blocked : Option Nat := none
  /-- TIME at which the waiting instruction in hand issued (R213, R359). -/
  waitFrom : Option Nat := none
  /-- The last instruction was a YIELD: the slot counts as waiting (R133). -/
  yielded : Bool := false
  /-- In trap entry, and frozen (R348). -/
  inTrap : Bool := false
  frozen : Bool := false
  /-- The trap entries that no ERET has ended, latest first: the slot and the journal entry of one for a refused posted store, which
  its ERET frees (R175). -/
  handling : List (Option (Nat × Nat)) := []
  /-- The order in which drain handlers started (R110), and the row a drain context has in hand. -/
  started : Nat := 0
  row : Nat := 0
  /-- The matrix command that a drain context drains, by its number in its core (R224). -/
  command : Nat := 0
  /-- That command's name, and the row (R252). -/
  stream : Option Party := none
  /-- What a drain context's handler knows; a hart context's stands in its slot, which swaps and saves keep (R238). -/
  known : Known := {}
  deriving DecidableEq, Repr, Inhabited

/-! ### Slots -/

/-- A posted-store journal entry (R173), the vcore that made it, and where its store is: `phase` 0 on its way, 1
acknowledged, 2 negatively acknowledged, 3 waiting for its back-off to pass, 4 refused at the far core for `verdict`. -/
structure JEntry where
  lid : Nat := 0
  vcore : Nat := 0
  state : Nat := 0
  reason : Nat := 0
  addr : Nat := 0
  seq : Nat := 0
  sb : Option Nat := none
  size : Nat := 0
  data : BitVec 512 := 0
  user : Bool := true
  phase : Nat := 0
  verdict : Nat := 0
  /-- The turn in which it was posted: the order of the context's stores (R176). -/
  order : Nat := 0
  /-- When its first attempt reached the far core (R174). -/
  firstAt : Option Nat := none
  nextAt : Nat := 0
  backoff : Nat := 0
  deriving DecidableEq, Repr, Inhabited

/-- A lock record (R186): the region, and the TLB entries locked for it. -/
structure LockRec where
  used : Bool := false
  lo : Nat := 0
  hi : Nat := 0
  entries : List Nat := []
  /-- After a resumption, the next address of the region whose translation is to be obtained again. -/
  due : Option Nat := none
  deriving DecidableEq, Repr, Inhabited

/-- A FORK list (R210): the kept capability, the offset of the list, and the next command. -/
structure ForkList where
  active : Bool := false
  cap : CReg := {}
  off : Nat := 0
  index : Nat := 0
  deriving DecidableEq, Repr, Inhabited

/-- An asynchronous trap that waits to be taken (R347): its order, its cause, its TVAL, and the slot whose journal holds the
refused entry (R361). -/
structure Pending where
  order : Nat
  cause : Nat
  tval : Nat
  origin : Nat := 0
  deriving DecidableEq, Repr, Inhabited

/-- What the interface of a core has for a vcore that is not resident (R361): the counter that goes down, and the trap. -/
structure Owed where
  sb : Option Nat := none
  trap : Option Pending := none
  deriving DecidableEq, Repr, Inhabited

/-- A collective in which an item has arrived and not yet departed (R262, R361): COLLOP, the operation's number (a
hurdle level or a cycle context) and the instance arrived at. -/
structure Coll where
  op : Nat
  which : Nat
  instanceNo : Nat
  /-- What the controller has answered: the status or guard with which the instruction departs, and what it acquires. -/
  answer : Option Nat := none
  clock : Sparse Nat := []
  /-- The TVAL of a MATRIX_CHECK that its arrival met and its departure raises (R160, R346). -/
  check : Option Nat := none
  deriving DecidableEq, Repr, Inhabited

/-- What a shadow word does not say of an access (R235, R252, R255): the launch, the turn, whether the access was synchronising, its
bytes, the command of an engine's or a drain handler's, whether it wrote, and whether the word records it as a reader. (DEDUCED,
log 17.) -/
structure AccessMark where
  vcore : Nat := 0
  interval : Nat := 0
  lid : Nat := 0
  turn : Nat := 0
  sync : Bool := false
  lo : Nat := 0
  hi : Nat := 0
  eng : Option Party := none
  wrote : Bool := false
  inWord : Bool := false
  deriving DecidableEq, Repr, Inhabited

/-- The model's own marks beside a shadow word: what the word was when they were made, and the accesses, in their order. (DEDUCED,
log 17.) -/
structure RaceMark where
  word : Nat := 0
  marks : List AccessMark := []
  deriving DecidableEq, Repr, Inhabited

/-- An inbox entry, and what the instruction that consumes it acquires (R212, R292, R314). -/
structure InEntry where
  val : BitVec 128
  clock : Sparse Nat := []
  deriving DecidableEq, Repr, Inhabited

/-- An inbox entry that is held outside its inbox (R75), with the tensor identifiers that its command names (R53). -/
structure HeldEntry where
  entry : InEntry
  names : List Nat := []
  deriving DecidableEq, Repr, Inhabited

/-- A 64-byte entry of an arrival queue, and what its consumption acquires (R109, R289, R292). -/
structure Beat where
  data : BitVec 512
  clock : Sparse Nat := []
  deriving DecidableEq, Repr, Inhabited

/-- A retry-buffer entry (R286, R287): the message, whether it is a release, and where it is: `phase` 0 on its way,
1 acknowledged, 2 negatively acknowledged for `reason`, 3 waiting for its back-off to pass. -/
structure REntry where
  lid : Nat
  vcore : Nat
  endpoint : Nat
  mode : Nat
  channel : Nat
  tag : Nat
  payload : List Byte
  seq : Nat
  /-- The turn in which it was sent: the order of the context's messages (R288). -/
  order : Nat := 0
  clock : Sparse Nat := []
  phase : Nat := 0
  reason : Nat := 0
  nextAt : Nat := 0
  backoff : Nat := 0
  /-- TIME of the transmission in hand (R398). -/
  sentAt : Nat := 0
  deriving DecidableEq, Repr, Inhabited

/-- A match entry (R291). -/
structure MatchEntry where
  armed : Bool := false
  tag : Nat := 0
  len : Nat := 0
  addr : Nat := 0
  deriving DecidableEq, Repr, Inhabited

/-- A reduction that a context has contributed to and whose result is outstanding (R294, R317): its key, the result buffer by its space,
its address there (physical in SPACE 0) and the page that translated it, and the core that contributed. -/
structure Redc where
  tree : Nat
  group : Nat
  seq : Nat
  space : Nat
  addr : Nat
  page : Nat := 0
  core : Nat := 0
  /-- The turn in which it contributed. -/
  stamp : Nat := 0
  /-- Its payload has been written, and its entry waits for the inbox. -/
  paid : Bool := false
  deriving DecidableEq, Repr, Inhabited

/-- The program that a vcore runs: of its launch's image, or of its stage's (R22 to R30, R329): the text, the entry, the
drain handlers (absolute addresses), the allotment, the footprints and the argument block. -/
structure Prog where
  image : Nat := 0
  text : Nat := 0
  textN : Nat := 0
  entry : Nat := 0
  handlers : List Nat := []
  allot : Nat := 64
  fpW : Nat := 0
  fpA : Nat := 0
  fpY : Nat := 0
  fpL : Nat := 0
  args : Nat := 0
  arglen : Nat := 0
  deriving DecidableEq, Repr, Inhabited

/-- A pipeline stage worker (R329 to R340): the pipeline index, the stage, the record in hand and its reserved output slot,
whether it is pushed, a restart that is due and the stage it leads to, whether the last PPOP returned 0, and whether it probes
a splice or has failed one. -/
structure Worker where
  pipe : Nat := 0
  stage : Nat := 0
  rcd : Option Nat := none
  outSlot : Nat := 0
  pushed : Bool := false
  restart : Bool := false
  /-- The restart is a move to another stage (R335). -/
  moving : Bool := false
  lastZero : Bool := false
  probing : Bool := false
  failed : Bool := false
  deriving DecidableEq, Repr, Inhabited

/-- A range that an engine command reads or writes: its space, its first address (absolute), its bytes, and whether it
writes (R161, R199). -/
structure Region where
  space : Nat
  addr : Nat
  len : Nat
  write : Bool
  deriving DecidableEq, Repr, Inhabited

/-- A command accepted by an engine queue (R197 to R199): its record, who pushed it and in which mode, the status of
a failed check, whether a FORK list sequenced it, its place in a group (R223), and what its accesses happen after. -/
structure Cmd where
  id : Nat := 0
  record : BitVec 512 := 0
  slot : Nat := 0
  lid : Nat := 0
  vcore : Nat := 0
  mode : Nat := 0
  status : Nat := 0
  detail : Nat := 0
  forked : Bool := false
  member : Nat := 0
  issuer : Nat := 0
  progress : Nat := 0
  abank : Nat := 0
  bbank : Nat := 0
  regions : List Region := []
  clock : Sparse Nat := []
  /-- The column maxima that a QSCALE under COL has formed of the blocks it has read, as magnitudes (R205, R206). -/
  maxima : List Nat := []
  /-- Its number among the commands of its vcore on this engine (R252). -/
  seq : Nat := 0
  deriving DecidableEq, Repr, Inhabited

/-- A slot: the vcore placed in it, its system registers (R111), its context window (R351), its inbox, journal and
lock records, and the marks that placement, swapping and pre-emption keep. -/
structure Slot where
  live : Bool := false
  /-- A slot that lies only in a context record, after a swap (R75). -/
  resident : Bool := true
  residentSince : Nat := 0
  /-- CTXSAVE has detached the vcore, and the slot is reserved for it (R362). -/
  detached : Bool := false
  /-- The record of the detached vcore that CTXLOAD refused with CONTEXT_FIT: the Drover re-places it (R74). -/
  refit : Option (List Byte) := none
  /-- A hard deadline has ended a cycle of the vcore while its gang was suspended: the address at which it resumes (R276). -/
  exitAt : Option Nat := none
  /-- The slot is being stopped by the Crook: its context issues nothing (R364). -/
  stopping : Bool := false
  resumed : Bool := false
  /-- The launch identity LID (R361), the vcore number and the work identifier (R28, R30). -/
  lid : Nat := 0
  vcore : Nat := 0
  wid : Word64 := 0
  uvec : Word64 := 0
  tvec : Word64 := 0
  engcap : Word64 := 0x00073F3F
  tbase : Word64 := 0
  tlimit : Word64 := 0x00FFFFFFFFFFFFFF
  seed : Word64 := 0
  rngctl : Word64 := 0
  sealmask : Word64 := 0
  timecmp : Word64 := 0xFFFFFFFFFFFFFFFF
  ien : Word64 := 0
  sregBase : BitVec 56 := 0
  sregLimit : BitVec 56 := 0
  /-- Asynchronous traps in the order of arrival, and the interrupts that are pending (R347, R350). -/
  pending : List Pending := []
  /-- The program in hand, an item that waits for its turn in a trace (R81), and a pipeline stage worker (R329). -/
  prog : Prog := {}
  startDue : Bool := false
  worker : Bool := false
  work : Worker := {}
  intrPreempt : Option Nat := none
  intrTimer : Bool := false
  /-- TIMER has become pending for the TIMECMP in hand (R350). -/
  timerDone : Bool := false
  intrInbox : Bool := false
  intrMigrate : Bool := false
  inbox : List InEntry := []
  held : List HeldEntry := []
  /-- Messages: the retry buffer, the next SEND sequence number, the arrival queues, the match table (R284 to R292). -/
  retry : Sparse REntry := []
  sendSeq : Nat := 0
  arrivals : Sparse (List Beat) := []
  matchTable : Sparse MatchEntry := []
  redcs : List Redc := []
  /-- A2ATs of the vcore that named each map entry and wrote A2_OK (R309). -/
  a2ats : Sparse Nat := []
  /-- The vcore has ended its last item, and its slot waits for its work to retire (R31). -/
  ended : Bool := false
  journal : Sparse JEntry := []
  /-- What has become of the vcore's posted stores and messages while it was not resident (R361). -/
  owed : List Owed := []
  pstSeq : Nat := 0
  locks : Sparse LockRec := []
  tensors : Sparse (BitVec 256) := []
  forks : Sparse ForkList := []
  abandoned : Nat := 0
  /-- Engine commands that a stop has taken, by engine: 2 × engine for a partly run one, 2 × engine + 1 for an unstarted one
  (R362, R365). -/
  workKept : List (Nat × Cmd) := []
  coll : Option Coll := none
  /-- The number of hurdles that the item has passed at each level (R261). -/
  hurdles : Sparse Nat := []
  /-- The synchronisation interval, the interval at the last hurdle of the span level, and what happens before the hart context's next
  access (R238, R255, R259). -/
  interval : Nat := 0
  hurdleInterval : Nat := 0
  known : Known := {}
  /-- Commands accepted so far, by engine, with A2ATs at 3 (R252). -/
  engSeq : Sparse Nat := []
  deriving DecidableEq, Repr, Inhabited

/-- A vcore of a gang that the Crook has suspended: the slot that it held, and what the context record does not carry
(R366). (DEDUCED, log 69.) -/
structure Parked where
  key : Nat
  slot : Slot
  ctx : Ctx := {}
  deriving DecidableEq, Repr, Inhabited

/-! ### Cores -/

/-- A queue holds commands and, in their place, the FORK lists of slots (R210). -/
inductive QItem where
  | cmd (c : Cmd)
  | list (slot : Nat)
  deriving DecidableEq, Repr, Inhabited

/-- The command that an engine has started: how far it is, and its sticky bits (R200, R221). -/
structure Run where
  cmd : Cmd
  phase : Nat := 0
  count : Nat := 0
  steps : Nat := 0
  dropped : Nat := 0
  ended : Nat := 0
  nextRow : Nat := 0
  sat : Bool := false
  dsat : Bool := false
  invalid : Bool := false
  replay : Bool := false
  halted : Bool := false
  /-- The checksum mismatch persisted (R222). -/
  check : Bool := false
  /-- The read values of both operands, by rows, while the command may need them again (R222, R224). -/
  rowsA : List (List Int) := []
  rowsB : List (List Int) := []
  /-- TIME at which the host access in hand was first met as not completed, and its address (R232). -/
  hostAt : Option (Nat × Nat) := none
  /-- The column maxima of a QSCALE under COL (R205). -/
  maxima : List Nat := []
  /-- What the handlers of the command that have ended knew (R230, R238). -/
  after : Sparse Nat := []
  deriving DecidableEq, Repr, Inhabited

/-- A completion entry that waits to enter an inbox (R212), and the trap that goes with it (R214, R222): the cause,
0 for none, and TVAL. -/
structure Completion where
  cmd : Cmd
  entry : BitVec 128
  cause : Nat := 0
  tval : Nat := 0
  deriving DecidableEq, Repr, Inhabited

/-- One engine of a core (R197). -/
structure EngineState where
  queue : List QItem := []
  run : Option Run := none
  /-- Matrix commands that have handed out their last row, or drain nothing, and have not ended: their handlers still run, or
  other members of the group (R216, R223). -/
  parts : List Run := []
  done : List Completion := []
  /-- Frozen after a boundary violation (R387). -/
  frozen : Bool := false
  deriving DecidableEq, Repr, Inhabited

/-- An entry of the range scoreboard (R161). -/
structure RangeEntry where
  cmd : Nat
  engine : Engine
  space : Nat
  lo : Nat
  hi : Nat
  write : Bool
  deriving DecidableEq, Repr, Inhabited

/-- An access stalled on a TLB miss (R183): the context that made it (`none` for an engine), its slot, its address, its
kind (0 load, 1 store, 2 fetch), whether its report is in the miss queue, and the fault kind its fill ended with. -/
structure Miss where
  ctx : Option Nat
  engine : Option Engine := none
  slot : Nat
  va : Nat
  kind : Nat
  reported : Bool := false
  /-- When a report last found the miss queue full. -/
  tried : Option Nat := none
  /-- The place of its report among those of the Fold (R192). -/
  order : Nat := 0
  /-- It obtains the translation of a locked region, and raises nothing (R186). -/
  locking : Bool := false
  fail : Nat := 0
  deriving DecidableEq, Repr, Inhabited

/-- A core (R1, R157, R161, R180, R197, R217). (DESIGN CHOICE, log 5.) (DESIGN CHOICE, log 106.) -/
structure Core where
  /-- The hart slot that issued last (R110). -/
  lastSlot : Nat := 3
  /-- Handlers started so far. -/
  handlers : Nat := 0
  /-- The slot that each of the four drain contexts drains for. -/
  drainSlot : Sparse Nat := []
  tlb : Sparse (BitVec 128) := []
  tlbPtr : Nat := 0
  misses : List Miss := []
  ranges : List RangeEntry := []
  nextCmd : Nat := 1
  copy : EngineState := {}
  matrix : EngineState := {}
  quant : EngineState := {}
  /-- The accumulator tile, cell (i, j) at 128 i + j, and the slot and launch of R217. -/
  tile : Sparse (BitVec 32) := []
  tileOwner : Option (Nat × Nat) := none
  /-- The tile before the command in hand, kept for its replay (R222). -/
  tileSaved : Sparse (BitVec 32) := []
  quarantined : Bool := false
  offer : Nat := 64
  /-- The slot swapped in last; before the first swap the scan begins at slot 4, and a launch leaves it as it is (R75). (DESIGN CHOICE,
  log 106.) -/
  lastSwapIn : Nat := 3
  /-- SPACE 0 accesses counted for sampling (R194), and accesses per page not yet reported (R195). -/
  sampled : Nat := 0
  pageCounts : Sparse Nat := []
  deriving DecidableEq, Repr, Inhabited

/-! ### Folds -/

/-- An entry of a service core's miss queue (R183). -/
structure MissEntry where
  key : Nat
  mask : Nat
  deriving DecidableEq, Repr, Inhabited

/-- An entry of the fault buffer (R191, R192). -/
structure FaultEntry where
  used : Bool := false
  core : Nat := 0
  slot : Nat := 0
  lid : Nat := 0
  vcore : Nat := 0
  pc : BitVec 56 := 0
  repst : Word64 := 0
  c1 : CReg := {}
  c2 : CReg := {}
  c3 : CReg := {}
  va : Nat := 0
  kind : Nat := 0
  store : Bool := false
  /-- Root firmware has posted its notice (R191). -/
  noticed : Bool := false
  deriving DecidableEq, Repr, Inhabited

/-- A page's access counter and queued bit (R195). -/
structure PageCount where
  count : Nat := 0
  queued : Bool := false
  deriving DecidableEq, Repr, Inhabited

/-- A freeze report (R387): the moment, the cause, the kind, unit, slot and core of the master, the address and LID. -/
structure Freeze where
  time : Nat
  cause : Nat
  kind : Nat
  unit : Nat
  slot : Nat
  core : Nat
  addr : Nat
  lid : Nat
  deriving DecidableEq, Repr, Inhabited

/-- A reduction packet at a router (R295): its input (0 to 15 a core, 16 the service core, 16 + p port p), its header,
CSET and wire elements. `stamp` is the turn in which a leaf packet was contributed; `late` marks the answer to a late one, which goes to
that contribution alone (R298). -/
structure RedPacket where
  input : Nat
  header : Nat
  cset : Nat
  elems : List Nat
  stamp : Nat := 0
  late : Bool := false
  deriving DecidableEq, Repr, Inhabited

/-- A combining entry (R298): its key, the tree entry it latched, when its timer expires, the packets it has added, and TO. -/
structure CombEntry where
  tree : Nat
  group : Nat
  seq : Nat
  latched : Nat
  due : Nat
  packets : List RedPacket
  timedOut : Bool := false
  deriving DecidableEq, Repr, Inhabited

/-- A packet sent out in push mode, whose return is awaited (R303): its header and CSET, the group address before it, its payload, the
Olgus port that it left by, if that was enabled, and the moment up to which a return is awaited. -/
structure PushSent where
  header : Nat
  cset : Nat
  gaddr : Word64
  elems : List Nat
  port : Option Nat
  due : Nat
  deriving DecidableEq, Repr, Inhabited

/-- A Fold (R183, R192, R195), with its router (R296 to R303): the registers of its page by offset, RTIMEOUT apart, the
last sequence completed for each group, the combining entries, packets that arrive, results that go down, and sends
whose return is awaited. -/
structure Fold where
  /-- Notices of frozen masters, oldest first (R348, R387). -/
  notices : List Freeze := []
  missQueue : List MissEntry := []
  /-- Miss reports that have arrived so far (R192). -/
  reports : Nat := 0
  faults : Sparse FaultEntry := []
  /-- Faults that have not been raised yet, in the order in which their reports arrived: the context, the address, and the place of its
  report (R192). -/
  heldFaults : List (Nat × Nat × Nat) := []
  pages : Sparse PageCount := []
  rregs : Sparse Word64 := []
  rtimeout : Nat := 64
  lastSeq : Sparse Nat := []
  comb : List CombEntry := []
  arriving : List RedPacket := []
  results : List RedPacket := []
  pushed : List PushSent := []
  deriving DecidableEq, Repr, Inhabited

/-! ### The Drover -/

/-- The head of a hardware queue (R60 to R76): whether its packet has been read, the packet, when it became the head, what
it is doing (`phase` 0 it waits, 1 it has won a decision and starts, 2 its packet runs, 3 its gang is suspended, 4 its gang is being
stopped, 6 a suspended gang has won and resumes, 7 a tail child waits for its slots), when it was first not ready and when it
became reserving, the launch, the gang that a PREEMPT stops and the queue that has asked for a stop, the tail request accepted,
and what its completion word will say. -/
structure QHead where
  loaded : Bool := false
  packet : BitVec 512 := 0
  since : Nat := 0
  phase : Nat := 0
  notReady : Option Nat := none
  reserving : Option Nat := none
  /-- A WAITV's condition as it was last read: 0 not met, 1 met, 2 the read faulted. -/
  cond : Nat := 0
  lid : Nat := 0
  /-- The level at which the launch of the packet started (R71, R76). -/
  level : Nat := 0
  target : Nat := 0
  stopper : Option Nat := none
  /-- HOLD of the PREEMPT that stops the gang. -/
  holding : Bool := false
  tail : Option (BitVec 384) := none
  ntail : Nat := 0
  tstatus : Nat := 0
  status : Nat := 0
  /-- The next chunk of a COLL, whether its result is awaited, and the status and payload that came (R302). -/
  chunk : Nat := 0
  waitsChunk : Bool := false
  chunkGot : Option (Nat × BitVec 512) := none
  /-- The turn in which the chunk was contributed. -/
  stamp : Nat := 0
  /-- What the launches of the packet that are over released: their effects, and all their accesses (R63, R71). -/
  effects : Sparse Nat := []
  deriving DecidableEq, Repr, Inhabited

/-- What a context keeps of a queue: HELD as it was last noticed (R60), the end of its trace area (R80), and what the packets
behind one that acquired happen after (R61, R66). -/
structure Queue where
  held : Bool := false
  traceEnd : Nat := 0
  clock : Sparse Nat := []
  /-- The effects of the packets that have completed, which later completion words, SIGNALs and FENCEs release (R63, R66). -/
  effects : Sparse Nat := []
  /-- The doorbell writes not yet followed by the head: the descriptor, the write index, and the turn (R371). -/
  bells : List (Nat × Nat × Nat) := []
  deriving DecidableEq, Repr, Inhabited

/-- A Layout Map Table entry (R304): the launch that loaded it, and the map. -/
structure MapEntry where
  valid : Bool := false
  lid : Nat := 0
  map : BitVec 1024 := 0
  deriving DecidableEq, Repr, Inhabited

/-- A participant of an exchange instance (R309 to R312). -/
structure ExPart where
  core : Nat
  slot : Nat
  srcSpace : Nat
  src : Nat
  dstSpace : Nat
  dst : Nat
  clock : Sparse Nat
  mode : Nat := 0
  interval : Nat := 0
  /-- Its number among the A2ATs of its vcore (R252). -/
  seq : Nat := 0
  /-- Its entries in the range scoreboard of its core. -/
  cmd : Nat := 0
  /-- Bytes of its source that have been streamed, and bytes written into its destination. -/
  read : Nat := 0
  written : Nat := 0
  delivered : Bool := false
  deriving DecidableEq, Repr, Inhabited

/-- An exchange instance (R309): the entry, its number, the launch and the map; whether it has started; and the status
and DETAIL with which it ends early. -/
structure ExInst where
  entry : Nat
  number : Nat
  lid : Nat
  map : BitVec 1024
  started : Bool := false
  status : Nat := 0
  detail : Nat := 0
  parts : Sparse ExPart := []
  deriving DecidableEq, Repr, Inhabited

/-- A Drover context (R57, R58): its lottery state and the registers of its page by offset (R193, R256, R352, R367,
R384), each 0 at reset but for LOTSTATE. -/
structure Drover where
  lotstate : Nat := 0x2545F491
  prepol : Nat := 0
  qerr : Word64 := 0
  /-- The last value written to each doorbell. -/
  doorbells : Sparse (BitVec 32) := []
  regs : Sparse Word64 := []
  sampcfg : Word64 := 0
  /-- Records of the read-set pool that are in use (R256). -/
  rsUsed : NatSet := []
  heads : Sparse QHead := []
  queues : Sparse Queue := []
  /-- The Layout Map Table and exchange instances (R304, R309). -/
  maps : Sparse MapEntry := []
  exchanges : List ExInst := []
  /-- LOG and LOGCNT of the paddock (R379), and whether the paddock is in enclave mode (R381). -/
  log : BitVec 256 := 0
  logcnt : Nat := 0
  enclave : Bool := false
  deriving DecidableEq, Repr, Inhabited

/-- A hurdle instance (R261): its level, the fields it joins on, its number, the vcores that have arrived, and what
their arrivals released. -/
structure HurdleInst where
  level : Nat
  key : Nat
  number : Nat
  arrived : List Nat
  clock : Sparse Nat
  deriving DecidableEq, Repr, Inhabited

/-- An event of a dispatch trace (R79): core, kind, vcore, ORD, and the stages of a REASSIGN. -/
structure TraceEvent where
  core : Nat
  ev : Nat
  vcore : Nat
  ord : Nat
  src : Nat := 0
  dst : Nat := 0
  deriving DecidableEq, Repr, Inhabited

/-- The trace that a launch writes or follows (R80, R81): its first address, the end of the area, the bytes and events
written, events that were lost, an area that could not be written, and the events not yet followed. -/
structure Trace where
  start : Nat := 0
  stop : Nat := 0
  count : Nat := 0
  ovf : Bool := false
  bad : Bool := false
  left : List TraceEvent := []
  deriving DecidableEq, Repr, Inhabited

/-- A launch that has started (R26 to R32, R67 to R76), named by its LID. -/
structure Gang where
  live : Bool := false
  ctx : Nat := 0
  queue : Nat := 0
  prog : Prog := {}
  span : Nat := 0
  stride : Nat := 0
  widths : List Nat := []
  extents : List Nat := []
  vcores : Nat := 0
  retired : List Nat := []
  /-- The gang is suspended by the Crook (R66). -/
  suspended : Bool := false
  /-- The flock job that the launch is bound to (R384). -/
  job : Nat := 0
  /-- The pipeline index, for a START (R322), the trace, and the status with which the gang ends when it is stopped for good. -/
  pipe : Option Nat := none
  trace : Trace := {}
  endWith : Option Nat := none
  level : Nat := 0
  encl : Bool := false
  hurdles : List HurdleInst := []
  /-- What the END of each item released, by work identifier (R253). -/
  ends : List (Nat × Sparse Nat) := []
  deriving DecidableEq, Repr, Inhabited

/-- A splice that a pipeline has accepted (R338): its payload, and who waits for its outcome: a vcore, or a queue. -/
structure Splice where
  payload : BitVec 320
  vcore : Option Nat := none
  queue : Option Nat := none
  deriving DecidableEq, Repr, Inhabited

/-- A record of a pipeline (R325 to R327): its number, its kind (4 is a hole), the slot of an area that holds it, whether a
worker has it in hand, what its consumption acquires, and a splice that no stage has taken up yet. -/
structure PRec where
  seq : Nat
  kind : Nat
  len : Nat := 0
  aux : Nat := 0
  area : Nat := 0
  ix : Nat := 0
  inHand : Bool := false
  clock : Sparse Nat := []
  splice : Option Splice := none
  deriving DecidableEq, Repr, Inhabited

/-- What a stage is bound to (R320, R329): the descriptor, the program, the image's data block and tensor records, and the
state slot. -/
structure Binding where
  desc : BitVec 256 := 0
  prog : Prog := {}
  dataAt : Nat := 0
  dataLen : Nat := 0
  tensors : List (Nat × BitVec 256) := []
  sslot : Option Nat := none
  deriving DecidableEq, Repr, Inhabited

/-- A stage (R326 to R340): in which part of the chain's history it stands (`born` and `gone` are sequence numbers), its
binding and the one that a failed splice restores, its output area, workers, state (0 RUN, 1 DRAIN, 2 PROBE), next number,
records handed out and not finished, and the workers that an INSERT took from other stages. -/
structure Stage where
  id : Nat
  born : Nat := 0
  gone : Option Nat := none
  bound : Binding := {}
  saved : Option Binding := none
  area : Nat := 0
  workers : List Nat := []
  mode : Nat := 0
  epoch : Nat := 0
  next : Nat := 0
  opened : List Nat := []
  ended : Bool := false
  taken : List (Nat × Nat) := []
  clock : Sparse Nat := []
  deriving DecidableEq, Repr, Inhabited

/-- A pipeline (R319 to R345): its launch, the START's moment, parameter block and declaration, the stages in chain order
with those that have left, the records in flight, the source, the splice buffer, the sink, the Shepherd's next sample, the
state slots in use, and outcomes that wait for an inbox. -/
structure Pipe where
  live : Bool := false
  lid : Nat := 0
  queue : Nat := 0
  startedAt : Nat := 0
  block : BitVec 512 := 0
  decl : BitVec 512 := 0
  image : Nat := 0
  stages : List Stage := []
  recs : List PRec := []
  admitted : Nat := 0
  srcAt : Nat := 0
  endIn : Bool := false
  buffer : List Splice := []
  sinkNext : Nat := 0
  head : Nat := 0
  sunk : Bool := false
  sample : Nat := 0
  slots : NatSet := []
  outcomes : List (Nat × BitVec 128) := []
  deriving DecidableEq, Repr, Inhabited

/-- A range that an open cycle locks (R270): its place, the participant it belongs to, and whether it is a weight. -/
structure CycleLock where
  weight : Bool
  vcore : Nat
  space : Nat
  core : Nat
  lo : Nat
  hi : Nat
  deriving DecidableEq, Repr, Inhabited

/-- The previous record of a cycle context (R271, R278): its launch, participants, state set and published bank, and for
each participant and identifier the entry as it stood. -/
structure CyclePrev where
  lid : Nat
  vfirst : Nat
  vcm1 : Nat
  smask : Nat
  bank : Nat
  entries : List (Nat × Nat × BitVec 256)
  deriving DecidableEq, Repr, Inhabited

/-- A cycle context (R267 to R279): `phase` 0 Free, 1 Opening, 2 Open, 3 Ended. -/
structure Cycle where
  phase : Nat := 0
  lid : Nat := 0
  desc : BitVec 512 := 0
  /-- Vcores that have arrived at the collective in hand, and the descriptors of an opening. -/
  arrived : List Nat := []
  descs : List (Nat × BitVec 512) := []
  /-- The entries of the state tensors as the opening found them: participant, identifier, entry. -/
  entries : List (Nat × Nat × BitVec 256) := []
  closing : List Nat := []
  gone : List Nat := []
  partials : Sparse (BitVec 32) := []
  resid : BitVec 32 := 0
  iter : Nat := 0
  pbank : Nat := 0
  status : Nat := 0
  published : Bool := false
  locks : List CycleLock := []
  lastArrival : Nat := 0
  prev : Option CyclePrev := none
  clock : Sparse Nat := []
  deriving DecidableEq, Repr, Inhabited

/-- The device page and the links (R56, R231, R390, R396 to R401). (DESIGN CHOICE, log 7.) -/
structure Device where
  /-- The module is powered off. -/
  off : Bool := false
  /-- log2 of the number of paddocks is NLOG. -/
  nlog : Nat := 3
  parterr : Bool := false
  /-- The stage of bring-up: 0 FW_CHECK, 1 REDUCED, 2 FULL, 3 HALTED; and whether the clocks are below nominal, which STATE shows as
  4, THROTTLED (R400, R401). -/
  state : Nat := 0
  throttled : Bool := false
  linkst : Word64 := 0
  /-- For each Olgus port, TIME at which it last ceased to be up (R398). -/
  downAt : Sparse Nat := []
  pwrcap : Nat := 1500
  watts : Nat := 0
  tjmax : Nat := 0
  statevec : Nat := 0
  frzvec : Nat := 0
  /-- Whether each host port has trained. -/
  hostPorts : NatSet := [0]
  /-- The MSI-X messages sent: how many on each vector of each port, port × 2,048 + vector. -/
  msix : Sparse Nat := []
  /-- The host function is frozen (R386, R387), and the firmware images have passed (R377). -/
  hostFrozen : Bool := false
  verified : Bool := false
  /-- Consecutive authentication failures on each Olgus port (R383). -/
  authFails : Sparse Nat := []
  deriving DecidableEq, Repr, Inhabited

/-- The flock enclave (R381): identifier, quorum, members with their public keys, modules as (device index, identity, member),
the allow-list, and the paddocks in enclave mode. -/
structure Flock where
  flock : Nat
  quorum : Nat
  members : List (Nat × Nat)
  modules : List (Nat × Nat × Nat)
  allow : List Nat
  paddocks : List Nat
  deriving DecidableEq, Repr, Inhabited

/-- Byvon (R375 to R387): the mailbox, the command in hand, the one-time index, the firmware digest, and the enclave. -/
structure Byvon where
  done : Bool := true
  code : Nat := 0
  busy : Bool := false
  op : Nat := 0
  arg : Nat := 0
  freezes : Nat := 0
  frbase : Nat := 0
  badImage : Option Nat := none
  fwdig : BitVec 256 := 0
  /-- The next one-time index, in fuse-backed storage, and one that is committed and whose signature is not yet released. -/
  index : Nat := 0
  committed : Option Nat := none
  /-- The request block of the REPORT in hand. -/
  request : List Byte := []
  flock : Option Flock := none
  device : Nat := 0
  member : Nat := 0
  epoch : Nat := 0
  /-- How often the module has powered up, which fixes its ML-KEM key pair (R376). -/
  powerUps : Nat := 0
  /-- Session keys by member (R382). -/
  session : Sparse (BitVec 256) := []
  deriving DecidableEq, Repr, Inhabited

/-! ### The part -/

structure State where
  /-- Every byte of every place: global memory by physical address, the buffers above it (`Place.key`). -/
  mem : List Host.Cell := []
  /-- The 16-byte granules whose tag is 1 (R159). -/
  tags : NatSet := []
  ctxs : Sparse Ctx := []
  slots : Sparse Slot := []
  /-- The vcores of suspended gangs: lid × 2^12 + vcore. -/
  parked : Sparse Parked := []
  cores : Sparse Core := []
  folds : Sparse Fold := []
  drovers : Sparse Drover := []
  gangs : Sparse Gang := []
  /-- Pipelines: context × 4 + PIDX (R322). -/
  pipes : Sparse Pipe := []
  /-- The cycle contexts: paddock × 8 + index (R267). -/
  cycles : Sparse Cycle := []
  /-- The address space of each paddock: entry images (R180), as the tables that system software chose give them. -/
  tables : List (Nat × BitVec 128) := []
  syncs : List SyncRec := []
  /-- What a granule's shadow word cannot hold (R235, R255): granule × 8 + paddock. -/
  raceMarks : Sparse RaceMark := []
  /-- The 8-byte buffer words that hold an uncorrectable error (R160), and the physical ranges that paddocks own:
  first byte, end, paddock (R386). -/
  poison : NatSet := []
  firewall : List (Nat × Nat × Nat) := []
  /-- The members whose revocation this module has applied (R385), as their numbers plus 1; 0 stands beside this module's own. -/
  revoked : NatSet := []
  device : Device := {}
  byvon : Byvon := {}
  /-- The next launch identity (R361). -/
  nextLid : Nat := 1
  /-- TIME in nanoseconds (R5, R399). -/
  time : Nat := 0
  /-- The model's own: turns taken, turns that are already decided, free values met, and the count of steps that had
  an effect. -/
  turn : Nat := 0
  agenda : List Turn := []
  free : Nat := 0
  epoch : Nat := 0
  /-- The context that issues, and the instruction it issues. -/
  cur : Nat := 0
  latch : Option Instr := none
  deriving DecidableEq, Repr, Inhabited

/-- The part right after reset: every register at its reset value, no vcore placed, memory with nothing listed. (DESIGN CHOICE, log 6.) -/
def State.reset : State := {}

end Sys2Proof.Machine
end

