-- ==== Sys2Proof/Machine/Ops.lean ====
section
/-!
DEFINITION. The operations that every meaning shares: access to contexts and registers, memory and its tags,
capabilities, how an instruction ends, taking a trap (R348) and returning from one (R356).
-/

namespace Sys2Proof.Machine

/-! ### Tables -/

def State.ctx (s : State) (k : Nat) : Ctx := Sparse.get {} s.ctxs k
def State.setCtx (s : State) (k : Nat) (c : Ctx) : State := { s with ctxs := s.ctxs.put k c }
def State.modCtx (s : State) (k : Nat) (f : Ctx → Ctx) : State := s.setCtx k (f (s.ctx k))
def State.slot (s : State) (k : Nat) : Slot := Sparse.get {} s.slots k
def State.setSlot (s : State) (k : Nat) (x : Slot) : State := { s with slots := s.slots.put k x }
def State.modSlot (s : State) (k : Nat) (f : Slot → Slot) : State := s.setSlot k (f (s.slot k))
def State.core (s : State) (k : Nat) : Core := Sparse.get {} s.cores k
def State.setCore (s : State) (k : Nat) (x : Core) : State := { s with cores := s.cores.put k x }
def State.modCore (s : State) (k : Nat) (f : Core → Core) : State := s.setCore k (f (s.core k))
def State.fold (s : State) (k : Nat) : Fold := Sparse.get {} s.folds k
def State.setFold (s : State) (k : Nat) (x : Fold) : State := { s with folds := s.folds.put k x }
def State.modFold (s : State) (k : Nat) (f : Fold → Fold) : State := s.setFold k (f (s.fold k))
def State.drover (s : State) (k : Nat) : Drover := Sparse.get {} s.drovers k
def State.setDrover (s : State) (k : Nat) (x : Drover) : State := { s with drovers := s.drovers.put k x }
def State.modDrover (s : State) (k : Nat) (f : Drover → Drover) : State := s.setDrover k (f (s.drover k))
def State.gang (s : State) (k : Nat) : Gang := Sparse.get {} s.gangs k
def State.setGang (s : State) (k : Nat) (x : Gang) : State := { s with gangs := s.gangs.put k x }
def State.modGang (s : State) (k : Nat) (f : Gang → Gang) : State := s.setGang k (f (s.gang k))

/-! ### Names of contexts, slots, cores and Folds -/

def coreOf (k : Nat) : Nat := k / 32
def isDrain (k : Nat) : Bool := decide (16 ≤ k % 32)
def hartKey (core slot : Nat) : Nat := core * 32 + slot
def drainKey (core d : Nat) : Nat := core * 32 + 16 + d
def slotKey (core slot : Nat) : Nat := core * 16 + slot
/-- Service cores are numbered after the compute cores. -/
def isService (core : Nat) : Bool := decide (Config.cores ≤ core)
/-- The Fold of a core (R2). -/
def foldOf (core : Nat) : Nat := if isService core then core - Config.cores else core / 16
/-- The slot whose registers a context uses: its own, or the one that a drain context drains for (R111). -/
def State.slotNo (s : State) (k : Nat) : Nat :=
  if isDrain k then Sparse.get 0 (s.core (coreOf k)).drainSlot (k % 32 - 16) else k % 32
def State.slotKeyOf (s : State) (k : Nat) : Nat := slotKey (coreOf k) (s.slotNo k)
def State.slotOf (s : State) (k : Nat) : Slot := s.slot (s.slotKeyOf k)
/-- What a context knows of the accesses before its own (R238): a hart context's stands in its slot. -/
def State.known (s : State) (k : Nat) : Known := if isDrain k then (s.ctx k).known else (s.slotOf k).known
def State.modKnown (s : State) (k : Nat) (f : Known → Known) : State :=
  if isDrain k then s.modCtx k (fun c => { c with known := f c.known }) else s.modSlot (s.slotKeyOf k) (fun l => { l with known := f l.known })

/-- Paddocks of the partition, cores of a paddock, and vcores per core (R56). -/
def State.paddocks (s : State) : Nat := 2 ^ s.device.nlog
def State.coresPer (s : State) : Nat := Config.cores / s.paddocks
def State.kPer (s : State) : Nat := 2 * s.paddocks
/-- The die of a Fold (R2). -/
def dieOf (fold : Nat) : Nat := fold / 16 / 4 * 4 + fold % 16 / 4
def State.paddockOfFold (s : State) (fold : Nat) : Nat := dieOf fold * s.paddocks / 8
def State.paddockOf (s : State) (core : Nat) : Nat := s.paddockOfFold (foldOf core)
/-- The Folds of a paddock in ascending global index (R56). -/
def State.foldsOf (s : State) (p : Nat) : List Nat := (List.range Config.folds).filter (fun f => s.paddockOfFold f == p)
/-- Local and global core numbers of a paddock (R56). -/
def State.globalCore (s : State) (p c : Nat) : Nat := ((s.foldsOf p).getD (c / 16) 0) * 16 + c % 16
def State.localCore (s : State) (core : Nat) : Nat :=
  ((s.foldsOf (s.paddockOf core)).findIdx (fun f => f == core / 16)) * 16 + core % 16

/-! ### Memory -/

/-- The key of a byte: global memory by physical address, the buffers of cores above it. -/
def placeKey (space core addr : Nat) : Nat :=
  if space = 0 then addr else 2 ^ 52 + (core * 8 + space) * 2 ^ 24 + addr

/-- Bytes of a buffer (R157); a service core has none. -/
def bufferSize (core space : Nat) : Nat :=
  if isService core then 0
  else
    match space with
    | 1 => Config.bytesL
    | 2 => Config.bytesW
    | 3 => Config.bytesA
    | 4 => Config.bytesY
    | _ => 0

/-- Whether a place keeps tags (R159, R178): an L buffer or near memory. -/
def keepsTags (space addr : Nat) : Bool := space == 1 || space == 5 || (space == 0 && decide (addr < 2 ^ 39))

/-- A byte of memory. DESIGN CHOICE (log 2): a byte that nothing has written reads as 0. -/
def readByte (m : List Host.Cell) (a : Nat) : Byte := Sparse.get 0 m a
/-- Memory with one byte written, in canonical form. -/
def writeByte (m : List Host.Cell) (a : Nat) (b : Byte) : List Host.Cell := Sparse.set 0 m a b
/-- Memory with bytes written from address `a` up. -/
def writeBytes : List Host.Cell → Nat → List Byte → List Host.Cell
  | m, _, [] => m
  | m, a, b :: bs => writeBytes (writeByte m a b) (a + 1) bs
/-- The canonical form of memory: addresses rising, no zero listed. -/
def Memory.wf (m : List Host.Cell) : Bool := Sparse.wf (0 : Byte) m

/-- The tags left after a write of `n` bytes at `a` (R159). -/
def clearTags (t : NatSet) (a n : Nat) : NatSet :=
  if n = 0 then t else t.filter (fun g => !(decide (a / 16 ≤ g) && decide (g ≤ (a + n - 1) / 16)))

def State.byte (s : State) (a : Nat) : Byte := readByte s.mem a
def State.bytesAt (s : State) (a n : Nat) : List Byte := (List.range n).map (fun i => s.byte (a + i))
/-- The little-endian number in `n` bytes at key `a` (R6). -/
def State.read (s : State) (a n : Nat) : Nat := bytesToNat (s.bytesAt a n)
/-- Bytes written at key `a`: tags are cleared (R159), an error of a word written whole is gone (R160), and a release
recorded there is overwritten (R237). -/
def State.storeBytes (s : State) (a : Nat) (bs : List Byte) : State :=
  { s with
    mem := writeBytes s.mem a bs
    tags := clearTags s.tags a bs.length
    poison := s.poison.filter (fun w => !(decide (a ≤ w * 8) && decide (w * 8 + 8 ≤ a + bs.length)))
    syncs := s.syncs.filter (fun r => !(overlaps r.addr r.size a bs.length)) }
/-- A write of `n` bytes at key `a`, which clears tags (R159). -/
def State.write (s : State) (a n x : Nat) : State := s.storeBytes a (natToBytes n x)
/-- R160: an uncorrectable error comes up in a word of a buffer of some core. -/
def State.upsetWord (s : State) : Option (Nat × BitVec 64) → State
  | some (w, x) =>
    if w * 8 < placeKey 1 0 0 then s
    else { s with mem := writeBytes s.mem (w * 8) (natToBytes 8 x.toNat), poison := NatSet.insert s.poison w }
  | none => s
def State.tagAt (s : State) (a : Nat) : Bool := s.tags.contains (a / 16)
/-- A 16-byte write with its tag (R167). -/
def State.writeTagged (s : State) (a : Nat) (r : CReg) : State :=
  let s' := s.write a 16 r.val.toNat
  if r.tag then { s' with tags := NatSet.insert s'.tags (a / 16) } else s'
def State.readTagged (s : State) (a : Nat) : CReg := ⟨s.tagAt a, BitVec.ofNat 128 (s.read a 16)⟩

/-! ### Registers -/

def Ctx.getC (c : Ctx) (n : BitVec 6) : CReg := if n = 0 then {} else Sparse.get {} c.c n.toNat
/-- A write to c0 is discarded (R86). -/
def Ctx.setC (c : Ctx) (n : BitVec 6) (r : CReg) : Ctx := if n = 0 then c else { c with c := c.c.put n.toNat r }
def Ctx.getV (c : Ctx) (n : Nat) : VReg := Sparse.get 0 c.v n
def Ctx.setV (c : Ctx) (n : Nat) (x : VReg) : Ctx := { c with v := c.v.put n x }
def Ctx.getG (c : Ctx) (n : BitVec 4) : Word64 := if n = 0 then BitVec.allOnes 64 else Sparse.get 0 c.g n.toNat
/-- A write to g0 is discarded (R86). -/
def Ctx.setG (c : Ctx) (n : BitVec 4) (x : Word64) : Ctx := if n = 0 then c else { c with g := c.g.put n.toNat x }
def Ctx.getQ (c : Ctx) (n : Nat) : QBind := Sparse.get {} c.q n
def Ctx.setQ (c : Ctx) (n : Nat) (x : QBind) : Ctx := { c with q := c.q.put n x }
def Ctx.getSb (c : Ctx) (n : Nat) : Nat := Sparse.get 0 c.sb n
def Ctx.setSb (c : Ctx) (n x : Nat) : Ctx := { c with sb := Sparse.set 0 c.sb n x }
/-- One more, or one less, instruction outstanding on a counter (R103). -/
def Ctx.chargeSb (c : Ctx) : Option Nat → Ctx
  | none => c
  | some n => c.setSb n (c.getSb n + 1)
def Ctx.releaseSb (c : Ctx) : Option Nat → Ctx
  | none => c
  | some n => c.setSb n (c.getSb n - 1)

/-- Untagged data: [63:0] as given, [127:64] copies of bit 63 (R95). -/
def CReg.word (x : Nat) : CReg := ⟨false, BitVec.ofInt 128 (sx x 64)⟩
/-- The result of an integer instruction: the low bits by the type, extended by its signedness (R95). -/
def CReg.ofTy (ty : Nat) (x : Int) : CReg :=
  if tySigned ty then ⟨false, BitVec.ofInt 128 (sx (wrapN (tyWidth ty) x) (tyWidth ty))⟩
  else CReg.word (wrapN (tyWidth ty) x)

/-- STATUS fields (R113). -/
def Ctx.mode (c : Ctx) : Nat := fld c.status.toNat 0 2
def Ctx.ie (c : Ctx) : Bool := bitAt c.status.toNat 6
def Ctx.inup (c : Ctx) : Bool := bitAt c.status.toNat 26
def Ctx.encl (c : Ctx) : Bool := bitAt c.status.toNat 27
def Ctx.detlvl (c : Ctx) : Nat := fld c.status.toNat 28 2
def setField64 (w : Word64) (lo n x : Nat) : Word64 := BitVec.ofNat 64 (setFld w.toNat lo n x)
def Ctx.setStatus (c : Ctx) (lo n x : Nat) : Ctx := { c with status := setField64 c.status lo n x }
/-- R39: flags are set and never cleared. -/
def Ctx.orFlags (c : Ctx) (fl : Nat) : Ctx := c.setStatus 21 5 (fld c.status.toNat 21 5 ||| fl)

/-! ### Capabilities (R96, R97) -/

structure Cap where
  base : Nat
  off : Nat
  lenM : Nat
  lenE : Nat
  perm : Nat
  space : Nat
  otype : Nat
  deriving DecidableEq, Repr

def CReg.cap (r : CReg) : Cap :=
  let v := r.val.toNat
  ⟨fld v 0 56, fld v 56 40, fld v 96 10, fld v 106 6, fld v 112 8, fld v 120 4, fld v 124 4⟩
def Cap.reg (c : Cap) : CReg :=
  ⟨true, BitVec.ofNat 128 (c.base % 2 ^ 56 + c.off % 2 ^ 40 * 2 ^ 56 + c.lenM % 2 ^ 10 * 2 ^ 96 + c.lenE % 2 ^ 6 * 2 ^ 106 +
    c.perm % 2 ^ 8 * 2 ^ 112 + c.space % 2 ^ 4 * 2 ^ 120 + c.otype % 2 ^ 4 * 2 ^ 124)⟩
def Cap.len (c : Cap) : Nat := c.lenM * 2 ^ c.lenE
def Cap.cursor (c : Cap) : Nat := (c.base + c.off) % 2 ^ 56
def permR : Nat := 0
def permW : Nat := 1
def permX : Nat := 2
def permC : Nat := 3
def permG : Nat := 4
def permQ : Nat := 5
def permS : Nat := 6
def permI : Nat := 7
def Cap.has (c : Cap) (p : Nat) : Bool := bitAt c.perm p

/-- A capability with offset 0 and a representable length (R125), untagged zero for length 0 (R30). -/
def mkCap (space perm base len : Nat) : CReg :=
  if len = 0 then {}
  else
    match lenEncode len with
    | some (m, e) => Cap.reg ⟨base, 0, m, e, perm, space, 0⟩
    | none => {}

/-! ### How an instruction ends -/

/-- What an instruction does next when it has taken its effect. -/
inductive Next where
  /-- The next instruction in sequence. -/
  | seq
  /-- A transfer to an address. -/
  | jump (pc : Nat)
  /-- A trap after the whole effect (R346). -/
  | after (cause tval : Nat)
  /-- The next in sequence, with a yield (R133). -/
  | yield
  /-- The PC stays, and PACE acts later: a repetition begins (R91). -/
  | held
  /-- The context has ended its item or its handler, or was placed elsewhere: there is nothing to advance. -/
  | gone
  /-- The effect has moved the PC itself. -/
  | moved
  deriving DecidableEq, Repr

structure Out where
  s : State
  next : Next := .seq

/-- Why an instruction stops short of its effect. -/
inductive Stop where
  /-- A precise trap (R346). -/
  | trap (cause tval : Nat)
  /-- The instruction waits, met as not executed; the state holds what has been noted meanwhile. -/
  | stay (s : State)
  /-- The instruction ended in a way that is whole: a page-fault upcall, a freeze. -/
  | fin (s : State)

/-- What a meaning answers. -/
abbrev Result := Host.Outcome State Fault Refusal

abbrev Exec (α : Type) := Except Stop α

def trap {α : Type} (cause tval : Nat) : Exec α := .error (.trap cause tval)
def need (ok : Bool) (cause tval : Nat) : Exec Unit := if ok then .ok () else trap cause tval

/-! Cause codes (R8). -/
def ILLEGAL_OPERAND : Nat := 0x03
def PRIVILEGE : Nat := 0x04
def TAG : Nat := 0x05
def BOUNDS : Nat := 0x06
def PERM : Nat := 0x07
def ALIGN : Nat := 0x08
def PAGE_FAULT : Nat := 0x09
def LOCKED_MISS : Nat := 0x0A
def RACE : Nat := 0x0B
def DET_VIOLATION : Nat := 0x0C
def REP_RANGE : Nat := 0x0D
def RNG_WRAP : Nat := 0x0E
def ENGINE_FAULT : Nat := 0x0F
def POSTED_STORE_REFUSED : Nat := 0x10
def SEND_UNDELIVERABLE : Nat := 0x11
def MATRIX_CHECK : Nat := 0x12
def QUEUE_FORM : Nat := 0x13
def WEIGHT_STORE : Nat := 0x14
def BREAKPOINT : Nat := 0x15
def SYSCALL : Nat := 0x16
def ENCLAVE : Nat := 0x1B

/-- R349: TVAL of a TAG trap. -/
def tagTval (op field : Nat) (o : Opnd) : Nat := field * 2 ^ 53 + o.spec * 2 ^ 46 + op

/-! ### Taking a trap and returning from it -/

/-- REPST for a context (R108, R115): ACTIVE 0 outside a repetition. -/
def Ctx.repState (c : Ctx) : Nat :=
  match c.rep with
  | none => 0
  | some r =>
    2 ^ 63 + r.stride % 16 * 2 ^ 59 + r.step % 8 * 2 ^ 56 + r.len % 8 * 2 ^ 53 + r.ix % 8 * 2 ^ 50 +
      (r.count - r.pass) % 2 ^ 24 * 2 ^ 24 + r.pass % 2 ^ 24

/-- R390, R396: an MSI-X message on a vector of a host port; a vector beyond the last raises none. (DEDUCED, log 56.) -/
def State.raiseMsix (s : State) (port vec : Nat) : State :=
  if 2047 < vec then s
  else
    let i := port * 2048 + vec
    { s with device := { s.device with msix := s.device.msix.put i (Sparse.get 0 s.device.msix i + 1) } }

/-- R387: the 32 bytes of a freeze report. -/
def freezeBytes (f : Freeze) : List Byte :=
  natToBytes 8 f.time ++
    natToBytes 8 (f.cause % 2 ^ 8 * 2 ^ 56 + f.kind % 2 ^ 4 * 2 ^ 52 + f.unit % 2 ^ 8 * 2 ^ 32 + f.slot % 2 ^ 4 * 2 ^ 28 + f.core % 2 ^ 28) ++
    natToBytes 8 f.addr ++ natToBytes 8 f.lid

/-- R387: Byvon writes a report to the freeze ring, tells the Fold's service core, and raises the host interrupt of
FREEZES. PRESUMED (log 4): FRBASE is a physical address. -/
def State.reportFreeze (s : State) (fold : Nat) (f : Freeze) : State :=
  let b := s.byvon
  let s1 := s.storeBytes (b.frbase + 32 * (b.freezes % 256)) (freezeBytes f)
  let s2 := { s1 with byvon := { b with freezes := (b.freezes + 1) % 2 ^ 64 } }
  (s2.modFold fold (fun x => { x with notices := x.notices ++ [f] })).raiseMsix 0 s.device.frzvec

/-- R348, R387: the context stops in place, and the freeze is reported. -/
def State.freeze (s : State) (k cause addr : Nat) : State :=
  let c := coreOf k
  let note : Freeze :=
    { time := s.time, cause := cause, kind := if isDrain k then 1 else 0, unit := 0, slot := s.slotNo k, core := c,
      addr := addr, lid := (s.slotOf k).lid }
  (s.modCtx k (fun x => { x with frozen := true })).reportFreeze (foldOf c) note

/-- R348: the steps of trap entry. `flags` holds ASYNC and INTR of CAUSE (R114). EPC is the address of the
instruction in hand: the trapping instruction, or the next when the trap comes after an effect. -/
def State.enterTrap (s : State) (k flags cause tval : Nat) : State :=
  let sl := s.slotOf k
  s.modCtx k (fun c =>
    { c with
      cause := BitVec.ofNat 64 (flags * 2 ^ 62 + cause)
      tval := BitVec.ofNat 64 tval
      epc := BitVec.ofNat 64 c.pc.toNat
      repst := BitVec.ofNat 64 c.repState
      pregBase := c.regBase
      pregLimit := c.regLimit
      status := BitVec.ofNat 64
        (setFld (setFld (setFld (setFld c.status.toNat 2 2 c.mode) 7 1 (if c.ie then 1 else 0)) 6 1 0) 0 2
          (if c.mode = 2 then 2 else 1))
      pc := BitVec.ofNat 56 sl.tvec.toNat
      regBase := sl.sregBase
      regLimit := sl.sregLimit.setWidth 57
      rep := none
      waitFrom := none
      blocked := none
      inTrap := true
      handling := none :: c.handling })

/-- R386: a violation of a boundary: CAUSE, TVAL, EPC and REPST are those of the trap, and the context freezes where it stands instead
of entering its handler. (DEDUCED, log 93.) -/
def State.violates (s : State) (k addr : Nat) : State :=
  (s.modCtx k (fun c =>
    { c with
      cause := BitVec.ofNat 64 ENCLAVE
      tval := BitVec.ofNat 64 (2 * 2 ^ 60 + addr)
      epc := BitVec.ofNat 64 c.pc.toNat
      repst := BitVec.ofNat 64 c.repState })).freeze k 1 addr

/-- R339: the causes that leave a splice's probe as it is: SYSCALL, BREAKPOINT, RNG_WRAP and PAGE_FAULT. -/
def probeKeeps (cause : Nat) : Bool := cause == SYSCALL || cause == BREAKPOINT || cause == RNG_WRAP || cause == PAGE_FAULT

/-- R339: a precise trap of this cause fails the splice that the context probes. -/
def State.failsProbe (s : State) (k flags cause : Nat) : Bool :=
  let sl := s.slotOf k
  flags == 0 && !(isDrain k) && sl.worker && sl.work.probing && !sl.work.restart && !(probeKeeps cause)

/-- R348: a trap is taken, or freezes the context: a double trap, or any trap while TVEC is 0. One that fails the splice which the
context probes is delivered to no handler: the context stops, until its pipeline takes it up (R339). -/
def State.takeTrap (s : State) (k flags cause tval : Nat) : State :=
  if s.failsProbe k flags cause then
    (s.modSlot (s.slotKeyOf k) (fun l => { l with work := { l.work with failed := true } })).modCtx k (fun c => { c with live := false })
  else if (s.slotOf k).tvec = 0 || (flags == 0 && (s.ctx k).inTrap) then s.freeze k 3 0
  else s.enterTrap k flags cause tval

end Sys2Proof.Machine
end

