-- ==== Sys2Proof/Machine/Operands.lean ====
section
/-!
DEFINITION. The operand forms (R85 to R89, R95, R101, R109, R118, R127): how an instruction reads A, B and D and how
it writes its destination.
-/

namespace Sys2Proof.Machine

/-- A register operand as 64 bits of data; a tagged c register raises TAG (R95). `field` is 1 D, 2 A, 3 B. -/
def State.dataOpnd (s : State) (op field : Nat) (o : Opnd) : Exec Nat :=
  let c := s.ctx s.cur
  match o with
  | .c n => if (c.getC n).tag then trap TAG (tagTval op field o) else .ok ((c.getC n).val.toNat % 2 ^ 64)
  | .g n => .ok (c.getG n).toNat
  | .wid => .ok (s.slotOf s.cur).wid.toNat
  | .vcid => .ok ((s.slotOf s.cur).vcore % 2 ^ 12)
  | .slot => .ok (s.slotNo s.cur % 2 ^ 4)
  | _ => .ok 0

/-- A whole register with its tag: a c register, or a special or g register as N64 (R122). -/
def State.wholeOpnd (s : State) (o : Opnd) : CReg :=
  let c := s.ctx s.cur
  match o with
  | .c n => c.getC n
  | .g n => CReg.word (c.getG n).toNat
  | .wid => CReg.word (s.slotOf s.cur).wid.toNat
  | .vcid => CReg.word ((s.slotOf s.cur).vcore % 2 ^ 12)
  | .slot => CReg.word (s.slotNo s.cur % 2 ^ 4)
  | _ => {}

/-- IMM extended to 64 bits (R87). -/
def litVal (f : Fields) (signed : Bool) : Nat := if signed then wrapN 64 (sx f.imm.toNat 32) else f.imm.toNat

/-- IMM as a signed offset (R13). -/
def offsetOf (f : Fields) : Int := sx f.imm.toNat 32

/-- Operand B: the literal, or the register (R87). -/
def State.opndB (s : State) (op : Nat) (f : Fields) (signed : Bool) : Exec Nat :=
  if f.lit then .ok (litVal f signed) else s.dataOpnd op 3 f.b

/-- An operand read by its type (R118). -/
def tyVal (ty x : Nat) : Int := if tySigned ty then sx x (tyWidth ty) else zx x (tyWidth ty)

/-- The capability operand of a field; an operand that is no c register holds none. -/
def State.capOpnd (s : State) (o : Opnd) : CReg :=
  match o with
  | .c n => (s.ctx s.cur).getC n
  | _ => {}

/-- A write to the destination D, a c register. -/
def State.setD (s : State) (o : Opnd) (r : CReg) : State :=
  match o with
  | .c n => s.modCtx s.cur (fun c => c.setC n r)
  | _ => s

/-- A write to the destination D, a v register. -/
def State.setVD (s : State) (o : Opnd) (x : VReg) : State :=
  match o with
  | .v n => s.modCtx s.cur (fun c => c.setV n.toNat x)
  | _ => s

/-- A write to the destination D, a guard (R101). -/
def State.setGuardD (s : State) (o : Opnd) (x : Word64) : State :=
  match o with
  | .g n => s.modCtx s.cur (fun c => c.setG n x)
  | _ => s

/-- Every bit of a guard (R121). -/
def guardOf (b : Bool) : Word64 := if b then BitVec.allOnes 64 else 0

/-- A write to the instruction's own guard register, whatever NEG holds (R134, R282). -/
def State.setOwnGuard (s : State) (f : Fields) (b : Bool) : State :=
  s.modCtx s.cur (fun c => c.setG f.gidx (guardOf b))

/-- R19 `GuardBit(i)`. -/
def State.guardBit (s : State) (f : Fields) (i : Nat) : Bool :=
  ((s.ctx s.cur).getG f.gidx).getLsbD i != f.neg

/-- R95, R47: an integer result that wraps, or saturates under SAT. -/
def intResult (ty : Nat) (sat : Bool) (x : Int) : CReg :=
  CReg.ofTy ty (if sat then (if tySigned ty then satI x (tyWidth ty) else satN x (tyWidth ty)) else x)

/-- The number of a register operand. -/
def opndNum : Opnd → Nat
  | .c n => n.toNat
  | .v n => n.toNat
  | .g n => n.toNat
  | .q n => n.toNat
  | _ => 0

/-- Done, with the state and the next instruction in sequence. -/
def done (s : State) : Exec Out := .ok { s := s }

end Sys2Proof.Machine
end

