-- ==== Sys2Proof/Machine/Access.lean ====
section
/-!
DEFINITION. How an access finds its bytes: the checks of `Access` and `MemAccess` (R100, R165), the TLB and its misses
(R180 to R184), page faults (R190 to R192), the range scoreboard (R161, R162), posted stores (R176), remote checks
(R405), the weight check (R281), the firewall (R386), the race detector (R254 to R259) and sampling (R194, R195).
-/

namespace Sys2Proof.Machine

/-! ### Entry images (R180, R181) -/

def imgValid (i : Nat) : Bool := bitAt i 16
def imgSize (i : Nat) : Nat := fld i 17 2
def pageShift (sz : Nat) : Nat := 19 + 6 * sz
def imgVA (i : Nat) : Nat := fld i 19 37 * 2 ^ 19
def imgPA (i : Nat) : Nat := fld i 83 33 * 2 ^ 19
def imgCNT (i : Nat) : Bool := bitAt i 8
def imgCHK (i : Nat) : Bool := bitAt i 7
def imgTAG (i : Nat) : Bool := bitAt i 6
def imgUS (i : Nat) : Bool := bitAt i 5
def imgX (i : Nat) : Bool := bitAt i 4
def imgW (i : Nat) : Bool := bitAt i 3
def imgP (i : Nat) : Bool := bitAt i 2

/-- Whether the page of an image holds an address, V apart. -/
def imgSpans (i va : Nat) : Bool := va / 2 ^ pageShift (imgSize i) == imgVA i / 2 ^ pageShift (imgSize i)
/-- R182: an entry covers an address. -/
def imgCovers (i va : Nat) : Bool := imgValid i && imgSpans i va
/-- Whether two pages overlap. -/
def imgOverlaps (i j : Nat) : Bool :=
  overlaps (imgVA i) (2 ^ pageShift (imgSize i)) (imgVA j) (2 ^ pageShift (imgSize j))
/-- The physical address of an address that an entry covers. -/
def imgMap (i va : Nat) : Nat := imgPA i + va % 2 ^ pageShift (imgSize i)

/-- R178: the whole range lies inside one tier. -/
def inOneTier (a n : Nat) : Bool :=
  decide (a + n ≤ 2 ^ 39) || (decide (2 ^ 40 ≤ a) && decide (a + n ≤ 2 ^ 41)) || (decide (2 ^ 51 ≤ a) && decide (a + n ≤ 2 ^ 52))

/-- R181. -/
def imgWellFormed (i : Nat) : Bool :=
  fld i 116 12 == 0 && fld i 64 19 == 0 && fld i 56 8 == 0 && fld i 9 7 == 0 && imgSize i != 3 &&
    imgVA i % 2 ^ pageShift (imgSize i) == 0 && imgPA i % 2 ^ pageShift (imgSize i) == 0 &&
    inOneTier (imgPA i) (2 ^ pageShift (imgSize i)) && (!(imgTAG i) || decide (imgPA i < 2 ^ 39))

/-- The entry of a core's TLB that covers an address: its index and image. -/
def tlbFind (c : Core) (va : Nat) : Option (Nat × Nat) :=
  (c.tlb.find? (fun p => imgCovers p.2.toNat va)).map (fun p => (p.1, p.2.toNat))

/-- R400: in REDUCED, module memory and stacks 1 to 7 are not yet mapped. -/
def State.mappedYet (s : State) (pa : Nat) : Bool := s.device.state != 1 || decide (pa < 2 ^ 36) || decide (2 ^ 51 ≤ pa)
/-- The tables of a paddock (R179), as the Drover and the device walk them. -/
def State.walk (s : State) (p va : Nat) : Option Nat :=
  ((s.tables.find? (fun e => e.1 == p && imgCovers e.2.toNat va)).map (fun e => e.2.toNat)).filter (fun i => s.mappedYet (imgMap i va))

/-- A device access to a paddock's space: the physical address, where the page admits it. -/
def State.walkTo (s : State) (p va : Nat) (store : Bool) : Option Nat :=
  match s.walk p va with
  | some i => if imgP i && (!store || imgW i) then some (imgMap i va) else none
  | none => none

/-- Bytes read from a paddock's space by the Drover, page by page; `none` when one cannot be read (R24, R60). -/
def State.walkRead (s : State) (p va n : Nat) : Option (List Byte) :=
  ((List.range n).foldr (fun i acc =>
    match acc, s.walkTo p ((va + i) % 2 ^ 56) false with
    | some bs, some pa => some (s.byte pa :: bs)
    | _, _ => none) (some []))

/-- A number read from a paddock's space. -/
def State.walkNat (s : State) (p va n : Nat) : Option Nat := (s.walkRead p va n).map bytesToNat

/-- Bytes written to a paddock's space by the Drover; `none` when one cannot be written. -/
def State.walkWrite (s : State) (p va : Nat) (bs : List Byte) : Option State :=
  match s.walkTo p va true with
  | none => none
  | some pa =>
    if ((List.range bs.length).all (fun i => (s.walkTo p ((va + i) % 2 ^ 56) true) == some (pa + i))) then
      some (s.storeBytes pa bs)
    else none

/-! ### Misses and page faults -/

/-- The kinds of an access (R182). -/
inductive AKind where
  | load | store | fetch
  deriving DecidableEq, Repr

def AKind.code : AKind → Nat
  | .load => 0
  | .store => 1
  | .fetch => 2

/-- R350, R347: the FBOVF register of the paddock (R193) after `n` more held faults. -/
def State.addHeld (s : State) (p : Nat) : State :=
  s.modDrover p (fun d =>
    let x := (Sparse.get 0 d.regs 0x298).toNat
    { d with regs := d.regs.put 0x298 (BitVec.ofNat 64 (2 ^ 63 + (fld x 0 32 + 1) % 2 ^ 32)) })

/-- The context's misses are forgotten, and with them a fault of it that has not been raised. -/
def State.dropMisses (s : State) (k : Nat) : State :=
  if (s.core (coreOf k)).misses.isEmpty then s
  else (s.modCore (coreOf k) (fun c => { c with misses := c.misses.filter (fun m => m.ctx != some k) })).modFold (foldOf (coreOf k)) (fun F =>
    { F with heldFaults := F.heldFaults.filter (fun h => h.1 != k) })

/-- The free entries of a Fold's fault buffer (R192). -/
def Fold.freeFaults (F : Fold) : List Nat := (List.range 256).filter (fun i => !(Sparse.get {} F.faults i).used)

/-- R190 to R192: the fill of an access ended with a fault kind. Faults are raised in the order in which their reports arrived, each
when an entry is free for it. (DEDUCED, log 16.) -/
def State.pageFault (s : State) (k va kind : Nat) (ak : AKind) : Stop :=
  let fo := foldOf (coreOf k)
  let F := s.fold fo
  match F.freeFaults[F.heldFaults.findIdx (fun h => h.1 == k)]? with
  | some e =>
    let c := s.ctx k
    let sl := s.slotOf k
    let entry : FaultEntry :=
      { used := true, core := coreOf k, slot := s.slotNo k, lid := sl.lid, vcore := sl.vcore, pc := c.pc,
        repst := BitVec.ofNat 64 c.repState, c1 := c.getC 1, c2 := c.getC 2, c3 := c.getC 3, va := va, kind := kind,
        store := ak == .store }
    let s1 := (s.dropMisses k).modFold fo (fun f => { f with faults := f.faults.put e entry })
    if kind == 1 && ak != .fetch && !isDrain k && c.mode == 0 && sl.uvec != 0 && !c.inup then
      .fin (s1.modCtx k (fun x =>
        { (((x.setC 1 (CReg.word va)).setC 2
              (CReg.word (kind + (if ak == .store then 256 else 0) + e * 2 ^ 16))).setC 3 {}).setStatus 26 1 1 with
          pc := BitVec.ofNat 56 sl.uvec.toNat, rep := none, waitFrom := none, blocked := none }))
    else .fin (s1.takeTrap k 0 PAGE_FAULT va)
  | none => .stay s

/-- R183: an access that misses stays stalled; its miss is noted once, and a fill that ended with a fault faults it. -/
def State.miss (s : State) (k va : Nat) (ak : AKind) : Stop :=
  let C := s.core (coreOf k)
  match C.misses.find? (fun m => m.ctx == some k && m.va == va && m.kind == ak.code) with
  | some m => if m.fail = 0 then .stay s else s.pageFault k va m.fail ak
  | none =>
    .stay (s.modCore (coreOf k) (fun c =>
      { c with misses := c.misses ++ [{ ctx := some k, slot := s.slotNo k, va := va, kind := ak.code }] }))

/-! ### Locked entries (R186) -/

/-- The entries that a slot has locked, each once (R186). -/
def Slot.lockedEntries (sl : Slot) : NatSet :=
  sl.locks.foldl (fun (acc : NatSet) r => if r.2.used then r.2.entries.foldl NatSet.insert acc else acc) []
/-- The entries that the slots of a core have locked, each once (R186). -/
def State.coreLocked (s : State) (core : Nat) : NatSet :=
  (List.range 16).foldl (fun (acc : NatSet) j => (s.slot (slotKey core j)).lockedEntries.foldl NatSet.insert acc) []
/-- Entries beside those that a slot and its core have locked keep within 16 and 96. -/
def State.mayLock (s : State) (core : Nat) (sl : Slot) (es : List Nat) : Bool :=
  decide ((es.foldl NatSet.insert sl.lockedEntries).length ≤ 16) && decide ((es.foldl NatSet.insert (s.coreLocked core)).length ≤ 96)

/-- A lock record whose translations are to be obtained again, and the address at which that goes on. -/
def Slot.relocks (sl : Slot) : Option (Nat × Nat) := sl.locks.findSome? (fun r => r.2.due.map (fun a => (r.1, a)))

/-- A page of a locked region misses the TLB (R186). -/
def State.lockMiss (s : State) (k a : Nat) : State :=
  s.modCore (coreOf k) (fun c => { c with misses := c.misses ++ [{ ctx := some k, slot := s.slotNo k, va := a, kind := 0, locking := true }] })

/-- R186: on a resumption, the translations of a slot's locked regions are obtained again by R183, as far as fills have come: the state,
and whether all have been. A page whose fill fails, and one that would pass the limits, stays without an entry. (DEDUCED, log 70.) -/
def State.obtain (k : Nat) : Nat → State → State × Bool
  | 0, s => (s, false)
  | fuel + 1, s =>
    let sl := s.slotOf k
    match sl.relocks with
    | none => (s, true)
    | some (i, a) =>
      let r := Sparse.get {} sl.locks i
      let put (r : LockRec) (s : State) : State := s.modSlot (s.slotKeyOf k) (fun l => { l with locks := l.locks.put i r })
      if r.hi ≤ a then State.obtain k fuel (put { r with due := none } s)
      else
        match tlbFind (s.core (coreOf k)) a with
        | some (e, img) =>
          let next := some (imgVA img + 2 ^ pageShift (imgSize img))
          State.obtain k fuel (put (if s.mayLock (coreOf k) sl [e] then { r with entries := (r.entries ++ [e]).dedup, due := next } else { r with due := next }) s)
        | none =>
          match (s.core (coreOf k)).misses.find? (fun m => m.ctx == some k && m.va == a && m.kind == 0) with
          | some m =>
            if m.fail = 0 then (s, false)
            else State.obtain k fuel (put { r with due := some ((a / 2 ^ 19 + 1) * 2 ^ 19) } (s.dropMisses k))
          | none =>
            (s.lockMiss k a, false)

/-- Whether an address lies in a locked region of a slot (R182, R186). -/
def Slot.lockedAt (sl : Slot) (va : Nat) : Bool :=
  sl.locks.any (fun r => r.2.used && decide (r.2.lo ≤ va) && decide (va < r.2.hi))

/-- R182: the permission checks of an entry, for a mode. -/
def imgAdmits (i mode : Nat) (ak : AKind) : Bool :=
  (decide (mode ≠ 0) || imgUS i) &&
    (match ak with
     | .load => imgP i
     | .store => imgP i && imgW i
     | .fetch => imgX i)

/-- The entry image that a service core's physical accesses go through. PRESUMED (log 3). -/
def physImage : Nat := 2 ^ 16 + 2 ^ 6 + 2 ^ 5 + 2 ^ 4 + 2 ^ 3 + 2 ^ 2

/-- R182, R183: the physical address and the entry of an address in SPACE 0. -/
def State.translate (s : State) (k va : Nat) (ak : AKind) : Exec (Nat × Nat) :=
  if isService (coreOf k) then .ok (va % 2 ^ 52, physImage)
  else
    match tlbFind (s.core (coreOf k)) va with
    | some (_, i) => if imgAdmits i (s.ctx k).mode ak then .ok (imgMap i va, i) else trap PAGE_FAULT va
    | none => if (s.slotOf k).lockedAt va then trap LOCKED_MISS va else .error (s.miss k va ak)

/-! ### Places -/

/-- Where the bytes of an access lie: the key of the first byte, the space, the core whose buffer it is, the address in
the space, and what the page says. -/
structure Loc where
  key : Nat
  space : Nat
  core : Nat
  addr : Nat
  va : Nat
  chk : Bool := false
  cnt : Bool := false
  tags : Bool := false
  page : Nat := 0
  deriving DecidableEq, Repr

/-- What an instruction asks of memory. -/
structure Req where
  op : Nat
  /-- The operand that names the memory. -/
  field : Nat
  opnd : Opnd
  n : Nat
  al : Nat
  ld : Bool
  st : Bool
  /-- A kind that needs C, and a store whose kind asks the capability for no W: a CASW of an untagged value (R244). -/
  cp : Bool := false
  noW : Bool := false
  ex : Bool := false
  /-- Whether a store may go to another core's L (R165), and whether the access is posted (R172). -/
  remote : Bool := false
  posted : Bool := false
  /-- A synchronising access (R235). -/
  sync : Bool := false
  /-- The spaces that the instruction accepts. -/
  spaces : List Nat := [0, 1, 2, 3, 4, 5, 6]

/-- R165, R100: the checks on the capability itself; the answer is the cursor. R33 puts ALIGN before PERM of R99's window; a misaligned
access to SPACE 6 that no window takes raises PERM in its place, as R99 says of every such access. (DESIGN CHOICE, log 111.) -/
def capCheck (s : State) (k : Nat) (rq : Req) (r : CReg) (off : Int) : Exec (Cap × Nat) := do
  let c := r.cap
  let tt := tagTval rq.op rq.field rq.opnd
  need r.tag TAG tt
  need (decide (c.space < 7) && !(c.has permI)) TAG tt
  let o : Int := (c.off : Int) + off
  let a := addr56 ((c.base : Int) + o)
  need (decide (0 ≤ o) && decide (o < (2 : Int) ^ 40)) BOUNDS a
  need (!(c.has permS)) PERM a
  need ((!rq.ld || c.has permR) && (!rq.st || rq.noW || c.has permW) && (!rq.cp || c.has permC) && (!rq.ex || c.has permX)) PERM a
  need (!(c.space == 6 && (rq.st || rq.cp || rq.ex) && !(c.has permQ))) PERM a
  need (decide (o.toNat + rq.n ≤ c.len)) BOUNDS a
  need (c.space == 6 || a % rq.al == 0) ALIGN a
  need (!(c.space == 5) || (decide (fld a 44 12 < Config.cores) && s.paddockOf (fld a 44 12) == s.paddockOf (coreOf k))) PERM a
  need (rq.spaces.contains c.space) PERM a
  .ok (c, a)

/-! ### Waits -/

/-- R162: whether a hart or drain access of a buffer waits on the range scoreboard of its core. -/
def Core.mustWait (c : Core) (space a n : Nat) (st : Bool) : Bool :=
  c.ranges.any (fun e => e.space == space && overlaps e.lo (e.hi - e.lo) a n && (st || e.write))

/-- A journal entry of the vcore in hand whose store has not retired (R173). (DEDUCED, log 112.) -/
def Slot.posted (sl : Slot) (e : JEntry) : Bool := (e.state == 1 || e.state == 2) && e.lid == sl.lid && e.vcore == sl.vcore

/-- R176, R240: whether a posted store of a hart context to a core has not retired, at whatever core that was made (R361): the context's
later accesses of that core's buffers keep program order, and wait. (DEDUCED, log 112.) -/
def State.postedTo (s : State) (k core : Nat) : Bool :=
  !isDrain k && s.slots.any (fun p => p.2.journal.any (fun e => (s.slotOf k).posted e.2 && fld e.2.addr 44 12 == core))
/-- R162, R176, R240, R405: whether an access of buffer bytes at a core waits: on the core's range scoreboard, or on the context's own posted
stores there. -/
def State.bufferWaits (s : State) (k core space a n : Nat) (st : Bool) : Bool :=
  (s.core core).mustWait space a n st || s.postedTo k core

/-! ### Tensors (R49, R50) -/

structure Tensor where
  kind : Nat
  space : Nat
  base : Nat
  sspace : Nat
  scale : Nat
  p : Nat
  dp : Nat
  state : Bool
  checked : Bool
  weight : Bool
  saxis : Bool
  sfmt : Nat
  cols : Nat
  rows : Nat
  pstride : Nat
  rstride : Nat
  deriving DecidableEq, Repr

def tensorOf (e : BitVec 256) : Tensor :=
  let x := e.toNat
  ⟨fld x 60 3, fld x 56 4, fld x 0 56, fld x 124 4, fld x 64 56, fld x 180 4, fld x 176 4, bitAt x 175, bitAt x 174,
    bitAt x 173, bitAt x 172, fld x 170 2, fld x 148 20, fld x 128 20, fld x 224 32, fld x 192 32⟩
def Tensor.planes (t : Tensor) : Bool := t.kind == 1 || t.kind == 2
/-- R50 EXTENT. -/
def Tensor.extent (t : Tensor) : Nat := if t.planes then t.p * t.pstride else t.rows * t.rstride
def Slot.tensor (sl : Slot) (i : Nat) : Tensor := tensorOf (Sparse.get 0 sl.tensors i)

/-- The key under which two places are compared: virtual addresses in SPACE 0, buffer bytes elsewhere. -/
def regionKey (space core a : Nat) : Nat :=
  if space = 0 then a else 2 ^ 60 + (if space = 5 then placeKey 1 (fld a 44 12) (fld a 0 44) else placeKey space core a)

/-- R281: the WEIGHT tensor of the slot's table that a store overlaps. -/
def Slot.weightHit (sl : Slot) (core space a n : Nat) : Option Nat :=
  (sl.tensors.find? (fun e =>
    let t := tensorOf e.2
    t.weight && t.kind != 0 && overlaps (regionKey t.space core t.base) t.extent (regionKey space core a) n)).map (·.1)

/-! ### Remote checks and the firewall -/

/-- The slot of a core whose share holds an L address (R73). -/
def State.shareSlot (s : State) (a : Nat) : Nat := a / (Config.bytesL / s.kPer)

/-- R174 check 3: the bytes lie in one share whose slot holds a live or suspended vcore of the launch. -/
def State.shareOf (s : State) (a n : Nat) : Option Nat :=
  if s.shareSlot a == s.shareSlot (a + n - 1) then some (s.shareSlot a) else none

/-- R174 checks 3 and 4 for a share: `none` where the issuer is refused, else whether the vcore that decides does not run, so
that what reaches its share waits or meets PARKED (R362). A User issuer needs a vcore of its own launch. A load or a synchronising
access into the share of a vcore that CTXSAVE has detached waits, as for a suspended gang (R405). (DESIGN CHOICE, log 114.) -/
def State.shareState (s : State) (key lid : Nat) (user : Bool) : Option Bool :=
  let t := s.slot key
  let here := t.live || t.detached
  let away := s.parked.any (fun p => p.2.key == key && (!user || p.1 / 2 ^ 12 == lid))
  if user then (if here && t.lid == lid then some t.detached else if away then some true else none)
  else if here then some t.detached
  else some away

/-- R387: the share that holds bytes is a frozen vcore's, which accepts and answers nothing: what reaches it waits. (DEDUCED, log 126.) -/
def State.shareFrozen (s : State) (far l n : Nat) : Bool :=
  match s.shareOf l n with
  | some j => (s.ctx (hartKey far j)).frozen
  | none => false

/-- R405: the checks of a remote access at the far core. R165 names no step for them: they stand with the range checks of the buffer,
before CheckTagStore, CheckWeightStore and CheckRace. (DESIGN CHOICE, log 113.) -/
def State.remoteCheck (s : State) (k a n : Nat) : Exec Unit := do
  let far := fld a 44 12
  let l := fld a 0 44
  let user := (s.ctx k).mode == 0
  need (!(s.revoked.contains 0 && (s.ctx k).encl)) ENCLAVE (2 ^ 60 + a)
  need (decide (l + n ≤ Config.bytesL)) PERM a
  match s.shareOf l n with
  | none => need (!user) PERM a
  | some j =>
    match s.shareState (slotKey far j) (s.slotOf k).lid user with
    | none => trap PERM a
    | some true => .error (.stay s)
    | some false => if s.shareFrozen far l n then .error (.stay s) else .ok ()

/-- R386: whether an access of a core crosses a boundary. -/
def State.crosses (s : State) (core pa n : Nat) : Bool :=
  s.firewall.any (fun r => overlaps r.1 (r.2.1 - r.1) pa n && r.2.2 != s.paddockOf core)

/-! ### Happens-before and the race detector -/

/-! The keys of a clock. -/

/-- A vcore of a launch: the clock holds the turn before which its accesses lie. -/
def clockKey (lid vcore : Nat) : Nat := lid * 2 ^ 12 + vcore % 2 ^ 12
/-- The first commands of a vcore in a stream (R252): 0 to 2 what it pushed on its engines, 3 its exchanges, 4 to 6 what its FORK lists
held. The clock holds one more than their number. -/
def engKey (lid vcore e : Nat) : Nat := clockKey lid vcore + (e + 1) * 2 ^ 96
/-- One command of a stream (R213). -/
def cmdKey (lid vcore e n : Nat) : Nat := engKey lid vcore e + n * 2 ^ 112
/-- One drain handler of a command: the clock holds the turn before which its accesses lie. -/
def handlerKey (lid : Nat) (p : Party) (row : Nat) : Nat := cmdKey lid p.vcore p.stream p.number + (row + 1) * 2 ^ 176
/-- A launch that is over, whole (R71). -/
def overKey (lid : Nat) : Nat := 2 ^ 100 + lid
/-- Every write before a doorbell (R371): the clock holds its turn. -/
def bellKey : Nat := 2 ^ 104

/-- A moment of a key, where it is later than the one known. -/
def raiseClock (c : Sparse Nat) (key x : Nat) : Sparse Nat := if Sparse.get 0 c key < x then c.put key x else c
/-- The clock with the later of the known moments of each key. -/
def joinClock (a b : Sparse Nat) : Sparse Nat := b.foldl (fun acc e => raiseClock acc e.1 e.2) a

/-! A key may be narrowed to accesses of a range of bytes (R237): its first byte and its length stand above the key. -/

/-- What a clock says of accesses in `len` bytes from `lo`, and of no others. -/
def narrowClock (lo len : Nat) (c : Sparse Nat) : Sparse Nat :=
  c.foldl (fun acc e =>
    let r := e.1 / 2 ^ 200
    let a := if r = 0 then lo else max lo (r % 2 ^ 64)
    let b := if r = 0 then lo + len else min (lo + len) (r % 2 ^ 64 + r / 2 ^ 64)
    if a < b then raiseClock acc (e.1 % 2 ^ 200 + (a + (b - a) * 2 ^ 64) * 2 ^ 200) e.2 else acc) []
/-- What a clock says of an access in the bytes from `lo` to `hi`. -/
def clockAt (lo hi : Nat) (c : Sparse Nat) : Sparse Nat :=
  if c.all (fun e => decide (e.1 < 2 ^ 200)) then c
  else
    c.foldl (fun acc e =>
      let r := e.1 / 2 ^ 200
      if r = 0 ∨ (r % 2 ^ 64 ≤ lo ∧ hi ≤ r % 2 ^ 64 + r / 2 ^ 64) then raiseClock acc (e.1 % 2 ^ 200) e.2 else acc) []

/-- The granule index of the shadow (R255); `none` for a place that has none. -/
def shadowIndex (pa : Nat) : Option Nat :=
  if pa < 2 ^ 39 then some (pa / 64) else if 2 ^ 40 ≤ pa ∧ pa < 2 ^ 41 then some ((pa - 2 ^ 40 + 2 ^ 39) / 64) else none

def State.pageReg (s : State) (p off : Nat) : Nat := (Sparse.get 0 (s.drover p).regs off).toNat

/-- The first physical byte of a granule. -/
def granuleBase (g : Nat) : Nat := if g < 2 ^ 33 then 64 * g else 64 * g - 2 ^ 39 + 2 ^ 40

/-- RSFREE (R256). -/
def State.rsPool (s : State) (p : Nat) : Nat :=
  let n := fld (s.pageReg p 0x2B0) 0 5
  if 10 ≤ n ∧ n ≤ 24 then 2 ^ n else 0
def State.rsFree (s : State) (p : Nat) : Nat := s.rsPool p - (s.drover p).rsUsed.length

/-- What the detector needs of an access: its vcore, what happens before it, and its first byte and length. -/
structure Racer where
  lid : Nat
  vcore : Nat
  interval : Nat
  known : Known
  sync : Bool
  turn : Nat
  lo : Nat
  len : Nat
  eng : Option Party := none

/-- Whether a clock covers a recorded access (R238, R252, R371). -/
def covers (clock : Sparse Nat) (m : AccessMark) : Bool :=
  let c := clockAt m.lo m.hi clock
  (m.wrote && decide (m.turn < Sparse.get 0 c bellKey)) || decide (0 < Sparse.get 0 c (overKey m.lid)) ||
    (match m.eng with
     | none => decide (m.turn < Sparse.get 0 c (clockKey m.lid m.vcore))
     | some p =>
       decide (0 < Sparse.get 0 c (cmdKey m.lid p.vcore p.stream p.number)) || decide (p.number < Sparse.get 0 c (engKey m.lid p.vcore p.stream)) ||
         (match p.row with
          | some row => decide (m.turn < Sparse.get 0 c (handlerKey m.lid p row))
          | none => false))

/-- The clock that a release of a context publishes: what happens before it (R238, R252), its own accesses so far among it. -/
def State.releaseClock (s : State) (k : Nat) : Sparse Nat :=
  let sl := s.slotOf k
  match (s.ctx k).stream with
  | some p => (s.known k).clock.put (handlerKey sl.lid p (p.row.getD 0)) (s.turn + 1)
  | none => (s.known k).clock.put (clockKey sl.lid sl.vcore) (s.turn + 1)

/-- R238: the order of the accesses of one context, and of the commands of one stream (R163). -/
def AccessMark.precedes (m : AccessMark) (lid vcore : Nat) (eng : Option Party) : Bool :=
  m.lid == lid &&
    (match m.eng, eng with
     | none, none => m.vcore == vcore % 2 ^ 12
     | some p, some q => p == q || (p.vcore == q.vcore && p.stream == q.stream && p.row.isNone && decide (p.number < q.number))
     | _, _ => false)

/-- R238, R239: a recorded access happens before an access of a racer. -/
def Racer.knows (r : Racer) (m : AccessMark) : Bool :=
  m.precedes r.lid r.vcore r.eng || covers r.known.clock m ||
    r.known.partials.any (fun x =>
      decide (x.1 ≤ m.lo) && decide (m.hi ≤ x.1 + x.2.1) && decide (x.1 ≤ r.lo) && decide (r.lo + r.len ≤ x.1 + x.2.1) && covers x.2.2 m)

/-- R234, R235, R254: a recorded access and one of a racer form a race: they are of different vcores, have a byte in common, one of
them writes, they are not both synchronising, and the earlier does not happen before the later. -/
def Racer.races (r : Racer) (store : Bool) (m : AccessMark) : Bool :=
  !(m.lid == r.lid && m.vcore == r.vcore % 2 ^ 12) && overlaps m.lo (m.hi - m.lo) r.lo r.len && (m.wrote || store) && !(m.sync && r.sync) &&
    !(r.knows m)

/-- An earlier access of the racer's vcore that no later one can race with unless it races with the racer's as well: it need not be
kept. -/
def Racer.hides (r : Racer) (store : Bool) (m : AccessMark) : Bool :=
  m.lid == r.lid && m.vcore == r.vcore % 2 ^ 12 && r.knows m && decide (r.lo ≤ m.lo) && decide (m.hi ≤ r.lo + r.len) && (!r.sync || m.sync) && (store || !m.wrote)

/-- The mark of a racer's access. -/
def Racer.mark (r : Racer) (store : Bool) : AccessMark :=
  { vcore := r.vcore % 2 ^ 12, interval := r.interval % 2 ^ 18, lid := r.lid, turn := r.turn, sync := r.sync, lo := r.lo, hi := r.lo + r.len
    eng := r.eng, wrote := store, inWord := !store }

/-- The outcome of the detector: what it finds, or the state with the shadow brought up to date. -/
inductive RaceOut where
  | race (other : Nat) (wrote : Bool) (granule : Nat)
  | pool
  | fault (va : Nat)
  | ok (s : State)

/-- Doubleword `j` of a read-set record (R256). -/
def State.rsWord (s : State) (p i j : Nat) : Nat := (s.pageReg p 0x2A8 + 64 * i + 8 * j) % 2 ^ 56
/-- An 8-byte read of the shadow or the read sets, or the address at which it faults (R255). -/
def State.shadowRead (s : State) (p va : Nat) : Except Nat Nat :=
  match s.walkNat p va 8 with
  | some x => .ok x
  | none => .error va
/-- Such writes, in order. -/
def State.shadowWrite (p : Nat) : List (Nat × Nat) → State → Except Nat State
  | [], s => .ok s
  | (va, x) :: ws, s =>
    match s.walkWrite p va (natToBytes 8 x) with
    | some t => State.shadowWrite p ws t
    | none => .error va

/-- The records of a read set, by their links; `fuel` is the size of the pool. -/
def State.rsChain (s : State) (p : Nat) : Nat → Nat → Except Nat (List Nat)
  | 0, _ => .ok []
  | fuel + 1, i => do
    let link ← s.shadowRead p (s.rsWord p i 7)
    if bitAt link 63 then
      let is ← s.rsChain p fuel (fld link 0 30)
      .ok (i :: is)
    else .ok [i]

/-- A read-set entry: 0 when unused, else bits [63:32] of a shadow word: valid, vcore, interval (R256); the other
bits are 0. (DESIGN CHOICE, log 127.) -/
def rsEntry (m : AccessMark) : Nat := 2 ^ 63 + m.vcore % 2 ^ 12 * 2 ^ 51 + m.interval % 2 ^ 18 * 2 ^ 32

/-- The records of the read set of a shadow word, and every reader that the word records, as vcore and interval (R255). -/
def State.shadowReads (s : State) (p w : Nat) : Except Nat (List Nat × List (Nat × Nat)) :=
  match fld w 30 2 with
  | 1 => .ok ([], [(fld w 18 12, fld w 0 18)])
  | 2 => do
    let chain ← s.rsChain p (s.rsPool p) (fld w 0 30)
    let xs ← chain.mapM (fun i => (List.range 7).mapM (fun j => s.shadowRead p (s.rsWord p i j)))
    .ok (chain, (xs.flatten.filter (fun x => bitAt x 63)).map (fun x => (fld x 51 12, fld x 32 18)))
  | _ => .ok ([], [])

/-- The accesses that a shadow word records, where the model has no marks for that word: of the racer's launch, of the whole granule, and
later than all that the racer knows. -/
def Racer.strangers (r : Racer) (w g : Nat) (xs : List (Nat × Nat)) : List AccessMark :=
  let mk (v i : Nat) (wrote : Bool) : AccessMark :=
    { vcore := v, interval := i, lid := r.lid, turn := r.turn, lo := g, hi := g + 64, wrote := wrote, inWord := !wrote }
  (if bitAt w 63 then [mk (fld w 51 12) (fld w 32 18) true] else []) ++ xs.map (fun x => mk x.1 x.2 false)

/-- The doublewords of a read set in its records. -/
def State.rsWords (s : State) (p : Nat) (chain : List Nat) (es : List AccessMark) : List (Nat × Nat) :=
  chain.zipIdx.flatMap (fun x =>
    (List.range 7).map (fun j => (s.rsWord p x.1 j, ((es[7 * x.2 + j]?).map rsEntry).getD 0)) ++
      [(s.rsWord p x.1 7, match chain[x.2 + 1]? with | some i => 2 ^ 63 + i | none => 0)])

/-- R255: a shadow word, its read set and the marks after a read: the word records the reads `es`; one reader stands in the word, several
in records. -/
def State.recordRead (s : State) (p va w : Nat) (chain : List Nat) (g : Nat) (marks es : List AccessMark) : RaceOut :=
  let n := if es.length ≤ 1 then 0 else ceilDiv es.length 7
  let fresh := ((List.range (s.rsPool p)).filter (fun i => !((s.drover p).rsUsed.contains i))).take (n - chain.length)
  let taken := chain.take n ++ fresh
  if taken.length < n then .pool
  else
    let summary := match taken, es with
      | i :: _, _ => 2 ^ 31 + i
      | [], m :: _ => 2 ^ 30 + m.vcore % 2 ^ 12 * 2 ^ 18 + m.interval % 2 ^ 18
      | [], [] => 0
    let used := taken.foldl NatSet.insert ((s.drover p).rsUsed.filter (fun i => !(chain.contains i)))
    let w' := w / 2 ^ 32 * 2 ^ 32 + summary
    match State.shadowWrite p (s.rsWords p taken es ++ [(va, w')]) s with
    | .error a => .fault a
    | .ok t => .ok { (t.modDrover p (fun d => { d with rsUsed := used })) with raceMarks := s.raceMarks.put (g * 8 + p) ⟨w', marks⟩ }

/-- R255: one granule's check and the recording of the access. A write clears the read summary and frees its records. -/
def State.raceGranule (s : State) (p : Nat) (r : Racer) (store : Bool) (g : Nat) : RaceOut :=
  let va := (fld (s.pageReg p 0x2A0) 0 56 + 8 * g) % 2 ^ 56
  match s.shadowRead p va with
  | .error a => .fault a
  | .ok w =>
    match s.shadowReads p w with
    | .error a => .fault a
    | .ok (chain, xs) =>
      let kept := Sparse.get {} s.raceMarks (g * 8 + p)
      let marks := if kept.word = w then kept.marks else r.strangers w (granuleBase g) xs
      match marks.find? (r.races store) with
      | some m => .race m.vcore m.wrote g
      | none =>
        let still := marks.filter (fun m => !(r.hides store m))
        if store then
          let w' := 2 ^ 63 + (r.mark true).vcore * 2 ^ 51 + (r.mark true).interval * 2 ^ 32
          match State.shadowWrite p [(va, w')] s with
          | .error a => .fault a
          | .ok t =>
            .ok { (t.modDrover p (fun d => { d with rsUsed := d.rsUsed.filter (fun i => !(chain.contains i)) })) with
              raceMarks := s.raceMarks.put (g * 8 + p) ⟨w', still.map (fun m => { m with inWord := false }) ++ [r.mark true]⟩ }
        else
          match s.walkTo p va true with
          | none => .fault va
          | some _ =>
            let seen := still.map (fun m => if m.inWord && r.knows m then { m with inWord := false } else m) ++ [r.mark false]
            s.recordRead p va w chain g seen (seen.filter (·.inWord))

/-- R254 over the granules of an access, in ascending order. -/
def State.raceRange (s : State) (p : Nat) (r : Racer) (store : Bool) : List Nat → RaceOut
  | [] => .ok s
  | g :: gs =>
    match s.raceGranule p r store g with
    | .ok s' => s'.raceRange p r store gs
    | x => x

/-- The granules of the shadow that `n` bytes at a physical address touch; none for a place without a shadow. -/
def granulesOf (pa n : Nat) : List Nat :=
  match shadowIndex pa with
  | none => []
  | some g => (List.range ((pa + n - 1) / 64 - pa / 64 + 1)).map (fun i => g + i)

/-- R238: an access of a context in a range of bytes of which alone it has acquired: what it acquired of them happens before everything
that follows the access. (DEDUCED, log 115.) -/
def State.linkPartials (s : State) (k lo n : Nat) : State :=
  let inside (x : Nat × Nat × Sparse Nat) : Bool := decide (x.1 ≤ lo) && decide (lo + n ≤ x.1 + x.2.1)
  if (s.known k).partials.any inside then
    s.modKnown k (fun h =>
      { h with
        clock := (h.partials.filter inside).foldl (fun c x => joinClock c (narrowClock x.1 x.2.1 x.2.2)) h.clock
        partials := h.partials.filter (fun x => !(inside x)) })
  else s

/-- The racer of a hart or drain access. -/
def State.racerOf (s : State) (k : Nat) (sync : Bool) (lo n : Nat) : Racer :=
  let sl := s.slotOf k
  { lid := sl.lid, vcore := sl.vcore, interval := sl.interval, known := s.known k, sync := sync, turn := s.turn, lo := lo, len := n
    eng := if isDrain k then (s.ctx k).stream else none }

/-- R254, R257, R259: the race check of a hart or drain access. The earlier access that RACE names is the first recorded of those that it
races with. (DESIGN CHOICE, log 127.) -/
def State.raceCheck (s : State) (k : Nat) (rq : Req) (l : Loc) (n : Nat) (st : Bool) : Exec State :=
  if !l.chk then .ok s
  else
    let gs := granulesOf l.key n
    match s.raceRange (s.paddockOf (coreOf k)) (s.racerOf k rq.sync l.key n) st gs with
    | .ok s' => .ok (s'.linkPartials k l.key n)
    | .fault va => trap PAGE_FAULT va
    | .pool => trap DET_VIOLATION (3 * 2 ^ 60 + rq.op)
    | .race o w g =>
      trap RACE (o % 2 ^ 12 * 2 ^ 52 + (if w then 2 ^ 51 else 0) + (if st then 2 ^ 50 else 0) + (l.va / 64 + (g - gs.headD 0)) % 2 ^ 50)

/-! ### Sampling and page counts (R194, R195) -/

/-- R195: an access of a core to a page whose entry has CNT set. -/
def State.countPage (s : State) (core page : Nat) : State :=
  s.modCore core (fun c => { c with pageCounts := c.pageCounts.put page (Sparse.get 0 c.pageCounts page + 1) })

/-- What a SPACE 0 access adds to the page's count and, of a hart, to the sampling ring; `kind` is 0 load, 1 store, 2 atomic. -/
def State.noteAccess (s : State) (k : Nat) (l : Loc) (kind : Nat) : State :=
  if l.space ≠ 0 || isService (coreOf k) then s
  else
    let co := coreOf k
    let s := if l.cnt then s.countPage co l.page else s
    let p := s.paddockOf co
    let cfg := (s.drover p).sampcfg.toNat
    let picked := (kind != 1 && bitAt cfg 16) || (kind != 0 && bitAt cfg 17)
    if isDrain k || !(bitAt cfg 0) || fld cfg 8 5 == 0 || !picked then s
    else
      let s := s.modCore co (fun c => { c with sampled := c.sampled + 1 })
      let logn := fld (s.pageReg p 0x248) 0 5
      if (s.core co).sampled % 2 ^ fld cfg 8 5 ≠ 0 || logn < 6 || 20 < logn then s
      else
        let head := fld (s.pageReg p 0x250) 0 32
        let tail := fld (s.pageReg p 0x258) 0 32
        if (head + 2 ^ 32 - tail) % 2 ^ 32 = 2 ^ logn then
          s.modDrover p (fun d => { d with regs := d.regs.put 0x260 (Sparse.get 0 d.regs 0x260 + 1) })
        else
          let rec0 := natToBytes 8 l.va ++ natToBytes 8 (s.localCore co + s.slotNo k * 2 ^ 16 + kind * 2 ^ 24) ++ natToBytes 8 s.time ++ natToBytes 8 0
          let s' := (s.walkWrite p (fld (s.pageReg p 0x240) 0 56 + 32 * (head % 2 ^ logn)) rec0).getD s
          s'.modDrover p (fun d => { d with regs := d.regs.put 0x250 (BitVec.ofNat 64 ((head + 1) % 2 ^ 32)) })

/-! ### MemAccess (R165) -/

/-- R165 steps 3 to 6: buffers, units and translation; the place of the access. -/
def locate (s : State) (k : Nat) (rq : Req) (c : Cap) (a : Nat) : Exec Loc := do
  let core := coreOf k
  if c.space = 0 then
    let (pa, i) ← s.translate k a (if rq.st then .store else .load)
    if s.crosses core pa rq.n then .error (.fin (s.violates k a))
    else .ok { key := pa, space := 0, core := core, addr := pa, va := a, chk := imgCHK i && decide (pa < 2 ^ 51),
               cnt := imgCNT i, tags := imgTAG i && decide (pa < 2 ^ 39), page := imgVA i + imgSize i }
  else if c.space = 5 then do
    need (!rq.st || rq.remote) PERM a
    if !rq.posted then s.remoteCheck k a rq.n
    .ok { key := placeKey 1 (fld a 44 12) (fld a 0 44), space := 5, core := fld a 44 12, addr := fld a 0 44, va := a, tags := true }
  else do
    need (decide (a + rq.n ≤ bufferSize core c.space)) BOUNDS a
    need (!rq.st || c.space == 1 || c.space == 3) PERM a
    .ok { key := placeKey c.space core a, space := c.space, core := core, addr := a, va := a, tags := c.space == 1 }

/-- The stores of R281: ST, STC, STV, SCAT, PST, STL, AMO, CAS, CASW, TIDST. -/
def weightStores : List Nat := [0x201, 0x203, 0x205, 0x207, 0x208, 0x241, 0x242, 0x243, 0x244, 0x361]

/-- R281 at the CheckWeightStore step. -/
def weightCheck (s : State) (k : Nat) (rq : Req) (c : Cap) (a : Nat) : Exec Unit :=
  if !rq.st || !(weightStores.contains rq.op) then .ok ()
  else
    match (s.slotOf k).weightHit (coreOf k) c.space a rq.n with
    | some t => trap WEIGHT_STORE (t * 2 ^ 58 + a)
    | none => .ok ()

/-- The waits of R162, R176 and R240: an access that must wait is met as not executed. -/
def accessWaits (s : State) (k : Nat) (rq : Req) (l : Loc) : Exec Unit :=
  if l.space ≠ 0 && !rq.posted && s.bufferWaits k l.core (if l.space = 5 then 1 else l.space) l.addr rq.n rq.st then .error (.stay s)
  else .ok ()

/-- R165 whole, but for STC's own step (`tagged` is the tag of the value that STC or CASW would write) and the access
itself: the state with the race detector's record, and the place. `writes` says whether the access at that place will write
(R247). -/
def memAccessIf (s : State) (k : Nat) (rq : Req) (r : CReg) (off : Int) (tagged : Bool) (permG : Bool) (writes : Loc → Bool) :
    Exec (State × Loc) := do
  let (c, a) ← capCheck s k rq r off
  let l ← locate s k rq c a
  need (!tagged || (l.tags && (permG || (l.space == 1) || (l.space == 5 && l.core == coreOf k)))) PERM a
  weightCheck s k rq c a
  let s' ← s.raceCheck k rq l rq.n (writes l)
  accessWaits s k rq l
  .ok (s', l)

/-- R165 for an access whose kind says whether it writes. (DEDUCED, log 25.) -/
def memAccess (s : State) (k : Nat) (rq : Req) (r : CReg) (off : Int) (tagged : Bool) (permG : Bool) : Exec (State × Loc) :=
  memAccessIf s k rq r off tagged permG (fun _ => rq.st)

/-- R160: whether a buffer read meets an uncorrectable error. -/
def State.poisoned (s : State) (l : Loc) (n : Nat) : Bool :=
  l.space ≠ 0 && s.poison.any (fun w => overlaps (w * 8) 8 l.key n)

/-- R160: how a hart load ends: in sequence, or with MATRIX_CHECK after its effect, and the core whose buffer holds the word quarantined.
(DEDUCED, log 109.) -/
def loadEnd (s : State) (l : Loc) (n : Nat) : Out :=
  if s.poisoned l n then
    { s := s.modCore l.core (fun c => { c with quarantined := true }),
      next := .after MATRIX_CHECK (2 ^ 63 + l.space % 8 * 2 ^ 60 + l.va % 2 ^ 56) }
  else { s := s }

/-- One more load of an instruction: the first uncorrectable error is the one that it traps with (R160). -/
def Out.loads (o : Out) (l : Loc) (n : Nat) : Out :=
  match o.next with
  | .seq => loadEnd o.s l n
  | _ => o

end Sys2Proof.Machine
end

