-- ==== Sys2Proof/Machine/Run.lean ====
section
/-!
DEFINITION. From the PC to an instruction and back: fetch (R84, R131), the checks of R93, the repetition buffer (R106),
which context is ready and which issues (R110), and how an instruction that has been met ends: guard, hints, traps and
the next PC (R20, R89, R90, R346).
-/

namespace Sys2Proof.Machine

/-! ### Fetch and decode -/

/-- Bytes that a fetch reads at a physical address, unless they lie beyond a boundary (R386). -/
def State.fetchPart (s : State) (k pc pa n : Nat) : Exec (List Byte) :=
  if s.crosses (coreOf k) pa n then .error (.fin (s.violates k pc)) else .ok (s.bytesAt pa n)

/-- The bytes of the word at an address, through the TLB with kind fetch. A line of text that has been written is fetched with its new
contents, one of the two that R25 allows. (DESIGN CHOICE, log 94.) -/
def State.fetchBytes (s : State) (k pc : Nat) : Exec (List Byte) := do
  let (pa, i) ← s.translate k pc .fetch
  let room := if isService (coreOf k) then 12 else 2 ^ pageShift (imgSize i) - pc % 2 ^ pageShift (imgSize i)
  if 12 ≤ room then s.fetchPart k pc pa 12
  else
    let (pb, _) ← s.translate k ((pc + room) % 2 ^ 56) .fetch
    let low ← s.fetchPart k pc pa room
    let high ← s.fetchPart k ((pc + room) % 2 ^ 56) pb (12 - room)
    .ok (low ++ high)

/-- R84, R131: the word at an address of the context. (DEDUCED, log 9.) -/
def State.fetchWord (s : State) (k pc : Nat) : Exec (BitVec 96) := do
  let c := s.ctx k
  need (pc % 4 == 0) ALIGN pc
  need (decide (c.regBase.toNat ≤ pc) && decide (pc + 12 ≤ c.regLimit.toNat)) BOUNDS pc
  let bs ← s.fetchBytes k pc
  .ok (bytesWord bs)

/-- What R93 needs to know of a context. -/
def State.decodeEnv (s : State) (k : Nat) : DecodeEnv :=
  { allot := if isDrain k then 16 else (s.ctx k).allot
    drain := isDrain k
    mode := (s.ctx k).mode
    service := isService (coreOf k)
    worker := (s.slotOf k).worker
    span := (s.gang (s.slotOf k).lid).span }

/-- A word of a context: the instruction, or the trap of R93 with TVAL by R94. -/
def State.decodeAt (s : State) (k : Nat) (body : Option Nat) (w : BitVec 96) : Exec Instr :=
  match decodeIn (s.decodeEnv k) body.isSome w with
  | .ok i => .ok i
  | .error t => trap t.cause (t.tval w body)

/-- R106: an operand of pass `p` of a repetition. -/
def stepOpnd (n : Nat) : Opnd → Opnd
  | .c r => .c (r + BitVec.ofNat 6 n)
  | .v r => .v (r + BitVec.ofNat 5 n)
  | .g r => .g (r + BitVec.ofNat 4 n)
  | .q r => .q (r + BitVec.ofNat 3 n)
  | o => o

/-- R106: a body word of pass `p`. -/
def stepInstr (r : RepState) (i : Instr) : Instr :=
  match i.opFields with
  | none => i
  | some (op, f) =>
    let n := r.pass * r.stride
    (instrOfOp op { f with
      d := if bitAt r.step 0 then stepOpnd n f.d else f.d
      a := if bitAt r.step 1 then stepOpnd n f.a else f.a
      b := if bitAt r.step 2 then stepOpnd n f.b else f.b }).getD i

/-- R91: the body of `n` words behind an address, fetched and checked. -/
def State.fetchBody (s : State) (k pc : Nat) : Nat → Nat → Exec (List Instr)
  | 0, _ => .ok []
  | n + 1, ix => do
    let w ← s.fetchWord k ((pc + 12 * (ix + 1)) % 2 ^ 56)
    let i ← s.decodeAt k (some ix) w
    let is ← s.fetchBody k pc n (ix + 1)
    .ok (i :: is)

/-- R91, R93: the checks of the words of a body, for a REP. -/
def State.bodyChecked (s : State) (k : Nat) : Instr → Exec Unit
  | .repI f => do
    let _ ← s.fetchBody k (s.ctx k).pc.toNat (f.mod 0 3 + 1) 0
    .ok ()
  | _ => .ok ()

/-- The instruction that a context issues next: of the repetition buffer, or the one at its PC; every check of R93 passes, those of a
REP's body among them, before any hint acts. -/
def State.nextInstr (s : State) (k : Nat) : Exec Instr :=
  match (s.ctx k).rep with
  | some r => .ok (stepInstr r (r.body.getD r.ix default))
  | none => do
    let w ← s.fetchWord k (s.ctx k).pc.toNat
    let i ← s.decodeAt k none w
    s.bodyChecked k i
    .ok i

/-! ### The issue choice (R90, R110, R347) -/

/-- An asynchronous trap or an interrupt is pending. -/
def Slot.anyPending (sl : Slot) : Bool :=
  !sl.pending.isEmpty || sl.intrPreempt.isSome || sl.intrTimer || sl.intrInbox || sl.intrMigrate

/-- R347: one is to be taken at the boundary before the next issue. -/
def State.takesPending (s : State) (k : Nat) : Bool := !isDrain k && (s.ctx k).ie && (s.slotOf k).anyPending

/-- R90: WAITMASK is drained, and the counter that SBSET names has room. -/
def Ctx.hintsMet (c : Ctx) (h : Hint) : Bool :=
  (List.range 8).all (fun n => !(bitAt h.waitmask.toNat n) || c.getSb n == 0) &&
    (h.sbset == 0 || decide (c.getSb (h.sbset.toNat - 1) < 63))

/-- The counter that an instruction charges (R90). -/
def chargeOf (h : Hint) : Option Nat := if h.sbset = 0 then none else some (h.sbset.toNat - 1)

/-- A stage worker stands at a PPOP (R365). -/
def State.atPpop (s : State) (k : Nat) : Bool :=
  match s.nextInstr k with
  | .ok (.ppop _) => true
  | _ => false

/-- R385: this module's own member is revoked, and the slot's context with ENCL is frozen: its engines stop at the units of R365. -/
def State.revokedHold (s : State) (key : Nat) : Bool :=
  s.revoked.contains 0 && (s.ctx (hartKey (key / 16) (key % 16))).frozen && (s.ctx (hartKey (key / 16) (key % 16))).encl

/-- The slot has met the stop that the Crook has signalled: a stage worker meets it at its next PPOP (R365). -/
def State.halting (s : State) (key : Nat) : Bool :=
  s.revokedHold key || (s.slot key).stopping && (!(s.slot key).worker || (s.slot key).ended || (s.slot key).startDue || s.atPpop (hartKey (key / 16) (key % 16)))

/-- The context is in hand: live, not frozen, and of a slot that is resident and has not met a stop. -/
def State.inPlay (s : State) (k : Nat) : Bool :=
  (s.ctx k).live && !(s.ctx k).frozen && (isDrain k || ((s.slotOf k).resident && !(s.halting (s.slotKeyOf k))))

/-- Nothing but the instruction itself keeps the context from issuing. A context to which it yields and that is no longer in hand holds
it no more (R90). -/
def State.mayIssue (s : State) (k : Nat) : Bool :=
  s.inPlay k && (s.ctx k).hold == 0 && (s.ctx k).yielding.all (fun j => !(s.inPlay j))

/-- Whether the misses of a context's core have changed. -/
def State.missedMore (t s : State) (k : Nat) : Bool := (t.core (coreOf k)).misses != (s.core (coreOf k)).misses

/-- R110: the context is ready. A fetch that stalls is met once, so that its miss is noted; one that has been noted is not. (DEDUCED, log 95.) -/
def State.ready (s : State) (k : Nat) : Bool :=
  s.mayIssue k &&
    (s.takesPending k ||
      ((s.ctx k).blocked != some s.epoch &&
        (if (s.slotOf k).relocks.isSome && !(isDrain k) then
          let (t, whole) := State.obtain k 256 s
          whole || t.missedMore s k
         else
          match s.nextInstr k with
          | .ok i => (match i.opFields with | some (_, f) => (s.ctx k).hintsMet f.hint | none => true)
          | .error (.stay t) => t.missedMore s k
          | .error _ => true)))

/-- R110: the context that the core issues from. -/
def State.choose (s : State) (core : Nat) : Option Nat :=
  let drains := ((List.range 4).map (drainKey core)).filter s.ready
  match drains.foldl (fun best k =>
      match best with
      | none => some k
      | some b => if (s.ctx k).started < (s.ctx b).started then some k else some b) none with
  | some k => some k
  | none =>
    ((List.range 16).map (fun i => hartKey core (((s.core core).lastSlot + 1 + i) % 16))).find? s.ready

/-- One core cycle passes at a core, in which context `k` issued (none for an empty cycle): holds run down, and the sets
of yielding contexts shrink (R90). (DEDUCED, log 95.) -/
def State.coreCycle (s : State) (core : Nat) (k : Option Nat) : State :=
  { s with
    ctxs := s.ctxs.map (fun e =>
      if e.1 / 32 = core then
        (e.1, { e.2 with
          hold := e.2.hold - 1
          yielding := e.2.yielding.filter (fun j => some j != k && s.ready j) })
      else e) }

/-- The other contexts of the core that are ready (R90). -/
def State.othersReady (s : State) (k : Nat) : List Nat :=
  ((List.range 20).map (fun i => coreOf k * 32 + i)).filter (fun j => j != k && s.ready j)

/-- R90: a context that starts to wait leaves the sets of the contexts that yield to it. -/
def State.leaveYields (s : State) (k : Nat) : State :=
  { s with ctxs := s.ctxs.map (fun (e : Nat × Ctx) => if e.2.yielding.contains k then (e.1, { e.2 with yielding := e.2.yielding.erase k }) else e) }

/-- What an issue does to the issue choice: the round-robin position, the holds and yields of the core, and the PACE of
the instruction that issued (R90, R110). `before` is the state in which it issued. -/
def State.issued (s before : State) (k pace : Nat) : State :=
  let s1 := s.coreCycle (coreOf k) (some k)
  let s2 := if isDrain k then s1 else s1.modCore (coreOf k) (fun c => { c with lastSlot := k % 32 })
  let s3 := s2.modCtx k (fun c =>
    { c with hold := pace % 8, yielding := if 8 ≤ pace then before.othersReady k else [], blocked := none,
             yielded := false })
  { s3 with epoch := s3.epoch + 1 }

/-! ### The end of an instruction -/

/-- The next instruction in sequence, or the next body word, pass or end of a repetition (R84, R106). The last pass completes, and
its charge ends (R91), when its last body word has been executed. (DEDUCED, log 96.) -/
def Ctx.advance (c : Ctx) : Ctx :=
  match c.rep with
  | none => { c with pc := c.pc + 12 }
  | some r =>
    if r.ix < r.len then { c with rep := some { r with ix := r.ix + 1 } }
    else if r.pass + 1 < r.count then { c with rep := some { r with ix := 0, pass := r.pass + 1 } }
    else ({ c with rep := none, pc := c.pc + BitVec.ofNat 56 (12 * (r.len + 2)) } : Ctx).releaseSb r.charge

/-- The PACE that acts when the instruction in hand has issued: its own, or the REP's after its last pass (R91). -/
def Ctx.paceNow (c : Ctx) (f : Fields) : Nat :=
  match c.rep with
  | none => f.hint.pace.toNat
  | some r => if r.ix < r.len || decide (r.pass + 1 < r.count) then 0 else r.pace

/-- The instruction has taken its effect. -/
def State.finish (before : State) (f : Fields) (o : Out) : State :=
  let k := before.cur
  let pace := (before.ctx k).paceNow f
  let s := (o.s.dropMisses k).modCtx k (fun c => { c with waitFrom := none })
  match o.next with
  | .seq => (s.modCtx k Ctx.advance).issued before k pace
  | .jump a => (s.modCtx k (fun c => { c with pc := BitVec.ofNat 56 a, rep := none })).issued before k pace
  | .after cause tval => ((s.modCtx k Ctx.advance).takeTrap k 0 cause tval).issued before k pace
  | .yield =>
    ((s.modCtx k Ctx.advance).issued before k (if pace < 8 then pace + 8 else pace)).modCtx k (fun c => { c with yielded := true })
  | .held => s.issued before k 0
  | .gone => s.issued before k pace
  | .moved => s.issued before k pace

/-- The instruction has stopped short of its effect. One that traps, or ends in an upcall, counts as an issue: it moves the round-robin
position and uses the core cycle (R110). (DESIGN CHOICE, log 116.) -/
def State.stopped (before : State) : Stop → State
  | .trap cause tval => ((before.dropMisses before.cur).takeTrap before.cur 0 cause tval).issued before before.cur 0
  | .fin s => (s.dropMisses before.cur).issued before before.cur 0
  | .stay s => (s.leaveYields before.cur).modCtx before.cur (fun c => { c with blocked := some s.epoch })

/-- The state after an instruction whose effect does not depend on bit 0 of its guard. -/
def stepVector (f : Fields) (body : State → Exec Out) (s : State) : State :=
  match body s with
  | .ok o => s.finish f o
  | .error e => s.stopped e

/-- The state after a scalar instruction: nothing but the hints when `GuardBit(0)` is 0 (R20). -/
def stepScalar (f : Fields) (body : State → Exec Out) (s : State) : State :=
  if s.guardBit f 0 then stepVector f body s else s.finish f { s := s }

/-- An instruction that tests its guard itself: a vector instruction tests its lanes (R142). -/
def runVector (f : Fields) (body : State → Exec Out) (s : State) : Result := .next (stepVector f body s)
/-- A scalar instruction. -/
def runScalar (f : Fields) (body : State → Exec Out) (s : State) : Result := .next (stepScalar f body s)

/-! ### R347: taking a pending item -/

/-- The first pending asynchronous trap of the orders of R347. -/
def firstPending (l : List Pending) : Option Pending :=
  l.foldl (fun best p =>
    match best with
    | none => some p
    | some b => if p.order < b.order then some p else some b) none

/-- The pending list without its first entry equal to `p`. -/
def dropPending (l : List Pending) (p : Pending) : List Pending := l.erase p

end Sys2Proof.Machine
end

