-- ==== Sys2Proof/Machine/Engine.lean ====
section
/-!
DEFINITION. The engines' shared parts: shares and banks (R73, R50, R201), how an engine command reaches memory (R182,
R199 to R200, R251), the acceptance of a push with its checks and range-scoreboard entries (R161, R197 to R205, R218 to
R220), and completion entries and the inbox (R200, R212, R214, R75).
-/

namespace Sys2Proof.Machine

/-- The index of an engine's FORK list: copy, matrix, quantisation (R210, R211). -/
def forkIx : Engine → Nat
  | .copy => 0
  | .matrix => 1
  | .quant => 2

/-- The stream of a command among those of its vcore (R252). -/
def cmdStream (e : Engine) (c : Cmd) : Nat := forkIx e + (if c.forked then 4 else 0)

/-- Doubleword `i` of a record. -/
def dw (r : BitVec 512) (i : Nat) : Nat := fld r.toNat (64 * i) 64

/-! ### Shares and banks -/

def bufferBytes (space : Nat) : Nat :=
  match space with
  | 1 => Config.bytesL
  | 2 => Config.bytesW
  | 3 => Config.bytesA
  | 4 => Config.bytesY
  | _ => 0
/-- R73: the size and the start of a slot's share. -/
def State.shareSize (s : State) (space : Nat) : Nat := bufferBytes space / s.kPer
def State.shareStart (s : State) (slot space : Nat) : Nat := slot * s.shareSize space

/-- An open cycle context of the slot's launch that has the slot's vcore as participant (R267). -/
def State.openCycles (s : State) (core slot : Nat) : List Cycle :=
  let sl := s.slot (slotKey core slot)
  ((List.range 8).map (fun i => Sparse.get {} s.cycles (s.paddockOf core * 8 + i))).filter (fun c =>
    (c.phase == 2 || c.phase == 3) && c.lid == sl.lid &&
      decide (fld c.desc.toNat 36 12 ≤ sl.vcore) && decide (sl.vcore ≤ fld c.desc.toNat 36 12 + fld c.desc.toNat 48 12))
/-- The published bank of an identifier that an open cycle lists as a state tensor (R275). -/
def State.publishedBank (s : State) (core slot idx : Nat) : Option Nat :=
  ((s.openCycles core slot).find? (fun c => bitAt (dw c.desc 3) idx)).map (·.pbank)
/-- R53: an identifier is locked while an open cycle lists it. -/
def State.tidLocked (s : State) (core slot idx : Nat) : Bool :=
  (s.openCycles core slot).any (fun c => bitAt (dw c.desc 3) idx || bitAt (dw c.desc 4) idx)

/-- R50: the address of a bank. -/
def Tensor.bankBase (t : Tensor) (bank : Nat) : Nat := t.base + bank * roundUp t.extent 64
/-- Entries and bytes of a scale vector. -/
def Tensor.scaleN (t : Tensor) : Nat := if t.saxis then t.cols else t.rows
def Tensor.scaleBytes (t : Tensor) : Nat := if t.sfmt = 1 then 4 else 1
def Tensor.scaleLen (t : Tensor) : Nat := if t.sfmt = 0 then 0 else t.scaleN * t.scaleBytes
def Tensor.scaleBase (t : Tensor) (bank : Nat) : Nat := t.scale + bank * roundUp t.scaleLen 64
/-- Bytes of an element of kinds 3 to 6. -/
def Tensor.elemBytes (t : Tensor) : Nat := if t.kind = 3 then 1 else if t.kind = 6 then 2 else 4

/-- A BSEL code against a tensor (R201): the bank, or `none` for a form error. -/
def State.bankOf (s : State) (core slot idx bsel : Nat) (t : Tensor) : Option Nat :=
  match bsel with
  | 0 => some 0
  | 1 => if t.state then some 1 else none
  | 2 => if t.state then s.publishedBank core slot idx else none
  | _ => none

/-! ### Memory, as an engine reaches it -/

/-- Why an engine's access does not happen: it waits on a miss, or on a host port that has not trained (R232); its command ends with
a status and an address; or its engine freezes. -/
inductive EStop where
  | miss (s : State)
  | host (addr : Nat)
  | fail (status addr : Nat)
  | freeze (addr : Nat)

/-- R182, R183 for an engine's access of `n` bytes of one page in SPACE 0. -/
def engTranslate (s : State) (core : Nat) (e : Engine) (c : Cmd) (va n : Nat) (st : Bool) : Except EStop (Nat × Nat) :=
  let C := s.core core
  match tlbFind C va with
  | some (_, i) =>
    if !(imgAdmits i c.mode (if st then .store else .load)) then .error (.fail 0x16 va)
    else if s.crosses core (imgMap i va) n then .error (.freeze va)
    else .ok (imgMap i va, i)
  | none =>
    if (s.slot (slotKey core c.slot)).lockedAt va then .error (.fail 0x16 va)
    else
      match C.misses.find? (fun m => m.engine == some e && m.va == va) with
      | some m => if m.fail = 0 then .error (.miss s) else .error (.fail 0x16 va)
      | none =>
        .error (.miss (s.modCore core (fun x =>
          { x with misses := x.misses ++ [{ ctx := none, engine := some e, slot := c.slot, va := va, kind := if st then 1 else 0 }] })))

/-- R195: an engine's access counts at its page. -/
def State.engCount (s : State) (core img : Nat) : State := if imgCNT img then s.countPage core (imgVA img + imgSize img) else s

/-- What an attempt that stalled has noted, and nothing else of it: its misses. -/
def State.keepMisses (s t : State) : State :=
  { s with cores := t.cores.map (fun (e : Nat × Core) => (e.1, { s.core e.1 with misses := e.2.misses })) }

/-- R174 for an engine's access to another core's L. -/
def engRemoteOk (s : State) (c : Cmd) (a n : Nat) : Bool :=
  let far := fld a 44 12
  let l := fld a 0 44
  !(s.revoked.contains 0 && (s.gang c.lid).encl) && decide (far < Config.cores) && decide (l + n ≤ Config.bytesL) &&
    (match s.shareOf l n with
     | none => c.mode != 0
     | some j => s.shareState (slotKey far j) c.lid (c.mode == 0) == some false)

/-- R251, R254, R259: the race check of an engine's access. (DEDUCED, log 18.) -/
def engRace (s : State) (core : Nat) (e : Engine) (c : Cmd) (pa n : Nat) (st : Bool) (va : Nat) : Except EStop State :=
  let sl := s.slot (slotKey core c.slot)
  let r : Racer :=
    { lid := c.lid, vcore := c.vcore, interval := sl.interval, known := { clock := c.clock }, sync := false, turn := s.turn
      lo := pa, len := n, eng := some ⟨c.vcore, cmdStream e c, c.seq, none⟩ }
  if sl.hurdleInterval + 2 ^ 17 < sl.interval then .error (.fail 0x1B va)
  else match s.raceRange (s.paddockOf core) r st (granulesOf pa n) with
  | .ok s' => .ok s'
  | .fault a => .error (.fail 0x16 a)
  | _ => .error (.fail 0x1B va)

/-- R231: the host port that carries a core's CXL.cache requests has trained. While it has not, a host access does not complete
(R232). -/
def State.hostPortUp (s : State) (core : Nat) : Bool :=
  if 4 ≤ dieOf (foldOf core) ∧ s.device.hostPorts.contains 1 then true else s.device.hostPorts.contains 0

/-- The key of the first of `n` bytes that lie in one page, for an engine command. -/
def engPlace (s : State) (core : Nat) (e : Engine) (c : Cmd) (space a n : Nat) (st : Bool) : Except EStop (State × Nat) :=
  if space = 0 then do
    let (pa, i) ← engTranslate s core e c a n st
    let s := s.engCount core i
    if 2 ^ 51 ≤ pa && !(s.hostPortUp core) then .error (.host a)
    else if imgCHK i && decide (pa < 2 ^ 51) then
      let s' ← engRace s core e c pa n st a
      .ok (s', pa)
    else .ok (s, pa)
  else if space = 5 then
    (if engRemoteOk s c a n then .ok (s, placeKey 1 (fld a 44 12) (fld a 0 44)) else .error (.fail 0x17 a))
  else if a + n ≤ bufferBytes space then .ok (s, placeKey space core a)
  else .error (.fail 0x13 a)

/-- A read of `n` bytes of one page by an engine command; an uncorrectable error ends it with ECC (R160). -/
def engRead (s : State) (core : Nat) (e : Engine) (c : Cmd) (space a n : Nat) : Except EStop (State × Nat) := do
  let (s', k) ← engPlace s core e c space a n false
  if s'.poison.any (fun w => overlaps (w * 8) 8 k n) then .error (.fail 0x18 a)
  else .ok (s', s'.read k n)

/-- A read of up to 64 bytes at any address: in two parts where a page of SPACE 0 ends within them. -/
def engReadAny (s : State) (core : Nat) (e : Engine) (c : Cmd) (space a n : Nat) : Except EStop (State × Nat) := do
  let room := if space = 0 then 2 ^ 19 - a % 2 ^ 19 else n
  if n ≤ room then engRead s core e c space a n
  else
    let (s1, x) ← engRead s core e c space a room
    let (s2, y) ← engRead s1 core e c space ((a + room) % 2 ^ 56) (n - room)
    .ok (s2, x + y * 2 ^ (8 * room))

/-- A write of `n` bytes of one page by an engine command. -/
def engWrite (s : State) (core : Nat) (e : Engine) (c : Cmd) (space a n x : Nat) : Except EStop State := do
  let (s', k) ← engPlace s core e c space a n true
  .ok (s'.write k n x)

/-- The misses that an engine noted are forgotten. -/
def State.dropEngMisses (s : State) (core : Nat) (e : Engine) : State :=
  s.modCore core (fun c => { c with misses := c.misses.filter (fun m => m.engine != some e) })

/-! ### Engines of a core -/

def Core.engine (c : Core) : Engine → EngineState
  | .copy => c.copy
  | .matrix => c.matrix
  | .quant => c.quant
def Core.setEngine (c : Core) (e : Engine) (x : EngineState) : Core :=
  match e with
  | .copy => { c with copy := x }
  | .matrix => { c with matrix := x }
  | .quant => { c with quant := x }
def State.engine (s : State) (core : Nat) (e : Engine) : EngineState := (s.core core).engine e
def State.modEngine (s : State) (core : Nat) (e : Engine) (g : EngineState → EngineState) : State :=
  s.modCore core (fun c => c.setEngine e (g (c.engine e)))

/-- Commands accepted and not started (R197). -/
def EngineState.waiting (x : EngineState) : Nat := x.queue.countP (fun q => match q with | .cmd _ => true | .list _ => false)

/-- R212: an entry enters a slot's inbox, or is held while the slot is not resident (R75); the change from empty raises
INBOX (R350). The caller has seen that there is room. What comes to a full inbox of a vcore that has ended its last item is dropped: no
instruction could take it, and the work of the vcore runs to completion (R31). (DESIGN CHOICE, log 99.) -/
def State.putInbox (s : State) (key : Nat) (x : InEntry) (names : List Nat := []) : State :=
  s.modSlot key (fun l =>
    if l.ended && decide (64 ≤ l.inbox.length) then l
    else if l.resident && l.held.isEmpty then
      { l with inbox := l.inbox ++ [x], intrInbox := l.intrInbox || (l.inbox.isEmpty && bitAt l.ien.toNat 1) }
    else { l with held := l.held ++ [⟨x, names⟩] })
/-- Room for one more entry; entries that were held are written first (R75). Nothing waits for the inbox of a vcore that has ended. -/
def Slot.inboxRoom (l : Slot) : Bool := !l.resident || l.ended || (l.held.isEmpty && decide (l.inbox.length < 64))
/-- Held entries enter the inbox of a slot that is resident, in the order in which they arose, while there is room. -/
def Slot.refill (l : Slot) : Slot :=
  if !l.resident || l.held.isEmpty then l
  else
    let n := 64 - l.inbox.length
    { l with inbox := l.inbox ++ (l.held.take n).map (·.entry), held := l.held.drop n, intrInbox := l.intrInbox || (l.inbox.isEmpty && bitAt l.ien.toNat 1) }

/-- R212: an inbox entry. -/
def inboxEntry (tag cls status count detail : Nat) : BitVec 128 :=
  BitVec.ofNat 128 (tag % 2 ^ 16 + cls % 2 ^ 8 * 2 ^ 16 + status % 2 ^ 8 * 2 ^ 24 + count % 2 ^ 32 * 2 ^ 32 + detail % 2 ^ 64 * 2 ^ 64)

/-- R212 CLASS of an engine. -/
def engineCls : Engine → Nat
  | .matrix => 1
  | .copy => 2
  | .quant => 3

/-- R200, R214, R221, R233: the completion of a command: an entry unless NOCMP suppresses a success, ENGINE_FAULT for an error
and MATRIX_CHECK, by the caller, for CHECK. -/
def completionOf (e : Engine) (c : Cmd) (status count detail cause tval : Nat) : Option Completion :=
  if status < 0x10 && status ≠ 0x04 && bitAt (dw c.record 0) 8 then none
  else
    let x := inboxEntry (fld (dw c.record 0) 16 16) (engineCls e) status count detail
    some
      { cmd := c, entry := x
        cause := if cause ≠ 0 then cause else if 0x10 ≤ status ∧ status ≠ 0x19 then ENGINE_FAULT else 0
        tval := if cause ≠ 0 then tval else x.toNat % 2 ^ 64 }

/-- R212: the entry of a completion, as its inbox receives it: whoever consumes it acquires the command's writes (R213). -/
def Completion.item (d : Completion) (e : Engine) : InEntry :=
  { val := d.entry
    clock := if d.cmd.seq = 0 then [] else d.cmd.clock.put (cmdKey d.cmd.lid d.cmd.vcore (cmdStream e d.cmd) d.cmd.seq) 1 }

/-- R161: the entries of a command are released: all, or only those that it reads. -/
def State.releaseRanges (s : State) (core id : Nat) (e : Engine) (readsOnly : Bool) : State :=
  s.modCore core (fun c =>
    { c with ranges := c.ranges.filter (fun r => !(r.cmd == id && r.engine == e && (!readsOnly || !r.write))) })

/-- R210: a FORK list of a slot ends on an engine, abandoned after an error. -/
def State.endList (s : State) (core slot : Nat) (e : Engine) (abandon : Bool) : State :=
  (s.modEngine core e (fun x => { x with queue := x.queue.filter (fun q => q != .list slot) })).modSlot (slotKey core slot)
    (fun l => { l with
      forks := l.forks.put (forkIx e) { Sparse.get {} l.forks (forkIx e) with active := false }
      abandoned := if abandon then setFld l.abandoned (forkIx e) 1 1 else l.abandoned })

/-- R200, R210: a command ends with a status: its completion waits for the inbox, or it retires here when it writes no
entry; an error abandons the list that it came from. -/
def State.finishCmd (s : State) (core : Nat) (e : Engine) (c : Cmd) (status count detail cause tval : Nat) : State :=
  let s := if c.forked && decide (0x10 ≤ status) then s.endList core c.slot e true else s
  match completionOf e c status count detail cause tval with
  | some d => (s.releaseRanges core c.id e true).modEngine core e (fun x => { x with done := x.done ++ [d] })
  | none => s.releaseRanges core c.id e false

/-- As `finishCmd`, of a command that was on its engine, and is on it no longer. -/
def State.endCmd (s : State) (core : Nat) (e : Engine) (c : Cmd) (status count detail cause tval : Nat) : State :=
  ((s.modEngine core e (fun x => if x.run.any (fun r => r.cmd.id == c.id) then { x with run := none } else x)).dropEngMisses core
    e).finishCmd core e c status count detail cause tval

/-- R163: whether a command may make its first access: no older entry overlaps one of its WRITE ranges, and no older
WRITE one of its READ ranges. Entries stand in the order of allocation. -/
def Core.rangesClear (c : Core) (id : Nat) (e : Engine) : Bool :=
  let mine := c.ranges.filter (fun r => r.cmd == id && r.engine == e)
  let older := c.ranges.takeWhile (fun r => !(r.cmd == id && r.engine == e))
  mine.all (fun m => older.all (fun o =>
    !(o.space == m.space && overlaps o.lo (o.hi - o.lo) m.lo (m.hi - m.lo) && (m.write || o.write))))

/-! ### The checks of R199 -/

/-- What the checks find: the banks of both operands and the regions, or a status. -/
abbrev Checked := Except Nat (Nat × Nat × List Region)

def chk (ok : Bool) (status : Nat) : Except Nat Unit := if ok then .ok () else .error status

/-- One end of a COPY (R201). -/
structure CopyEnd where
  form : Bool
  valid : Bool
  space : Nat
  addr : Nat
  extent : Nat
  inShare : Bool

def copyEnd (s : State) (core slot x : Nat) (isId : Bool) (len : Nat) : CopyEnd :=
  if isId then
    let t := (s.slot (slotKey core slot)).tensor (fld x 0 6)
    let bank := s.bankOf core slot (fld x 0 6) (fld x 8 2) t
    ⟨fld x 6 2 == 0 && x / 2 ^ 10 == 0 && fld x 8 2 != 3 && (t.kind == 0 || bank.isSome), t.kind != 0, t.space,
      t.bankBase (bank.getD 0), t.extent, true⟩
  else
    let sp := fld x 56 4
    let a := fld x 0 56
    let loc := decide (1 ≤ sp) && decide (sp ≤ 4)
    ⟨fld x 60 4 == 0 && decide (sp ≤ 6) && a % 64 == 0, true, sp,
      if loc then s.shareStart slot sp + a else a, 0, !loc || decide (a + len ≤ s.shareSize sp)⟩

/-- R199 step 2 for a region of a space: its SRCSP or DSTSP bit, and TBASE to TLIMIT. -/
def engcapOk (sl : Slot) (r : Region) : Bool :=
  decide (r.space < 6) && bitAt sl.engcap.toNat (r.space + (if r.write then 8 else 0)) &&
    (r.space != 0 || r.len == 0 || (decide (sl.tbase.toNat ≤ r.addr) && decide (r.addr + r.len - 1 ≤ sl.tlimit.toNat)))

/-- R199 step 6. -/
def weightOk (s : State) (core slot : Nat) (rs : List Region) : Bool :=
  rs.all (fun r => !r.write || ((s.slot (slotKey core slot)).weightHit core r.space r.addr r.len).isNone)

/-- A SPACE 5 range lies inside 256 KiB (R199 step 4). -/
def remoteFits (r : Region) : Bool := r.space != 5 || decide (fld r.addr 0 44 + r.len ≤ Config.bytesL)

/-- R158 for the copy engine. -/
def copyMay (r : Region) : Bool := if r.write then r.space != 4 else r.space != 2
/-- R158 for the quantisation engine. -/
def quantMay (r : Region) : Bool := r.write || (r.space != 2 && r.space != 4)

/-- The reserved fields of doubleword 0 of a record whose kind uses none of them; `two` admits SRCID and DSTID. -/
def head0 (d : Nat) (two cancel : Bool) : Bool :=
  fld d 32 32 == 0 && fld d 11 5 == 0 && (two || (fld d 10 1 == 0 && (cancel || fld d 9 1 == 0)))

/-- R201, R199: COPY. -/
def checkCopy (s : State) (core slot : Nat) (r : BitVec 512) : Checked := do
  let sl := s.slot (slotKey core slot)
  let sid := bitAt (dw r 0) 9
  let did := bitAt (dw r 0) 10
  let len := dw r 3
  let a := copyEnd s core slot (dw r 1) sid len
  let b := copyEnd s core slot (dw r 2) did len
  let n := if sid && did then a.extent else len
  chk (head0 (dw r 0) true false && fld len 32 32 == 0 && dw r 5 == 0 && dw r 6 == 0 && dw r 7 == 0) 0x10
  chk (a.form && b.form && len % 64 == 0) 0x10
  chk (if sid && did then len == 0 && (!a.valid || !b.valid || a.extent == b.extent)
       else (!sid || !a.valid || len == a.extent) && (!did || !b.valid || len == b.extent)) 0x10
  let src : Region := ⟨a.space, a.addr, n, false⟩
  let dst : Region := ⟨b.space, b.addr, n, true⟩
  chk (bitAt sl.engcap.toNat 16 && (!a.valid || engcapOk sl src) && (!b.valid || engcapOk sl dst)) 0x11
  chk (a.valid && b.valid) 0x12
  chk (a.inShare && b.inShare && remoteFits src && remoteFits dst) 0x13
  chk (copyMay src && copyMay dst) 0x14
  chk (weightOk s core slot [src, dst]) 0x15
  .ok (0, 0, [src, dst])

/-- R203: the place of block `b` of a DEAL: core index, and offset in the share. -/
def dealBlock (r : BitVec 512) (b : Nat) : Nat × Nat :=
  let d4 := dw r 4
  let cyc := fld d4 24 5
  ((fld d4 16 4 + b % cyc * fld d4 20 4) % 16, fld (dw r 2) 0 56 + b / cyc * fld d4 32 32)

/-- The hull of some regions of one buffer. -/
def hullOf : List Region → List Region
  | [] => []
  | r :: rs =>
    let lo := rs.foldl (fun m x => min m x.addr) r.addr
    let hi := rs.foldl (fun m x => max m (x.addr + x.len)) (r.addr + r.len)
    [{ r with addr := lo, len := hi - lo }]

/-- R203, R199: DEAL. A block for another core's L is tested against the slot's SPACE 5 WEIGHT tensors too (R281). The blocks for the issuing core are one region, from the lowest to the end of the highest, as a tensor's hull is
(R161). (DEDUCED, log 98.) -/
def checkDeal (s : State) (core slot : Nat) (r : BitVec 512) : Checked := do
  let sl := s.slot (slotKey core slot)
  let d4 := dw r 4
  let blk := 64 * fld d4 0 16
  let sp := fld (dw r 2) 56 4
  let len := fld (dw r 3) 0 32
  let nb := if blk = 0 then 0 else len / blk
  let src : Region := ⟨0, fld (dw r 1) 0 56, len, false⟩
  chk (head0 (dw r 0) false false && fld (dw r 1) 56 8 == 0 && fld (dw r 2) 60 4 == 0 && decide (1 ≤ sp) && decide (sp ≤ 3) &&
    fld (dw r 2) 0 56 % 64 == 0 && fld (dw r 3) 32 32 == 0 && fld d4 29 3 == 0 && decide (1 ≤ fld d4 24 5) &&
    decide (fld d4 24 5 ≤ 16) && fld d4 0 16 != 0 && len % blk == 0 && fld d4 32 32 % 64 == 0 &&
    dw r 6 == 0 && dw r 7 == 0) 0x10
  chk (bitAt sl.engcap.toNat 16 && engcapOk sl src && bitAt sl.engcap.toNat (8 + sp)) 0x11
  let blocks := (List.range nb).map (dealBlock r)
  chk (blocks.all (fun b => decide (b.2 + blk ≤ s.shareSize sp))) 0x13
  chk (blocks.all (fun b =>
    let t := s.slot (slotKey (core / 16 * 16 + b.1) slot)
    t.live && t.lid == sl.lid)) 0x14
  let place (b : Nat × Nat) : Region :=
    if b.1 = core % 16 then ⟨sp, s.shareStart slot sp + b.2, blk, true⟩
    else ⟨5, (core / 16 * 16 + b.1) * 2 ^ 44 + s.shareStart slot sp + b.2, blk, true⟩
  let mine := (blocks.filter (fun b => b.1 == core % 16)).map place
  chk (weightOk s core slot ((blocks.filter (fun b => b.1 == core % 16 || sp == 1)).map place)) 0x15
  .ok (0, 0, hullOf mine)

/-- R204: CMARK. -/
def checkCmark (s : State) (core slot : Nat) (r : BitVec 512) : Checked := do
  chk (head0 (dw r 0) false true && fld (dw r 1) 32 32 == 0 && dw r 2 == 0 && dw r 3 == 0 && dw r 4 == 0 && dw r 5 == 0 &&
    dw r 6 == 0 && dw r 7 == 0) 0x10
  chk (bitAt (s.slot (slotKey core slot)).engcap.toNat 16) 0x11
  .ok (0, 0, [])

/-- A tensor's region (R161): the hull of the bank. -/
def Tensor.region (t : Tensor) (bank : Nat) (write : Bool) : Region := ⟨t.space, t.bankBase bank, t.extent, write⟩
/-- A tensor's scale vector as a region. -/
def Tensor.scaleRegion (t : Tensor) (bank : Nat) (write : Bool) : Region := ⟨t.sspace, t.scaleBase bank, t.scaleLen, write⟩

/-- R205 to R208, R199: the quantisation kinds. QPACK into a tensor without scales is FORM. (DESIGN CHOICE, log 110.) -/
def checkQuant (s : State) (core slot : Nat) (r : BitVec 512) : Checked := do
  let sl := s.slot (slotKey core slot)
  let d1 := dw r 1
  let kind := fld (dw r 0) 0 8
  let si := fld d1 0 6
  let di := fld d1 16 6
  let a := sl.tensor si
  let b := sl.tensor di
  let abank := s.bankOf core slot si (fld d1 8 2) a
  let bbank := s.bankOf core slot di (fld d1 24 2) b
  let row0 := fld (dw r 2) 0 20
  let nrows := fld (dw r 2) 20 20
  let both := a.kind != 0 && b.kind != 0
  let apply := bitAt d1 38
  let prec := fld d1 32 4
  chk (head0 (dw r 0) false false && fld d1 39 25 == 0 && fld d1 36 1 == 0 && fld d1 26 6 == 0 && fld d1 22 2 == 0 &&
    fld d1 10 6 == 0 && fld d1 6 2 == 0 && fld (dw r 2) 40 24 == 0 && dw r 3 == 0 && dw r 4 == 0 && dw r 5 == 0 &&
    dw r 6 == 0 && dw r 7 == 0) 0x10
  chk (kind == 0x22 || (!apply && !(bitAt d1 37) && prec == 0)) 0x10
  chk (fld d1 8 2 != 3 && fld d1 24 2 != 3 && (a.kind == 0 || abank.isSome) && (b.kind == 0 || bbank.isSome)) 0x10
  let rowsFit (t : Tensor) : Bool := t.kind == 0 || decide (row0 + (if nrows = 0 then 1 else nrows) ≤ t.rows)
  chk ((!both || (a.rows == b.rows && a.cols == b.cols)) && rowsFit a && rowsFit b) 0x10
  chk (match kind with
    | 0x20 => b.kind == 0 || (b.sfmt != 0 && (!b.saxis || (row0 == 0 && nrows == 0)))
    | 0x21 => b.kind == 0 || b.sfmt != 0
    | _ => prec != 1 && (!a.planes || decide (prec ≤ a.p)) && !(apply && (b.kind == 3 || (a.kind != 0 && a.sfmt == 0)))) 0x10
  let ab := abank.getD 0
  let bb := bbank.getD 0
  let ofA : List Region := if kind = 0x22 ∧ apply then [a.region ab false, a.scaleRegion ab false] else [a.region ab false]
  let ofB : List Region :=
    match kind with
    | 0x20 => [b.scaleRegion bb true]
    | 0x21 => [b.scaleRegion bb false, b.region bb true]
    | _ => [b.region bb true]
  let regions := ofA ++ ofB
  chk (bitAt sl.engcap.toNat 18 && (a.kind == 0 || ofA.all (engcapOk sl)) && (b.kind == 0 || ofB.all (engcapOk sl))) 0x11
  let num (k : Nat) : Bool := k == 3 || k == 4 || k == 5 || k == 6
  let plane (k : Nat) : Bool := k == 1 || k == 2
  chk (match kind with
    | 0x22 => plane a.kind && (b.kind == 3 || b.kind == 5 || b.kind == 6)
    | _ => num a.kind && plane b.kind) 0x12
  chk (regions.all remoteFits) 0x13
  chk (regions.all quantMay) 0x14
  chk (weightOk s core slot regions) 0x15
  .ok (ab, bb, regions)

/-- One operand of an MMA (R218): tensor, bank, precision. -/
structure MmaOp where
  t : Tensor
  bank : Nat
  prec : Nat
  mid : Bool
  row0 : Nat
  form : Bool

/-- What R218 and R219 ask of an operand's doubleword alone. -/
def mmaOpForm (x : Nat) : Bool :=
  fld x 52 12 == 0 && fld x 18 14 == 0 && fld x 10 2 == 0 && fld x 6 2 == 0 && fld x 12 4 != 1 && fld x 8 2 != 3

def mmaOp (s : State) (core slot x : Nat) : MmaOp :=
  let i := fld x 0 6
  let t := (s.slot (slotKey core slot)).tensor i
  let bank := s.bankOf core slot i (fld x 8 2) t
  let p := fld x 12 4
  ⟨t, bank.getD 0, if p = 0 then t.dp else p, bitAt x 16, fld x 32 20,
    mmaOpForm x && (!t.planes || (decide (p ≤ t.p) && bank.isSome))⟩

/-- R218, R219, R223: MMA, for one member, of a slot whose ENGCAP is that of `isl`. A member slot without a vcore of the launch fails the
Access step, and has no identifiers to check before. -/
def checkMma (s : State) (isl : Slot) (core slot lid nhandler : Nat) (r : BitVec 512) : Checked := do
  let sl := s.slot (slotKey core slot)
  let here := sl.live && sl.lid == lid
  let a := mmaOp s core slot (dw r 1)
  let b := mmaOp s core slot (dw r 2)
  let d3 := dw r 3
  let d4 := dw r 4
  let d5 := dw r 5
  let m := fld d3 0 7 + 1
  let n := fld d3 8 7 + 1
  let klen := fld d3 16 16 + 1
  let k0 := fld d3 32 20
  chk (head0 (dw r 0) false false && mmaOpForm (dw r 1) && mmaOpForm (dw r 2) && (!here || (a.form && b.form)) && fld (dw r 2) 17 1 == 0 && fld d3 52 12 == 0 && fld d3 15 1 == 0 &&
    fld d3 7 1 == 0 && k0 % 32 == 0 && fld d4 36 28 == 0 && fld d4 14 2 == 0 && fld d4 7 1 == 0 && decide (fld d4 1 2 ≤ 1) &&
    (fld d4 1 2 == 0 || decide (fld d4 3 4 < nhandler)) && fld d5 5 59 == 0 && (bitAt d5 0 || fld d5 1 4 == 0) &&
    fld (dw r 6) 32 32 == 0 && dw r 7 == 0) 0x10
  let ra := a.t.region a.bank false
  let rb := b.t.region b.bank false
  chk (bitAt isl.engcap.toNat 17) 0x11
  chk here 0x14
  chk ((a.t.kind == 0 || engcapOk isl ra) && (b.t.kind == 0 || engcapOk isl rb)) 0x11
  chk (a.t.planes && b.t.planes) 0x12
  chk (decide (a.row0 + m ≤ a.t.rows) && decide (b.row0 + n ≤ b.t.rows) && decide (k0 + klen ≤ a.t.cols) &&
    decide (k0 + klen ≤ b.t.cols) && remoteFits ra && remoteFits rb) 0x13
  chk ((a.t.space == 2 || a.t.space == 3) && (b.t.space == 2 || b.t.space == 3)) 0x14
  .ok (a.bank, b.bank, [ra, rb])

/-- R220: MZERO and MMARK. -/
def checkPlainMatrix (s : State) (core slot : Nat) (r : BitVec 512) : Checked := do
  chk (head0 (dw r 0) false false && dw r 1 == 0 && dw r 2 == 0 && dw r 3 == 0 && dw r 4 == 0 && dw r 5 == 0 && dw r 6 == 0 &&
    dw r 7 == 0) 0x10
  chk (bitAt (s.slot (slotKey core slot)).engcap.toNat 17) 0x11
  .ok (0, 0, [])

/-- R198, R199: a command of an engine's queue, for the slot that pushed it. -/
def checkCommand (s : State) (core slot : Nat) (e : Engine) (r : BitVec 512) : Checked :=
  let sl := s.slot (slotKey core slot)
  match e, fld (dw r 0) 0 8 with
  | .copy, 0x10 => checkCopy s core slot r
  | .copy, 0x11 => checkDeal s core slot r
  | .copy, 0x12 => checkCmark s core slot r
  | .matrix, 0x01 => checkMma s sl core slot sl.lid sl.prog.handlers.length r
  | .matrix, 0x02 => checkPlainMatrix s core slot r
  | .matrix, 0x03 => checkPlainMatrix s core slot r
  | .quant, 0x20 => checkQuant s core slot r
  | .quant, 0x21 => checkQuant s core slot r
  | .quant, 0x22 => checkQuant s core slot r
  | _, _ => .error 0x10

/-! ### Acceptance -/

/-- R161: the entries of a command's local regions; the part of its WRITE entries and READ entries. -/
def rangeEntries (id : Nat) (e : Engine) (rs : List Region) : List RangeEntry :=
  (rs.filter (fun r => decide (1 ≤ r.space) && decide (r.space ≤ 4) && r.len != 0)).map (fun r =>
    ⟨id, e, r.space, r.addr / 64 * 64, roundUp (r.addr + r.len) 64, r.write⟩)

/-- The cores of a group command (R223). -/
def groupCores (core : Nat) (r : BitVec 512) : List Nat :=
  (List.range 8).map (fun m => core / 16 * 16 + (fld (dw r 5) 1 4 + m) % 16)

/-- Whether a record is a group MMA. -/
def isGroup (e : Engine) (r : BitVec 512) : Bool := e == .matrix && fld (dw r 0) 0 8 == 1 && bitAt (dw r 5) 0

/-- Two records of one command: a group command stands in the queues of its members under numbers of their own (R223). -/
def sameCmd (c d : Cmd) : Bool := c.issuer == d.issuer && c.lid == d.lid && c.vcore == d.vcore && c.forked == d.forked && c.seq == d.seq

/-- Where a command joins a queue: at its tail; ahead of the list that held it, at the head; or at the tail with the list of slot `slot`
behind it. -/
inductive Enter where
  | tail
  | head
  | tailBefore (slot : Nat)
  deriving DecidableEq, Repr

/-- A command joins a queue, with its entries (R161). -/
def State.enqueue (s : State) (core : Nat) (e : Engine) (c : Cmd) (rs : List Region) (at_ : Enter) : State :=
  s.modCore core (fun C =>
    let id := C.nextCmd
    let q := (C.engine e).queue
    let item := QItem.cmd { c with id := id }
    let q' := match at_ with
      | .tail => q ++ [item]
      | .head => item :: q
      | .tailBefore slot => q.filter (fun x => x != QItem.list slot) ++ [item, .list slot]
    let C1 := C.setEngine e { C.engine e with queue := q' }
    { C1 with nextCmd := id + 1, ranges := C.ranges ++ rangeEntries id e rs })

/-- Whether a queued command is the CMARK with CANCEL of a slot and record (R204). -/
def isCancel (slot : Nat) (r : BitVec 512) : QItem → Bool
  | .cmd c => c.slot == slot && c.record == r && c.status == 0 && fld (dw r 0) 0 8 == 0x12 && bitAt (dw r 0) 9
  | .list _ => false

/-- R204: what a CMARK with CANCEL withdraws: unstarted commands of the slot with a matching TAG. -/
def withdraws (slot : Nat) (r : BitVec 512) : QItem → Bool
  | .cmd c => c.slot == slot && c.status == 0 && c.progress == 0 &&
      (fld (dw c.record 0) 16 16 &&& fld (dw r 1) 16 16) == (fld (dw r 1) 0 16 &&& fld (dw r 1) 16 16)
  | .list _ => false

/-- The first step of R199 that some member of a group command fails: the codes rise with the steps. -/
def firstFailure (checks : List Checked) : Option Nat :=
  checks.foldl (fun m x => match m, x with | some a, .error b => some (min a b) | none, .error b => some b | m, .ok _ => m) none

/-- A stream of a vcore's commands numbers one more (R252). -/
def State.countCmd (s : State) (core slot stream : Nat) : State :=
  s.modSlot (slotKey core slot) (fun l => { l with engSeq := l.engSeq.put stream (Sparse.get 0 l.engSeq stream + 1) })

/-- A command of a slot's vcore under the next number of its stream (R252), and the state that has counted it. -/
def State.nameCmd (s : State) (core : Nat) (e : Engine) (c : Cmd) : State × Cmd :=
  let t := s.countCmd core c.slot (cmdStream e c)
  let sl := t.slot (slotKey core c.slot)
  (t, { c with lid := sl.lid, vcore := sl.vcore, issuer := core, seq := Sparse.get 0 sl.engSeq (cmdStream e c) })

/-- R197, R199, R222, R223: the acceptance of a command by a queue, `none` when it must wait: the queue, or a member's, is full, too few
range entries are free, or the unit, or a member's, is quarantined. A CMARK with CANCEL acts in the next turn, before any other. `front`
places a command that a FORK sequencer has read ahead of its list; a group command enters every member's queue at the tail, and its list
goes on behind it. (DEDUCED, log 117.) -/
def State.accept (s0 : State) (core : Nat) (e : Engine) (c0 : Cmd) (front : Bool) : Option State :=
  let (s, c) := s0.nameCmd core e c0
  let r := c0.record
  let sl := s.slot (slotKey core c0.slot)
  let single := if front then Enter.head else .tail
  if !front && decide (32 ≤ (s.engine core e).waiting) then none
  else if e == .matrix && (s.core core).quarantined then none
  else if isGroup e r then
    let members := groupCores core r
    if members.any (fun m => decide (32 ≤ (s.engine m .matrix).waiting) || (s.core m).quarantined) then none
    else
      let checks := members.map (fun m => checkMma s sl m c.slot c.lid sl.prog.handlers.length r)
      match firstFailure checks with
      | some st => some (s.enqueue core e { c with status := st } [] single)
      | none =>
        if (members.any (fun m => decide (30 < (s.core m).ranges.length))) then none
        else
          some ((List.range 8).foldl (fun s m =>
            match checks.getD m (.error 0), members.getD m 0 with
            | .ok (ab, bb, rs), mc => s.enqueue mc e { c with member := m, abank := ab, bbank := bb, regions := rs } rs (if front && mc == core then .tailBefore c.slot else .tail)
            | .error _, _ => s) s)
  else
    match checkCommand s core c.slot e r with
    | .error st => some (s.enqueue core e { c with status := st } [] single)
    | .ok (ab, bb, rs) =>
      let es := rangeEntries 0 e rs
      if 32 < (s.core core).ranges.length + es.length then none
      else
        let s' := s.enqueue core e { c with abank := ab, bbank := bb, regions := rs } rs single
        some (if e == .copy && fld (dw r 0) 0 8 == 0x12 && bitAt (dw r 0) 9 then
            { s' with agenda := { dt := 0, what := .cmarkCancel core c.slot r } :: s'.agenda }
          else s')

end Sys2Proof.Machine
end

