-- ==== Sys2Proof/Machine/Copy.lean ====
section
/-!
DEFINITION. The copy engine (R201 to R204, R231 to R233) and what all engines share when a command runs: starting, a
miss, an error, and the writing of completion entries (R200, R212, R214).
-/

namespace Sys2Proof.Machine

/-! ### Pieces of a range -/

/-- The 64-byte lines of `n` bytes at `a`: first address and length of each part. -/
def linePieces (a n : Nat) : List (Nat × Nat) :=
  if n = 0 then []
  else
    (List.range ((a + n - 1) / 64 - a / 64 + 1)).map (fun i =>
      let lo := max a ((a / 64 + i) * 64)
      let hi := min (a + n) ((a / 64 + i + 1) * 64)
      (lo, hi - lo))

/-- The parts of a range read in ascending order, lowest address first. -/
def engReadParts (core : Nat) (e : Engine) (c : Cmd) (space : Nat) : List (Nat × Nat) → State → Except EStop (State × List Byte)
  | [], s => .ok (s, [])
  | (a, n) :: ps, s => do
    let (s1, x) ← engRead s core e c space a n
    let (s2, bs) ← engReadParts core e c space ps s1
    .ok (s2, natToBytes n x ++ bs)

/-- The parts of a range written in ascending order. -/
def engWriteParts (core : Nat) (e : Engine) (c : Cmd) (space : Nat) : List (Nat × Nat) → List Byte → State → Except EStop State
  | [], _, s => .ok s
  | (a, n) :: ps, bs, s => do
    let s1 ← engWrite s core e c space a n (bytesToNat (bs.take n))
    engWriteParts core e c space ps (bs.drop n) s1

def engReadRange (s : State) (core : Nat) (e : Engine) (c : Cmd) (space a n : Nat) : Except EStop (State × List Byte) :=
  engReadParts core e c space (linePieces a n) s
def engWriteRange (s : State) (core : Nat) (e : Engine) (c : Cmd) (space a : Nat) (bs : List Byte) : Except EStop State :=
  engWriteParts core e c space (linePieces a bs.length) bs s

/-! ### Starting, waiting and stopping -/

/-- The command at the head of an engine's queue that may start now: the engine runs nothing, holds no entry for an inbox
(R212), is not frozen, and the command passed its checks and waits for no range (R163). -/
def State.headReady (s : State) (core : Nat) (e : Engine) : Option Cmd :=
  let x := s.engine core e
  if x.frozen || x.run.isSome || !x.done.isEmpty then none
  else
    match x.queue with
    | .cmd c :: _ =>
      if c.status == 0 && (s.core core).rangesClear c.id e && !(s.halting (slotKey c.issuer c.slot)) then some c else none
    | _ => none

/-- KIND of a command. -/
def cmdKind (c : Cmd) : Nat := fld (dw c.record 0) 0 8

/-- COUNT of a command that has been stopped: a QSCALE under COL has written no entry while it reads its rows (R206). -/
def Cmd.counted (c : Cmd) : Nat := if c.maxima.isEmpty then c.progress else 0
/-- A command as it begins: at its PROGRESS, with the sticky bits that a stopped part of it left in `detail` (R365). -/
def freshRun (c : Cmd) : Run :=
  { cmd := c, count := c.counted, nextRow := if c.maxima.isEmpty then 0 else c.progress, maxima := c.maxima, sat := bitAt c.detail 0
    invalid := bitAt c.detail 1 }
/-- A command as a stop takes it from its engine (R365). -/
def Run.stopped (r : Run) : Cmd :=
  { r.cmd with progress := r.count + r.nextRow, maxima := r.maxima, detail := (if r.sat then 1 else 0) + (if r.invalid then 2 else 0) }
/-- A command leaves its queue and runs. -/
def State.startCmd (s : State) (core : Nat) (e : Engine) (c : Cmd) : State :=
  s.modEngine core e (fun x => { x with queue := x.queue.tail, run := some (freshRun c) })

/-- The command of a kind that an engine has in hand: started, or started now at the head of the queue. -/
def State.inHand (s : State) (core : Nat) (e : Engine) (ok : Cmd → Bool) : Option (State × Run) :=
  let x := s.engine core e
  if x.frozen then none
  else
    match x.run with
    | some r => if ok r.cmd && !(s.halting (slotKey r.cmd.issuer r.cmd.slot)) then some (s, r) else none
    | none =>
      match s.headReady core e with
      | some c => if ok c then some (s.startCmd core e c, freshRun c) else none
      | none => none

/-- R386, R387: an engine freezes, and its command completes with nothing further written. -/
def State.freezeEngine (s : State) (core : Nat) (e : Engine) (c : Cmd) (addr : Nat) : State :=
  let note : Freeze :=
    { time := s.time, cause := 1, kind := 2, unit := engineCls e, slot := c.slot, core := core, addr := addr, lid := c.lid }
  ((s.modEngine core e (fun x => { x with frozen := true, run := none })).releaseRanges core c.id e false).reportFreeze (foldOf core) note

/-- R232: a host access that the link has not completed within 100 µs ends the command in hand with ECC; until then the command waits. -/
def State.hostWaits (s : State) (core : Nat) (e : Engine) (c : Cmd) (count a : Nat) : State :=
  match (s.engine core e).run with
  | some r =>
    match r.hostAt with
    | some (t, b) => if t + 100000 ≤ s.time then s.endCmd core e c 0x18 count (b % 2 ^ 56) 0 0 else s
    | none => s.modEngine core e (fun x => { x with run := some { r with hostAt := some (s.time, a) } })
  | none => s
/-- R232: the address of the host access of a run that the link has not completed within 100 µs. -/
def State.hostLate (s : State) (r : Run) : Option Nat := (r.hostAt.filter (fun x => decide (x.1 + 100000 ≤ s.time))).map (·.2)

/-- An access of the command in hand did not happen: a miss is noted and the command waits, as on a host port; an error ends it with
COUNT and, in DETAIL, the address and its space (R200). -/
def State.engStopped (s : State) (core : Nat) (e : Engine) (c : Cmd) (space count : Nat) : EStop → State
  | .miss t => s.keepMisses t
  | .host a => s.hostWaits core e c count a
  | .fail status a => s.endCmd core e c status count (space * 2 ^ 60 + a % 2 ^ 56) 0 0
  | .freeze a => s.freezeEngine core e c a

/-! ### COPY and DEAL -/

/-- One chunk: read whole, then written (R202). The space of a failing access goes with its stop. -/
def moveChunk (s : State) (core : Nat) (c : Cmd) (ss sa ds da dcore n : Nat) : Except (Nat × EStop) State :=
  match engReadRange s core .copy c ss sa n with
  | .error x => .error (ss, x)
  | .ok (s1, bs) =>
    if dcore ≠ core then .ok (s1.storeBytes (placeKey ds dcore da) bs)
    else
      match engWriteRange s1 core .copy c ds da bs with
      | .error x => .error (ds, x)
      | .ok s2 => .ok s2

/-- The next chunk of a COPY: 4 KiB, or what is left (R202). (DEDUCED, log 89.) -/
def copyChunk (s : State) (core : Nat) (r : Run) : State :=
  match s.hostLate r, r.cmd.regions with
  | some a, _ => s.endCmd core .copy r.cmd 0x18 r.count (a % 2 ^ 56) 0 0
  | none, [src, dst] =>
    let n := min 4096 (src.len - r.count)
    match moveChunk s core r.cmd src.space (src.addr + r.count) dst.space (dst.addr + r.count) core n with
    | .error (sp, x) => s.engStopped core .copy r.cmd sp r.count x
    | .ok t =>
      let t := t.dropEngMisses core .copy
      if r.count + n < src.len then t.modEngine core .copy (fun x => { x with run := some { r with count := r.count + n, hostAt := none } })
      else t.endCmd core .copy r.cmd 0 (r.count + n) 0 0 0
  | none, _ => s

/-- R203: a target slot of a DEAL holds a vcore of the issuer's launch. -/
def dealTargetsOk (s : State) (core : Nat) (c : Cmd) : Bool :=
  let blk := 64 * fld (dw c.record 4) 0 16
  (List.range (fld (dw c.record 3) 0 32 / blk)).all (fun b =>
    let t := s.slot (slotKey (core / 16 * 16 + (dealBlock c.record b).1) c.slot)
    t.live && t.lid == c.lid)

/-- The next chunk of a DEAL: 4 KiB of a block, or what is left of the block (R202, R203). -/
def dealChunk (s : State) (core : Nat) (r : Run) : State :=
  let rec0 := r.cmd.record
  let blk := 64 * fld (dw rec0 4) 0 16
  let len := fld (dw rec0 3) 0 32
  let sp := fld (dw rec0 2) 56 4
  let (j, off) := dealBlock rec0 (r.count / blk)
  let n := min 4096 (blk - r.count % blk)
  if r.count = r.cmd.progress && !(dealTargetsOk s core r.cmd) then s.endCmd core .copy r.cmd 0x14 0 0 0 0
  else if len ≤ r.count then s.endCmd core .copy r.cmd 0 r.count 0 0 0
  else
    match s.hostLate r, moveChunk s core r.cmd 0 (fld (dw rec0 1) 0 56 + r.count) sp (s.shareStart r.cmd.slot sp + off + r.count % blk)
        (core / 16 * 16 + j) n with
    | some a, _ => s.endCmd core .copy r.cmd 0x18 r.count (a % 2 ^ 56) 0 0
    | none, .error (sp', x) => s.engStopped core .copy r.cmd sp' r.count x
    | none, .ok t =>
      let t := t.dropEngMisses core .copy
      if r.count + n < len then t.modEngine core .copy (fun x => { x with run := some { r with count := r.count + n, hostAt := none } })
      else t.endCmd core .copy r.cmd 0 (r.count + n) 0 0 0

/-- R202 step 1: NOTBEFORE has passed. -/
def notBefore (c : Cmd) : Nat := if cmdKind c = 0x10 then dw c.record 4 else dw c.record 5
def timeCome (s : State) (c : Cmd) : Bool := decide (notBefore c ≤ s.time)

/-- R202: COPY, one chunk. -/
def copyStep (core : Nat) (s : State) : State :=
  match s.inHand core .copy (fun c => cmdKind c == 0x10 && timeCome s c) with
  | some (t, r) => copyChunk t core r
  | none => s
def execCopy (core : Nat) (s : State) : Result := .next (copyStep core s)

/-- R203: DEAL, one chunk. -/
def dealStep (core : Nat) (s : State) : State :=
  match s.inHand core .copy (fun c => cmdKind c == 0x11 && timeCome s c) with
  | some (t, r) => dealChunk t core r
  | none => s
def execDeal (core : Nat) (s : State) : Result := .next (dealStep core s)

/-- R202: TIME has reached the NOTBEFORE of the waiting command, which starts its first access. -/
def notbeforeReachedStep (core : Nat) (s : State) : State :=
  match s.headReady core .copy with
  | some c =>
    if notBefore c = 0 || !(timeCome s c) then s
    else if cmdKind c = 0x10 then copyStep core s
    else if cmdKind c = 0x11 then dealStep core s
    else s
  | none => s
def execNotbeforeReached (core : Nat) (s : State) : Result := .next (notbeforeReachedStep core s)

/-- R204: CMARK without CANCEL completes when every earlier command of the queue has retired. -/
def cmarkStep (core : Nat) (s : State) : State :=
  match s.inHand core .copy (fun c => cmdKind c == 0x12) with
  | some (t, r) => t.endCmd core .copy r.cmd 0 0 0 0 0
  | none => s
def execCmark (core : Nat) (s : State) : Result := .next (cmarkStep core s)

/-- R204, R233: CMARK with CANCEL, at acceptance: each withdrawn command releases its entries and completes with
CANCELLED, in queue order, and then the CMARK completes with their number. (DEDUCED, log 85.) -/
def cmarkCancelStep (core slot : Nat) (record : BitVec 512) (s : State) : State :=
  let q := (s.engine core .copy).queue
  match q.find? (isCancel slot record) with
  | some (.cmd mark) =>
    let earlier := q.takeWhile (fun x => x != .cmd mark)
    let gone := (earlier.filter (withdraws slot record)).filterMap (fun x => match x with | .cmd d => some d | .list _ => none)
    let outs := gone.filterMap (fun d => completionOf .copy { d with seq := 0 } 0x04 0 0 0 0)
    let last := (completionOf .copy { mark with seq := 0 } 0 gone.length 0 0 0).toList
    let ids := mark.id :: gone.map (·.id)
    (s.modEngine core .copy (fun y =>
        { y with queue := y.queue.filter (fun x => match x with | .cmd d => !(ids.contains d.id) | .list _ => true)
                 done := y.done ++ outs ++ last })).modCore core
      (fun C => { C with ranges := C.ranges.filter (fun r => !(r.engine == .copy && ids.contains r.cmd)) })
  | _ => s
def execCmarkCancel (core slot : Nat) (record : BitVec 512) (s : State) : Result := .next (cmarkCancelStep core slot record s)

/-- R178: an address of SPACE 0 that a core's TLB maps to the host tier. -/
def State.inHostTier (s : State) (core va : Nat) : Bool :=
  match tlbFind (s.core core) va with
  | some (_, i) => decide (2 ^ 51 ≤ imgMap i va)
  | none => false

/-- The next chunk of the copy in hand: source space and address, destination space, address and core, and bytes. -/
def State.nextChunk (s : State) (core : Nat) (r : Run) : Option (Nat × Nat × Nat × Nat × Nat × Nat) :=
  match cmdKind r.cmd, r.cmd.regions with
  | 0x10, [src, dst] => some (src.space, src.addr + r.count, dst.space, dst.addr + r.count, core, min 4096 (src.len - r.count))
  | 0x11, _ =>
    let rec0 := r.cmd.record
    let blk := 64 * fld (dw rec0 4) 0 16
    let sp := fld (dw rec0 2) 56 4
    let (j, off) := dealBlock rec0 (r.count / blk)
    if fld (dw rec0 3) 0 32 ≤ r.count || (r.count == r.cmd.progress && !(dealTargetsOk s core r.cmd)) then none
    else
      some (0, fld (dw rec0 1) 0 56 + r.count, sp, s.shareStart r.cmd.slot sp + off + r.count % blk, core / 16 * 16 + j,
        min 4096 (blk - r.count % blk))
  | _, _ => none

/-- The addresses of the host accesses that the next chunk makes: the lines that it reads, and those that it writes; where one of its
accesses fails, those before it. -/
def State.hostLines (s : State) (core : Nat) (r : Run) : List Nat :=
  match s.nextChunk core r with
  | none => []
  | some (ss, sa, ds, da, dcore, n) =>
    let lines (space a : Nat) : List Nat := if space = 0 then ((linePieces a n).map (·.1)).filter (s.inHostTier core) else []
    match moveChunk s core r.cmd ss sa ds da dcore n with
    | .ok _ => lines ss sa ++ lines ds da
    | .error (sp, .fail _ a) =>
      if sa ≤ a ∧ a < sa + n ∧ sp = ss then (lines ss sa).filter (fun x => decide (x < a)) else lines ss sa ++ (lines ds da).filter (fun x => decide (x < a))
    | .error _ => []

/-- R232: a host access of the copy in hand is answered with poisoned data, or its link, though trained, does not complete it within 100 µs:
whichever of the chunk's host accesses it is. While the port has not trained, the command waits the 100 µs. -/
def cxlAccessTimeoutStep (core : Nat) (s : State) : State :=
  match s.inHand core .copy (fun c => (cmdKind c == 0x10 || cmdKind c == 0x11) && timeCome s c) with
  | some (t, r) =>
    match s.hostLate r with
    | some a => t.endCmd core .copy r.cmd 0x18 r.count (a % 2 ^ 56) 0 0
    | none =>
      let ls := t.hostLines core r
      if ls.isEmpty then s
      else
        let a := ls.getD (Config.freeNat s.free % ls.length) 0
        { t.endCmd core .copy r.cmd 0x18 r.count (a % 2 ^ 56) 0 0 with free := s.free + 1 }
  | none => s
def execCxlAccessTimeout (core : Nat) (s : State) : Result := .next (cxlAccessTimeoutStep core s)

/-- The identifiers that a command names (R53). -/
def cmdNames (e : Engine) (c : Cmd) : List Nat :=
  let i (n : Nat) : Nat := fld (dw c.record n) 0 6
  match e with
  | .copy => if cmdKind c = 0x10 then (if bitAt (dw c.record 0) 9 then [i 1] else []) ++ (if bitAt (dw c.record 0) 10 then [i 2] else []) else []
  | .matrix => if cmdKind c = 1 then [i 1, i 2, fld (dw c.record 4) 8 6] else []
  | .quant => if decide (0x20 ≤ cmdKind c) && decide (cmdKind c ≤ 0x22) then [i 1, fld (dw c.record 1) 16 6] else []

/-! ### Completion entries -/

/-- Whether a queued item is a command. -/
def QItem.isCmd : QItem → Bool
  | .cmd _ => true
  | .list _ => false

/-- R199, R222: the head of a queue whose checks failed, or that a quarantined unit holds, completes with its status, in queue order. A
FORK list at the head of a quarantined unit's queue, of which no command can be accepted, lets the commands behind it complete (R369).
(DEDUCED, log 117.) -/
def State.failHead (s : State) (core : Nat) (e : Engine) : State :=
  let x := s.engine core e
  if x.run.isSome || !x.parts.isEmpty then s
  else
    match x.queue with
    | .cmd c :: _ =>
      let quar := e == .matrix && (s.core core).quarantined && !(isGroup e c.record)
      if c.status ≠ 0 || quar then
        let t := s.modEngine core e (fun y => { y with queue := y.queue.tail })
        t.finishCmd core e c (if c.status ≠ 0 then c.status else 0x19) 0 c.detail 0 0
      else s
    | .list j :: rest =>
      if e == .matrix && (s.core core).quarantined && rest.any QItem.isCmd then s.modEngine core e (fun y => { y with queue := rest ++ [.list j] })
      else s
    | [] => s

/-- The trap that goes with a completion waits on its slot (R214, R222): order 1 for MATRIX_CHECK and 4 for ENGINE_FAULT
(R347). -/
def Slot.withTrap (l : Slot) (cause tval : Nat) : Slot :=
  if cause = 0 then l
  else { l with pending := l.pending ++ [{ order := if cause = MATRIX_CHECK then 1 else 4, cause := cause, tval := tval }] }

/-- R212: the oldest finished command of an engine writes its completion entry and retires, when the inbox has room;
with none finished, a head that cannot run completes. -/
def engineCompletionStep (core : Nat) (e : Engine) (s : State) : State :=
  let x := s.engine core e
  match x.done with
  | d :: rest =>
    let key := slotKey core d.cmd.slot
    if x.frozen || !(s.slot key).inboxRoom then s
    else
      (((s.modEngine core e (fun y => { y with done := rest })).releaseRanges core d.cmd.id e false).putInbox key (d.item e)
        (cmdNames e d.cmd)).modSlot key
        (fun l => l.withTrap d.cause d.tval)
  | [] => if x.frozen then s else s.failHead core e
def execEngineCompletion (core : Nat) (e : Engine) (s : State) : Result := .next (engineCompletionStep core e s)

end Sys2Proof.Machine
end

