-- ==== Sys2Proof/Machine/Quant.lean ====
section
/-!
DEFINITION. Tensor rows in memory (R43, R46, R50) and the quantisation engine (R205 to R208).
-/

namespace Sys2Proof.Machine

/-! ### Rows -/

/-- Bytes of a plane row (R50). -/
def planeRowBytes (cols : Nat) : Nat := 4 * ceilDiv cols 32

/-- The bytes of a row of a tensor that is no bit-plane tensor. -/
def Tensor.rowBytes (t : Tensor) : Nat := t.cols * t.elemBytes

/-- The patterns of a row from the numbers that its planes hold, the most significant plane first (R43). -/
def joinPlanes (cols : Nat) (ps : List Nat) : List Nat :=
  (List.range cols).map (fun j => ps.foldl (fun x w => 2 * x + fld w j 1) 0)

/-- The number that plane `q` of `P` holds for a row of patterns; bits at the end of the row are zero (R43, R50). -/
def planeOf (P q : Nat) (xs : List Nat) : Nat := xs.foldr (fun x w => 2 * w + fld x (P - 1 - q) 1) 0

/-- Elements of `n` bytes. -/
def chunkBytes (n : Nat) : Nat → List Byte → List Nat
  | 0, _ => []
  | k + 1, bs => bytesToNat (bs.take n) :: chunkBytes n k (bs.drop n)

/-- The planes of a row, read from plane `q` on. -/
def readPlanes (s : State) (core : Nat) (e : Engine) (c : Cmd) (t : Tensor) (base row : Nat) : Nat → Nat → Except EStop (State × List Nat)
  | 0, _ => .ok (s, [])
  | k + 1, q => do
    let (s1, bs) ← engReadRange s core e c t.space (base + q * t.pstride + row * t.rstride) (planeRowBytes t.cols)
    let (s2, xs) ← readPlanes s1 core e c t base row k (q + 1)
    .ok (s2, bytesToNat bs :: xs)

/-- The patterns of a row; of a bit-plane tensor, planes 0 to p − 1 are read (R44), and the places of the others hold 0. -/
def readRow (s : State) (core : Nat) (e : Engine) (c : Cmd) (t : Tensor) (bank p row : Nat) : Except EStop (State × List Nat) := do
  let base := t.bankBase bank
  if t.planes then
    let (s1, ps) ← readPlanes s core e c t base row (min p t.p) 0
    .ok (s1, (joinPlanes t.cols ps).map (fun x => x * 2 ^ (t.p - p)))
  else
    let (s1, bs) ← engReadRange s core e c t.space (base + row * t.rstride) t.rowBytes
    .ok (s1, chunkBytes t.elemBytes t.cols bs)

/-- The planes of a row written. -/
def writePlanes (core : Nat) (e : Engine) (c : Cmd) (t : Tensor) (base row : Nat) (xs : List Nat) : Nat → Nat → State → Except EStop State
  | 0, _, s => .ok s
  | k + 1, q, s => do
    let s1 ← engWriteRange s core e c t.space (base + q * t.pstride + row * t.rstride)
      (natToBytes (planeRowBytes t.cols) (planeOf t.p q xs))
    writePlanes core e c t base row xs k (q + 1) s1

/-- A row of patterns written. -/
def writeRow (s : State) (core : Nat) (e : Engine) (c : Cmd) (t : Tensor) (bank row : Nat) (xs : List Nat) : Except EStop State :=
  let base := t.bankBase bank
  if t.planes then writePlanes core e c t base row xs t.p 0 s
  else engWriteRange s core e c t.space (base + row * t.rstride) (xs.flatMap (natToBytes t.elemBytes))

/-- Entry `i` of a tensor's scale vector. -/
def readScale (s : State) (core : Nat) (e : Engine) (c : Cmd) (t : Tensor) (bank i : Nat) : Except EStop (State × FVal) := do
  let (s1, x) ← engRead s core e c t.sspace (t.scaleBase bank + i * t.scaleBytes) t.scaleBytes
  .ok (s1, scaleVal t.sfmt x)

/-- Entries of a tensor's scale vector. -/
def readScales (core : Nat) (e : Engine) (c : Cmd) (t : Tensor) (bank : Nat) : List Nat → State → Except EStop (State × List FVal)
  | [], s => .ok (s, [])
  | i :: is, s => do
    let (s1, x) ← readScale s core e c t bank i
    let (s2, xs) ← readScales core e c t bank is s1
    .ok (s2, x :: xs)

/-- The scales of the elements of a row. -/
def rowScales (s : State) (core : Nat) (e : Engine) (c : Cmd) (t : Tensor) (bank row : Nat) : Except EStop (State × List FVal) := do
  if t.saxis then readScales core e c t bank (List.range t.cols) s
  else
    let (s1, x) ← readScale s core e c t bank row
    .ok (s1, List.replicate t.cols x)

/-- The value of an element of kind I8, I32, F32 or BF16. -/
def elemVal (kind x : Nat) : FVal :=
  match kind with
  | 3 => intVal (sx x 8)
  | 4 => intVal (sx x 32)
  | 5 => fval 23 x
  | _ => fval 7 x

/-- The integer of a bit-plane element's pattern (R43). -/
def planeVal (t : Tensor) (x : Nat) : Int := if t.kind = 1 then sx x t.p else zx x t.p

/-! ### The arithmetic -/

/-- R207, R228: an element divided by its scale, to the nearest integer between two bounds: the result, whether it
saturated, and whether the element or the scale was invalid. -/
def packElem (lo hi : Int) (x s : FVal) : Int × Bool × Bool :=
  if scaleBad s then (0, false, true)
  else
    match x, s with
    | .nan, _ => (0, false, true)
    | .inf n, .fin n' _ _ => (if n != n' then lo else hi, true, false)
    | .fin n m e, .fin n' m' e' =>
      let r := quotNearest (n != n') m e m' e'
      let q := satTo r lo hi
      (q, decide (q ≠ r), false)
    | _, _ => (0, false, true)

/-- Bounds of a bit-plane kind (R43). -/
def planeLo (t : Tensor) : Int := if t.kind = 1 then -((2 : Int) ^ (t.p - 1)) else 0
def planeHi (t : Tensor) : Int := if t.kind = 1 then (2 : Int) ^ (t.p - 1) - 1 else (2 : Int) ^ t.p - 1
/-- R205 qmax. -/
def qMax (t : Tensor) : Nat := (planeHi t).toNat

/-- The largest magnitude of a range of values; `none` when it holds a NaN or an infinity. -/
def largest : List FVal → Option (Nat × Int)
  | [] => some (0, 0)
  | .fin _ m e :: xs =>
    match largest xs with
    | some (m', e') => if finLe m e m' e' then some (m', e') else some (m, e)
    | none => none
  | _ :: _ => none

/-- R206: the scale entry of a range, whether it saturated, and whether it was invalid. -/
def scaleEntry (sfmt qmax : Nat) (xs : List FVal) : Nat × Bool × Bool :=
  match largest xs with
  | none => (if sfmt = 1 then 0x7FC00000 else 0xFF, false, true)
  | some (m, e) =>
    if m = 0 then (if sfmt = 1 then 0x3F800000 else 127, false, false)
    else if sfmt = 1 then
      let p := (divVal 23 (.fin false m e) (.fin false qmax 0)).1
      (if p = 0 then 1 else p, false, false)
    else
      match (List.range 255).find? (fun (k : Nat) => finLe m e qmax ((k : Int) - 127)) with
      | some k => (k, false, false)
      | none => (254, true, false)

/-- R208: one element of QUNPACK: the pattern, whether it saturated, and whether it was invalid. -/
def unpackElem (kind : Nat) (apply : Bool) (v : Int) (s : FVal) : Nat × Bool × Bool :=
  match kind with
  | 3 => (wrapN 8 (satI v 8), decide (satI v 8 ≠ v), false)
  | _ =>
    let fb := if kind = 5 then 23 else 7
    if apply then
      let w := (FVal.mul (intVal v) s).1
      ((roundVal fb 0 w).1, false, decide (w = .nan))
    else ((roundVal fb 0 (intVal v)).1, false, false)

/-! ### Commands -/

/-- The operands of a quantisation command (R205): both tensors, the first row and the number of rows. -/
structure QuantOps where
  a : Tensor
  b : Tensor
  row0 : Nat
  rows : Nat

def quantOps (s : State) (core : Nat) (c : Cmd) : QuantOps :=
  let sl := s.slot (slotKey core c.slot)
  let a := sl.tensor (fld (dw c.record 1) 0 6)
  let row0 := fld (dw c.record 2) 0 20
  let n := fld (dw c.record 2) 20 20
  ⟨a, sl.tensor (fld (dw c.record 1) 16 6), row0, if n = 0 then a.rows - row0 else n⟩

/-- What a row of a quantisation command answers: the state, and whether an element saturated or was invalid. -/
abbrev RowOut := Except (Nat × EStop) (State × Bool × Bool)

/-- The space of a failing access goes with its stop. -/
def atSpace {α : Type} (sp : Nat) : Except EStop α → Except (Nat × EStop) α
  | .ok x => .ok x
  | .error e => .error (sp, e)

/-- Whether any of a list of results saturated, and whether any was invalid. -/
def anyFlags {α : Type} (xs : List (α × Bool × Bool)) : Bool × Bool := (xs.any (·.2.1), xs.any (·.2.2))

/-- R206 under ROW: the entry of one row. -/
def qscaleRow (s : State) (core : Nat) (c : Cmd) (o : QuantOps) (row : Nat) : RowOut := do
  let (s1, xs) ← atSpace o.a.space (readRow s core .quant c o.a c.abank o.a.p row)
  let (p, sat, inv) := scaleEntry o.b.sfmt (qMax o.b) (xs.map (elemVal o.a.kind))
  let s2 ← atSpace o.b.sspace (engWrite s1 core .quant c o.b.sspace (o.b.scaleBase c.bbank + row * o.b.scaleBytes) o.b.scaleBytes p)
  .ok (s2, sat, inv)

/-- R207: one row. -/
def qpackRow (s : State) (core : Nat) (c : Cmd) (o : QuantOps) (row : Nat) : RowOut := do
  let (s1, xs) ← atSpace o.a.space (readRow s core .quant c o.a c.abank o.a.p row)
  let (s2, ss) ← atSpace o.b.sspace (rowScales s1 core .quant c o.b c.bbank row)
  let qs := List.zipWith (fun x y => packElem (planeLo o.b) (planeHi o.b) (elemVal o.a.kind x) y) xs ss
  let s3 ← atSpace o.b.space (writeRow s2 core .quant c o.b c.bbank row (qs.map (fun q => wrapN o.b.p q.1)))
  .ok (s3, anyFlags qs)

/-- R208: one row. -/
def qunpackRow (s : State) (core : Nat) (c : Cmd) (o : QuantOps) (row : Nat) : RowOut := do
  let d1 := dw c.record 1
  let p := if fld d1 32 4 = 0 then o.a.dp else fld d1 32 4
  let apply := bitAt d1 38
  let (s1, xs) ← atSpace o.a.space (readRow s core .quant c o.a c.abank p row)
  let (s2, ss) ← if apply then atSpace o.a.sspace (rowScales s1 core .quant c o.a c.abank row)
    else .ok (s1, List.replicate o.a.cols (FVal.fin false 1 0))
  let vs := List.zipWith (fun x y => unpackElem o.b.kind apply (planeRead (planeVal o.a x) o.a.p p (bitAt d1 37)) y) xs ss
  let s3 ← atSpace o.b.space (writeRow s2 core .quant c o.b c.bbank row (vs.map (·.1)))
  .ok (s3, anyFlags vs)

/-- The status of a quantisation command (R200). -/
def satStatus (sat inv : Bool) : Nat := (if sat then 1 else 0) + (if inv then 2 else 0)

/-- A block of rows: up to `fuel` rows from where the command stands (R205). -/
def quantRows (core : Nat) (o : QuantOps) (f : State → Cmd → Nat → RowOut) : Nat → Run → State → State
  | 0, r, s => s.modEngine core .quant (fun x => { x with run := some r })
  | fuel + 1, r, s =>
    if o.rows ≤ r.count then s.endCmd core .quant r.cmd (satStatus r.sat r.invalid) r.count 0 0 0
    else
      match s.hostLate r, f s r.cmd (o.row0 + r.count) with
      | some a, _ => s.endCmd core .quant r.cmd 0x18 r.count (a % 2 ^ 56) 0 0
      | none, .error (sp, x) =>
        (s.modEngine core .quant (fun y => { y with run := some r })).engStopped core .quant r.cmd sp r.count x
      | none, .ok (t, sat, inv) =>
        quantRows core o f fuel { r with count := r.count + 1, sat := r.sat || sat, invalid := r.invalid || inv, hostAt := none }
          (t.dropEngMisses core .quant)

/-- A block of 128 rows; a last block also ends the command (R205). -/
def quantBlock (core : Nat) (f : State → Cmd → QuantOps → Nat → RowOut) (t : State) (r : Run) : State :=
  let o := quantOps t core r.cmd
  quantRows core o (fun s c row => f s c o row) (if o.rows ≤ r.count + 128 then 129 else 128) r t

/-- Rows of a source, for a COL axis. -/
def readRows (core : Nat) (c : Cmd) (t : Tensor) (bank : Nat) : List Nat → State → Except EStop (State × List (List Nat))
  | [], s => .ok (s, [])
  | i :: is, s => do
    let (s1, x) ← readRow s core .quant c t bank t.p i
    let (s2, xs) ← readRows core c t bank is s1
    .ok (s2, x :: xs)

/-- Scale entries written in ascending order. -/
def writeScales (core : Nat) (c : Cmd) (t : Tensor) (bank : Nat) : List (Nat × Nat) → State → Except EStop State
  | [], s => .ok s
  | (i, p) :: ps, s => do
    let s1 ← engWrite s core .quant c t.sspace (t.scaleBase bank + i * t.scaleBytes) t.scaleBytes p
    writeScales core c t bank ps s1

/-- The pattern of two of a kind that has the larger magnitude, or is no finite number. -/
def largerOf (kind x y : Nat) : Nat :=
  match elemVal kind x, elemVal kind y with
  | .fin _ m e, .fin _ m' e' => if finLe m e m' e' then y else x
  | .fin _ _ _, _ => y
  | _, _ => x
/-- The largest pattern of each column, with the rows of one more block. -/
def colMaxima (kind : Nat) (acc : List Nat) (rows : List (List Nat)) : List Nat :=
  rows.foldl (fun acc row => if acc.isEmpty then row else List.zipWith (largerOf kind) acc row) acc

/-- R206 under COL: a block of 128 rows is read (R205); when all have been, the entry of every column is written. -/
def qscaleCols (core : Nat) (t : State) (r : Run) : State :=
  let o := quantOps t core r.cmd
  let c := r.cmd
  if r.nextRow < o.a.rows then
    let n := min 128 (o.a.rows - r.nextRow)
    match readRows core c o.a c.abank ((List.range n).map (r.nextRow + ·)) t with
    | .error x => t.engStopped core .quant c o.a.space 0 x
    | .ok (s1, xs) =>
      (s1.dropEngMisses core .quant).modEngine core .quant (fun y =>
        { y with run := some { r with nextRow := r.nextRow + n, maxima := colMaxima o.a.kind r.maxima xs, hostAt := none } })
  else
    let es := r.maxima.map (fun x => scaleEntry o.b.sfmt (qMax o.b) [elemVal o.a.kind x])
    match writeScales core c o.b c.bbank ((List.range o.a.cols).zip (es.map (·.1))) t with
    | .error x => t.engStopped core .quant c o.b.sspace 0 x
    | .ok s2 =>
      let fl := anyFlags es
      s2.endCmd core .quant c (satStatus fl.1 fl.2) o.a.cols 0 0 0

/-- R206 QSCALE, one block. -/
def qscaleStep (core : Nat) (s : State) : State :=
  match s.inHand core .quant (fun c => cmdKind c == 0x20) with
  | some (t, r) =>
    if (quantOps t core r.cmd).b.saxis then
      match s.hostLate r with
      | some a => t.endCmd core .quant r.cmd 0x18 0 (a % 2 ^ 56) 0 0
      | none => qscaleCols core t r
    else quantBlock core (fun s c o row => qscaleRow s core c o row) t r
  | none => s
def execQscale (core : Nat) (s : State) : Result := .next (qscaleStep core s)

/-- R207 QPACK, one block. -/
def qpackStep (core : Nat) (s : State) : State :=
  match s.inHand core .quant (fun c => cmdKind c == 0x21) with
  | some (t, r) => quantBlock core (fun s c o row => qpackRow s core c o row) t r
  | none => s
def execQpack (core : Nat) (s : State) : Result := .next (qpackStep core s)

/-- R208 QUNPACK, one block. -/
def qunpackStep (core : Nat) (s : State) : State :=
  match s.inHand core .quant (fun c => cmdKind c == 0x22) with
  | some (t, r) => quantBlock core (fun s c o row => qunpackRow s core c o row) t r
  | none => s
def execQunpack (core : Nat) (s : State) : Result := .next (qunpackStep core s)

end Sys2Proof.Machine
end

