-- ==== Sys2Proof/Machine/Matrix.lean ====
section
/-!
DEFINITION. The matrix unit (R215 to R226): its commands, the checksum lane, groups, and the handing of rows to drain
contexts.
-/

namespace Sys2Proof.Machine

/-! ### The product (R215) -/

/-- Every value of a table from index `i` on, `n` of them. -/
def dense {α : Type} (d : α) : Nat → Nat → Sparse α → List α
  | 0, _, _ => []
  | n + 1, i, [] => d :: dense d n (i + 1) []
  | n + 1, i, (k, v) :: t => if k = i then v :: dense d n (i + 1) t else d :: dense d n (i + 1) ((k, v) :: t)

/-- The table of a list of values from index `i` on, zeros unlisted. -/
def sparseOf (i : Nat) : List (BitVec 32) → Sparse (BitVec 32)
  | [] => []
  | x :: xs => if x = 0 then sparseOf (i + 1) xs else (i, x) :: sparseOf (i + 1) xs

/-- The exact sum of products over a K range. -/
def dot (xs ys : List Int) : Int := (List.zipWith (· * ·) xs ys).foldl (· + ·) 0

/-- R215: one cell: its new value, and whether it saturated. -/
def cellOf (old s : Int) : BitVec 32 × Bool :=
  let t := old + s
  (BitVec.ofInt 32 (satI t 32), decide (satI t 32 ≠ t))

/-- R215: the new tile from the read values of both operands, the dense old tile, and ACC: rows of 128 cells. -/
def tileRow (acc : Bool) (olds : List (BitVec 32)) (a : Option (List Int)) (bs : List (List Int)) : List (BitVec 32 × Bool) :=
  (List.range 128).map (fun j =>
    let old : BitVec 32 := if acc then olds.getD j 0 else 0
    match a, bs[j]? with
    | some x, some y => cellOf old.toInt (dot x y)
    | _, _ => (old, false))

/-- The rows of a dense tile. -/
def tileRows : Nat → List (BitVec 32) → List (List (BitVec 32))
  | 0, _ => []
  | n + 1, xs => xs.take 128 :: tileRows n (xs.drop 128)

/-- R215: the whole tile, and ASAT. -/
def product (acc : Bool) (tile : Sparse (BitVec 32)) (as bs : List (List Int)) : Sparse (BitVec 32) × Bool :=
  let rows := (tileRows 128 (dense 0 (128 * 128) 0 tile)).zipIdx.map (fun r => tileRow acc r.1 as[r.2]? bs)
  (sparseOf 0 (rows.flatMap (fun r => r.map (·.1))), rows.any (fun r => r.any (·.2)))

/-- The fields of an MMA (R218). -/
structure MmaFields where
  m : Nat
  n : Nat
  klen : Nat
  k0 : Nat
  acc : Bool
  drain : Bool
  handler : Nat
  dt : Nat
  drow0 : Nat
  side : Bool
  param : Nat

def mmaFields (r : BitVec 512) : MmaFields :=
  ⟨fld (dw r 3) 0 7 + 1, fld (dw r 3) 8 7 + 1, fld (dw r 3) 16 16 + 1, fld (dw r 3) 32 20, bitAt (dw r 4) 0, fld (dw r 4) 1 2 == 1,
    fld (dw r 4) 3 4, fld (dw r 4) 8 6, fld (dw r 4) 16 20, bitAt (dw r 1) 17, fld (dw r 6) 0 32⟩

/-- The read values of rows of an operand over the K range (R44, R215). -/
def readOperand (core : Nat) (c : Cmd) (o : MmaOp) (bank k0 klen : Nat) : List Nat → State → Except EStop (State × List (List Int))
  | [], s => .ok (s, [])
  | i :: is, s => do
    let (s1, xs) ← readRow s core .matrix c o.t bank o.prec i
    let ys := ((xs.drop k0).take klen).map (fun x => planeRead (planeVal o.t x) o.t.p o.prec o.mid)
    let (s2, rest) ← readOperand core c o bank k0 klen is s1
    .ok (s2, ys :: rest)

/-- R216: the plane-pair steps of a command. -/
def mmaSteps (f : MmaFields) (pa pb : Nat) : Nat := ceilDiv f.m 32 * ceilDiv f.n 32 * ceilDiv f.klen 512 * pa * pb

/-- R215: the plane-pair steps of a command on one unit, on the read values that its run keeps; the run then awaits its check. -/
def mmaProduct (s : State) (core : Nat) (r : Run) : State :=
  let c := r.cmd
  let f := mmaFields c.record
  let a := mmaOp s core c.slot (dw c.record 1)
  let b := mmaOp s core c.slot (dw c.record 2)
  let (tile, sat) := product f.acc (s.core core).tile r.rowsA r.rowsB
  s.modCore core (fun C =>
    { C with
      tileSaved := C.tile, tile := tile, tileOwner := some (c.slot, c.lid)
      matrix := { C.matrix with run := some { r with phase := 1, sat := sat, steps := r.steps + mmaSteps f a.prec b.prec } } })

/-- R215 on one unit: both operands are read, and the steps performed; with the last one the READ entries are released (R161). A replay
takes its read values from the run. (DEDUCED, log 101.) -/
def mmaCompute (s : State) (core : Nat) (r : Run) : Except (Nat × EStop) State := do
  let c := r.cmd
  let f := mmaFields c.record
  let a := mmaOp s core c.slot (dw c.record 1)
  let b := mmaOp s core c.slot (dw c.record 2)
  let (s1, as) ← atSpace a.t.space (readOperand core c a c.abank f.k0 f.klen ((List.range f.m).map (fun i => a.row0 + i)) s)
  let (s2, bs) ← atSpace b.t.space (readOperand core c b c.bbank f.k0 f.klen ((List.range f.n).map (fun j => b.row0 + j)) s1)
  .ok (((mmaProduct s2 core { r with rowsA := as, rowsB := bs }).releaseRanges core c.id .matrix true).dropEngMisses core .matrix)

/-! ### Completion -/

/-- R221 DETAIL. -/
def mmaDetail (steps dropped : Nat) (asat dsat dinv replay : Bool) : Nat :=
  fld steps 0 32 * 2 ^ 32 + (if dinv then 2 ^ 19 else 0) + (if dsat then 2 ^ 18 else 0) + (if asat then 2 ^ 17 else 0) +
    (if replay then 2 ^ 16 else 0) + fld dropped 0 16

/-- The cores that a matrix command runs on. -/
def mmaMembers (core : Nat) (c : Cmd) : List Nat := if isGroup .matrix c.record then groupCores c.issuer c.record else [core]

/-- The sum of a number over runs. -/
def sumOf (rs : List Run) (g : Run → Nat) : Nat := rs.foldl (fun n r => n + g r) 0

/-- The part of a command that a member has in hand. -/
def State.partOf (s : State) (m : Nat) (c : Cmd) : Option Run :=
  ((s.engine m .matrix).run.toList ++ (s.engine m .matrix).parts).find? (fun r => sameCmd r.cmd c)

/-- A member has nothing of a command any longer. -/
def State.dropPart (s : State) (m : Nat) (c : Cmd) : State :=
  match s.partOf m c with
  | some r =>
    (s.releaseRanges m r.cmd.id .matrix false).modEngine m .matrix (fun x =>
      { x with run := x.run.filter (fun y => !(sameCmd y.cmd c)), parts := x.parts.filter (fun y => !(sameCmd y.cmd c)) })
  | none => s

/-- The command as its issuer's unit numbers it; 0 where the issuer is no member. -/
def State.issued? (s : State) (c : Cmd) : Cmd :=
  match s.partOf c.issuer c with
  | some r => r.cmd
  | none => { c with id := 0 }

/-- R221 to R223: a command whose members have all ended completes on its issuer: the sums and the OR over the members.
`fixed` is a status, with its DETAIL, that replaces the computed ones. -/
def State.endMma (s : State) (core : Nat) (c : Cmd) (rs : List Run) (fixed : Option (Nat × Nat)) : State :=
  let members := mmaMembers core c
  let bad := (rs.zip members).find? (fun p => p.1.check)
  let asat := rs.any (·.sat)
  let dsat := rs.any (·.dsat)
  let dinv := rs.any (·.invalid)
  let status := if bad.isSome then 0x19 else if rs.any (·.halted) then 0x05 else satStatus (asat || dsat) dinv
  let detail := mmaDetail (sumOf rs (·.steps)) (sumOf rs (·.dropped)) asat dsat dinv (rs.any (·.replay))
  let t := members.foldl (fun (t : State) (m : Nat) => t.dropPart m c) s
  let ends (status detail cause tval : Nat) : State :=
    let done := { s.issued? c with clock := rs.foldl (fun x r => joinClock x r.after) c.clock }
    (t.releaseRanges c.issuer (s.issued? c).id .matrix false).finishCmd c.issuer .matrix done status (sumOf rs (·.count)) detail cause tval
  match fixed, bad with
  | some (st, d), _ => ends st d 0 0
  | none, some (_, m) => ends status detail MATRIX_CHECK (s.localCore m % 2 ^ 11 * 2 ^ 48 + fld (dw c.record 0) 16 16)
  | none, none => ends status detail 0 0

/-- A member has ended its part: the command completes when every member has (R223, R226). -/
def State.memberDone (s : State) (core : Nat) (r : Run) : State :=
  let t := s.modEngine core .matrix (fun x =>
    { x with
      run := x.run.filter (fun y => y.cmd.id != r.cmd.id)
      parts := x.parts.filter (fun y => y.cmd.id != r.cmd.id) ++ [{ r with phase := 3, rowsA := [], rowsB := [] }] })
  let rs := (mmaMembers core r.cmd).filterMap (fun m => t.partOf m r.cmd)
  if rs.all (fun x => x.phase == 3) && rs.length == (mmaMembers core r.cmd).length then t.endMma core r.cmd rs none else t

/-! ### The commands -/

/-- A command leaves the queues of its members without having run. -/
def State.popMembers (s : State) (members : List Nat) : State :=
  members.foldl (fun (t : State) (m : Nat) =>
    match (t.engine m .matrix).queue with
    | .cmd c :: _ => (t.modEngine m .matrix (fun x => { x with queue := x.queue.tail })).releaseRanges m c.id .matrix false
    | _ => t) s

/-- The command starts on every member, in the order of the members; an access that fails ends it there. (DEDUCED, log 86.) -/
def startMembers (c : Cmd) (core : Nat) : List Nat → State → State
  | [], s => s
  | m :: ms, s =>
    match s.headReady m .matrix with
    | none => s
    | some d =>
      let t := s.startCmd m .matrix d
      match mmaCompute t m { cmd := d } with
      | .ok t' => startMembers c core ms t'
      | .error (sp, .fail status a) =>
        ((t.popMembers (ms.filter (fun j => (t.headReady j .matrix).isSome))).dropEngMisses m .matrix).endMma core c []
          (some (status, sp * 2 ^ 60 + a % 2 ^ 56))
      | .error (_, .miss u) => s.keepMisses u
      | .error (_, .host _) => s
      | .error (_, .freeze a) => t.freezeEngine m .matrix d a

/-- R215, R217, R223: MMA: the steps of the command at the head of the queue, on every member at once. -/
def mmaStep (core : Nat) (s : State) : State :=
  match s.headReady core .matrix with
  | none => s
  | some c =>
    let members := mmaMembers core c
    let heads := members.map (fun m => s.headReady m .matrix)
    if cmdKind c ≠ 1 || (!(isGroup .matrix c.record) && (s.core core).quarantined) then s
    else if heads.any (fun h => match h with | some d => !(sameCmd d c) | none => true) then s
    else
      if members.any (fun m => (s.core m).quarantined) then (s.popMembers members).endMma core c [] (some (0x19, 0))
      else if bitAt (dw c.record 4) 0 && members.any (fun m => (s.core m).tileOwner != some (c.slot, c.lid)) then
        (s.popMembers members).endMma core c [] (some (0x1A, 0))
      else startMembers c core members s
def execMma (core : Nat) (s : State) : Result := .next (mmaStep core s)

/-- R220 MZERO. -/
def mzeroStep (core : Nat) (s : State) : State :=
  if (s.core core).quarantined then s
  else
    match s.inHand core .matrix (fun c => cmdKind c == 2) with
    | some (t, r) =>
      (t.modCore core (fun C => { C with tile := [], tileOwner := some (r.cmd.slot, r.cmd.lid) })).endCmd core .matrix r.cmd 0 0 0 0 0
    | none => s
def execMzero (core : Nat) (s : State) : Result := .next (mzeroStep core s)

/-- Every matrix command that stood before the head of a unit's queue has retired: none has a part here, and no group command of which
this unit is a member waits, at its issuer, for the inbox. -/
def State.matrixQuiet (s : State) (core : Nat) : Bool :=
  (s.engine core .matrix).parts.isEmpty &&
    (List.range 16).all (fun i => (s.engine (core / 16 * 16 + i) .matrix).done.all (fun d =>
      !(d.cmd.status == 0 && isGroup .matrix d.cmd.record && (groupCores d.cmd.issuer d.cmd.record).contains core)))

/-- R220 MMARK. -/
def mmarkStep (core : Nat) (s : State) : State :=
  if (s.core core).quarantined || !(s.matrixQuiet core) then s
  else
    match s.inHand core .matrix (fun c => cmdKind c == 3) with
    | some (t, r) => t.endCmd core .matrix r.cmd 0 0 0 0 0
    | none => s
def execMmark (core : Nat) (s : State) : Result := .next (mmarkStep core s)

/-- A command whose check has passed: it drains, or its member's part is done (R216, R224). -/
def State.checkPassed (s : State) (core : Nat) (r : Run) : State :=
  if (mmaFields r.cmd.record).drain then
    s.modEngine core .matrix (fun x => { x with run := some { r with phase := 2, rowsB := [] } })
  else s.memberDone core r

/-- R222: the checksum lane compares; on a mismatch the tile is restored and every step runs again once, on the same read values; on a
second (`again`) the core is quarantined. -/
def mmaCheckStep (core : Nat) (mismatch again : Bool) (s : State) : State :=
  match (s.engine core .matrix).run with
  | some r =>
    if r.phase ≠ 1 then s
    else if !mismatch then s.checkPassed core r
    else
      let u := mmaProduct (s.modCore core (fun C => { C with tile := C.tileSaved })) core { r with replay := true }
      match (u.engine core .matrix).run with
      | none => u
      | some r2 =>
        if again then (u.modCore core (fun C => { C with quarantined := true })).memberDone core { r2 with check := true }
        else u.checkPassed core r2
  | none => s
def execMmaCheck (core : Nat) (mismatch again : Bool) (s : State) : Result := .next (mmaCheckStep core mismatch again s)

/-! ### Draining (R224, R226) -/

/-- A buffer area of a slot as R30 gives it. -/
def State.areaCap (s : State) (slot space perm fp : Nat) : CReg := mkCap space perm (s.shareStart slot space) fp

/-- Lanes of 32 bits, sixteen to a register, as the registers from `v` on. -/
def laneRegs (v : Nat) (xs : List Nat) : Sparse VReg :=
  (List.range 8).map (fun q =>
    (v + q, BitVec.ofNat 512 (((xs.drop (16 * q)).take 16).foldr (fun x w => x % 2 ^ 32 + w * 2 ^ 32) 0)))

/-- R224: SIDE: the read values of the row of A. -/
def sideLanes (r : Run) (row : Nat) : List Nat :=
  if (mmaFields r.cmd.record).side then ((r.rowsA.getD row []).take 128).map (wrapN 32) else []

/-- R224, R131: the entry state of a handler for a row; its accesses happen after what the command's do (R251). (DEDUCED, log 14.) (DEDUCED, log 90.) -/
def handlerEntry (s : State) (core : Nat) (r : Run) (row : Nat) : Ctx :=
  let f := mmaFields r.cmd.record
  let slot := r.cmd.slot
  let sl := s.slot (slotKey core slot)
  let G := s.gang sl.lid
  let acc := (List.range 128).map (fun j => (Sparse.get 0 (s.core core).tile (128 * row + j)).toNat)
  { live := true
    pc := BitVec.ofNat 56 (sl.prog.handlers.getD f.handler 0)
    regBase := BitVec.ofNat 56 sl.prog.text
    regLimit := BitVec.ofNat 57 (sl.prog.text + 12 * sl.prog.textN)
    allot := 16
    c := [(1, CReg.word (f.drow0 + row)), (2, CReg.word (fld (dw r.cmd.record 0) 16 16)), (3, CReg.word f.dt),
          (4, s.areaCap slot 1 0x0B sl.prog.fpL), (5, s.areaCap slot 4 0x01 sl.prog.fpY),
          (6, CReg.word (if isGroup .matrix r.cmd.record then r.cmd.member else 0)), (7, CReg.word f.param)]
    v := laneRegs 0 acc ++ laneRegs 8 (sideLanes r row)
    status := BitVec.ofNat 64 (r.cmd.mode + (if G.encl then 2 ^ 27 else 0) + G.level * 2 ^ 28)
    started := (s.core core).handlers
    row := row
    command := r.cmd.id
    stream := some ⟨r.cmd.vcore, cmdStream .matrix r.cmd, r.cmd.seq, some (128 * r.cmd.member + row)⟩
    known := { clock := r.cmd.clock } }

/-- The command that a drain context drains: in hand, or past its last row. -/
def State.drained (s : State) (core id : Nat) : Option Run :=
  ((s.engine core .matrix).run.toList ++ (s.engine core .matrix).parts).find? (fun r => r.cmd.id == id)
/-- What a member holds of a command, renewed where it stands. -/
def State.putRun (s : State) (core : Nat) (r : Run) : State :=
  let renew (y : Run) : Run := if y.cmd.id == r.cmd.id then r else y
  s.modEngine core .matrix (fun x => { x with run := x.run.map renew, parts := x.parts.map renew })

/-- Rows handed out so far have all ended, and no more are handed out: the member's part is done (R226). -/
def State.drainEnds (s : State) (core : Nat) (r : Run) : State :=
  let stop := r.halted || (s.halting (slotKey core r.cmd.slot))
  if r.ended = r.nextRow && (stop || (mmaFields r.cmd.record).m ≤ r.nextRow) then (s.putRun core r).memberDone core r else s.putRun core r

/-- R224: the next row goes to a free drain context, whose handler starts; none is handed out under a stop (R226). With the last row
the unit is free for its next command (R216). -/
def drainRowHandoffStep (core : Nat) (s : State) : State :=
  match (s.engine core .matrix).run with
  | some r =>
    if r.phase ≠ 2 || (s.engine core .matrix).frozen then s
    else if r.halted || (s.halting (slotKey core r.cmd.slot)) then s.drainEnds core r
    else
      match (List.range 4).find? (fun d => !(s.ctx (drainKey core d)).live) with
      | none => s
      | some d =>
        let r' := { r with nextRow := r.nextRow + 1 }
        ((s.setCtx (drainKey core d) (handlerEntry s core r r.nextRow)).modCore core (fun C =>
          { C with handlers := C.handlers + 1, drainSlot := C.drainSlot.put d r.cmd.slot })).modEngine core .matrix (fun x =>
            if (mmaFields r.cmd.record).m ≤ r'.nextRow then { x with run := none, parts := x.parts ++ [{ r' with rowsA := [] }] }
            else { x with run := some r' })
  | none => s
def execDrainRowHandoff (core : Nat) (s : State) : Result := .next (drainRowHandoffStep core s)

end Sys2Proof.Machine
end

