-- ==== Sys2Proof/Machine/Control.lean ====
section
/-!
DEFINITION. Control flow (R131 to R133) and the repetition prefix (R105 to R108).
-/

namespace Sys2Proof.Machine

/-- R131: a target inside the context's code region. -/
def Ctx.inRegion (c : Ctx) (t : Nat) : Bool := decide (c.regBase.toNat ≤ t) && decide (t + 12 ≤ c.regLimit.toNat)

/-- A PC-relative transfer (R132): the target, checked. -/
def relTarget (f : Fields) (s : State) : Exec Nat := do
  let c := s.ctx s.cur
  let t := addr56 ((c.pc.toNat : Int) + 12 * offsetOf f)
  need (c.inRegion t) BOUNDS t
  .ok t

/-- R132 JMP: the target of a register or capability, checked, and the code region there. (DEDUCED, log 12.) -/
def regTarget (op : Nat) (f : Fields) (s : State) : Exec (Nat × BitVec 56 × BitVec 57) := do
  let c := s.ctx s.cur
  let r := s.capOpnd f.a
  if r.tag then
    let (cp, a) ← capCheck s s.cur { op := op, field := 2, opnd := f.a, n := 12, al := 4, ld := false, st := false, ex := true } r 0
    need (cp.space == 0) PERM a
    .ok (a, BitVec.ofNat 56 cp.base, BitVec.ofNat 57 (Nat.min (cp.base + cp.len) (2 ^ 56)))
  else
    let t := r.val.toNat % 2 ^ 56
    need (c.inRegion t) BOUNDS t
    .ok (t, c.regBase, c.regLimit)

/-- The transfer to a target of `regTarget`. -/
def takeTarget (s : State) (t : Nat × BitVec 56 × BitVec 57) : Exec Out :=
  .ok { s := s.modCtx s.cur (fun c => { c with regBase := t.2.1, regLimit := t.2.2 }), next := .jump t.1 }

/-- The return address (R132). -/
def State.linkD (s : State) (f : Fields) : State := s.setD f.d (CReg.word (((s.ctx s.cur).pc.toNat + 12) % 2 ^ 56))

def braBody (f : Fields) (s : State) : Exec Out := do
  let t ← relTarget f s
  .ok { s := s, next := .jump t }
def execBra (f : Fields) (s : State) : Result := runScalar f (braBody f) s

def jmpBody (f : Fields) (s : State) : Exec Out := do
  let t ← regTarget 0x0C1 f s
  takeTarget s t
def execJmp (f : Fields) (s : State) : Result := runScalar f (jmpBody f) s

def callBody (f : Fields) (s : State) : Exec Out := do
  let t ← relTarget f s
  .ok { s := s.linkD f, next := .jump t }
def execCall (f : Fields) (s : State) : Result := runScalar f (callBody f) s

def callIndBody (f : Fields) (s : State) : Exec Out := do
  let t ← regTarget 0x0C2 f s
  takeTarget (s.linkD f) t
def execCallInd (f : Fields) (s : State) : Result := runScalar f (callIndBody f) s

def retBody (f : Fields) (s : State) : Exec Out := do
  let t ← regTarget 0x0C3 f s
  takeTarget s t
def execRet (f : Fields) (s : State) : Result := runScalar f (retBody f) s

/-- R133 NOP: only its hints act. -/
def execNop (f : Fields) (s : State) : Result := runScalar f done s

/-- R133 YIELD. -/
def execYield (f : Fields) (s : State) : Result := runScalar f (fun s => .ok { s := s, next := .yield }) s

/-! ### REP -/

/-- R106 case 1: the instructions that no body may hold. -/
def barredInBody : Instr → Bool
  | .repI _ => true
  | .bra _ => true
  | .jmp _ => true
  | .call _ => true
  | .callInd _ => true
  | .ret _ => true
  | .endItem _ => true
  | .tail _ => true
  | .yield _ => true
  | _ => false

/-- R107. -/
def repTval (code ix field spec count : Nat) : Nat :=
  code * 2 ^ 60 + ix % 8 * 2 ^ 56 + field * 2 ^ 53 + spec * 2 ^ 46 + count % 2 ^ 32

/-- R106 cases 2 to 4 for one stepped field. -/
def stepFault (e : DecodeEnv) (used : Bool) (stride count : Nat) (o : Opnd) : Option Nat :=
  let last := opndNum o + (count - 1) * stride
  match o.kind? with
  | none => some 2
  | some .special => some 2
  | some kd =>
    let top := match kd with | .c => 63 | .v => 31 | .g => 15 | _ => 7
    if !used then some 2
    else if count = 0 then none
    else if top < last then some 3
    else
      match kd with
      | .c => if e.allot ≤ last then some 4 else none
      | .v => if e.drain && decide (16 ≤ last) then some 4 else none
      | _ => none

/-- R106 cases 2 to 4 over the fields of one body word, in the order D, A, B: the case, FIELD and SPEC. -/
def bodyFault (e : DecodeEnv) (stride step count : Nat) (i : Instr) : Option (Nat × Nat × Nat) :=
  match i.form? e with
  | none => none
  | some (F, f) =>
    let one (bit field : Nat) (used : Bool) (o : Opnd) : Option (Nat × Nat × Nat) :=
      if bitAt step bit then (stepFault e used stride count o).map (fun c => (c, field, o.spec)) else none
    (one 0 1 (!F.d.isEmpty) f.d).or ((one 1 2 (!F.a.isEmpty) f.a).or (one 2 3 (!F.b.isEmpty && !f.lit) f.b))

/-- The first failure of `bodyFault` in body order. -/
def firstFault (e : DecodeEnv) (stride step count : Nat) : Nat → List Instr → Option (Nat × Nat × Nat × Nat)
  | _, [] => none
  | ix, i :: is =>
    match bodyFault e stride step count i with
    | some (c, fd, sp) => some (c, ix, fd, sp)
    | none => firstFault e stride step count (ix + 1) is

/-- R106: the checks on count and body. (DEDUCED, log 10.) -/
def repChecks (e : DecodeEnv) (stride step count : Nat) (body : List Instr) : Exec Unit := do
  need (decide (count ≤ 16777215)) REP_RANGE (repTval 0 0 0 0 count)
  need (!(body.any barredInBody)) REP_RANGE (repTval 1 (body.findIdx barredInBody) 0 0 count)
  match firstFault e stride step count 0 body with
  | some (c, ix, fd, sp) => trap REP_RANGE (repTval c ix fd sp count)
  | none => .ok ()

/-- R105 to R107 REP. -/
def repBody (f : Fields) (s : State) : Exec Out := do
  let k := s.cur
  let c := s.ctx k
  let len := f.mod 0 3
  let body ← s.fetchBody k c.pc.toNat (len + 1) 0
  let past := (c.pc.toNat + 12 * (len + 2)) % 2 ^ 56
  if !(s.guardBit f 0) then .ok { s := s, next := .jump past }
  else
    let b ← s.opndB 0x0C4 f false
    let count := b % 2 ^ 32
    repChecks (s.decodeEnv k) (f.mod 6 4) (f.mod 3 3) count body
    if count = 0 then .ok { s := s, next := .jump past }
    else
      .ok { s := s.modCtx k (fun c =>
              { c.chargeSb (chargeOf f.hint) with
                rep := some ⟨f.mod 6 4, f.mod 3 3, len, count, 0, 0, body, (chargeOf f.hint), f.hint.pace.toNat⟩ }),
            next := .held }
def execRepI (f : Fields) (s : State) : Result := runVector f (repBody f) s

end Sys2Proof.Machine
end

