-- ==== Sys2Proof/Machine/Regs.lean ====
section
/-!
DEFINITION. The register pages behind BAR0 (R396): the device page, Byvon's (R378), the Drover context pages (R58, R193,
R256, R352, R367, R384) and the Fold router pages (R296): what a read returns, and what a write without behaviour of its
own does.  A write that has a behaviour is an event of its own; `registerEvent` names it.
-/

namespace Sys2Proof.Machine

/-- The part serves its host and runs cores: FW_CHECK and HALTED do not (R400). -/
def State.serving (s : State) : Bool := !s.device.off && (s.device.state == 1 || s.device.state == 2)

/-- R57: a Drover context serves a paddock; in REDUCED only context 0 does (R400). -/
def State.ctxActive (s : State) (j : Nat) : Bool := decide (j < s.paddocks) && (s.device.state != 1 || j == 0)

/-- The least power of 2 exponent: k and its log. -/
def State.configWord (s : State) (j : Nat) : Nat :=
  (s.drover j).prepol + (if s.ctxActive j then 16 else 0) + j * 2 ^ 5 + s.kPer * 2 ^ 8

/-- A read of a Drover context page. -/
def State.droverRead (s : State) (j off : Nat) : Nat :=
  let d := s.drover j
  if off < 0x200 then (Sparse.get 0 d.doorbells (off / 8)).toNat
  else if 0x800 ≤ off then
    (List.range 8).foldr (fun i x => (s.core (off - 0x800 + i)).offer + 256 * x) 0
  else
    match off with
    | 0x208 => 0
    | 0x210 => d.lotstate
    | 0x218 => s.configWord j
    | 0x228 => d.qerr.toNat
    | 0x2B8 => s.rsFree j
    | 0x2D8 => 0
    | _ => s.pageReg j off

/-- A read of a Fold router page (R296). -/
def State.foldRead (s : State) (f off : Nat) : Nat :=
  if off = 0x100 then (s.fold f).rtimeout else if off = 0x120 then 0 else (Sparse.get 0 (s.fold f).rregs off).toNat

/-- A read of the device page (R396). -/
def State.deviceRead (s : State) (off : Nat) : Nat :=
  let d := s.device
  match off with
  | 0x000 => 0x44564134 + 2 ^ 32
  | 0x008 => d.nlog + (if d.parterr then 2 ^ 8 else 0)
  | 0x010 => if d.throttled then 4 else d.state
  | 0x018 => d.linkst.toNat
  | 0x020 => d.pwrcap
  | 0x028 => fld d.watts 0 16 + fld d.tjmax 0 16 * 2 ^ 16
  | 0x030 => d.frzvec + d.statevec * 2 ^ 16
  | _ => 0

/-- A read of Byvon's page (R378). -/
def State.byvonRead (s : State) (off : Nat) : Nat :=
  let b := s.byvon
  match off with
  | 0x008 => (if b.done then 2 ^ 63 else 0) + b.code
  | 0x010 => b.freezes
  | 0x018 => b.frbase
  | _ => 0

/-- R396: an 8-byte read behind BAR0. Before FW_CHECK has passed only Byvon answers (R400). -/
def State.bar0 (s : State) (off : Nat) : Nat :=
  if 0x80000 ≤ off ∧ off < 0x81000 then s.byvonRead (off - 0x80000)
  else if !s.serving then 0
  else if off < 0x1000 then s.deviceRead off
  else if 0x100000 ≤ off ∧ off < 0x108000 then s.droverRead ((off - 0x100000) / 0x1000) (off % 0x1000)
  else if 0x200000 ≤ off ∧ off < 0x280000 then s.foldRead ((off - 0x200000) / 0x1000) (off % 0x1000)
  else 0

/-! ### Writes -/

/-- The bits of a Drover register that a plain write changes, by offset; 0 for one that it does not (R58, R193, R256,
R352, R367, R384). -/
def droverMask (off : Nat) : Nat :=
  if 0x300 ≤ off ∧ off < 0x500 then 2 ^ 56 - 1
  else
    match off with
    | 0x200 => 2 ^ 56 - 1
    | 0x220 => 2 ^ 56 - 1
    | 0x240 => 2 ^ 56 - 1
    | 0x248 => 31
    | 0x258 => 2 ^ 32 - 1
    | 0x260 => 2 ^ 64 - 1
    | 0x268 => 2 ^ 56 - 1
    | 0x280 => 2 ^ 64 - 1
    | 0x288 => 2 ^ 32 - 1
    | 0x290 => 2 ^ 63 + (2 ^ 11 - 1) * 2 ^ 8 + 15
    | 0x2A0 => 2 ^ 56 - 1
    | 0x2A8 => 2 ^ 56 - 1
    | 0x2B0 => 31
    | 0x2C0 => 2 ^ 32 - 1
    | 0x2C8 => 2 ^ 63 + (2 ^ 11 - 1) * 2 ^ 8 + 15
    | 0x2D0 => 2 ^ 64 - 1
    | 0x2E0 => 2 ^ 56 - 4
    | 0x2E8 => 2 ^ 56 - 1
    | 0x2F0 => 2 ^ 56 - 1
    | _ => 0

/-- A ring TAIL may not pass its HEAD (R193): the write moves TAIL within what HEAD has reached. -/
def tailOk (head tail new : Nat) : Bool :=
  decide ((new + 2 ^ 32 - tail) % 2 ^ 32 ≤ (head + 2 ^ 32 - tail) % 2 ^ 32)

/-- R350: clearing the enable of MQIRQ or PREIRQ withdraws what is pending in the paddock and not yet taken. -/
def State.withdrawIrq (s : State) (j off : Nat) : State :=
  { s with slots := s.slots.map (fun (e : Nat × Slot) =>
      if s.paddockOf (e.1 / 16) = j then
        (e.1, if off = 0x290 then { e.2 with intrMigrate := false } else { e.2 with intrPreempt := none })
      else e) }

/-- A plain write of a Drover register. -/
def State.droverWrite (s : State) (j off x : Nat) : State :=
  let put (v : Nat) : State := s.modDrover j (fun d => { d with regs := Sparse.set 0 d.regs off (BitVec.ofNat 64 v) })
  if off = 0x218 then (if fld x 0 2 ≤ 1 then s.modDrover j (fun d => { d with prepol := fld x 0 2 }) else s)
  else if off = 0x298 then put ((if bitAt x 63 then 0 else fld (s.pageReg j off) 63 1 * 2 ^ 63) + fld x 0 32)
  else if off = 0x258 then
    (if tailOk (fld (s.pageReg j 0x250) 0 32) (fld (s.pageReg j 0x258) 0 32) (fld x 0 32) then put (fld x 0 32) else s)
  else if (off = 0x290 ∨ off = 0x2C8) ∧ !(bitAt x 63) then (put (x &&& droverMask off)).withdrawIrq j off
  else if droverMask off = 0 then s
  else put (x &&& droverMask off)

/-- A plain write of a Fold router register (R296). -/
def State.foldWrite (s : State) (f off x : Nat) : State :=
  let put (v : Nat) : State := s.modFold f (fun F => { F with rregs := Sparse.set 0 F.rregs off (BitVec.ofNat 64 v) })
  if off < 0x80 then put (x &&& (0xFF * 2 ^ 56 + 0xF * 2 ^ 48 + (2 ^ 17 - 1)))
  else if off < 0x100 then put x
  else if off = 0x100 then (if fld x 0 16 = 0 then s else s.modFold f (fun F => { F with rtimeout := fld x 0 16 }))
  else if off = 0x108 ∨ off = 0x110 ∨ off = 0x118 then put x
  else s

/-- A write of Byvon's page: a command, or the base of the freeze ring (R378). -/
def State.byvonWrite (s : State) (off x : Nat) : State :=
  let b := s.byvon
  match off with
  | 0x000 => { s with byvon := if b.done then { b with done := false, op := fld x 0 8, arg := fld x 8 56 } else { b with busy := true } }
  | 0x018 => { s with byvon := { b with frbase := fld x 0 56 } }
  | _ => s

/-- R401: the clocks are below nominal, or at it again, which STATE and STATEVEC tell (R396). -/
def State.setThrottled (s : State) (on : Bool) : State :=
  if s.device.throttled = on then s else ({ s with device := { s.device with throttled := on } }).raiseMsix 0 s.device.statevec
/-- R401: WATTS exceeds CAP, or TJMAX has reached 100 °C. -/
def State.tooHot (s : State) : Bool := decide (s.device.pwrcap < s.device.watts) || decide (100 ≤ s.device.tjmax)
/-- R401: the clocks are lowered where power or temperature asks for that. -/
def State.throttle (s : State) : State := if s.tooHot then s.setThrottled true else s

/-- A plain write of the device page (R396). -/
def State.deviceWrite (s : State) (off x : Nat) : State :=
  match off with
  | 0x020 => if 600 ≤ fld x 0 16 ∧ fld x 0 16 ≤ 1500 then ({ s with device := { s.device with pwrcap := fld x 0 16 } } : State).throttle else s
  | 0x030 => { s with device := { s.device with frzvec := fld x 0 12, statevec := fld x 16 12 } }
  | _ => s

/-- REGISTER_WRITE (R7): a write to a register without behaviour of its own, by its BAR0 offset. -/
def registerWriteStep (off : Nat) (value : Word64) (s : State) : State :=
  let x := value.toNat
  if 0x80000 ≤ off ∧ off < 0x81000 then (if s.device.off then s else s.byvonWrite (off - 0x80000) x)
  else if !s.serving then s
  else if off < 0x1000 then s.deviceWrite off x
  else if 0x100000 ≤ off ∧ off < 0x108000 then s.droverWrite ((off - 0x100000) / 0x1000) (off % 0x1000) x
  else if 0x200000 ≤ off ∧ off < 0x280000 then s.foldWrite ((off - 0x200000) / 0x1000) (off % 0x1000) x
  else s
def execRegisterWrite (off : Nat) (value : Word64) (s : State) : Result := .next (registerWriteStep off value s)

/-- The event that a write behind BAR0 is. -/
def registerEvent (off : Nat) (x : Nat) : Instr :=
  let v := BitVec.ofNat 64 x
  if off = 0x008 then .partitionChange v
  else if 0x100000 ≤ off ∧ off < 0x108000 then
    let j := (off - 0x100000) / 0x1000
    let o := off % 0x1000
    if o < 0x200 then .doorbell j (o / 8) (BitVec.ofNat 32 x)
    else
      match o with
      | 0x208 => .lotseed j v
      | 0x228 => .qerrClear j v
      | 0x278 => .mqtailWrite j v
      | 0x2D8 => .abortW j v
      | _ => .registerWrite off v
  else if 0x200000 ≤ off ∧ off < 0x280000 ∧ off % 0x1000 = 0x120 then .qclear ((off - 0x200000) / 0x1000) v
  else .registerWrite off v

end Sys2Proof.Machine
end

