-- ==== Sys2Proof/Machine/Issue.lean ====
section
/-!
DEFINITION. The issue choice of a core as a step (R110), and the taking of pending traps and interrupts (R347, R350).
-/

namespace Sys2Proof.Machine

/-- R110, R93, R400: the core picks a ready context. A pending item is taken first; a word that fails R93 traps; the
instruction of any other is latched, and runs in this step. -/
def issueFrom (k : Nat) (s : State) : State :=
  let s := { s with cur := k }
  if s.takesPending k then { s with latch := some (.takePending (coreOf k) (k % 32)) }
  else
    let (s, whole) := if (s.slotOf k).relocks.isSome && !(isDrain k) then State.obtain k 256 s else (s, true)
    if !whole then s.stopped (.stay s)
    else
      match s.nextInstr k with
      | .ok i => { s with latch := some i }
      | .error e => s.stopped e

def execIssueChoice (core : Nat) (s : State) : Result :=
  if !s.serving then .next s
  else
    match s.choose core with
    | none => .next (s.coreCycle core none)
    | some k => .next (issueFrom k s)

/-- R347: the first pending item of a slot in the order of the table: flags of CAUSE (2 ASYNC, 1 INTR), cause, TVAL, and
the slot without it. -/
def State.firstItem (s : State) (core slot : Nat) : Option (Nat × Nat × Nat × Slot) :=
  let sl := s.slot (slotKey core slot)
  match firstPending sl.pending with
  | some p =>
    some (2, p.cause, p.tval,
      { sl with pending := dropPending sl.pending p })
  | none =>
    match sl.intrPreempt with
    | some v => some (1, 0x17, v, { sl with intrPreempt := none })
    | none =>
      if sl.intrTimer then some (1, 0x18, s.time, { sl with intrTimer := false })
      else if sl.intrInbox then some (1, 0x19, sl.inbox.length, { sl with intrInbox := false })
      else if sl.intrMigrate then
        some (1, 0x1A, s.pageReg (s.paddockOf core) 0x270, { sl with intrMigrate := false })
      else none

/-- R175: the refused journal entry that the first pending item of a slot names. -/
def Slot.firstRefused (sl : Slot) : Option (Nat × Nat) :=
  (firstPending sl.pending).bind (fun p => if p.cause = POSTED_STORE_REFUSED then some (p.origin, p.tval % 16) else none)

/-- R347, R348: one pending item is taken, while IE is 1; with TVEC 0 the context freezes and the item stays. (DEDUCED, log 21.) -/
def takePendingStep (core slot : Nat) (s : State) : State :=
  let k := hartKey core slot
  if !((s.ctx k).live && s.takesPending k && s.mayIssue k) then s
  else
    match s.firstItem core slot with
    | none => s
    | some (flags, cause, tval, sl) =>
      let s1 :=
        if sl.tvec = 0 then s.freeze k 3 0
        else
          (((s.dropMisses k).setSlot (slotKey core slot) sl).enterTrap k flags cause tval).modCtx k (fun c =>
            { c with handling := (s.slot (slotKey core slot)).firstRefused :: c.handling.drop 1 })
      { s1 with epoch := s1.epoch + 1 }
def execTakePending (core slot : Nat) (s : State) : Result := .next (takePendingStep core slot s)

/-- R350: TIME has reached TIMECMP while TIMER is enabled. (DEDUCED, log 20.) -/
def timerStep (core slot : Nat) (s : State) : State :=
  let sl := s.slot (slotKey core slot)
  if bitAt sl.ien.toNat 0 && !sl.timerDone && decide (sl.timecmp.toNat ≤ s.time) then
    s.setSlot (slotKey core slot) { sl with intrTimer := true, timerDone := true }
  else s
def execTimer (core slot : Nat) (s : State) : Result := .next (timerStep core slot s)

end Sys2Proof.Machine
end

