-- ==== Sys2Proof/Machine/System.lean ====
section
/-!
DEFINITION. The system instructions but for CTXSAVE and CTXLOAD (R355 to R360), and the system registers (R111 to R117).
-/

namespace Sys2Proof.Machine

/-- R355 TRAP: SYSCALL after its effect, which is none. -/
def trapBody (f : Fields) (s : State) : Exec Out := .ok { s := s, next := .after SYSCALL (f.im 0 16) }
def execTrapI (f : Fields) (s : State) : Result := runScalar f (trapBody f) s

/-- R355 BKPT. -/
def bkptBody (f : Fields) (_ : State) : Exec Out := trap BREAKPOINT (f.im 0 16)
def execBkpt (f : Fields) (s : State) : Result := runScalar f (bkptBody f) s

/-- A posted store of the context's vcore is still outstanding, at whatever core it was made (R103, R173, R361). -/
def State.pstOutstanding (s : State) (k : Nat) : Bool :=
  s.slots.any (fun p => p.2.journal.any (fun e => (s.slotOf k).posted e.2))

/-- R356: STATUS after ERET. IE stays 0 in a drain context. A return never raises the mode, and a service core stays in
Root (R353). (DEDUCED, log 11.) -/
def Ctx.returned (c : Ctx) (drain service : Bool) : Ctx :=
  let st := c.status.toNat
  let md := if service then 2 else Nat.min (fld st 2 2) c.mode
  { c with
    status := BitVec.ofNat 64 (setFld (setFld (setFld (setFld st 0 2 md) 6 1 (if drain then 0 else fld st 7 1)) 2 2 0) 7 1 1)
    regBase := c.pregBase
    regLimit := c.pregLimit
    pc := BitVec.ofNat 56 c.epc.toNat
    inTrap := false }

/-- R108: the repetition that REPST describes, its body fetched and checked again at the PC. (DEDUCED, log 15.) -/
def State.resumeRep (s : State) (k : Nat) (st : Nat) : Exec RepState := do
  let stride := fld st 59 4
  let step := fld st 56 3
  let len := fld st 53 3
  let ix := fld st 50 3
  let pass := fld st 0 24
  let count := pass + fld st 24 24
  need (decide (ix ≤ len) && decide (0 < fld st 24 24)) REP_RANGE (repTval 0 0 0 0 count)
  let pc := (s.ctx k).pc.toNat
  let w ← s.fetchWord k pc
  let body ← s.fetchBody k pc (len + 1) 0
  repChecks (s.decodeEnv k) stride step count body
  let hint := (Fields.ofWord w).hint
  .ok ⟨stride, step, len, count, pass, ix, body, chargeOf hint, hint.pace.toNat⟩

/-- The repetition that REPST describes, before its body has been fetched. -/
def repOf (st : Nat) : RepState :=
  { stride := fld st 59 4, step := fld st 56 3, len := fld st 53 3, count := fld st 0 24 + fld st 24 24, pass := fld st 0 24, ix := fld st 50 3
    body := [], charge := none, pace := 0 }

/-- What an attempt on a later state `t` notes when it must wait, kept on the state `s` of the instruction. -/
def waitOn {α : Type} (s : State) : Exec α → Exec α
  | .error (.stay t) => .error (.stay { s with cores := t.cores, folds := t.folds, drovers := t.drovers })
  | x => x

/-- R94, R108: the return of `s1` takes up the repetition of REPST. What fails there fails at the REP, after the return: EPC is its address,
and REPST keeps the place. -/
def State.takeUpRep (s s1 : State) (k st : Nat) : Exec Out :=
  let s2 := s1.modCtx k (fun c => { c with rep := some (repOf st) })
  match waitOn s (s2.resumeRep k st) with
  | .ok r => .ok { s := s1.modCtx k (fun c => { c with rep := some r }), next := .held }
  | .error (.trap cause tval) => .error (.fin (s2.takeTrap k 0 cause tval))
  | .error e => .error e

/-- The latest trap entry of a context ends: the journal entry whose refusal it handled is free again (R175). -/
def State.handled (s : State) (k : Nat) : State :=
  let t := s.modCtx k (fun c => { c with handling := c.handling.drop 1 })
  match (s.ctx k).handling with
  | some (j, e) :: _ => t.modSlot j (fun l => { l with journal := Sparse.drop l.journal e })
  | _ => t

/-- R356 ERET. -/
def eretBody (_ : Fields) (s : State) : Exec Out := do
  let k := s.cur
  let c := s.ctx k
  let c' := c.returned (isDrain k) (isService (coreOf k))
  if s.pstOutstanding k && !isDrain k then .error (.stay s)
  else
    need (c'.inRegion c'.pc.toNat) BOUNDS (c.epc.toNat % 2 ^ 56)
    let s0 := s.setCtx k c'
    let s1 := if isDrain k then s0 else s0.handled k
    if bitAt c.repst.toNat 63 then s.takeUpRep s1 k c.repst.toNat
    else .ok { s := s1, next := .jump c'.pc.toNat }
def execEret (f : Fields) (s : State) : Result := runScalar f (eretBody f) s

/-- R357 UPRET. -/
def upretBody (f : Fields) (s : State) : Exec Out := do
  let k := s.cur
  let e ← s.opndB 0x382 f false
  let fo := foldOf (coreOf k)
  let en := Sparse.get {} (s.fold fo).faults e
  let sl := s.slotOf k
  need (decide (e ≤ 255) && en.used && en.core == coreOf k && en.slot == k % 32 && en.lid == sl.lid && en.vcore == sl.vcore) PERM e
  let s1 := (s.modFold fo (fun F => { F with faults := Sparse.drop F.faults e })).modCtx k (fun c =>
    { (((c.setC 1 en.c1).setC 2 en.c2).setC 3 en.c3).setStatus 26 1 0 with repst := en.repst, pc := en.pc })
  if bitAt en.repst.toNat 63 then s.takeUpRep s1 k en.repst.toNat
  else .ok { s := s1, next := .jump en.pc.toNat }
def execUpret (f : Fields) (s : State) : Result := runScalar f (upretBody f) s

/-- R357 UPRET.LEAVE. -/
def upretLeaveBody (_ : Fields) (s : State) : Exec Out := done (s.modCtx s.cur (fun c => c.setStatus 26 1 0))
def execUpretLeave (f : Fields) (s : State) : Result := runScalar f (upretLeaveBody f) s

/-! ### System registers (R111) -/

/-- GCAP and WCAP (R112). -/
def gcap : CReg := Cap.reg ⟨0, 0, 512, 47, 0x1F, 0, 0⟩
def wcap : CReg := Cap.reg ⟨0, 0, 512, 47, 0x33, 6, 0⟩

/-- R358: the value of a system register. -/
def State.sysReg (s : State) (k n : Nat) : CReg :=
  let c := s.ctx k
  let sl := s.slotOf k
  match n with
  | 0x000 => CReg.word c.status.toNat
  | 0x001 => CReg.word c.cause.toNat
  | 0x002 => CReg.word c.epc.toNat
  | 0x003 => CReg.word c.tval.toNat
  | 0x004 => CReg.word sl.uvec.toNat
  | 0x005 => CReg.word sl.tvec.toNat
  | 0x006 => CReg.word c.repst.toNat
  | 0x010 => CReg.word sl.engcap.toNat
  | 0x011 => CReg.word sl.tbase.toNat
  | 0x012 => CReg.word sl.tlimit.toNat
  | 0x020 => CReg.word s.time
  | 0x030 => CReg.word sl.wid.toNat
  | 0x031 => CReg.word (sl.vcore % 2 ^ 12)
  | 0x032 => CReg.word (s.slotNo k % 2 ^ 4)
  | 0x040 => CReg.word sl.seed.toNat
  | 0x041 => CReg.word sl.rngctl.toNat
  | 0x042 => CReg.word sl.sealmask.toNat
  | 0x050 => CReg.word (s.drover (s.paddockOf (coreOf k))).sampcfg.toNat
  | 0x060 => gcap
  | 0x061 => wcap
  | _ => {}

/-- R358 SYSRD. -/
def sysrdBody (f : Fields) (s : State) : Exec Out := done (s.setD f.d (s.sysReg s.cur (f.im 0 12)))
def execSysrd (f : Fields) (s : State) : Result := runScalar f (sysrdBody f) s

/-- A write to STATUS (R111, R113): a User write changes FFLAGS only, and 3 is ignored in PMODE. Setting IE ends the
trap entry of a hart context (R348); a drain context keeps IE 0 (R224). -/
def Ctx.writeStatus (c : Ctx) (drain : Bool) (x : Nat) : Ctx :=
  let c1 := c.setStatus 21 5 (fld x 21 5)
  if c.mode = 0 then c1
  else
    let c2 := c1.setStatus 7 1 (fld x 7 1)
    let c3 := if drain then c2 else c2.setStatus 6 1 (fld x 6 1)
    let c4 := if fld x 2 2 = 3 then c3 else c3.setStatus 2 2 (fld x 2 2)
    if bitAt x 6 && !drain then { c4 with inTrap := false } else c4

/-- The bits that the Drover's paddock policy allows in ENGCAP (R116). (DEDUCED, log 24.) -/
def State.engPolicy (s : State) : Nat := if s.device.state = 1 then 0x00013F3F else 0x00073F3F

/-- The bits of `w` that lie in `mask`. -/
def maskTo (mask w : Nat) : Word64 := BitVec.ofNat 64 (w &&& mask)
def addrMask : Nat := 2 ^ 56 - 1
def vecMask : Nat := 2 ^ 56 - 4

/-- R111 to R117: a write to a system register. A 1 written to RNGWRAP while it is 0 leaves it 0. (DESIGN CHOICE, log 97.) -/
def State.writeSys (s : State) (k n x : Nat) : State :=
  let slot (g : Slot → Slot) : State := s.modSlot (s.slotKeyOf k) g
  match n with
  | 0x000 => s.modCtx k (fun c => c.writeStatus (isDrain k) x)
  | 0x001 => s.modCtx k (fun c => { c with cause := maskTo 0xC0000000000000FF x })
  | 0x002 => s.modCtx k (fun c => { c with epc := maskTo addrMask x })
  | 0x003 => s.modCtx k (fun c => { c with tval := BitVec.ofNat 64 x })
  | 0x004 => slot (fun l => { l with uvec := maskTo vecMask x })
  | 0x005 => slot (fun l => { l with tvec := maskTo vecMask x })
  | 0x006 => s.modCtx k (fun c => { c with repst := maskTo 0xFFFCFFFFFFFFFFFF x })
  | 0x010 => slot (fun l => { l with engcap := maskTo 0x00077F7F (x &&& (s.engPolicy ||| l.engcap.toNat)) })
  | 0x011 => slot (fun l => { l with tbase := maskTo addrMask x })
  | 0x012 => slot (fun l => { l with tlimit := maskTo addrMask x })
  | 0x020 => if x < s.time then s else { s with time := x }
  | 0x040 => slot (fun l => { l with seed := BitVec.ofNat 64 x })
  | 0x041 => slot (fun l => { l with rngctl := BitVec.ofNat 64 (x &&& (2 + fld l.rngctl.toNat 0 1)) })
  | 0x042 => slot (fun l => { l with sealmask := maskTo 0xFFFEFFFE x })
  | 0x050 => s.modDrover (s.paddockOf (coreOf k)) (fun d =>
      let sh := if 6 ≤ fld x 8 5 ∧ fld x 8 5 ≤ 20 then fld x 8 5 else fld d.sampcfg.toNat 8 5
      { d with sampcfg := BitVec.ofNat 64 (setFld (x &&& 0x00030001) 8 5 sh) })
  | _ => s

/-- R358 SYSWR. -/
def syswrBody (f : Fields) (s : State) : Exec Out := do
  let a ← s.dataOpnd 0x384 2 f.a
  done (s.writeSys s.cur (f.im 0 12) a)
def execSyswr (f : Fields) (s : State) : Result := runScalar f (syswrBody f) s

/-! ### WFI and PREQ -/

/-- An instruction that waits notes the TIME at which it issued (R213, R359). -/
def State.waitNoted (s : State) : State :=
  s.modCtx s.cur (fun c => { c with waitFrom := some (c.waitFrom.getD s.time) })

/-- Whether `b` ns have passed since the waiting instruction issued. -/
def State.waitedFor (s : State) (b : Nat) : Bool :=
  match (s.ctx s.cur).waitFrom with
  | some t => decide (t + b ≤ s.time)
  | none => decide (b = 0)

/-- R359 WFI. -/
def wfiBody (f : Fields) (s : State) : Exec Out := do
  let b ← s.opndB 0x385 f false
  if (s.slotOf s.cur).anyPending || (b != 0 && s.waitedFor b) then done s
  else .error (.stay s.waitNoted)
def execWfi (f : Fields) (s : State) : Result := runScalar f (wfiBody f) s

/-- The instruction at which a context waits, when it is live and has issued it. -/
def State.waitingAt (s : State) (k : Nat) : Option Instr :=
  if s.mayIssue k && (s.ctx k).waitFrom.isSome then
    match s.nextInstr k with
    | .ok i => some i
    | .error _ => none
  else none

/-- R359: the timeout of a WFI has passed, and the WFI completes. -/
def wfiTimeoutStep (core slot : Nat) (s : State) : State :=
  let k := hartKey core slot
  match s.waitingAt k with
  | some (.wfi f) =>
    let t := { s with cur := k }
    match t.opndB 0x385 f false with
    | .ok b => if b != 0 && t.waitedFor b then t.finish f { s := t } else s
    | .error _ => s
  | _ => s
def execWfiTimeout (core slot : Nat) (s : State) : Result := .next (wfiTimeoutStep core slot s)

/-- R360 PREQ. -/
def preqBody (f : Fields) (s : State) : Exec Out :=
  done ((s.setGuardD f.d (guardOf (s.slotOf s.cur).resumed)).modSlot (s.slotKeyOf s.cur) (fun l => { l with resumed := false }))
def execPreq (f : Fields) (s : State) : Result := runScalar f (preqBody f) s

end Sys2Proof.Machine
end

