-- ==== Sys2Proof/Machine/Windows.lean ====
section
/-!
DEFINITION. The windows of SPACE 6 (R99, R168, R351): the engine queues, the inbox, the tensor table, the register pages
and the context window.
-/

namespace Sys2Proof.Machine

def winSel (a : Nat) : Nat := fld a 48 8
def winOff (a : Nat) : Nat := fld a 0 48

/-- The engine of a queue window (R197). -/
def winEngine (a : Nat) : Option Engine :=
  match winSel a with
  | 1 => some .copy
  | 2 => some .matrix
  | 3 => some .quant
  | _ => none

/-- What the context window does at an offset: 0 not listed, 1 readable, 2 readable and writable (R351). -/
def ctxWindowKind (o : Nat) : Nat :=
  if o ≤ 0x008 ∨ (0x018 ≤ o ∧ o ≤ 0x038) then 2
  else if o = 0x010 ∨ (0x100 ≤ o ∧ o < 0x600) ∨ (0x600 ≤ o ∧ o < 0xA00) then 1
  else 0

/-- R168 `WindowCheck`: `stv` for STV, `st` for any store. -/
def windowCheck (s : State) (k a n : Nat) (stv st : Bool) : Exec Unit :=
  let user := (s.ctx k).mode == 0
  let o := winOff a
  if winSel a = 1 ∨ winSel a = 2 ∨ winSel a = 3 then do
    need st PERM a
    need (!isDrain k && !isService (coreOf k)) PERM a
    need (stv && a % 64 == 0) QUEUE_FORM a
  else do
    need (decide (4 ≤ winSel a) && decide (winSel a ≤ 10)) PERM a
    need (!user && n == 8 && a % 8 == 0) PERM a
    match winSel a with
    | 4 => need (!st) PERM a
    | 5 => need (!st) PERM a
    | 7 => need (decide (o / 0x1000 < Config.folds) && s.paddockOfFold (o / 0x1000) == s.paddockOf (coreOf k)) PERM a
    | 8 => need (!isDrain k && (if st then ctxWindowKind o == 2 else ctxWindowKind o != 0)) PERM a
    | _ => .ok ()

/-! ### The context window (R351) -/

/-- R173: the ten doublewords of a journal entry. -/
def journalDw (e : JEntry) (i : Nat) : Nat :=
  match i with
  | 0 => if e.state = 0 then 0 else 2 ^ 63 + e.state * 2 ^ 60 + e.reason * 2 ^ 56 + e.addr % 2 ^ 56
  | 1 => if e.state = 0 then 0 else
      e.seq % 2 ^ 16 * 2 ^ 48 + (match e.sb with | some n => 2 ^ 11 + n * 2 ^ 8 | none => 0) + e.size
  | _ => if e.state = 0 then 0 else fld e.data.toNat (64 * (i - 2)) 64

/-- R361: the doublewords of a retry-buffer entry; the layout of mode and length is not given, and is a free value. -/
def retryDw (e : Option REntry) (i : Nat) : Nat :=
  match e, i with
  | some x, 0 => x.seq % 2 ^ 16 + x.endpoint % 2 ^ 24 * 2 ^ 16 + (if x.phase = 3 then 2 else 1) * 2 ^ 40 + x.reason % 16 * 2 ^ 43
  | some x, 1 => Config.retryModeLength x.mode x.payload.length % 2 ^ 64
  | _, _ => 0

/-- PEND. -/
def Slot.pendWord (sl : Slot) (frozen : Bool) : Nat :=
  let has (c : Nat) : Bool := sl.pending.any (fun p => p.cause == c)
  let intr := sl.intrPreempt.isSome || sl.intrTimer || sl.intrInbox || sl.intrMigrate
  (if has MATRIX_CHECK then 1 else 0) + (if has POSTED_STORE_REFUSED then 2 else 0) + (if has SEND_UNDELIVERABLE then 4 else 0) +
    (if has ENGINE_FAULT then 8 else 0) + (if intr then 16 else 0) + (if frozen then 32 else 0)

/-- An entry of a slot's retry buffer. -/
def Slot.retryAt (sl : Slot) (i : Nat) : Option REntry := (sl.retry.find? (fun e => e.1 == i)).map (·.2)

/-- A read of the context window. -/
def State.ctxWindowRead (s : State) (k o : Nat) : Nat :=
  let c := s.ctx k
  let sl := s.slotOf k
  if 0x600 ≤ o then retryDw (sl.retryAt ((o - 0x600) / 32)) ((o - 0x600) % 32 / 8)
  else if 0x100 ≤ o then journalDw (Sparse.get {} sl.journal ((o - 0x100) / 80)) ((o - 0x100) % 80 / 8)
  else
    match o with
    | 0x000 => sl.timecmp.toNat
    | 0x008 => sl.ien.toNat
    | 0x010 => sl.pendWord (c.frozen && c.mode == 2)
    | 0x018 => c.pregBase.toNat
    | 0x020 => c.pregLimit.toNat % 2 ^ 56
    | 0x028 => sl.sregBase.toNat
    | 0x030 => sl.sregLimit.toNat
    | _ => 0

/-- A write of the context window; freeing a fault-buffer entry is an event of its own, and comes next. -/
def State.ctxWindowWrite (s : State) (k o x : Nat) : State :=
  let slot (g : Slot → Slot) : State := s.modSlot (s.slotKeyOf k) g
  match o with
  | 0x000 => slot (fun l => { l with timecmp := BitVec.ofNat 64 x, timerDone := false })
  | 0x008 => slot (fun l =>
      { l with ien := BitVec.ofNat 64 (fld x 0 2), intrTimer := l.intrTimer && bitAt x 0, timerDone := l.timerDone && bitAt x 0,
               intrInbox := l.intrInbox && bitAt x 1 })
  | 0x018 => s.modCtx k (fun c => { c with pregBase := BitVec.ofNat 56 x })
  | 0x020 => s.modCtx k (fun c => { c with pregLimit := BitVec.ofNat 57 (x % 2 ^ 56) })
  | 0x028 => slot (fun l => { l with sregBase := BitVec.ofNat 56 x })
  | 0x030 => slot (fun l => { l with sregLimit := BitVec.ofNat 56 x })
  | 0x038 => { s with agenda := { dt := 0, what := .fbfree (coreOf k) (s.slotNo k) (BitVec.ofNat 64 x) } :: s.agenda }
  | _ => s

/-- R351: a fault-buffer entry that the context owns is freed. -/
def fbfreeStep (core slot : Nat) (value : Word64) (s : State) : State :=
  let sl := s.slot (slotKey core slot)
  let i := fld value.toNat 0 8
  let e := Sparse.get {} (s.fold (foldOf core)).faults i
  if e.used && e.core == core && e.slot == slot && e.lid == sl.lid && e.vcore == sl.vcore then
    s.modFold (foldOf core) (fun F => { F with faults := Sparse.drop F.faults i })
  else s
def execFbfree (core slot : Nat) (value : Word64) (s : State) : Result := .next (fbfreeStep core slot value s)

/-! ### Reads and writes -/

/-- The BAR0 offset of a register window's address. -/
def State.winBar0 (s : State) (k a : Nat) : Nat :=
  match winSel a with
  | 6 => if winOff a < 0x1000 then 0x100000 + 0x1000 * s.paddockOf (coreOf k) + winOff a else 2 ^ 40
  | 7 => 0x200000 + winOff a
  | 9 => if winOff a < 0x1000 then 0x80000 + winOff a else 2 ^ 40
  | _ => if winOff a < 0x1000 then winOff a else 2 ^ 40

/-- An 8-byte read of a window. In a drain context the inbox of the issuing context is that of the slot that it drains for. (DESIGN CHOICE,
log 107.) -/
def State.windowRead (s : State) (k a : Nat) : Nat :=
  let sl := s.slotOf k
  let o := winOff a
  match winSel a with
  | 4 =>
    if o = 0 then sl.inbox.length
    else if 0x100 ≤ o ∧ o < 0x500 then fld (((sl.inbox.map (·.val)).getD ((o - 0x100) / 16) 0).toNat) (64 * (o / 8 % 2)) 64
    else 0
  | 5 => if o < 2048 then fld (Sparse.get 0 sl.tensors (o / 32)).toNat (64 * (o / 8 % 4)) 64 else 0
  | 8 => s.ctxWindowRead k o
  | _ => s.bar0 (s.winBar0 k a)

/-- An 8-byte write of a window; one of a register page acts in the next turn. -/
def State.windowWrite (s : State) (k a x : Nat) : State :=
  if winSel a = 8 then s.ctxWindowWrite k (winOff a) x
  else { s with agenda := { dt := 0, what := registerEvent (s.winBar0 k a) x } :: s.agenda }

/-- A push of a record by a context (R197): the command is accepted, or the STV waits. -/
def State.push (s : State) (k : Nat) (e : Engine) (r : BitVec 512) : Exec State :=
  if (s.engine (coreOf k) e).frozen then .error (.stay s)
  else
    match s.accept (coreOf k) e { record := r, slot := s.slotNo k, mode := (s.ctx k).mode, clock := s.releaseClock k } false with
    | some t => .ok t
    | none => .error (.stay s)

end Sys2Proof.Machine
end

