-- ==== Sys2Proof/Machine/Memory.lean ====
section
/-!
DEFINITION. The memory instructions (R164 to R171), posted stores and their journal (R172 to R176), and the far side of
remote accesses (R405).
-/

namespace Sys2Proof.Machine

/-- Bytes of a scalar access (R166). -/
def tyBytes (ty : Nat) : Nat := tyWidth ty / 8

/-! ### Loads -/

/-- A load of `n` bytes at `[cA + off]`: the state with what the access noted, how it ends, and the place (R165). -/
def loadAt (op : Nat) (f : Fields) (n : Nat) (cp : Bool) (s : State) : Exec (Out × Loc) := do
  let rq : Req := { op := op, field := 2, opnd := f.a, n := n, al := n, ld := true, st := false, cp := cp }
  let (s1, l) ← memAccess s s.cur rq (s.capOpnd f.a) (offsetOf f) false false
  .ok (loadEnd (s1.noteAccess s.cur l 0) l n, l)

/-- A load from a window: the checks of R165 and R168, and the address. -/
def loadWindow (op : Nat) (f : Fields) (n : Nat) (cp : Bool) (s : State) : Exec Nat := do
  let rq : Req := { op := op, field := 2, opnd := f.a, n := n, al := n, ld := true, st := false, cp := cp }
  let (_, a) ← capCheck s s.cur rq (s.capOpnd f.a) (offsetOf f)
  windowCheck s s.cur a n false false
  .ok (s.windowRead s.cur a)

/-- R166 LD. -/
def ldBody (f : Fields) (s : State) : Exec Out := do
  if (s.capOpnd f.a).cap.space = 6 then
    let x ← loadWindow 0x200 f (tyBytes f.ty) false s
    done (s.setD f.d (CReg.ofTy f.ty x))
  else
    let (o, l) ← loadAt 0x200 f (tyBytes f.ty) false s
    .ok { o with s := o.s.setD f.d (CReg.ofTy f.ty (s.read l.key (tyBytes f.ty))) }
def execLd (f : Fields) (s : State) : Result := runScalar f (ldBody f) s

/-- R167 LDC; no window admits 16 bytes. -/
def ldcBody (f : Fields) (s : State) : Exec Out := do
  if (s.capOpnd f.a).cap.space = 6 then
    let _ ← loadWindow 0x202 f 16 true s
    done s
  else
    let (o, l) ← loadAt 0x202 f 16 true s
    .ok { o with s := o.s.setD f.d ⟨l.tags && s.tagAt l.key, (s.readTagged l.key).val⟩ }
def execLdc (f : Fields) (s : State) : Result := runScalar f (ldcBody f) s

/-- R168 LDV; no window admits 64 bytes. -/
def ldvBody (f : Fields) (s : State) : Exec Out := do
  if (s.capOpnd f.a).cap.space = 6 then
    let _ ← loadWindow 0x204 f 64 false s
    done s
  else
    let (o, l) ← loadAt 0x204 f 64 false s
    .ok { o with s := o.s.setVD f.d (BitVec.ofNat 512 (s.read l.key 64)) }
def execLdv (f : Fields) (s : State) : Result := runScalar f (ldvBody f) s

/-! ### Stores -/

/-- What a store asks of memory (R164). -/
def storeReq (op : Nat) (f : Fields) (n : Nat) (cp : Bool) : Req :=
  { op := op, field := 1, opnd := f.d, n := n, al := n, ld := false, st := true, cp := cp }

/-- A store at `[cD + off]`: the state with what the access noted, and the place (R165). -/
def storeAt (op : Nat) (f : Fields) (n : Nat) (cp tagged permG : Bool) (s : State) : Exec (State × Loc) := do
  let (s1, l) ← memAccess s s.cur (storeReq op f n cp) (s.capOpnd f.d) (offsetOf f) tagged permG
  .ok (s1.noteAccess s.cur l 1, l)

/-- A store to a window: the checks of R165 and R168, and the address. -/
def storeWindow (op : Nat) (f : Fields) (n : Nat) (cp stv : Bool) (s : State) : Exec Nat := do
  let (_, a) ← capCheck s s.cur (storeReq op f n cp) (s.capOpnd f.d) (offsetOf f)
  windowCheck s s.cur a n stv true
  .ok a

/-- R166 ST. -/
def stBody (f : Fields) (s : State) : Exec Out := do
  let x ← s.dataOpnd 0x201 2 f.a
  if (s.capOpnd f.d).cap.space = 6 then
    let a ← storeWindow 0x201 f (tyBytes f.ty) false false s
    done (s.windowWrite s.cur a x)
  else
    let (s1, l) ← storeAt 0x201 f (tyBytes f.ty) false false false s
    done (s1.write l.key (tyBytes f.ty) x)
def execSt (f : Fields) (s : State) : Result := runScalar f (stBody f) s

/-- R167 STC; no window admits 16 bytes. -/
def stcBody (f : Fields) (s : State) : Exec Out := do
  let v := s.capOpnd f.a
  if (s.capOpnd f.d).cap.space = 6 then
    let _ ← storeWindow 0x203 f 16 true false s
    done s
  else
    let (s1, l) ← storeAt 0x203 f 16 true v.tag (v.cap.has permG) s
    done (s1.writeTagged l.key v)
def execStc (f : Fields) (s : State) : Result := runScalar f (stcBody f) s

/-- The v register of an operand. -/
def State.vReg (s : State) (o : Opnd) : VReg := (s.ctx s.cur).getV (opndNum o)

/-- R168 STV: 64 bytes, or a command pushed into an engine queue window (R197). -/
def stvBody (f : Fields) (s : State) : Exec Out := do
  if (s.capOpnd f.d).cap.space = 6 then
    let a ← storeWindow 0x205 f 64 false true s
    match winEngine a with
    | some e =>
      let t ← s.push s.cur e (s.vReg f.a)
      done t
    | none => done s
  else
    let (s1, l) ← storeAt 0x205 f 64 false false false s
    done (s1.write l.key 64 (s.vReg f.a).toNat)
def execStv (f : Fields) (s : State) : Result := runScalar f (stvBody f) s

/-! ### Gather and scatter (R169) -/

/-- The lanes of a type whose guard bits are set. -/
def State.activeLanes (s : State) (f : Fields) (n : Nat) : List Nat := (List.range (512 / n)).filter (s.guardBit f)

/-- A lane's bits of a vector. -/
def laneOf (x : VReg) (n i : Nat) : Nat := fld x.toNat (n * i) n
/-- A vector with one lane replaced. -/
def setLane (x : VReg) (n i y : Nat) : VReg := BitVec.ofNat 512 (setFld x.toNat (n * i) n y)

/-- The check of one lane after those of lower lanes; a lane that must wait, or whose fault ends the instruction, does so
as if it had come first, so that nothing is recorded of the others. -/
def laneAccess (s t : State) (rq : Req) (r : CReg) (off : Int) : Exec (State × Loc) :=
  match memAccess t s.cur rq r off false false with
  | .ok x => .ok x
  | .error (.trap c v) => .error (.trap c v)
  | .error _ => memAccess s s.cur rq r off false false

/-- Every step but "perform" for the lanes, in ascending order: the state, and the place of each lane. -/
def laneAccesses (s : State) (rq : Req) (r : CReg) (off : Int) (ix : VReg) (n : Nat) : State → List Nat → Exec (State × List (Nat × Loc))
  | t, [] => .ok (t, [])
  | t, i :: is => do
    let (t1, l) ← laneAccess s t rq r (off + laneOf ix n i * (n / 8))
    let (t2, ls) ← laneAccesses s rq r off ix n t1 is
    .ok (t2, (i, l) :: ls)

def gathBody (f : Fields) (s : State) : Exec Out := do
  let n := tyWidth f.ty
  let rq : Req :=
    { op := 0x206, field := 2, opnd := f.a, n := n / 8, al := n / 8, ld := true, st := false, spaces := [0, 1, 2, 3, 4] }
  let (t, ls) ← laneAccesses s rq (s.capOpnd f.a) (offsetOf f) (s.vReg f.b) n s (s.activeLanes f n)
  let t1 := ls.foldl (fun (u : State) (p : Nat × Loc) => u.noteAccess s.cur p.2 0) t
  let d := ls.foldl (fun (x : VReg) (p : Nat × Loc) => setLane x n p.1 (s.read p.2.key (n / 8))) (s.vReg f.d)
  let o : Out := match ls.find? (fun p => t1.poisoned p.2 (n / 8)) with
    | some p => loadEnd t1 p.2 (n / 8)
    | none => { s := t1 }
  .ok { o with s := o.s.setVD f.d d }
def execGath (f : Fields) (s : State) : Result := runVector f (gathBody f) s

def scatBody (f : Fields) (s : State) : Exec Out := do
  let n := tyWidth f.ty
  let rq : Req :=
    { op := 0x207, field := 1, opnd := f.d, n := n / 8, al := n / 8, ld := false, st := true, spaces := [0, 1, 2, 3, 4] }
  let (t, ls) ← laneAccesses s rq (s.capOpnd f.d) (offsetOf f) (s.vReg f.b) n s (s.activeLanes f n)
  let t1 := ls.foldl (fun (u : State) (p : Nat × Loc) => u.noteAccess s.cur p.2 1) t
  done (ls.foldl (fun (u : State) (p : Nat × Loc) => u.write p.2.key (n / 8) (laneOf (s.vReg f.a) n p.1)) t1)
def execScat (f : Fields) (s : State) : Result := runVector f (scatBody f) s

/-! ### Prefetch and stream binding -/

/-- R170 PFETCH: the model moves no line and installs no translation for it. (DEDUCED, log 19.) -/
def pfetchBody (_ : Fields) (s : State) : Exec Out := done s
def execPfetch (f : Fields) (s : State) : Result := runScalar f (pfetchBody f) s

/-- R171: q register `q` bound to queue `b`, which is bound to no other. -/
def Ctx.bindQ (c : Ctx) (q b : Nat) : Ctx :=
  let others : Sparse QBind := c.q.map (fun e => if e.2.bound && e.2.queue.toNat == b then (e.1, { e.2 with bound := false }) else e)
  { c with q := others.put q { bound := true, queue := BitVec.ofNat 3 b } }

/-- R171 QBIND. -/
def qbindBody (f : Fields) (s : State) : Exec Out := do
  let b ← s.opndB 0x20A f false
  need (decide (b ≤ 7)) BOUNDS b
  done (s.modCtx s.cur (fun c => c.bindQ (opndNum f.d) b))
def execQbind (f : Fields) (s : State) : Result := runScalar f (qbindBody f) s

/-- R171 QREL. -/
def qrelBody (f : Fields) (s : State) : Exec Out :=
  done (s.modCtx s.cur (fun c => c.setQ (opndNum f.d) { c.getQ (opndNum f.d) with bound := false }))
def execQrel (f : Fields) (s : State) : Result := runScalar f (qrelBody f) s

/-! ### Posted stores (R172 to R176) -/

/-- A free journal entry of a slot. -/
def Slot.freeEntry (sl : Slot) : Option Nat := (List.range 16).find? (fun i => (Sparse.get {} sl.journal i).state == 0)

/-- R172: the checks, the journal entry and the send. -/
def postStore (f : Fields) (n : Nat) (data : Nat) (s : State) : Exec Out := do
  let k := s.cur
  let rq : Req := { storeReq 0x208 f n false with remote := true, posted := true, spaces := [5] }
  let (s1, l) ← memAccess s k rq (s.capOpnd f.d) (offsetOf f) false false
  let sl := s.slotOf k
  match sl.freeEntry with
  | none => .error (.stay s)
  | some i =>
    let e : JEntry :=
      { lid := sl.lid, vcore := sl.vcore, state := 1, addr := l.va, seq := sl.pstSeq, sb := chargeOf f.hint, size := n,
        data := BitVec.ofNat 512 (data % 2 ^ (8 * n)), user := (s.ctx k).mode == 0, order := s.turn }
    done ((s1.modSlot (s.slotKeyOf k) (fun x => { x with journal := x.journal.put i e, pstSeq := (sl.pstSeq + 1) % 2 ^ 16 })).modCtx k
      (fun c => c.chargeSb (chargeOf f.hint)))

/-- R172 PST. -/
def pstBody (f : Fields) (s : State) : Exec Out := do
  let x ← s.dataOpnd 0x208 2 f.a
  postStore f (tyBytes f.ty) x s
def execPst (f : Fields) (s : State) : Result := runScalar f (pstBody f) s

/-- R172 PST.V. -/
def pstVBody (f : Fields) (s : State) : Exec Out := postStore f 64 (s.vReg f.a).toNat s
def execPstV (f : Fields) (s : State) : Result := runScalar f (pstVBody f) s

/-! ### Vcores -/

/-- The index of a vcore among those of suspended gangs. -/
def parkKey (lid vcore : Nat) : Nat := lid * 2 ^ 12 + vcore

/-- The slot that holds a vcore, live or detached. -/
def State.seatOf (s : State) (lid vcore : Nat) : Option Nat :=
  (s.slots.find? (fun p => (p.2.live || p.2.detached) && p.2.lid == lid && p.2.vcore == vcore)).map (·.1)

/-- What the part keeps of a suspended vcore. -/
def State.parkedOf (s : State) (lid vcore : Nat) : Option Parked :=
  (s.parked.find? (fun p => p.1 == parkKey lid vcore)).map (·.2)

/-- The slot state of a vcore, wherever it is. -/
def State.vcoreSlot (s : State) (lid vcore : Nat) : Slot :=
  match s.seatOf lid vcore with
  | some k => s.slot k
  | none => ((s.parkedOf lid vcore).map (·.slot)).getD {}

/-- The slot state of a vcore changed, wherever it is. -/
def State.modVcore (s : State) (lid vcore : Nat) (g : Slot → Slot) : State :=
  match s.seatOf lid vcore with
  | some k => s.modSlot k g
  | none =>
    match s.parkedOf lid vcore with
    | some p => { s with parked := s.parked.put (parkKey lid vcore) { p with slot := g p.slot } }
    | none => s

/-- The core and slot of a vcore: the one it is in, or the one it held when its gang was suspended. -/
def State.placeOf (s : State) (lid vcore : Nat) : Nat × Nat :=
  match s.seatOf lid vcore with
  | some k => (k / 16, k % 16)
  | none => ((s.parkedOf lid vcore).map (fun p => (p.key / 16, p.key % 16))).getD (0, 0)

/-- The slot of a live vcore. -/
def State.homeOf (s : State) (lid vcore : Nat) : Option Nat :=
  (s.slots.find? (fun p => p.2.live && p.2.lid == lid && p.2.vcore == vcore)).map (·.1)
/-- R361: the slot in which a vcore is resident, to which what becomes of its posted stores and messages goes. -/
def State.residentHome (s : State) (lid vcore : Nat) : Option Nat := (s.homeOf lid vcore).filter (fun k => (s.slot k).resident)
/-- The hart context of a slot key. -/
def hartOfSlot (key : Nat) : Nat := hartKey (key / 16) (key % 16)

/-- How far back in SEQ order an entry lies (R173). -/
def seqAge (next seq : Nat) : Nat := (next + 2 ^ 16 - seq) % 2 ^ 16

/-- A refusal trap in its place among those pending, which are taken in SEQ order (R175). -/
def insertRefusal (next : Nat) (p : Pending) : List Pending → List Pending
  | [] => [p]
  | x :: xs =>
    if x.cause = p.cause ∧ seqAge next (x.tval / 2 ^ 48) < seqAge next (p.tval / 2 ^ 48) then p :: x :: xs
    else x :: insertRefusal next p xs

/-- A journal entry as it stands. -/
def State.jentry (s : State) (core slot entry : Nat) : JEntry := Sparse.get {} (s.slot (slotKey core slot)).journal entry
def State.setJentry (s : State) (core slot entry : Nat) (e : JEntry) : State :=
  s.modSlot (slotKey core slot) (fun l => { l with journal := l.journal.put entry e })

/-- What an interface has for a vcore reaches the slot in which it is resident: a counter goes down, and a trap takes its place among
those pending (R175, R287). -/
def State.takeOwed (s : State) (home : Nat) (o : Owed) : State :=
  (s.modCtx (hartOfSlot home) (fun c => c.releaseSb o.sb)).modSlot home (fun l =>
    match o.trap with
    | some p => { l with pending := insertRefusal (if p.cause = SEND_UNDELIVERABLE then l.sendSeq else l.pstSeq) p l.pending }
    | none => l)

/-- What an interface has for a vcore: it comes at once where the vcore is resident, and otherwise when it next is (R361).
(DEDUCED, log 29.) -/
def State.owe (s : State) (lid vcore : Nat) (o : Owed) : State :=
  match s.residentHome lid vcore with
  | some home => s.takeOwed home o
  | none => s.modVcore lid vcore (fun l => { l with owed := l.owed ++ [o] })

/-- A vcore is resident again: what interfaces have kept for it comes to it (R361). -/
def State.takeAllOwed (s : State) (home : Nat) : State :=
  ((s.slot home).owed.foldl (fun (s : State) o => s.takeOwed home o) s).modSlot home (fun l => { l with owed := [] })

/-- R174, R175: an entry is refused: its counter goes down, it stays occupied, and the trap is pending on its context. One whose vcore
is no more has nothing to wait for. -/
def State.refuse (s : State) (core slot entry reason : Nat) : State :=
  let e := s.jentry core slot entry
  let tval := e.seq % 2 ^ 16 * 2 ^ 48 + reason % 16 * 2 ^ 4 + entry % 16
  if (s.seatOf e.lid e.vcore).isNone && (s.parkedOf e.lid e.vcore).isNone then
    s.modSlot (slotKey core slot) (fun l => { l with journal := Sparse.drop l.journal entry })
  else
    (s.setJentry core slot entry { e with state := 3, reason := reason, phase := 0 }).owe e.lid e.vcore
      { sb := e.sb, trap := some { order := 2, cause := POSTED_STORE_REFUSED, tval := tval, origin := slotKey core slot } }

/-- R176: an earlier store of the same context to the same core has not been performed, wherever its entry lies (R361). -/
def State.heldBack (s : State) (e : JEntry) : Bool :=
  s.slots.any (fun p => p.2.journal.any (fun q =>
    let x := q.2
    (x.state == 1 || x.state == 2) && x.phase != 1 && x.phase != 4 && x.lid == e.lid && x.vcore == e.vcore &&
      fld x.addr 44 12 == fld e.addr 44 12 && decide (x.order < e.order)))

/-- R174: what the far core finds: `some r` a refusal (3 asks for a retry), `none` the store is admitted. (DEDUCED, log 50.) -/
def State.pstVerdict (s : State) (e : JEntry) : Option Nat :=
  let far := fld e.addr 44 12
  let l := fld e.addr 0 44
  if s.revoked.contains 0 && (s.gang e.lid).encl then some 4
  else if Config.bytesL < l + e.size then some 1
  else
    match s.shareOf l e.size with
    | none => if e.user then some 2 else none
    | some j =>
      match s.shareState (slotKey far j) e.lid e.user with
      | none => some 2
      | some true => some 3
      | some false => none

/-- R174: a store arrives at the far core, in SEQ order (R176): it is performed, refused or sent back. It waits there on
the range scoreboard (R162). -/
def pstArrivalStep (core slot entry : Nat) (s : State) : State :=
  let e := s.jentry core slot entry
  let far := fld e.addr 44 12
  let l := fld e.addr 0 44
  if !(e.state == 1 || e.state == 2) || e.phase ≠ 0 || s.heldBack e then s
  else
    match s.pstVerdict e with
    | some 3 => s.setJentry core slot entry { e with phase := 2, firstAt := some (e.firstAt.getD s.time) }
    | some r => s.setJentry core slot entry { e with phase := 4, verdict := r }
    | none =>
      if (s.core far).mustWait 1 l e.size true || s.shareFrozen far l e.size then s
      else (s.storeBytes (placeKey 1 far l) (natToBytes e.size e.data.toNat)).setJentry core slot entry { e with phase := 1 }
def execPstArrival (core slot entry : Nat) (s : State) : Result := .next (pstArrivalStep core slot entry s)

/-- R174: the answer to a store retires its entry: an acknowledgement frees it, a refusal keeps it for its trap. -/
def pstAckStep (core slot entry : Nat) (s : State) : State :=
  let e := s.jentry core slot entry
  if e.phase = 1 && (e.state == 1 || e.state == 2) then
    (s.modSlot (slotKey core slot) (fun l => { l with journal := Sparse.drop l.journal entry })).owe e.lid e.vcore { sb := e.sb }
  else if e.phase = 4 && (e.state == 1 || e.state == 2) then s.refuse core slot entry e.verdict
  else s
def execPstAck (core slot entry : Nat) (s : State) : Result := .next (pstAckStep core slot entry s)

/-- R174: a negative acknowledgement: the entry retries, after 128 ns at first and then twice as long each time, up to
16 µs. -/
def pstNackStep (core slot entry : Nat) (s : State) : State :=
  let e := s.jentry core slot entry
  if e.phase = 2 && (e.state == 1 || e.state == 2) then
    let b := if e.backoff = 0 then 128 else Nat.min (2 * e.backoff) 16000
    s.setJentry core slot entry { e with state := 2, phase := 3, backoff := b, nextAt := s.time + b }
  else s
def execPstNack (core slot entry : Nat) (s : State) : Result := .next (pstNackStep core slot entry s)

/-- R174: the back-off has passed, and the store is sent again. -/
def pstRetryStep (core slot entry : Nat) (s : State) : State :=
  let e := s.jentry core slot entry
  if e.state = 2 && e.phase = 3 && decide (e.nextAt ≤ s.time) then s.setJentry core slot entry { e with phase := 0 } else s
def execPstRetry (core slot entry : Nat) (s : State) : Result := .next (pstRetryStep core slot entry s)

/-- R174: 1 ms has passed since the first attempt of a store that retries, and it is refused with PARKED. -/
def pstParkedTimeoutStep (core slot entry : Nat) (s : State) : State :=
  let e := s.jentry core slot entry
  if e.state = 2 && e.phase = 3 && decide (e.firstAt.getD s.time + 1000000 ≤ s.time) then s.refuse core slot entry 3 else s
def execPstParkedTimeout (core slot entry : Nat) (s : State) : Result := .next (pstParkedTimeoutStep core slot entry s)

/-! ### Remote accesses (R405) -/

/-- The capability operand of an instruction that may access SPACE 5 and is not posted. -/
def remoteOpnd : Instr → Option Opnd
  | .ld f => some f.a
  | .ldc f => some f.a
  | .ldv f => some f.a
  | .lda f => some f.a
  | .stl f => some f.d
  | .amo f => some f.a
  | .cas f => some f.a
  | .casw f => some f.a
  | .arrive f => some f.d
  | .arriveOne f => some f.d
  | .waitm f => some f.a
  | .cwait f => some f.a
  | _ => none

/-- R405: the remote access that a context waits with reaches its far core again: the instruction issues once more, and is
checked and performed there. -/
def remoteAccessArrivalStep (core slot : Nat) (s : State) : State :=
  let k := hartKey core slot
  let t := { s with cur := k }
  if s.mayIssue k && !(s.takesPending k) && (s.ctx k).blocked.isSome then
    match s.nextInstr k with
    | .ok i =>
      match remoteOpnd i, i.opFields with
      | some o, some (_, f) =>
        if (t.capOpnd o).cap.space == 5 && (s.ctx k).hintsMet f.hint then { t with latch := some i } else s
      | _, _ => s
    | .error _ => s
  else s
def execRemoteAccessArrival (core slot : Nat) (s : State) : Result := .next (remoteAccessArrivalStep core slot s)

end Sys2Proof.Machine
end

