-- ==== Sys2Proof/Machine/Order.lean ====
section
/-!
DEFINITION. Synchronisation: scopes (R236), releases and acquires (R237, R238, R248), and the ordering instructions (R242 to
R250, R258, R259).
-/

namespace Sys2Proof.Machine

/-! ### Scopes, releases and acquires -/

/-- The Drover and the host, as parties of a synchronisation: outside every core. -/
def outsideCore : Nat := 2 ^ 20

/-- R236: whether a party in `core'`, `slot'` lies in an agent scope named by a party in `core`, `slot`. -/
def State.inScope (s : State) (scope core slot core' slot' : Nat) : Bool :=
  if core = outsideCore ∨ core' = outsideCore then scope == 6
  else
    match scope with
    | 0 => core == core' && slot == slot'
    | 1 => core == core'
    | 2 => foldOf core == foldOf core'
    | 3 => s.paddockOf core == s.paddockOf core'
    | _ => true

/-- R236: whether a storage scope covers near and module memory, the only places that the detector checks (R254). -/
def coversGlobal (storage : Nat) : Bool := storage == 2 || storage == 4

/-- The vcore's synchronisation interval counts one more release or acquire (R255). -/
def State.bump (s : State) (k : Nat) : State := s.modSlot (s.slotKeyOf k) (fun l => { l with interval := l.interval + 1 })

/-- The vcore's later accesses happen after a clock (R238), and one more acquire is counted. -/
def State.learn (s : State) (k : Nat) (c : Sparse Nat) : State :=
  (s.modKnown k (fun h => { h with clock := joinClock h.clock c })).bump k

/-- The releases that an acquire of a context synchronises with (R237). -/
def State.syncWith (s : State) (k agent : Nat) (recs : List SyncRec) : List SyncRec :=
  let core := coreOf k
  let slot := s.slotNo k
  recs.filter (fun r => s.inScope r.agent r.core r.slot core slot && s.inScope agent core slot r.core r.slot)

/-- What the value that a read of `n` bytes at a key returns releases (R237). -/
def State.releasesAt (s : State) (key n : Nat) : List SyncRec := s.syncs.filter (fun r => overlaps r.addr r.size key n && !r.counted)
/-- The same, with the ARRIVEs that a counter has counted (R253). -/
def State.countedAt (s : State) (key n : Nat) : List SyncRec := s.syncs.filter (fun r => overlaps r.addr r.size key n)

/-- The bytes of the places that the detector checks that lie in a storage scope: all of them, or those of the synchronising access
(R236). -/
def scopeBytes (storage key n : Nat) : Nat × Nat := if coversGlobal storage then (0, 2 ^ 60) else (key, key + n)

/-- What an acquire of `n` bytes at a key takes from one release: it orders the places that lie in both storage scopes (R237): the range
of them, and the clock. -/
def gain (storage key n : Nat) (r : SyncRec) : Nat × Nat × Sparse Nat :=
  let x := scopeBytes r.storage r.addr r.size
  let y := scopeBytes storage key n
  (max x.1 y.1, min x.2 y.2 - max x.1 y.1, r.clock)

/-- What a context has acquired, of every place or of a range, counts as one acquire. -/
def State.acquired (s : State) (k : Nat) (gs : List (Nat × Nat × Sparse Nat)) : State :=
  let whole := gs.filter (fun g => g.2.1 == 2 ^ 60)
  (s.learn k (whole.foldl (fun (c : Sparse Nat) g => joinClock c g.2.2) [])).modKnown k (fun h =>
    { h with partials := (h.partials ++ gs.filter (fun g => g.2.1 != 0 && g.2.1 != 2 ^ 60)).dedup })

/-- An acquire of `n` bytes at a key that reads what `recs` released. -/
def State.acquire (s : State) (k agent storage key n : Nat) (recs : List SyncRec) : State :=
  s.acquired k ((s.syncWith k agent recs).map (gain storage key n))

/-- A synchronising read, which an ACQ fence may follow (R248). -/
def State.remember (s : State) (k : Nat) (recs : List SyncRec) : State :=
  s.modKnown k (fun h => { h with seen := (h.seen ++ recs).dedup })

/-- A synchronising write at a place: what it releases, the REL fences before it included (R248); `earlier` is what stays released there:
by the chain that it continues (R237), or by the ARRIVEs that its counter counts (R253). -/
def State.published (s : State) (k key n : Nat) (arrive : Bool) (release : Option (Nat × Nat)) (earlier : List SyncRec) : State :=
  let mk (agent storage : Nat) (c : Sparse Nat) : SyncRec :=
    { addr := key, size := n, core := coreOf k, slot := s.slotNo k, agent := agent, storage := storage, clock := c, arrive := arrive }
  let own : List SyncRec := match release with | some (ag, st) => [mk ag st (s.releaseClock k)] | none => []
  let fenced := (s.known k).fences.map (fun x => mk x.1 x.2.1 x.2.2)
  let s1 : State := { s with syncs := s.syncs ++ earlier ++ own ++ fenced }
  if release.isSome then s1.bump k else s1

/-! ### Fields and checks -/

/-- R242. -/
def agentOf (f : Fields) : Nat := f.mod 3 3
def storageOf (f : Fields) : Nat := f.mod 0 3
def acqOf (f : Fields) : Bool := f.im 20 1 == 1
def relOf (f : Fields) : Bool := f.im 21 1 == 1
def facqOf (f : Fields) : Bool := f.im 22 1 == 1
/-- R244: the offset. -/
def ordOff (f : Fields) : Int := sx (f.im 0 16) 16

/-- R259: the interval window of a vcore, at an instruction that counts `n` releases and acquires. -/
def intervalCheck (op n : Nat) (s : State) : Exec Unit :=
  let sl := s.slotOf s.cur
  need (decide (sl.interval + n ≤ sl.hurdleInterval + 2 ^ 17)) DET_VIOLATION (2 * 2 ^ 60 + op)

/-- R258: from level STRICT up, only SLOT scope; and R259. -/
def detCheck (op : Nat) (f : Fields) (n : Nat) (s : State) : Exec Unit := do
  need ((s.ctx s.cur).detlvl == 0 || agentOf f == 0) DET_VIOLATION (2 ^ 60 + op)
  intervalCheck op n s

/-- R250: a release waits until every earlier posted store of its context has retired. -/
def releaseWait (s : State) (rel : Bool) : Exec Unit :=
  if rel && !isDrain s.cur && s.pstOutstanding s.cur then .error (.stay s) else .ok ()

/-- What a synchronising access asks of memory (R244). (DEDUCED, log 28.) -/
def syncReq (op field : Nat) (o : Opnd) (n : Nat) (ld st cp : Bool) : Req :=
  { op := op, field := field, opnd := o, n := n, al := n, ld := ld, st := st, cp := cp, remote := true, sync := true, spaces := [0, 1, 5] }

/-! ### LDA and STL (R245) -/

def ldaBody (f : Fields) (s : State) : Exec Out := do
  let n := tyWidth f.ty / 8
  detCheck 0x240 f 1 s
  let (s1, l) ← memAccess s s.cur (syncReq 0x240 2 f.a n true false false) (s.capOpnd f.a) (ordOff f) false false
  let recs := s.releasesAt l.key n
  let o := loadEnd (s1.noteAccess s.cur l 0) l n
  .ok { o with s := ((o.s.acquire s.cur (agentOf f) (storageOf f) l.key n recs).remember s.cur recs).setD f.d (CReg.ofTy f.ty (s.read l.key n)) }
def execLda (f : Fields) (s : State) : Result := runScalar f (ldaBody f) s

def stlBody (f : Fields) (s : State) : Exec Out := do
  let n := tyWidth f.ty / 8
  let x ← s.dataOpnd 0x241 2 f.a
  detCheck 0x241 f 1 s
  let (s1, l) ← memAccess s s.cur (syncReq 0x241 1 f.d n false true false) (s.capOpnd f.d) (ordOff f) false false
  releaseWait s true
  done (((s1.noteAccess s.cur l 1).write l.key n x).published s.cur l.key n false (some (agentOf f, storageOf f)) [])
def execStl (f : Fields) (s : State) : Result := runScalar f (stlBody f) s

/-! ### AMO (R246) -/

/-- The new value of n bits, and the flags of FADD. -/
def amoNew (aop n : Nat) (m b : Nat) : Nat × Nat :=
  let pick (c : Bool) : Nat := if c then m else b
  match aop with
  | 0 => ((m + b) % 2 ^ n, 0)
  | 1 => (m &&& b, 0)
  | 2 => (m ||| b, 0)
  | 3 => (m ^^^ b, 0)
  | 4 => (pick (decide (sx m n ≤ sx b n)), 0)
  | 5 => (pick (decide (sx b n ≤ sx m n)), 0)
  | 6 => (pick (decide (m ≤ b)), 0)
  | 7 => (pick (decide (b ≤ m)), 0)
  | 8 => (b, 0)
  | _ => fAdd 23 0 m b

/-- What a read, with or without a write after it, acquires. -/
def State.readSync (s : State) (k : Nat) (f : Fields) (acq : Bool) (key n : Nat) (recs : List SyncRec) : State :=
  (if acq then s.acquire k (agentOf f) (storageOf f) key n recs else s).remember k recs

/-- What an AMO, CAS or CASW that writes releases. -/
def relScopes (f : Fields) : Option (Nat × Nat) := if relOf f then some (agentOf f, storageOf f) else none

/-- How many releases and acquires an AMO, CAS or CASW may count. -/
def syncCount (f : Fields) : Nat := (if acqOf f then 1 else 0) + (if relOf f then 1 else 0)

def amoBody (f : Fields) (s : State) : Exec Out := do
  let k := s.cur
  let n := tyWidth f.ty
  let b ← s.dataOpnd 0x242 3 f.b
  detCheck 0x242 f (syncCount f) s
  let (s1, l) ← memAccess s k (syncReq 0x242 2 f.a (n / 8) true true false) (s.capOpnd f.a) (ordOff f) false false
  releaseWait s (relOf f)
  let m := s.read l.key (n / 8)
  let r := amoNew (f.im 16 4) n m (b % 2 ^ n)
  let recs := s.releasesAt l.key (n / 8)
  let o := loadEnd (s1.noteAccess k l 2) l (n / 8)
  let s2 := (o.s.write l.key (n / 8) r.1).readSync k f (acqOf f) l.key (n / 8) recs
  let s3 := s2.published k l.key (n / 8) false (relScopes f) (s.countedAt l.key (n / 8))
  .ok { o with s := (s3.modCtx k (fun c => c.orFlags r.2)).setD f.d (CReg.ofTy f.ty m) }
def execAmo (f : Fields) (s : State) : Result := runScalar f (amoBody f) s

/-! ### CAS and CASW (R247) -/

def casBody (f : Fields) (s : State) : Exec Out := do
  let k := s.cur
  let n := tyWidth f.ty
  let d ← s.dataOpnd 0x243 1 f.d
  let b ← s.dataOpnd 0x243 3 f.b
  detCheck 0x243 f (syncCount f) s
  let hit (l : Loc) : Bool := s.read l.key (n / 8) == d % 2 ^ n
  let (s1, l) ← memAccessIf s k (syncReq 0x243 2 f.a (n / 8) true true false) (s.capOpnd f.a) (ordOff f) false false hit
  releaseWait s (relOf f)
  let m := s.read l.key (n / 8)
  let recs := s.releasesAt l.key (n / 8)
  let o := loadEnd (s1.noteAccess k l 2) l (n / 8)
  let s2 :=
    if hit l then
      ((o.s.write l.key (n / 8) b).readSync k f (acqOf f) l.key (n / 8) recs).published k l.key (n / 8) false (relScopes f)
        (s.countedAt l.key (n / 8))
    else o.s.readSync k f (facqOf f) l.key (n / 8) recs
  .ok { o with s := s2.setD f.d (CReg.ofTy f.ty m) }
def execCas (f : Fields) (s : State) : Result := runScalar f (casBody f) s

/-- R244: kind loadcap, and storecap as well when the new value is tagged. -/
def caswBody (f : Fields) (s : State) : Exec Out := do
  let k := s.cur
  let d := s.capOpnd f.d
  let b := s.capOpnd f.b
  detCheck 0x244 f (syncCount f) s
  let old (l : Loc) : CReg := ⟨l.tags && s.tagAt l.key, (s.readTagged l.key).val⟩
  let (s1, l) ← memAccessIf s k { syncReq 0x244 2 f.a 16 true true true with noW := !b.tag } (s.capOpnd f.a) (ordOff f) b.tag (b.cap.has permG)
    (fun l => old l == d)
  releaseWait s (relOf f)
  let recs := s.releasesAt l.key 16
  let o := loadEnd (s1.noteAccess k l 2) l 16
  let s2 :=
    if old l = d then
      ((o.s.writeTagged l.key b).readSync k f (acqOf f) l.key 16 recs).published k l.key 16 false (relScopes f) (s.countedAt l.key 16)
    else o.s.readSync k f (facqOf f) l.key 16 recs
  .ok { o with s := s2.setD f.d (old l) }
def execCasw (f : Fields) (s : State) : Result := runScalar f (caswBody f) s

/-! ### FENCE (R248) -/

/-- A REL fence: writes that follow release what precedes it. -/
def State.fenceRel (s : State) (k agent storage : Nat) : State :=
  let c := s.releaseClock k
  (s.modKnown k (fun h =>
    { h with fences := h.fences.filter (fun x => !(x.1 == agent && x.2.1 == storage)) ++ [(agent, storage, c)] })).bump k

/-- An ACQ fence: reads that precede it acquire there; the bytes that they read lie in its storage scope (R236). -/
def State.fenceAcq (s : State) (k agent storage : Nat) : State :=
  s.acquired k ((s.syncWith k agent (s.known k).seen).map (fun r => gain storage r.addr r.size r))

/-- Every read and write is performed at its issue in this model, so that the fence waits only for posted stores (R250). -/
def fenceBody (f : Fields) (s : State) : Exec Out := do
  detCheck 0x245 f (syncCount f) s
  releaseWait s (relOf f)
  let s1 := if acqOf f then s.fenceAcq s.cur (agentOf f) (storageOf f) else s
  done (if relOf f then s1.fenceRel s.cur (agentOf f) (storageOf f) else s1)
def execFence (f : Fields) (s : State) : Result := runScalar f (fenceBody f) s

/-! ### WAITM (R249) -/

def waitmBody (f : Fields) (s : State) : Exec Out := do
  let k := s.cur
  let n := tyWidth f.ty
  let b ← s.dataOpnd 0x246 3 f.b
  detCheck 0x246 f 1 s
  let (s1, l) ← memAccess s k (syncReq 0x246 2 f.a (n / 8) true false false) (s.capOpnd f.a) (ordOff f) false false
  let m := s.read l.key (n / 8)
  if m = b % 2 ^ n && !(s.poisoned l (n / 8)) then .error (.stay s.waitNoted)
  else
    let recs := s.releasesAt l.key (n / 8)
    let o := loadEnd (s1.noteAccess k l 0) l (n / 8)
    .ok { o with s := ((o.s.acquire k (agentOf f) (storageOf f) l.key (n / 8) recs).remember k recs).setD f.d (CReg.ofTy f.ty m) }
def execWaitm (f : Fields) (s : State) : Result := runScalar f (waitmBody f) s

/-- The instruction at which a context waits is issued again, in this step, when a test admits it. -/
def State.reissue (s : State) (k : Nat) (ok : Instr → Bool) : State :=
  match s.waitingAt k with
  | some i => if ok i && !(s.takesPending k) then { s with cur := k, latch := some i } else s
  | none => s

/-- R249: the location of a waiting WAITM is read again. -/
def waitmPollStep (core slot : Nat) (s : State) : State :=
  s.reissue (hartKey core slot) (fun i => match i with | .waitm _ => true | _ => false)
def execWaitmPoll (core slot : Nat) (s : State) : Result := .next (waitmPollStep core slot s)

end Sys2Proof.Machine
end

