-- ==== Sys2Proof/Machine/Inbox.lean ====
section
/-!
DEFINITION. FORK and RDV, the fork sequencers, and the inbox instructions (R209 to R213).
-/

namespace Sys2Proof.Machine

/-- The engines in the order of a fork block's doublewords (R210). -/
def forkEngines : List Engine := [.copy, .matrix, .quant]

/-- The lists that a fork block names. -/
def forkNamed (b : BitVec 256) : List Engine := forkEngines.filter (fun e => bitAt (fld b.toNat (64 * forkIx e) 64) 63)

/-- R210 FORM. -/
def forkForm (b : BitVec 256) : Bool :=
  let d (i : Nat) : Nat := fld b.toNat (64 * i) 64
  forkEngines.any (fun e => fld (d (forkIx e)) 40 23 != 0 || fld (d (forkIx e)) 0 40 % 64 != 0) || d 3 != 0 ||
    (forkNamed b).isEmpty

/-- The lists of a fork block join the queues of their engines (R210). -/
def State.startLists (s : State) (k : Nat) (cap : CReg) (b : BitVec 256) : State :=
  (forkNamed b).foldl (fun (s : State) (e : Engine) =>
    let l : ForkList := { active := true, cap := cap, off := fld b.toNat (64 * forkIx e) 40, index := 0 }
    (s.modSlot (s.slotKeyOf k) (fun x => { x with forks := x.forks.put (forkIx e) l })).modEngine (coreOf k) e
      (fun x => { x with queue := x.queue ++ [.list (s.slotNo k)] })) s

/-- R210 FORK. -/
def forkBody (f : Fields) (s : State) : Exec Out := do
  let k := s.cur
  let cap := s.capOpnd f.a
  let rq : Req := { op := 0x300, field := 2, opnd := f.a, n := 32, al := 32, ld := true, st := false, spaces := [0, 1] }
  let (s1, l) ← memAccess s k rq cap (offsetOf f) false false
  let s1 := s1.noteAccess k l 0
  let b := BitVec.ofNat 256 (s1.read l.key 32)
  let busy := (forkNamed b).any (fun e => (Sparse.get {} (s.slotOf k).forks (forkIx e)).active)
  let o := loadEnd s1 l 32
  if forkForm b then .ok { o with s := o.s.setD f.d (CReg.word 1) }
  else if busy then .ok { o with s := o.s.setD f.d (CReg.word 2) }
  else .ok { o with s := (o.s.startLists k cap b).setD f.d (CReg.word 0) }
def execFork (f : Fields) (s : State) : Result := runScalar f (forkBody f) s

/-- A command of a slot's FORK lists stands in an engine's queue, or runs: on this unit, or, of a group, on another one (R210, R223). -/
def State.listBusy (s : State) (core slot : Nat) (e : Engine) : Bool :=
  let mine (c : Cmd) : Bool := c.forked && c.issuer == core && c.slot == slot
  (List.range 16).any (fun i =>
    let x := s.engine (core / 16 * 16 + i) e
    x.queue.any (fun q => match q with | .cmd c => mine c | .list _ => false) || x.run.any (fun r => mine r.cmd) || x.parts.any (fun r => mine r.cmd))

/-- R211 RDV: every list of the context has ended, and no command of one is left to run: it acquires their writes (R252). -/
def rdvBody (f : Fields) (s : State) : Exec Out := do
  let k := s.cur
  let sl := s.slotOf k
  intervalCheck 0x301 1 s
  if sl.forks.any (fun e => e.2.active) || forkEngines.any (s.listBusy (coreOf k) (s.slotNo k)) then .error (.stay s)
  else
    done (((s.setD f.d (CReg.word sl.abandoned)).learn k (forkEngines.foldl (fun (c : Sparse Nat) e =>
      joinClock c [(engKey sl.lid sl.vcore (forkIx e + 4), Sparse.get 0 sl.engSeq (forkIx e + 4) + 1)]) [])).modSlot (s.slotKeyOf k)
        (fun x => { x with abandoned := 0 }))
def execRdv (f : Fields) (s : State) : Result := runScalar f (rdvBody f) s

/-- A command that a list could not read: its record is unknown, and its TAG is a free value, one for each place of a list.
(DESIGN CHOICE, log 88.) -/
def unreadCmd (s : State) (core slot : Nat) (e : Engine) : Cmd :=
  let sl := s.slot (slotKey core slot)
  let l := Sparse.get {} sl.forks (forkIx e)
  { record := BitVec.ofNat 512 (fld (Config.unreadTag (l.cap.cap.base + l.off + 64 * l.index)) 0 16 * 2 ^ 16), slot := slot, lid := sl.lid
    vcore := sl.vcore, mode := (s.ctx (hartKey core slot)).mode, issuer := core, forked := true, seq := Sparse.get 0 sl.engSeq (forkIx e + 4) }

/-- A list ends with an error on the read of its next command (R210). -/
def State.listFails (s : State) (core : Nat) (e : Engine) (slot status detail : Nat) : State :=
  (s.dropEngMisses core e).finishCmd core e (unreadCmd s core slot e) status 0 detail 0 0

/-- R210: the sequencer of the list at the head of a queue reads its next command and runs it as a push; END ends the list. It reads
one command after those before it in the queue have ended, and in the mode that the context has then (R182). (DEDUCED, log 87.) -/
def forkSequenceReadStep (core : Nat) (e : Engine) (s : State) : State :=
  let x := s.engine core e
  match x.queue with
  | .list slot :: _ =>
    let sl := s.slot (slotKey core slot)
    let l := Sparse.get {} sl.forks (forkIx e)
    let cap := l.cap.cap
    let off := l.off + 64 * l.index
    let a := (cap.base + off) % 2 ^ 56
    let c : Cmd := { slot := slot, mode := (s.ctx (hartKey core slot)).mode, lid := sl.lid, vcore := sl.vcore, issuer := core
                     clock := s.releaseClock (hartKey core slot), forked := true, seq := Sparse.get 0 sl.engSeq (forkIx e + 4) }
    if x.frozen || x.run.isSome || !x.parts.isEmpty || s.halting (slotKey core slot) || s.listBusy core slot e then s
    else if cap.len < off + 64 then s.listFails core e slot 0x13 (cap.space * 2 ^ 60 + a)
    else
      match engReadAny s core e c cap.space a 64 with
      | .error (.miss t) => s.keepMisses t
      | .error (.host _) => s
      | .error (.freeze a) => s.freezeEngine core e c a
      | .error (.fail status a) => s.listFails core e slot status (cap.space * 2 ^ 60 + a % 2 ^ 56)
      | .ok (t, w) =>
        let r := BitVec.ofNat 512 w
        let t := t.dropEngMisses core e
        if fld (dw r 0) 0 8 = 0 && fld (dw r 0) 9 7 = 0 && fld (dw r 0) 32 32 = 0 then t.endList core slot e false
        else
          match t.accept core e { c with record := r } true with
          | none => s
          | some u =>
            u.modSlot (slotKey core slot) (fun y => { y with forks := y.forks.put (forkIx e) { l with index := l.index + 1 } })
  | _ => s
def execForkSequenceRead (core : Nat) (e : Engine) (s : State) : Result := .next (forkSequenceReadStep core e s)

/-! ### The inbox (R213) -/

/-- INRECV: the entry is removed, and what it hands over is acquired (R252). -/
def inrecvBody (f : Fields) (s : State) : Exec Out :=
  match (s.slotOf s.cur).inbox with
  | [] => done (s.setD f.d {})
  | x :: rest =>
    if x.clock.isEmpty then done ((s.setD f.d ⟨false, x.val⟩).modSlot (s.slotKeyOf s.cur) (fun l => Slot.refill { l with inbox := rest }))
    else do
      intervalCheck 0x310 1 s
      done (((s.setD f.d ⟨false, x.val⟩).learn s.cur x.clock).modSlot (s.slotKeyOf s.cur) (fun l => Slot.refill { l with inbox := rest }))
def execInrecv (f : Fields) (s : State) : Result := runScalar f (inrecvBody f) s

/-- INPEEK. -/
def inpeekBody (f : Fields) (s : State) : Exec Out := do
  let b ← s.opndB 0x311 f false
  done (s.setD f.d ⟨false, ((s.slotOf s.cur).inbox.map (·.val)).getD b 0⟩)
def execInpeek (f : Fields) (s : State) : Result := runScalar f (inpeekBody f) s

/-- INWAIT; from level STRICT up its time-out is ignored (R258). -/
def inwaitBody (f : Fields) (s : State) : Exec Out := do
  let b ← s.opndB 0x312 f false
  let some? := !(s.slotOf s.cur).inbox.isEmpty
  if some? || ((s.ctx s.cur).detlvl == 0 && (b == 0 || s.waitedFor b)) then done (s.setGuardD f.d (guardOf some?))
  else .error (.stay s.waitNoted)
def execInwait (f : Fields) (s : State) : Result := runScalar f (inwaitBody f) s

/-- R213: the time of an INWAIT has passed, and it completes. -/
def inwaitTimeoutStep (core slot : Nat) (s : State) : State :=
  let k := hartKey core slot
  match s.waitingAt k with
  | some (.inwait f) =>
    let t := { s with cur := k }
    match t.opndB 0x312 f false with
    | .ok b => if (t.ctx k).detlvl == 0 && t.waitedFor b then t.finish f { s := t.setGuardD f.d (guardOf (!(t.slotOf k).inbox.isEmpty)) } else s
    | .error _ => s
  | _ => s
def execInwaitTimeout (core slot : Nat) (s : State) : Result := .next (inwaitTimeoutStep core slot s)

end Sys2Proof.Machine
end

