-- ==== Sys2Proof/Machine/Drain.lean ====
section
/-!
DEFINITION. The drain instructions DEMIT, DDROP and DSTAT (R227 to R229), and the tensor identifier table's TIDLD, TIDST
and TIDINV (R51 to R55).
-/

namespace Sys2Proof.Machine

/-! ### Register reads of several operands -/

/-- R94: an ILLEGAL_OPERAND that an instruction finds itself. -/
def operandTrap {α : Type} (s : State) (op : Nat) (f : Fields) (reason field : Nat) (o : Opnd) : Exec α :=
  trap ILLEGAL_OPERAND ((⟨0x03, reason, field, o.spec⟩ : DecodeTrap).tval (packWord op f) ((s.ctx s.cur).rep.map (·.ix)))

/-! ### DEMIT (R228) -/

/-- The place of `n` bytes of a scale vector, as a context loads them. -/
def State.scalePlace (s : State) (k space a n : Nat) : Exec Loc := do
  let core := coreOf k
  if space = 0 then
    let (pa, i) ← s.translate k a .load
    if s.crosses core pa n then .error (.fin (s.violates k a))
    else .ok { key := pa, space := 0, core := core, addr := pa, va := a, chk := imgCHK i && decide (pa < 2 ^ 51), cnt := imgCNT i
               page := imgVA i + imgSize i }
  else if space = 5 then
    s.remoteCheck k a n
    if s.bufferWaits k (fld a 44 12) 1 (fld a 0 44) n false then .error (.stay s)
    else .ok { key := placeKey 1 (fld a 44 12) (fld a 0 44), space := 5, core := fld a 44 12, addr := fld a 0 44, va := a }
  else if s.bufferWaits k core space a n false then .error (.stay s)
  else .ok { key := placeKey space core a, space := space, core := core, addr := a, va := a }

/-- Loads of `n` bytes at places that have been checked: each is checked for a race, and counts (R194, R195, R254). -/
def State.scaleLoads (k op n : Nat) : List Loc → State → Exec State
  | [], s => .ok s
  | l :: ls, s => do
    let t ← s.raceCheck k { op := op, field := 0, opnd := .c 0, n := n, al := 1, ld := true, st := false } l n false
    State.scaleLoads k op n ls (t.noteAccess k l 0)

/-- The scales of the elements of a row, 1 where there is none, and the places that they were loaded from. -/
def State.demitScales (s : State) (k op : Nat) (t : Tensor) (bank row : Nat) (on : Bool) : Exec (State × List Loc × List FVal) := do
  if !on || t.sfmt == 0 then .ok (s, [], List.replicate t.cols (FVal.fin false 1 0))
  else
    let ls ← (if t.saxis then List.range t.cols else [row]).mapM (fun i =>
      s.scalePlace k t.sspace (t.scaleBase bank + i * t.scaleBytes) t.scaleBytes)
    let u ← State.scaleLoads k op t.scaleBytes ls s
    let xs := ls.map (fun l => scaleVal t.sfmt (u.read l.key t.scaleBytes))
    .ok (u, ls, if t.saxis then xs else List.replicate t.cols (xs.headD (FVal.fin false 1 0)))

/-- R228 Conv of the exact quotient of a value and a scale: the pattern, and whether it saturated or was invalid. -/
def demitConv (t : Tensor) (x s : FVal) : Nat × Bool × Bool :=
  match t.kind with
  | 3 => let r := packElem (-128) 127 x s; (wrapN 8 r.1, r.2)
  | 4 => let r := packElem (-(2 : Int) ^ 31) ((2 : Int) ^ 31 - 1) x s; (wrapN 32 r.1, r.2)
  | 5 => if scaleBad s || decide (x = .nan) then (canonNaN 23, false, true) else ((divVal 23 x s).1, false, false)
  | 6 => if scaleBad s || decide (x = .nan) then (canonNaN 7, false, true) else ((divVal 7 x s).1, false, false)
  | _ => let r := packElem (planeLo t) (planeHi t) x s; (wrapN t.p r.1, r.2)

/-- The stores of a row: addresses and bytes (R50, R228). -/
def rowStores (t : Tensor) (bank row : Nat) (xs : List Nat) : List (Nat × List Byte) :=
  if t.planes then
    (List.range t.p).map (fun q => (t.bankBase bank + q * t.pstride + row * t.rstride, natToBytes (planeRowBytes t.cols) (planeOf t.p q xs)))
  else [(t.bankBase bank + row * t.rstride, xs.flatMap (natToBytes t.elemBytes))]

/-- The lanes that DEMIT reads, as 32-bit patterns. -/
def Ctx.lanes32 (c : Ctx) (v n : Nat) : List Nat := (List.range n).map (fun j => fld (c.getV (v + j / 16)).toNat (32 * (j % 16)) 32)

/-- The matrix command that a drain context drains. -/
def State.drainRun (s : State) (k : Nat) : Run := (s.drained (coreOf k) (s.ctx k).command).getD { cmd := {} }

/-- R226: the handler of context `k` ends, and the drained command goes on. -/
def State.endHandler (s : State) (k : Nat) (g : Run → Run) : State :=
  let core := coreOf k
  let r := s.drainRun k
  (s.modCtx k (fun c => { c with live := false })).drainEnds core
    (g { r with ended := r.ended + 1, after := joinClock r.after (s.known k).clock })

/-- R228 DEMIT. A scale entry with an uncorrectable error quarantines the core (R160); the handler has ended, and no trap is left to take.
(DEDUCED, log 91.) (DEDUCED, log 108.) -/
def demitBody (f : Fields) (s : State) : Exec Out := do
  let k := s.cur
  let core := coreOf k
  let idx ← s.dataOpnd 0x350 1 f.d
  let row ← s.opndB 0x350 f false
  let bsel := f.mod 4 2
  need (decide (idx ≤ 63)) BOUNDS idx
  let t := (s.slotOf k).tensor idx
  need (t.kind != 0 && (t.space == 1 || t.space == 4)) PERM idx
  need (!t.weight) WEIGHT_STORE idx
  let pub := s.publishedBank core (s.slotNo k) idx
  need (bsel == 0 || (t.state && (bsel != 2 || pub.isSome))) PERM idx
  need (decide (row < t.rows)) BOUNDS row
  if 16 < opndNum f.a + ceilDiv t.cols 16 then operandTrap s 0x350 f 9 2 f.a
  else
    let bank := if bsel = 2 then 1 - pub.getD 0 else bsel
    let (s0, sl, ss) ← s.demitScales k 0x350 t bank row (bitAt f.md.toNat 6)
    let xs := (s.ctx k).lanes32 (opndNum f.a) t.cols
    let vs := List.zipWith (fun x y => demitConv t (if f.mod 7 4 = 8 then fval 23 x else intVal (sx x 32)) y) xs ss
    let stores := rowStores t bank row (vs.map (·.1))
    if stores.any (fun w => s.bufferWaits k core t.space w.1 w.2.length true) then .error (.stay s)
    else
      let o := sl.foldl (fun (o : Out) l => o.loads l t.scaleBytes) { s := s0 }
      let s1 := stores.foldl (fun (s : State) (w : Nat × List Byte) => s.storeBytes (placeKey t.space core w.1) w.2) o.s
      let fl := anyFlags vs
      .ok { s := s1.endHandler k (fun r => { r with count := r.count + 1, dsat := r.dsat || fl.1, invalid := r.invalid || fl.2 }),
            next := .gone }
def execDemit (f : Fields) (s : State) : Result := runScalar f (demitBody f) s

/-- R229 DDROP. -/
def ddropBody (_ : Fields) (s : State) : Exec Out :=
  .ok { s := s.endHandler s.cur (fun r => { r with dropped := r.dropped + 1 }), next := .gone }
def execDdrop (f : Fields) (s : State) : Result := runScalar f (ddropBody f) s

/-- R229 DSTAT. -/
def dstatWord (r : Run) : Nat :=
  fld (dw r.cmd.record 0) 16 16 * 2 ^ 48 + fld r.dropped 0 16 * 2 ^ 32 + fld r.ended 0 16 * 2 ^ 16 + (if r.invalid then 8 else 0) +
    (if r.dsat then 4 else 0) + (if r.sat then 2 else 0) + (if r.replay then 1 else 0)
def dstatBody (f : Fields) (s : State) : Exec Out := done (s.setD f.d (CReg.word (dstatWord (s.drainRun s.cur))))
def execDstat (f : Fields) (s : State) : Result := runScalar f (dstatBody f) s

/-! ### Tensor identifiers -/

/-- R51: the share start of a slot added to, or taken from, the local addresses of an entry. -/
def State.relocate (s : State) (slot : Nat) (back : Bool) (e : BitVec 256) : BitVec 256 :=
  let t := tensorOf e
  let loc (sp : Nat) : Bool := decide (1 ≤ sp) && decide (sp ≤ 4)
  let move (sp a : Nat) : Nat :=
    if loc sp && t.kind != 0 then (if back then a + 2 ^ 56 - s.shareStart slot sp else a + s.shareStart slot sp) % 2 ^ 56 else a
  let scaleSp := if t.sfmt = 0 then 0 else t.sspace
  BitVec.ofNat 256 (setFld (setFld e.toNat 0 56 (move t.space t.base)) 64 56 (move scaleSp t.scale))

/-- The least RSTRIDE (R50). -/
def Tensor.minStride (t : Tensor) : Nat :=
  match t.kind with
  | 1 => planeRowBytes t.cols
  | 2 => planeRowBytes t.cols
  | 3 => t.cols
  | 6 => 2 * t.cols
  | _ => 4 * t.cols
/-- Bytes from BASE, and from SCALE, that an entry takes, both banks (R50). -/
def Tensor.span (t : Tensor) : Nat := if t.state then roundUp t.extent 64 + t.extent else t.extent
def Tensor.scaleSpan (t : Tensor) : Nat := if t.state then roundUp t.scaleLen 64 + t.scaleLen else t.scaleLen

/-- R52, with the condition on local ranges as `inside space base len`. -/
def tensorWf (inside : Nat → Nat → Nat → Bool) (e : BitVec 256) : Bool :=
  let t := tensorOf e
  let x := e.toNat
  let loc (sp : Nat) : Bool := decide (1 ≤ sp) && decide (sp ≤ 4)
  e == 0 ||
    (fld x 63 1 == 0 && fld x 120 4 == 0 && fld x 184 8 == 0 && fld x 168 2 == 0 &&
      decide (1 ≤ t.kind) && decide (t.kind ≤ 6) && decide (t.space ≤ 5) && t.sfmt != 3 &&
      (if t.sfmt = 0 then t.sspace == 0 && t.scale == 0 else decide (t.sspace ≤ 5)) &&
      (if t.planes then decide (2 ≤ t.p) && decide (t.p ≤ 8) && decide (2 ≤ t.dp) && decide (t.dp ≤ t.p)
       else t.p == 0 && t.dp == 0 && t.pstride == 0) &&
      decide (1 ≤ t.rows) && decide (1 ≤ t.cols) && t.base % 64 == 0 && t.pstride % 64 == 0 && t.rstride % 4 == 0 &&
      decide (t.minStride ≤ t.rstride) && (!t.planes || decide (t.rows * t.rstride ≤ t.pstride)) &&
      (t.sfmt != 1 || t.scale % 4 == 0) && !(t.weight && t.state) &&
      (!(loc t.space) || inside t.space t.base t.span) && (t.sfmt == 0 || !(loc t.sspace) || inside t.sspace t.scale t.scaleSpan))

/-- The range lies inside a slot's share (R52). -/
def State.insideShare (s : State) (slot space base len : Nat) : Bool :=
  decide (s.shareStart slot space ≤ base) && decide (base + len ≤ s.shareStart slot space + s.shareSize space)

/-- The commands of an engine that have not retired. -/
def EngineState.unretired (x : EngineState) : List Cmd :=
  (x.queue.filterMap (fun q => match q with | .cmd c => some c | .list _ => none)) ++ (x.run.map (·.cmd)).toList ++ x.parts.map (·.cmd) ++
    x.done.map (·.cmd)

/-- R53: an identifier of a slot is in flight; a group command counts in every member's table until it retires, and a command whose entry
is held outside the inbox has not retired. -/
def State.inFlight (s : State) (core slot idx : Nat) : Bool :=
  let sl := s.slot (slotKey core slot)
  sl.forks.any (fun e => e.2.active) || sl.held.any (fun h => h.names.contains idx) ||
    forkEngines.any (fun e => (s.engine core e).unretired.any (fun c => c.slot == slot && (cmdNames e c).contains idx)) ||
    (List.range 16).any (fun i => ((s.engine (core / 16 * 16 + i) .matrix).done.map (·.cmd)).any (fun c =>
      c.slot == slot && isGroup .matrix c.record && (groupCores c.issuer c.record).contains core && (cmdNames .matrix c).contains idx))

/-- The index of a TID instruction (R54). -/
def State.tidIndex (s : State) (op : Nat) (f : Fields) : Exec Nat :=
  if bitAt f.md.toNat 6 then s.dataOpnd op 3 f.b else .ok (f.mod 0 6)

/-- An entry of a slot's table written (R55). -/
def State.putTensor (s : State) (key idx : Nat) (e : BitVec 256) : State :=
  s.modSlot key (fun l => { l with tensors := Sparse.set 0 l.tensors idx e })

/-- R55 TIDLD. (DEDUCED, log 92.) -/
def tidldBody (f : Fields) (s : State) : Exec Out := do
  let k := s.cur
  let core := coreOf k
  let idx ← s.tidIndex 0x360 f
  if 63 < idx then done (s.setD f.d (CReg.word 4))
  else
    let rq : Req := { op := 0x360, field := 2, opnd := f.a, n := 32, al := 32, ld := true, st := false, spaces := [0, 1, 2, 3, 4, 5] }
    let (s1, l) ← memAccess s k rq (s.capOpnd f.a) (offsetOf f) false false
    let s1 := s1.noteAccess k l 0
    let o := loadEnd s1 l 32
    let e := s1.relocate (s.slotNo k) false (BitVec.ofNat 256 (s1.read l.key 32))
    if !(tensorWf (s.insideShare (s.slotNo k)) e) then .ok { o with s := o.s.setD f.d (CReg.word 2) }
    else if s.tidLocked core (s.slotNo k) idx then .ok { o with s := o.s.setD f.d (CReg.word 3) }
    else if s.inFlight core (s.slotNo k) idx then .ok { o with s := o.s.setD f.d (CReg.word 1) }
    else .ok { o with s := (o.s.putTensor (s.slotKeyOf k) idx e).setD f.d (CReg.word 0) }
def execTidld (f : Fields) (s : State) : Result := runScalar f (tidldBody f) s

/-- R55 TIDST. -/
def tidstBody (f : Fields) (s : State) : Exec Out := do
  let k := s.cur
  let idx ← s.tidIndex 0x361 f
  need (decide (idx ≤ 63)) BOUNDS idx
  let rq : Req := { op := 0x361, field := 1, opnd := f.d, n := 32, al := 32, ld := false, st := true, spaces := [0, 1, 2, 3, 4, 5] }
  let (s1, l) ← memAccess s k rq (s.capOpnd f.d) (offsetOf f) false false
  let s1 := s1.noteAccess k l 1
  done (s1.write l.key 32 (s.relocate (s.slotNo k) true (Sparse.get 0 (s.slotOf k).tensors idx)).toNat)
def execTidst (f : Fields) (s : State) : Result := runScalar f (tidstBody f) s

/-- R55 TIDINV. -/
def tidinvBody (f : Fields) (s : State) : Exec Out := do
  let k := s.cur
  let core := coreOf k
  let idx ← s.tidIndex 0x362 f
  if 63 < idx then done (s.setD f.d (CReg.word 4))
  else if s.tidLocked core (s.slotNo k) idx then done (s.setD f.d (CReg.word 3))
  else if s.inFlight core (s.slotNo k) idx then done (s.setD f.d (CReg.word 1))
  else done ((s.putTensor (s.slotKeyOf k) idx 0).setD f.d (CReg.word 0))
def execTidinv (f : Fields) (s : State) : Result := runScalar f (tidinvBody f) s

end Sys2Proof.Machine
end

