-- ==== Sys2Proof/Machine/Stop.lean ====
section
/-!
DEFINITION. What the Crook does to the engine work of a slot (R276, R365, R366).
-/

namespace Sys2Proof.Machine

/-! ### Engine work of a slot -/

/-- The cores of the Fold of a core. -/
def foldCores (core : Nat) : List Nat := (List.range 16).map (fun i => core / 16 * 16 + i)

/-- A command that a slot of a core issued. -/
def Cmd.from (c : Cmd) (core slot : Nat) : Bool := c.issuer == core && c.slot == slot

/-- The commands of a queue that a slot issued and that have not started, in order; a group command once, at its issuer's
member if it is one. -/
def State.unstarted (s : State) (core slot : Nat) (e : Engine) : List Cmd :=
  let here := (s.engine core e).queue.filterMap (fun q => match q with | .cmd c => if c.from core slot then some c else none | .list _ => none)
  let groups := (foldCores core).flatMap (fun m =>
    if m = core then []
    else (s.engine m e).queue.filterMap (fun q => match q with
      | .cmd c => if c.from core slot && c.member == 0 && !((groupCores core c.record).contains core) then some c else none
      | .list _ => none))
  here ++ groups

/-- The unstarted commands of a slot leave their queues, and their range entries are released. -/
def State.withdraw (s : State) (core slot : Nat) (e : Engine) : State :=
  (foldCores core).foldl (fun (s : State) m =>
    let gone := (s.engine m e).queue.filterMap (fun q => match q with | .cmd c => if c.from core slot then some c.id else none | .list _ => none)
    if gone.isEmpty then s
    else
      (s.modEngine m e (fun x => { x with queue := x.queue.filter (fun q => match q with | .cmd c => !(gone.contains c.id) | .list _ => true) })).modCore
        m (fun C => { C with ranges := C.ranges.filter (fun r => !(r.engine == e && gone.contains r.cmd)) })) s

/-- The unstarted commands of a slot complete with CANCELLED, in queue order (R200, R276); a frozen engine keeps its own (R387). -/
def State.cancelUnstarted (s : State) (core slot : Nat) (e : Engine) : State :=
  if (s.engine core e).frozen then s
  else
    let outs := (s.unstarted core slot e).filterMap (fun c => completionOf e { c with seq := 0 } 0x04 0 0 0 0)
    (s.withdraw core slot e).modEngine core e (fun x => { x with done := x.done ++ outs })

/-- What an engine that is not frozen runs. -/
def EngineState.active (x : EngineState) : Option Run := if x.frozen then none else x.run
/-- The command of a slot that an engine runs stops at its unit and completes with HALTED (R276): a copy or quantisation
command at its chunk or block, a matrix command when its steps have ended and the rows that it has handed out (R226). -/
def State.haltRunning (s : State) (core slot : Nat) : State :=
  let s1 := [Engine.copy, Engine.quant].foldl (fun (s : State) e =>
    match (s.engine core e).active with
    | some r => if r.cmd.from core slot then s.endCmd core e r.cmd 0x05 r.count 0 0 0 else s
    | none => s) s
  let halt (r : Run) : Run := if r.cmd.from core slot then { r with halted := true } else r
  let s2 := (foldCores core).foldl (fun (s : State) m =>
    s.modEngine m .matrix (fun x => if x.frozen then x else { x with run := x.run.map halt, parts := x.parts.map halt })) s1
  (foldCores core).foldl (fun (s : State) m =>
    match (s.engine m .matrix).active with
    | some r => if r.cmd.from core slot && r.phase == 2 then s.drainEnds m r else s
    | none => s) s2

/-- Whether the engines of a slot have reached their units (R365, R366): no matrix command of the slot is in hand and none of
its handlers runs; the other engines stand between units in every state of this model. -/
def State.enginesStopped (s : State) (core slot : Nat) : Bool :=
  !((foldCores core).any (fun m =>
      (s.engine m .matrix).run.any (fun r => r.cmd.from core slot) || (s.engine m .matrix).parts.any (fun r => r.cmd.from core slot))) &&
    !((List.range 4).any (fun d => (s.ctx (drainKey core d)).live && Sparse.get 0 (s.core core).drainSlot d == slot))

/-- Completion entries of a slot that wait for its inbox are held outside it, while the slot is not resident (R75). (DEDUCED, log 32.) -/
def State.holdEntries (s : State) (core slot : Nat) : State × List Completion :=
  forkEngines.foldl (fun (acc : State × List Completion) e =>
    let mine := (acc.1.engine core e).done.filter (fun d => d.cmd.slot == slot)
    (acc.1.modEngine core e (fun x => { x with done := x.done.filter (fun d => d.cmd.slot != slot) }), acc.2 ++ mine)) (s, [])

end Sys2Proof.Machine
end

