-- ==== Sys2Proof/Machine/Hurdle.lean ====
section
/-!
DEFINITION. Collectives (R262), hurdles (R261, R32) and counted waits (R263 to R266).
-/

namespace Sys2Proof.Machine

/-! ### Collectives (R262) -/

/-- The context departs from its collective: it acquires what the arrivals released, and the pending state is cleared. -/
def State.depart (s : State) (k : Nat) (c : Coll) : State :=
  (s.learn k c.clock).modSlot (s.slotKeyOf k) (fun l => { l with coll := none })

/-- How an instruction departs from its collective: a MATRIX_CHECK that its arrival met comes after its effect (R346). -/
def State.departs (s : State) (k : Nat) (c : Coll) (a : Nat) (finish : Nat → State → State) : Out :=
  let t := finish a (s.depart k c)
  match c.check with
  | some tval => { s := t, next := .after MATRIX_CHECK tval }
  | none => { s := t }

/-- A collective, by its COLLOP and its number: an arrival once, a wait, and a departure. `arrive` answers at once where nothing is waited
for; `finish` takes the answer. While another collective of the slot is pending the context waits. (DEDUCED, log 41.) -/
def collective (op which : Nat) (arrive : State → Exec (Out × Option Nat)) (finish : Nat → State → State) (s : State) : Exec Out := do
  let k := s.cur
  match (s.slotOf k).coll with
  | some c =>
    if c.op = op ∧ c.which = which then
      match c.answer with
      | some a => .ok (s.departs k c a finish)
      | none => .error (.stay s)
    else .error (.stay s)
  | none =>
    let (o, now) ← arrive s
    match now, (o.s.slotOf k).coll with
    | some a, _ => .ok { o with s := finish a o.s }
    | none, some c0 =>
      let c : Coll := { c0 with check := match o.next with | .after _ tval => some tval | _ => none }
      let t := o.s.modSlot (o.s.slotKeyOf k) (fun l => { l with coll := some c })
      match c.answer with
      | some a => .ok (t.departs k c a finish)
      | none => .error (.stay t)
    | none, none => .error (.stay o.s)

/-- The arrival of a vcore at a collective stands until it is answered. -/
def State.pend (s : State) (k op which n : Nat) : State :=
  s.modSlot (s.slotKeyOf k) (fun l => { l with coll := some { op := op, which := which, instanceNo := n } })

/-- A vcore's pending collective is answered, if it is the one named, at the instance named. -/
def State.answer (s : State) (lid vcore op which n a : Nat) (clock : Sparse Nat) : State :=
  s.modVcore lid vcore (fun l =>
    match l.coll with
    | some c => if c.op = op ∧ c.which = which ∧ c.instanceNo = n then { l with coll := some { c with answer := some a, clock := clock } } else l
    | none => l)

/-! ### Hurdles (R261) -/

/-- The lowest bit of field `j` in a work identifier (R28). -/
def Gang.fieldOff (g : Gang) (j : Nat) : Nat := (g.widths.take j).foldl (· + ·) 0
/-- The product of the extents below field `j` (R28). -/
def Gang.below (g : Gang) (j : Nat) : Nat := (g.extents.take j).foldl (· * ·) 1

/-- Whether a vcore's item has arrived at an instance, or has ended. -/
def State.through (s : State) (lid : Nat) (h : HurdleInst) (w : Nat) : Bool :=
  let g := s.gang lid
  let sl := s.vcoreSlot lid w
  g.retired.contains w || h.arrived.contains w || sl.ended ||
    decide (h.key / 2 ^ (g.fieldOff g.span - g.fieldOff h.level) < sl.wid.toNat / 2 ^ g.fieldOff g.span)

/-- The vcores whose items an instance joins (R32). -/
def Gang.joined (g : Gang) (h : HurdleInst) : List Nat :=
  match h.arrived with
  | [] => []
  | v :: _ => (List.range g.vcores).filter (fun w => w / g.below h.level == v / g.below h.level)

/-- What those who depart from an instance acquire: what the arrivals released, and the ENDs of items that it joins (R253). -/
def Gang.released (g : Gang) (h : HurdleInst) : Sparse Nat :=
  (g.ends.filter (fun x => x.1 / 2 ^ g.fieldOff h.level == h.key)).foldl (fun c x => joinClock c x.2) h.clock

/-- Instances at which every joined item has arrived or ended release those that wait. -/
def State.settleHurdles (s : State) (lid : Nat) : State :=
  let g := s.gang lid
  let full := g.hurdles.filter (fun h => (g.joined h).all (s.through lid h))
  let s1 := full.foldl (fun (s : State) h =>
    h.arrived.foldl (fun (s : State) w => s.answer lid w 1 h.level h.number 0 (g.released h)) s) s
  if full.isEmpty then s else s1.modGang lid (fun g => { g with hurdles := g.hurdles.filter (fun h => !(full.contains h)) })

/-- The arrival of a context at a hurdle of level `j`. -/
def State.arriveHurdle (s : State) (k j : Nat) : State :=
  let sl := s.slotOf k
  let g := s.gang sl.lid
  let key := sl.wid.toNat / 2 ^ g.fieldOff j
  let n := Sparse.get 0 sl.hurdles j
  let same (h : HurdleInst) : Bool := h.level == j && h.key == key && h.number == n
  let c := s.releaseClock k
  let join (h : HurdleInst) : HurdleInst := if same h then { h with arrived := h.arrived ++ [sl.vcore], clock := joinClock h.clock c } else h
  let hs := if g.hurdles.any same then g.hurdles.map join
    else g.hurdles ++ [{ level := j, key := key, number := n, arrived := [sl.vcore], clock := c }]
  let s1 := (s.modGang sl.lid (fun g => { g with hurdles := hs })).modSlot (s.slotKeyOf k) (fun l =>
    { l with hurdles := l.hurdles.put j (n + 1), interval := l.interval + 1 })
  (s1.pend k 1 j n).settleHurdles sl.lid

/-- After a hurdle of the span level the interval window starts anew (R259). -/
def State.leaveHurdle (s : State) (k j : Nat) : State :=
  if j = (s.gang (s.slotOf k).lid).span then s.modSlot (s.slotKeyOf k) (fun l => { l with hurdleInterval := l.interval }) else s

/-- R261 HURDLE; level 0 departs at issue. -/
def hurdleBody (f : Fields) (s : State) : Exec Out :=
  let k := s.cur
  let j := f.im 0 3
  collective 1 j (fun s => do
    intervalCheck 0x280 (if j = (s.gang (s.slotOf k).lid).span then 1 else 2) s
    releaseWait s true
    if j = 0 then
      .ok ({ s := s.modSlot (s.slotKeyOf k) (fun l =>
        { l with hurdles := l.hurdles.put 0 (Sparse.get 0 l.hurdles 0 + 1), interval := l.interval + 2 }) }, some 0)
    else .ok ({ s := s.arriveHurdle k j }, none)) (fun _ t => t.leaveHurdle k j) s
def execHurdle (f : Fields) (s : State) : Result := runScalar f (hurdleBody f) s

/-! ### Counted waits -/

/-- What ARRIVE asks of memory (R263). -/
def arriveReq (f : Fields) : Req := { syncReq 0x281 1 f.d 8 true true false with al := 8 }

/-- R263: `b` is added to the counter; the ARRIVEs before it stay released to a CWAIT (R253). -/
def arriveWith (f : Fields) (b : Nat) (s : State) : Exec Out := do
  let k := s.cur
  intervalCheck 0x281 1 s
  let (s1, l) ← memAccess s k (arriveReq f) (s.capOpnd f.d) (offsetOf f) false false
  releaseWait s true
  let counted := ((s.countedAt l.key 8).filter (·.arrive)).map (fun r => { r with counted := true })
  let o := loadEnd (s1.noteAccess k l 2) l 8
  let s2 := (o.s.write l.key 8 (s.read l.key 8 + b)).remember k (s.releasesAt l.key 8)
  .ok { o with s := s2.published k l.key 8 true (some (3, 4)) counted }

def arriveBody (f : Fields) (s : State) : Exec Out := do
  let b ← s.dataOpnd 0x281 3 f.b
  arriveWith f b s
def execArrive (f : Fields) (s : State) : Result := runScalar f (arriveBody f) s

def arriveOneBody (f : Fields) (s : State) : Exec Out := arriveWith f 1 s
def execArriveOne (f : Fields) (s : State) : Result := runScalar f (arriveOneBody f) s

/-- R264 CWAIT. -/
def cwaitBody (f : Fields) (s : State) : Exec Out := do
  let k := s.cur
  let b ← s.dataOpnd 0x282 3 f.b
  intervalCheck 0x282 1 s
  let (s1, l) ← memAccess s k (syncReq 0x282 2 f.a 8 true false false) (s.capOpnd f.a) (offsetOf f) false false
  let m := s.read l.key 8
  if m < b && !(s.poisoned l 8) then .error (.stay s.waitNoted)
  else
    let recs := s.countedAt l.key 8
    let o := loadEnd (s1.noteAccess k l 0) l 8
    .ok { o with s := ((o.s.acquire k 3 4 l.key 8 recs).remember k recs).setD f.d (CReg.word m) }
def execCwait (f : Fields) (s : State) : Result := runScalar f (cwaitBody f) s

/-- R264: the counter of a waiting CWAIT is read again. -/
def cwaitPollStep (core slot : Nat) (s : State) : State :=
  s.reissue (hartKey core slot) (fun i => match i with | .cwait _ => true | _ => false)
def execCwaitPoll (core slot : Nat) (s : State) : Result := .next (cwaitPollStep core slot s)

/-- R265 CWAIT.SB. -/
def cwaitSbBody (f : Fields) (s : State) : Exec Out :=
  if (s.ctx s.cur).getSb (f.mod 0 3) ≤ f.imm.toNat then done s else .error (.stay s.waitNoted)
def execCwaitSb (f : Fields) (s : State) : Result := runScalar f (cwaitSbBody f) s

end Sys2Proof.Machine
end

