-- ==== Sys2Proof/Machine/Elementary.lean ====
section
/-!
DEFINITION. The correctly rounded reciprocal, reciprocal square root, 2^a and log2(a) of R146.

Away from the exact cases 2^a and log2(a) are irrational, so that a value known to more bits than any input needs to be told
from a rounding boundary, with `sticky` set, rounds as the exact value does.
-/

namespace Sys2Proof.Machine

/-- R146 VRCP: the exact quotient 1/a, rounded once. -/
def fRcp (fb a : Nat) : Flagged :=
  let (p, f) := divVal fb (.fin false 1 0) (fval fb a)
  (p, f ||| snanFlag fb [a])

/-- R146 VRSQ. -/
def fRsq (fb a : Nat) : Flagged :=
  match fval fb a with
  | .nan => (canonNaN fb, snanFlag fb [a])
  | .inf n => if n then (canonNaN fb, flagInvalid) else (zeroOf fb false, 0)
  | .fin n m e =>
    if m = 0 then (infOf fb n, flagDivzero)
    else if n then (canonNaN fb, flagInvalid)
    else
      let m' := if e % 2 = 0 then m else 2 * m
      let h := if e % 2 = 0 then e / 2 else (e - 1) / 2
      let k := fb + 40
      let r := isqrt (2 ^ (2 * k) / m') (k + 1) 0
      roundFin fb 0 false r (-h - k) (m' * r * r != 2 ^ (2 * k))

/-- Bits after the point of the approximations of 2^f. -/
def expBits : Nat := 120

/-- `y` times 2^f, where the `n` binary digits of `f` stand in `f`, from the most significant down, and `c` is 2 to the power
of half the digit before: fixed point with `expBits` fraction bits, rounded down at each step. -/
def expDigits : Nat → Nat → Nat → Nat → Nat
  | 0, _, _, y => y
  | n + 1, f, c, y =>
    let c' := isqrt (c * 2 ^ expBits) (expBits + 1) 0
    expDigits n f c' (if bitAt f n then y * c' / 2 ^ expBits else y)

/-- R146 VEXP2. (DEDUCED, log 33.) -/
def fExp2 (fb a : Nat) : Flagged :=
  match fval fb a with
  | .nan => (canonNaN fb, snanFlag fb [a])
  | .inf n => (if n then zeroOf fb false else infOf fb false, 0)
  | .fin n m e =>
    let x : Int := if n then -(m : Int) else (m : Int)
    if m = 0 then roundFin fb 0 false 1 0 false
    else if 2 ^ 10 * 2 ^ (-e).toNat ≤ m * 2 ^ e.toNat then roundFin fb 0 false 1 (if n then -2000 else 2000) true
    else if 0 ≤ e then roundFin fb 0 false 1 (x * (2 : Int) ^ e.toNat) false
    else
      let d : Int := (2 : Int) ^ (-e).toNat
      let i := x / d
      let r := (x % d).toNat
      if r = 0 then roundFin fb 0 false 1 i false
      else roundFin fb 0 false (expDigits 90 (r * 2 ^ 90 / 2 ^ (-e).toNat) (2 * 2 ^ expBits) (2 ^ expBits)) (i - expBits) true

/-- Bits after the point of log2, and of the squares that give them. -/
def logBits : Nat := 110
def logWork : Nat := 260

/-- The `n` binary digits of log2 of `x`, which has `logWork` fraction bits and lies in [1, 2). -/
def logDigits : Nat → Nat → Nat → Nat
  | 0, _, acc => acc
  | n + 1, x, acc =>
    let y := x * x / 2 ^ logWork
    if 2 * 2 ^ logWork ≤ y then logDigits n (y / 2) (2 * acc + 1) else logDigits n y (2 * acc)

/-- R146 VLOG2. -/
def fLog2 (fb a : Nat) : Flagged :=
  match fval fb a with
  | .nan => (canonNaN fb, snanFlag fb [a])
  | .inf n => if n then (canonNaN fb, flagInvalid) else (infOf fb false, 0)
  | .fin n m e =>
    if m = 0 then (infOf fb true, flagDivzero)
    else if n then (canonNaN fb, flagInvalid)
    else
      let w := bitLen m - 1
      let i : Int := e + w
      if m = 2 ^ w then cvtFromInt fb 0 i
      else
        let f := logDigits logBits (m * 2 ^ (logWork - w)) 0
        let v : Int := i * 2 ^ logBits + f
        if 0 ≤ v then roundFin fb 0 false v.toNat (-(logBits : Int)) true
        else roundFin fb 0 true ((-v).toNat - 1) (-(logBits : Int)) true

end Sys2Proof.Machine
end

