-- ==== Sys2Proof/Machine/Float.lean ====
section
/-!
DEFINITION. Scalar floating point (R127 to R130).
-/

namespace Sys2Proof.Machine

/-- A floating-point operand: the low bits of a c register, or the literal's pattern (R87, R127). -/
def State.fpOpnd (s : State) (op field ty : Nat) (o : Opnd) : Exec Nat := do
  let x ← s.dataOpnd op field o
  .ok (x % 2 ^ tyWidth ty)
def State.fpB (s : State) (op : Nat) (f : Fields) : Exec Nat :=
  if f.lit then .ok (f.imm.toNat % 2 ^ tyWidth f.ty) else s.fpOpnd op 3 f.ty f.b

/-- The result pattern, zero-extended, and the flags (R39, R127). -/
def State.fpDone (s : State) (f : Fields) (r : Flagged) : Exec Out :=
  done ((s.setD f.d (CReg.word r.1)).modCtx s.cur (fun c => c.orFlags r.2))

def fpBinary (op : Nat) (f : Fields) (g : Nat → Nat → Nat → Flagged) (s : State) : Exec Out := do
  let a ← s.fpOpnd op 2 f.ty f.a
  let b ← s.fpB op f
  s.fpDone f (g (fbOf f.ty) a b)

/-- RM, MOD[1:0] (R38). -/
def rmOf (f : Fields) : Nat := f.mod 0 2

def execFadd (f : Fields) (s : State) : Result := runScalar f (fpBinary 0x080 f (fun fb => fAdd fb (rmOf f))) s
def execFsub (f : Fields) (s : State) : Result := runScalar f (fpBinary 0x081 f fSub) s
def execFmul (f : Fields) (s : State) : Result := runScalar f (fpBinary 0x082 f (fun fb => fMul fb (rmOf f))) s

/-- FFMA reads D first (R127). -/
def ffmaBody (f : Fields) (s : State) : Exec Out := do
  let d ← s.fpOpnd 0x083 1 f.ty f.d
  fpBinary 0x083 f (fun fb a b => fFma fb (rmOf f) false a b d) s
def execFfma (f : Fields) (s : State) : Result := runScalar f (ffmaBody f) s

def execFdiv (f : Fields) (s : State) : Result := runScalar f (fpBinary 0x084 f fDiv) s

def fsqrtBody (f : Fields) (s : State) : Exec Out := do
  let a ← s.fpOpnd 0x085 2 f.ty f.a
  s.fpDone f (fSqrt (fbOf f.ty) a)
def execFsqrt (f : Fields) (s : State) : Result := runScalar f (fsqrtBody f) s

def execFmin (f : Fields) (s : State) : Result := runScalar f (fpBinary 0x086 f (fMinMax false)) s
def execFmax (f : Fields) (s : State) : Result := runScalar f (fpBinary 0x087 f (fMinMax true)) s

/-- R128 FCMP. -/
def fcmpBody (f : Fields) (s : State) : Exec Out := do
  let a ← s.fpOpnd 0x088 2 f.ty f.a
  let b ← s.fpB 0x088 f
  let r := fCompare (fbOf f.ty) (f.mod 0 3) a b
  done ((s.setGuardD f.d (guardOf r.1)).modCtx s.cur (fun c => c.orFlags r.2))
def execFcmp (f : Fields) (s : State) : Result := runScalar f (fcmpBody f) s

/-- R129: conversion of a pattern of type `src` to type `dst` under a mode: the value as a register holds it, and the
flags. Integer to integer is VCVT's (R148) and wraps. -/
def convert (dst src rm x : Nat) : CReg × Nat :=
  if tyFloat dst then
    let r := if tyFloat src then cvtFloat (fbOf dst) (fbOf src) rm x else cvtFromInt (fbOf dst) rm (tyVal src x)
    (CReg.word r.1, r.2)
  else
    let r := cvtInt (tyWidth dst) (tySigned dst) rm (fval (fbOf src) x)
    (CReg.ofTy dst r.1, r.2 ||| snanFlag (fbOf src) [x])

def fcvtBody (f : Fields) (s : State) : Exec Out := do
  let a ← s.fpOpnd 0x089 2 (f.mod 3 4) f.a
  let r := convert f.ty (f.mod 3 4) (rmOf f) a
  done ((s.setD f.d r.1).modCtx s.cur (fun c => c.orFlags r.2))
def execFcvt (f : Fields) (s : State) : Result := runScalar f (fcvtBody f) s

/-- R130 FCLASS sets no flag. -/
def fclassBody (f : Fields) (s : State) : Exec Out := do
  let a ← s.fpOpnd 0x08A 2 f.ty f.a
  done (s.setD f.d (CReg.word (fClass (fbOf f.ty) a)))
def execFclass (f : Fields) (s : State) : Result := runScalar f (fclassBody f) s

end Sys2Proof.Machine
end

