-- ==== Sys2Proof/Machine/Integer.lean ====
section
/-!
DEFINITION. Integer and guard-logic instructions (R118 to R123).
-/

namespace Sys2Proof.Machine

/-- R118: A and B read by the type, `g` of them written by R95. -/
def intBinary (op : Nat) (f : Fields) (sat : Bool) (g : Int → Int → Int) (s : State) : Exec Out := do
  let a ← s.dataOpnd op 2 f.a
  let b ← s.opndB op f (tySigned f.ty)
  done (s.setD f.d (intResult f.ty sat (g (tyVal f.ty a) (tyVal f.ty b))))

/-- R119: the n-bit patterns of A and B, `g n a b` written by the type. -/
def bitBinary (op : Nat) (f : Fields) (g : Nat → Nat → Nat → Nat) (s : State) : Exec Out := do
  let a ← s.dataOpnd op 2 f.a
  let b ← s.opndB op f (tySigned f.ty)
  let n := tyWidth f.ty
  done (s.setD f.d (CReg.ofTy f.ty (g n (a % 2 ^ n) (b % 2 ^ n))))

/-- R119: a shift of A[n−1:0] by `ZeroExt(b, 64) mod n`; the literal is zero-extended. -/
def shiftOp (op : Nat) (f : Fields) (g : Nat → Nat → Nat → Nat) (s : State) : Exec Out := do
  let a ← s.dataOpnd op 2 f.a
  let b ← s.opndB op f false
  let n := tyWidth f.ty
  done (s.setD f.d (CReg.ofTy f.ty (g n (a % 2 ^ n) (b % n))))

/-- R119: a count or pattern of A[n−1:0], written as Nn. -/
def bitUnary (op : Nat) (f : Fields) (g : Nat → Nat → Nat) (s : State) : Exec Out := do
  let a ← s.dataOpnd op 2 f.a
  let n := tyWidth f.ty
  done (s.setD f.d (CReg.word (g n (a % 2 ^ n))))

/-! ### The operations -/

/-- R120 DIV. -/
def divS (n : Nat) (a b : Int) : Int :=
  if b = 0 then -1 else if a = -((2 : Int) ^ (n - 1)) ∧ b = -1 then a else Int.tdiv a b
/-- R120 REM. -/
def remS (n : Nat) (a b : Int) : Int :=
  if b = 0 then a else if a = -((2 : Int) ^ (n - 1)) ∧ b = -1 then 0 else Int.tmod a b
/-- R120 DIVN. -/
def divU (n : Nat) (a b : Int) : Int := if b = 0 then (2 : Int) ^ n - 1 else a / b
/-- R120 REMN. -/
def remU (a b : Int) : Int := if b = 0 then a else a % b

def shlBits (n a s : Nat) : Nat := a * 2 ^ s % 2 ^ n
def shrBits (_ a s : Nat) : Nat := a / 2 ^ s
def sarBits (n a s : Nat) : Nat := wrapN n (sx a n / (2 : Int) ^ s)
def rolBits (n a s : Nat) : Nat := a * 2 ^ s % 2 ^ n + a / 2 ^ (n - s)
def clzBits (n a : Nat) : Nat := n - bitLen a
def ctzBits (n a : Nat) : Nat := ((List.range n).find? (fun i => bitAt a i)).getD n
def popcBits (n a : Nat) : Nat := (List.range n).countP (fun i => bitAt a i)
def brevBits (n a : Nat) : Nat := (List.range n).foldl (fun acc i => acc * 2 + fld a i 1) 0
/-- The carry-less product of two n-bit patterns (R119). -/
def clmulBits (n a b : Nat) : Nat :=
  (List.range n).foldl (fun acc i => if bitAt b i then acc ^^^ (a * 2 ^ i) else acc) 0

/-- R121: the comparison named by COND. -/
def intCompare (cond : Nat) (a b : Int) : Bool :=
  match cond with
  | 0 => decide (a = b)
  | 1 => decide (a ≠ b)
  | 2 => decide (a < b)
  | 3 => decide (a ≤ b)
  | 4 => decide (b < a)
  | _ => decide (b ≤ a)

/-- R121: GOPC. -/
def guardOp (code : Nat) (a b : Word64) : Word64 :=
  match code with
  | 0 => a &&& b
  | 1 => a ||| b
  | 2 => a ^^^ b
  | 3 => a &&& ~~~b
  | _ => ~~~a

/-! ### The meanings -/

def execAdd (f : Fields) (s : State) : Result := runScalar f (intBinary 0x001 f (f.mod 6 1 == 1) (· + ·)) s
def execSub (f : Fields) (s : State) : Result := runScalar f (intBinary 0x002 f (f.mod 6 1 == 1) (· - ·)) s
def execMul (f : Fields) (s : State) : Result := runScalar f (intBinary 0x003 f false (· * ·)) s
def execMulh (f : Fields) (s : State) : Result :=
  runScalar f (intBinary 0x004 f false (fun a b => a * b / (2 : Int) ^ tyWidth f.ty)) s
def execMulhn (f : Fields) (s : State) : Result :=
  runScalar f (intBinary 0x005 f false (fun a b => a * b / (2 : Int) ^ tyWidth f.ty)) s
def execDiv (f : Fields) (s : State) : Result := runScalar f (intBinary 0x006 f false (divS (tyWidth f.ty))) s
def execDivn (f : Fields) (s : State) : Result := runScalar f (intBinary 0x007 f false (divU (tyWidth f.ty))) s
def execRem (f : Fields) (s : State) : Result := runScalar f (intBinary 0x008 f false (remS (tyWidth f.ty))) s
def execRemn (f : Fields) (s : State) : Result := runScalar f (intBinary 0x009 f false remU) s

/-- MAD reads D before it writes it (R119). Of several tagged operands, the TVAL of TAG names D, then A, then B. (DESIGN CHOICE,
log 118.) -/
def madBody (f : Fields) (s : State) : Exec Out := do
  let d ← s.dataOpnd 0x00A 1 f.d
  intBinary 0x00A f (f.mod 6 1 == 1) (fun a b => tyVal f.ty d + a * b) s
def execMad (f : Fields) (s : State) : Result := runScalar f (madBody f) s

def execAndI (f : Fields) (s : State) : Result := runScalar f (bitBinary 0x010 f (fun _ a b => a &&& b)) s
def execOrI (f : Fields) (s : State) : Result := runScalar f (bitBinary 0x011 f (fun _ a b => a ||| b)) s
def execXorI (f : Fields) (s : State) : Result := runScalar f (bitBinary 0x012 f (fun _ a b => a ^^^ b)) s
def execAndn (f : Fields) (s : State) : Result :=
  runScalar f (bitBinary 0x013 f (fun n a b => a &&& (2 ^ n - 1 - b))) s
def execShl (f : Fields) (s : State) : Result := runScalar f (shiftOp 0x014 f shlBits) s
def execShr (f : Fields) (s : State) : Result := runScalar f (shiftOp 0x015 f shrBits) s
def execSar (f : Fields) (s : State) : Result := runScalar f (shiftOp 0x016 f sarBits) s
def execRol (f : Fields) (s : State) : Result := runScalar f (shiftOp 0x017 f rolBits) s
def execClz (f : Fields) (s : State) : Result := runScalar f (bitUnary 0x018 f clzBits) s
def execCtz (f : Fields) (s : State) : Result := runScalar f (bitUnary 0x019 f ctzBits) s
def execPopc (f : Fields) (s : State) : Result := runScalar f (bitUnary 0x01A f popcBits) s
def execBrev (f : Fields) (s : State) : Result := runScalar f (bitUnary 0x01B f brevBits) s
def execClmul (f : Fields) (s : State) : Result :=
  runScalar f (bitBinary 0x01C f (fun n a b => clmulBits n a b % 2 ^ n)) s
def execClmulh (f : Fields) (s : State) : Result :=
  runScalar f (bitBinary 0x01D f (fun n a b => clmulBits n a b / 2 ^ n)) s
def execMin (f : Fields) (s : State) : Result := runScalar f (intBinary 0x020 f false (fun a b => if b < a then b else a)) s
def execMax (f : Fields) (s : State) : Result := runScalar f (intBinary 0x021 f false (fun a b => if a < b then b else a)) s
def execMinn (f : Fields) (s : State) : Result := runScalar f (intBinary 0x022 f false (fun a b => if b < a then b else a)) s
def execMaxn (f : Fields) (s : State) : Result := runScalar f (intBinary 0x023 f false (fun a b => if a < b then b else a)) s

/-- R122 SEL: the selector is bit 0 of g(SG), inverted by SNEG. -/
def selBody (f : Fields) (s : State) : Exec Out :=
  let pick := ((s.ctx s.cur).getG (BitVec.ofNat 4 (f.mod 0 4))).getLsbD 0 != (f.mod 4 1 == 1)
  done (s.setD f.d
    (if pick then s.wholeOpnd f.a else if f.lit then CReg.word (litVal f true) else s.wholeOpnd f.b))
def execSel (f : Fields) (s : State) : Result := runScalar f (selBody f) s

/-- R122 MOV between registers: c to c keeps the tag; a g destination takes 64 bits of data. -/
def movBody (f : Fields) (s : State) : Exec Out :=
  match f.d with
  | .g _ => do
    let a ← s.dataOpnd 0x025 2 f.a
    done (s.setGuardD f.d (BitVec.ofNat 64 a))
  | _ => done (s.setD f.d (s.wholeOpnd f.a))
def execMov (f : Fields) (s : State) : Result := runScalar f (movBody f) s

/-- R122 MOV of a literal, extended by the type. -/
def movImmBody (f : Fields) (s : State) : Exec Out :=
  let x := litVal f (tySigned f.ty)
  match f.d with
  | .g _ => done (s.setGuardD f.d (BitVec.ofNat 64 x))
  | _ => done (s.setD f.d (CReg.word x))
def execMovImm (f : Fields) (s : State) : Result := runScalar f (movImmBody f) s

/-- R122 MOVH. -/
def movhBody (f : Fields) (s : State) : Exec Out := do
  let d ← s.dataOpnd 0x026 1 f.d
  done (s.setD f.d (CReg.word (f.imm.toNat * 2 ^ 32 + d % 2 ^ 32)))
def execMovh (f : Fields) (s : State) : Result := runScalar f (movhBody f) s

/-- R123: POS and WIDTH of a field descriptor. -/
def fieldPos (x : Nat) : Nat := fld x 0 6
def fieldWidth (x : Nat) : Nat := Nat.min (fld x 6 7) 64

/-- R123 BFX. -/
def bfxBody (f : Fields) (s : State) : Exec Out := do
  let a ← s.dataOpnd 0x027 2 f.a
  let b ← s.opndB 0x027 f false
  let x := a / 2 ^ fieldPos b % 2 ^ fieldWidth b
  done (s.setD f.d
    (CReg.word (if f.ty == 3 && fieldWidth b != 0 then wrapN 64 (sx x (fieldWidth b)) else x)))
def execBfx (f : Fields) (s : State) : Result := runScalar f (bfxBody f) s

/-- R123 BFI: bits that would fall above 63 are discarded. -/
def bfiBody (f : Fields) (s : State) : Exec Out := do
  let d ← s.dataOpnd 0x028 1 f.d
  let a ← s.dataOpnd 0x028 2 f.a
  let b ← s.opndB 0x028 f false
  done (s.setD f.d (CReg.word (setFld d (fieldPos b) (fieldWidth b) a % 2 ^ 64)))
def execBfi (f : Fields) (s : State) : Result := runScalar f (bfiBody f) s

/-- R121 CMP: every bit of the guard receives the result. -/
def cmpBody (f : Fields) (s : State) : Exec Out := do
  let a ← s.dataOpnd 0x029 2 f.a
  let b ← s.opndB 0x029 f (tySigned f.ty)
  done (s.setGuardD f.d (guardOf (intCompare (f.mod 0 3) (tyVal f.ty a) (tyVal f.ty b))))
def execCmp (f : Fields) (s : State) : Result := runScalar f (cmpBody f) s

/-- R121 GOP; a literal is sign-extended to 64 bits. -/
def gopBody (f : Fields) (s : State) : Exec Out := do
  let a ← s.dataOpnd 0x02A 2 f.a
  let b ← s.opndB 0x02A f true
  done (s.setGuardD f.d (guardOp (f.mod 0 3) (BitVec.ofNat 64 a) (BitVec.ofNat 64 b)))
def execGop (f : Fields) (s : State) : Result := runScalar f (gopBody f) s

end Sys2Proof.Machine
end

