-- ==== Sys2Proof/Machine/Vector.lean ====
section
/-!
DEFINITION. Vector instructions (R139 to R155): operands and stream registers (R109, R140 to R143), lanes and the guard
(R141), and the meanings.
-/

namespace Sys2Proof.Machine

/-! ### Operands -/

/-- The stream registers that A and B name, in the order of their pops (R109). -/
def streamsOf (os : List Opnd) : List (BitVec 3) := os.filterMap (fun o => match o with | .q n => some n | _ => none)

/-- R142: every stream register named is bound. -/
def boundCheck (s : State) (op : Nat) (f : Fields) : List (Nat × Opnd) → Exec Unit
  | [] => .ok ()
  | (field, .q n) :: rest =>
    if ((s.ctx s.cur).getQ n.toNat).bound then boundCheck s op f rest else operandTrap s op f 7 field (.q n)
  | _ :: rest => boundCheck s op f rest

/-- The oldest entry of an arrival queue is taken, with what its arrival released (R109, R292). -/
def State.popQueue (s : State) (k queue : Nat) : State × VReg :=
  match Sparse.get [] (s.slotOf k).arrivals queue with
  | [] => (s, 0)
  | b :: rest =>
    let t := s.modSlot (s.slotKeyOf k) (fun l => { l with arrivals := l.arrivals.put queue rest })
    (if b.clock.isEmpty then t else t.learn k b.clock, b.data)

/-- How many of the entries that pops of queues would take are consumed with an acquire (R292). -/
def State.beatsAcquired (s : State) (k : Nat) (qs : List Nat) : Nat :=
  qs.dedup.foldl (fun n q => n + ((Sparse.get [] (s.slotOf k).arrivals q).take (qs.count q)).countP (fun b => !b.clock.isEmpty)) 0
/-- R259 for `n` acquires, which may be none. -/
def acquireCheck (op n : Nat) (s : State) : Exec Unit := if n = 0 then .ok () else intervalCheck op n s

/-- R143: the pops of an instruction, all at once: the entries in order; it waits while one is missing. -/
def popStreams (op : Nat) (s : State) (os : List Opnd) : Exec (State × List VReg) :=
  let qs := (streamsOf os).map (fun n => ((s.ctx s.cur).getQ n.toNat).queue.toNat)
  if qs.all (fun q => decide (qs.count q ≤ (Sparse.get [] (s.slotOf s.cur).arrivals q).length)) then do
    acquireCheck op (s.beatsAcquired s.cur qs) s
    .ok (qs.foldl (fun (acc : State × List VReg) q =>
      let p := acc.1.popQueue s.cur q
      (p.1, acc.2 ++ [p.2])) (s, []))
  else .error (.stay s)

/-- A value broadcast to every lane of `n` bits (R140). -/
def broadcast (n x : Nat) : VReg := (List.range (512 / n)).foldl (fun v i => setLane v n i (x % 2 ^ n)) 0

/-- The operands A and B of an instruction with lanes of `n` bits and broadcasts of `w` bits, and the state after the pops.
`lit` is the value of a literal B. A tagged c operand raises TAG (R140) whether or not a lane is active. (DESIGN CHOICE, log 122.) -/
def vecOperands (op : Nat) (f : Fields) (w lit : Nat) (s : State) : Exec (State × VReg × VReg) := do
  let bs := if f.lit then [] else [f.b]
  boundCheck s op f [(2, f.a), (3, f.b)]
  let b ← if f.lit then .ok (broadcast w lit) else
    match f.b with
    | .c n => do
      let x ← s.dataOpnd op 3 (.c n)
      .ok (broadcast w x)
    | .v n => .ok ((s.ctx s.cur).getV n.toNat)
    | _ => .ok 0
  let (t, ps) ← popStreams op s (f.a :: bs)
  match f.a, f.b with
  | .q _, .q _ => .ok (t, ps.getD 0 0, if f.lit then b else ps.getD 1 0)
  | .q _, _ => .ok (t, ps.getD 0 0, b)
  | a, .q _ => .ok (t, s.vReg a, if f.lit then b else ps.getD 0 0)
  | a, _ => .ok (t, s.vReg a, b)

/-- A literal as a lane's pattern (R140). -/
def laneLit (f : Fields) : Nat := litVal f (tySigned f.ty) % 2 ^ tyWidth f.ty

/-- R141: the active lanes of the result written over the old contents, and the flags of those lanes. -/
def writeLanes (n : Nat) (old : VReg) (lanes : List Nat) (g : Nat → Flagged) : VReg × Nat :=
  lanes.foldl (fun (acc : VReg × Nat) i =>
    let r := g i
    (setLane acc.1 n i r.1, acc.2 ||| r.2)) (old, 0)

/-- A vector result for the v register D, whose lane `i` is `g i` (R141). -/
def State.vecDone (t s : State) (f : Fields) (n : Nat) (g : Nat → Flagged) : Exec Out :=
  let r := writeLanes n (s.vReg f.d) (s.activeLanes f n) g
  done ((t.setVD f.d r.1).modCtx s.cur (fun c => c.orFlags r.2))

/-- A two-operand instruction: `g a b d` gives a lane's pattern and flags. -/
def vecBinary (op : Nat) (f : Fields) (g : Nat → Nat → Nat → Flagged) (s : State) : Exec Out := do
  let n := tyWidth f.ty
  let (t, a, b) ← vecOperands op f n (laneLit f) s
  t.vecDone s f n (fun i => g (laneOf a n i) (laneOf b n i) (laneOf (s.vReg f.d) n i))

/-- A unary instruction. -/
def vecUnary (op : Nat) (f : Fields) (g : Nat → Flagged) (s : State) : Exec Out := vecBinary op f (fun a _ _ => g a) s

/-! ### Arithmetic (R145) -/

/-- SAT (R144). -/
def satOf (f : Fields) : Bool := f.mod 6 1 == 1

/-- An exact integer result narrowed to a lane: wrapped or saturated. -/
def laneNarrow (ty : Nat) (sat : Bool) (x : Int) : Nat :=
  wrapN (tyWidth ty) (if sat then (if tySigned ty then satI x (tyWidth ty) else satN x (tyWidth ty)) else x)

/-- An arithmetic lane: integers by `gi` exactly, floats by `gf`. -/
def arith (f : Fields) (gi : Int → Int → Int → Int) (gf : Nat → Nat → Nat → Nat → Flagged) (a b d : Nat) : Flagged :=
  if tyFloat f.ty then gf (fbOf f.ty) a b d
  else (laneNarrow f.ty (satOf f) (gi (tyVal f.ty a) (tyVal f.ty b) (tyVal f.ty d)), 0)

def vaddBody (f : Fields) : State → Exec Out := vecBinary 0x100 f (arith f (fun a b _ => a + b) (fun fb a b _ => fAdd fb 0 a b))
def execVadd (f : Fields) (s : State) : Result := runVector f (vaddBody f) s
def vsubBody (f : Fields) : State → Exec Out := vecBinary 0x101 f (arith f (fun a b _ => a - b) (fun fb a b _ => fSub fb a b))
def execVsub (f : Fields) (s : State) : Result := runVector f (vsubBody f) s
def vmulBody (f : Fields) : State → Exec Out := vecBinary 0x102 f (arith f (fun a b _ => a * b) (fun fb a b _ => fMul fb 0 a b))
def execVmul (f : Fields) (s : State) : Result := runVector f (vmulBody f) s
def vfmaBody (f : Fields) : State → Exec Out := vecBinary 0x103 f (arith f (fun a b d => d + a * b) (fun fb a b d => fFma fb 0 false a b d))
def execVfma (f : Fields) (s : State) : Result := runVector f (vfmaBody f) s
def vfmsBody (f : Fields) : State → Exec Out := vecBinary 0x104 f (arith f (fun a b d => d - a * b) (fun fb a b d => fFma fb 0 true a b d))
def execVfms (f : Fields) (s : State) : Result := runVector f (vfmsBody f) s
def vminBody (f : Fields) : State → Exec Out :=
  vecBinary 0x105 f (fun a b _ =>
    if tyFloat f.ty then fMinMax false (fbOf f.ty) a b else (if tyVal f.ty a ≤ tyVal f.ty b then a else b, 0))
def execVmin (f : Fields) (s : State) : Result := runVector f (vminBody f) s
def vmaxBody (f : Fields) : State → Exec Out :=
  vecBinary 0x106 f (fun a b _ =>
    if tyFloat f.ty then fMinMax true (fbOf f.ty) a b else (if tyVal f.ty a ≤ tyVal f.ty b then b else a, 0))
def execVmax (f : Fields) (s : State) : Result := runVector f (vmaxBody f) s

/-- VABS and VNEG of a floating-point lane: a NaN becomes canonical, any other operand changes its sign bit by `g`. -/
def signLane (fb a : Nat) (g : Nat → Nat) : Flagged :=
  if isNaN fb a then (canonNaN fb, snanFlag fb [a]) else (setFld a (fb + 8) 1 (g (fld a (fb + 8) 1)), 0)
def vabsBody (f : Fields) : State → Exec Out :=
  vecUnary 0x107 f (fun a =>
    if tyFloat f.ty then signLane (fbOf f.ty) a (fun _ => 0) else (laneNarrow f.ty (satOf f) ((tyVal f.ty a).natAbs : Int), 0))
def execVabs (f : Fields) (s : State) : Result := runVector f (vabsBody f) s
def vnegBody (f : Fields) : State → Exec Out :=
  vecUnary 0x108 f (fun a =>
    if tyFloat f.ty then signLane (fbOf f.ty) a (fun b => 1 - b) else (laneNarrow f.ty (satOf f) (-(tyVal f.ty a)), 0))
def execVneg (f : Fields) (s : State) : Result := runVector f (vnegBody f) s

/-! ### Reciprocal, root, exponential and logarithm (R146) -/

def vrcpBody (f : Fields) : State → Exec Out := vecUnary 0x110 f (fRcp (fbOf f.ty))
def execVrcp (f : Fields) (s : State) : Result := runVector f (vrcpBody f) s
def vrsqBody (f : Fields) : State → Exec Out := vecUnary 0x111 f (fRsq (fbOf f.ty))
def execVrsq (f : Fields) (s : State) : Result := runVector f (vrsqBody f) s
def vexp2Body (f : Fields) : State → Exec Out := vecUnary 0x112 f (fExp2 (fbOf f.ty))
def execVexp2 (f : Fields) (s : State) : Result := runVector f (vexp2Body f) s
def vlog2Body (f : Fields) : State → Exec Out := vecUnary 0x113 f (fLog2 (fbOf f.ty))
def execVlog2 (f : Fields) (s : State) : Result := runVector f (vlog2Body f) s

/-! ### Bitwise, shift and count (R147) -/

/-- A lane of patterns, with no flag. -/
def vecBits (op : Nat) (f : Fields) (g : Nat → Nat → Nat → Nat) : State → Exec Out :=
  vecBinary op f (fun a b _ => (g (tyWidth f.ty) a b, 0))

def vandBody (f : Fields) : State → Exec Out := vecBits 0x120 f (fun _ a b => a &&& b)
def execVand (f : Fields) (s : State) : Result := runVector f (vandBody f) s
def vorBody (f : Fields) : State → Exec Out := vecBits 0x121 f (fun _ a b => a ||| b)
def execVor (f : Fields) (s : State) : Result := runVector f (vorBody f) s
def vxorBody (f : Fields) : State → Exec Out := vecBits 0x122 f (fun _ a b => a ^^^ b)
def execVxor (f : Fields) (s : State) : Result := runVector f (vxorBody f) s
def vandnBody (f : Fields) : State → Exec Out := vecBits 0x123 f (fun n a b => a &&& (2 ^ n - 1 - b))
def execVandn (f : Fields) (s : State) : Result := runVector f (vandnBody f) s
def vshlBody (f : Fields) : State → Exec Out := vecBits 0x124 f (fun n a b => shlBits n a (b % n))
def execVshl (f : Fields) (s : State) : Result := runVector f (vshlBody f) s
def vshrBody (f : Fields) : State → Exec Out := vecBits 0x125 f (fun n a b => shrBits n a (b % n))
def execVshr (f : Fields) (s : State) : Result := runVector f (vshrBody f) s
def vsarBody (f : Fields) : State → Exec Out := vecBits 0x126 f (fun n a b => sarBits n a (b % n))
def execVsar (f : Fields) (s : State) : Result := runVector f (vsarBody f) s
def vpopcBody (f : Fields) : State → Exec Out := vecBits 0x127 f (fun n a _ => popcBits n a)
def execVpopc (f : Fields) (s : State) : Result := runVector f (vpopcBody f) s
def vclzBody (f : Fields) : State → Exec Out := vecBits 0x128 f (fun n a _ => clzBits n a)
def execVclz (f : Fields) (s : State) : Result := runVector f (vclzBody f) s
def vclmulBody (f : Fields) : State → Exec Out :=
  vecBits 0x129 f (fun n a b => if f.mod 0 1 = 1 then clmulBits n a b / 2 ^ n else clmulBits n a b % 2 ^ n)
def execVclmul (f : Fields) (s : State) : Result := runVector f (vclmulBody f) s

/-! ### Compare and select (R148, R149) -/

/-- The condition of a lane, and its flags. -/
def laneCompare (f : Fields) (a b : Nat) : Bool × Nat :=
  if tyFloat f.ty then fCompare (fbOf f.ty) (f.mod 0 3) a b else (intCompare (f.mod 0 3) (tyVal f.ty a) (tyVal f.ty b), 0)

/-- R148 VCMP. With no active lane it leaves D as it is, as R141 says of such an instruction. (DESIGN CHOICE, log 121.) -/
def vcmpBody (f : Fields) (s : State) : Exec Out := do
  let n := tyWidth f.ty
  let (t, a, b) ← vecOperands 0x130 f n (laneLit f) s
  let r := (s.activeLanes f n).foldl (fun (acc : Nat × Nat) i =>
    let c := laneCompare f (laneOf a n i) (laneOf b n i)
    (if c.1 then acc.1 + 2 ^ i else acc.1, acc.2 ||| c.2)) (0, 0)
  if (s.activeLanes f n).isEmpty then done t
  else done ((t.setGuardD f.d (BitVec.ofNat 64 r.1)).modCtx s.cur (fun c => c.orFlags r.2))
def execVcmp (f : Fields) (s : State) : Result := runVector f (vcmpBody f) s

def vselBody (f : Fields) (s : State) : Exec Out := do
  let n := tyWidth f.ty
  let (t, a, b) ← vecOperands 0x131 f n (laneLit f) s
  let g := (s.ctx s.cur).getG (BitVec.ofNat 4 (f.mod 0 4))
  t.vecDone s f n (fun i => (if g.getLsbD i != (f.mod 4 1 == 1) then laneOf a n i else laneOf b n i, 0))
def execVsel (f : Fields) (s : State) : Result := runVector f (vselBody f) s

/-! ### Conversions (R150) -/

/-- Conv of one lane. -/
def convLane (dst src rm x : Nat) : Flagged :=
  if !(tyFloat dst) && !(tyFloat src) then (laneNarrow dst true (tyVal src x), 0)
  else
    let r := convert dst src rm x
    (r.1.val.toNat % 2 ^ tyWidth dst, r.2)

def vcvtBody (f : Fields) (s : State) : Exec Out := do
  let src := f.mod 3 4
  let ws := tyWidth src
  let wd := tyWidth f.ty
  let n := 512 / Nat.max ws wd
  let part := f.im 0 3
  let a := s.vReg f.a
  let place (j : Nat) : Nat × Nat := if wd < ws then (j, part * n + j) else (part * n + j, j)
  let r := (List.range n).foldl (fun (acc : VReg × Nat) j =>
    let p := place j
    if s.guardBit f p.2 then
      let c := convLane f.ty src (f.mod 0 2) (laneOf a ws p.1)
      (setLane acc.1 wd p.2 c.1, acc.2 ||| c.2)
    else acc) (s.vReg f.d, 0)
  done ((s.setVD f.d r.1).modCtx s.cur (fun c => c.orFlags r.2))
def execVcvt (f : Fields) (s : State) : Result := runVector f (vcvtBody f) s

/-! ### Moving lanes (R151, R152) -/

def vbcastBody (f : Fields) (s : State) : Exec Out := do
  let n := tyWidth f.ty
  let x ← if f.lit then .ok (laneLit f) else s.dataOpnd 0x140 2 f.a
  s.vecDone s f n (fun _ => (x % 2 ^ n, 0))
def execVbcast (f : Fields) (s : State) : Result := runVector f (vbcastBody f) s

def vpermBody (f : Fields) (s : State) : Exec Out := do
  let n := tyWidth f.ty
  let (t, a, b) ← vecOperands 0x141 f n (laneLit f) s
  t.vecDone s f n (fun i => (laneOf a n (laneOf b n i % (512 / n)), 0))
def execVperm (f : Fields) (s : State) : Result := runVector f (vpermBody f) s

/-- The vector operand A of an instruction whose B is no vector, and the state after its pop. -/
def vecA (op : Nat) (f : Fields) (s : State) : Exec (State × VReg) := do
  boundCheck s op f [(2, f.a)]
  let (t, ps) ← popStreams op s [f.a]
  match f.a with
  | .q _ => .ok (t, ps.getD 0 0)
  | a => .ok (t, s.vReg a)

def vslideBody (f : Fields) (s : State) : Exec Out := do
  let n := tyWidth f.ty
  boundCheck s 0x142 f [(2, f.a)]
  let b ← s.opndB 0x142 f true
  let (t, a) ← vecA 0x142 f s
  t.vecDone s f n (fun i =>
    let j : Int := (i : Int) + sx b 64
    (if 0 ≤ j ∧ j < (512 / n : Nat) then laneOf a n j.toNat else 0, 0))
def execVslide (f : Fields) (s : State) : Result := runVector f (vslideBody f) s

def vcompressBody (f : Fields) (s : State) : Exec Out := do
  let n := tyWidth f.ty
  let (t, a) ← vecA 0x143 f s
  let g := (s.ctx s.cur).getG (BitVec.ofNat 4 (opndNum f.b))
  let picked := (List.range (512 / n)).filter (fun i => g.getLsbD i)
  t.vecDone s f n (fun i => (match picked[i]? with | some j => laneOf a n j | none => 0, 0))
def execVcompress (f : Fields) (s : State) : Result := runVector f (vcompressBody f) s

def viotaBody (f : Fields) (s : State) : Exec Out :=
  let g := (s.ctx s.cur).getG (BitVec.ofNat 4 (opndNum f.a))
  s.vecDone s f (tyWidth f.ty) (fun i => ((List.range i).countP (fun j => g.getLsbD j), 0))
def execViota (f : Fields) (s : State) : Result := runVector f (viotaBody f) s

/-- R152 VMOVC: the pop, and the trap of an unbound register, take place whatever the guard holds. -/
def vmovcBody (f : Fields) (s : State) : Exec Out := do
  let n := tyWidth f.ty
  if s.guardBit f 0 then
    boundCheck s 0x145 f [(2, f.a)]
    let b ← s.opndB 0x145 f false
    let (t, a) ← vecA 0x145 f s
    done (t.setD f.d (CReg.ofTy f.ty (laneOf a n (b % (512 / n)))))
  else
    let (t, _) ← vecA 0x145 f s
    done t
def execVmovc (f : Fields) (s : State) : Result := runVector f (vmovcBody f) s

def vinsBody (f : Fields) (s : State) : Exec Out := do
  let n := tyWidth f.ty
  let a ← s.dataOpnd 0x146 2 f.a
  let b ← s.opndB 0x146 f false
  done (s.setVD f.d (setLane (s.vReg f.d) n (b % (512 / n)) (a % 2 ^ n)))
def execVins (f : Fields) (s : State) : Result := runScalar f (vinsBody f) s

/-! ### Reductions and dot products (R153 to R155) -/

/-- R153: the identity of an integer reduction, as a pattern. -/
def intIdentity (ty red : Nat) : Nat :=
  let n := tyWidth ty
  match red with
  | 1 => if tySigned ty then 2 ^ (n - 1) - 1 else 2 ^ n - 1
  | 2 => if tySigned ty then 2 ^ (n - 1) else 0
  | 3 => 2 ^ n - 1
  | _ => 0

/-- R153: an integer reduction of patterns, exact. -/
def intReduce (ty red : Nat) (sat : Bool) (xs : List Nat) : Nat :=
  let pick (keep : Int → Int → Bool) : Nat :=
    xs.foldl (fun m x => if keep (tyVal ty m) (tyVal ty x) then m else x) (intIdentity ty red)
  match red with
  | 0 => laneNarrow ty sat ((xs.map (tyVal ty)).foldl (· + ·) 0)
  | 1 => pick (fun m x => decide (m ≤ x))
  | 2 => pick (fun m x => decide (x ≤ m))
  | 3 => xs.foldl (· &&& ·) (2 ^ tyWidth ty - 1)
  | 4 => xs.foldl (· ||| ·) 0
  | _ => xs.foldl (· ^^^ ·) 0

/-- R153: the step of a floating-point reduction, in FP32. -/
def floatStep (red : Nat) (a b : Nat) : Flagged :=
  match red with
  | 0 => fAdd 23 0 a b
  | 1 => fMinMax false 23 a b
  | _ => fMinMax true 23 a b

/-- A floating-point lane in FP32, or the identity of an inactive lane. -/
def floatLane (ty red : Nat) (active : Bool) (x : Nat) : Nat :=
  let p := if active then x else if red = 0 then zeroOf (fbOf ty) true else canonNaN (fbOf ty)
  if ty = 9 then p * 2 ^ 16 else p

/-- The result of steps in FP32 as the type has it: BF16 rounds once, and a signalling NaN that no step has met is INVALID there. (DEDUCED, log 74.) -/
def floatEnd (ty : Nat) (r : Flagged) : Flagged :=
  if ty = 9 then
    let e := roundVal 7 0 (fval 23 r.1)
    (e.1, r.2 ||| e.2 ||| snanFlag 23 [r.1])
  else r

def vredBody (f : Fields) (s : State) : Exec Out := do
  let n := tyWidth f.ty
  let red := f.mod 0 3
  let (t, a) ← vecA 0x150 f s
  let lanes := s.activeLanes f n
  if lanes.isEmpty then done t
  else if tyFloat f.ty then
    let xs := (List.range (512 / n)).map (fun i => floatLane f.ty red (s.guardBit f i) (laneOf a n i))
    let r := floatEnd f.ty (halving (floatStep red) (if f.ty = 9 then 5 else 4) xs 0)
    done ((t.setD f.d (CReg.word r.1)).modCtx s.cur (fun c => c.orFlags r.2))
  else done (t.setD f.d (CReg.ofTy f.ty (intReduce f.ty red (satOf f) (lanes.map (laneOf a n)))))
def execVred (f : Fields) (s : State) : Result := runVector f (vredBody f) s

/-- R154: the combining steps of a scan at distances 2^0 to 2^(k − 1); each lane carries the flags of the steps that reach it. -/
def scanSteps (step : Nat → Nat → Flagged) : Nat → Nat → List Flagged → List Flagged
  | 0, _, xs => xs
  | k + 1, d, xs =>
    scanSteps step k (2 * d) ((List.range xs.length).map (fun i =>
      let x := xs.getD i (0, 0)
      if i < d then x
      else
        let y := xs.getD (i - d) (0, 0)
        let r := step y.1 x.1
        (r.1, r.2 ||| x.2 ||| y.2)))

def vscanBody (f : Fields) (s : State) : Exec Out := do
  let n := tyWidth f.ty
  let red := f.mod 0 3
  let (t, a) ← vecA 0x151 f s
  if tyFloat f.ty then
    let xs := (List.range (512 / n)).map (fun i => (floatLane f.ty red (s.guardBit f i) (laneOf a n i), 0))
    let ys := scanSteps (floatStep red) (if f.ty = 9 then 5 else 4) 1 xs
    t.vecDone s f n (fun i => floatEnd f.ty (ys.getD i (0, 0)))
  else
    let x (i : Nat) : Nat := if s.guardBit f i then laneOf a n i else intIdentity f.ty red
    t.vecDone s f n (fun i => (intReduce f.ty red (satOf f) ((List.range (i + 1)).map x), 0))
def execVscan (f : Fields) (s : State) : Result := runVector f (vscanBody f) s

/-- R155: lane `j` of an integer dot product. -/
def dotInt (f : Fields) (a b d : Nat) : Nat :=
  let sgnB : Nat := if f.mod 5 1 = 1 then 4 else f.ty
  let sum : Int := (List.range 4).foldl (fun acc i => acc + tyVal f.ty (fld a (8 * i) 8) * tyVal sgnB (fld b (8 * i) 8)) 0
  let ty := if f.ty = 0 then 2 else 6
  laneNarrow ty (satOf f) (tyVal ty d + sum)

/-- R155: lane `j` of the BF16 dot product: all exact before the one rounding. The sum is taken as (d + p0) + p1: where a NaN and an
invalid combination both occur, INVALID is what that order gives. (DESIGN CHOICE, log 120.) -/
def dotBf16 (a b d : Nat) : Flagged :=
  let p0 := FVal.mul (fval 7 (fld a 0 16)) (fval 7 (fld b 0 16))
  let p1 := FVal.mul (fval 7 (fld a 16 16)) (fval 7 (fld b 16 16))
  let x := FVal.add 0 (fval 23 d) p0.1
  let y := FVal.add 0 x.1 p1.1
  let r := roundVal 23 0 y.1
  (r.1, p0.2 ||| p1.2 ||| x.2 ||| y.2 ||| r.2 ||| snanFlag 23 [d] ||| snanFlag 7 [fld a 0 16, fld a 16 16, fld b 0 16, fld b 16 16])

def vdotBody (f : Fields) (s : State) : Exec Out := do
  let (t, a, b) ← vecOperands 0x152 f 32 f.imm.toNat s
  t.vecDone s f 32 (fun j =>
    let x := laneOf a 32 j
    let y := laneOf b 32 j
    let d := laneOf (s.vReg f.d) 32 j
    if f.ty = 9 then dotBf16 x y d else (dotInt f x y d, 0))
def execVdot (f : Fields) (s : State) : Result := runVector f (vdotBody f) s

end Sys2Proof.Machine
end

