-- ==== Sys2Proof/Machine/Message.lean ====
section
/-!
DEFINITION. Messages (R284 to R293, R398).
-/

namespace Sys2Proof.Machine

/-! ### SEND (R286) -/

/-- R293: the determinism check of SEND, MATCH and UNMATCH. (DEDUCED, log 44.) -/
def freeOnly (op : Nat) (s : State) : Exec Unit := need ((s.ctx s.cur).detlvl == 0) DET_VIOLATION (4 * 2 ^ 60 + op)

/-- The endpoint operand (R284, R286). -/
def endpointOpnd (f : Fields) (s : State) : Exec Nat := do
  let e ← s.dataOpnd 0x320 1 f.d
  need (decide (e < 2 ^ 24)) BOUNDS e
  .ok e

/-- Plain loads of 64 bytes each from an address up: how the instruction ends after them, and the bytes; the first argument but for the
request counts those that are left. -/
def plainLines (rq : Req) (c : Cap) (s : State) : Nat → Nat → Out → Exec (Out × List Byte)
  | 0, _, o => .ok (o, [])
  | m + 1, a, o => do
    let l ← locate s s.cur rq c a
    let t ← o.s.raceCheck s.cur rq l 64 false
    accessWaits s s.cur rq l
    let (o1, bs) ← plainLines rq c s m ((a + 64) % 2 ^ 56) ({ o with s := t.noteAccess s.cur l 0 }.loads l 64)
    .ok (o1, s.bytesAt l.key 64 ++ bs)

/-- The payload of a SEND of k beats (R286). -/
def payloadAt (f : Fields) (s : State) : Exec (Out × List Byte) := do
  let k := f.mod 0 4 + 1
  let rq : Req := { op := 0x320, field := 2, opnd := f.a, n := 64 * k, al := 64, ld := true, st := false, spaces := [0, 1] }
  let (c, a) ← capCheck s s.cur rq (s.capOpnd f.a) (offsetOf f)
  plainLines { rq with n := 64 } c s k a { s := s }

/-- A free entry of a retry buffer. -/
def Slot.freeRetry (sl : Slot) : Option Nat := (List.range 32).find? (fun i => (sl.retryAt i).isNone)

/-- The entry is allocated, and the message is on its way (R286, R292). -/
def postMessage (f : Fields) (endpoint mode channel tag : Nat) (s : State) (o : Out) (payload : List Byte) : Exec Out := do
  let k := s.cur
  let rel := bitAt f.md.toNat 10
  let sl := s.slotOf k
  match sl.freeRetry with
  | none => .error (.stay s)
  | some i =>
    if rel then intervalCheck 0x320 1 s
    releaseWait s rel
    let e : REntry :=
      { lid := sl.lid, vcore := sl.vcore, endpoint := endpoint, mode := mode, channel := channel, tag := tag, payload := payload,
        seq := sl.sendSeq, order := s.turn, sentAt := s.time, clock := if rel then s.releaseClock k else [] }
    let t1 := o.s.modSlot (s.slotKeyOf k) (fun l => { l with retry := l.retry.put i e, sendSeq := (sl.sendSeq + 1) % 2 ^ 16 })
    .ok { o with s := if rel then t1.bump k else t1 }

/-- SEND in mode CHAN. -/
def sendChanBody (f : Fields) (s : State) : Exec Out := do
  freeOnly 0x320 s
  let e ← endpointOpnd f s
  let (t, bs) ← payloadAt f s
  postMessage f e 0 (f.mod 5 3) 0 s t bs
def execSendChan (f : Fields) (s : State) : Result := runScalar f (sendChanBody f) s

/-- SEND in mode TG. -/
def sendTgBody (f : Fields) (s : State) : Exec Out := do
  freeOnly 0x320 s
  let e ← endpointOpnd f s
  let b ← s.dataOpnd 0x320 3 f.b
  let (t, bs) ← payloadAt f s
  postMessage f e 2 0 (fld b 0 16) s t bs
def execSendTg (f : Fields) (s : State) : Result := runScalar f (sendTgBody f) s

/-- SEND in mode IN. -/
def sendInBody (f : Fields) (s : State) : Exec Out := do
  freeOnly 0x320 s
  let e ← endpointOpnd f s
  let x ← s.dataOpnd 0x320 2 f.a
  let b ← s.opndB 0x320 f false
  postMessage f e 1 0 (fld b 0 16) s { s := s } (natToBytes 8 x)
def execSendIn (f : Fields) (s : State) : Result := runScalar f (sendInBody f) s

/-! ### RECV, MATCH and UNMATCH (R290, R291) -/

/-- RECV. -/
def recvBody (f : Fields) (s : State) : Exec Out := do
  let b ← s.opndB 0x321 f false
  need (decide (b ≤ 7)) BOUNDS b
  if (Sparse.get [] (s.slotOf s.cur).arrivals b).isEmpty then .error (.stay s.waitNoted)
  else do
    acquireCheck 0x321 (s.beatsAcquired s.cur [b]) s
    let (t, x) := s.popQueue s.cur b
    done (t.setVD f.d x)
def execRecv (f : Fields) (s : State) : Result := runScalar f (recvBody f) s

/-- An entry of a match table. -/
def Slot.matchAt (sl : Slot) (i : Nat) : MatchEntry := Sparse.get {} sl.matchTable i

/-- MATCH. The buffer is checked and not accessed. (DEDUCED, log 42.) -/
def matchBody (f : Fields) (s : State) : Exec Out := do
  freeOnly 0x322 s
  let k := s.cur
  let w ← s.dataOpnd 0x322 3 f.b
  need (decide (w < 2 ^ 20)) BOUNDS w
  let n := 64 * (fld w 16 4 + 1)
  let rq : Req := { op := 0x322, field := 2, opnd := f.a, n := n, al := 64, ld := false, st := true, spaces := [1] }
  let (c, a) ← capCheck s k rq (s.capOpnd f.a) (offsetOf f)
  let l ← locate s k rq c a
  let sl := s.slotOf k
  if (List.range 32).any (fun i => (sl.matchAt i).armed && (sl.matchAt i).tag == fld w 0 16) then done (s.setD f.d (CReg.word 2))
  else
    match (List.range 32).find? (fun i => !(sl.matchAt i).armed) with
    | none => done (s.setD f.d (CReg.word 1))
    | some i =>
      let e : MatchEntry := { armed := true, tag := fld w 0 16, len := n, addr := l.addr }
      done ((s.modSlot (s.slotKeyOf k) (fun x => { x with matchTable := x.matchTable.put i e })).setD f.d (CReg.word (i * 2 ^ 8)))
def execMatchI (f : Fields) (s : State) : Result := runScalar f (matchBody f) s

/-- UNMATCH; a delivery is one step in this model, so that none is ever under way. -/
def unmatchBody (f : Fields) (s : State) : Exec Out := do
  freeOnly 0x323 s
  let b ← s.opndB 0x323 f false
  let sl := s.slotOf s.cur
  match (List.range 32).find? (fun i => (sl.matchAt i).armed && (sl.matchAt i).tag == fld b 0 16) with
  | none => done (s.setD f.d (CReg.word 3))
  | some i =>
    done ((s.modSlot (s.slotKeyOf s.cur) (fun x => { x with matchTable := Sparse.drop x.matchTable i })).setD f.d (CReg.word 0))
def execUnmatch (f : Fields) (s : State) : Result := runScalar f (unmatchBody f) s

/-! ### Delivery (R287 to R289) -/

/-- What a receiving core does with a message: nothing yet, a negative acknowledgement with a reason, or its delivery. -/
inductive Delivery where
  | wait
  | refuse (reason : Nat)
  | done (s : State)

/-- The payload of a message as the entries of an arrival queue; the first carries what the message releases (R292). -/
def beatsOf (clock : Sparse Nat) : Nat → List Byte → List Beat
  | 0, _ => []
  | m + 1, bs => { data := BitVec.ofNat 512 (bytesToNat (bs.take 64)), clock := clock } :: beatsOf [] m (bs.drop 64)

/-- R289: a message reaches the slot that holds its target. -/
def State.deliver (s : State) (key sender : Nat) (e : REntry) : Delivery :=
  let sl := s.slot key
  let entry (status detail : Nat) : InEntry := { val := inboxEntry e.tag 6 status sender detail, clock := e.clock }
  match e.mode with
  | 0 =>
    let q := Sparse.get [] sl.arrivals e.channel
    if 16 < q.length + e.payload.length / 64 then .refuse 2
    else .done (s.modSlot key (fun l => { l with arrivals := l.arrivals.put e.channel (q ++ beatsOf e.clock (e.payload.length / 64) e.payload) }))
  | 1 => if 64 ≤ sl.inbox.length then .refuse 2 else .done (s.putInbox key (entry 0 (bytesToNat e.payload)))
  | _ =>
    match (List.range 32).find? (fun i => (sl.matchAt i).armed && (sl.matchAt i).tag == e.tag && (sl.matchAt i).len == e.payload.length) with
    | none => .refuse 2
    | some i =>
      if 64 ≤ sl.inbox.length || (s.core (key / 16)).mustWait 1 (sl.matchAt i).addr e.payload.length true then .wait
      else
        let t := s.storeBytes (placeKey 1 (key / 16) (sl.matchAt i).addr) e.payload
        .done ((t.modSlot key (fun l => { l with matchTable := Sparse.drop l.matchTable i })).putInbox key (entry 1 e.payload.length))

/-- R287: the answer of this module for a vcore of a launch. (DEDUCED, log 43.) -/
def State.receive (s : State) (lid vcore sender : Nat) (e : REntry) : Delivery :=
  let g := s.gang lid
  if s.revoked.contains 0 && g.encl then .refuse 4
  else if !g.live || decide (g.vcores ≤ vcore) || g.retired.contains vcore then .refuse 3
  else
    match s.seatOf lid vcore with
    | none => .refuse 1
    | some key =>
      if !(s.slot key).live || !(s.slot key).resident then .refuse 1
      else if (s.ctx (hartOfSlot key)).frozen then .wait
      else s.deliver key sender e

def State.rentry (s : State) (core slot entry : Nat) : Option REntry := (s.slot (slotKey core slot)).retryAt entry
def State.setRentry (s : State) (core slot entry : Nat) (e : REntry) : State :=
  s.modSlot (slotKey core slot) (fun l => { l with retry := l.retry.put entry e })
def State.dropRentry (s : State) (core slot entry : Nat) : State :=
  s.modSlot (slotKey core slot) (fun l => { l with retry := Sparse.drop l.retry entry })

/-- R288: an earlier message of the context to the same endpoint has not been delivered, wherever its entry lies (R361). -/
def State.messageHeldBack (s : State) (e : REntry) : Bool :=
  s.slots.any (fun l => l.2.retry.any (fun p =>
    p.2.phase != 1 && p.2.lid == e.lid && p.2.vcore == e.vcore && p.2.endpoint == e.endpoint && decide (p.2.order < e.order)))

/-- The member whose module has a device index (R381). -/
def State.memberOf (s : State) (device : Nat) : Option Nat :=
  match s.byvon.flock with
  | some f => (f.modules.find? (fun m => m.1 == device)).map (fun m => m.2.2)
  | none => none
/-- R385: the module of a device index belongs to a revoked member. -/
def State.deviceRevoked (s : State) (device : Nat) : Bool := (s.memberOf device).any (fun m => s.revoked.contains (m + 1))

/-- Port `p` of LINKST (R396). -/
def State.linkOf (s : State) (p : Nat) : Nat := fld s.device.linkst.toNat (4 * p) 4
/-- The Olgus ports of the route to another module (R398). -/
def portsTo (dev : Nat) : List Nat := (List.range 16).filter (fun p => Config.routeUses p dev)
/-- R383: traffic to and from another module travels only on ports enabled for it. -/
def State.pathTo (s : State) (dev : Nat) : Bool := (portsTo dev).any (fun p => s.linkOf p == 3)
/-- R398: no port on the route to another module has been up for a time. -/
def State.noPortFor (s : State) (dev ns : Nat) : Bool :=
  (portsTo dev).all (fun p => s.linkOf p != 2 && s.linkOf p != 3 && decide (Sparse.get 0 s.device.downAt p + ns ≤ s.time))

/-- R384: the one running launch that is bound to a flock job. -/
def State.jobLaunch (s : State) (job : Nat) : Option Nat :=
  match s.gangs.filter (fun g => g.2.live && g.2.encl && g.2.job == job) with
  | [g] => some g.1
  | _ => none

/-- A message from another module: it is delivered here, and the answer goes back to the sender. -/
def State.farArrival (s : State) (m : FarMsg) : State :=
  if !s.serving || s.deviceRevoked (fld m.sender 12 12) || !(s.pathTo (fld m.sender 12 12)) then s
  else
    match s.jobLaunch m.job with
    | none => s
    | some lid =>
      let e : REntry := { lid := lid, vcore := 0, endpoint := 0, mode := m.mode, channel := m.channel % 8, tag := fld m.tag 0 16,
                          payload := m.payload.take 1024, seq := 0 }
      match s.receive lid (m.vcore % 2 ^ 12) (fld m.sender 0 24) e with
      | .done t => t
      | _ => s

/-- R289: a message reaches its receiving core, in SEQ order: it is delivered, or refused. -/
def messageArrivalStep (core slot entry : Nat) (far : Option FarMsg) (s : State) : State :=
  match far, s.rentry core slot entry with
  | some m, _ => s.farArrival m
  | none, some e =>
    let dev := fld e.endpoint 12 12
    if e.phase ≠ 0 || s.messageHeldBack e then s
    else if s.deviceRevoked dev then s.setRentry core slot entry { e with phase := 2, reason := 4 }
    else if dev ≠ s.byvon.device then s
    else
      match s.receive e.lid (fld e.endpoint 0 12) (dev * 2 ^ 12 + e.vcore % 2 ^ 12) e with
      | .wait => s
      | .refuse r => s.setRentry core slot entry { e with phase := 2, reason := r }
      | .done t => t.setRentry core slot entry { e with phase := 1 }
  | none, none => s
def execMessageArrival (core slot entry : Nat) (far : Option FarMsg) (s : State) : Result := .next (messageArrivalStep core slot entry far s)

/-- Another module's answer to a message may arrive: it is on its way, a port to that module is enabled (R383), and the module belongs to
no revoked member (R385). -/
def State.farAnswers (s : State) (e : REntry) : Bool :=
  let dev := fld e.endpoint 12 12
  dev != s.byvon.device && e.phase == 0 && !(s.messageHeldBack e) && s.pathTo dev && !(s.deviceRevoked dev)

/-- R287: an acknowledgement retires the entry. That of another module comes from outside. -/
def sendAckStep (core slot entry : Nat) (s : State) : State :=
  match s.rentry core slot entry with
  | some e => if e.phase = 1 || s.farAnswers e then s.dropRentry core slot entry else s
  | none => s
def execSendAck (core slot entry : Nat) (s : State) : Result := .next (sendAckStep core slot entry s)

/-- R287: a message that cannot be delivered: its entry retires, and SEND_UNDELIVERABLE is pending on the sender, unless its
vcore has ended its last item. -/
def State.undeliverable (s : State) (core slot entry reason : Nat) (e : REntry) : State :=
  let tval := e.seq % 2 ^ 16 * 2 ^ 48 + e.endpoint % 2 ^ 24 * 2 ^ 24 + reason % 8 * 2 ^ 5 + entry % 32
  let t := s.dropRentry core slot entry
  if (s.vcoreSlot e.lid e.vcore).ended then t
  else t.owe e.lid e.vcore { trap := some { order := 3, cause := SEND_UNDELIVERABLE, tval := tval } }

/-- R287: a negative acknowledgement: a retry after 128 ns at first and twice as long each time, up to 16 µs, or the end. -/
def sendNackStep (core slot entry : Nat) (reason : Nat) (s : State) : State :=
  match s.rentry core slot entry with
  | some e =>
    let r := if e.phase = 2 then e.reason else reason
    if !(e.phase == 2 || (s.farAnswers e && decide (1 ≤ reason) && decide (reason ≤ 4))) then s
    else if r = 3 ∨ r = 4 then s.undeliverable core slot entry r e
    else
      let b := if e.backoff = 0 then 128 else Nat.min (2 * e.backoff) 16000
      s.setRentry core slot entry { e with phase := 3, reason := r, backoff := b, nextAt := s.time + b }
  | none => s
def execSendNack (core slot entry : Nat) (reason : Nat) (s : State) : Result := .next (sendNackStep core slot entry reason s)

/-- R287: the back-off has passed, and the message is transmitted again. -/
def sendRetryStep (core slot entry : Nat) (s : State) : State :=
  match s.rentry core slot entry with
  | some e => if e.phase = 3 && decide (e.nextAt ≤ s.time) then s.setRentry core slot entry { e with phase := 0, sentAt := s.time } else s
  | none => s
def execSendRetry (core slot entry : Nat) (s : State) : Result := .next (sendRetryStep core slot entry s)

/-- R398: a message to another module has found no port up on its route for 1 ms. No posted store and no synchronising access
of this model leaves the module: SPACE 5 names cores of the paddock. -/
def noPortUpTimeoutStep (core slot : Nat) (posted : Bool) (entry : Nat) (s : State) : State :=
  match posted, s.rentry core slot entry with
  | false, some e =>
    let dev := fld e.endpoint 12 12
    if dev ≠ s.byvon.device && e.phase == 0 && decide (e.sentAt + 1000000 ≤ s.time) && s.noPortFor dev 1000000 then
      s.undeliverable core slot entry (if s.deviceRevoked dev then 4 else 3) e else s
  | _, _ => s
def execNoPortUpTimeout (core slot : Nat) (posted : Bool) (entry : Nat) (s : State) : Result :=
  .next (noPortUpTimeoutStep core slot posted entry s)

end Sys2Proof.Machine
end

