-- ==== Sys2Proof/Machine/Exchange.lean ====
section
/-!
DEFINITION. The transposing exchange (R304 to R315).
-/

namespace Sys2Proof.Machine

/-! ### Layout maps (R304 to R306) -/

/-- One side of a map: the dimension, the parts and the block of each factor. -/
structure Split where
  dim : Nat × Nat
  parts : Nat × Nat
  blk : Nat × Nat

def mapRank (m : Nat) : Nat := fld m 0 3
def mapElog (m : Nat) : Nat := fld m 4 3
def mapVfirst (m : Nat) : Nat := fld m 8 12
def mapPerm (m k : Nat) : Nat := fld m (32 + 3 * k) 3
def mapExt (m k : Nat) : Nat := fld m (64 + 32 * k) 32
/-- The split at a doubleword. -/
def mapSplit (m dwIx : Nat) : Split :=
  let b := 64 * dwIx
  ⟨(fld m b 3, fld m (b + 4) 3), (fld m (b + 8) 12 + 1, fld m (b + 20) 12 + 1), (fld m (b + 64) 32, fld m (b + 96) 32)⟩
def mapSrc (m : Nat) : Split := mapSplit m 4
def mapDst (m : Nat) : Split := mapSplit m 6
/-- The participants of a side. -/
def Split.count (p : Split) : Nat := p.parts.1 * p.parts.2
/-- N (R305). -/
def mapN (m : Nat) : Nat := (mapSrc m).count

/-- R305: the local extent of a dimension. -/
def Split.extent (p : Split) (m d : Nat) : Nat :=
  let e0 := if 1 < p.parts.1 ∧ p.dim.1 = d then mapExt m d / p.parts.1 else mapExt m d
  if 1 < p.parts.2 ∧ p.dim.2 = d then e0 / p.parts.2 else e0

/-- The bytes of a side's local array. -/
def Split.size (p : Split) (m : Nat) : Nat := ((List.range (mapRank m)).map (p.extent m)).foldl (· * ·) 1 * 2 ^ mapElog m
/-- S (R309). -/
def mapSize (m : Nat) : Nat := (mapSrc m).size m

/-- R306, conditions 1 to 3. -/
def mapShape (m : Nat) : Nat :=
  let r := mapRank m
  let ks := List.range 6
  if !(fld m 50 14 == 0 && fld m 20 12 == 0 && fld m 7 1 == 0 && fld m 3 1 == 0 && fld m 288 32 == 0 && fld m 263 1 == 0 && fld m 259 1 == 0 &&
      fld m 416 32 == 0 && fld m 391 1 == 0 && fld m 387 1 == 0 && fld m 512 512 == 0 && decide (1 ≤ r) && decide (r ≤ 6) &&
      decide (mapElog m ≤ 6)) then 1
  else if !(ks.all (fun k => if k < r then decide (1 ≤ mapExt m k) && decide (mapExt m k ≤ 2 ^ 31) else mapExt m k == 1)) then 2
  else if !(ks.all (fun k => if k < r then decide (mapPerm m k < r) else mapPerm m k == k) && (ks.map (mapPerm m)).Nodup) then 3
  else 0

/-- R306 MAP_SPLIT for a factor, and for a side. -/
def factorOk (r dim parts blk : Nat) : Bool := if parts = 1 then dim == 0 && blk == 0 else decide (dim < r) && decide (1 ≤ blk)
def Split.ok (p : Split) (r : Nat) : Bool :=
  factorOk r p.dim.1 p.parts.1 p.blk.1 && factorOk r p.dim.2 p.parts.2 p.blk.2 && !(decide (1 < p.parts.1) && decide (1 < p.parts.2) && p.dim.1 == p.dim.2)
/-- R306 MAP_DIVIDE. -/
def factorDivides (m dim parts blk : Nat) : Bool := parts == 1 || mapExt m dim % (blk * parts) == 0
def Split.divides (p : Split) (m : Nat) : Bool := factorDivides m p.dim.1 p.parts.1 p.blk.1 && factorDivides m p.dim.2 p.parts.2 p.blk.2

/-- R306: the status of MAPLD for a map and a gang size. -/
def mapStatus (m gangSize : Nat) : Nat :=
  if mapShape m ≠ 0 then mapShape m
  else if !((mapSrc m).ok (mapRank m) && (mapDst m).ok (mapRank m)) then 4
  else if !((mapSrc m).divides m && (mapDst m).divides m) then 5
  else if !((mapDst m).count == mapN m && decide (mapVfirst m + mapN m - 1 < gangSize)) then 6
  else if !(decide ((mapSrc m).size m < 2 ^ 40) && decide ((mapDst m).size m < 2 ^ 40)) then 7
  else 0

/-! ### Where an element goes (R305) -/

/-- What a factor does to an index of its dimension: the part, and the local index. -/
def factorOf (parts blk i : Nat) : Nat × Nat := ((i / blk) % parts, i / (blk * parts) * blk + i % blk)
/-- The global index from a part and a local index. -/
def factorBack (parts blk q ld : Nat) : Nat := ld / blk * (blk * parts) + q * blk + ld % blk

/-- The participant, counted from VFIRST, and the local indices of a global index. -/
def Split.place (p : Split) (is : List Nat) : Nat × List Nat :=
  let q0 := if p.parts.1 = 1 then 0 else (factorOf p.parts.1 p.blk.1 (is.getD p.dim.1 0)).1
  let q1 := if p.parts.2 = 1 then 0 else (factorOf p.parts.2 p.blk.2 (is.getD p.dim.2 0)).1
  let ld := is.zipIdx.map (fun x =>
    if 1 < p.parts.1 ∧ p.dim.1 = x.2 then (factorOf p.parts.1 p.blk.1 x.1).2
    else if 1 < p.parts.2 ∧ p.dim.2 = x.2 then (factorOf p.parts.2 p.blk.2 x.1).2
    else x.1)
  (q0 + p.parts.1 * q1, ld)

/-- The global index of a participant's local indices. -/
def Split.unplace (p : Split) (q : Nat) (ld : List Nat) : List Nat :=
  ld.zipIdx.map (fun x =>
    if 1 < p.parts.1 ∧ p.dim.1 = x.2 then factorBack p.parts.1 p.blk.1 (q % p.parts.1) x.1
    else if 1 < p.parts.2 ∧ p.dim.2 = x.2 then factorBack p.parts.2 p.blk.2 (q / p.parts.1) x.1
    else x.1)

/-- An offset in mixed radix, the first extent fastest. -/
def radixOf : List Nat → List Nat → Nat
  | l :: ls, e :: es => l + e * radixOf ls es
  | _, _ => 0
/-- The digits of an offset. -/
def digitsOf (off : Nat) : List Nat → List Nat
  | [] => []
  | e :: es => off % e :: digitsOf (off / e) es

/-- R305: element `n` of source participant `q`: the destination participant, and the element's place in its array. -/
def mapElement (m q n : Nat) : Nat × Nat :=
  let r := mapRank m
  let dims := List.range r
  let is := (mapSrc m).unplace q (digitsOf n (dims.map ((mapSrc m).extent m)))
  let d := (mapDst m).place is
  let order := dims.map (mapPerm m)
  (d.1, radixOf (order.map (fun k => d.2.getD k 0)) (order.map ((mapDst m).extent m)))

/-! ### MAPLD (R308) -/

def State.mapEntry (s : State) (p i : Nat) : MapEntry := Sparse.get {} (s.drover p).maps i

/-- An instance uses a map entry until every participant has its entry. -/
def State.mapBusy (s : State) (p i : Nat) : Bool := (s.drover p).exchanges.any (fun x => x.entry == i)

def mapldBody (f : Fields) (s : State) : Exec Out := do
  let k := s.cur
  let p := s.paddockOf (coreOf k)
  let i := f.mod 0 4
  let sl := s.slotOf k
  need ((s.ctx k).detlvl == 0 || sl.vcore == 0) DET_VIOLATION (5 * 2 ^ 60 + 0x331)
  let rq : Req := { op := 0x331, field := 2, opnd := f.a, n := 128, al := 64, ld := true, st := false, spaces := [0, 1] }
  let (c, a) ← capCheck s k rq (s.capOpnd f.a) (offsetOf f)
  let (o, bs) ← plainLines { rq with n := 64 } c s 2 a { s := s }
  let m := bytesToNat bs
  let st := mapStatus m (s.gang sl.lid).vcores
  if s.mapBusy p i then .ok { o with s := o.s.setD f.d (CReg.word 8) }
  else if st ≠ 0 then .ok { o with s := o.s.setD f.d (CReg.word st) }
  else
    let e : MapEntry := { valid := true, lid := sl.lid, map := BitVec.ofNat 1024 m }
    .ok { o with s := (o.s.modDrover p (fun d => { d with maps := d.maps.put i e })).setD f.d (CReg.word 0) }
def execMapld (f : Fields) (s : State) : Result := runScalar f (mapldBody f) s

/-! ### A2AT (R309, R310) -/

/-- Step 1 of R309 for one capability. (DEDUCED, log 51.) -/
def a2Open (s : State) (field : Nat) (o : Opnd) : Exec Unit := do
  need (s.capOpnd o).tag TAG (tagTval 0x330 field o)
  need (!((s.capOpnd o).cap.has permS)) PERM (s.capOpnd o).cap.cursor

/-- Step 2 of R309 for one capability. -/
def a2Right (s : State) (o : Opnd) (st : Bool) : Exec Unit :=
  let c := (s.capOpnd o).cap
  need (c.has (if st then permW else permR) && !(c.has permI) && (c.space == 0 || c.space == 1 || c.space == 3)) PERM c.cursor

/-- Step 3 of R309 for one capability: its space and cursor. -/
def a2Fits (s : State) (k : Nat) (o : Opnd) (size el : Nat) : Exec (Nat × Nat) := do
  let c := (s.capOpnd o).cap
  need (decide (c.off + size ≤ c.len)) BOUNDS c.cursor
  need (c.cursor % el == 0) ALIGN c.cursor
  need (c.space == 0 || decide (c.cursor + size ≤ bufferSize (coreOf k) c.space)) BOUNDS c.cursor
  .ok (c.space, c.cursor)

/-- A vcore has an instance that has not delivered its entry. -/
def State.exchanging (s : State) (p lid v : Nat) : Bool :=
  (s.drover p).exchanges.any (fun x => x.lid == lid && x.parts.any (fun e => e.1 == v && !e.2.delivered))

/-- R310: the start checks of one participant: 0, or the status. -/
def startCheck (s : State) (m : Nat) (e : ExPart) : Nat :=
  let sl := s.slot (slotKey e.core e.slot)
  let src : Region := ⟨e.srcSpace, e.src, mapSize m, false⟩
  let dst : Region := ⟨e.dstSpace, e.dst, mapSize m, true⟩
  if !(bitAt sl.engcap.toNat 16 && engcapOk sl src && engcapOk sl dst) then 0x11
  else if !(copyMay src && copyMay dst) then 0x14
  else if !(weightOk s e.core e.slot [dst]) then 0x15
  else if e.srcSpace = e.dstSpace ∧ overlaps e.src (mapSize m) e.dst (mapSize m) then 0x10
  else 0

/-- R310: an instance whose participants have all arrived starts, or fails a start check. -/
def startInstance (s : State) (x : ExInst) : ExInst :=
  match x.parts.findSome? (fun e => let st := startCheck s x.map.toNat e.2; if st = 0 then none else some (st, e.1)) with
  | some (st, v) => { x with started := true, status := st, detail := 0xF * 2 ^ 60 + v % 2 ^ 12 }
  | none => { x with started := true }

/-- A participant arrives at an instance (R309). -/
def joinExchange (s : State) (entry n lid m v : Nat) (e : ExPart) (xs : List ExInst) : List ExInst :=
  let same (x : ExInst) : Bool := x.entry == entry && x.number == n && x.lid == lid
  let add (x : ExInst) : ExInst :=
    let y := { x with parts := x.parts.put v e }
    if y.parts.length = mapN m then startInstance s y else y
  if xs.any same then xs.map (fun x => if same x then add x else x)
  else xs ++ [add { entry := entry, number := n, lid := lid, map := BitVec.ofNat 1024 m }]

/-- R309: each step of the checks is made on A and then on B. (DEDUCED, log 51.) -/
def a2atBody (f : Fields) (s : State) : Exec Out := do
  let k := s.cur
  let core := coreOf k
  let p := s.paddockOf core
  let sl := s.slotOf k
  let i := f.mod 0 4
  let e := s.mapEntry p i
  let m := if e.valid then e.map.toNat else 0
  let size := if e.valid then mapSize m else 0
  a2Open s 2 f.a
  a2Open s 3 f.b
  a2Right s f.a false
  a2Right s f.b true
  let (ss, sa) ← a2Fits s k f.a size (2 ^ mapElog m)
  let (ds, da) ← a2Fits s k f.b size (2 ^ mapElog m)
  if !e.valid || e.lid != sl.lid then done (s.setD f.d (CReg.word 1))
  else if !(decide (mapVfirst m ≤ sl.vcore) && decide (sl.vcore < mapVfirst m + mapN m)) then done (s.setD f.d (CReg.word 2))
  else if s.exchanging p sl.lid sl.vcore then done (s.setD f.d (CReg.word 3))
  else
    intervalCheck 0x330 1 s
    releaseWait s true
    let C := s.core core
    let mk (sp a : Nat) (w : Bool) : List RangeEntry :=
      if sp = 0 then [] else [⟨C.nextCmd, .copy, sp, a / 64 * 64, roundUp (a + size) 64, w⟩]
    let rs := mk ss sa false ++ mk ds da true
    if 32 < C.ranges.length + rs.length then .error (.stay s)
    else
      let n := Sparse.get 0 sl.a2ats i
      let part : ExPart :=
        { core := core, slot := s.slotNo k, srcSpace := ss, src := sa, dstSpace := ds, dst := da, clock := s.releaseClock k,
          mode := (s.ctx k).mode, interval := sl.interval, cmd := C.nextCmd, seq := Sparse.get 0 sl.engSeq 3 }
      let t := ((s.modCore core (fun c => { c with ranges := c.ranges ++ rs, nextCmd := c.nextCmd + 1 })).modSlot (s.slotKeyOf k)
        (fun l => { l with a2ats := l.a2ats.put i (n + 1), engSeq := l.engSeq.put 3 (part.seq + 1) })).bump k
      done ((t.modDrover p (fun d => { d with exchanges := joinExchange t i n sl.lid m sl.vcore part d.exchanges })).setD f.d (CReg.word 0))
def execA2at (f : Fields) (s : State) : Result := runScalar f (a2atBody f) s

/-! ### Streaming (R311) -/

/-- What happens before and after the accesses of an instance (R314). -/
def ExInst.clock (x : ExInst) : Sparse Nat := x.parts.foldl (fun acc e => joinClock acc e.2.clock) []

/-- The place of an element for a participant; the race check is recorded in the interval of its A2AT. -/
def exPlace (s : State) (x : ExInst) (v : Nat) (e : ExPart) (space a n : Nat) (st : Bool) : Except EStop (State × Nat) :=
  if space ≠ 0 then .ok (s, placeKey space e.core a)
  else
    match engTranslate s e.core .copy { slot := e.slot, lid := x.lid, vcore := v, mode := e.mode } a n st with
    | .error z => .error z
    | .ok (pa, i) =>
      let s := s.engCount e.core i
      if 2 ^ 51 ≤ pa && !(s.hostPortUp e.core) then .error (.host a)
      else if imgCHK i && decide (pa < 2 ^ 51) then
        let r : Racer :=
          { lid := x.lid, vcore := v, interval := e.interval, known := { clock := x.clock }, sync := false, turn := s.turn, lo := pa, len := n
            eng := some ⟨v, 3, e.seq, none⟩ }
        match s.raceRange (s.paddockOf e.core) r st (granulesOf pa n) with
        | .ok t => .ok (t, pa)
        | .fault b => .error (.fail 0x16 b)
        | _ => .error (.fail 0x1B a)
      else .ok (s, pa)

/-- One element is read and written: the state, or what stopped it, with the space. -/
def moveElement (x : ExInst) (v : Nat) (e : ExPart) (el j : Nat) (s : State) : Except (Nat × EStop) State :=
  let m := x.map.toNat
  let (q, at_) := mapElement m (v - mapVfirst m) j
  let w := mapVfirst m + q
  let d := Sparse.get default x.parts w
  match exPlace s x v e e.srcSpace ((e.src + j * el) % 2 ^ 56) el false with
  | .error z => .error (e.srcSpace, z)
  | .ok (s1, key) =>
    if s1.poison.any (fun b => overlaps (b * 8) 8 key el) then .error (e.srcSpace, .fail 0x18 (e.src + j * el))
    else
      match exPlace s1 x w d d.dstSpace ((d.dst + at_ * el) % 2 ^ 56) el true with
      | .error z => .error (d.dstSpace, z)
      | .ok (s2, key2) => .ok (s2.storeBytes key2 (s1.bytesAt key el))

/-- The elements of a block in ascending order. -/
def moveElements (x : ExInst) (v : Nat) (e : ExPart) (el : Nat) : List Nat → State → Except (Nat × EStop) State
  | [], s => .ok s
  | j :: js, s =>
    match moveElement x v e el j s with
    | .error z => .error z
    | .ok t => moveElements x v e el js t

/-- An instance replaced. -/
def State.putExchange (s : State) (p : Nat) (x y : ExInst) : State :=
  s.modDrover p (fun d => { d with exchanges := d.exchanges.map (fun z => if z = x then y else z) })

/-- The instance of an entry that has started, and that a participant belongs to. -/
def State.exchangeOf (s : State) (p entry v : Nat) : Option ExInst :=
  (s.drover p).exchanges.find? (fun x => x.started && x.entry == entry && x.parts.any (fun e => e.1 == v))

/-- The copy engine of a participant is frozen (R387). -/
def State.exFrozen (s : State) (e : ExPart) : Bool := (s.core e.core).copy.frozen

/-- R163, R313, R387: no participant's ranges wait for an older command, no participant is being stopped or is suspended, and no copy
engine of one is frozen. -/
def State.exchangeRuns (s : State) (x : ExInst) : Bool :=
  !(s.gang x.lid).suspended && x.parts.all (fun e => !(s.exFrozen e.2) && (s.core e.2.core).rangesClear e.2.cmd .copy && !(s.halting (slotKey e.2.core e.2.slot)))

/-- R311: the next block of a participant's source. -/
def exchangeBlockStep (ctx entry part : Nat) (s : State) : State :=
  match s.exchangeOf ctx entry part with
  | some x =>
    let m := x.map.toNat
    let e := Sparse.get default x.parts part
    let el := 2 ^ mapElog m
    let n := min 65536 (mapSize m - e.read)
    if x.status ≠ 0 || n = 0 || !(s.exchangeRuns x) then s
    else
      let js := (List.range (n / el)).map (fun i => e.read / el + i)
      match moveElements x part e el js s with
      | .error (_, .miss t) => s.keepMisses t
      | .error (_, .host _) => s
      | .error (sp, .fail st a) => s.putExchange ctx x { x with status := if st = 0x17 then 0x14 else st, detail := sp * 2 ^ 60 + a % 2 ^ 56 }
      | .error (sp, .freeze a) =>
        (s.freezeEngine e.core .copy { slot := e.slot, lid := x.lid, vcore := part } a).putExchange ctx x { x with status := 0x14, detail := sp * 2 ^ 60 + a % 2 ^ 56 }
      | .ok t =>
        let dests := js.map (fun j => mapVfirst m + (mapElement m (part - mapVfirst m) j).1)
        let parts := x.parts.map (fun p =>
          (p.1, { p.2 with written := p.2.written + el * dests.count p.1, read := if p.1 = part then p.2.read + n else p.2.read }))
        let cores := (x.parts.map (fun p => p.2.core)).dedup
        (cores.foldl (fun (u : State) c => u.dropEngMisses c .copy) t).putExchange ctx x { x with parts := parts }
  | none => s
def execExchangeBlock (ctx entry part : Nat) (s : State) : Result := .next (exchangeBlockStep ctx entry part s)

/-! ### Delivery and ends (R312, R313) -/

/-- The inbox entry of a participant. -/
def ExInst.entryOf (x : ExInst) (status : Nat) (e : ExPart) : BitVec 128 :=
  inboxEntry (x.entry + x.number % 2 ^ 12 * 2 ^ 4) 4 status e.written x.detail

/-- R312: a participant's entry, when its source has been read and its destination written, or when the instance has ended. -/
def exchangeDeliveryStep (ctx entry part : Nat) (s : State) : State :=
  match s.exchangeOf ctx entry part with
  | some x =>
    let e := Sparse.get default x.parts part
    let size := mapSize x.map.toNat
    let whole := e.read == size && e.written == size
    match s.homeOf x.lid part with
    | some key =>
      if e.delivered || s.exFrozen e || !(whole || x.status != 0) || !(s.slot key).inboxRoom then s
      else
        let st := x.status
        let v := x.entryOf st e
        let z := { x with parts := x.parts.put part { e with delivered := true } }
        let ended := z.parts.all (fun p => p.2.delivered)
        let t := ((s.releaseRanges e.core e.cmd .copy false).putInbox key
          { val := v, clock := x.parts.foldl (fun c y => joinClock c [(cmdKey x.lid y.1 3 y.2.seq, 1)]) x.clock }).modSlot key
          (fun l => if 0x10 ≤ st then l.withTrap ENGINE_FAULT (v.toNat % 2 ^ 64) else l)
        if ended then t.modDrover ctx (fun d => { d with exchanges := d.exchanges.filter (fun w => w != x) }) else t.putExchange ctx x z
    | none => s
  | none => s
def execExchangeDelivery (ctx entry part : Nat) (s : State) : Result := .next (exchangeDeliveryStep ctx entry part s)

/-- R313: a hard cycle deadline meets a participant. An arrival that is withdrawn leaves its entry among the completions of its core's copy
engine, from where it enters the inbox; that of a vcore which is in no slot waits with it until it is in one again (R276). -/
def State.exchangeDeadline (s : State) (p lid v : Nat) : State :=
  (s.drover p).exchanges.foldl (fun (s : State) x =>
    if x.lid ≠ lid || !(x.parts.any (fun e => e.1 == v)) then s
    else if x.started then (if x.status = 0 then s.putExchange p x { x with status := 0x05 } else s)
    else
      let e := Sparse.get default x.parts v
      let c : Cmd := { id := e.cmd, slot := e.slot, lid := lid, vcore := v, mode := e.mode, issuer := e.core }
      let t := s.putExchange p x { x with parts := Sparse.drop x.parts v }
      match s.homeOf lid v with
      | some _ => t.modEngine e.core .copy (fun y => { y with done := y.done ++ [{ cmd := c, entry := x.entryOf 0x04 e }] })
      | none =>
        (t.releaseRanges e.core e.cmd .copy false).modVcore lid v (fun l => { l with held := l.held ++ [⟨{ val := x.entryOf 0x04 e }, []⟩] })) s

/-- R313, R368: a vcore that goes on at another core takes its part of its instances with it: the buffers, the TLB and the range
scoreboard are those of the core where it is. -/
def State.moveExchanges (s : State) (lid v key : Nat) : State :=
  let core := key / 16
  let p := s.paddockOf core
  (s.drover p).exchanges.foldl (fun (s : State) x =>
    let e := Sparse.get default x.parts v
    if x.lid ≠ lid || !(x.parts.any (fun y => y.1 == v)) || e.delivered || e.core = core then s
    else
      let id := (s.core core).nextCmd
      let rs := (s.core e.core).ranges.filter (fun r => r.cmd == e.cmd && r.engine == .copy)
      let s1 := (s.releaseRanges e.core e.cmd .copy false).modCore core (fun C =>
        { C with nextCmd := id + 1, ranges := C.ranges ++ rs.map (fun r => { r with cmd := id }) })
      s1.putExchange p x { x with parts := x.parts.put v { e with core := core, slot := key % 16, cmd := id } }) s

/-- R304, R313: a launch is over: its maps are invalid, and its instances are discarded. -/
def State.exchangesOver (s : State) (p lid : Nat) : State :=
  let gone := (s.drover p).exchanges.filter (fun x => x.lid == lid)
  let s1 := gone.foldl (fun (s : State) x => x.parts.foldl (fun (s : State) e => s.releaseRanges e.2.core e.2.cmd .copy false) s) s
  s1.modDrover p (fun d =>
    { d with exchanges := d.exchanges.filter (fun x => x.lid != lid), maps := d.maps.filter (fun e => e.2.lid != lid) })

end Sys2Proof.Machine
end

