-- ==== Sys2Proof/Machine/Cycle.lean ====
section
/-!
DEFINITION. The relaxation cycle (R267 to R279, R404) and the weight update (R282, R283).
-/

namespace Sys2Proof.Machine

/-! ### Cycle contexts and descriptors (R267, R268) -/

def State.cycle (s : State) (p cy : Nat) : Cycle := Sparse.get {} s.cycles (p * 8 + cy)
def State.setCycle (s : State) (p cy : Nat) (c : Cycle) : State := { s with cycles := s.cycles.put (p * 8 + cy) c }

def cyVfirst (d : BitVec 512) : Nat := fld (dw d 0) 36 12
def cyVcm1 (d : BitVec 512) : Nat := fld (dw d 0) 48 12
def cyShift (d : BitVec 512) : Nat := fld (dw d 0) 16 8
def cyLimit (d : BitVec 512) : Nat := fld (dw d 0) 8 8
def cyHard (d : BitVec 512) : Bool := bitAt (dw d 0) 6
def cyWarm (d : BitVec 512) : Bool := bitAt (dw d 0) 5
def cyForce (d : BitVec 512) : Bool := bitAt (dw d 0) 4
def cyFwd (d : BitVec 512) : Nat := fld (dw d 0) 1 3
def cyDir (d : BitVec 512) : Bool := bitAt (dw d 0) 0
def cyTol (d : BitVec 512) : Nat := fld (dw d 1) 0 32
def cyDivf (d : BitVec 512) : Nat := fld (dw d 1) 32 32
def cyDeadline (d : BitVec 512) : Nat := dw d 2
def cySmask (d : BitVec 512) : Nat := dw d 3
def cyWmask (d : BitVec 512) : Nat := dw d 4
def cyExit (d : BitVec 512) : Nat := fld (dw d 5) 0 32

/-- The participants that a descriptor names, in ascending order. -/
def cyParts (d : BitVec 512) : List Nat := (List.range (cyVcm1 d + 1)).map (fun i => cyVfirst d + i)

/-- Open, in the sense of R267. -/
def Cycle.isOpen (c : Cycle) : Bool := c.phase == 2 || c.phase == 3
/-- A vcore of a launch is a participant of an open context. -/
def Cycle.lists (c : Cycle) (lid vcore : Nat) : Bool := c.isOpen && c.lid == lid && (cyParts c.desc).contains vcore

/-- R269, but for the reserved fields. -/
def cyFields (g : Gang) (cy : Nat) (d : BitVec 512) : Bool :=
  decide (1 ≤ cyLimit d) && decide (cyVfirst d + cyVcm1 d < g.vcores) &&
    expOf 23 (cyTol d) != 255 && (fCompare 23 5 (cyTol d) 0).1 &&
    (cyDivf d == 0 || (expOf 23 (cyDivf d) != 255 && (fCompare 23 5 (cyDivf d) 0x3F800000).1)) &&
    (if cyDir d then cyFwd d != cy else cyFwd d == 0 && !(cyForce d)) &&
    (if cyHard d then decide (cyExit d < g.prog.textN) else cyExit d == 0) && (cySmask d &&& cyWmask d) == 0

/-- R269. (DEDUCED, log 34.) -/
def cyWf (g : Gang) (cy : Nat) (d : BitVec 512) : Bool :=
  fld (dw d 0) 60 4 == 0 && fld (dw d 0) 24 12 == 0 && fld (dw d 0) 7 1 == 0 && fld (dw d 5) 32 32 == 0 && dw d 6 == 0 && dw d 7 == 0 &&
    cyFields g cy d

/-! ### Arrivals, answers and ends -/

/-- Every vcore of a list departs from a collective of the context with an answer. -/
def State.answerAll (s : State) (lid : Nat) (vs : List Nat) (op which a : Nat) (clock : Sparse Nat) : State :=
  vs.foldl (fun (s : State) v => s.answer lid v op which 0 a clock) s

/-- An arrival of context `k` at a cycle context: a release, joined to what the others released. -/
def State.arriveCycle (s : State) (k p cy op : Nat) (g : Cycle → Cycle) : State :=
  let c := s.cycle p cy
  let rel := s.releaseClock k
  ((s.setCycle p cy (g { c with clock := joinClock c.clock rel })).bump k).pend k op cy 0

/-- A context becomes Free and keeps its previous record (R272). -/
def State.freeCycle (s : State) (p cy : Nat) (prev : Option CyclePrev) : State := s.setCycle p cy { prev := prev }

/-- An open context ends with a status, its PBANK unchanged; waiting CYSTEPs depart with guard 0 (R272). -/
def State.endCycle (s : State) (p cy status : Nat) : State :=
  let c := s.cycle p cy
  (s.setCycle p cy { c with phase := 3, status := status, arrived := [], clock := [] }).answerAll c.lid c.arrived 3 cy 0 []

/-! ### Opening (R270, R271) -/

/-- A tensor identifier's entry in a vcore's table. -/
def State.tensorEntry (s : State) (lid v idx : Nat) : BitVec 256 := Sparse.get 0 (s.vcoreSlot lid v).tensors idx

/-- Every participant and identifier of a mask. -/
def cyIds (d : BitVec 512) (mask : Nat) : List (Nat × Nat) :=
  (cyParts d).flatMap (fun v => ((List.range 64).filter (bitAt mask)).map (fun i => (v, i)))

/-- R270 CY_TID. -/
def State.cycleTids (s : State) (lid : Nat) (d : BitVec 512) : Bool :=
  (cyIds d (cySmask d)).all (fun x => let t := tensorOf (s.tensorEntry lid x.1 x.2); t.kind != 0 && t.state) &&
    (cyIds d (cyWmask d)).all (fun x => let t := tensorOf (s.tensorEntry lid x.1 x.2); t.kind != 0 && t.weight)

/-- R279. -/
def State.cycleForward (s : State) (p lid : Nat) (d : BitVec 512) : Bool :=
  let f := s.cycle p (cyFwd d)
  !(cyDir d) ||
    (f.phase == 3 && f.lid == lid && cyVfirst f.desc == cyVfirst d && cyVcm1 f.desc == cyVcm1 d &&
      (f.status == 1 || f.status == 2 || f.status == 3 || (cyForce d && (f.status == 4 || f.status == 5))))

/-- The ranges that one identifier of a participant locks: its elements, with both banks of a state tensor, and its scale
vector (R270). -/
def tensorLocks (weight : Bool) (vcore core : Nat) (t : Tensor) : List CycleLock :=
  let mk (space a n : Nat) : CycleLock := ⟨weight, vcore, space, core, regionKey space core a, regionKey space core a + n⟩
  mk t.space t.base t.span :: (if t.sfmt = 0 then [] else [mk t.sspace t.scale t.scaleSpan])

def State.cycleLocks (s : State) (lid : Nat) (d : BitVec 512) : List CycleLock :=
  let of (weight : Bool) (x : Nat × Nat) : List CycleLock :=
    tensorLocks weight x.1 (s.placeOf lid x.1).1 (tensorOf (s.tensorEntry lid x.1 x.2))
  (cyIds d (cySmask d)).flatMap (of false) ++ (cyIds d (cyWmask d)).flatMap (of true)

/-- The locks that the paddock's open contexts hold. (DEDUCED, log 37.) -/
def State.heldLocks (s : State) (p : Nat) : List CycleLock :=
  (List.range 8).flatMap (fun i => if (s.cycle p i).isOpen then (s.cycle p i).locks else [])

/-- R270 CY_LOCKED. -/
def locksClash (mine held : List CycleLock) : Bool :=
  mine.any (fun m => held.any (fun h => !(m.weight && h.weight) && decide (m.lo < h.hi) && decide (h.lo < m.hi)))

/-- What the controller's copying comes to: a value; `none` where it cannot be made; or a state, with a miss noted, in which it waits
for a translation (R183). -/
abbrev Warm (α : Type) := Except (Option State) α

/-- The place of a line of a participant's tensor or scale vector, as the cycle controller reaches it (R271). -/
def State.cyclePlace (s : State) (p key mode space a : Nat) (st : Bool) : Warm Nat :=
  let core := key / 16
  let through (i : Nat) : Warm Nat := if imgAdmits i mode (if st then .store else .load) then .ok (imgMap i a) else .error none
  if space = 0 then
    match tlbFind (s.core core) a, s.walk p a with
    | some (_, i), _ => through i
    | none, some i => through i
    | none, none =>
      match (s.core core).misses.find? (fun m => m.ctx.isNone && m.engine.isNone && m.va == a) with
      | some m => if m.fail = 0 then .error (some s) else .error none
      | none =>
        .error (some (s.modCore core (fun C =>
          { C with misses := C.misses ++ [{ ctx := none, slot := key % 16, va := a, kind := if st then 1 else 0 }] })))
  else if space = 5 then .ok (placeKey 1 (fld a 44 12) (fld a 0 44))
  else .ok (placeKey space core a)

/-- The places of a range, line by line; one that holds an uncorrectable error cannot be read. -/
def State.cyclePlaces (s : State) (p key mode space a n : Nat) (st : Bool) : Warm (List (Nat × Nat)) :=
  (linePieces a n).mapM (fun x => do
    let k ← s.cyclePlace p key mode space x.1 st
    if !st && s.poison.any (fun w => overlaps (w * 8) 8 k x.2) then .error none else .ok (k, x.2))

/-- Bytes written at places in turn. -/
def putPieces : List (Nat × Nat) → List Byte → State → State
  | [], _, s => s
  | (k, n) :: ps, bs, s => putPieces ps (bs.drop n) (s.storeBytes k (bs.take n))

/-- One end of a copy of the warm start: a participant's slot and mode, and a space. -/
structure WarmEnd where
  key : Nat
  mode : Nat
  space : Nat

/-- Pieces of the warm start, each from one address to another, whole or not at all. -/
def warmPieces (p : Nat) (x y : WarmEnd) : List (Nat × Nat × Nat) → State → Warm State
  | [], s => .ok s
  | (a, b, n) :: ps, s => do
    let src ← s.cyclePlaces p x.key x.mode x.space a n false
    let dst ← s.cyclePlaces p y.key y.mode y.space b n true
    warmPieces p x y ps (putPieces dst (src.flatMap (fun q => s.bytesAt q.1 q.2)) s)

/-- From one bank to another of a tensor of the same shape: whole where both lie alike, else row by row. -/
def tensorPieces (a b : Tensor) (bank : Nat) : List (Nat × Nat × Nat) :=
  if a.rstride = b.rstride ∧ a.pstride = b.pstride then [(a.bankBase bank, b.bankBase 0, a.extent)]
  else
    (List.range (if a.planes then a.p else 1)).flatMap (fun q => (List.range a.rows).map (fun r =>
      (a.bankBase bank + q * a.pstride + r * a.rstride, b.bankBase 0 + q * b.pstride + r * b.rstride,
        if a.planes then planeRowBytes a.cols else a.rowBytes)))

/-- The copies of one participant and identifier: the elements, and the scales (R271). -/
def State.warmTensor (s : State) (p lid : Nat) (src dst bank : Nat) (a b : Tensor) : Warm State := do
  let at_ (v space : Nat) : WarmEnd :=
    let pl := s.placeOf lid v
    ⟨slotKey pl.1 pl.2, (s.ctx (hartKey pl.1 pl.2)).mode, space⟩
  let t ← warmPieces p (at_ src a.space) (at_ dst b.space) (tensorPieces a b bank) s
  if a.sfmt = 0 || b.sfmt = 0 then .ok t
  else warmPieces p (at_ src a.sspace) (at_ dst b.sspace) [(a.scaleBase bank, b.scaleBase 0, min a.scaleLen b.scaleLen)] t

/-- An entry of the previous record. -/
def CyclePrev.entry (r : CyclePrev) (v idx : Nat) : Tensor :=
  tensorOf (((r.entries.find? (fun e => e.1 == v && e.2.1 == idx)).map (fun e => e.2.2)).getD 0)

/-- R271: the previous record serves the opening: the same launch, participants and state set, and one shape for each identifier
in every participant. -/
def State.warmFits (s : State) (lid : Nat) (d : BitVec 512) (r : CyclePrev) : Bool :=
  let shape (t : Tensor) : Nat × Nat × Nat × Nat := (t.rows, t.cols, t.kind, t.p)
  r.lid == lid && r.vfirst == cyVfirst d && r.vcm1 == cyVcm1 d && r.smask == cySmask d &&
    (cyIds d (cySmask d)).all (fun x =>
      shape (tensorOf (s.tensorEntry lid x.1 x.2)) == shape (r.entry x.1 x.2) &&
        shape (r.entry x.1 x.2) == shape (r.entry (cyVfirst d) x.2))

/-- The copies of the warm start, in order, up to the first that cannot be made: the state, and whether all were made; or the state in
which they wait. -/
def warmCopies (p lid : Nat) (d : BitVec 512) (r : CyclePrev) : List (Nat × Nat) → State → Except State (State × Bool)
  | [], s => .ok (s, true)
  | (v, i) :: xs, s =>
    let src := min (v + cyShift d) (cyVfirst d + cyVcm1 d)
    match s.warmTensor p lid src v r.bank (r.entry src i) (tensorOf (s.tensorEntry lid v i)) with
    | .error none => .ok (s, false)
    | .error (some w) => .error w
    | .ok t => warmCopies p lid d r xs t

/-- The warm start: the state, and whether R271 is met. (DEDUCED, log 36.) -/
def State.warmStart (s : State) (p lid : Nat) (d : BitVec 512) (prev : Option CyclePrev) : Except State (State × Bool) :=
  if !(cyWarm d) then .ok (s, true)
  else
    match prev with
    | none => .ok (s, false)
    | some r => if s.warmFits lid d r then warmCopies p lid d r (cyIds d (cySmask d)) s else .ok (s, false)

/-- The misses that the controller noted for the participants are forgotten. -/
def State.dropWarmMisses (s : State) (lid : Nat) (d : BitVec 512) : State :=
  (cyParts d).foldl (fun (s : State) v =>
    let core := (s.placeOf lid v).1
    if (s.core core).misses.isEmpty then s
    else s.modCore core (fun C => { C with misses := C.misses.filter (fun m => m.ctx.isSome || m.engine.isSome) })) s

/-- R270: the checks that come before the warm start, in the order of the table. (DEDUCED, log 35.) -/
def State.openChecks (s : State) (p : Nat) (c : Cycle) (locks : List CycleLock) : Nat :=
  if c.descs.any (fun x => x.2 != c.desc) then 3
  else if !(s.cycleTids c.lid c.desc) then 9
  else if !(s.cycleForward p c.lid c.desc) then 4
  else if locksClash locks (s.heldLocks p) then 6
  else if 1024 < (s.heldLocks p).length + locks.length then 5
  else 0

/-- An opening fails: every participant that has arrived departs with a status, and the context becomes Free. -/
def State.openFails (s : State) (p cy status : Nat) : State :=
  let c := s.cycle p cy
  (s.freeCycle p cy c.prev).answerAll c.lid c.arrived 2 cy status c.clock

/-- The last participant has arrived: the opening succeeds or fails (R270, R272). It is one action, taken when every translation that it
needs has come; until then the context stays Opening. -/
def State.openCycle (s : State) (p cy : Nat) : State :=
  let c := s.cycle p cy
  let locks := s.cycleLocks c.lid c.desc
  let st := s.openChecks p c locks
  if st ≠ 0 then s.openFails p cy st
  else
    match s.warmStart p c.lid c.desc c.prev with
    | .error w => s.keepMisses w
    | .ok (t, false) => (t.dropWarmMisses c.lid c.desc).openFails p cy 7
    | .ok (t, true) =>
      let t := t.dropWarmMisses c.lid c.desc
      let late := cyDeadline c.desc != 0 && decide (cyDeadline c.desc ≤ s.time)
      let entries := (cyIds c.desc (cySmask c.desc)).map (fun x => (x.1, x.2, s.tensorEntry c.lid x.1 x.2))
      (t.setCycle p cy
        { c with phase := if late then 3 else 2, status := if late then 3 else 0, arrived := [], descs := [], entries := entries,
                 closing := [], gone := [], partials := [], resid := 0, iter := 0, pbank := 0, published := false, locks := locks,
                 clock := [] }).answerAll c.lid c.arrived 2 cy 0 c.clock

/-- The descriptor arrives: a status at once, or an arrival, the last of which opens the context (R270, R404). -/
def State.offerOpen (s : State) (k p cy : Nat) (d : BitVec 512) : State × Option Nat :=
  let sl := s.slotOf k
  let c := s.cycle p cy
  let other := c.phase == 1 && !(c.lid == sl.lid && cyVfirst c.desc == cyVfirst d && cyVcm1 c.desc == cyVcm1 d)
  if c.isOpen || other then (s, some 1)
  else if !((cyParts d).contains sl.vcore) then (s, some 8)
  else if !(cyWf (s.gang sl.lid) cy d) then (s, some 2)
  else
    let t := s.arriveCycle k p cy 2 (fun c =>
      { c with phase := 1, lid := sl.lid, desc := if c.phase = 0 then d else c.desc, arrived := c.arrived ++ [sl.vcore],
               descs := c.descs ++ [(sl.vcore, d)] })
    let c1 := t.cycle p cy
    if (cyParts d).any (fun v => (s.gang sl.lid).retired.contains v) then (t.openFails p cy 11, none)
    else if (cyParts d).all (fun v => c1.arrived.contains v) then (t.openCycle p cy, none)
    else (t, none)

/-- An opening that waits for a translation is tried again. -/
def State.retryOpen (s : State) (p cy : Nat) : State :=
  let c := s.cycle p cy
  if c.phase = 1 && (cyParts c.desc).all (fun v => c.arrived.contains v) then s.openCycle p cy else s

/-- R268, R270 CYOPEN. An uncorrectable error in the descriptor traps after the effect, at the departure (R160, R346). (DEDUCED, log 39.) -/
def cyopenBody (f : Fields) (s : State) : Exec Out :=
  let k := s.cur
  let p := s.paddockOf (coreOf k)
  let cy := f.mod 0 3
  collective 2 cy (fun s => do
    intervalCheck 0x290 2 s
    let rq : Req := { op := 0x290, field := 2, opnd := f.a, n := 64, al := 64, ld := true, st := false, spaces := [0, 1] }
    let (s1, l) ← memAccess s k rq (s.capOpnd f.a) (offsetOf f) false false
    releaseWait s true
    let o := loadEnd (s1.noteAccess k l 0) l 64
    let (t, now) := o.s.offerOpen k p cy (BitVec.ofNat 512 (s.read l.key 64))
    .ok ({ o with s := t }, now)) (fun a t => t.setD f.d (CReg.word a)) (if (s.slotOf k).coll.any (fun c => c.op == 2 && c.which == cy) then s.retryOpen p cy else s)
def execCyopen (f : Fields) (s : State) : Result := runScalar f (cyopenBody f) s

/-! ### CYRES, CYSTEP, CYSTAT (R273, R274, R277) -/

/-- R267: PERM unless the issuer is a participant of the open context. -/
def needPart (op : Nat) (s : State) (k p cy : Nat) : Exec Unit :=
  need ((s.cycle p cy).lists (s.slotOf k).lid (s.slotOf k).vcore) PERM (Config.freeTval op cy)

/-- R273 CYRES. -/
def cyresBody (f : Fields) (s : State) : Exec Out := do
  let k := s.cur
  let p := s.paddockOf (coreOf k)
  let cy := f.mod 0 3
  let a ← s.dataOpnd 0x291 2 f.a
  needPart 0x291 s k p cy
  let c := s.cycle p cy
  let v := (s.slotOf k).vcore
  if c.phase ≠ 2 then done s
  else
    let r := fAdd 23 0 (Sparse.get 0 c.partials v).toNat (fld a 0 32)
    done ((s.setCycle p cy { c with partials := c.partials.put v (BitVec.ofNat 32 r.1) }).modCtx k (fun x => x.orFlags r.2))
def execCyres (f : Fields) (s : State) : Result := runScalar f (cyresBody f) s

/-- R274: `F32Val(r) > F32Val(f) × F32Val(prev)`, exactly, for finite values that are not negative. -/
def exceedsTimes (r f prev : Nat) : Bool :=
  match fval 23 r, (FVal.mul (fval 23 f) (fval 23 prev)).1 with
  | .fin _ m e, .fin _ m' e' => !(finLe m e m' e')
  | _, _ => false

/-- R274: the status of an iteration from the partials, their sum, the previous residual, the count and TIME. -/
def stepStatus (d : BitVec 512) (parts : List Nat) (r prev iter time : Nat) : Nat :=
  if (r :: parts).any (fun x => expOf 23 x == 255) then 5
  else if (fCompare 23 3 r (cyTol d)).1 then 1
  else if cyDivf d ≠ 0 && decide (2 ≤ iter) && exceedsTimes r (cyDivf d) prev then 4
  else if iter = cyLimit d then 2
  else if cyDeadline d ≠ 0 && decide (cyDeadline d ≤ time) then 3
  else 0

/-- R274: the procedure of the last participant's CYSTEP. -/
def State.stepCycle (s : State) (p cy : Nat) : State :=
  let c := s.cycle p cy
  let parts := (cyParts c.desc).map (fun v => (Sparse.get 0 c.partials v).toNat)
  let r := seqSumF32 parts
  let iter := c.iter + 1
  let st := stepStatus c.desc parts r c.resid.toNat iter s.time
  let pub := st != 5 && st != 4
  (s.setCycle p cy
    { c with phase := if st = 0 then 2 else 3, status := st, resid := BitVec.ofNat 32 r, iter := iter, partials := [], arrived := [],
             clock := [], pbank := if pub then 1 - c.pbank else c.pbank, published := c.published || pub }).answerAll
    c.lid c.arrived 3 cy (if st = 0 then 1 else 0) c.clock

/-- R274 CYSTEP. -/
def cystepBody (f : Fields) (s : State) : Exec Out :=
  let k := s.cur
  let p := s.paddockOf (coreOf k)
  let cy := f.mod 0 3
  collective 3 cy (fun s => do
    needPart 0x292 s k p cy
    if (s.cycle p cy).phase = 3 then .ok ({ s := s }, some 0)
    else
      intervalCheck 0x292 2 s
      releaseWait s true
      let t := s.arriveCycle k p cy 3 (fun c => { c with arrived := c.arrived ++ [(s.slotOf k).vcore], lastArrival := s.time })
      let c := t.cycle p cy
      .ok ({ s := if (cyParts c.desc).all (fun v => c.arrived.contains v) then t.stepCycle p cy else t }, none))
    (fun a t => t.setGuardD f.d (guardOf (a == 1))) s
def execCystep (f : Fields) (s : State) : Result := runScalar f (cystepBody f) s

/-- R277: the word of a context. -/
def Cycle.stat (c : Cycle) : Nat :=
  if c.isOpen then
    c.resid.toNat * 2 ^ 32 + c.iter % 2 ^ 8 * 2 ^ 24 + cyFwd c.desc * 2 ^ 17 + (if cyDir c.desc then 2 ^ 16 else 0) +
      (if c.phase == 3 && !c.published then 2 ^ 9 else 0) + c.pbank % 2 * 2 ^ 8 + c.status % 8
  else 8

/-- R277 CYSTAT. -/
def cystatBody (f : Fields) (s : State) : Exec Out :=
  done (s.setD f.d (CReg.word (s.cycle (s.paddockOf (coreOf s.cur)) (f.mod 0 3)).stat))
def execCystat (f : Fields) (s : State) : Result := runScalar f (cystatBody f) s

/-! ### Closing (R278, R404) -/

/-- When every participant has arrived or retired, the context closes (R278). -/
def State.maybeClose (s : State) (p cy : Nat) : State :=
  let c := s.cycle p cy
  if (cyParts c.desc).all (fun v => c.closing.contains v || c.gone.contains v) then
    let prev : CyclePrev :=
      { lid := c.lid, vfirst := cyVfirst c.desc, vcm1 := cyVcm1 c.desc, smask := cySmask c.desc, bank := c.pbank, entries := c.entries }
    (s.freeCycle p cy (some prev)).answerAll c.lid c.closing 4 cy 0 c.clock
  else s

/-- An open backward context names this one (R278, R279). -/
def State.namedByBackward (s : State) (p cy : Nat) : Bool :=
  (List.range 8).any (fun i => (s.cycle p i).isOpen && cyDir (s.cycle p i).desc && cyFwd (s.cycle p i).desc == cy)

/-- R278 CYCLOSE. (DEDUCED, log 31.) -/
def cycloseBody (f : Fields) (s : State) : Exec Out :=
  let k := s.cur
  let p := s.paddockOf (coreOf k)
  let cy := f.mod 0 3
  collective 4 cy (fun s => do
    if !(s.cycle p cy).isOpen then .ok ({ s := s }, some 10)
    else
      needPart 0x294 s k p cy
      if s.namedByBackward p cy then .ok ({ s := s }, some 1)
      else
        intervalCheck 0x294 2 s
        releaseWait s true
        let s1 := if (s.cycle p cy).phase = 2 then s.endCycle p cy 6 else s
        let s2 := s1.arriveCycle k p cy 4 (fun c => { c with closing := c.closing ++ [(s.slotOf k).vcore] })
        .ok ({ s := s2.maybeClose p cy }, none)) (fun a t => t.setD f.d (CReg.word a)) s
def execCyclose (f : Fields) (s : State) : Result := runScalar f (cycloseBody f) s

/-- R404: a participant has retired while its gang goes on. (DEDUCED, log 38.) -/
def State.cycleGone (s : State) (p lid v : Nat) : State :=
  (List.range 8).foldl (fun (s : State) cy =>
    let c := s.cycle p cy
    if c.phase = 0 || c.lid ≠ lid || !((cyParts c.desc).contains v) then s
    else if c.phase = 1 then s.openFails p cy 11
    else
      let t := if c.phase = 2 then s.endCycle p cy 6 else s
      (t.setCycle p cy { t.cycle p cy with gone := (t.cycle p cy).gone ++ [v] }).maybeClose p cy) s

/-- R272, R388: the gang has retired, or the launch is aborted: its contexts that are not Free become Free with ABORTED recorded, without
locks and without previous records. -/
def State.cyclesOver (s : State) (lid : Nat) : State :=
  { s with cycles := s.cycles.map (fun e => (e.1, if e.2.phase != 0 && e.2.lid == lid then { status := 6 } else e.2)) }

/-! ### The hard deadline (R276) -/

/-- What the Crook does to the context of a participant: its wait is abandoned, and it goes on at an address of the text. -/
def Ctx.sentTo (c : Ctx) (pc lo hi : Nat) : Ctx :=
  { c with pc := BitVec.ofNat 56 pc, regBase := BitVec.ofNat 56 lo, regLimit := BitVec.ofNat 57 hi, rep := none,
           repst := setField64 c.repst 63 1 0, hold := 0, yielding := [], blocked := none, waitFrom := none, yielded := false }

/-- The deadline meets a live participant that is not frozen: its commands end, and it goes on at EXIT, a slot that is swapped out once it
is resident again (R276). -/
def State.exitLive (s : State) (key pc : Nat) : State :=
  let core := key / 16
  let slot := key % 16
  let pr := (s.slot key).prog
  let s1 := [Engine.copy, .matrix, .quant].foldl (fun (s : State) e => s.cancelUnstarted core slot e) (s.modSlot key (fun l => { l with coll := none }))
  let s2 := s1.haltRunning core slot
  if (s.slot key).resident then
    ((s2.dropMisses (hartOfSlot key)).modSlot key (fun l => { l with exitAt := none })).modCtx (hartOfSlot key) (fun c =>
      c.sentTo pc pr.text (pr.text + 12 * pr.textN))
  else s2.modSlot key (fun l => { l with exitAt := some pc })

/-- A participant at the deadline: a slot, or what the part keeps of a suspended or swapped vcore (R276, R313). A frozen one keeps its state,
and the deadline meets it when it is thawed (R387). (DEDUCED, log 40.) -/
def State.sendExit (s0 : State) (p lid v pc : Nat) : State :=
  let s := s0.exchangeDeadline p lid v
  match s.seatOf lid v with
  | some key =>
    if (s.ctx (hartOfSlot key)).frozen then s.modSlot key (fun l => { l with exitAt := some pc })
    else if (s.slot key).live then s.exitLive key pc
    else s.modSlot key (fun l => { l with coll := none, exitAt := some pc })
  | none => s.modVcore lid v (fun l => { l with coll := none, exitAt := some pc })

/-- R276: TIME has reached a hard deadline of an open context. -/
def cycleHardDeadlineStep (ctx cycle : Nat) (s : State) : State :=
  let c := s.cycle ctx cycle
  if c.phase = 2 && cyHard c.desc && cyDeadline c.desc != 0 && decide (cyDeadline c.desc ≤ s.time) then
    let g := s.gang c.lid
    let t := s.setCycle ctx cycle { c with phase := 3, status := 3, arrived := [], clock := [] }
    (cyParts c.desc).foldl (fun (t : State) v =>
      if g.retired.contains v then t else t.sendExit ctx c.lid v (g.prog.text + 12 * cyExit c.desc)) t
  else s
def execCycleHardDeadline (ctx cycle : Nat) (s : State) : Result := .next (cycleHardDeadlineStep ctx cycle s)

/-! ### WUPD (R282, R283) -/

/-- The place of a piece of a row as a store of the issuing context. -/
def wupdPlace (k space : Nat) (s : State) (a n : Nat) : Exec (State × Loc) := do
  let core := coreOf k
  if space = 0 then
    let (pa, i) ← s.translate k a .store
    if s.crosses core pa n then .error (.fin (s.violates k a))
    else
      let l : Loc := { key := pa, space := 0, core := core, addr := pa, va := a, chk := imgCHK i && decide (pa < 2 ^ 51), cnt := imgCNT i,
                       page := imgVA i + imgSize i }
      let t ← s.raceCheck k { op := 0x2A0, field := 1, opnd := .c 0, n := n, al := 1, ld := false, st := true } l n true
      .ok (t, l)
  else if s.bufferWaits k space core a n true then .error (.stay s)
  else .ok (s, { key := placeKey space core a, space := space, core := core, addr := a, va := a })

/-- The places of every piece of a row, in ascending order; a wait or a fault keeps nothing of the pieces before it. -/
def wupdPlaces (k space : Nat) (s : State) : List (Nat × Nat) → State → Exec (State × List (Loc × Nat))
  | [], t => .ok (t, [])
  | (a, n) :: xs, t =>
    match wupdPlace k space t a n with
    | .error (.trap c v) => .error (.trap c v)
    | .error _ =>
      match wupdPlace k space s a n with
      | .error e => .error e
      | .ok _ => .error (.stay s)
    | .ok (t1, l) => do
      let (t2, ls) ← wupdPlaces k space s xs t1
      .ok (t2, (l, n) :: ls)

/-- The pieces of a row written. -/
def putRow : List (Loc × Nat) → List Byte → State → State
  | [], _, s => s
  | (l, n) :: ps, bs, s => putRow ps (bs.drop n) ((s.noteAccess s.cur l 1).storeBytes l.key (bs.take n))

/-- R282 WUPD. -/
def wupdBody (f : Fields) (s : State) : Exec Out := do
  let k := s.cur
  let core := coreOf k
  let idx := f.mod 0 6
  let t := (s.slotOf k).tensor idx
  let row ← s.opndB 0x2A0 f false
  need (t.kind != 0 && t.weight && (t.space == 0 || t.space == 2)) PERM idx
  need (decide (row < t.rows)) BOUNDS row
  if 32 < opndNum f.a + ceilDiv t.cols 16 then operandTrap s 0x2A0 f 9 2 f.a
  else
    let xs := (s.ctx k).lanes32 (opndNum f.a) t.cols
    let ranges := (rowStores t 0 row (List.replicate t.cols 0)).map (fun w => (regionKey t.space core w.1, w.2.length))
    if ranges.any (fun r => (s.heldLocks (s.paddockOf core)).any (fun h => decide (r.1 < h.hi) && decide (h.lo < r.1 + r.2))) then
      done ((s.setD f.d (CReg.word 1)).setOwnGuard f false)
    else
      let (s0, sl, ss) ← s.demitScales k 0x2A0 t 0 row (bitAt f.md.toNat 6)
      let vs := List.zipWith (fun x y => demitConv t (if f.mod 7 4 = 8 then fval 23 x else intVal (sx x 32)) y) xs ss
      let stores := rowStores t 0 row (vs.map (·.1))
      let pieces := stores.flatMap (fun w => linePieces w.1 w.2.length)
      let (s1, ls) ← wupdPlaces k t.space s pieces s0
      let o := sl.foldl (fun (o : Out) l => o.loads l t.scaleBytes) { s := s1 }
      match o.next with
      | .seq => .ok { o with s := ((putRow ls (stores.flatMap (·.2)) o.s).setD f.d (CReg.word 0)).setOwnGuard f true }
      | _ => .ok o
def execWupd (f : Fields) (s : State) : Result := runScalar f (wupdBody f) s

end Sys2Proof.Machine
end

