-- ==== Sys2Proof/Machine/Image.lean ====
section
/-!
DEFINITION. SHA-256 and what is built on it (R377, R379, R382), and kernel images: reading and checking one (R22 to R24, R52) and
its measurement (R379).
-/

namespace Sys2Proof.Machine

/-! ### SHA-256 (FIPS 180-4), HMAC and HKDF -/

/-- The primes up to 311: the first sixty-four. -/
def shaPrimes : List Nat :=
  (List.range 312).filter fun n => decide (2 ≤ n) && [2, 3, 5, 7, 11, 13, 17].all fun p => n == p || n % p != 0

/-- The largest number whose `e`-th power is at most `x`, of `n` bits, found from its highest bit down; `r` is what is found. -/
def rootFloor (e x : Nat) : Nat → Nat → Nat
  | 0, r => r
  | n + 1, r => rootFloor e x n (if (r + 2 ^ n) ^ e ≤ x then r + 2 ^ n else r)

/-- The first 32 bits of the fractional part of the `e`-th root of `p`. -/
def rootBits (e p : Nat) : Nat := rootFloor e (p * 2 ^ (32 * e)) 38 0 % 2 ^ 32

/-- The 64 step constants: the cube roots of the primes. -/
def stepKeys : List Nat := shaPrimes.map (rootBits 3)

/-- The chaining value before a message: the square roots of the first eight primes. -/
def firstChain : List Nat := (shaPrimes.take 8).map (rootBits 2)

/-- The exclusive or of a 32-bit word's rotations right by the given counts. -/
def rotXor (x : Nat) (ns : List Nat) : Nat :=
  ns.foldl (fun acc n => acc ^^^ (x * (2 ^ 32 + 1) / 2 ^ n % 2 ^ 32)) 0

/-- The 64 words of a block's schedule, oldest first, from its first sixteen: `n` words are still to come. -/
def shaWords : Nat → List Nat → List Nat
  | 0, ws => ws
  | n + 1, ws =>
    let back (k : Nat) : Nat := ws.getD (ws.length - k) 0
    let lo := rotXor (back 15) [7, 18] ^^^ back 15 / 2 ^ 3
    let hi := rotXor (back 2) [17, 19] ^^^ back 2 / 2 ^ 10
    shaWords n (ws ++ [(hi + lo + back 7 + back 16) % 2 ^ 32])

/-- One step of the compression: the state is eight words, read by place; `k` is the step's constant plus its schedule word. -/
def shaStep (st : List Nat) (k : Nat) : List Nat :=
  let v (i : Nat) : Nat := st.getD i 0
  let pick := v 6 ^^^ (v 4 &&& (v 5 ^^^ v 6))
  let most := (v 0 &&& (v 1 ||| v 2)) ||| (v 1 &&& v 2)
  let t := rotXor (v 4) [6, 11, 25] + pick + v 7 + k
  ((t + rotXor (v 0) [2, 13, 22] + most) :: st.take 3 ++ (v 3 + t) :: (st.drop 4).take 3).map (· % 2 ^ 32)

/-- A block of 64 bytes, as numbers most significant byte first, taken into the chaining value. -/
def shaChain (st : List Nat) (block : List Byte) : List Nat :=
  let word (i : Nat) : Nat := ((block.drop (4 * i)).take 4).foldl (fun acc b => 256 * acc + b.toNat) 0
  let ws := shaWords 48 ((List.range 16).map word)
  let ks := (stepKeys.zip ws).map fun (k, w) => k + w
  ((ks.foldl shaStep st).zip st).map fun (x, y) => (x + y) % 2 ^ 32

/-- SHA-256 of a message, as 32 bytes: the message, a 1 bit, zeros and its length in bits fill whole blocks. -/
def sha256 (m : List Byte) : List Byte :=
  let whole := (m.length + 72) / 64
  let bs := m ++ 0x80 :: List.replicate (64 * whole - 9 - m.length) 0 ++ (natToBytes 8 (8 * m.length)).reverse
  let out := (List.range whole).foldl (fun st i => shaChain st ((bs.drop (64 * i)).take 64)) firstChain
  out.flatMap fun x => (natToBytes 4 x).reverse

def hmac256 (key m : List Byte) : List Byte :=
  let k := (if 64 < key.length then sha256 key else key)
  let k := k ++ List.replicate (64 - k.length) 0
  sha256 (k.map (· ^^^ 0x5C) ++ sha256 (k.map (· ^^^ 0x36) ++ m))

/-- HKDF-SHA256 with an output of 32 bytes (RFC 5869). -/
def hkdf32 (salt ikm info : List Byte) : List Byte := hmac256 (hmac256 salt ikm) (info ++ [1])

/-- A digest as a number: its first byte is the lowest in memory. -/
def digest (bs : List Byte) : BitVec 256 := BitVec.ofNat 256 (bytesToNat bs)
def digestBytes (d : BitVec 256) : List Byte := natToBytes 32 d.toNat

/-! ### Kernel images (R22, R23) -/

/-- A pipeline declaration: its header and stage descriptors (R319). -/
structure PipeDecl where
  head : BitVec 512
  stages : List (BitVec 256)
  deriving DecidableEq, Repr, Inhabited

/-- An image as it was read. -/
structure Image where
  at_ : Nat
  len : Nat
  allot : Nat
  hmax : Nat
  textOff : Nat
  textN : Nat
  dataOff : Nat
  dataLen : Nat
  fpW : Nat
  fpA : Nat
  fpY : Nat
  fpL : Nat
  widths : List Nat
  span : Nat
  entries : List Nat
  handlers : List Nat
  tensors : List (Nat × BitVec 256)
  pipes : List PipeDecl
  tensorOff : Nat
  pipeOff : Nat
  pipeLen : Nat
  deriving DecidableEq, Repr, Inhabited

/-- Statuses of R27 and R67. -/
def IMAGE_FORM : Nat := 0x20
def GEOMETRY : Nat := 0x21
def HURDLE_LEVEL : Nat := 0x22
def ENTRY : Nat := 0x23
def HEADER_FORM : Nat := 0x24
def PACKET_FORM : Nat := 0x25
def SHARE : Nat := 0x26
def FOOTPRINT : Nat := 0x27
def PLACEMENT : Nat := 0x28
def ALLOT_FIT : Nat := 0x29
def DET_UNCHECKED : Nat := 0x2A
def TRACE_GEOMETRY : Nat := 0x2B
def TRACE_OVF : Nat := 0x2C
def REPLAY_DIVERGE : Nat := 0x2D
def NO_TARGET : Nat := 0x2E
def WAIT_TIMEOUT : Nat := 0x2F
def ADDRESS : Nat := 0x30
def PX_SPACE : Nat := 0x3A
def MEASURE : Nat := 0x3B
def ABORTED : Nat := 0x3C

/-- A check of a launch: its status where it fails. -/
abbrev Check (α : Type) := Except Nat α
def must (ok : Bool) (status : Nat) : Check Unit := if ok then .ok () else .error status

/-- Bytes of a paddock's space that the Drover must read (R24, R67). -/
def State.mustRead (s : State) (p va n : Nat) : Check (List Byte) :=
  match s.walkRead p (va % 2 ^ 56) n with
  | some bs => .ok bs
  | none => .error ADDRESS

/-- Whether a length is exactly LEN_M × 2^LEN_E (R24, R125). -/
def representable (n : Nat) : Bool := n == 0 || (lenEncode n).isSome

/-- A list of 32-bit numbers. -/
def words32 (n : Nat) (bs : List Byte) : List Nat := (List.range n).map (fun i => bytesToNat ((bs.drop (4 * i)).take 4))
def widthsOf (x : Nat) : List Nat := (List.range 6).map (fun j => fld x (6 * j) 6)

/-- R52 for an image record: local ranges lie inside the footprints. -/
def insideFootprint (fpW fpA fpY fpL space base len : Nat) : Bool :=
  let fp := match space with | 1 => fpL | 2 => fpW | 3 => fpA | _ => fpY
  decide (base + len ≤ fp)

/-- The reserved fields of a pipeline declaration's header are zero (R319). -/
def pipeHeadOk (h : Nat) : Bool := fld h 38 26 == 0 && fld h 28 4 == 0 && fld h 5 11 == 0 && fld h 80 432 == 0
/-- The reserved fields of a stage descriptor are zero (R320). -/
def stageReservedOk (x : Nat) : Bool := fld x 60 4 == 0 && fld x 120 8 == 0 && fld x 166 10 == 0 && fld x 156 4 == 0 && fld x 216 8 == 0

/-- The pipeline declarations that follow each other at an offset, and where they end (R23, R319). -/
def State.readPipes (s : State) (p va len : Nat) : Nat → Nat → Check (List PipeDecl × Nat)
  | 0, off => .ok ([], off)
  | n + 1, off => do
    must (decide (off + 64 ≤ len)) IMAGE_FORM
    let h ← s.mustRead p (va + off) 64
    let hd := BitVec.ofNat 512 (bytesToNat h)
    let ns := fld hd.toNat 0 5
    must (pipeHeadOk hd.toNat) IMAGE_FORM
    must (decide (off + 64 + 32 * ns ≤ len)) IMAGE_FORM
    let bs ← s.mustRead p (va + off + 64) (32 * ns)
    let sts := (List.range ns).map (fun i => BitVec.ofNat 256 (bytesToNat ((bs.drop (32 * i)).take 32)))
    must (sts.all (fun x => stageReservedOk x.toNat)) IMAGE_FORM
    let (rest, fin) ← s.readPipes p va len n (off + 64 + 32 * ns)
    .ok ({ head := hd, stages := sts } :: rest, fin)

/-- Regions do not overlap; an empty one overlaps nothing. -/
def apart : List (Nat × Nat) → Bool
  | [] => true
  | r :: rs => rs.all (fun q => !(overlaps r.1 r.2 q.1 q.2)) && apart rs

/-- The bytes that pipeline declarations take, by their NSTAGE fields (R319). -/
def State.pipeBytes (s : State) (p : Nat) : Nat → Nat → Check Nat
  | 0, _ => .ok 0
  | n + 1, va => do
    let h ← s.mustRead p va 8
    let size := 64 + 32 * fld (bytesToNat h) 0 5
    let rest ← s.pipeBytes p n (va + size)
    .ok (size + rest)

/-- R379: the measurement of the image at an address, as its header lays it out; an error where a byte cannot be read. (DEDUCED, log 54.) -/
def State.measure (s : State) (p va : Nat) : Check (BitVec 256) := do
  let h := bytesToNat (← s.mustRead p va 64)
  let tens := va + fld h (8 * 0x34) 32 + 4 * (fld h (8 * 0x30) 8 + fld h (8 * 0x31) 8)
  let tensLen := 40 * fld h (8 * 0x32) 8
  let a ← s.mustRead p va (fld h (8 * 0x38) 32)
  let t ← s.mustRead p tens tensLen
  let n ← s.pipeBytes p (fld h (8 * 0x33) 8) (tens + tensLen)
  let q ← s.mustRead p (tens + tensLen) n
  .ok (digest (sha256 (sha256 a ++ sha256 t ++ sha256 q)))

/-- R24, R67: the image at an address of a paddock's space, or the status with which it is refused. What must be readable is what the
Drover checks, copies or, in enclave mode, measures. The order in which an unreadable part and a failed check of one image are met is that
of the reads and checks here, and a declared SPAN of 7 counts as ill formed (DESIGN CHOICE, log 53). -/
def State.readImage (s : State) (p va : Nat) : Check Image := do
  let hb ← s.mustRead p va 64
  let h := bytesToNat hb
  let w (off n : Nat) : Nat := fld h (8 * off) n
  let len := w 0x38 32
  let allot := fld h (8 * 4 + 16) 8
  let hmax := fld h (8 * 4 + 24) 3
  let textOff := w 0x08 32
  let textN := w 0x0C 32
  let dataOff := w 0x10 32
  let dataLen := w 0x14 32
  let fps := [w 0x18 32, w 0x1C 32, w 0x20 32, w 0x24 32]
  let widths := widthsOf (w 0x28 36)
  let span := fld h (8 * 0x28 + 36) 3
  let nEntry := w 0x30 8
  let nHandler := w 0x31 8
  let nTensor := w 0x32 8
  let nPipe := w 0x33 8
  let tableOff := w 0x34 32
  let tableLen := 4 * (nEntry + nHandler) + 40 * nTensor
  must (w 0 32 == 0x44560004 && w 4 16 == 1) IMAGE_FORM
  must (decide (16 ≤ allot) && decide (allot ≤ 64) && allot % 4 == 0) IMAGE_FORM
  must (decide (1 ≤ nEntry) && decide (nEntry ≤ 16) && decide (nHandler ≤ 16) && decide (nTensor ≤ 64) && decide (nPipe ≤ 4)) IMAGE_FORM
  must (textOff % 64 == 0 && dataOff % 64 == 0 && tableOff % 8 == 0) IMAGE_FORM
  must (decide (textOff + 12 * textN ≤ len) && decide (dataOff + dataLen ≤ len) && decide (tableOff + tableLen ≤ len) && decide (64 ≤ len)) IMAGE_FORM
  must (decide (dataLen ≤ fps.getD 3 0) && fps.all (fun n => n % 64 == 0 && representable n)) IMAGE_FORM
  must (widths.all (fun x => decide (x ≤ 32)) && decide (widths.foldl (· + ·) 0 ≤ 64)) IMAGE_FORM
  must (fld h (8 * 4 + 27) 5 == 0 && fld h (8 * 0x28 + 39) 25 == 0 && w 0x3C 32 == 0 && decide (hmax ≤ span) && decide (span ≤ 6)) IMAGE_FORM
  let tb ← s.mustRead p (va + tableOff) tableLen
  let ix := words32 (nEntry + nHandler) tb
  must (ix.all (fun i => decide (i < textN))) IMAGE_FORM
  let tens := (List.range nTensor).map (fun i =>
    let b := (tb.drop (4 * (nEntry + nHandler) + 40 * i)).take 40
    (bytesToNat (b.take 8), BitVec.ofNat 256 (bytesToNat (b.drop 8))))
  let inside := insideFootprint (fps.getD 0 0) (fps.getD 1 0) (fps.getD 2 0) (fps.getD 3 0)
  must (tens.all (fun t => decide (t.1 < 64) && tensorWf inside t.2) && decide ((tens.map (·.1)).dedup.length = nTensor)) IMAGE_FORM
  let (pipes, fin) ← s.readPipes p va len nPipe (tableOff + tableLen)
  must (apart [(0, 64), (textOff, 12 * textN), (dataOff, dataLen), (tableOff, fin - tableOff)]) IMAGE_FORM
  let _ ← s.mustRead p (va + dataOff) dataLen
  let _ ← (if (s.drover p).enclave then s.measure p va else .ok 0)
  .ok { at_ := va, len := len, allot := allot, hmax := hmax, textOff := textOff, textN := textN, dataOff := dataOff, dataLen := dataLen,
        fpW := fps.getD 0 0, fpA := fps.getD 1 0, fpY := fps.getD 2 0, fpL := fps.getD 3 0, widths := widths, span := span,
        entries := ix.take nEntry, handlers := ix.drop nEntry, tensors := tens, pipes := pipes,
        tensorOff := tableOff + 4 * (nEntry + nHandler), pipeOff := tableOff + tableLen, pipeLen := fin - (tableOff + tableLen) }

/-- What a vcore runs of an image, from an entry, with an argument block. -/
def Image.prog (i : Image) (entry args arglen : Nat) : Prog :=
  { image := i.at_
    text := (i.at_ + i.textOff) % 2 ^ 56
    textN := i.textN
    entry := (i.at_ + i.textOff + 12 * i.entries.getD entry 0) % 2 ^ 56
    handlers := i.handlers.map (fun h => (i.at_ + i.textOff + 12 * h) % 2 ^ 56)
    allot := i.allot, fpW := i.fpW, fpA := i.fpA, fpY := i.fpY, fpL := i.fpL, args := args, arglen := arglen }

/-- R379: the measurement enters the log of the paddock. -/
def State.logMeasure (s : State) (p : Nat) (m : BitVec 256) : State :=
  s.modDrover p (fun d => { d with log := digest (sha256 (digestBytes d.log ++ digestBytes m)), logcnt := d.logcnt + 1 })

/-- R379: in enclave mode an image is measured before the checks, and must be on the allow-list. One that cannot be measured has no
measurement to log, and `readImage` refuses it, with ADDRESS (R24). -/
def State.measured (s : State) (p va : Nat) : State × Check Unit :=
  if !(s.drover p).enclave then (s, .ok ())
  else
    match s.measure p va with
    | .error _ => (s, .ok ())
    | .ok m =>
      let allowed := match s.byvon.flock with | some f => f.allow.contains m.toNat | none => false
      (s.logMeasure p m, must allowed MEASURE)

end Sys2Proof.Machine
end

