-- ==== Sys2Proof/Machine/Launch.lean ====
section
/-!
DEFINITION. Launches from their checks to their end: queue descriptors and completion words (R59 to R63), the checks of R67,
placement (R72 to R74), items and their entry state (R28 to R31), dispatch traces (R79 to R81), END, TAIL (R33, R34, R133, R134),
retirement and the end of a gang (R71, R388).
-/

namespace Sys2Proof.Machine

/-! ### Heads and queue descriptors (R59, R63) -/

def State.head (s : State) (p q : Nat) : QHead := Sparse.get {} (s.drover p).heads q
def State.setHead (s : State) (p q : Nat) (h : QHead) : State := s.modDrover p (fun d => { d with heads := d.heads.put q h })
def State.modHead (s : State) (p q : Nat) (g : QHead → QHead) : State := s.setHead p q (g (s.head p q))
def State.dropHead (s : State) (p q : Nat) : State := s.modDrover p (fun d => { d with heads := Sparse.drop d.heads q })
def State.queue (s : State) (p q : Nat) : Queue := Sparse.get {} (s.drover p).queues q
def State.modQueue (s : State) (p q : Nat) (g : Queue → Queue) : State :=
  s.modDrover p (fun d => { d with queues := d.queues.put q (g (Sparse.get {} d.queues q)) })
/-- DBERR of a queue is set (R60). -/
def State.dberr (s : State) (p q : Nat) : State := s.modDrover p (fun d => { d with qerr := d.qerr ||| BitVec.ofNat 64 (2 ^ q) })

/-- A queue descriptor as it was read. -/
structure QDesc where
  en : Bool
  held : Bool
  logn : Nat
  ring : Nat
  wridx : Nat
  rdidx : Nat
  msix : Nat
  level : Nat
  prio : Nat
  tickets : Nat
  trace : Nat
  ok : Bool
  deriving DecidableEq, Repr

def qdescOf (x : Nat) : QDesc :=
  { en := bitAt x 63, held := bitAt x 62, logn := fld x 56 4, ring := fld x 0 56, wridx := fld x 96 32, rdidx := fld x 64 32,
    msix := fld x 148 12, level := fld x 146 2, prio := fld x 144 2, tickets := fld x 128 8, trace := fld x 192 56
    ok := fld x 60 2 == 0 && fld x 160 32 == 0 && fld x 136 8 == 0 && fld x 248 8 == 0 && decide (4 ≤ fld x 56 4) }
def State.qdescAt (s : State) (p q : Nat) : Nat := (s.pageReg p 0x200 + 32 * q) % 2 ^ 56
def State.qdesc (s : State) (p q : Nat) : Option QDesc := (s.walkNat p (s.qdescAt p q) 32).map qdescOf
/-- A field of a descriptor written by the device, where the page admits it. (DEDUCED, log 55.) -/
def State.putDesc (s : State) (p q off n x : Nat) : State := (s.walkWrite p (s.qdescAt p q + off) (natToBytes n x)).getD s
def State.putLevel (s : State) (p q level trace : Nat) : State :=
  match s.walkNat p (s.qdescAt p q + 18) 1 with
  | some b => (s.putDesc p q 18 1 (setFld b 2 2 level)).putDesc p q 24 8 (trace % 2 ^ 56)
  | none => s
def State.putHeld (s : State) (p q : Nat) : State :=
  match s.walkNat p (s.qdescAt p q + 7) 1 with
  | some b => s.putDesc p q 7 1 (setFld b 6 1 1)
  | none => s

/-- What a Drover's read of a physical address acquires at SYSTEM scope (R61, R66). (DEDUCED, log 57.) -/
def State.droverAcquires (s : State) (pa n : Nat) : Sparse Nat :=
  ((s.releasesAt pa n).filter (fun r => r.agent == 6 && coversGlobal r.storage)).foldl (fun c r => joinClock c r.clock) []
def State.queueLearns (s : State) (p q : Nat) (c : Sparse Nat) : State := s.modQueue p q (fun x => { x with clock := joinClock x.clock c })
/-- A Drover's 8-byte release at SYSTEM scope: what the packets of its queue happened after, and the effects of those that have completed,
is published (R63, R66). -/
def State.droverRelease (s : State) (p q va x : Nat) : Option State :=
  match s.walkTo p va true, s.walkWrite p va (natToBytes 8 x) with
  | some pa, some t =>
    some { t with syncs := t.syncs ++
      [{ addr := pa, size := 8, core := outsideCore, slot := 0, agent := 6, storage := 4, clock := joinClock (s.queue p q).clock (s.queue p q).effects }] }
  | _, _ => none

/-- The packet with an index lies before a write index, within the ring (R60). -/
def rung (d : QDesc) (w : Nat) : Bool :=
  let room := (w + 2 ^ 32 - d.rdidx) % 2 ^ 32
  decide (1 ≤ room) && decide (room ≤ 2 ^ d.logn)
/-- R371: what was written before the doorbell that announced the head happens before what the packet starts. -/
def State.bellClock (s : State) (p q : Nat) (d : QDesc) : Sparse Nat :=
  match (s.queue p q).bells.find? (fun b => b.1 == s.qdescAt p q && rung d b.2.1) with
  | some b => [(bellKey, b.2.2)]
  | none => []
/-- The doorbells of a queue that its head has not followed stay. -/
def State.dropBells (s : State) (p q : Nat) : State :=
  match s.qdesc p q with
  | some d => s.modQueue p q (fun x => { x with bells := x.bells.filter (fun b => b.1 != s.qdescAt p q || rung d b.2.1) })
  | none => s

/-- R60, R61: the packet that has become the head is read whole, once; one that cannot be read stops the queue. -/
def State.loadHead (s : State) (p q : Nat) : State :=
  if (s.head p q).loaded || !(s.ctxActive p) then s
  else
    match s.qdesc p q with
    | none => s
    | some d =>
      if !d.en || d.wridx == d.rdidx || bitAt (s.drover p).qerr.toNat q then s
      else
        let va := (d.ring + 64 * (d.rdidx % 2 ^ d.logn)) % 2 ^ 56
        match s.walkNat p va 64, s.walkTo p va false with
        | some x, some pa =>
          ((s.queueLearns p q (s.droverAcquires pa 64)).queueLearns p q (s.bellClock p q d)).setHead p q { loaded := true, packet := BitVec.ofNat 512 x, since := s.time }
        | _, _ => s.dberr p q

/-- R390: the host port that carries a queue's doorbell writes; port 0 where the other is not trained (R231). -/
def State.bellPort (s : State) (p q : Nat) : Nat :=
  let i := Config.doorbellPort p q % 2
  if s.device.hostPorts.contains i then i else 0

/-- R63: the head completes: the completion word, RDIDX, and the interrupt; the next packet becomes the head. A completion word or an
RDIDX that the page does not admit is left as it is, and the packet completes all the same (DESIGN CHOICE, log 60). -/
def State.complete (s0 : State) (p q status : Nat) : State :=
  let h := s0.head p q
  let s := s0.modQueue p q (fun x => { x with effects := joinClock x.effects h.effects })
  match s.qdesc p q with
  | none => (s.dropHead p q).dberr p q
  | some d =>
    let va := (d.ring + 64 * (d.rdidx % 2 ^ d.logn) + 8) % 2 ^ 56
    let word := s.time % 2 ^ 32 * 2 ^ 32 + 2 ^ 24 + min h.ntail 255 * 2 ^ 16 + h.tstatus % 2 ^ 8 * 2 ^ 8 + status % 2 ^ 8
    let s1 := ((s.droverRelease p q va word).getD s).putDesc p q 8 4 ((d.rdidx + 1) % 2 ^ 32)
    let s2 := if bitAt h.packet.toNat 8 then s1.raiseMsix (s.bellPort p q) d.msix else s1
    ((s2.dropHead p q).dropBells p q).loadHead p q

/-- A pipeline of a context (R322). -/
def State.pipe (s : State) (k : Nat) : Pipe := Sparse.get {} s.pipes k
def State.setPipe (s : State) (k : Nat) (x : Pipe) : State := { s with pipes := s.pipes.put k x }

/-! ### Launch headers (R26) -/

def lhImage (h : BitVec 384) : Nat := fld h.toNat 0 56
def lhEntry (h : BitVec 384) : Nat := fld h.toNat 56 4
def lhSpan (h : BitVec 384) : Nat := fld h.toNat 60 3
def lhArgs (h : BitVec 384) : Nat := fld h.toNat 64 56
def lhStride (h : BitVec 384) : Nat := fld h.toNat 120 4
def lhMaxk (h : BitVec 384) : Nat := fld h.toNat 124 2
def lhWidths (h : BitVec 384) : List Nat := widthsOf (fld h.toNat 128 36)
def lhArglen (h : BitVec 384) : Nat := fld h.toNat 164 16
def lhExtents (h : BitVec 384) : List Nat := (List.range 6).map (fun j => fld h.toNat (192 + 32 * j) 32 + 1)
def prodOf (xs : List Nat) : Nat := xs.foldl (· * ·) 1
/-- G (R28). -/
def lhGang (h : BitVec 384) : Nat := prodOf ((lhExtents h).take (lhSpan h))

/-- R72: the cores and slots of `n` vcores; none where they do not fit. -/
def State.placement (s : State) (p n stride : Nat) : Option (List (Nat × Nat)) :=
  let st := 2 ^ stride
  if 4096 ≤ (n - 1) * st then none
  else some ((List.range n).map (fun v => (s.globalCore p (v * st % s.coresPer), v * st / s.coresPer)))

/-- R73: the footprints exceed the shares of a slot. -/
def State.overShare (s : State) (i : Image) : Bool :=
  decide (s.shareSize 2 < i.fpW) || decide (s.shareSize 3 < i.fpA) || decide (s.shareSize 4 < i.fpY) || decide (s.shareSize 1 < i.fpL)

/-- R78: a tensor of SPACE 0 lies on CHECKED pages throughout. -/
def State.onChecked (s : State) (p base len : Nat) : Bool :=
  ((List.range (len / 2 ^ 19 + 1)).map (fun i => base + i * 2 ^ 19) ++ [base + len - 1]).all (fun a =>
    match s.walk p (min a (base + len - 1) % 2 ^ 56) with
    | some i => imgCHK i && decide (imgPA i < 2 ^ 51)
    | none => false)
/-- R78: DET_UNCHECKED. A tensor record of KIND 0 is the invalid entry (R49), whatever its other fields say, and counts for nothing.
(DESIGN CHOICE, log 123.) -/
def State.detUnchecked (s : State) (p : Nat) (i : Image) : Bool :=
  i.tensors.any (fun e =>
    let t := tensorOf e.2
    let shared := t.kind != 0 && (t.space == 0 || t.space == 5)
    (shared && !t.weight && !t.checked) || (t.kind != 0 && t.checked && t.space == 0 && !(s.onChecked p t.base t.span)))

/-! ### Traces (R79 to R81) -/

/-- The geometry of a trace: the bytes of its header but for OVF, NEVENT and LEN. -/
structure Geometry where
  k : Nat
  stride : Nat
  stages : Nat
  span : Nat
  widths : Nat
  extents : List Nat
  deriving DecidableEq, Repr

def traceHead (g : Geometry) (ovf : Bool) (n : Nat) : List Byte :=
  natToBytes 8 (0x44565452 + 2 ^ 32 + g.k % 32 * 2 ^ 36 + g.stride % 16 * 2 ^ 41 + g.stages % 32 * 2 ^ 45 + g.span % 8 * 2 ^ 50 +
      (if ovf then 2 ^ 53 else 0)) ++
    natToBytes 8 g.widths ++ g.extents.flatMap (fun e => natToBytes 4 (e - 1)) ++ natToBytes 8 n ++ natToBytes 8 (64 + 16 * n) ++ natToBytes 8 0
def eventBytes (e : TraceEvent) : List Byte :=
  natToBytes 8 (e.dst % 16 * 2 ^ 36 + e.src % 16 * 2 ^ 32 + e.vcore % 2 ^ 12 * 2 ^ 20 + e.ev % 8 * 2 ^ 16 + e.core % 2 ^ 11) ++ natToBytes 8 e.ord
def eventOf (x : Nat) : TraceEvent :=
  { core := fld x 0 11, ev := fld x 16 3, vcore := fld x 20 12, ord := fld x 64 64, src := fld x 32 4, dst := fld x 36 4 }

/-- R81: the trace that a launch follows, or the status with which it is refused. NEVENT says how many events it has; LEN, which repeats it,
is not read. (DESIGN CHOICE, log 125.) -/
def State.readTrace (s : State) (p at_ : Nat) (g : Geometry) : Check Trace := do
  let h ← s.mustRead p at_ 64
  let n := fld (bytesToNat h) (8 * 0x28) 64
  let marks (b : List Byte) : Nat × Nat × Nat := (fld (bytesToNat b) 0 54, fld (bytesToNat b) 64 36, fld (bytesToNat b) 128 192)
  must (marks (traceHead g false n) == marks h) TRACE_GEOMETRY
  let bs ← s.mustRead p (at_ + 64) (16 * n)
  .ok { start := at_, count := n, left := (List.range n).map (fun i => eventOf (bytesToNat ((bs.drop (16 * i)).take 16))) }

/-- R80: an event of a RECORD launch is written, or lost; R81: one of a REPLAY launch is followed. -/
def State.traceEvent (s : State) (lid : Nat) (e : TraceEvent) : State :=
  let g := s.gang lid
  let t := g.trace
  if g.level = 2 then
    let a := t.start + 64 + 16 * t.count
    if t.ovf || t.bad then s
    else if t.stop < a + 16 then s.setGang lid { g with trace := { t with ovf := true } }
    else
      match s.walkWrite g.ctx a (eventBytes e) with
      | some s1 => s1.setGang lid { g with trace := { t with count := t.count + 1 } }
      | none => s.setGang lid { g with trace := { t with bad := true } }
  else if g.level = 3 then s.setGang lid { g with trace := { t with left := t.left.erase e } }
  else s

/-- R81: whether a launch may have an event now: it is the next of its core. -/
def Gang.mayHave (g : Gang) (e : TraceEvent) : Bool :=
  g.level != 3 || (g.trace.left.find? (fun x => x.core == e.core && decide (x.ev < 4))) == some e

/-! ### Items (R28 to R31) -/

/-- The items that a vcore runs (R29). -/
def Gang.items (g : Gang) : Nat := prodOf (g.extents.drop g.span)
/-- The work identifier of item `i` of a vcore (R28, R29). -/
def Gang.itemWid (g : Gang) (v i : Nat) : Nat :=
  (List.range 6).foldl (fun x j =>
    let e := g.extents.getD j 1
    let f := if j < g.span then v / prodOf (g.extents.take j) % e else i / prodOf ((g.extents.take j).drop g.span) % e
    x + f * 2 ^ g.fieldOff j) 0
/-- The number of the item with an identifier. -/
def Gang.itemOf (g : Gang) (wid : Nat) : Nat :=
  (List.range 6).foldl (fun x j =>
    if j < g.span then x else x + fld wid (g.fieldOff j) (g.widths.getD j 0) * prodOf ((g.extents.take j).drop g.span)) 0

/-- R30: the c registers with which an item begins. (DEDUCED, log 52.) -/
def State.entryRegs (s : State) (slot : Nat) (g : Prog) : Sparse CReg :=
  [(1, s.areaCap slot 2 0x01 g.fpW), (2, s.areaCap slot 3 0x03 g.fpA), (3, s.areaCap slot 4 0x01 g.fpY), (4, s.areaCap slot 1 0x0B g.fpL),
   (5, mkCap 6 0x22 (2 ^ 48) 2048), (6, mkCap 6 0x22 (2 * 2 ^ 48) 2048), (7, mkCap 6 0x22 (3 * 2 ^ 48) 2048), (8, mkCap 0 0x01 g.args g.arglen)]

/-- R30, R111, R131: the context of a slot at the start of an item. (DEDUCED, log 52.) -/
def State.enterItem (s : State) (key wid : Nat) : State :=
  let g := (s.slot key).prog
  (s.modSlot key (fun l =>
    { l with wid := BitVec.ofNat 64 wid, engcap := BitVec.ofNat 64 s.engPolicy, tbase := 0, tlimit := 0x00FFFFFFFFFFFFFF, rngctl := 0,
             pstSeq := 0, sendSeq := 0, hurdles := [], startDue := false })).modCtx (hartOfSlot key) (fun c =>
    { c with live := true, pc := BitVec.ofNat 56 g.entry, regBase := BitVec.ofNat 56 g.text
             regLimit := BitVec.ofNat 57 (g.text + 12 * g.textN), allot := g.allot, c := s.entryRegs (key % 16) g, v := [], g := [], sb := []
             q := [], rep := none, hold := 0, yielding := [], blocked := none, waitFrom := none, yielded := false })

/-- The trace event of a slot's item (R79). -/
def State.itemEvent (s : State) (key ev : Nat) : TraceEvent :=
  let sl := s.slot key
  { core := s.localCore (key / 16), ev := ev, vcore := sl.vcore, ord := if ev < 2 then sl.wid.toNat else 0 }

/-- R352: TVEC and SREGION of a slot are those of the context page. -/
def State.pageRegs (s : State) (p : Nat) (l : Slot) : Slot :=
  { l with tvec := BitVec.ofNat 64 (s.pageReg p 0x2E0), sregBase := BitVec.ofNat 56 (s.pageReg p 0x2E8), sregLimit := BitVec.ofNat 56 (s.pageReg p 0x2F0) }

/-- R81: an item that is due starts, unless the trace of its core names another event first; the first item of a vcore takes TVEC and
SREGION from the context page (R352). (DEDUCED, log 58.) -/
def State.startDueItem (s : State) (key : Nat) : State :=
  let sl := s.slot key
  let e := s.itemEvent key 0
  if sl.startDue && !sl.worker && !(s.ctx (hartOfSlot key)).frozen && (s.gang sl.lid).mayHave e then
    let t := if (s.gang sl.lid).itemOf sl.wid.toNat = 0 then s.modSlot key (s.pageRegs (s.paddockOf (key / 16))) else s
    (t.traceEvent sl.lid e).enterItem key sl.wid.toNat
  else s
/-- The items of a core that are due, each as its turn comes. -/
def State.startItems (s : State) (core : Nat) : State :=
  (List.range 16).foldl (fun (s : State) _ => (List.range 16).foldl (fun (s : State) j => s.startDueItem (slotKey core j)) s) s

/-- Bytes become zero; their tags, errors and release records are gone. -/
def State.zeroBytes (s : State) (a n : Nat) : State :=
  { s with
    mem := s.mem.filter (fun c => !(decide (a ≤ c.1) && decide (c.1 < a + n)))
    tags := clearTags s.tags a n
    poison := s.poison.filter (fun w => !(overlaps (w * 8) 8 a n))
    syncs := s.syncs.filter (fun r => !(overlaps r.addr r.size a n)) }

/-- R70: the shares of a slot are cleared. -/
def State.clearShares (s : State) (key : Nat) : State :=
  [2, 3, 4, 1].foldl (fun (s : State) sp => s.zeroBytes (placeKey sp (key / 16) (s.shareStart (key % 16) sp)) (s.shareSize sp)) s

/-- R31: the areas of a vcore are cleared, its data block is copied and its tensor table loaded. -/
def State.prepareAreas (s : State) (key : Nat) (g : Prog) (dataAt dataLen : Nat) (tensors : List (Nat × BitVec 256)) : State :=
  let core := key / 16
  let slot := key % 16
  let zero (s : State) (x : Nat × Nat) : State := s.zeroBytes (placeKey x.1 core (s.shareStart slot x.1)) x.2
  let s1 := [(2, g.fpW), (3, g.fpA), (4, g.fpY), (1, g.fpL)].foldl zero s
  let s2 := match s1.walkRead (s.paddockOf core) dataAt dataLen with
    | some bs => if bs.isEmpty then s1 else s1.storeBytes (placeKey 1 core (s.shareStart slot 1)) bs
    | none => s1
  s2.modSlot key (fun l => { l with tensors := tensors.foldl (fun t e => Sparse.set 0 t e.1 (s.relocate slot false e.2)) [] })

/-- What stays of a slot without a vcore: its system registers (R111, R388), TIMECMP and IEN with what they have made pending, its
tensor table, and entries of the journal and retry buffer that the interface still holds (R361). -/
def Slot.released (l : Slot) : Slot :=
  { wid := l.wid, uvec := l.uvec, tvec := l.tvec, engcap := l.engcap, tbase := l.tbase, tlimit := l.tlimit, seed := l.seed, rngctl := l.rngctl
    sealmask := l.sealmask, timecmp := l.timecmp, ien := l.ien, sregBase := l.sregBase, sregLimit := l.sregLimit, intrPreempt := l.intrPreempt
    intrTimer := l.intrTimer, timerDone := l.timerDone, intrMigrate := l.intrMigrate, tensors := l.tensors, journal := l.journal, retry := l.retry }

/-- What stays of a hart context without a vcore: its registers (R388). -/
def Ctx.released (c : Ctx) : Ctx :=
  { c with live := false, rep := none, hold := 0, yielding := [], blocked := none, waitFrom := none, yielded := false, inTrap := false, frozen := false
           handling := [] }

/-- A slot takes a vcore: STATUS is the launch's, and the registers that no item start sets stay as they are (R111, R388). (DEDUCED, log 66.) -/
def State.placeVcore (s : State) (key lid v : Nat) (g : Gang) (pr : Prog) (resident : Bool) (clock : Sparse Nat) : State :=
  (s.modSlot key (fun l =>
    { l.released with
      live := true, resident := resident, residentSince := s.time, lid := lid, vcore := v, wid := BitVec.ofNat 64 (g.itemWid v 0)
      engcap := BitVec.ofNat 64 s.engPolicy, prog := pr, startDue := true, known := { clock := clock } })).modCtx
    (hartOfSlot key) (fun c => { c.released with status := BitVec.ofNat 64 (0x40 + (if g.encl then 2 ^ 27 else 0) + g.level % 4 * 2 ^ 28) })

/-- R75: whether a slot of a core is resident when it is placed: always with k 2 or 4; otherwise a slot 0 to 3 while a hart context
is free. -/
def State.residentAt (s : State) (key : Nat) : Bool :=
  decide (s.kPer ≤ 4) ||
    (decide (key % 16 < 4) && decide (((List.range 16).filter (fun j => (s.slot (slotKey (key / 16) j)).live && (s.slot (slotKey (key / 16) j)).resident)).length < 4))

/-- The vcores of a launch are placed, each with what it runs, and their first items are due. -/
def State.placeGang (s : State) (lid : Nat) (places : List (Nat × Nat)) (clock : Sparse Nat)
    (run : Nat → Prog × Nat × Nat × List (Nat × BitVec 256)) : State :=
  let g := s.gang lid
  (places.zipIdx).foldl (fun (s : State) x =>
    let key := slotKey x.1.1 x.1.2
    let r := run x.2
    ((s.placeVcore key lid x.2 g r.1 (s.residentAt key) clock).clearShares key).prepareAreas key r.1 r.2.1 r.2.2.1 r.2.2.2) s

/-! ### LAUNCH (R67) -/

/-- The 48 bytes of a launch header in a packet. -/
def packetHeader (x : BitVec 512) : BitVec 384 := BitVec.ofNat 384 (x.toNat / 2 ^ 128)

def State.geometry (s : State) (span stride stages widths : Nat) (extents : List Nat) : Geometry :=
  ⟨s.kPer, stride, stages, span, widths, extents⟩

/-- R80, R81: the trace with which a launch of a level begins. -/
def State.traceFor (s : State) (p q level : Nat) (g : Geometry) : Check Trace :=
  let at_ := ((s.qdesc p q).map (·.trace)).getD 0
  match level with
  | 2 => .ok { start := at_, stop := (s.queue p q).traceEnd }
  | 3 => s.readTrace p at_ g
  | _ => .ok {}

/-- The checks of R67 behind the measurement, in order: the image, the places and the trace. -/
def State.launchChecks (s : State) (p q level : Nat) (h : BitVec 384) : Check (Image × List (Nat × Nat) × Trace) := do
  must (fld h.toNat 63 1 == 0 && fld h.toNat 126 2 == 0 && fld h.toNat 180 12 == 0 && lhImage h % 64 == 0 && representable (lhArglen h) &&
    decide (lhSpan h ≤ 6) && decide (lhStride h ≤ 11)) HEADER_FORM
  let i ← s.readImage p (lhImage h)
  must (decide (lhEntry h < i.entries.length)) ENTRY
  must (lhWidths h == i.widths && ((lhExtents h).zip (lhWidths h)).all (fun x => decide (x.2 ≤ 32) && decide (x.1 ≤ 2 ^ x.2)) && decide (lhGang h ≤ 4096)) GEOMETRY
  must (decide (i.hmax ≤ lhSpan h)) HURDLE_LEVEL
  must (decide (s.kPer ≤ 2 * 2 ^ lhMaxk h)) SHARE
  must (!(s.overShare i)) FOOTPRINT
  match s.placement p (lhGang h) (lhStride h) with
  | none => .error PLACEMENT
  | some ps =>
    must (ps.all (fun x => decide (i.allot ≤ (s.core x.1).offer))) ALLOT_FIT
    must (level == 0 || !(s.detUnchecked p i)) DET_UNCHECKED
    let t ← s.traceFor p q level (s.geometry (lhSpan h) (lhStride h) 0 (fld h.toNat 128 36) (lhExtents h))
    .ok (i, ps, t)

/-- A launch that has passed its checks starts (R70): its gang, its vcores, and their first items. -/
def State.startLaunch (s : State) (p q level : Nat) (h : BitVec 384) (i : Image) (ps : List (Nat × Nat)) (t : Trace) : State :=
  let lid := s.nextLid
  let pr := i.prog (lhEntry h) (lhArgs h) (lhArglen h)
  let d := s.drover p
  let g : Gang :=
    { live := true, ctx := p, queue := q, prog := pr, span := lhSpan h, stride := lhStride h, widths := lhWidths h, extents := lhExtents h
      vcores := lhGang h, job := if d.enclave then (Sparse.get 0 d.regs 0x2D0).toNat else 0, level := level, encl := d.enclave, trace := t }
  let s1 := ({ s with nextLid := lid + 1 }).setGang lid g
  let s2 := s1.placeGang lid ps (joinClock (s.queue p q).clock (s.head p q).effects) (fun _ => (pr, (i.at_ + i.dataOff) % 2 ^ 56, i.dataLen, i.tensors))
  let s3 := s2.modHead p q (fun x => { x with phase := 2, lid := lid, level := level, notReady := none, reserving := none })
  (ps.map (·.1)).dedup.foldl (fun (s : State) c => s.startItems c) s3

/-- R67: a launch of a queue is checked and started; the status with which it is refused. -/
def State.tryLaunch (s : State) (p q level : Nat) (h : BitVec 384) : Except (Nat × State) State :=
  let (s1, m) := s.measured p (lhImage h)
  match m with
  | .error e => .error (e, s1)
  | .ok _ =>
    match s1.launchChecks p q level h with
    | .error e => .error (e, s1)
    | .ok (i, ps, t) => .ok (s1.startLaunch p q level h i ps t)

/-! ### Retirement and the end of a gang (R31, R71, R388) -/

/-- The engine commands of a slot that have not retired, and its FORK lists (R31, R329). -/
def State.engineIdle (s : State) (core slot : Nat) : Bool :=
  !((s.slot (slotKey core slot)).forks.any (fun f => f.2.active)) &&
    (foldCores core).all (fun m => forkEngines.all (fun e => (s.engine m e).unretired.all (fun c => !(c.from core slot))))

/-- A splice of a worker has no outcome entry yet (R345). -/
def Pipe.owes (x : Pipe) (v : Nat) : Bool :=
  x.buffer.any (fun sp => sp.vcore == some v) || x.recs.any (fun r => r.splice.any (fun sp => sp.vcore == some v)) ||
    x.outcomes.any (fun o => o.1 == v)

/-- R31, R287, R345: everything that a vcore started has retired. (DEDUCED, log 61.) -/
def State.canRetire (s : State) (key : Nat) : Bool :=
  let sl := s.slot key
  sl.ended && s.engineIdle (key / 16) (key % 16) &&
    s.slots.all (fun x =>
      x.2.journal.all (fun e => !((e.2.state == 1 || e.2.state == 2) && e.2.lid == sl.lid && e.2.vcore == sl.vcore)) &&
        x.2.retry.all (fun e => !(e.2.lid == sl.lid && e.2.vcore == sl.vcore))) &&
    s.pipes.all (fun x => !(x.2.live && x.2.lid == sl.lid && x.2.owes sl.vcore))

/-- A slot without a vcore: entries of its journal and retry buffer stay there (R361), and held faults are withdrawn (R192). -/
def State.vacate (s : State) (key : Nat) : State :=
  let k := hartOfSlot key
  ((s.dropMisses k).modSlot key Slot.released).modCtx k Ctx.released

/-- A vcore is over, and its slot is free: its inbox, arrival queues, match table and lock records are discarded, and the registers of the
slot and of its hart context persist (R388). A refusal that waited for its trap has nothing left to wait for; entries in flight, which an
ended gang can leave, retire at the interface. -/
def State.freeSlot (s : State) (key : Nat) : State :=
  let own (e : JEntry) : Bool := e.lid == (s.slot key).lid && e.vcore == (s.slot key).vcore
  (s.vacate key).modSlot key (fun l => { l with journal := l.journal.filter (fun e => !(own e.2 && e.2.state == 3)) })

/-- R80: the trace of a launch that ends: its header, and the pointer moved past it. -/
def State.closeTrace (s : State) (lid : Nat) (stages : Nat) : State :=
  let g := s.gang lid
  let t := g.trace
  if g.level < 2 then s
  else
    let next := t.start + roundUp (64 + 16 * t.count) 64
    let wd := (List.range 6).foldl (fun x j => x + g.widths.getD j 0 * 2 ^ (6 * j)) 0
    let s1 :=
      if g.level = 3 then s
      else if t.stop < t.start + 64 then s.setGang lid { g with trace := { t with ovf := true } }
      else
        match s.walkWrite g.ctx t.start (traceHead (s.geometry g.span g.stride stages wd g.extents) t.ovf t.count) with
        | some s1 => s1
        | none => s.setGang lid { g with trace := { t with bad := true } }
    match s1.qdesc g.ctx g.queue with
    | some d => s1.putLevel g.ctx g.queue d.level next
    | none => s1

/-- The status with which a launch that ran whole ends (R80). (DEDUCED, log 59.) -/
def Gang.endStatus (g : Gang) : Nat :=
  if g.level ≠ 2 then 0
  else if g.trace.bad then ADDRESS
  else if g.trace.ovf then TRACE_OVF
  else 0

/-- A PREEMPT that was stopping the gang of a queue completes: the gang is over, or stopped. -/
def State.releaseStopper (s : State) (p q : Nat) : State :=
  match (s.head p q).stopper with
  | some w => (s.modHead p q (fun h => { h with stopper := none })).complete p w 0
  | none => s
/-- The head of a gang that ends completes, and so does a PREEMPT that was stopping it. -/
def State.stopEnds (s : State) (p q status : Nat) : State := (s.releaseStopper p q).complete p q status

/-- What a gang that is over released: the ENDs of its items, what its vcores had acquired when they were stopped, and all its accesses
(R63, R71). -/
def State.gangClock (s : State) (lid : Nat) : Sparse Nat :=
  let ends := (s.gang lid).ends.foldl (fun c x => joinClock c x.2) [(overKey lid, 1)]
  let here := (s.slots.filter (fun x => (x.2.live || x.2.detached) && x.2.lid == lid)).foldl (fun c x => joinClock c x.2.known.clock) ends
  (s.parked.filter (fun x => x.1 / 2 ^ 12 == lid)).foldl (fun c x => joinClock c x.2.slot.known.clock) here

/-- The statuses of a packet whose launch has ended before its time: ABORTED is the packet's own (R389), and what a tail child met is
TSTATUS (R63, R71). -/
def QHead.endedEarly (h : QHead) (e : Nat) : QHead :=
  { h with status := if e = ABORTED ∨ h.ntail = 0 then e else h.status, tstatus := if h.ntail = 0 then h.tstatus else e }

/-- R71, R388: a gang is over; `early` is the status with which it was stopped for good. The head completes, or its tail child
takes its place; the packet of a pipeline waits for its sink. -/
def State.gangEnd (s : State) (lid : Nat) (early : Option Nat) : State :=
  let g := s.gang lid
  let p := g.ctx
  let q := g.queue
  let pk := g.pipe.map (fun i => p * 4 + i)
  let stages := match pk with | some x => fld (s.pipe x).decl.toNat 0 5 | none => 0
  let s0 := s.modHead p q (fun h => { h with effects := joinClock h.effects (s.gangClock lid) })
  let s1 := ((s0.closeTrace lid stages).cyclesOver lid).exchangesOver p lid
  let st := (s1.gang lid).endStatus
  let s2 := { s1 with gangs := Sparse.drop s1.gangs lid, parked := s1.parked.filter (fun x => x.1 / 2 ^ 12 != lid) }
  let h := s2.head p q
  match early, pk with
  | some e, some x =>
    let owed := (s2.pipe x).buffer.filterMap (·.queue) ++ (s2.pipe x).recs.filterMap (fun r => r.splice.bind (·.queue))
    owed.foldl (fun (s : State) w => s.complete p w 0x39) (({ s2 with pipes := Sparse.drop s2.pipes x }).stopEnds p q e)
  | some e, none => (s2.setHead p q (h.endedEarly e)).stopEnds p q (h.endedEarly e).status
  | none, some x =>
    if (s2.pipe x).sunk then ({ s2 with pipes := Sparse.drop s2.pipes x }).stopEnds p q st
    else (s2.releaseStopper p q).modHead p q (fun h => { h with status := st, phase := 2 })
  | none, none =>
    let h1 := if h.ntail = 0 then { h with status := st } else { h with tstatus := st }
    if h1.tail.isSome then (s2.setHead p q { h1 with phase := 7, lid := 0 }).releaseStopper p q
    else (s2.setHead p q h1).stopEnds p q h1.status

/-- R31, R388: a vcore leaves its slot for good; the last one ends its gang, with REPLAY_DIVERGE where the trace still names events of its
cores (R81). -/
def State.leave (s : State) (key : Nat) : State :=
  let lid := (s.slot key).lid
  let v := (s.slot key).vcore
  let s1 := ((s.freeSlot key).modGang lid (fun g => { g with retired := g.retired ++ [v] })).settleHurdles lid
  let g := s1.gang lid
  if g.retired.length ≠ g.vcores then s1.cycleGone g.ctx lid v
  else if g.level = 3 ∧ g.trace.left.any (fun e => decide (e.ev < 4)) then
    (s1.modHead g.ctx g.queue (fun h => { h with tail := none })).gangEnd lid (some REPLAY_DIVERGE)
  else s1.gangEnd lid none
/-- R31: a vcore that can retire leaves its slot. -/
def State.retire (s : State) (key : Nat) : State := if (s.slot key).live && s.canRetire key then s.leave key else s

/-- Vcores of a context whose work has retired (R31). -/
def State.settleRetired (s : State) (p : Nat) : State :=
  (s.slots.filter (fun x => x.2.live && x.2.ended && s.paddockOf (x.1 / 16) == p)).foldl (fun (s : State) x => s.retire x.1) s

/-! ### END (R29, R133) -/

/-- The item of a slot has ended: the next is due, or the vcore ends. -/
def State.nextItem (s : State) (key : Nat) : State :=
  let sl := s.slot key
  let g := s.gang sl.lid
  let i := g.itemOf sl.wid.toNat + 1
  let s0 := s.modGang sl.lid (fun g => { g with ends := g.ends ++ [(sl.wid.toNat, s.releaseClock (hartOfSlot key))] })
  let s1 := (if sl.worker then s0 else s0.traceEvent sl.lid (s.itemEvent key 1)).modCtx (hartOfSlot key) (fun c => { c with live := false, waitFrom := none })
  if !sl.worker && decide (i < g.items) then
    ((s1.modSlot key (fun l => { l with wid := BitVec.ofNat 64 (g.itemWid sl.vcore i), startDue := true })).startItems (key / 16)).settleHurdles sl.lid
  else (((s1.modSlot key (fun l => { l with ended := true })).startItems (key / 16)).settleHurdles sl.lid).retire key

/-- R133 END: waits for the counters; in a stage worker it needs a PPOP that has returned 0 (R334). -/
def endItemBody (_ : Fields) (s : State) : Exec Out := do
  let k := s.cur
  let sl := s.slotOf k
  if (s.ctx k).sb.any (fun x => x.2 != 0) then .error (.stay s)
  else
    need (!sl.worker || sl.work.lastZero) PERM 0
    if (s.gang sl.lid).mayHave (s.itemEvent (s.slotKeyOf k) 1) || sl.worker then .ok { s := s.nextItem (s.slotKeyOf k), next := .gone }
    else .error (.stay s)
def execEndItem (f : Fields) (s : State) : Result := runScalar f (endItemBody f) s

/-! ### TAIL (R33, R34, R134) -/

/-- R34: the Drover's answer to a tail request of a slot. -/
def State.tailStatus (s : State) (sl : Slot) : Nat :=
  let g := s.gang sl.lid
  if sl.worker then 3
  else if g.level ≠ 0 && sl.vcore != 0 then 2
  else if (s.head g.ctx g.queue).tail.isSome then 1
  else 0

/-- The places of an access that is not aligned to its size: two, where a page of SPACE 0 ends within it. -/
def spanAccess (k : Nat) (rq : Req) (r : CReg) (off : Int) (s : State) : Exec (State × List (Loc × Nat)) := do
  let (c, a) ← capCheck s k rq r off
  let room := if c.space = 0 then 2 ^ 19 - a % 2 ^ 19 else rq.n
  if rq.n ≤ room then do
    let (s1, l) ← memAccess s k rq r off false false
    .ok (s1, [(l, rq.n)])
  else do
    let (s1, l) ← memAccess s k { rq with n := room } r off false false
    let (s2, m) ← memAccess s1 k { rq with n := rq.n - room } r (off + room) false false
    .ok (s2, [(l, room), (m, rq.n - room)])
/-- How a load of such places ends. -/
def Out.spans (k : Nat) (o : Out) (ls : List (Loc × Nat)) : Out :=
  ls.foldl (fun (o : Out) p => Out.loads { o with s := o.s.noteAccess k p.1 0 } p.1 p.2) o
/-- The bytes at the places of an access. -/
def State.spanBytes (s : State) (ls : List (Loc × Nat)) : List Byte := ls.flatMap (fun p => s.bytesAt p.1.key p.2)

/-- R134 TAIL; one whose read traps has no effect (R34). (DEDUCED, log 92.) -/
def tailBody (f : Fields) (s : State) : Exec Out := do
  let k := s.cur
  let rq : Req := { op := 0x0C8, field := 2, opnd := f.a, n := 48, al := 16, ld := true, st := false, spaces := [0, 1, 5] }
  let (s1, ls) ← spanAccess k rq (s.capOpnd f.a) (offsetOf f) s
  let o := Out.spans k { s := s1 } ls
  match o.next with
  | .seq =>
    let sl := s.slotOf k
    let g := s.gang sl.lid
    let st := s.tailStatus sl
    let s2 := if st = 0 then o.s.modHead g.ctx g.queue (fun h => { h with tail := some (BitVec.ofNat 384 (bytesToNat (s.spanBytes ls))) }) else o.s
    done ((s2.setD f.d (CReg.word st)).setOwnGuard f (st == 0))
  | _ => .ok o
def execTail (f : Fields) (s : State) : Result := runScalar f (tailBody f) s

/-! ### The end of a gang before its time (R81, R389) -/

/-- The engine work of a slot is given up without entries: unstarted commands and FORK lists, what is in hand, with handlers that run, and
completions that wait (R389). -/
def State.dropEngineWork (s : State) (core slot : Nat) : State :=
  let mine (c : Cmd) : Bool := c.from core slot
  let keep (q : QItem) : Bool := match q with | .cmd c => !(mine c) | .list _ => true
  let s1 := (foldCores core).foldl (fun (s : State) m => (List.range 4).foldl (fun (s : State) d =>
    let k := drainKey m d
    if (s.ctx k).live && mine (s.drainRun k).cmd then (s.dropMisses k).modCtx k (fun c => { c with live := false }) else s) s) s
  let s2 := forkEngines.foldl (fun (s : State) e => s.modEngine core e (fun x => { x with queue := x.queue.filter (fun q => q != .list slot) })) s1
  (foldCores core).foldl (fun (s : State) m => forkEngines.foldl (fun (s : State) e =>
    let gone := (s.engine m e).unretired.filter mine
    if gone.isEmpty then s
    else
      let t := (s.modEngine m e (fun x =>
        { x with queue := x.queue.filter keep, run := x.run.filter (fun r => !(mine r.cmd)), parts := x.parts.filter (fun r => !(mine r.cmd))
                 done := x.done.filter (fun d => !(mine d.cmd)) })).modCore m (fun C =>
          { C with ranges := C.ranges.filter (fun r => !(r.engine == e && gone.any (fun c => c.id == r.cmd))) })
      if (s.engine m e).run.any (fun r => mine r.cmd) then t.dropEngMisses m e else t) s) s2

/-- R388: an entry of a journal or of a retry buffer that a vcore of a gang made has not retired. -/
def State.owesEntries (s : State) (lid : Nat) : Bool :=
  s.slots.any (fun x => x.2.journal.any (fun e => (e.2.state == 1 || e.2.state == 2) && e.2.lid == lid) || x.2.retry.any (fun e => e.2.lid == lid))

/-- R388, R389: a gang that has been stopped for good ends with a status, without a record of it. (DEDUCED, log 62.) -/
def State.endKilled (s : State) (lid status : Nat) : State :=
  let mine := s.slots.filter (fun x => (x.2.live || x.2.detached) && x.2.lid == lid)
  let s0 := s.modHead (s.gang lid).ctx (s.gang lid).queue (fun h => { h with effects := joinClock h.effects (s.gangClock lid) })
  (mine.foldl (fun (s : State) x => (s.dropEngineWork (x.1 / 16) (x.1 % 16)).freeSlot x.1) s0).gangEnd lid (some status)

end Sys2Proof.Machine
end

