-- ==== Sys2Proof/Machine/Reduction.lean ====
section
/-!
DEFINITION. Combining reductions (R294 to R303, R316, R317).

An input of a router is a number: 0 to 15 a core of the Fold, 16 its service core, 16 + p its port p.
-/

namespace Sys2Proof.Machine

/-! ### Tree entries and headers -/

/-- A tree entry of a router (R296). -/
def State.treeEntry (s : State) (fold t : Nat) : Nat := (Sparse.get 0 (s.fold fold).rregs (8 * t)).toNat
def treeValid (te : Nat) : Bool := bitAt te 63
def treeParent (te : Nat) : Nat := fld te 60 3
/-- The expected inputs of a tree entry: the cores of LOCAL and the ports of CHILD. -/
def treeInputs (te : Nat) : List Nat :=
  ((List.range 17).filter (bitAt te)) ++ (((List.range 4).filter (fun i => bitAt te (48 + i))).map (fun i => 17 + i))
/-- The router beyond a port; none at the edge of the mesh (R2, R296). -/
def portFold (fold port : Nat) : Option Nat :=
  match port with
  | 1 => if fold < 16 then none else some (fold - 16)
  | 2 => if fold % 16 = 15 then none else some (fold + 1)
  | 3 => if Config.folds ≤ fold + 16 then none else some (fold + 16)
  | 4 => if fold % 16 = 0 then none else some (fold - 1)
  | _ => none
/-- The port of the router beyond that faces back. -/
def facing (port : Nat) : Nat := (port + 1) % 4 + 1

def hdrSeq (h : Nat) : Nat := fld h 48 16
def hdrGroup (h : Nat) : Nat := fld h 40 8
def hdrTree (h : Nat) : Nat := fld h 36 4
def hdrNM1 (h : Nat) : Nat := fld h 24 6
def hdrOp (h : Nat) : Nat := fld h 22 2
def hdrBf (h : Nat) : Bool := bitAt h 21
def hdrInvalid (h : Nat) : Bool := bitAt h 20
def hdrTo (h : Nat) : Bool := bitAt h 19
def hdrStatus (h : Nat) : Nat := fld h 16 3

/-- Elements of a payload, and bytes of one. -/
def wireCount (bf : Bool) : Nat := if bf then 32 else 16
def wireBytes (bf : Bool) : Nat := if bf then 2 else 4

/-! ### Arithmetic (R297) -/

/-- A wire value as FP32. -/
def widen (bf : Bool) (x : Nat) : Nat := if bf then x * 2 ^ 16 else x
/-- R297 RoundWire, of an FP32 pattern. -/
def roundWire (bf : Bool) (x : Nat) : Nat :=
  if isNaN 23 x then canonNaN (if bf then 7 else 23) else if bf then (roundVal 7 0 (fval 23 x)).1 else x
/-- One element of an entry, from its inputs in the order of R297: the wire value, and whether it is invalid. -/
def combine (op : Nat) (bf : Bool) (xs : List Nat) : Nat × Bool :=
  let ys := xs.map (widen bf)
  let r :=
    if ys.any (isNaN 23) then canonNaN 23
    else if op = 0 then seqSumF32 ys
    else
      match ys with
      | [] => 0
      | y :: rest => rest.foldl (fun m x => if decide (orderKey 23 m ≤ orderKey 23 x) == (op == 1) then x else m) y
  (roundWire bf r, isNaN 23 r)

/-! ### REDC (R294) -/

def redcBody (f : Fields) (s : State) : Exec Out := do
  let k := s.cur
  let core := coreOf k
  let w ← s.dataOpnd 0x324 3 f.b
  need (fld w 0 24 == 0 && decide (fld w 30 6 ≤ fld w 24 6)) BOUNDS w
  let bf := bitAt f.md.toNat 6
  let a0 := opndNum f.a
  if bf && decide (31 < a0 + 1) then operandTrap s 0x324 f 9 2 f.a
  else
    let rq : Req := { op := 0x324, field := 1, opnd := f.d, n := 64, al := 64, ld := false, st := true, spaces := [0, 1] }
    let (s, l) ← memAccess s k rq (s.capOpnd f.d) (offsetOf f) false false
    let te := s.treeEntry (foldOf core) (fld w 36 4)
    let input := if isService core then 16 else core % 16
    need (treeValid te && bitAt te input) PERM (Config.freeTval 0x324 (fld w 36 4))
    let xs := ((s.ctx k).lanes32 a0 (wireCount bf)).map (roundWire bf)
    let bad := ((s.ctx k).lanes32 a0 (wireCount bf)).any (isNaN 23)
    let h := w / 2 ^ 24 * 2 ^ 24 + f.mod 0 2 * 2 ^ 22 + (if bf then 2 ^ 21 else 0) + (if bad then 2 ^ 20 else 0)
    let t := s.modFold (foldOf core) (fun F => { F with arriving := F.arriving ++ [{ input := input, header := h, cset := 2 ^ fld w 30 6, elems := xs, stamp := s.turn }] })
    let r : Redc :=
      { tree := fld w 36 4, group := fld w 40 8, seq := fld w 48 16, space := l.space, addr := if l.space = 0 then l.key else l.addr
        page := l.page, core := core, stamp := s.turn }
    done (t.modSlot (s.slotKeyOf k) (fun x => { x with redcs := x.redcs ++ [r] }))
def execRedc (f : Fields) (s : State) : Result := runScalar f (redcBody f) s

/-! ### Combining (R298, R299) -/

/-- A count register of a router goes up by one. -/
def State.countUp (s : State) (fold off : Nat) : State :=
  s.modFold fold (fun F => { F with rregs := F.rregs.put off (Sparse.get 0 F.rregs off + 1) })

/-- A result sets out down the tree from a router. (DEDUCED, log 46.) -/
def State.sendDown (s : State) (fold : Nat) (header cset : Nat) (elems : List Nat) : State :=
  s.modFold fold (fun F => { F with results := F.results ++ [{ input := 32, header := header, cset := cset, elems := elems }] })

/-- The set of all contributors. -/
def fullSet (h : Nat) : Nat := 2 ^ (hdrNM1 h + 1) - 1

/-- R299: the Bellwether's result for an accumulated set. (DEDUCED, log 45.) -/
def State.conclude (s : State) (fold header cset : Nat) (elems : List Nat) : State :=
  if cset = fullSet header then s.sendDown fold header cset elems
  else s.sendDown fold (setFld header 16 3 1) cset (List.replicate (wireCount (hdrBf header)) 0)

/-- Packets in the order of their inputs (R297). -/
def insertPacket (p : RedPacket) : List RedPacket → List RedPacket
  | [] => [p]
  | q :: qs => if p.input ≤ q.input then p :: q :: qs else q :: insertPacket p qs
def sortPackets : List RedPacket → List RedPacket
  | [] => []
  | p :: ps => insertPacket p (sortPackets ps)

/-- The header and payload of an entry that is done, and its accumulated set: packets in the order of their inputs. -/
def entrySum (e : CombEntry) : Nat × Nat × List Nat :=
  let ps := sortPackets e.packets
  let h0 := (e.packets.headD default).header
  let bf := hdrBf h0
  let rs := (List.range (wireCount bf)).map (fun j => combine (hdrOp h0) bf (ps.map (fun p => p.elems.getD j 0)))
  let bad := ps.any (fun p => hdrInvalid p.header) || rs.any (·.2)
  let late := e.timedOut || ps.any (fun p => hdrTo p.header)
  let h := setFld (setFld (setFld (setFld (setFld h0 30 6 0) 20 1 (if bad then 1 else 0)) 19 1 (if late then 1 else 0)) 16 3 0) 0 16 0
  (h, e.packets.foldl (fun c p => c ||| p.cset) 0, rs.map (·.1))

/-- RTIMEOUT of a router in nanoseconds. -/
def State.rtimeoutNs (s : State) (fold : Nat) : Nat := (s.fold fold).rtimeout * 1000

/-- An Olgus port is up; in enclave mode one is enabled once both ends have authenticated, and traffic leaves by no other (R383, R398).
The LINKST code of an enabled port is 3. -/
def State.portEnabled (s : State) (port : Nat) : Bool := s.linkOf port == 3

/-- An entry is done: it goes up, is delivered, or leaves the module (R298, R303). -/
def State.entryDone (s : State) (fold : Nat) (e : CombEntry) : State :=
  let (h, cset, xs) := entrySum e
  let t := s.modFold fold (fun F =>
    { F with comb := F.comb.filter (fun x => !(x.tree == e.tree && x.group == e.group && x.seq == e.seq)), lastSeq := F.lastSeq.put e.group e.seq })
  match treeParent e.latched with
  | 0 => t.conclude fold h cset xs
  | 7 =>
    let port := fld e.latched 56 4
    t.modFold fold (fun F =>
      { F with pushed := F.pushed ++ [{ header := h, cset := cset, gaddr := Sparse.get 0 F.rregs (0x80 + 8 * e.tree), elems := xs
                                        port := if s.portEnabled port then some port else none, due := s.time + s.rtimeoutNs fold }] })
  | p =>
    match portFold fold p with
    | some up => t.modFold up (fun F => { F with arriving := F.arriving ++ [{ input := 16 + facing p, header := h, cset := cset, elems := xs }] })
    | none => t

/-- R298: a packet is late. -/
def isLate (last seq : Nat) : Bool := let d := (seq + 2 ^ 16 - last) % 2 ^ 16; d == 0 || decide (2 ^ 15 ≤ d)

/-- An entry holds every expected input. -/
def CombEntry.full (e : CombEntry) : Bool := (treeInputs e.latched).all (fun i => e.packets.any (fun p => p.input == i))

/-- What a router does with a packet: `none` where it must wait at its input. (DEDUCED, log 47.) -/
def State.takePacket (s : State) (fold : Nat) (p : RedPacket) : Option State :=
  let F := s.fold fold
  let t := hdrTree p.header
  let g := hdrGroup p.header
  let q := hdrSeq p.header
  if isLate (Sparse.get 0 F.lastSeq g) q then
    let u := s.countUp fold 0x110
    if 16 < p.input then some u
    else some (u.modFold fold (fun F =>
      { F with results := F.results ++ [{ p with header := setFld p.header 16 3 1, cset := 0, elems := List.replicate (wireCount (hdrBf p.header)) 0
                                                 late := true }] }))
  else
    match F.comb.find? (fun e => e.tree == t && e.group == g && e.seq == q) with
    | some e =>
      if !((treeInputs e.latched).contains p.input) || e.packets.any (fun x => x.input == p.input) ||
          (e.packets.foldl (fun c x => c ||| x.cset) 0) &&& p.cset != 0 then some (s.countUp fold 0x108)
      else
        let e1 := { e with packets := e.packets ++ [p] }
        if e1.full then some (s.entryDone fold e1)
        else some (s.modFold fold (fun F => { F with comb := F.comb.map (fun x => if x = e then e1 else x) }))
    | none =>
      let te := s.treeEntry fold t
      if !(treeValid te) || !((treeInputs te).contains p.input) then some (s.countUp fold 0x108)
      else if 64 ≤ F.comb.length then none
      else
        let e : CombEntry := { tree := t, group := g, seq := q, latched := te, due := s.time + s.rtimeoutNs fold, packets := [p] }
        if e.full then some (s.entryDone fold e) else some (s.modFold fold (fun F => { F with comb := F.comb ++ [e] }))

/-- The first of the arriving packets that the router can take; those before it wait at their inputs, in order. -/
def takeFirst (s : State) (fold : Nat) (before : List RedPacket) : List RedPacket → State
  | [] => s
  | p :: ps =>
    let t := s.modFold fold (fun F => { F with arriving := before ++ ps })
    match (if before.any (fun x => x.input == p.input) then none else t.takePacket fold p) with
    | some u => u
    | none => takeFirst s fold (before ++ [p]) ps

/-- R298: a router adds, discards or answers a packet that has arrived. -/
def reductionPacketArrivalStep (fold : Nat) (s : State) : State := takeFirst s fold [] (s.fold fold).arriving
def execReductionPacketArrival (fold : Nat) (s : State) : Result := .next (reductionPacketArrivalStep fold s)

/-- R298: an entry's timer expires, RTIMEOUT after its creation. -/
def reductionEntryTimeoutStep (fold tree group seq : Nat) (s : State) : State :=
  match (s.fold fold).comb.find? (fun e => e.tree == tree && e.group == group && e.seq == seq) with
  | some e =>
    if e.due ≤ s.time then (s.countUp fold 0x118).entryDone fold { e with timedOut := true } else s
  | none => s
def execReductionEntryTimeout (fold tree group seq : Nat) (s : State) : Result := .next (reductionEntryTimeoutStep fold tree group seq s)

/-! ### Results (R300, R317) -/

/-- The payload's bytes. -/
def payloadBytes (p : RedPacket) : List Byte := p.elems.flatMap (natToBytes (wireBytes (hdrBf p.header)))

/-- R300: the status of a result. -/
def redStatus (h : Nat) : Nat :=
  match hdrStatus h with
  | 0 => if hdrInvalid h then 0x02 else 0x00
  | 1 => 0x1C
  | _ => 0x1D

/-- The number of bits set. -/
def popcount (x : Nat) : Nat := ((List.range 64).filter (bitAt x)).length

/-- R300: the inbox entry of a result. -/
def redEntry (p : RedPacket) : BitVec 128 :=
  let missing := if p.late then 0 else fullSet p.header - (fullSet p.header &&& p.cset)
  inboxEntry (hdrSeq p.header) 5 (redStatus p.header) (popcount p.cset) missing

/-- A contribution that a result answers; a late one's answer is for it alone. -/
def Redc.answeredBy (r : Redc) (p : RedPacket) : Bool :=
  r.tree == hdrTree p.header && r.group == hdrGroup p.header && r.seq == hdrSeq p.header && (!p.late || r.stamp == p.stamp)

/-- Some vcore has an outstanding REDC that it contributed at a core and that a result answers, wherever the vcore is now. -/
def State.awaitsResult (s : State) (core : Nat) (p : RedPacket) : Bool :=
  let mine (l : Slot) : Bool := l.redcs.any (fun r => r.core == core && r.answeredBy p)
  s.slots.any (fun e => (e.2.live || e.2.detached) && mine e.2) || s.parked.any (fun e => mine e.2.slot)
/-- The result buffer of a REDC: a buffer of a core is that of the core where the vcore is. -/
def Redc.place (r : Redc) (core : Nat) : Nat := if r.space = 0 then r.addr else placeKey r.space core r.addr
/-- R317: a result at a core: each context with an outstanding REDC of the key receives the payload, and then the entry, one of them now;
one that is not resident is waited for, and one that has gone on at another core receives them there (R365). After the last the result is
`gone`. The entry waits for the inbox. `none` where the result waits. -/
def State.deliverResult (s : State) (core : Nat) (p : RedPacket) (gone : State → State) : Option State :=
  let hit (r : Redc) : Bool := r.core == core && r.answeredBy p
  match s.slots.find? (fun e => e.2.live && e.2.resident && e.2.redcs.any (fun r => hit r && (!r.paid || e.2.inboxRoom))) with
  | some (key, l) =>
    let t := (l.redcs.filter (fun r => hit r && !r.paid)).foldl (fun (t : State) r => t.storeBytes (r.place (key / 16)) (payloadBytes p)) s
    if l.inboxRoom then
      let u := (t.modSlot key (fun x => { x with redcs := x.redcs.filter (fun r => !(hit r)) })).putInbox key { val := redEntry p }
      some (if u.awaitsResult core p then u else gone u)
    else some (t.modSlot key (fun x => { x with redcs := x.redcs.map (fun r => if hit r then { r with paid := true } else r) }))
  | none => if s.awaitsResult core p then none else some (gone s)

/-- What became of a result at a router or at one of its cores: it stays, or is dealt with. -/
def State.takeResult (s : State) (fold : Nat) (p : RedPacket) : Option State :=
  let drop (t : State) : State := t.modFold fold (fun F => { F with results := F.results.erase p })
  if 32 ≤ p.input then
    let te := s.treeEntry fold (hdrTree p.header)
    let t := (treeInputs te).foldl (fun (t : State) i =>
      if i ≤ 16 then t.modFold fold (fun F => { F with results := F.results ++ [{ p with input := i }] })
      else
        match portFold fold (i - 16) with
        | some down => t.modFold down (fun F => { F with results := F.results ++ [p] })
        | none => t) (drop s)
    some t
  else if p.input = 16 then
    let j := s.paddockOfFold fold
    let hit (h : QHead) : Bool :=
      h.waitsChunk && h.chunkGot.isNone && (!p.late || h.stamp == p.stamp) && fld h.packet.toNat 0 8 == 3 && fld (dw h.packet 6) 24 4 == hdrTree p.header &&
        fld (dw h.packet 6) 16 8 == hdrGroup p.header && (fld (dw h.packet 6) 0 16 + h.chunk) % 2 ^ 16 == hdrSeq p.header
    let got (h : QHead) : QHead := { h with chunkGot := some (redStatus p.header, BitVec.ofNat 512 (bytesToNat (payloadBytes p))) }
    if (s.foldsOf j).headD 0 = fold && (s.drover j).heads.any (fun e => hit e.2) then
      let t := s.modDrover j (fun d => { d with heads := d.heads.map (fun e => if hit e.2 then (e.1, got e.2) else e) })
      some ((t.deliverResult (Config.cores + fold) p drop).getD t)
    else s.deliverResult (Config.cores + fold) p drop
  else s.deliverResult (fold * 16 + p.input) p drop

/-- R300, R317: a result goes on down the tree, or reaches a core; one that waits for its slot lets later ones pass. -/
def reductionResultArrivalStep (fold : Nat) (s : State) : State := ((s.fold fold).results.findSome? (s.takeResult fold)).getD s
def execReductionResultArrival (fold : Nat) (s : State) : Result := .next (reductionResultArrivalStep fold s)

/-! ### Push mode (R303) -/

/-- A send whose return is awaited. -/
def State.pushedAt (s : State) (fold tree group seq : Nat) : Option PushSent :=
  (s.fold fold).pushed.find? (fun x => hdrTree x.header == tree && hdrGroup x.header == group && hdrSeq x.header == seq)
def State.dropPushed (s : State) (fold : Nat) (x : PushSent) : State := s.modFold fold (fun F => { F with pushed := F.pushed.erase x })

/-- The elements of a payload. -/
def wireElems (bf : Bool) (x : BitVec 512) : List Nat :=
  (List.range (wireCount bf)).map (fun j => fld x.toNat (8 * wireBytes bf * j) (8 * wireBytes bf))

/-- The switch's return is the result, where the port that the send left by is enabled (R383); a further copy is late. (DEDUCED, log 48.) -/
def pushModeReturnStep (fold : Nat) (gaddr header cset : Word64) (payload : BitVec 512) (s : State) : State :=
  let h := header.toNat
  match s.pushedAt fold (hdrTree h) (hdrGroup h) (hdrSeq h) with
  | some x =>
    if x.gaddr ≠ gaddr || x.port.all (fun q => !(s.portEnabled q)) then s
    else
      let h1 := setFld (setFld x.header 20 1 (fld h 20 1)) 16 3 (fld h 16 3)
      (s.dropPushed fold x).sendDown fold h1 cset.toNat (wireElems (hdrBf x.header) payload)
  | none => s.countUp fold 0x110
def execPushModeReturn (fold : Nat) (gaddr header cset : Word64) (payload : BitVec 512) (s : State) : Result :=
  .next (pushModeReturnStep fold gaddr header cset payload s)

/-- No return within RTIMEOUT: TIMEOUT with the module's own missing set. -/
def pushModeTimeoutStep (fold tree group seq : Nat) (s : State) : State :=
  match s.pushedAt fold tree group seq with
  | some x =>
    if x.due ≤ s.time then
      (s.dropPushed fold x).sendDown fold (setFld x.header 16 3 1) x.cset (List.replicate (wireCount (hdrBf x.header)) 0)
    else s
  | none => s
def execPushModeTimeout (fold tree group seq : Nat) (s : State) : Result := .next (pushModeTimeoutStep fold tree group seq s)

end Sys2Proof.Machine
end

