-- ==== Sys2Proof/Machine/Drover.lean ====
section
/-!
DEFINITION. The Drover's queues: doorbells (R60), readiness and reserving (R62, R69), the lottery (R68), the packets of R64 but for
PIPE (R65 to R67, R302), priorities (R82), and the registers with an effect (R58, R60, R369).
-/

namespace Sys2Proof.Machine

/-! ### Packets (R63 to R65) -/

def pkKind (x : BitVec 512) : Nat := fld x.toNat 0 8
def pkKarg (x : BitVec 512) : Nat := fld x.toNat 32 32
/-- PREEMPT's target (R65). -/
def pkTarget (x : BitVec 512) : Nat := fld x.toNat 32 6

/-- R302: the layout of a COLL body, and a Fold for each participant. -/
def collForm (folds : Nat) (x : BitVec 512) : Bool :=
  let len := fld (dw x 4) 0 32
  pkKarg x == 0 && fld (dw x 2) 56 8 == 0 && fld (dw x 3) 56 8 == 0 && dw x 2 % 64 == 0 && dw x 3 % 64 == 0 && fld (dw x 4) 32 32 == 0 &&
    len % (if bitAt (dw x 6) 30 then 128 else 64) == 0 && decide (64 ≤ len) && dw x 5 % 64 == 0 && fld (dw x 6) 28 2 != 3 &&
    !(bitAt (dw x 6) 31) && fld (dw x 6) 38 26 == 0 && dw x 7 == 0 && decide (fld (dw x 6) 32 6 + 1 ≤ folds)

/-- R64, R65: whether a packet keeps its layout; a launch header and a PIPE body are checked when they start. Bits [63:56] of an address in
a body count as reserved (DESIGN CHOICE, log 104). -/
def packetOk (folds : Nat) (x : BitVec 512) : Bool :=
  let zero (lo n : Nat) : Bool := fld x.toNat lo n == 0
  zero 9 7 &&
    (match pkKind x with
     | 1 => pkKarg x == 0
     | 2 => true
     | 3 => collForm folds x
     | 4 => zero 34 30 && zero 184 8 && zero 128 3 && zero 256 256 && (decide (2 ≤ pkKarg x) || (dw x 2 == 0 && dw x 3 == 0))
     | 5 => zero 33 31 && zero 128 384
     | 6 => zero 33 31 && zero 184 8 && zero 128 3 && zero 256 256
     | 7 => zero 34 30 && zero 184 8 && zero 128 3 && zero 384 128
     | 8 => zero 39 25 && zero 128 384
     | _ => false)

/-! ### Slots that a head needs (R62, R69) -/

/-- The slots that placement gives a head, none for one that places nothing or is refused (R72). -/
def State.headSlots (s : State) (p : Nat) (h : QHead) : List (Nat × Nat) :=
  let launch (l : BitVec 384) : List (Nat × Nat) :=
    if lhSpan l ≤ 6 ∧ lhStride l ≤ 11 ∧ lhGang l ≤ 4096 then (s.placement p (lhGang l) (lhStride l)).getD [] else []
  if h.phase = 3 ∨ h.phase = 6 then (s.parked.filter (fun x => x.1 / 2 ^ 12 == h.lid)).map (fun x => (x.2.key / 16, x.2.key % 16))
  else
    match h.tail with
    | some l => launch l
    | none =>
      match pkKind h.packet with
      | 1 => launch (packetHeader h.packet)
      | 2 =>
        if bitAt h.packet.toNat 32 then []
        else
          match s.walkNat p (fld (dw h.packet 3) 0 56) 64 with
          | some b => (s.placement p (fld b (64 * 5 + 16) 12 + 1) (fld b (64 * 5 + 28) 4)).getD []
          | none => []
      | _ => []

/-- Launches other than a head's own whose vcores hold slots that it needs. -/
def State.holders (s : State) (p : Nat) (h : QHead) : List Nat :=
  ((s.headSlots p h).filterMap (fun x =>
    let sl := s.slot (slotKey x.1 x.2)
    if (sl.live || sl.detached) && !(sl.lid == h.lid && h.lid != 0) then some sl.lid else none)).dedup

/-- A head that waits for slots, or has won them and starts: a launch, a START, a tail child, or a suspended gang. -/
def QHead.places (h : QHead) : Bool :=
  h.phase == 3 || h.phase == 6 || h.phase == 7 ||
    ((h.phase == 0 || h.phase == 1) && (pkKind h.packet == 1 || (pkKind h.packet == 2 && !(bitAt h.packet.toNat 32))))
/-- A head that needs slots: one that places, if its packet has a form that does not refuse it first (R68, R82). -/
def State.needsSlots (s : State) (p : Nat) (h : QHead) : Bool :=
  h.places && (!(h.phase == 0 || h.phase == 1) || packetOk (s.foldsOf p).length h.packet)
/-- A head whose decision has fallen keeps its slots until it has started (R68). -/
def QHead.claims (h : QHead) : Bool := h.phase == 1 || h.phase == 6

/-- Nothing but the head itself keeps a queue from dispatching (R62). -/
def State.queueOpen (s : State) (p q : Nat) : Bool :=
  match s.qdesc p q with
  | some d => d.en && !(s.queue p q).held && !(bitAt (s.drover p).qerr.toNat q)
  | none => false

def State.prio (s : State) (p q : Nat) : Nat := ((s.qdesc p q).map (·.prio)).getD 0

/-- R82: under PRIORITY a head goes before a suspended gang of lower PRIO. -/
def State.outranks (s : State) (p q q' : Nat) : Bool :=
  (s.drover p).prepol == 1 && (s.head p q').phase == 3 && decide (s.prio p q' < s.prio p q)

/-- R68, R69, R82: another head that starts, that is reserving, or that outranks this one, keeps a slot that this one needs. -/
def State.reservedAway (s : State) (p q : Nat) : Bool :=
  let h := s.head p q
  let mine := s.headSlots p h
  (s.drover p).heads.any (fun e =>
    let h' := e.2
    e.1 != q && s.needsSlots p h' && (s.headSlots p h').any (fun x => mine.contains x) &&
      (h'.claims || (s.outranks p e.1 q && s.queueOpen p e.1 && (s.holders p h').isEmpty) ||
        (!(s.outranks p q e.1) &&
          (match h'.reserving, h.reserving with
           | some t', some t => decide (t' < t) || (t' == t && decide (e.1 < q))
           | some _, none => true
           | none, _ => false))))

/-- R62: the slots are free, and none is kept for another. -/
def State.slotsReady (s : State) (p q : Nat) : Bool := (s.holders p (s.head p q)).isEmpty && !(s.reservedAway p q)

/-- R62: the head of a queue is ready. (DEDUCED, log 64.) -/
def State.queueReady (s : State) (p q : Nat) : Bool :=
  let h := s.head p q
  h.loaded && s.queueOpen p q &&
    (h.phase == 0 || h.phase == 3) &&
    (if s.needsSlots p h then s.slotsReady p q
     else if !(packetOk (s.foldsOf p).length h.packet) then true
     else
       match pkKind h.packet with
       | 5 => !(bitAt h.packet.toNat 32) || !((s.drover p).heads.any (fun e => e.1 != q && e.2.phase != 0))
       | 7 => h.cond != 0
       | _ => true)

/-! ### WAITV (R66) -/

/-- A WAITV at the head reads its condition, with acquire at SYSTEM scope. -/
def State.pollWaitv (s : State) (p q : Nat) : State :=
  let h := s.head p q
  if !(h.loaded && h.phase == 0 && pkKind h.packet == 7 && packetOk (s.foldsOf p).length h.packet && h.cond == 0) then s
  else
    let va := dw h.packet 2
    match s.walkNat p va 8, s.walkTo p va false with
    | some m, some pa =>
      let a := m &&& dw h.packet 4
      let b := dw h.packet 3 &&& dw h.packet 4
      let met := match fld h.packet.toNat 32 3 with | 0 => a == b | 1 => a != b | 2 => decide (b ≤ a) | _ => decide (a < b)
      if met then (s.queueLearns p q (s.droverAcquires pa 8)).modHead p q (fun h => { h with cond := 1 }) else s
    | _, _ => s.modHead p q (fun h => { h with cond := 2 })
/-- Every WAITV of a context reads again, as after a SIGNAL (R66). -/
def State.pollAll (s : State) (p : Nat) : State := (s.drover p).heads.foldl (fun (s : State) e => s.pollWaitv p e.1) s

/-! ### Stopping a gang (R66, R82, R366, R367) -/

/-- The bytes of a gang's suspension record: 0x6000 and its largest footprints (R367). -/
def State.recordBytes (s : State) (lid : Nat) : Nat :=
  let one (g : Prog) : Nat := 0x6000 + g.fpW + g.fpA + g.fpY + g.fpL
  (s.slots.filter (fun x => x.2.live && x.2.lid == lid)).foldl (fun n x => max n (one x.2.prog)) (one (s.gang lid).prog)

/-- R366: the gang that runs from a queue is signalled to stop. -/
def State.signalStop (s : State) (p q : Nat) (stopper : Option Nat) (hold : Bool) : State :=
  let lid := (s.head p q).lid
  let s1 : State := { s with slots := s.slots.map (fun (x : Nat × Slot) => (x.1, if x.2.live && x.2.lid == lid then { x.2 with stopping := true } else x.2)) }
  s1.modHead p q (fun h => { h with phase := 4, stopper := stopper, holding := hold })

/-- R81, R389: the gang of a queue ends with a status when the Crook has stopped it and its journal and retry entries have retired; a
suspended one has been stopped. Its tail request is dropped. (DEDUCED, log 62.) -/
def State.killGang (s : State) (lid status : Nat) : State :=
  let g := s.gang lid
  let s1 := (s.modHead g.ctx g.queue (fun h => { h with tail := none })).modGang lid (fun g => { g with endWith := some status })
  if g.suspended then
    (if s1.owesEntries lid then s1.modHead g.ctx g.queue (fun h => { h with phase := 4, reserving := none }) else s1.endKilled lid status)
  else if (s.head g.ctx g.queue).phase = 4 then s1
  else s1.signalStop g.ctx g.queue none false

/-- R389 ABORT. -/
def abortWStep (ctx : Nat) (value : Word64) (s : State) : State :=
  let q := fld value.toNat 0 6
  let lid := (s.head ctx q).lid
  if s.serving && s.ctxActive ctx && bitAt value.toNat 6 && (s.gang lid).live && (s.gang lid).queue == q && (s.gang lid).ctx == ctx then
    s.killGang lid ABORTED
  else s
def execAbortW (ctx : Nat) (value : Word64) (s : State) : Result := .next (abortWStep ctx value s)

/-- The gang that runs from a queue: its launch is live and is not being stopped. -/
def State.runsGang (s : State) (p q : Nat) : Bool := (s.head p q).phase == 2 && (s.head p q).lid != 0 && (s.gang (s.head p q).lid).live
/-- R367: the suspension area of a queue suffices for its gang. -/
def State.areaSuffices (s : State) (p q : Nat) : Bool :=
  s.pageReg p (0x300 + 8 * q) != 0 && decide (s.recordBytes (s.head p q).lid ≤ fld (s.pageReg p 0x2C0) 0 32)

/-- R82: under PRIORITY, gangs of lower PRIO that hold slots which a head needs are stopped. -/
def State.applyPriority (s : State) (p : Nat) : State :=
  if (s.drover p).prepol ≠ 1 then s
  else
    (s.drover p).heads.foldl (fun (s : State) e =>
      let h := s.head p e.1
      if h.loaded && s.needsSlots p h && s.queueOpen p e.1 then
        (s.holders p h).foldl (fun (s : State) lid =>
          let q' := (s.gang lid).queue
          if (s.gang lid).ctx == p && s.runsGang p q' && (s.head p q').lid == lid && decide (s.prio p q' < s.prio p e.1) && s.areaSuffices p q' then
            s.signalStop p q' none false
          else s) s
      else s) s

/-! ### DISPATCH (R68) -/

/-- R68: the next state of the lottery. -/
def xorshift (x : Nat) : Nat :=
  let a := x ^^^ (x * 2 ^ 13 % 2 ^ 32)
  let b := a ^^^ (a / 2 ^ 17)
  b ^^^ (b * 2 ^ 5 % 2 ^ 32)

/-- The queue at which the running sum of tickets passes `n`. -/
def pickTicket (n : Nat) : List (Nat × Nat) → Nat → Option Nat
  | [], _ => none
  | (q, t) :: rest, acc => if n < acc + t then some q else pickTicket n rest (acc + t)

/-- R68: the winner among ready queues, and the lottery's state. -/
def drawQueue (lot : Nat) (ready : List (Nat × Nat)) : Option Nat × Nat :=
  let total := (ready.map (·.2)).foldl (· + ·) 0
  if total = 0 then (ready.head?.map (·.1), lot) else (pickTicket (xorshift lot % total) ready 0, xorshift lot)

/-- R69: since when each head that waits for slots has not been ready. -/
def State.noteReady (s : State) (p : Nat) : State :=
  (s.drover p).heads.foldl (fun (s : State) e =>
    if e.2.places && (e.2.phase == 0 || e.2.phase == 7) then
      let ready := if e.2.phase = 7 then s.slotsReady p e.1 else s.queueReady p e.1
      s.modHead p e.1 (fun h => { h with notReady := if ready then none else some (h.notReady.getD s.time) })
    else s) s

/-- A decision is still starting its packet (R68). -/
def State.starting (s : State) (p : Nat) : Bool := (s.drover p).heads.any (fun e => e.2.phase == 1 || e.2.phase == 6)

/-- R68: one dispatch decision. -/
def State.takeDecision (s : State) (p : Nat) : State :=
  if s.starting p then s
  else
    let ready := ((List.range 64).filter (s.queueReady p)).map (fun q => (q, ((s.qdesc p q).map (·.tickets)).getD 0))
    match drawQueue (s.drover p).lotstate ready with
    | (none, _) => s
    | (some q, lot) =>
      let s1 := s.modDrover p (fun d => { d with lotstate := lot })
      let h := s1.head p q
      if h.phase = 3 then s1.setHead p q { h with phase := 6 }
      else if packetOk (s.foldsOf p).length h.packet then s1.setHead p q { h with phase := 1 }
      else s1.complete p q PACKET_FORM

/-! ### Doorbells (R60) -/

/-- R57, R60 DOORBELL. A write of d = 0 does nothing but notice HELD, where EN is 0 too (DESIGN CHOICE, log 103). -/
def doorbellStep (ctx queue : Nat) (value : BitVec 32) (s : State) : State :=
  if !(s.serving && s.ctxActive ctx && decide (queue < 64)) then s
  else
    let w := value.toNat
    let s1 := s.modDrover ctx (fun d => { d with doorbells := d.doorbells.put queue value })
    match s1.qdesc ctx queue with
    | none => s1.dberr ctx queue
    | some d =>
      let s2 := s1.modQueue ctx queue (fun x => { x with held := d.held })
      if w = d.wridx then s2
      else
        if d.en && d.ok && rung d w then
          let s3 := (s2.dropBells ctx queue).modQueue ctx queue (fun x => { x with bells := x.bells ++ [(s.qdescAt ctx queue, w, s.turn)] })
          ((s3.putDesc ctx queue 12 4 w).loadHead ctx queue).pollWaitv ctx queue
        else s2.dberr ctx queue
def execDoorbell (ctx queue : Nat) (value : BitVec 32) (s : State) : Result := .next (doorbellStep ctx queue value s)

/-- R60 QERR_CLEAR: the queue dispatches again. -/
def qerrClearStep (ctx : Nat) (value : Word64) (s : State) : State :=
  if !s.serving then s
  else
    let s1 := s.modDrover ctx (fun d => { d with qerr := d.qerr &&& ~~~value })
    ((List.range 64).filter (bitAt value.toNat)).foldl (fun (s : State) q => s.loadHead ctx q) s1
def execQerrClear (ctx : Nat) (value : Word64) (s : State) : Result := .next (qerrClearStep ctx value s)

/-- R58 LOTSEED. -/
def lotseedStep (ctx : Nat) (value : Word64) (s : State) : State :=
  if !s.serving then s
  else s.modDrover ctx (fun d => { d with lotstate := if fld value.toNat 0 32 = 0 then 0x2545F491 else fld value.toNat 0 32 })
def execLotseed (ctx : Nat) (value : Word64) (s : State) : Result := .next (lotseedStep ctx value s)

/-- R69 RESERVING: a head has not been ready for 100 µs. -/
def reservingStep (ctx queue : Nat) (s : State) : State :=
  let h := s.head ctx queue
  match h.notReady with
  | some t =>
    if h.loaded && (h.phase == 0 || h.phase == 7) && h.places && h.reserving.isNone && decide (t + 100000 ≤ s.time) then
      s.setHead ctx queue { h with reserving := some (t + 100000) }
    else s
  | none => s
def execReserving (ctx queue : Nat) (s : State) : Result := .next (reservingStep ctx queue s)

/-! ### The kinds of packets -/

/-- The head of a queue has won a decision, and is of a kind. -/
def State.begun (s : State) (p q kind : Nat) : Bool := (s.head p q).phase == 1 && pkKind (s.head p q).packet == kind

/-- A head that has won a decision and whose slots have been taken meanwhile, by a vcore that came back to them, waits again (R62). -/
def State.waitsAgain (s : State) (p q : Nat) : State := s.modHead p q (fun h => { h with phase := 0 })

/-- R67, R71 LAUNCH: the head's launch, or the tail child that takes its parent's place once its slots are free. -/
def launchStep (ctx queue : Nat) (s : State) : State :=
  let h := s.head ctx queue
  if s.begun ctx queue 1 then
    if !(s.holders ctx h).isEmpty then s.waitsAgain ctx queue
    else
      match s.tryLaunch ctx queue (((s.qdesc ctx queue).map (·.level)).getD 0) (packetHeader h.packet) with
      | .ok t => t
      | .error (st, t) => t.complete ctx queue st
  else
    match h.tail with
    | some l =>
      if h.phase = 7 && s.slotsReady ctx queue then
        match s.tryLaunch ctx queue h.level l with
        | .ok t => t.modHead ctx queue (fun x => { x with tail := none, ntail := x.ntail + 1 })
        | .error (st, t) => (t.modHead ctx queue (fun x => { x with tail := none, tstatus := st })).complete ctx queue h.status
      else s
    | none => s
def execLaunch (ctx queue : Nat) (s : State) : Result := .next (launchStep ctx queue s)

/-- R66, R80 DETLEVEL. -/
def detlevelStep (ctx queue : Nat) (s : State) : State :=
  if !(s.begun ctx queue 4) then s
  else
    let x := (s.head ctx queue).packet
    ((s.putLevel ctx queue (pkKarg x % 4) (dw x 2)).modQueue ctx queue (fun w => { w with traceEnd := dw x 2 + dw x 3 })).complete ctx queue 0
def execDetlevel (ctx queue : Nat) (s : State) : Result := .next (detlevelStep ctx queue s)

/-- R66 FENCE: its completion word covers the effects of every packet that it waited for. -/
def fencePacketStep (ctx queue : Nat) (s : State) : State :=
  if s.begun ctx queue 5 then
    let all := (s.drover ctx).queues.foldl (fun c x => joinClock (joinClock c x.2.clock) x.2.effects) []
    let t := if bitAt (s.head ctx queue).packet.toNat 32 then s.modQueue ctx queue (fun x => { x with effects := joinClock x.effects all }) else s
    t.complete ctx queue 0
  else s
def execFencePacket (ctx queue : Nat) (s : State) : Result := .next (fencePacketStep ctx queue s)

/-- R66 SIGNAL: one 8-byte release, after which every WAITV of the context reads again. -/
def State.signal (s : State) (p q : Nat) (add : Bool) : State :=
  let x := (s.head p q).packet
  match s.walkNat p (dw x 2) 8 with
  | none => s.complete p q ADDRESS
  | some m =>
    match s.droverRelease p q (dw x 2) ((if add then m + dw x 3 else dw x 3) % 2 ^ 64) with
    | some t => (t.pollAll p).complete p q 0
    | none => s.complete p q ADDRESS
def signalStoreStep (ctx queue : Nat) (s : State) : State :=
  if s.begun ctx queue 6 && !(bitAt (s.head ctx queue).packet.toNat 32) then s.signal ctx queue false else s
def execSignalStore (ctx queue : Nat) (s : State) : Result := .next (signalStoreStep ctx queue s)
def signalAddStep (ctx queue : Nat) (s : State) : State :=
  if s.begun ctx queue 6 && bitAt (s.head ctx queue).packet.toNat 32 then s.signal ctx queue true else s
def execSignalAdd (ctx queue : Nat) (s : State) : Result := .next (signalAddStep ctx queue s)

/-- R66 WAITV completes with what its last read, or its time-out, decided. -/
def waitvStep (ctx queue : Nat) (s : State) : State :=
  if s.begun ctx queue 7 then
    s.complete ctx queue (match (s.head ctx queue).cond with | 1 => 0 | 2 => ADDRESS | _ => WAIT_TIMEOUT)
  else s
def execWaitv (ctx queue : Nat) (s : State) : Result := .next (waitvStep ctx queue s)

/-- R66: a WAITV reads again. -/
def waitvPollStep (ctx queue : Nat) (s : State) : State := if s.serving then s.pollWaitv ctx queue else s
def execWaitvPoll (ctx queue : Nat) (s : State) : Result := .next (waitvPollStep ctx queue s)

/-- R66: TIMEOUT has passed since the packet became the head. -/
def waitTimeoutStep (ctx queue : Nat) (s : State) : State :=
  let h := s.head ctx queue
  if h.loaded && h.phase == 0 && pkKind h.packet == 7 && packetOk (s.foldsOf ctx).length h.packet && h.cond == 0 && dw h.packet 5 != 0 &&
      decide (h.since + dw h.packet 5 ≤ s.time) then
    s.setHead ctx queue { h with cond := 3 }
  else s
def execWaitTimeout (ctx queue : Nat) (s : State) : Result := .next (waitTimeoutStep ctx queue s)

/-- R66, R367 PREEMPT: the target's gang is signalled to stop; one that is being stopped already is waited for. (DEDUCED, log 63.) -/
def preemptStep (ctx queue : Nat) (s : State) : State :=
  if !(s.begun ctx queue 8) then s
  else
    let x := (s.head ctx queue).packet
    let t := pkTarget x
    if t = queue then s.complete ctx queue NO_TARGET
    else if (s.head ctx t).phase = 4 then
      (if (s.head ctx t).stopper.isSome then s
       else (s.modHead ctx t (fun h => { h with stopper := some queue, holding := h.holding || bitAt x.toNat 38 })).modHead ctx queue (fun h => { h with phase := 2, target := t }))
    else if !(s.runsGang ctx t) then s.complete ctx queue NO_TARGET
    else if !(s.areaSuffices ctx t) then s.complete ctx queue PX_SPACE
    else (s.signalStop ctx t (some queue) (bitAt x.toNat 38)).modHead ctx queue (fun h => { h with phase := 2, target := t })
def execPreempt (ctx queue : Nat) (s : State) : Result := .next (preemptStep ctx queue s)

/-! ### COLL (R302) -/

def collBf (x : BitVec 512) : Bool := bitAt (dw x 6) 30
def collChunks (x : BitVec 512) : Nat := fld (dw x 4) 0 32 / (if collBf x then 128 else 64)

/-- The bytes of a participant's input to a chunk, and where it begins. -/
def collBytes (x : BitVec 512) : Nat := if collBf x then 128 else 64
def collAt (x : BitVec 512) (c i : Nat) : Nat := (fld (dw x 2) 0 56 + i * dw x 5 + collBytes x * c) % 2 ^ 56
/-- What the read of an input acquires, at SYSTEM scope; an input of 128 bytes can lie in two pages. -/
def State.collLearns (s : State) (p : Nat) (x : BitVec 512) (c i : Nat) : Sparse Nat :=
  ((List.range (collBytes x / 64)).filterMap (fun j => s.walkTo p ((collAt x c i + 64 * j) % 2 ^ 56) false)).foldl (fun cl pa =>
    joinClock cl (s.droverAcquires pa 64)) []
/-- The contribution of a participant to a chunk; none where its input cannot be read. -/
def State.collInput (s : State) (p : Nat) (x : BitVec 512) (c i : Nat) : Option RedPacket :=
  let bf := collBf x
  (s.walkRead p (collAt x c i) (collBytes x)).map (fun bs =>
    let lanes := words32 (wireCount bf) bs
    let w := dw x 6
    let h := (fld w 0 16 + c) % 2 ^ 16 * 2 ^ 48 + fld w 16 8 * 2 ^ 40 + fld w 24 4 * 2 ^ 36 + i * 2 ^ 30 + fld w 32 6 * 2 ^ 24 + fld w 28 2 * 2 ^ 22 +
      (if bf then 2 ^ 21 else 0) + (if lanes.any (isNaN 23) then 2 ^ 20 else 0)
    { input := 16, header := h, cset := 2 ^ i, elems := lanes.map (roundWire bf), stamp := s.turn })

/-- The participants of a chunk contribute through the service cores of the local Folds. -/
def State.collSend (s : State) (p q c : Nat) : State :=
  let x := (s.head p q).packet
  let n := fld (dw x 6) 32 6 + 1
  let ins := (List.range n).map (s.collInput p x c)
  if ins.any (·.isNone) then s.complete p q ADDRESS
  else
    let s0 := (List.range n).foldl (fun (t : State) i => t.queueLearns p q (s.collLearns p x c i)) s
    let s1 := (ins.zipIdx).foldl (fun (s : State) e =>
      match e.1 with
      | some r => s.modFold ((s.foldsOf p).getD e.2 0) (fun F => { F with arriving := F.arriving ++ [r] })
      | none => s) s0
    s1.modHead p q (fun h => { h with phase := 2, chunk := c, waitsChunk := true, chunkGot := none, stamp := s.turn })

/-- The rank of a chunk's status, and the status of the packet for a rank: the worst counts. -/
def collRank (st : Nat) : Nat := match st with | 0 => 0 | 2 => 1 | 0x1C => 2 | _ => 3
def collStatus (r : Nat) : Nat := match r with | 0 => 0 | 1 => 0x32 | 2 => 0x31 | _ => 0x33

/-- R302 COLL: the first chunk is sent; a chunk's result is written, and the next is sent, or the packet completes. -/
def collStep (ctx queue : Nat) (s : State) : State :=
  let h := s.head ctx queue
  if s.begun ctx queue 3 then s.collSend ctx queue 0
  else
    match h.chunkGot with
    | some (st, payload) =>
      if !(h.phase == 2 && h.waitsChunk) then s
      else
        let va := (fld (dw h.packet 3) 0 56 + 64 * h.chunk) % 2 ^ 56
        match s.walkWrite ctx va (natToBytes 64 payload.toNat) with
        | none => s.complete ctx queue ADDRESS
        | some t =>
          let worst := max h.status (collRank st)
          let t1 := t.modHead ctx queue (fun x => { x with status := worst })
          if h.chunk + 1 < collChunks h.packet then t1.collSend ctx queue (h.chunk + 1) else t1.complete ctx queue (collStatus worst)
    | none => s
def execColl (ctx queue : Nat) (s : State) : Result := .next (collStep ctx queue s)

/-! ### Repair and quarantine -/

/-- R369 QCLEAR: the quarantine of a core ends, once every command that was queued when its unit failed has completed. The unit takes no
command meanwhile (R222), so that those are the ones that it still has. -/
def qclearStep (fold : Nat) (value : Word64) (s : State) : State :=
  if !s.serving then s
  else
    (List.range 16).foldl (fun (s : State) i =>
      let c := fold * 16 + i
      if bitAt value.toNat i && (s.core c).quarantined && (s.engine c .matrix).unretired.isEmpty then s.modCore c (fun x => { x with quarantined := false })
      else s) s
def execQclear (fold : Nat) (value : Word64) (s : State) : Result := .next (qclearStep fold value s)

/-- R368: repair lowers the OFFER of a core, in steps of 4 and not below 48 (R58). -/
def coreRepairStep (core offer : Nat) (s : State) : State :=
  if decide (core < Config.cores) && offer % 4 == 0 && decide (48 ≤ offer) && decide (offer ≤ (s.core core).offer) then
    s.modCore core (fun c => { c with offer := offer })
  else s
def execCoreRepair (core offer : Nat) (s : State) : Result := .next (coreRepairStep core offer s)

end Sys2Proof.Machine
end

