-- ==== Sys2Proof/Machine/Pipeline.lean ====
section
/-!
DEFINITION. Pipelines and splices (R319 to R345): the START and SPLICE packets, the queues, the source and the sink, what a stage does
with its next record, the Shepherd, and the instructions of a stage worker.
-/

namespace Sys2Proof.Machine

/-! ### Layouts (R319, R320, R322, R325, R337) -/

def sdImage (d : BitVec 256) : Nat := fld d.toNat 0 56
def sdEntry (d : BitVec 256) : Nat := fld d.toNat 56 4
def sdArgs (d : BitVec 256) : Nat := fld d.toNat 64 56
def sdArglen (d : BitVec 256) : Nat := fld d.toNat 128 16
def sdQcap (d : BitVec 256) : Nat := fld d.toNat 144 12
def sdRs (d : BitVec 256) : Nat := fld d.toNat 160 6
def sdSl (d : BitVec 256) : Nat := fld d.toNat 176 16
def sdVmin (d : BitVec 256) : Nat := fld d.toNat 192 12
def sdVmax (d : BitVec 256) : Nat := fld d.toNat 204 12
def sdSinit (d : BitVec 256) : Nat := fld d.toNat 224 32

/-- R320, the conditions that a REBIND keeps: reserved fields, IMAGE, SL64, SINIT and ARGLEN. -/
def sdBase (sslot : Nat) (d : BitVec 256) : Bool :=
  fld d.toNat 60 4 == 0 && fld d.toNat 120 8 == 0 && fld d.toNat 166 10 == 0 && fld d.toNat 156 4 == 0 && fld d.toNat 216 8 == 0 &&
    sdImage d % 64 == 0 && decide (sdSl d ≤ sslot) && (sdSl d != 0 || sdSinit d == 0) && representable (sdArglen d)
/-- R320: well formed. -/
def sdWf (sslot : Nat) (d : BitVec 256) : Bool :=
  sdBase sslot d && decide (1 ≤ sdVmin d) && decide (sdVmin d ≤ sdVmax d) && decide (1 ≤ sdQcap d) && decide (1 ≤ sdRs d) &&
    (sdSl d == 0 || (sdVmin d == 1 && sdVmax d == 1))

def pdSqcap (h : BitVec 512) : Nat := fld h.toNat 16 12
def pdSrs (h : BitVec 512) : Nat := fld h.toNat 32 6
def pdSslot (h : BitVec 512) : Nat := fld h.toNat 64 16
/-- R319: a declaration keeps its layout. -/
def pdWf (d : PipeDecl) : Bool :=
  let x := d.head.toNat
  fld x 5 11 == 0 && fld x 28 4 == 0 && fld x 38 26 == 0 && x / 2 ^ 80 == 0 && decide (1 ≤ fld x 0 5) && decide (fld x 0 5 ≤ 16) &&
    decide (1 ≤ pdSqcap d.head) && decide (1 ≤ pdSrs d.head) && d.stages.all (sdWf (pdSslot d.head))

def pbSrc (b : BitVec 512) : Nat := fld b.toNat 0 56
def pbSrclen (b : BitVec 512) : Nat := fld b.toNat 64 64
def pbSink (b : BitVec 512) : Nat := fld b.toNat 128 56
def pbWork (b : BitVec 512) : Nat := fld b.toNat 192 56
def pbArgs (b : BitVec 512) : Nat := fld b.toNat 256 56
def pbArglen (b : BitVec 512) : Nat := fld b.toNat 320 16
def pbGang (b : BitVec 512) : Nat := fld b.toNat 336 12 + 1
def pbStride (b : BitVec 512) : Nat := fld b.toNat 348 4
def pbMaxk (b : BitVec 512) : Nat := fld b.toNat 352 2
def pbSinklog (b : BitVec 512) : Nat := fld b.toNat 356 4
def pbSink64 (b : BitVec 512) : Nat := fld b.toNat 360 6
def pbQarea (b : BitVec 512) : Nat := fld b.toNat 384 32
def pbSrl (b : BitVec 512) : Nat := fld b.toNat 448 16
/-- R322: a parameter block keeps its layout. -/
def pbWf (srs : Nat) (b : BitVec 512) : Bool :=
  let z (lo n : Nat) : Bool := fld b.toNat lo n == 0
  z 56 8 && z 184 8 && z 248 8 && z 312 8 && z 354 2 && z 366 18 && z 416 32 && z 464 48 && pbSink b % 64 == 0 && pbWork b % 4096 == 0 &&
    representable (pbArglen b) && decide (pbStride b ≤ 11) && decide (1 ≤ pbSinklog b) && decide (1 ≤ pbSink64 b) && pbQarea b % 64 == 0 &&
    decide (1 ≤ pbSrl b) && decide (pbSrl b + 16 ≤ 64 * srs)

def spOp (w : BitVec 320) : Nat := fld w.toNat 0 2
def spInherit (w : BitVec 320) : Bool := bitAt w.toNat 2
def spAtv (w : BitVec 320) : Bool := bitAt w.toNat 3
def spStage (w : BitVec 320) : Nat := fld w.toNat 4 4
def spAt (w : BitVec 320) : Nat := fld w.toNat 32 32
def spDesc (w : BitVec 320) : BitVec 256 := BitVec.ofNat 256 (w.toNat / 2 ^ 64)
/-- R337: a splice payload is well formed. -/
def spWf (sslot : Nat) (w : BitVec 320) : Bool :=
  let d := spDesc w
  fld w.toNat 8 24 == 0 && (!(spInherit w) || spOp w == 2) &&
    (match spOp w with
     | 0 => sdWf sslot d
     | 1 => d == 0
     | 2 => sdBase sslot d && sdQcap d == 0 && sdRs d == 0 && sdVmin d == 0 && sdVmax d == 0 && (!(spInherit w) || sdSinit d == 0)
     | _ => false)

/-- R325: a record header. -/
def recHeader (seq len epoch kind aux : Nat) : List Byte :=
  natToBytes 8 (seq % 2 ^ 32 * 2 ^ 32 + len % 2 ^ 16 * 2 ^ 16 + epoch % 2 ^ 8 * 2 ^ 8 + kind % 2 ^ 4) ++ natToBytes 8 (aux % 2 ^ 32)

/-! ### A pipeline's parts -/

def State.modPipe (s : State) (k : Nat) (g : Pipe → Pipe) : State := s.setPipe k (g (s.pipe k))
/-- The context of a pipeline. -/
def pipeCtx (k : Nat) : Nat := k / 4

/-- Bytes written to a paddock's space in pieces that no page boundary cuts; a piece that cannot be written is not. -/
def State.walkPut : Nat → State → Nat → Nat → List Byte → State
  | 0, s, _, _, _ => s
  | n + 1, s, p, va, bs =>
    if bs.isEmpty then s
    else
      let room := 2 ^ 19 - va % 2 ^ 19
      State.walkPut n ((s.walkWrite p (va % 2 ^ 56) (bs.take room)).getD s) p (va + room) (bs.drop room)
/-- The bytes of a paddock's space, zero where they cannot be read. -/
def State.walkGet (s : State) (p va n : Nat) : List Byte := (s.walkRead p (va % 2 ^ 56) n).getD (List.replicate n 0)

def Pipe.stage (x : Pipe) (id : Nat) : Option Stage := x.stages.find? (fun y => y.id == id)
def State.modStage (s : State) (k id : Nat) (g : Stage → Stage) : State :=
  s.modPipe k (fun x => { x with stages := x.stages.map (fun y => if y.id = id then g y else y) })
/-- The chain in force for sequence number `n` (R326). -/
def Pipe.chain (x : Pipe) (n : Nat) : List Stage := x.stages.filter (fun y => decide (y.born ≤ n) && y.gone.all (fun m => decide (n ≤ m)))
/-- The chain as it stands. -/
def Pipe.now (x : Pipe) : List Stage := x.stages.filter (fun y => y.gone.isNone)
/-- The index of a stage in the chain as it stands (R340). -/
def Pipe.indexOf (x : Pipe) (id : Nat) : Nat := x.now.findIdx (fun y => y.id == id)
def Pipe.rec? (x : Pipe) (n : Nat) : Option PRec := x.recs.find? (fun r => r.seq == n)
/-- The stage to which a record goes next; none for one that goes to the sink (R326). -/
def Pipe.consumer (x : Pipe) (n : Nat) : Option Stage := (x.chain n).find? (fun y => decide (y.next ≤ n))
def State.modRec (s : State) (k n : Nat) (g : PRec → PRec) : State :=
  s.modPipe k (fun x => { x with recs := x.recs.map (fun r => if r.seq = n then g r else r) })

/-- R322, R342: the bounds and slots of the queue areas, and of the state slots. -/
def Pipe.areaAt (x : Pipe) (a : Nat) : Nat := pbWork x.block + a * pbQarea x.block
/-- The stage whose output lies in an area: the one in the chain, or the one that left last. -/
def Pipe.areaStage (x : Pipe) (a : Nat) : Option Stage :=
  (x.stages.filter (fun y => y.area == a)).foldl (fun (best : Option Stage) y =>
    match best with
    | none => some y
    | some b =>
      match b.gone, y.gone with
      | none, _ => some b
      | _, none => some y
      | some m, some n => if m < n then some y else some b) none
def Pipe.slotSize (x : Pipe) (a : Nat) : Nat :=
  if a = 0 then 64 * pdSrs x.decl else 64 * ((x.areaStage a).map (fun y => sdRs y.bound.desc)).getD 0
def Pipe.areaCap (x : Pipe) (a : Nat) : Nat :=
  if a = 0 then pdSqcap x.decl else ((x.areaStage a).map (fun y => sdQcap y.bound.desc)).getD 0
def Pipe.slotAt (x : Pipe) (a i : Nat) : Nat := (x.areaAt a + x.slotSize a * i) % 2 ^ 56
def Pipe.stateAt (x : Pipe) (i : Nat) : Nat := (x.areaAt 17 + i * (64 * pdSslot x.decl)) % 2 ^ 56

/-- The vcores of a pipeline that still work. -/
def State.working (s : State) (k v : Nat) : Bool :=
  let lid := (s.pipe k).lid
  !((s.gang lid).retired.contains v) && !(s.vcoreSlot lid v).ended
def State.workOf (s : State) (k v : Nat) : Worker := (s.vcoreSlot (s.pipe k).lid v).work
def State.modWork (s : State) (k v : Nat) (g : Worker → Worker) : State :=
  s.modVcore (s.pipe k).lid v (fun l => { l with work := g l.work })
/-- The workers of a stage that still work. -/
def State.workersOf (s : State) (k : Nat) (y : Stage) : List Nat := y.workers.filter (s.working k)
def lowest (vs : List Nat) : Option Nat := vs.foldl (fun (b : Option Nat) v => some (match b with | some w => min w v | none => v)) none
def highest (vs : List Nat) : Option Nat := vs.foldl (fun (b : Option Nat) v => some (match b with | some w => max w v | none => v)) none

/-- The slots of an area that are occupied or reserved (R327). -/
def State.areaUsed (s : State) (k a : Nat) : List Nat :=
  let x := s.pipe k
  (x.recs.filter (fun r => r.kind != 4 && r.area == a)).map (·.ix) ++
    (List.range (s.gang x.lid).vcores).filterMap (fun v =>
      let w := s.workOf k v
      if w.rcd.isSome && ((x.stage w.stage).map (·.area)) == some a then some w.outSlot else none)
/-- A number of a list: which one is not stated (R342), and is a free value of the pipeline's block, the kind of choice and the sequence
number, since two runs of one launch write the same bytes (R393). (DESIGN CHOICE, log 73.) -/
def Pipe.choose (x : Pipe) (kind n : Nat) (xs : List Nat) : Option Nat := xs[Config.freePick x.block kind n % xs.length]?
theorem Pipe.choose_isSome {x : Pipe} {kind n : Nat} {xs : List Nat} (h : xs ≠ []) : (x.choose kind n xs).isSome = true := by
  simp [Pipe.choose, Nat.mod_lt, List.length_pos_iff.mpr h]
theorem Pipe.choose_mem {x : Pipe} {kind n i : Nat} {xs : List Nat} (h : x.choose kind n xs = some i) : i ∈ xs := List.mem_of_getElem? h
/-- The free slot of an area that record `n` takes. -/
def State.pickSlot (s : State) (k a n : Nat) : Option Nat :=
  let used := s.areaUsed k a
  (s.pipe k).choose 0 n ((List.range ((s.pipe k).areaCap a)).filter (fun i => !(used.contains i)))

/-! ### Bindings (R329) -/

/-- What a stage descriptor binds to an image. -/
def bindingOf (b : BitVec 512) (i : Image) (d : BitVec 256) (sslot : Option Nat) : Binding :=
  { desc := d
    prog := i.prog (sdEntry d) (if sdArgs d = 0 then pbArgs b else sdArgs d) (if sdArgs d = 0 then pbArglen b else sdArglen d)
    dataAt := (i.at_ + i.dataOff) % 2 ^ 56, dataLen := i.dataLen, tensors := i.tensors, sslot := sslot }

/-- R320: the conditions on a stage image beside R24. -/
def stageImageOk (i : Image) (d : BitVec 256) : Bool :=
  i.widths.all (· == 0) && i.span == 0 && i.hmax == 0 && decide (sdSinit d + 64 * sdSl d ≤ i.dataLen)

/-- R324, R340: a state slot receives the initial state of a stage. -/
def State.initState (s : State) (k slot : Nat) (i : Image) (d : BitVec 256) : State :=
  let p := pipeCtx k
  State.walkPut 64 (s.modPipe k (fun x => { x with slots := NatSet.insert x.slots slot })) p ((s.pipe k).stateAt slot)
    (s.walkGet p (i.at_ + i.dataOff + sdSinit d) (64 * sdSl d))

/-- R329, R352: a worker starts a binding of the stage that counts it. (DEDUCED, log 65.) -/
def State.bindWorker (s : State) (k key : Nat) : State :=
  let x := s.pipe k
  let v := (s.slot key).vcore
  match x.stages.find? (fun y => y.workers.contains v) with
  | none => s
  | some y =>
    let p := pipeCtx k
    let b := y.bound
    let s1 := s.prepareAreas key b.prog b.dataAt b.dataLen b.tensors
    let s2 := s1.modSlot key (fun l =>
      s.pageRegs p { l with prog := b.prog, worker := true, work := { pipe := k, stage := y.id, probing := l.work.probing } })
    (s2.enterItem key (x.indexOf y.id * 2 ^ 32)).learn (hartOfSlot key) y.clock

/-- A restart that is due at once: the worker's context stops, and starts the binding when its engine work has retired (R329). -/
def State.restartNow (s : State) (k v : Nat) : State :=
  let lid := (s.pipe k).lid
  let s1 := s.modVcore lid v (fun l => { l with work := { l.work with restart := true }, startDue := l.work.rcd.isNone })
  match s.seatOf lid v with
  | some key => if (s1.slot key).startDue then s1.modCtx (hartOfSlot key) (fun c => { c with live := false }) else s1
  | none => s1
/-- The restarts of a pipeline that are due at once and can take place. -/
def State.startBindings (s : State) (k : Nat) : State :=
  (s.slots.filter (fun x => x.2.live && x.2.worker && x.2.work.pipe == k && x.2.work.restart && x.2.startDue)).foldl (fun (s : State) x =>
    if x.2.resident && !x.2.stopping && !(s.ctx (hartOfSlot x.1)).frozen && s.engineIdle (x.1 / 16) (x.1 % 16) then s.bindWorker k x.1 else s) s

/-- After an edit the stages are numbered anew, and `WID` shows it (R329, R340). -/
def State.renumber (s : State) (k : Nat) : State :=
  let x := s.pipe k
  (List.range (s.gang x.lid).vcores).foldl (fun (s : State) v =>
    s.modVcore x.lid v (fun l =>
      if x.now.any (fun y => y.id == l.work.stage) then { l with wid := BitVec.ofNat 64 (x.indexOf l.work.stage * 2 ^ 32 + l.wid.toNat % 2 ^ 32) } else l)) s

/-! ### Outcomes (R341, R345) -/

/-- A splice's outcome: an inbox entry for the vcore that issued it, or the end of its packet. -/
def State.outcome (s : State) (k seq status : Nat) (sp : Splice) : State :=
  match sp.queue, sp.vcore with
  | some q, _ => s.complete (pipeCtx k) q (if status = 0 then 0 else 0x39)
  | none, some v => s.modPipe k (fun x => { x with outcomes := x.outcomes ++ [(v, inboxEntry seq 7 status seq (spStage sp.payload))] })
  | none, none => s

/-- Outcome entries enter the inboxes that have room; those of vcores that are gone are dropped. -/
def State.deliverOutcomes (s : State) (k : Nat) : State :=
  let x := s.pipe k
  x.outcomes.foldl (fun (s : State) o =>
    let drop (s : State) : State := s.modPipe k (fun x => { x with outcomes := x.outcomes.erase o })
    match s.seatOf x.lid o.1 with
    | some key => if (s.slot key).live && (s.slot key).inboxRoom then drop (s.putInbox key { val := o.2 }) else s
    | none => if (s.gang x.lid).retired.contains o.1 then drop s else s) s

/-! ### The edited stage (R339 to R341) -/

/-- Whether a record is a splice that a stage edits: its STAGE names it, or names none and the stage is the last. -/
def Pipe.edits (x : Pipe) (y : Stage) (r : PRec) : Bool :=
  match r.kind, r.splice with
  | 1, some sp =>
    let ch := x.chain r.seq
    let i := ch.findIdx (fun z => z.id == y.id)
    i == spStage sp.payload || (decide (ch.length ≤ spStage sp.payload) && i + 1 == ch.length)
  | _, _ => false

/-- The splice becomes a SPLICE_FAILED record, and its stage runs on as it was (R341). -/
def State.spliceFails (s : State) (k id seq reason : Nat) (sp : Splice) : State :=
  ((s.modStage k id (fun y => { y with mode := 0 })).modRec k seq (fun r => { r with kind := 2, aux := reason, splice := none })).outcome k seq reason sp

/-- The stage from which INSERT takes the next worker: the one with the most above VMIN, the lower of two (R340). -/
def State.donor (s : State) (k : Nat) : Option Stage :=
  let above (y : Stage) : Nat := (s.workersOf k y).length - sdVmin y.bound.desc
  (s.pipe k).now.foldl (fun (b : Option Stage) y =>
    match b with
    | none => if 0 < above y then some y else none
    | some z => if above z < above y then some y else some z) none
/-- The worker that a stage gives up: the highest-numbered without a pending move, as for the Shepherd (R335). -/
def State.spare (s : State) (k : Nat) (y : Stage) : Option Nat :=
  let ws := s.workersOf k y
  match highest (ws.filter (fun v => !(s.workOf k v).moving)) with
  | some v => some v
  | none => highest ws
/-- `n` workers leave their stages' counts: the vcores, and the stages that had them. (DESIGN CHOICE, log 73.) -/
def State.takeWorkers (s : State) (k : Nat) : Nat → List (Nat × Nat) → Option (State × List (Nat × Nat))
  | 0, acc => some (s, acc)
  | n + 1, acc =>
    match s.donor k with
    | none => none
    | some y =>
      match s.spare k y with
      | none => none
      | some v => (s.modStage k y.id (fun z => { z with workers := z.workers.erase v })).takeWorkers k n (acc ++ [(v, y.id)])

/-- The stages, by identifier, that a removed stage's workers go to: the next up to its VMAX, then the others in order. -/
def State.absorb (s : State) (k : Nat) (stages : List Stage) : List Nat → Option State
  | [] => some s
  | v :: vs =>
    match stages.find? (fun y => decide ((((s.pipe k).stage y.id).map (fun z => (s.workersOf k z).length)).getD 0 < sdVmax y.bound.desc)) with
    | none => none
    | some y =>
      ((s.modStage k y.id (fun z => { z with workers := z.workers ++ [v] })).modWork k v (fun w => { w with restart := true, moving := true })).absorb k stages vs

def Pipe.freeSlots (x : Pipe) : List Nat := (List.range 32).filter (fun i => !(x.slots.contains i))
/-- Areas that no stage of the chain has and that hold nothing. -/
def State.freeAreas (s : State) (k : Nat) : List Nat :=
  (List.range 17).filter (fun a => a != 0 && !((s.pipe k).now.any (fun y => y.area == a)) && (s.areaUsed k a).isEmpty)

/-- R341 FIT. -/
def State.fits (s : State) (lid : Nat) (i : Image) : Bool :=
  !(s.overShare i) && s.slots.all (fun x => !((x.2.live || x.2.detached) && x.2.lid == lid) || decide (i.allot ≤ (s.core (x.1 / 16)).offer))

/-- The image of a descriptor as a splice finds it, the state with its measurement, or a failure (R341 IMAGE). -/
def State.spliceImage (s : State) (k : Nat) (d : BitVec 256) : State × Option Image :=
  let va := if sdImage d = 0 then (s.pipe k).image else sdImage d
  let (s1, m) := s.measured (pipeCtx k) va
  match m, s1.readImage (pipeCtx k) va with
  | .ok _, .ok i => (s1, if stageImageOk i d && decide (sdEntry d < i.entries.length) then some i else none)
  | _, _ => (s1, none)

/-- REMOVE (R340). -/
def State.checkRemove (s : State) (k : Nat) (y : Stage) (r : PRec) (sp : Splice) : State :=
  let x := s.pipe k
  let later := (x.stages.dropWhile (fun z => z.id != y.id)).filter (fun z => z.id != y.id && z.gone.isNone)
  let rest := x.now.filter (fun z => z.id != y.id)
  let order := later.take 1 ++ rest.filter (fun z => !((later.take 1).any (fun w => w.id == z.id)))
  let ws := s.workersOf k y
  let s0 := s.modStage k y.id (fun z => { z with workers := [], gone := some r.seq, mode := 0 })
  match s0.absorb k order ws with
  | none => s.spliceFails k y.id r.seq 4 sp
  | some s1 =>
    let follower := later.head?.bind (fun z => (s1.pipe k).stage z.id) |>.bind (fun z => lowest (s1.workersOf k z))
    let s2 :=
      match y.bound.sslot, later.head? with
      | some i, some _ =>
        s1.modPipe k (fun x => { x with outcomes := x.outcomes ++ (follower.map (fun v =>
          (v, inboxEntry r.seq 7 2 (64 * sdSl y.bound.desc) (x.stateAt i)))).toList })
      | some i, none => s1.modPipe k (fun x => { x with slots := NatSet.erase x.slots i })
      | none, _ => s1
    ((s2.modRec k r.seq (fun r => { r with splice := none })).outcome k r.seq 0 sp).renumber k

/-- REBIND (R340): the probe starts the new binding at once. -/
def State.checkRebind (s : State) (k : Nat) (y : Stage) (r : PRec) (sp : Splice) : State :=
  let d := spDesc sp.payload
  let old := y.bound.desc.toNat
  let d' := BitVec.ofNat 256 (setFld (setFld (setFld d.toNat 144 12 (fld old 144 12)) 160 6 (fld old 160 6)) 192 24 (fld old 192 24))
  match s.spliceImage k d with
  | (s1, none) => s1.spliceFails k y.id r.seq 1 sp
  | (s1, some i) =>
    if !(s1.fits (s.pipe k).lid i) then s1.spliceFails k y.id r.seq 2 sp
    else
      let keep := spInherit sp.payload
      let need := !keep && sdSl d != 0
      match (if need then (s1.pipe k).choose 1 r.seq (s1.pipe k).freeSlots else some 0) with
      | none => s1.spliceFails k y.id r.seq 5 sp
      | some n =>
        let slot := if keep then y.bound.sslot else if need then some n else none
        let s3 := if need then s1.initState k n i d else s1
        let s4 := s3.modStage k y.id (fun z => { z with mode := 2, saved := some z.bound, bound := bindingOf (s.pipe k).block i d' slot })
        match lowest (s4.workersOf k y) with
        | some v => (s4.modWork k v (fun w => { w with probing := true })).restartNow k v
        | none => s4

/-- INSERT (R340): the new stage stands behind the edited one for what follows the splice. -/
def State.checkInsert (s : State) (k : Nat) (y : Stage) (r : PRec) (sp : Splice) : State :=
  let d := spDesc sp.payload
  let lid := (s.pipe k).lid
  match s.spliceImage k d with
  | (s1, none) => s1.spliceFails k y.id r.seq 1 sp
  | (s1, some i) =>
    if !(s1.fits lid i) then s1.spliceFails k y.id r.seq 2 sp
    else
      match s1.takeWorkers k (sdVmin d) [] with
      | none => s1.spliceFails k y.id r.seq 4 sp
      | some (s2, took) =>
        match (if sdSl d ≠ 0 then (s2.pipe k).choose 1 r.seq (s2.pipe k).freeSlots else some 0) with
        | none => s1.spliceFails k y.id r.seq 5 sp
        | some n =>
          match (if sdQcap d * 64 * sdRs d ≤ pbQarea (s.pipe k).block then (s2.pipe k).choose 2 r.seq (s2.freeAreas k) else none) with
          | none => s1.spliceFails k y.id r.seq 6 sp
          | some a =>
            let s5 := if sdSl d ≠ 0 then s2.initState k n i d else s2
            let id := ((s.pipe k).stages.foldl (fun m z => max m z.id) 0) + 1
            let z : Stage :=
              { id := id, born := r.seq + 1, next := r.seq + 1, area := a, mode := 2, workers := took.map (·.1), taken := took
                bound := bindingOf (s.pipe k).block i d (if sdSl d ≠ 0 then some n else none), clock := y.clock }
            let s6 := (s5.modStage k y.id (fun w => { w with mode := 2 })).modPipe k (fun x =>
              { x with stages := x.stages.flatMap (fun w => if w.id = y.id then [w, z] else [w]) })
            let s7 := s6.renumber k
            match lowest z.workers with
            | some v => (s7.modWork k v (fun w => { w with probing := true })).restartNow k v
            | none => s7

/-- CHECK (R341). -/
def State.checkSplice (s : State) (k : Nat) (y : Stage) (r : PRec) (sp : Splice) : State :=
  let w := sp.payload
  let n := ((s.pipe k).chain r.seq).length
  if n ≤ spStage w ∨ (spOp w = 0 ∧ 16 ≤ n) ∨ (spOp w = 1 ∧ n ≤ 1) ∨ (spInherit w ∧ sdSl (spDesc w) ≠ sdSl y.bound.desc) then
    s.spliceFails k y.id r.seq 7 sp
  else
    match spOp w with
    | 0 => s.checkInsert k y r sp
    | 1 => s.checkRemove k y r sp
    | _ => s.checkRebind k y r sp

/-- The record on which a probing worker's splice stands, and the stage that holds it: a REBIND's own stage, or the stage before
one that an INSERT adds. -/
def Pipe.probed (x : Pipe) (y : Stage) : Option (Stage × PRec × Splice) :=
  let n := if y.saved.isSome then y.next else y.born - 1
  match x.consumer n, x.rec? n with
  | some h, some r => r.splice.map (fun sp => (h, r, sp))
  | _, _ => none

/-- R339: the probe issues its first PPOP: the edit stands. -/
def State.probePass (s : State) (k v : Nat) : State :=
  let x := s.pipe k
  match (x.stage (s.workOf k v).stage) with
  | none => s
  | some y =>
    match x.probed y with
    | none => s
    | some (h, r, sp) =>
      let old := y.saved.bind (·.sslot)
      let s1 := (s.modStage k h.id (fun z => { z with mode := 0 })).modStage k y.id (fun z =>
        { z with mode := 0, saved := none, taken := [], epoch := if z.saved.isSome then (z.epoch + 1) % 256 else 0 })
      let s2 := match old with
        | some i => if y.bound.sslot = some i then s1 else s1.modPipe k (fun x => { x with slots := NatSet.erase x.slots i })
        | none => s1
      let s3 := (y.workers.filter (fun w => w != v)).foldl (fun (s : State) w =>
        s.modWork k w (fun z => { z with restart := true, moving := z.moving || y.taken.any (fun t => t.1 == w) })) s2
      (((s3.modWork k v (fun w => { w with probing := false })).modRec k r.seq (fun r => { r with splice := none })).outcome k r.seq 0 sp)

/-- R339: the probe has taken a trap that fails the splice: R340 is undone, and the probe starts the old binding anew. -/
def State.probeFail (s : State) (k v : Nat) : State :=
  let x := s.pipe k
  match (x.stage (s.workOf k v).stage) with
  | none => s
  | some y =>
    match x.probed y with
    | none => s
    | some (h, r, sp) =>
      let free (o keep : Option Nat) (s : State) : State :=
        match o with
        | some i => if keep = some i then s else s.modPipe k (fun x => { x with slots := NatSet.erase x.slots i })
        | none => s
      let s1 :=
        match y.saved with
        | some b => free y.bound.sslot b.sslot (s.modStage k y.id (fun z => { z with bound := b, saved := none }))
        | none =>
          free y.bound.sslot none ((y.taken.foldl (fun (s : State) (t : Nat × Nat) => s.modStage k t.2 (fun z => { z with workers := z.workers ++ [t.1] })) s).modPipe k
            (fun x => { x with stages := x.stages.filter (fun z => z.id != y.id) }))
      let s2 := ((s1.spliceFails k h.id r.seq 3 sp).modWork k v (fun w => { w with probing := false, failed := false })).restartNow k v
      s2.renumber k

/-! ### What a stage does with its next record (R327, R334, R339, R343) -/

/-- R343: a stage forwards a record into a free slot of its own output area. -/
def State.forward (s : State) (k : Nat) (y : Stage) (r : PRec) : Option State :=
  (s.pickSlot k y.area r.seq).map (fun i =>
    let x := s.pipe k
    let p := pipeCtx k
    let bs := recHeader r.seq r.len y.epoch r.kind r.aux ++ s.walkGet p (x.slotAt r.area r.ix + 16) r.len
    (((State.walkPut 4 s p (x.slotAt y.area i) bs).modRec k r.seq (fun r => { r with area := y.area, ix := i })).modStage k y.id (fun z =>
      { z with next := z.next + 1, ended := z.ended || r.kind == 3 })))

/-- One move of a stage, when it has one. A DATA record is handed out by the PPOP that takes it (R331). -/
def State.pumpStage (s : State) (k id : Nat) : Option State :=
  let x := s.pipe k
  match x.stage id with
  | none => none
  | some y =>
    let n := y.next
    if y.gone.any (fun m => decide (m < n)) || y.mode == 2 || y.ended then none
    else
      match x.rec? n with
      | none => none
      | some r =>
        if r.inHand || (x.consumer n).map (·.id) != some y.id then none
        else if r.kind = 4 then some (s.modStage k id (fun z => { z with next := n + 1 }))
        else if r.kind = 0 then none
        else if x.edits y r then
          (if y.mode = 0 then some (s.modStage k id (fun z => { z with mode := 1 }))
           else if y.opened.isEmpty then r.splice.map (s.checkSplice k y r)
           else none)
        else if r.kind = 3 && !y.opened.isEmpty then none
        else s.forward k y r

/-- Holes that every stage has passed, and stages that have left and that nothing needs any more, are dropped. -/
def State.sweep (s : State) (k : Nat) : Option State :=
  let x := s.pipe k
  match x.rec? x.sinkNext with
  | some r => if r.kind = 4 && (x.consumer r.seq).isNone then some (s.modPipe k (fun x =>
      { x with recs := x.recs.filter (fun q => q.seq != r.seq), sinkNext := x.sinkNext + 1 })) else none
  | none =>
    if x.stages.any (fun y => y.gone.any (fun m => decide (m < x.sinkNext)) && (s.areaUsed k y.area).isEmpty) then
      some (s.modPipe k (fun x => { x with stages := x.stages.filter (fun y => !(y.gone.any (fun m => decide (m < x.sinkNext)) && (s.areaUsed k y.area).isEmpty)) }))
    else none

/-- The moves of a pipeline until none is left; `fuel` bounds their number in one step. -/
def State.pump (k : Nat) : Nat → State → State
  | 0, s => s
  | n + 1, s =>
    match ((s.pipe k).stages.findSome? (fun y => s.pumpStage k y.id)).or (s.sweep k) with
    | some t => State.pump k n t
    | none => s

/-- Workers whose probe has failed. -/
def State.failProbes (s : State) (k : Nat) : State :=
  ((List.range (s.gang (s.pipe k).lid).vcores).filter (fun v => (s.workOf k v).failed)).foldl (fun (s : State) v => s.probeFail k v) s

/-- What the sink passes over without a record (R332). -/
def State.sweepAll (k : Nat) : Nat → State → State
  | 0, s => s
  | n + 1, s =>
    match s.sweep k with
    | some t => State.sweepAll k n t
    | none => s

/-- A pipeline settles: where its gang is over or suspended, only at the sink. -/
def State.settlePipe (s : State) (k : Nat) : State :=
  let g := s.gang (s.pipe k).lid
  if !(s.pipe k).live then s
  else if !g.live || g.suspended then State.sweepAll k 256 s
  else ((State.pump k 256 (s.failProbes k)).startBindings k).deliverOutcomes k

/-! ### Splices as they are accepted (R338, R344) -/

/-- The status of a splice, and the state with it in the buffer when it is accepted. -/
def State.acceptSplice (s : State) (k : Nat) (sp : Splice) : State × Nat :=
  let x := s.pipe k
  let w := sp.payload
  if x.endIn then (s, 2)
  else if !(spWf (pdSslot x.decl) w) then (s, 1)
  else if spAtv w && decide (spAt w < x.admitted) then (s, 2)
  else if 4 ≤ x.buffer.length then (s, 3)
  else if spAtv w && x.buffer.any (fun o => spAtv o.payload && decide (spAt w ≤ spAt o.payload)) then (s, 4)
  else (s.modPipe k (fun x => { x with buffer := x.buffer ++ [sp] }), 0)

/-! ### The source and the sink (R326 to R328, R338, R344) -/

/-- A record enters area 0. -/
def State.enterRecord (s : State) (k : Nat) (r : PRec) (payload : List Byte) : Option State :=
  (s.pickSlot k 0 r.seq).map (fun i =>
    (State.walkPut 4 s (pipeCtx k) ((s.pipe k).slotAt 0 i) (recHeader r.seq r.len 0 r.kind 0 ++ payload)).modPipe k (fun x =>
      { x with recs := x.recs ++ [{ r with ix := i }], admitted := x.admitted + 1 }))

/-- The next admission: a splice that is due, the next source record, or END. -/
def State.letIn (s : State) (k : Nat) : Option State :=
  let x := s.pipe k
  let p := pipeCtx k
  let at_ := x.srcAt * pbSrl x.block
  let left := decide (at_ < pbSrclen x.block)
  let clock := (s.queue p x.queue).clock
  if x.endIn || decide (pdSqcap x.decl ≤ (s.areaUsed k 0).length) then none
  else
    match x.buffer.find? (fun sp => !(spAtv sp.payload) || decide (spAt sp.payload ≤ x.admitted) || !left) with
    | some sp =>
      (s.enterRecord k { seq := x.admitted, kind := 1, len := 40, splice := some sp, clock := clock } (natToBytes 40 sp.payload.toNat)).map (fun t =>
        t.modPipe k (fun x => { x with buffer := x.buffer.erase sp }))
    | none =>
      if left then
        let n := min (pbSrl x.block) (pbSrclen x.block - at_)
        match s.walkRead p ((pbSrc x.block + at_) % 2 ^ 56) n with
        | none => none
        | some bs =>
          (s.enterRecord k { seq := x.admitted, kind := 0, len := n, clock := clock } bs).map (fun t => t.modPipe k (fun x => { x with srcAt := x.srcAt + 1 }))
      else (s.enterRecord k { seq := x.admitted, kind := 3, clock := clock } []).map (fun t => t.modPipe k (fun x => { x with endIn := true }))

/-- A pipeline of a context that runs. -/
def State.pipeRuns (s : State) (ctx pipe : Nat) : Bool :=
  s.serving && s.ctxActive ctx && decide (pipe < 4) && (s.pipe (ctx * 4 + pipe)).live

/-- R327 SOURCE_ADMIT. -/
def sourceAdmitStep (ctx pipe : Nat) (s : State) : State :=
  let k := ctx * 4 + pipe
  if s.pipeRuns ctx pipe then
    match s.letIn k with
    | some t => t.settlePipe k
    | none => s
  else s
def execSourceAdmit (ctx pipe : Nat) (s : State) : Result := .next (sourceAdmitStep ctx pipe s)

/-- The pipeline's sink holds the END record: the START completes when its gang is over too (R323). -/
def State.sinkDone (s : State) (k : Nat) : State :=
  let x := s.pipe k
  let s1 := s.modPipe k (fun x => { x with sunk := true })
  if (s1.gang x.lid).live then s1
  else ({ s1 with pipes := Sparse.drop s1.pipes k }).complete (pipeCtx k) x.queue (s1.head (pipeCtx k) x.queue).status

/-- R328 SINK_WRITE. -/
def sinkWriteStep (ctx pipe : Nat) (s : State) : State :=
  let k := ctx * 4 + pipe
  let x := s.pipe k
  if !(s.pipeRuns ctx pipe) then s
  else
    match x.rec? x.sinkNext, s.walkNat ctx (pbSink x.block + 8) 8 with
    | some r, some tail =>
      if r.inHand || r.kind == 4 || (x.consumer r.seq).isSome || (x.head + 2 ^ 64 - tail) % 2 ^ 64 == 2 ^ pbSinklog x.block then s
      else
        let size := 64 * pbSink64 x.block
        let bs := ((s.walkGet ctx (x.slotAt r.area r.ix) (16 + r.len)) ++ List.replicate size 0).take size
        let va := pbSink x.block + 64 + x.head % 2 ^ pbSinklog x.block * size
        let s1 := (State.walkPut 4 s ctx va bs).queueLearns ctx x.queue r.clock
        let s2 := (s1.droverRelease ctx x.queue (pbSink x.block) ((x.head + 1) % 2 ^ 64)).getD s1
        let s3 := s2.modPipe k (fun x => { x with head := x.head + 1, sinkNext := x.sinkNext + 1, recs := x.recs.filter (fun q => q.seq != r.seq) })
        if r.kind = 3 then s3.sinkDone k else s3.settlePipe k
    | _, _ => s
def execSinkWrite (ctx pipe : Nat) (s : State) : Result := .next (sinkWriteStep ctx pipe s)

/-! ### The instructions (R330 to R334, R338) -/

/-- Workers of a stage that wait at a PPOP, each with the time at which it began. -/
def State.waitersOf (s : State) (k : Nat) (y : Stage) : List (Nat × Nat) :=
  (s.workersOf k y).filterMap (fun v =>
    match s.seatOf (s.pipe k).lid v with
    | some key =>
      let l := s.slot key
      let h := hartOfSlot key
      if l.live && l.work.stage == y.id && !l.work.restart && l.work.rcd.isNone then
        (match s.waitingAt h with
         | some (.ppop _) => some ((s.ctx h).waitFrom.getD 0, v)
         | _ => none)
      else none
    | none => none)
/-- The first waiter, the lower vcore of two (R331). -/
def State.firstWaiter (s : State) (k : Nat) (y : Stage) : Option Nat :=
  ((s.waitersOf k y).foldl (fun (b : Option (Nat × Nat)) w =>
    match b with
    | none => some w
    | some c => if w.1 < c.1 ∨ (w.1 = c.1 ∧ w.2 < c.2) then some w else some c) none).map (·.2)

/-- The trace event of a worker that begins or ends a record (R336). -/
def State.workEvent (s : State) (key ev wid : Nat) : TraceEvent :=
  { core := s.localCore (key / 16), ev := ev, vcore := (s.slot key).vcore, ord := wid }

/-- The next record of a stage, when a worker can take it. -/
def State.nextData (s : State) (k : Nat) (y : Stage) : Option PRec :=
  let x := s.pipe k
  if y.mode ≠ 0 then none
  else (x.rec? y.next).filter (fun r => r.kind == 0 && !r.inHand && ((x.consumer y.next).map (·.id)) == some y.id)

/-- PPOP hands out a record (R331). -/
def State.handOut (s : State) (k key : Nat) (y : Stage) (r : PRec) (o : Nat) : State :=
  let x := s.pipe k
  let wid := x.indexOf y.id * 2 ^ 32 + r.seq % 2 ^ 32
  let s1 := (s.modRec k r.seq (fun r => { r with inHand := true })).modStage k y.id (fun z => { z with next := z.next + 1, opened := z.opened ++ [r.seq] })
  let s2 := s1.modSlot key (fun l =>
    { l with wid := BitVec.ofNat 64 wid, work := { l.work with rcd := some r.seq, outSlot := o, pushed := false, lastZero := false } })
  ((s2.learn (hartOfSlot key) r.clock).traceEvent x.lid (s.workEvent key 0 wid))

/-- R331 PPOP; a record that is handed out is an acquire, which the interval window limits (R259). -/
def ppopBody (f : Fields) (s0 : State) : Exec Out := do
  let c := s0.cur
  let key := s0.slotKeyOf c
  let k := (s0.slot key).work.pipe
  let v := (s0.slot key).vcore
  need (s0.slot key).work.rcd.isNone PERM 0
  let s := if (s0.slot key).work.probing && !(s0.slot key).work.restart then (s0.probePass k v).settlePipe k else s0
  let w := (s.slot key).work
  if w.restart then
    (if s.engineIdle (key / 16) (key % 16) then .ok { s := s.bindWorker k key, next := .gone } else .error (.stay s.waitNoted))
  else
    match (s.pipe k).stage w.stage with
    | none => .error (.stay s.waitNoted)
    | some y =>
      if y.ended then done ((s.modSlot key (fun l => { l with work := { l.work with lastZero := true } })).setD f.d (CReg.word 0))
      else
        let t := s.waitNoted
        match t.nextData k y, t.pickSlot k y.area y.next with
        | some r, some o =>
          let e := s.workEvent key 0 ((s.pipe k).indexOf y.id * 2 ^ 32 + r.seq % 2 ^ 32)
          if t.firstWaiter k y = some v ∨ ((s.gang (s.pipe k).lid).level = 3 ∧ (s.gang (s.pipe k).lid).mayHave e) then
            (if (s.gang (s.pipe k).lid).mayHave e then do
              intervalCheck 0x340 1 s
              done (((t.handOut k key y r o).setD f.d (mkCap 0 1 ((s.pipe k).slotAt r.area r.ix) ((s.pipe k).slotSize r.area))).settlePipe k)
             else .error (.stay t))
          else .error (.stay t)
        | _, _ => .error (.stay t)
def execPpop (f : Fields) (s : State) : Result := runScalar f (ppopBody f) s

/-- R332 PPUSH. -/
def ppushBody (f : Fields) (s : State) : Exec Out := do
  let key := s.slotKeyOf s.cur
  let w := (s.slot key).work
  need w.rcd.isSome PERM 0
  let x := s.pipe w.pipe
  let a := ((x.stage w.stage).map (·.area)).getD 0
  done ((s.modSlot key (fun l => { l with work := { l.work with pushed := true } })).setD f.d (mkCap 0 3 (x.slotAt a w.outSlot + 16) (x.slotSize a - 16)))
def execPpush (f : Fields) (s : State) : Result := runScalar f (ppushBody f) s

/-- R332 PEND, a release, which the interval window limits (R259). The PC advances before the pipeline settles, since that may restart the worker itself. -/
def pendBody (f : Fields) (s : State) : Exec Out := do
  let c := s.cur
  let key := s.slotKeyOf c
  let w := (s.slot key).work
  let k := w.pipe
  let x := s.pipe k
  match w.rcd, x.stage w.stage with
  | some n, some y =>
    let b ← s.opndB 0x344 f false
    need (if w.pushed then decide (b ≤ x.slotSize y.area - 16) else b == 0) BOUNDS b
    intervalCheck 0x344 1 s
    releaseWait s true
    let e := s.workEvent key 1 (s.slot key).wid.toNat
    if !((s.gang x.lid).mayHave e) then .error (.stay s)
    else
      let cl := s.releaseClock c
      let out : PRec := if w.pushed then { seq := n, kind := 0, len := b, area := y.area, ix := w.outSlot, clock := cl } else { seq := n, kind := 4, clock := cl }
      let s1 := if w.pushed then State.walkPut 4 s (pipeCtx k) (x.slotAt y.area w.outSlot) (recHeader n b y.epoch 0 0) else s
      let s2 := (s1.modRec k n (fun _ => out)).modStage k y.id (fun z => { z with opened := z.opened.erase n, clock := joinClock z.clock cl })
      let s3 := (s2.bump c).modSlot key (fun l =>
        { l with wid := BitVec.ofNat 64 (l.wid.toNat / 2 ^ 32 * 2 ^ 32), work := { l.work with rcd := none, pushed := false } })
      .ok { s := ((s3.traceEvent x.lid e).modCtx c Ctx.advance).settlePipe k, next := .moved }
  | _, _ => trap PERM 0
def execPend (f : Fields) (s : State) : Result := runScalar f (pendBody f) s

/-- R333 PSTATE. A length that no capability holds exactly leaves the capability open: it is a free value, one for each area (R393). -/
def pstateBody (f : Fields) (s : State) : Exec Out :=
  let w := (s.slotOf s.cur).work
  let x := s.pipe w.pipe
  match (x.stage w.stage).map (·.bound) with
  | some b =>
    match b.sslot with
    | some i =>
      if representable (64 * sdSl b.desc) then done (s.setD f.d (mkCap 0 3 (x.stateAt i) (64 * sdSl b.desc)))
      else done (s.setD f.d ⟨true, BitVec.ofNat 128 (Config.freeState (x.stateAt i) (64 * sdSl b.desc))⟩)
    | none => done (s.setD f.d (CReg.word 0))
  | none => done (s.setD f.d (CReg.word 0))
def execPstate (f : Fields) (s : State) : Result := runScalar f (pstateBody f) s

/-- R338 PSPLICE; one whose read traps accepts nothing, as a TAIL does (log 92). -/
def pspliceBody (f : Fields) (s : State) : Exec Out := do
  let c := s.cur
  let sl := s.slotOf c
  let rq : Req := { op := 0x342, field := 2, opnd := f.a, n := 40, al := 8, ld := true, st := false, spaces := [0, 1] }
  let (s1, ls) ← spanAccess c rq (s.capOpnd f.a) (offsetOf f) s
  let o := Out.spans c { s := s1 } ls
  let w := BitVec.ofNat 320 (bytesToNat (s.spanBytes ls))
  need ((s.gang sl.lid).level == 0 || spAtv w) DET_VIOLATION (6 * 2 ^ 60 + 0x342)
  let (s2, st) := o.s.acceptSplice sl.work.pipe { payload := w, vcore := some sl.vcore }
  match o.next with
  | .seq => .ok { o with s := s2.setD f.d (CReg.word st) }
  | _ => .ok o
def execPsplice (f : Fields) (s : State) : Result := runScalar f (pspliceBody f) s

/-! ### REPLAY that cannot be followed (R81) -/

/-- A worker may still begin the record with a WID: some stage has not handed its number out, and has the index that the WID names, or
splices can still move it (R326, R336, R340). -/
def Pipe.mayBegin (x : Pipe) (wid : Nat) : Bool :=
  let settled := x.endIn && x.buffer.isEmpty && x.recs.all (fun r => r.splice.isNone)
  x.stages.any (fun y => (decide (y.next ≤ wid % 2 ^ 32) || decide (2 ^ 32 < y.next)) && (!settled || x.indexOf y.id == wid / 2 ^ 32))

/-- The START or END of an item that a slot's vcore is past, as a launch counts its items. -/
def Slot.past (l : Slot) (e : TraceEvent) : Bool :=
  decide (e.ord < l.wid.toNat) || (e.ord == l.wid.toNat && e.ev == 0 && !l.startDue)
/-- The START or END of a record that a slot's worker can no longer begin, and does not have in hand. -/
def State.workPast (s : State) (l : Slot) (e : TraceEvent) : Bool :=
  !(e.ev == 1 && l.work.rcd.isSome && e.ord == l.wid.toNat) && !((s.pipe l.work.pipe).mayBegin e.ord)

/-- An event that is its core's next can no longer occur: its vcore has retired or is none of the launch's, it is not on that core, or it is
past the item; or the event is a swap where every slot is resident. (DEDUCED, log 58.) -/
def State.missed (s : State) (lid : Nat) (e : TraceEvent) : Bool :=
  let g := s.gang lid
  g.retired.contains e.vcore || decide (g.vcores ≤ e.vcore) || (decide (2 ≤ e.ev) && decide (s.kPer ≤ 4)) ||
    (match s.seatOf lid e.vcore with
     | none => false
     | some key =>
       let l := s.slot key
       s.localCore (key / 16) != e.core || (decide (e.ev < 2) && (l.ended || (if l.worker then s.workPast l e else l.past e))))
/-- R81: a core's next event can no longer occur, or its events have run out while vcores remain on it. -/
def State.diverged (s : State) (lid : Nat) : Bool :=
  let g := s.gang lid
  let evs := g.trace.left.filter (fun e => decide (e.ev < 4))
  let cores := (evs.map (·.core)).dedup
  g.live && g.level == 3 && !g.suspended && g.endWith.isNone &&
    (cores.any (fun c => (evs.find? (fun e => e.core == c)).any (s.missed lid)) ||
      s.slots.any (fun x =>
        x.2.live && x.2.lid == lid && !(cores.contains (s.localCore (x.1 / 16))) && (if x.2.worker then x.2.work.rcd.isSome else !x.2.ended)))

/-! ### START and SPLICE packets (R322 to R324) -/

/-- R324: how many workers each stage receives of `rest` more, one at a time in ascending order. -/
def dealWorkers : Nat → Nat → List (Nat × Nat) → List Nat
  | 0, _, cs => cs.map (·.1)
  | fuel + 1, rest, cs =>
    if rest = 0 then cs.map (·.1)
    else
      let r := cs.foldl (fun (acc : Nat × List (Nat × Nat)) c =>
        if 0 < acc.1 ∧ c.1 < c.2 then (acc.1 - 1, acc.2 ++ [(c.1 + 1, c.2)]) else (acc.1, acc.2 ++ [c])) (rest, [])
      if r.1 = rest then cs.map (·.1) else dealWorkers fuel r.1 r.2

/-- What a START has checked. -/
structure StartPlan where
  image : Image
  block : BitVec 512
  decl : PipeDecl
  images : List Image
  places : List (Nat × Nat)
  trace : Trace

/-- R323 step 2 for one stage. -/
def State.startStage (s : State) (p : Nat) (i : Image) (d : BitVec 256) : Check Image := do
  let j ← s.readImage p (if sdImage d = 0 then i.at_ else sdImage d)
  must (stageImageOk j d) IMAGE_FORM
  must (decide (sdEntry d < j.entries.length)) ENTRY
  .ok j
/-- R379: in enclave mode the stage images are measured, in order, before the checks of any of them. -/
def State.measureStages (s : State) (p : Nat) : List (BitVec 256) → State × Check Unit
  | [] => (s, .ok ())
  | d :: ds =>
    match (if sdImage d = 0 then (s, .ok ()) else s.measured p (sdImage d)) with
    | (s1, .error e) => (s1, .error e)
    | (s1, .ok _) => s1.measureStages p ds
/-- Every stage, in order. -/
def State.startStages (s : State) (p : Nat) (i : Image) (ds : List (BitVec 256)) : State × Check (List Image) :=
  let (s1, m) := s.measureStages p ds
  (s1, do
    m
    ds.mapM (s1.startStage p i))

/-- R323 step 1. -/
def State.startHead (s : State) (p : Nat) (x : BitVec 512) : Check (Image × BitVec 512 × PipeDecl × Nat) := do
  let va := fld (dw x 2) 0 56
  must (va % 64 == 0) IMAGE_FORM
  let i ← s.readImage p va
  let pb := fld (dw x 3) 0 56
  must (fld x.toNat 35 29 == 0 && fld (dw x 2) 58 6 == 0 && fld (dw x 3) 56 8 == 0 && x.toNat / 2 ^ 256 == 0 && pb % 64 == 0 &&
    decide (fld (dw x 2) 56 2 < i.pipes.length)) PACKET_FORM
  let bs ← s.mustRead p pb 64
  let b := BitVec.ofNat 512 (bytesToNat bs)
  let d := i.pipes.getD (fld (dw x 2) 56 2) default
  must (pdWf d && pbWf (pdSrs d.head) b) PACKET_FORM
  .ok (i, b, d, pb)

/-- R323 steps 3 to 8. -/
def State.startRest (s : State) (p q k level : Nat) (b : BitVec 512) (d : PipeDecl) (js : List Image) : Check (List (Nat × Nat) × Trace) := do
  must (!(s.pipe k).live) 0x34
  must (decide ((d.stages.map sdVmin).foldl (· + ·) 0 ≤ pbGang b) && decide (pbGang b ≤ (d.stages.map sdVmax).foldl (· + ·) 0)) 0x35
  must (decide (s.kPer ≤ 2 * 2 ^ pbMaxk b)) SHARE
  must (js.all (fun j => !(s.overShare j))) FOOTPRINT
  match s.placement p (pbGang b) (pbStride b) with
  | none => .error PLACEMENT
  | some ps =>
    must (js.all (fun j => ps.all (fun x => decide (j.allot ≤ (s.core x.1).offer)))) ALLOT_FIT
    must (level == 0 || js.all (fun j => !(s.detUnchecked p j))) DET_UNCHECKED
    let t ← s.traceFor p q level (s.geometry 0 (pbStride b) d.stages.length 0 [pbGang b, 1, 1, 1, 1, 1])
    must (decide (pdSqcap d.head * 64 * pdSrs d.head ≤ pbQarea b) && d.stages.all (fun x => decide (sdQcap x * 64 * sdRs x ≤ pbQarea b))) 0x36
    .ok (ps, t)

/-- The stages at START (R324). -/
def startChain (b : BitVec 512) (d : PipeDecl) (js : List Image) : List Stage :=
  let ns := dealWorkers 4096 (pbGang b - (d.stages.map sdVmin).foldl (· + ·) 0) (d.stages.map (fun x => (sdVmin x, sdVmax x)))
  (d.stages.zipIdx).map (fun e =>
    { id := e.2, area := e.2 + 1
      workers := (List.range (ns.getD e.2 0)).map (fun v => v + (ns.take e.2).foldl (· + ·) 0)
      bound := bindingOf b (js.getD e.2 default) e.1 (if sdSl e.1 = 0 then none else some e.2) })

/-- A START that has passed its checks: its gang is placed, and every worker starts its first binding. -/
def State.startPipe (s : State) (p q k level : Nat) (i : Image) (b : BitVec 512) (d : PipeDecl) (js : List Image) (ps : List (Nat × Nat)) (t : Trace) :
    State :=
  let lid := s.nextLid
  let dr := s.drover p
  let chain := startChain b d js
  let prog (v : Nat) : Prog := ((chain.find? (fun y => y.workers.contains v)).map (fun y => y.bound.prog)).getD {}
  let g : Gang :=
    { live := true, ctx := p, queue := q, prog := prog 0, span := 0, stride := pbStride b, widths := [0, 0, 0, 0, 0, 0]
      extents := [pbGang b, 1, 1, 1, 1, 1], vcores := pbGang b, job := if dr.enclave then (Sparse.get 0 dr.regs 0x2D0).toNat else 0
      level := level, encl := dr.enclave, trace := t, pipe := some (k % 4) }
  let x : Pipe := { live := true, lid := lid, queue := q, startedAt := s.time, block := b, decl := d.head, image := i.at_, stages := chain }
  let s1 := (({ s with nextLid := lid + 1 }).setGang lid g).setPipe k x
  let s2 := (ps.zipIdx).foldl (fun (s : State) e =>
    let key := slotKey e.1.1 e.1.2
    (s.placeVcore key lid e.2 g (prog e.2) (s.residentAt key) (s.queue p q).clock).clearShares key) s1
  let s3 := (chain.zip js).foldl (fun (s : State) e =>
    match e.1.bound.sslot with
    | some n => s.initState k n e.2 e.1.bound.desc
    | none => s) s2
  let s4 := ps.foldl (fun (s : State) e => s.bindWorker k (slotKey e.1 e.2)) s3
  s4.modHead p q (fun h => { h with phase := 2, lid := lid, level := level, notReady := none, reserving := none })

/-- R323 PIPE_START. -/
def pipeStartStep (ctx queue : Nat) (s : State) : State :=
  let x := (s.head ctx queue).packet
  if !(s.begun ctx queue 2) || bitAt x.toNat 32 then s
  else if !(s.holders ctx (s.head ctx queue)).isEmpty then s.waitsAgain ctx queue
  else
    let k := ctx * 4 + fld x.toNat 33 2
    let level := ((s.qdesc ctx queue).map (·.level)).getD 0
    let (s1, m) := s.measured ctx (fld (dw x 2) 0 56)
    match (do m; s1.startHead ctx x : Check (Image × BitVec 512 × PipeDecl × Nat)) with
    | .error e => s1.complete ctx queue e
    | .ok (i, b, d, pb) =>
      let s2 := match s1.walkTo ctx pb false with
        | some pa => s1.queueLearns ctx queue (s1.droverAcquires pa 64)
        | none => s1
      match s2.startStages ctx i d.stages with
      | (s3, .error e) => s3.complete ctx queue e
      | (s3, .ok js) =>
        match s3.startRest ctx queue k level b d js with
        | .error e => s3.complete ctx queue e
        | .ok (ps, t) => s3.startPipe ctx queue k level i b d js ps t
def execPipeStart (ctx queue : Nat) (s : State) : Result := .next (pipeStartStep ctx queue s)

/-- R338 PIPE_SPLICE: a SPLICE packet waits for the outcome of the splice that it submits. -/
def pipeSpliceStep (ctx queue : Nat) (s : State) : State :=
  let x := (s.head ctx queue).packet
  if !(s.begun ctx queue 2) || !(bitAt x.toNat 32) then s
  else
    let k := ctx * 4 + fld x.toNat 33 2
    let w := BitVec.ofNat 320 (x.toNat / 2 ^ 128)
    if fld x.toNat 35 29 ≠ 0 ∨ dw x 7 ≠ 0 then s.complete ctx queue PACKET_FORM
    else if !(s.pipe k).live then s.complete ctx queue 0x37
    else if (s.gang (s.pipe k).lid).level ≠ 0 ∧ !(spAtv w) then s.complete ctx queue 0x38
    else
      match s.acceptSplice k { payload := w, queue := some queue } with
      | (t, 0) => (t.modHead ctx queue (fun h => { h with phase := 2 })).settlePipe k
      | (t, _) => t.complete ctx queue 0x38
def execPipeSplice (ctx queue : Nat) (s : State) : Result := .next (pipeSpliceStep ctx queue s)

/-! ### The Shepherd (R335, R336) -/

/-- The capacity of the area that feeds a stage of the chain. -/
def Pipe.feedCap (x : Pipe) (i : Nat) : Nat := if i = 0 then pdSqcap x.decl else ((x.now[i - 1]?).map (fun y => sdQcap y.bound.desc)).getD 1
/-- Records of a stage's next numbers that are present and not handed out. -/
def Pipe.backlog (x : Pipe) (y : Stage) : Nat := x.recs.countP (fun r => r.kind != 4 && !r.inHand && ((x.consumer r.seq).map (·.id)) == some y.id)

/-- A stage that takes part in a sample: its index, occupancy as a fraction, workers, and the stage. -/
def State.sampled (s : State) (k : Nat) : List (Nat × Nat × Nat × Stage) :=
  let x := s.pipe k
  (x.now.zipIdx).filterMap (fun e => if e.1.mode = 0 then some (e.2, x.backlog e.1, x.feedCap e.2, e.1) else none)

/-- A worker leaves one stage's count for another's (R335). -/
def State.moveWorker (s : State) (k v from_ to_ : Nat) : State :=
  ((s.modStage k from_ (fun z => { z with workers := z.workers.erase v })).modStage k to_ (fun z => { z with workers := z.workers ++ [v] })).modWork k v
    (fun w => { w with restart := true, moving := true })

/-- R335: the move of a sample. -/
def State.shepherdMove (s : State) (k : Nat) : Option (Nat × Nat × Nat × Nat × Nat) :=
  let xs := s.sampled k
  let low := (xs.filter (fun e => decide (sdVmin e.2.2.2.bound.desc < (s.workersOf k e.2.2.2).length))).foldl (fun (b : Option (Nat × Nat × Nat × Stage)) e =>
    match b with | none => some e | some c => if e.2.1 * c.2.2.1 < c.2.1 * e.2.2.1 then some e else some c) none
  match low with
  | none => none
  | some l =>
    let high := (xs.filter (fun e => e.1 != l.1 && decide ((s.workersOf k e.2.2.2).length < sdVmax e.2.2.2.bound.desc))).foldl
      (fun (b : Option (Nat × Nat × Nat × Stage)) e => match b with | none => some e | some c => if c.2.1 * e.2.2.1 < e.2.1 * c.2.2.1 then some e else some c) none
    match high, highest ((s.workersOf k l.2.2.2).filter (fun v => !(s.workOf k v).moving)) with
    | some h, some v => if l.2.1 * h.2.2.1 < h.2.1 * l.2.2.1 then some (v, l.1, h.1, l.2.2.2.id, h.2.2.2.id) else none
    | _, _ => none

/-- R335, R336 SHEPHERD_SAMPLE: under REPLAY, only the recorded moves of the sample. -/
def shepherdSampleStep (ctx pipe : Nat) (s : State) : State :=
  let k := ctx * 4 + pipe
  let x := s.pipe k
  let g := s.gang x.lid
  if !(s.pipeRuns ctx pipe && g.live && !g.suspended && decide (x.startedAt + 10000 * (x.sample + 1) ≤ s.time)) then s
  else
    let s1 := s.modPipe k (fun x => { x with sample := x.sample + 1 })
    if g.level = 3 then
      (g.trace.left.filter (fun e => e.ev == 4 && e.ord == x.sample)).foldl (fun (s : State) e =>
        match x.now[e.src]?, x.now[e.dst]? with
        | some a, some b => (s.moveWorker k e.vcore a.id b.id).traceEvent x.lid e
        | _, _ => s) s1
    else
      match s1.shepherdMove k with
      | some (v, i, j, a, b) => (s1.moveWorker k v a b).traceEvent x.lid { core := 0, ev := 4, vcore := v, ord := x.sample, src := i, dst := j }
      | none => s1
def execShepherdSample (ctx pipe : Nat) (s : State) : Result := .next (shepherdSampleStep ctx pipe s)

end Sys2Proof.Machine
end

