-- ==== Sys2Proof/Machine/Tlb.lean ====
section
/-!
DEFINITION. The translation instructions (R184 to R189), miss reports (R183), translation notices (R191), and the
migration queue (R195).
-/

namespace Sys2Proof.Machine

/-! ### Locks -/

/-- The entries of the lock records of a core, renamed. -/
def State.renameLocks (s : State) (core : Nat) (g : List Nat → List Nat) : State :=
  (List.range 16).foldl (fun (s : State) j =>
    if (s.slot (slotKey core j)).locks.isEmpty then s
    else s.modSlot (slotKey core j) (fun l => { l with locks := l.locks.map (fun r => (r.1, { r.2 with entries := g r.2.entries })) })) s

/-- R184: a valid image installed in a core's TLB. -/
def State.installValid (s : State) (core img : Nat) : State :=
  let C := s.core core
  let old := (C.tlb.filter (fun e => imgOverlaps e.2.toNat img)).map (·.1)
  let rest : Sparse (BitVec 128) := C.tlb.filter (fun e => !(imgOverlaps e.2.toNat img))
  let locked := s.coreLocked core
  let free := (List.range 128).find? (fun i => !(rest.any (fun e => e.1 == i)))
  let victim := ((List.range 128).map (fun i => (C.tlbPtr + i) % 128)).find? (fun i => !(locked.contains i))
  let i := free.getD (victim.getD 0)
  let ptr := if free.isSome then C.tlbPtr else (i + 1) % 128
  (s.setCore core { C with tlb := rest.put i (BitVec.ofNat 128 img), tlbPtr := ptr }).renameLocks core (fun es =>
    (es.map (fun e => if old.contains e then i else e)).dedup)

/-- Entries removed from a core's TLB; the lock records stand without them (R188). -/
def State.evict (s : State) (core : Nat) (gone : Nat → Bool) : State :=
  let C := s.core core
  let old := (C.tlb.filter (fun e => gone e.2.toNat)).map (·.1)
  (s.setCore core { C with tlb := C.tlb.filter (fun e => !(gone e.2.toNat)) }).renameLocks core (fun es =>
    es.filter (fun e => !(old.contains e)))

/-- R184: an image installed in a core's TLB. One with V = 0 leaves its entry free. -/
def State.install (s : State) (core img : Nat) : State :=
  if imgValid img then s.installValid core img else s.evict core (fun i => imgOverlaps i img)

/-- The entries that hold the pages of a region, from `a` up: those found, the first address that has none and whose fill has not failed,
and whether some page's fill has. (DEDUCED, log 27.) -/
def tlbRegion (C : Core) (failed : Nat → Bool) (hi : Nat) : Nat → Nat → List Nat → Bool → List Nat × Option Nat × Bool
  | 0, _, acc, bad => (acc, none, bad)
  | fuel + 1, a, acc, bad =>
    if hi ≤ a then (acc, none, bad)
    else
      match tlbFind C a with
      | none => if failed a then tlbRegion C failed hi fuel ((a / 2 ^ 19 + 1) * 2 ^ 19) acc true else (acc, some a, bad)
      | some (i, img) => tlbRegion C failed hi fuel (imgVA img + 2 ^ pageShift (imgSize img)) (acc ++ [i]) bad

/-- R186 TLOCK. More than 16 pages are more than a slot may lock, whatever the rest would give. -/
def tlockBody (f : Fields) (s : State) : Exec Out := do
  let k := s.cur
  let r := s.capOpnd f.a
  let c := r.cap
  need r.tag TAG (tagTval 0x220 2 f.a)
  need (!(c.has permS) && c.space == 0 && c.has permR) PERM c.cursor
  need (decide (c.off < c.len)) BOUNDS c.cursor
  let hi := c.base + c.len
  let misses := (s.core (coreOf k)).misses.filter (fun m => m.ctx == some k)
  let (es, missing, bad) :=
    tlbRegion (s.core (coreOf k)) (fun a => misses.any (fun m => m.va == a && m.kind == 0 && m.fail != 0)) hi (17 + misses.length) c.cursor [] false
  let answer (x : Nat) (s : State) : Exec Out := done (s.setD f.d (CReg.word x))
  let sl := s.slotOf k
  let free := (List.range 8).find? (fun i => !(Sparse.get {} sl.locks i).used)
  if free.isNone || !(s.mayLock (coreOf k) sl es) then answer 1 s
  else
    match missing with
    | some a => if misses.any (fun m => m.va == a) then .error (.stay s) else .error (.stay (s.lockMiss k a))
    | none =>
      if bad then answer 2 s
      else
        let i := free.getD 0
        answer (i * 2 ^ 8) (s.modSlot (s.slotKeyOf k) (fun l =>
          { l with locks := l.locks.put i { used := true, lo := c.cursor, hi := hi, entries := es } }))
def execTlock (f : Fields) (s : State) : Result := runScalar f (tlockBody f) s

/-- R186 TUNLOCK: entries that no other record holds are locked no longer. -/
def tunlockBody (f : Fields) (s : State) : Exec Out := do
  let b ← s.opndB 0x221 f false
  if decide (b ≤ 7) && (Sparse.get {} (s.slotOf s.cur).locks b).used then
    done ((s.modSlot (s.slotKeyOf s.cur) (fun l => { l with locks := l.locks.drop b })).setD f.d (CReg.word 0))
  else done (s.setD f.d (CReg.word 3))
def execTunlock (f : Fields) (s : State) : Result := runScalar f (tunlockBody f) s

/-! ### TPROBE and TINV -/

/-- R187: the address that A names. -/
def State.probeAddr (s : State) (o : Opnd) : Nat :=
  let r := s.capOpnd o
  if r.tag then r.cap.cursor else fld r.val.toNat 0 56

/-- R187 TPROBE. -/
def tprobeBody (f : Fields) (s : State) : Exec Out :=
  let img := match tlbFind (s.core (coreOf s.cur)) (s.probeAddr f.a) with
    | some (_, i) => i
    | none => 0
  done (s.setD f.d ⟨false, BitVec.ofNat 128 img⟩)
def execTprobe (f : Fields) (s : State) : Result := runScalar f (tprobeBody f) s

/-- The cores of a Fold that a mask names. -/
def maskCores (fold mask : Nat) : List Nat := ((List.range 16).filter (bitAt mask)).map (fun i => fold * 16 + i)

/-- R188: the cores that a TINV acts on. -/
def State.tinvCores (s : State) (f : Fields) : Exec (List Nat) := do
  if isService (coreOf s.cur) then
    let b ← s.opndB 0x223 f false
    .ok (maskCores (foldOf (coreOf s.cur)) b)
  else .ok [coreOf s.cur]

/-- A result buffer that a core's REDC has translated by a page with a property is still to be written (R188, R294, R300). -/
def State.resultsDue (s : State) (core : Nat) (ofPage : Nat → Bool) : Bool :=
  let due (l : Slot) : Bool := l.redcs.any (fun r => r.core == core && r.space == 0 && !r.paid && ofPage r.page)
  s.slots.any (fun e => due e.2) || s.parked.any (fun e => due e.2.slot)

/-- The tables of a paddock no longer give the images that a service core's TINV takes from its cores (R196). (DEDUCED, log 22.) -/
def State.forgetTables (s : State) (gone : Nat → Bool) : State :=
  if isService (coreOf s.cur) then
    let p := s.paddockOf (coreOf s.cur)
    { s with tables := s.tables.filter (fun e => !(e.1 == p && gone e.2.toNat)) }
  else s

/-- R188: entries are removed from cores, and their lock records stand. Every other access that an entry translated has been performed,
since each is performed where it is translated; the result of a REDC is waited for. -/
def State.invalidate (s : State) (cs : List Nat) (gone ofPage : Nat → Bool) : Exec Out :=
  if cs.any (fun c => s.resultsDue c ofPage) then .error (.stay s)
  else
    let t := cs.foldl (fun (s : State) c => s.evict c gone) s
    done (if cs.isEmpty then t else t.forgetTables gone)

/-- R188 TINV. -/
def tinvBody (f : Fields) (s : State) : Exec Out := do
  let cs ← s.tinvCores f
  let a := s.probeAddr f.a
  s.invalidate cs (fun i => imgCovers i a) (fun pg => a / 2 ^ pageShift (pg % 2 ^ 19) == pg / 2 ^ pageShift (pg % 2 ^ 19))
def execTinv (f : Fields) (s : State) : Result := runScalar f (tinvBody f) s

/-- R188 TINV.ALL. -/
def tinvAllBody (f : Fields) (s : State) : Exec Out := do
  let cs ← s.tinvCores f
  s.invalidate cs (fun _ => true) (fun _ => true)
def execTinvAll (f : Fields) (s : State) : Result := runScalar f (tinvAllBody f) s

/-! ### TFILL (R189) -/

/-- Whether an image serves a queue entry. -/
def imgServes (img : Nat) (e : MissEntry) : Bool := imgSpans img e.key

/-- The queue entries that an image serves are removed; accesses that are still stalled there report again (R183). (DEDUCED, log 26.) -/
def State.serveQueue (s : State) (fold img : Nat) : State :=
  (List.range 16).foldl (fun (s : State) i =>
    if (s.core (fold * 16 + i)).misses.isEmpty then s
    else s.modCore (fold * 16 + i) (fun c =>
      { c with misses := c.misses.map (fun m => if imgSpans img m.va then { m with reported := false, tried := none } else m) }))
    (s.modFold fold (fun F => { F with missQueue := F.missQueue.filter (fun e => !(imgServes img e)) }))

/-- What the fill tells of the paddock's tables (R179): the page is mapped so, or not. (DEDUCED, log 22.) -/
def State.noteTables (s : State) (p img : Nat) (present : Bool) : State :=
  let rest := s.tables.filter (fun e => !(e.1 == p && imgOverlaps e.2.toNat img))
  { s with tables := if present then (p, BitVec.ofNat 128 img) :: rest else rest }

/-- The accesses of a core that are stalled in a region fault with a kind. -/
def State.failMisses (s : State) (core img kind : Nat) : State :=
  s.modCore core (fun c => { c with misses := c.misses.map (fun m => if imgSpans img m.va then { m with fail := kind } else m) })

/-- A fault among those that are held, in the order of their reports. -/
def insertFault (x : Nat × Nat × Nat) : List (Nat × Nat × Nat) → List (Nat × Nat × Nat)
  | [] => [x]
  | y :: ys => if x.2.2 < y.2.2 then x :: y :: ys else y :: insertFault x ys

/-- R192: the hart faults that a fill makes take their places in the order in which their reports arrived; each that finds no free entry is
held, and counted. -/
def State.raiseFaults (s : State) (fold img : Nat) (cores : List Nat) : State :=
  let fresh := (cores.flatMap (fun c => (s.core c).misses.filter (fun m => m.ctx.isSome && m.fail == 0 && imgSpans img m.va && !m.locking))).mergeSort
    (fun x y => decide (x.order ≤ y.order))
  fresh.foldl (fun (s : State) m =>
    let F := s.fold fold
    let s1 := s.modFold fold (fun F => { F with heldFaults := insertFault (m.ctx.getD 0, m.va, m.order) F.heldFaults })
    if F.freeFaults.length ≤ F.heldFaults.length then s1.addHeld (s.paddockOfFold fold) else s1) s

def tfillBody (f : Fields) (s : State) : Exec Out := do
  let fold := foldOf (coreOf s.cur)
  let r := s.capOpnd f.a
  need (!r.tag) TAG (tagTval 0x224 2 f.a)
  let b ← s.opndB 0x224 f false
  let img := r.val.toNat
  let kind := fld img 64 8
  let cores := maskCores fold b
  let p := s.paddockOfFold fold
  let status := if (s.fold fold).missQueue.any (imgServes img) then 0 else 2
  let answer (x : Nat) (s : State) : Exec Out := done (s.setD f.d (CReg.word x))
  if cores.isEmpty then answer 0 s
  else if f.mod 0 1 = 1 then
    if kind = 0 ∨ 3 < kind then answer 1 s
    else answer status ((cores.foldl (fun (s : State) c => s.failMisses c img kind) ((s.raiseFaults fold img cores).serveQueue fold img)).noteTables p img false)
  else if !(imgWellFormed img) then answer 1 s
  else answer status (((cores.foldl (fun (s : State) c => s.install c img) s).serveQueue fold img).noteTables p img (imgValid img))
def execTfill (f : Fields) (s : State) : Result := runScalar f (tfillBody f) s

/-! ### Miss reports (R183) -/

/-- The first miss of a slot that satisfies a test and that the TLB does not cover. -/
def State.missOf (s : State) (core slot : Nat) (g : Miss → Bool) : Option Miss :=
  (s.core core).misses.find? (fun m => m.slot == slot && !m.reported && m.fail == 0 && g m && (tlbFind (s.core core) m.va).isNone)

/-- A report reaches the Fold's miss queue, or finds it full. -/
def State.reportMiss (s : State) (core : Nat) (m : Miss) : State :=
  let fo := foldOf core
  let key := m.va / 2 ^ 19 * 2 ^ 19
  let q := (s.fold fo).missQueue
  let mark (g : Miss → Miss) (s : State) : State := s.modCore core (fun c => { c with misses := c.misses.map (fun x => if x = m then g x else x) })
  let order := (s.fold fo).reports
  let arrived (x : Miss) : Miss := { x with reported := true, tried := none, order := order }
  if q.any (fun e => e.key == key) then
    mark arrived (s.modFold fo (fun F =>
      { F with reports := order + 1, missQueue := F.missQueue.map (fun e => if e.key = key then { e with mask := setFld e.mask (core % 16) 1 1 } else e) }))
  else if q.length < 64 then
    mark arrived (s.modFold fo (fun F =>
      { F with reports := order + 1, missQueue := F.missQueue ++ [⟨key, 2 ^ (core % 16)⟩] }))
  else mark (fun x => { x with tried := some s.time }) s

/-- R183: a miss sends its report. -/
def missReportStep (core slot : Nat) (s : State) : State :=
  match s.missOf core slot (fun m => m.tried.isNone) with
  | some m => s.reportMiss core m
  | none => s
def execMissReport (core slot : Nat) (s : State) : Result := .next (missReportStep core slot s)

/-- R183: 1 µs after its report found the queue full, a miss reports again. -/
def missReportRepeatStep (core slot : Nat) (s : State) : State :=
  match s.missOf core slot (fun m => match m.tried with | some t => decide (t + 1000 ≤ s.time) | none => false) with
  | some m => s.reportMiss core m
  | none => s
def execMissReportRepeat (core slot : Nat) (s : State) : Result := .next (missReportRepeatStep core slot s)

/-! ### Translation notices (R191) -/

/-- The slot to which a fault-buffer entry's notice goes: where its vcore is. -/
def State.faulterSlot (s : State) (e : FaultEntry) : Option Nat :=
  let here := slotKey e.core e.slot
  if (s.slot here).lid == e.lid && (s.slot here).vcore == e.vcore && (s.slot here).live then some here else s.homeOf e.lid e.vcore

def translationNoticeStep (fold entry : Nat) (failed : Bool) (s : State) : State :=
  let e := Sparse.get {} (s.fold fold).faults entry
  if !e.used || e.kind ≠ 1 || e.noticed then s
  else
    match s.faulterSlot e with
    | none => s
    | some key =>
      if !(s.slot key).inboxRoom then s
      else
        (s.modFold fold (fun F => { F with faults := F.faults.put entry { e with noticed := true } })).putInbox key
          { val := inboxEntry entry 0x08 (if failed then 1 else 0) 0 e.va }
def execTranslationNotice (fold entry : Nat) (failed : Bool) (s : State) : Result := .next (translationNoticeStep fold entry failed s)

/-! ### Page counts and the migration queue (R195) -/

/-- The register `off` of a Drover context page set to a value. -/
def State.setPageReg (s : State) (p off x : Nat) : State :=
  s.modDrover p (fun d => { d with regs := Sparse.set 0 d.regs off (BitVec.ofNat 64 x) })

/-- The slot that an interrupt register of a paddock names, by local core and slot (R193, R367); none beyond the paddock. -/
def State.irqSlot (s : State) (p r : Nat) : Option Nat :=
  if fld r 8 11 < s.coresPer ∧ fld r 0 4 < s.kPer then some (slotKey (s.globalCore p (fld r 8 11)) (fld r 0 4)) else none

/-- A page's counter has reached the threshold: a notice, or none. -/
def State.migrationNotice (s : State) (fold page : Nat) : State :=
  let p := s.paddockOfFold fold
  let head := s.pageReg p 0x270
  let tail := s.pageReg p 0x278
  let queued (b : Bool) (s : State) : State := s.modFold fold (fun F => { F with pages := F.pages.put page { count := 0, queued := b } })
  if (Sparse.get {} (s.fold fold).pages page).queued then queued true s
  else if (head + 2 ^ 32 - tail) % 2 ^ 32 = 1024 then queued false (s.setPageReg p 0x280 (s.pageReg p 0x280 + 1))
  else
    let size := page % 2 ^ 19
    let note := natToBytes 16 ((page - size) % 2 ^ 56 + size % 4 * 2 ^ 56 + fold % 2 ^ 7 * 2 ^ 64 + s.time % 2 ^ 32 * 2 ^ 96)
    let s1 := (s.walkWrite p (fld (s.pageReg p 0x268) 0 56 + 16 * (head % 1024)) note).getD s
    let s2 := queued true (s1.setPageReg p 0x270 ((head + 1) % 2 ^ 32))
    let irq := s.pageReg p 0x290
    match s.irqSlot p irq with
    | some key => if head = tail && bitAt irq 63 then s2.modSlot key (fun l => { l with intrMigrate := true }) else s2
    | none => s2

/-- R195: a core of the Fold reports a batch of 64 accesses to a page. -/
def migrationCountReportStep (fold page : Nat) (s : State) : State :=
  let thr := fld (s.pageReg (s.paddockOfFold fold) 0x288) 0 32
  match (maskCores fold 0xFFFF).find? (fun c => decide (64 ≤ Sparse.get 0 (s.core c).pageCounts page)) with
  | none => s
  | some c =>
    let s1 := s.modCore c (fun C => { C with pageCounts := Sparse.set 0 C.pageCounts page (Sparse.get 0 C.pageCounts page - 64) })
    if thr = 0 then s1
    else
      let e := Sparse.get {} (s1.fold fold).pages page
      if thr ≤ e.count + 64 then s1.migrationNotice fold page
      else s1.modFold fold (fun F => { F with pages := F.pages.put page { e with count := e.count + 64 } })
def execMigrationCountReport (fold page : Nat) (s : State) : Result := .next (migrationCountReportStep fold page s)

/-- The queued bit of the page and Fold of a notice is cleared. -/
def State.unqueue (s : State) (p at_ : Nat) : State :=
  match s.walkNat p at_ 16 with
  | none => s
  | some x =>
    let fold := fld x 64 7
    let page := fld x 0 56 + fld x 56 2
    s.modFold fold (fun F => { F with pages := F.pages.put page { Sparse.get {} F.pages page with queued := false } })

/-- R195: a write of MQTAIL; one that passes HEAD is ignored. -/
def mqtailWriteStep (j : Nat) (value : Word64) (s : State) : State :=
  let head := s.pageReg j 0x270
  let tail := s.pageReg j 0x278
  let new := fld value.toNat 0 32
  if !s.serving || decide (s.paddocks ≤ j) || !(tailOk head tail new) then s
  else
    let n := (new + 2 ^ 32 - tail) % 2 ^ 32
    let base := fld (s.pageReg j 0x268) 0 56
    ((List.range (Nat.min n 1024)).foldl (fun (s : State) i => s.unqueue j (base + 16 * ((tail + i) % 1024))) s).setPageReg j 0x278 new
def execMqtailWrite (j : Nat) (value : Word64) (s : State) : Result := .next (mqtailWriteStep j value s)

end Sys2Proof.Machine
end

