-- ==== Sys2Proof/Machine/Context.lean ====
section
/-!
DEFINITION. Context records (R361), CTXSAVE and CTXLOAD (R362, R363), swapping (R75), the suspension and resumption of a gang by the
Crook (R364 to R368), and the DISPATCH step of a Drover (R68).
-/

namespace Sys2Proof.Machine

/-! ### The context record (R361) -/

/-- Bytes cut or padded to a length. -/
def padTo (n : Nat) (bs : List Byte) : List Byte := bs.take n ++ List.replicate (n - bs.length) 0
def le8 (x : Nat) : List Byte := natToBytes 8 x

/-- The system registers of a record, from 0x0008 to 0x00FF. -/
def State.recordRegs (s : State) (key : Nat) : List Nat :=
  let c := s.ctx (hartOfSlot key)
  let l := s.slot key
  let repst := if c.rep.isSome then c.repState else c.repst.toNat
  [c.pc.toNat, c.status.toNat, repst, c.cause.toNat, c.epc.toNat, c.tval.toNat, l.uvec.toNat, l.tvec.toNat, l.wid.toNat,
   c.regBase.toNat, c.regLimit.toNat, l.engcap.toNat, l.tbase.toNat, l.tlimit.toNat, l.seed.toNat, l.rngctl.toNat, l.vcore % 2 ^ 12,
   l.timecmp.toNat, l.ien.toNat, l.pendWord c.frozen, c.pregBase.toNat, c.pregLimit.toNat, l.sregBase.toNat, l.sregLimit.toNat, 0,
   (List.range 8).foldl (fun x i => x + c.getSb i % 64 * 2 ^ (6 * i)) 0,
   (List.range 8).foldl (fun x i => x + ((c.getQ i).queue.toNat + (if (c.getQ i).bound then 8 else 0)) * 2 ^ (4 * i)) 0,
   l.pendWord c.frozen + l.inbox.length % 128 * 2 ^ 8, l.lid,
   l.pstSeq % 2 ^ 16 + l.sendSeq % 2 ^ 16 * 2 ^ 16 + (if l.resumed then 2 ^ 32 else 0), l.sealmask.toNat]

/-- The journal and retry entries of a vcore at its slot (R361); another vcore's that were left there are not its own. -/
def Slot.ownJournal (l : Slot) (i : Nat) : JEntry :=
  let e := Sparse.get {} l.journal i
  if e.lid = l.lid ∧ e.vcore = l.vcore then e else {}
def Slot.ownRetry (l : Slot) (i : Nat) : Option REntry := (l.retryAt i).filter (fun e => e.lid == l.lid && e.vcore == l.vcore)

/-- The 16 bytes of a match entry, and of a lock record. PRESUMED: a lock record is its region's bounds. -/
def matchBytes (e : MatchEntry) : List Byte :=
  if e.armed then le8 (e.tag % 2 ^ 16 + (e.len / 64 - 1) % 16 * 2 ^ 16 + 2 ^ 20) ++ le8 e.addr else List.replicate 16 0
def lockBytes (r : LockRec) : List Byte := if r.used then le8 r.lo ++ le8 r.hi else List.replicate 16 0

/-- R361: the 16 KiB of a slot's context record. -/
def State.recordImage (s : State) (key kind : Nat) : List Byte :=
  let c := s.ctx (hartOfSlot key)
  let l := s.slot key
  let zeros (n : Nat) : List Byte := List.replicate n 0
  let head := 0x44564358 + 2 ^ 32 + key % 16 * 2 ^ 36 + c.allot % 2 ^ 8 * 2 ^ 40 + kind % 16 * 2 ^ 48 + ((l.coll.map (·.op)).getD 0) % 8 * 2 ^ 52
  le8 head ++ (s.recordRegs key).flatMap le8 ++ padTo 128 ((List.range 8).flatMap (fun i => lockBytes (Sparse.get {} l.locks i))) ++
    (List.range 64).flatMap (fun n => if n < c.allot then natToBytes 16 (c.getC (BitVec.ofNat 6 n)).val.toNat else zeros 16) ++
    le8 ((List.range 64).foldl (fun x n => if n < c.allot ∧ (c.getC (BitVec.ofNat 6 n)).tag then x + 2 ^ n else x) 0) ++ zeros 0x78 ++
    (List.range 16).flatMap (fun n => le8 (c.getG (BitVec.ofNat 4 n)).toNat) ++ zeros 0x180 ++
    (List.range 32).flatMap (fun n => natToBytes 64 (c.getV n).toNat) ++
    padTo 1024 (l.inbox.flatMap (fun e => natToBytes 16 e.val.toNat)) ++
    (List.range 16).flatMap (fun i => (List.range 10).flatMap (fun j => le8 (journalDw (l.ownJournal i) j))) ++
    (List.range 32).flatMap (fun i => matchBytes (l.matchAt i)) ++
    (List.range 32).flatMap (fun i => (List.range 4).flatMap (fun j => le8 (retryDw (l.ownRetry i) j))) ++
    (List.range 8).flatMap (fun q => le8 (Sparse.get [] l.arrivals q).length) ++ zeros 0xC0 ++
    (List.range 8).flatMap (fun q => padTo 1024 ((Sparse.get [] l.arrivals q).flatMap (fun b => natToBytes 64 b.data.toNat)))

/-- A number in a record. -/
def recNat (b : List Byte) (off n : Nat) : Nat := bytesToNat ((b.drop off).take n)
def recDw (b : List Byte) (off : Nat) : Nat := recNat b off 8

/-- R363: MAGIC, VERSION and the reserved fields. -/
def recordForm (b : List Byte) : Bool :=
  let h := recDw b 0
  fld h 0 32 == 0x44564358 && fld h 32 4 == 1 && fld h 55 9 == 0 && decide (fld h 52 3 ≤ 4) && decide (fld h 48 4 ≤ 2) &&
    fld (recDw b 0xD0) 48 16 == 0 && fld (recDw b 0xD8) 32 32 == 0 && fld (recDw b 0xE0) 6 2 == 0 && fld (recDw b 0xE0) 15 49 == 0 &&
    fld (recDw b 0xF0) 33 31 == 0
def recordSlot (b : List Byte) : Nat := fld (recDw b 0) 36 4
def recordAllot (b : List Byte) : Nat := fld (recDw b 0) 40 8

/-- A STATUS that a record gives: MODE and PMODE take no level above Super that the context did not have, and ENCL and DETLVL stay as
the launch set them. -/
def Ctx.statusFrom (c : Ctx) (x : Nat) : Word64 :=
  let old := c.status.toNat
  let lvl (lo : Nat) : Nat := if fld x lo 2 ≤ 1 then fld x lo 2 else fld old lo 2
  BitVec.ofNat 64 (lvl 0 + lvl 2 * 2 ^ 2 + fld x 6 2 * 2 ^ 6 + fld x 21 6 * 2 ^ 21 + fld old 27 3 * 2 ^ 27)

/-- R108: the repetition in hand, at the place that REPST gives. -/
def Ctx.repFrom (c : Ctx) (x : Nat) : Option RepState :=
  if !(bitAt x 63) then none
  else c.rep.map (fun r =>
    { r with stride := fld x 59 4, step := fld x 56 3, pass := fld x 0 24, count := fld x 0 24 + fld x 24 24, ix := fld x 50 3 % (r.len + 1) })

/-- The context that a record gives; what it does not carry stays (R361). -/
def Ctx.fromRecord (c : Ctx) (b : List Byte) : Ctx :=
  let tags := recDw b 0x580
  let allot := recordAllot b
  { c with
    pc := BitVec.ofNat 56 (recDw b 8)
    status := c.statusFrom (recDw b 0x10)
    repst := maskTo 0xFFFCFFFFFFFFFFFF (recDw b 0x18)
    rep := c.repFrom (recDw b 0x18)
    cause := maskTo 0xC0000000000000FF (recDw b 0x20)
    epc := maskTo addrMask (recDw b 0x28)
    tval := BitVec.ofNat 64 (recDw b 0x30)
    regBase := BitVec.ofNat 56 (recDw b 0x50)
    regLimit := BitVec.ofNat 57 (recDw b 0x58)
    pregBase := BitVec.ofNat 56 (recDw b 0xA8)
    pregLimit := BitVec.ofNat 57 (recDw b 0xB0)
    allot := allot
    c := (List.range 64).foldl (fun (m : Sparse CReg) n =>
      if n = 0 ∨ allot ≤ n then m else Sparse.set {} m n ⟨bitAt tags n, BitVec.ofNat 128 (recNat b (0x180 + 16 * n) 16)⟩) []
    g := (List.range 16).foldl (fun (m : Sparse Word64) n => if n = 0 then m else Sparse.set 0 m n (BitVec.ofNat 64 (recDw b (0x600 + 8 * n)))) []
    v := (List.range 32).foldl (fun (m : Sparse VReg) n => Sparse.set 0 m n (BitVec.ofNat 512 (recNat b (0x800 + 64 * n) 64))) []
    sb := (List.range 8).foldl (fun (m : Sparse Nat) n => Sparse.set 0 m n (fld (recDw b 0xD0) (6 * n) 6)) []
    q := (List.range 8).foldl (fun (m : Sparse QBind) n =>
      let x := fld (recDw b 0xD8) (4 * n) 4
      Sparse.set {} m n { bound := bitAt x 3, queue := BitVec.ofNat 3 x }) []
    hold := 0, yielding := [], blocked := none }

/-- Pending items that PEND still names; a bit that it sets without an item adds none. -/
def Slot.pendFrom (l : Slot) (x : Nat) : Slot :=
  let keep (p : Pending) : Bool :=
    bitAt x (if p.cause = MATRIX_CHECK then 0 else if p.cause = POSTED_STORE_REFUSED then 1 else if p.cause = SEND_UNDELIVERABLE then 2 else 3)
  { l with pending := l.pending.filter keep, intrPreempt := if bitAt x 4 then l.intrPreempt else none
           intrTimer := l.intrTimer && bitAt x 4, intrInbox := l.intrInbox && bitAt x 4, intrMigrate := l.intrMigrate && bitAt x 4 }

/-- The slot state that a record gives; what it does not carry stays. -/
def Slot.fromRecord (l : Slot) (b : List Byte) : Slot :=
  let n := min 64 (fld (recDw b 0xE0) 8 7)
  let l1 := l.pendFrom (recDw b 0xE0)
  { l1 with
    uvec := maskTo vecMask (recDw b 0x38)
    tvec := maskTo vecMask (recDw b 0x40)
    wid := BitVec.ofNat 64 (recDw b 0x48)
    engcap := maskTo 0x00077F7F (recDw b 0x60)
    tbase := maskTo addrMask (recDw b 0x68)
    tlimit := maskTo addrMask (recDw b 0x70)
    seed := BitVec.ofNat 64 (recDw b 0x78)
    rngctl := maskTo 3 (recDw b 0x80)
    timecmp := BitVec.ofNat 64 (recDw b 0x90)
    timerDone := l1.timerDone && l1.timecmp.toNat == recDw b 0x90
    ien := maskTo 3 (recDw b 0x98)
    sregBase := BitVec.ofNat 56 (recDw b 0xB8)
    sregLimit := BitVec.ofNat 56 (recDw b 0xC0)
    sealmask := maskTo 0xFFFEFFFE (recDw b 0xF8)
    pstSeq := fld (recDw b 0xF0) 0 16
    sendSeq := fld (recDw b 0xF0) 16 16
    resumed := bitAt (recDw b 0xF0) 32
    coll := if fld (recDw b 0) 52 3 = 0 then none else l1.coll
    inbox := (List.range n).map (fun i => { val := BitVec.ofNat 128 (recNat b (0x1000 + 16 * i) 16), clock := ((l1.inbox[i]?).map (·.clock)).getD [] })
    locks := (List.range 8).foldl (fun (m : Sparse LockRec) i =>
      let lo := recDw b (0x100 + 16 * i) % 2 ^ 56
      let hi := recDw b (0x108 + 16 * i) % 2 ^ 57
      let old := Sparse.get {} l1.locks i
      if hi = 0 then m else m.put i { used := true, lo := lo, hi := hi, entries := if old.lo = lo ∧ old.hi = hi then old.entries else [] }) []
    matchTable := (List.range 32).foldl (fun (m : Sparse MatchEntry) i =>
      let x := recDw b (0x1900 + 16 * i)
      if bitAt x 20 then m.put i { armed := true, tag := fld x 0 16, len := 64 * (fld x 16 4 + 1), addr := recDw b (0x1908 + 16 * i) } else m) []
    arrivals := (List.range 8).foldl (fun (m : Sparse (List Beat)) q =>
      let k := min 16 (recDw b (0x1F00 + 8 * q))
      if k = 0 then m
      else m.put q ((List.range k).map (fun i =>
        { data := BitVec.ofNat 512 (recNat b (0x2000 + 1024 * q + 64 * i) 64), clock := (((Sparse.get [] l1.arrivals q)[i]?).map (·.clock)).getD [] }))) [] }

/-! ### Engine work of a stopped slot (R365) -/

/-- The completions of a slot that wait for its inbox go with it, each with its trap (R75). -/
def State.takeDone (s : State) (key : Nat) : State :=
  let core := key / 16
  let slot := key % 16
  forkEngines.foldl (fun (s : State) (e : Engine) =>
    let mine := (s.engine core e).done.filter (fun d => d.cmd.slot == slot)
    let s1 := s.modEngine core e (fun x => { x with done := x.done.filter (fun d => d.cmd.slot != slot) })
    mine.foldl (fun (s : State) d =>
      (s.releaseRanges core d.cmd.id e false).modSlot key (fun l =>
        Slot.withTrap { l with held := l.held ++ [{ entry := d.item e, names := cmdNames e d.cmd }] } d.cause d.tval)) s1) s

/-- R365: the slot's commands leave their engines: a partly run copy or quantisation command with its progress, be it in hand or
pushed again by a resumption and not yet in hand, and the unstarted ones in queue order. -/
def State.takeWork (s : State) (key : Nat) : State :=
  let core := key / 16
  let slot := key % 16
  let s1 := s.takeDone key
  forkEngines.foldl (fun (s : State) (e : Engine) =>
    let part : List Cmd := match (s.engine core e).run with
      | some r => if r.cmd.from core slot && e != Engine.matrix then [r.stopped] else []
      | none => []
    let again := (s.unstarted core slot e).filter (fun c => c.progress != 0)
    let rest := (s.unstarted core slot e).filter (fun c => c.progress == 0)
    let s2 := if part.isEmpty then s else ((s.modEngine core e (fun x => { x with run := none })).dropEngMisses core e)
    let s3 := (part.foldl (fun (s : State) (c : Cmd) => s.releaseRanges core c.id e false) s2).withdraw core slot e
    let s4 := s3.modEngine core e (fun x => { x with queue := x.queue.filter (fun q => q != QItem.list slot) })
    s4.modSlot key (fun l => { l with workKept := l.workKept ++ (part ++ again).map (fun (c : Cmd) => (2 * forkIx e, c)) ++ rest.map (fun c => (2 * forkIx e + 1, c)) })) s1

/-- A saved command is pushed again: checked as a push, and accepted whatever room there is (R368). (DEDUCED, log 67.) -/
def State.repush (s : State) (core : Nat) (e : Engine) (c : Cmd) : State :=
  let c0 : Cmd := { c with id := 0, status := 0, member := 0, abank := 0, bbank := 0, regions := [], seq := 0 }
  match s.accept core e c0 false with
  | some t => t
  | none =>
    let (t, c1) := s.nameCmd core e c0
    match checkCommand t core c.slot e c0.record with
    | .ok (a, b, rs) => t.enqueue core e { c1 with abank := a, bbank := b, regions := rs } rs .tail
    | .error st => t.enqueue core e { c1 with status := st } [] .tail

/-- R365, R366: the slot has met its stop: its context stands at a boundary, and its engines at their units. -/
def State.slotStopped (s : State) (key : Nat) : Bool := s.halting key && s.enginesStopped (key / 16) (key % 16)

/-! ### A vcore becomes live again (R363, R368) -/

/-- R186: the translations of the lock records are due again, before the vcore issues (`State.obtain`). -/
def State.relock (s : State) (key : Nat) : State :=
  s.modSlot key (fun l => { l with locks := l.locks.map (fun r => (r.1, { r.2 with entries := [], due := if r.2.used then some r.2.lo else none })) })

/-- R276: a hard deadline that met the vcore while it was stopped takes effect: its commands complete with HALTED and CANCELLED, and
it goes on at EXIT. -/
def State.takeExit (s : State) (key pc : Nat) : State :=
  let core := key / 16
  let slot := key % 16
  let pr := (s.slot key).prog
  let parts := forkEngines.flatMap (fun (e : Engine) => (s.slot key).workKept.filterMap (fun w => if w.1 = 2 * forkIx e then some (e, w.2) else none))
  let s1 := parts.foldl (fun (s : State) w =>
    s.modEngine core w.1 (fun x => { x with done := x.done ++ (completionOf w.1 w.2 0x05 w.2.counted 0 0 0).toList })) s
  let s2 := forkEngines.foldl (fun (s : State) (e : Engine) =>
    let rest := (s.slot key).workKept.filterMap (fun w => if w.1 = 2 * forkIx e + 1 then completionOf e w.2 0x04 0 0 0 0 else none)
    (s.modEngine core e (fun x => { x with done := x.done ++ rest })).cancelUnstarted core slot e) s1
  (s2.modSlot key (fun l => { l with exitAt := none, workKept := [], forks := [] })).modCtx (hartOfSlot key) (fun c =>
    c.sentTo pc pr.text (pr.text + 12 * pr.textN))

/-- Its commands and FORK lists are with their engines again. -/
def State.giveWork (s : State) (key : Nat) : State :=
  let core := key / 16
  let s1 := (s.slot key).workKept.foldl (fun (s : State) w =>
    match forkEngines[w.1 / 2]? with
    | some e => s.repush core e w.2
    | none => s) s
  let s2 := forkEngines.foldl (fun (s : State) (e : Engine) =>
    if (Sparse.get {} (s.slot key).forks (forkIx e)).active then s.modEngine core e (fun x => { x with queue := x.queue ++ [.list (key % 16)] }) else s) s1
  s2.modSlot key (fun l => { l with workKept := [] })

/-- The save area of a slot (R75). -/
def State.saveAt (s : State) (key : Nat) : Nat :=
  s.pageReg (s.paddockOf (key / 16)) 0x220 + (s.localCore (key / 16) * 16 + key % 16) * 16384
/-- The slot's record goes to its save area. -/
def State.saveRecord (s : State) (key : Nat) : State :=
  State.walkPut 4 s (s.paddockOf (key / 16)) (s.saveAt key) (s.recordImage key 0)

/-- R363, R368: the vcore with this state is live in a slot. -/
def State.seat (s : State) (key : Nat) (l : Slot) (c : Ctx) : State :=
  let here := s.slot key
  let s1 := (s.setSlot key
    { l with live := true, detached := false, refit := none, stopping := false, resident := s.residentAt key, residentSince := s.time, resumed := true
             journal := here.journal, retry := here.retry }).setCtx (hartOfSlot key) { c with live := !l.ended && !l.startDue, waitFrom := none }
  let s2 := match l.exitAt with
    | some pc => if c.frozen then s1.giveWork key else s1.takeExit key pc
    | none => s1.giveWork key
  let s3 := ((s2.relock key).modSlot key Slot.refill).moveExchanges l.lid l.vcore key
  if (s3.slot key).resident then s3.takeAllOwed key else s3.saveRecord key

/-! ### CTXSAVE and CTXLOAD -/

/-- The slot that CTXSAVE and CTXLOAD name. -/
def ctxSlot (op : Nat) (f : Fields) (s : State) : Exec Nat := do
  let b ← s.dataOpnd op 3 f.b
  need (decide (b < s.kPer)) BOUNDS b
  .ok b

/-- The places of a record's 16,384 bytes. -/
def recordAccess (op : Nat) (f : Fields) (st : Bool) (s : State) : Exec (State × List (Loc × Nat)) :=
  spanAccess s.cur { op := op, field := 2, opnd := f.a, n := 16384, al := 64, ld := !st, st := st, spaces := [0, 1] } (s.capOpnd f.a) (offsetOf f) s

/-- Bytes written at the places of a record. -/
def State.storeAt (s : State) : List (Loc × Nat) → List Byte → State
  | [], _ => s
  | (l, n) :: ls, bs => (s.storeBytes l.key (bs.take n)).storeAt ls (bs.drop n)

/-- A vcore becomes detached: its slot is reserved for it (R362). -/
def State.detach (s : State) (key : Nat) : State :=
  let s1 := s.takeWork key
  ((s1.dropMisses (hartOfSlot key)).modSlot key (fun l =>
    { l with live := false, detached := true, stopping := false, locks := l.locks.map (fun r => (r.1, { r.2 with entries := [] })) })).modCtx
      (hartOfSlot key) (fun c => { c with live := false })

/-- R362 CTXSAVE: it waits until the slot has met its stop. (DEDUCED, log 72.) -/
def ctxsaveBody (f : Fields) (s : State) : Exec Out := do
  let k := s.cur
  let b ← ctxSlot 0x386 f s
  let (s1, places) ← recordAccess 0x386 f true s
  let key := slotKey (coreOf k) b
  if b = s.slotNo k then done (s.setD f.d (CReg.word 2))
  else if !(s.slot key).live then done (s.setD f.d (CReg.word 3))
  else
    let s2 := s1.modSlot key (fun l => { l with stopping := true })
    if !(s2.slotStopped key) then .error (.stay (s.modSlot key (fun l => { l with stopping := true })))
    else do
      releaseWait s true
      let s3 := ((s2.takeDone key).storeAt places ((s2.takeDone key).recordImage key 2)).detach key
      let s4 := places.foldl (fun (s : State) p => (s.noteAccess k p.1 1).published k p.1.key p.2 false (some (4, 4)) []) s3
      done (s4.setD f.d (CReg.word 0))
def execCtxsave (f : Fields) (s : State) : Result := runScalar f (ctxsaveBody f) s

/-- The vcore that a record names, when it is detached or suspended: its slot if detached, and its state. -/
def State.savedVcore (s : State) (p : Nat) (b : List Byte) : Option (Option Nat × Slot × Ctx) :=
  let lid := recDw b 0xE8
  let v := recDw b 0x88
  if !((s.gang lid).live && (s.gang lid).ctx == p) then none
  else
    match s.slots.find? (fun x => x.2.detached && x.2.lid == lid && x.2.vcore == v), s.parkedOf lid v with
    | some x, _ => some (some x.1, x.2, s.ctx (hartOfSlot x.1))
    | none, some q => if v < 2 ^ 12 then some (none, q.slot, q.ctx) else none
    | none, none => none

/-- A saved vcore leaves the slot that was reserved for it, unless it is to be live there again, or the part's store of suspended ones. -/
def State.unseat (s : State) (from? : Option Nat) (l : Slot) (key : Nat) : State :=
  match from? with
  | some old => if old = key then s else s.vacate old
  | none => { s with parked := Sparse.drop s.parked (parkKey l.lid l.vcore) }

/-- R363: the status of a load of a record into a slot of a core. -/
def State.loadStatus (s : State) (core slot : Nat) (b : List Byte) : Nat :=
  let key := slotKey core slot
  match s.savedVcore (s.paddockOf core) b with
  | none => 5
  | some (from?, _, _) =>
    if !(recordForm b) then 5
    else if slot ≠ recordSlot b then 6
    else if ((s.slot key).live || (s.slot key).detached) && from? != some key then 4
    else if (s.core core).offer < recordAllot b then 1
    else 0

/-- R363 CTXLOAD; a record that it refuses with CONTEXT_FIT is the Drover's to re-place (R74). (DEDUCED, log 71.) -/
def ctxloadBody (f : Fields) (s : State) : Exec Out := do
  let k := s.cur
  let b ← ctxSlot 0x387 f s
  let (s1, places) ← recordAccess 0x387 f false s
  let bs := s.spanBytes places
  let o := Out.spans k { s := s1 } places
  let core := coreOf k
  let st := s.loadStatus core b bs
  let status (t : State) : Out := { o with s := t.setD f.d (CReg.word st) }
  match s.savedVcore (s.paddockOf core) bs with
  | none => .ok (status o.s)
  | some (from?, l, c) =>
    let s2 := o.s.acquired k (places.flatMap (fun p => (s.syncWith k 4 (s.countedAt p.1.key p.2)).map (gain 4 p.1.key p.2)))
    let learnt (x : Slot) : Slot := { x with known := { x.known with clock := joinClock x.known.clock (s2.known k).clock } }
    if st = 1 then .ok (status (s2.modVcore l.lid l.vcore (fun x => { learnt x with refit := some bs })))
    else if st ≠ 0 then .ok (status o.s)
    else
      let l' := learnt (l.fromRecord bs)
      .ok (status ((s2.unseat from? l (slotKey core b)).seat (slotKey core b) (if from?.isSome then l' else { l' with workKept := [] }) (c.fromRecord bs)))
def execCtxload (f : Fields) (s : State) : Result := runScalar f (ctxloadBody f) s

/-! ### The Crook (R366, R367) -/

/-- A suspension record's first byte. -/
def State.suspAt (s : State) (p q v : Nat) : Nat := s.pageReg p (0x300 + 8 * q) + v * fld (s.pageReg p 0x2C0) 0 32
/-- R367: the areas of a vcore in the order of the record: space, bytes, and offset from the record's first byte. -/
def savedAreas (pr : Prog) : List (Nat × Nat × Nat) :=
  [(2, pr.fpW, 0x6000), (3, pr.fpA, 0x6000 + pr.fpW), (4, pr.fpY, 0x6000 + pr.fpW + pr.fpA), (1, pr.fpL, 0x6000 + pr.fpW + pr.fpA + pr.fpY)]

/-- R367: the saved commands, from +0x4000 to +0x6000. -/
def savedCommands (work : List (Nat × Cmd)) : List Byte :=
  forkSaved.flatMap (fun n =>
    let one (c : Cmd) : List Byte := natToBytes 64 (c.record.toNat % 2 ^ 448 + c.progress % 2 ^ 64 * 2 ^ 448)
    padTo 64 ((work.filter (fun w => w.1 == 2 * n)).flatMap (fun w => one w.2)) ++
      padTo 2048 ((work.filter (fun w => w.1 == 2 * n + 1)).flatMap (fun w => natToBytes 64 w.2.record.toNat))) |> padTo 0x2000
where
  /-- Copy, matrix, quantisation, by the index of `forkIx`. -/
  forkSaved : List Nat := [0, 1, 2]

/-- A vcore is saved, and its slot freed. -/
def State.parkVcore (s : State) (p q key : Nat) : State :=
  let core := key / 16
  let lid := (s.slot key).lid
  let v := (s.slot key).vcore
  let pr := (s.slot key).prog
  let s1 := s.takeWork key
  let base := s.suspAt p q v
  let areas := (savedAreas pr).flatMap (fun a => s1.bytesAt (placeKey a.1 core (s1.shareStart (key % 16) a.1)) a.2.1)
  let s2 := State.walkPut 64 s1 p base (s1.recordImage key 1 ++ savedCommands (s1.slot key).workKept ++ areas)
  let l := s1.slot key
  let kept : Slot := { l with live := false, stopping := false, journal := [], retry := [], locks := l.locks.map (fun r => (r.1, { r.2 with entries := [] })) }
  ({ s2 with parked := s2.parked.put (parkKey lid v) { key := key, slot := kept, ctx := s1.ctx (hartOfSlot key) } }).vacate key

/-- R350, R367 PREIRQ: the stop of a queue's gang is told to a context. -/
def State.raisePreempt (s : State) (p q : Nat) : State :=
  let r := s.pageReg p 0x2C8
  match s.irqSlot p r with
  | some key => if bitAt r 63 && (s.slot key).live then s.modSlot key (fun l => { l with intrPreempt := some q }) else s
  | none => s

/-- R366 CROOK_SAVE: every slot and every engine has acknowledged. A gang that is to end leaves no record (R389). -/
def crookSaveStep (ctx queue : Nat) (s : State) : State :=
  let h := s.head ctx queue
  let keys := (s.slots.filter (fun x => x.2.live && x.2.lid == h.lid)).map (·.1)
  if !(s.serving && h.phase == 4 && (s.gang h.lid).live && keys.all s.slotStopped) then s
  else
    match (s.gang h.lid).endWith with
    | some status => if s.owesEntries h.lid then s else s.endKilled h.lid status
    | none =>
      let s1 := (keys.foldl (fun (s : State) key => s.parkVcore ctx queue key) s).modGang h.lid (fun g => { g with suspended := true })
      let s2 := s1.modHead ctx queue (fun x => { x with phase := 3, reserving := some s.time, holding := false })
      let s3 := if h.holding then (s2.putHeld ctx queue).modQueue ctx queue (fun w => { w with held := true }) else s2
      (s3.releaseStopper ctx queue).raisePreempt ctx queue
def execCrookSave (ctx queue : Nat) (s : State) : Result := .next (crookSaveStep ctx queue s)

/-! ### Resumption (R368) -/

/-- What a resumption reads of a vcore: its record, its commands and its areas. -/
structure Saved where
  vcore : Nat
  key : Nat
  bytes : List Byte
  work : List (Nat × Cmd)

/-- The commands in a suspension record (R367), each with what the part keeps of it beside its record: the list that it came from, what it
happens after, its sticky bits and maxima. -/
def commandsOf (b : List Byte) (slot mode : Nat) (clock : Sparse Nat) (kept : List (Nat × Cmd)) : List (Nat × Cmd) :=
  (List.range 3).flatMap (fun n =>
    let at_ (i : Nat) : Nat := recNat b (0x4000 + 0x840 * n + 64 * i) 64
    let old (code i : Nat) (r : BitVec 512) : Cmd :=
      let c := (((kept.filter (fun w => w.1 == code)).map (·.2))[i]?).filter (fun c => c.record.toNat % 2 ^ 448 == r.toNat % 2 ^ 448)
      { c.getD { clock := clock } with record := r, slot := slot, mode := mode }
    (List.range 33).filterMap (fun i =>
      if at_ i = 0 then none
      else if i = 0 then some (2 * n, { old (2 * n) 0 (BitVec.ofNat 512 (at_ i % 2 ^ 448)) with progress := at_ i / 2 ^ 448 })
      else some (2 * n + 1, old (2 * n + 1) (i - 1) (BitVec.ofNat 512 (at_ i)))))

/-- A core for a vcore whose own offers too little: the lowest-numbered local core that suffices and has the slot free (R74). (DEDUCED, log 70.) -/
def State.placeAgain (s : State) (p slot allot : Nat) (own : Option Nat) (taken : List Nat) : Option Nat :=
  ((List.range s.coresPer).map (fun c => slotKey (s.globalCore p c) slot)).find? (fun key =>
    decide (allot ≤ (s.core (key / 16)).offer) && (own == some key || (!(s.slot key).live && !(s.slot key).detached)) && !(taken.contains key))

/-- Where the suspended vcores go, and what their records hold: an error where a record fails a check or cannot be read, none where
a vcore waits for a slot. -/
def State.planResume (s : State) (p q lid : Nat) : List (Nat × Parked) → List Nat → Except Unit (Option (List Saved))
  | [], _ => .ok (some [])
  | (i, k) :: rest, taken =>
    let v := i % 2 ^ 12
    let slot := k.key % 16
    let pr := k.slot.prog
    let len := 0x6000 + pr.fpW + pr.fpA + pr.fpY + pr.fpL
    match s.walkRead p (s.suspAt p q v % 2 ^ 56) len with
    | none => .error ()
    | some b =>
      if !(recordForm b && recDw b 0xE8 == lid && recDw b 0x88 == v && recordSlot b == slot) then .error ()
      else
        let key? :=
          if recordAllot b ≤ (s.core (k.key / 16)).offer then (if (s.slot k.key).live || (s.slot k.key).detached then none else some k.key)
          else s.placeAgain p slot (recordAllot b) none taken
        match key? with
        | none => .ok none
        | some key =>
          match s.planResume p q lid rest (key :: taken) with
          | .error e => .error e
          | .ok none => .ok none
          | .ok (some xs) => .ok (some ({ vcore := v, key := key, bytes := b, work := commandsOf b slot (fld (k.ctx.statusFrom (recDw b 0x10)).toNat 0 2) k.slot.known.clock k.slot.workKept } :: xs))

/-- A vcore is restored from its suspension record: its areas, its record and its commands. -/
def State.restoreVcore (s : State) (p lid : Nat) (x : Saved) : State :=
  match s.parkedOf lid x.vcore with
  | none => s
  | some k =>
    let core := x.key / 16
    let s1 := (savedAreas k.slot.prog).foldl (fun (s : State) a =>
      if a.2.1 = 0 then s else s.storeBytes (placeKey a.1 core (s.shareStart (x.key % 16) a.1)) ((x.bytes.drop a.2.2).take a.2.1)) s
    let l := { k.slot.fromRecord x.bytes with workKept := x.work }
    let l' := if x.key = k.key then l else s.pageRegs p l
    ({ s1 with parked := Sparse.drop s1.parked (parkKey lid x.vcore) }).seat x.key l' (k.ctx.fromRecord x.bytes)

/-- R368 GANG_RESUME. -/
def gangResumeStep (ctx queue : Nat) (s : State) : State :=
  let h := s.head ctx queue
  if !(s.serving && h.phase == 6 && (s.gang h.lid).live && (s.gang h.lid).suspended) then s
  else
    let ps := s.parked.filter (fun x => x.1 / 2 ^ 12 == h.lid)
    match s.planResume ctx queue h.lid ps (ps.map (fun x => x.2.key)) with
    | .error _ => s.killGang h.lid ABORTED
    | .ok none => s.modHead ctx queue (fun x => { x with phase := 3 })
    | .ok (some xs) =>
      let s1 := xs.foldl (fun (s : State) x => s.restoreVcore ctx h.lid x) s
      let s2 := (s1.modGang h.lid (fun g => { g with suspended := false })).modHead ctx queue (fun x =>
        { x with phase := 2, reserving := none, notReady := none, stopper := none, holding := false })
      match (s2.gang h.lid).pipe with
      | some i => s2.settlePipe (ctx * 4 + i)
      | none => s2
def execGangResume (ctx queue : Nat) (s : State) : Result := .next (gangResumeStep ctx queue s)

/-! ### Swapping (R75) -/

/-- The effect of an instruction that waits, as R75, R133 and R364 list them. -/
def waitBody : Instr → Option (State → Exec Out)
  | .hurdle f => some (hurdleBody f)
  | .cyopen f => some (cyopenBody f)
  | .cystep f => some (cystepBody f)
  | .cyclose f => some (cycloseBody f)
  | .cwait f => some (cwaitBody f)
  | .cwaitSb f => some (cwaitSbBody f)
  | .waitm f => some (waitmBody f)
  | .inwait f => some (inwaitBody f)
  | .wfi f => some (wfiBody f)
  | .recv f => some (recvBody f)
  | .ppop f => some (ppopBody f)
  | .stv f => some (stvBody f)
  | _ => none

/-- The instructions that arrive (R262). -/
def arrives : Instr → Bool
  | .hurdle _ => true
  | .cyopen _ => true
  | .cystep _ => true
  | .cyclose _ => true
  | _ => false

/-- Whether the context of a slot would get on, were it resident: nothing keeps it, and the instruction that it meets does not
wait, or has yet to arrive. The second part of the answer says whether that instruction is one that waits. -/
def State.getsOn (s : State) (key : Nat) : Bool × Bool :=
  let k := hartOfSlot key
  let t := { (s.modSlot key (fun l => Slot.refill { l with resident := true })) with cur := k }
  if (t.ctx k).frozen then (false, false)
  else if (t.slot key).exitAt.isSome then (true, false)
  else if (t.slot key).startDue then (t.slot key |>.worker, false)
  else if !(t.mayIssue k) then (false, false)
  else if t.takesPending k then (true, false)
  else
    match t.nextInstr k with
    | .error (.stay _) => (false, true)
    | .error _ => (true, false)
    | .ok i =>
      match i.opFields with
      | none => (true, false)
      | some (_, f) =>
        if !((t.ctx k).hintsMet f.hint) then (false, false)
        else if ((t.core (coreOf k)).misses.any (fun m => m.ctx == some k && m.fail == 0 && (tlbFind (t.core (coreOf k)) m.va).isNone)) then (false, true)
        else
          match waitBody i with
          | some b =>
            if !(t.guardBit f 0) then (true, false)
            else if arrives i && (t.slot key).coll.isNone then (true, true)
            else (match b t with | .error (.stay u) => (u.missedMore t k, true) | _ => (true, true))
          | none => ((t.ctx k).blocked.isNone, (t.ctx k).blocked.isSome)

/-- A resident slot that another may replace: it waits (R75, R364), or has just yielded (R133). -/
def State.waits (s : State) (key : Nat) : Bool :=
  let c := s.ctx (hartOfSlot key)
  let r := s.getsOn key
  c.yielded || (c.blocked.isSome && r.2 && !r.1)

/-- The slots of a core that a test admits, in order. -/
def State.slotsOf (s : State) (core : Nat) (g : Nat → Slot → Bool) : List Nat :=
  ((List.range 16).map (slotKey core)).filter (fun key => (s.slot key).live && g key (s.slot key))

/-- The trace event of a swap (R79). -/
def State.swapEvent (s : State) (key ev : Nat) : TraceEvent := { core := s.localCore (key / 16), ev := ev, vcore := (s.slot key).vcore, ord := 0 }
/-- R81: whether a slot's launch admits its swap now. -/
def State.maySwap (s : State) (key ev : Nat) : Bool := (s.gang (s.slot key).lid).mayHave (s.swapEvent key ev)

/-- The slot swapped in next: the first ready one after the last (R75). -/
def State.nextIn (s : State) (core : Nat) : Option Nat :=
  (((List.range 16).map (fun i => slotKey core (((s.core core).lastSwapIn + 1 + i) % 16))).filter (fun key => (s.slot key).live)).find? (fun key =>
    !(s.slot key).resident && (s.getsOn key).1 && s.maySwap key 3)

def State.swapOut (s : State) (key : Nat) : State :=
  let s1 := s.saveRecord key
  ((s1.traceEvent (s.slot key).lid (s.swapEvent key 2)).modSlot key (fun l => { l with resident := false })).modCtx (hartOfSlot key) (fun c =>
    { c with hold := 0, yielding := [], blocked := none, yielded := false, waitFrom := if s.atPpop (hartOfSlot key) then none else c.waitFrom })

/-- A slot is resident again, as its record says; entries that were held enter its inbox. Where the save area cannot be read, or holds no
record of this vcore's swap, the slot resumes as it was swapped out: R75 names no failure of a swap. (DESIGN CHOICE, log 124.) -/
def State.swapIn (s : State) (key : Nat) : State :=
  let p := s.paddockOf (key / 16)
  let l := s.slot key
  let c := s.ctx (hartOfSlot key)
  let (l1, c1) := match s.walkRead p (s.saveAt key % 2 ^ 56) 16384 with
    | some b =>
      if recordForm b && recDw b 0xE8 == l.lid && recDw b 0x88 == l.vcore && recordSlot b == key % 16 && fld (recDw b 0) 48 4 == 0 then
        ({ l.fromRecord b with
            coll := l.coll, locks := l.locks, pending := l.pending, resumed := l.resumed, intrPreempt := l.intrPreempt
            intrTimer := l.intrTimer, intrInbox := l.intrInbox, intrMigrate := l.intrMigrate },
         { c.fromRecord b with waitFrom := c.waitFrom })
      else (l, c)
    | none => (l, c)
  let s1 := (s.setSlot key (Slot.refill { l1 with resident := true, residentSince := s.time })).setCtx (hartOfSlot key) c1
  let s2 := match l.exitAt with
    | some pc => (s1.modSlot key (fun l => { l with exitAt := none })).modCtx (hartOfSlot key) (fun c => c.sentTo pc l.prog.text (l.prog.text + 12 * l.prog.textN))
    | none => s1
  ((s2.modCore (key / 16) (fun C => { C with lastSwapIn := key % 16 })).traceEvent l.lid (s.swapEvent key 3)).takeAllOwed key

/-- The slot swapped in when another is swapped out: a trace that is followed has both events, the swap-out first (R79, R81). -/
def State.nextFor (s : State) (core victim : Nat) : Option Nat :=
  if s.maySwap victim 2 then (s.traceEvent (s.slot victim).lid (s.swapEvent victim 2)).nextIn core else none

/-- One slot is swapped in: in place of another, or into a hart context that no slot has. -/
def State.swapFor (s : State) (core : Nat) (victims : List Nat) : State :=
  if (s.slotsOf core (fun _ l => l.resident)).length < 4 then
    (match s.nextIn core with
     | some key => s.swapIn key
     | none => s)
  else
    let able := victims.filter (fun v => (s.nextFor core v).isSome)
    let v := able.getD (Config.freeNat s.free % able.length) 0
    match able, s.nextFor core v with
    | _ :: _, some key => (({ s with free := s.free + 1 } : State).swapOut v).swapIn key
    | _, _ => s

/-- R75 SLOT_SWAP. -/
def slotSwapStep (core : Nat) (s : State) : State :=
  if s.kPer < 8 || !s.serving || isService core then s else s.swapFor core (s.slotsOf core (fun key l => l.resident && s.waits key))
def execSlotSwap (core : Nat) (s : State) : Result := .next (slotSwapStep core s)

/-- R75 SWAP_QUANTUM_EXPIRY: the slot that has been resident longest, for 20 µs or more. -/
def swapQuantumExpiryStep (core : Nat) (s : State) : State :=
  if s.kPer < 8 || !s.serving || isService core then s
  else
    let old := s.slotsOf core (fun _ l => l.resident && decide (l.residentSince + 20000 ≤ s.time))
    let first := old.foldl (fun m key => min m (s.slot key).residentSince) s.time
    if old.isEmpty then s else s.swapFor core (old.filter (fun key => (s.slot key).residentSince == first))
def execSwapQuantumExpiry (core : Nat) (s : State) : Result := .next (swapQuantumExpiryStep core s)

/-! ### DISPATCH (R68) -/

/-- R81: launches whose traces cannot be followed end through the Crook. -/
def State.endDiverged (s : State) (p : Nat) : State :=
  (s.gangs.filter (fun g => g.2.ctx == p && s.diverged g.1)).foldl (fun (s : State) g => s.killGang g.1 REPLAY_DIVERGE) s

/-- R74: a vcore whose record CTXLOAD has refused with CONTEXT_FIT is live again where its allotment fits, once a slot is free there; a
detached one's areas go with it. (DEDUCED, log 70.) -/
def State.refitOne (s : State) (p : Nat) (x : Slot) : State :=
  match x.refit with
  | none => s
  | some b =>
    match s.savedVcore p b, s.placeAgain p (recordSlot b) (recordAllot b) (s.seatOf x.lid x.vcore) [] with
    | some (from?, l, c), some key =>
      let s1 := match from? with
        | some old => (savedAreas l.prog).foldl (fun (t : State) (a : Nat × Nat × Nat) =>
            if a.2.1 = 0 || old = key then t
            else t.storeBytes (placeKey a.1 (key / 16) (s.shareStart (key % 16) a.1)) (s.bytesAt (placeKey a.1 (old / 16) (s.shareStart (old % 16) a.1)) a.2.1)) s
        | none => s
      let l' := s.pageRegs p (l.fromRecord b)
      (s1.unseat from? l key).seat key (if from?.isSome then l' else { l' with workKept := [] }) (c.fromRecord b)
    | _, _ => s
/-- The vcores of a context that wait to be re-placed. -/
def State.refitAll (s : State) (p : Nat) : State :=
  let waits := s.slots.map (·.2) ++ s.parked.map (fun x => x.2.slot)
  (waits.filter (fun l => l.refit.isSome && (s.gang l.lid).ctx == p)).foldl (fun (s : State) l => s.refitOne p l) s

/-- R62, R68, R69, R74, R82: the Drover of a context looks at its queues and takes one decision. -/
def dispatchStep (ctx : Nat) (s : State) : State :=
  if !(s.serving && s.ctxActive ctx) then s
  else
    let s1 := (s.settleRetired ctx).refitAll ctx
    let s2 := (List.range 4).foldl (fun (s : State) i => s.settlePipe (ctx * 4 + i)) s1
    let s3 := (List.range 64).foldl (fun (s : State) q => s.loadHead ctx q) (s2.endDiverged ctx)
    ((s3.applyPriority ctx).noteReady ctx).takeDecision ctx
def execDispatch (ctx : Nat) (s : State) : Result := .next (dispatchStep ctx s)


end Sys2Proof.Machine
end

