-- ==== Sys2Proof/Machine/Byvon.lean ====
section
/-!
DEFINITION. Byvon: the mailbox (R378), REPORT (R380), the flock enclave and its keys (R381, R382), revocation (R385), and the
release of frozen masters (R387).  Request blocks are opaque where the specification gives no layout (`Config`).
-/

namespace Sys2Proof.Machine

/-! ### The mailbox (R378) -/

def OK : Nat := 0
def BAD_OP : Nat := 1
def FORM : Nat := 2
def SIGNATURE : Nat := 3
def QUORUM : Nat := 4
def EPOCH : Nat := 5
def KEYS_OUT : Nat := 6
def BUSY : Nat := 7
def FW_BAD : Nat := 8

/-- A command of an OP is in hand. -/
def State.commanded (s : State) (op : Nat) : Bool := !s.device.off && !s.byvon.done && s.byvon.op == op
/-- The command in hand completes. -/
def State.byvonEnds (s : State) (code : Nat) : State :=
  { s with byvon := { s.byvon with done := true, code := if s.byvon.busy then BUSY else code, busy := false, request := [] } }

/-- A range of device memory that is mapped (R178, R400). -/
def State.inDevice (s : State) (a n : Nat) : Bool := inOneTier a n && decide (a + n ≤ 2 ^ 41) && s.mappedYet a
/-- The request block of the command in hand: 64-byte aligned, and read once. -/
def State.requestBlock (s : State) (n : Nat) : Option (List Byte) :=
  if s.byvon.arg % 64 = 0 ∧ s.inDevice s.byvon.arg n then some (s.bytesAt s.byvon.arg n) else none

/-! ### REPORT (R375, R379, R380) -/

/-- R375: the device identity. -/
def deviceIdentity : List Byte := sha256 (natToBytes 60 Config.hssKey)
def identityNum : Nat := bytesToNat deviceIdentity

/-- Bytes 0x000 to 0x81F of a report. -/
def State.reportBody (s : State) (nonce : List Byte) (index : Nat) : List Byte :=
  let b := s.byvon
  let eight := List.range 8
  le8 (0x44564154 + 2 ^ 32) ++
    le8 (eight.foldl (fun x j => if (s.drover j).enclave then x + 2 ^ j else x) 0) ++
    padTo 32 nonce ++ deviceIdentity ++ digestBytes b.fwdig ++
    le8 ((b.flock.map (·.flock)).getD 0) ++
    le8 (b.device % 2 ^ 12 + b.member % 2 ^ 12 * 2 ^ 12 + b.epoch % 2 ^ 32 * 2 ^ 24) ++
    eight.flatMap (fun j => digestBytes (s.drover j).log) ++
    eight.flatMap (fun j => le8 (s.drover j).logcnt) ++
    le8 s.time ++ le8 index ++ List.replicate 48 0 ++
    padTo 1568 (Config.mlkemPublic b.powerUps)

/-- R375: the next index is committed in one step; the report with its signature is released in the next. -/
def reportStep (s : State) : State :=
  let b := s.byvon
  if !(s.commanded 1) then s
  else
    match b.committed with
    | none =>
      if 2 ^ 40 ≤ b.index then s.byvonEnds KEYS_OUT
      else
        match s.requestBlock 40 with
        | none => s.byvonEnds FORM
        | some r =>
          if s.inDevice (bytesToNat (r.drop 32)) 8192 then
            { s with byvon := { b with index := b.index + 1, committed := some b.index, request := r } }
          else s.byvonEnds FORM
    | some i =>
      let body := s.reportBody (b.request.take 32) i
      let t := s.storeBytes (bytesToNat (b.request.drop 32)) (body ++ padTo 5716 (Config.hssSign i body))
      { t with byvon := { t.byvon with committed := none } }.byvonEnds OK
def execReport (s : State) : Result := .next (reportStep s)

/-! ### JOIN (R381) -/

/-- The limits of an enclave descriptor, and this module's place in it. -/
def descriptorForm (d : Config.EnclaveDesc) : Bool :=
  let nm := d.members.length
  decide (2 ≤ nm) && decide (nm ≤ 64) && decide ((d.members.map (·.1)).dedup.length = nm) &&
    decide (nm / 2 + 1 ≤ d.quorum) && decide (d.quorum ≤ nm) && decide (d.allow.length ≤ 64) &&
    d.modules.all (fun m => decide (1 ≤ m.1) && decide (m.1 ≤ 4095) && d.members.any (fun x => x.1 == m.2.2)) &&
    decide ((d.modules.map (·.1)).dedup.length = d.modules.length) && decide ((d.modules.map (·.2.1)).dedup.length = d.modules.length) &&
    d.modules.any (fun m => m.2.1 == identityNum)

/-- A signature of each member verifies over the descriptor. -/
def descriptorSigned (d : Config.EnclaveDesc) : Bool :=
  d.members.all (fun m => d.signatures.any (fun x => x.1 == m.1 && Config.hssVerify m.2 d.signed x.2))

/-- R113, R381: ENCL in every context of a paddock that enters or leaves enclave mode. -/
def State.enclaveModes (s : State) (ps : List Nat) : State :=
  let on (core : Nat) : Bool := ps.contains (s.paddockOf core)
  let s1 := (List.range 8).foldl (fun (s : State) p =>
    if (s.drover p).enclave = ps.contains p then s else s.modDrover p (fun d => { d with enclave := ps.contains p })) s
  { s1 with
    ctxs := s1.ctxs.map (fun (x : Nat × Ctx) => (x.1, x.2.setStatus 27 1 (if on (coreOf x.1) then 1 else 0)))
    gangs := s1.gangs.map (fun (x : Nat × Gang) => if x.2.live then (x.1, { x.2 with encl := ps.contains x.2.ctx }) else x)
    parked := s1.parked.map (fun (x : Nat × Parked) =>
      (x.1, { x.2 with ctx := x.2.ctx.setStatus 27 1 (if on (x.2.key / 16) then 1 else 0) })) }

/-- R382: the pair key K(a, b) of members a ≤ b, which the module holds once it has both session keys and neither member is
revoked (R385). -/
def State.pairKey (s : State) (a b : Nat) : Option (List Byte) :=
  match s.byvon.flock with
  | none => none
  | some f =>
    let lo := min a b
    let hi := max a b
    let key (m : Nat) : Option (BitVec 256) :=
      if s.revoked.contains (m + 1) then none else (s.byvon.session.find? (fun x => x.1 == m)).map (·.2)
    match key lo, key hi with
    | some x, some y => some (hkdf32 (le8 f.flock) (digestBytes x ++ digestBytes y) (natToBytes 2 lo ++ natToBytes 2 hi))
    | _, _ => none

/-- R382: the module holds the pair key of its own member and the member at the far end of a port. -/
def State.portKeyed (s : State) (port : Nat) : Bool :=
  match s.memberOf (Config.portPeer port) with
  | some m => (s.pairKey s.byvon.member m).isSome
  | none => false

/-- A state of a port in which it is up (R396). -/
def portUp (x : Nat) : Bool := x == 2 || x == 3
/-- A port changes its state, which STATEVEC tells (R398). -/
def State.setLink (s : State) (p x : Nat) : State :=
  if s.linkOf p = x then s
  else
    let down := if portUp (s.linkOf p) && !(portUp x) then s.device.downAt.put p s.time else s.device.downAt
    ({ s with device := { s.device with linkst := setField64 s.device.linkst (4 * p) 4 x, downAt := down } }).raiseMsix 0 s.device.statevec

/-- R382, R383, R385: a port whose pair key is gone carries no enclave traffic. -/
def State.unkeyPorts (s : State) : State :=
  (List.range 16).foldl (fun (s : State) p => if s.linkOf p == 3 && !(s.portKeyed p) then s.setLink p 2 else s) s

/-- The module enters the flock (R381). (DEDUCED, log 78.) -/
def State.joinFlock (s : State) (d : Config.EnclaveDesc) (ranges : List (Nat × Nat × Nat)) : State :=
  let mine := (d.modules.find? (fun m => m.2.1 == identityNum)).getD (0, 0, 0)
  let again := s.byvon.flock.any (fun f => f.flock == d.flock % 2 ^ 64)
  let flock : Flock := { flock := d.flock % 2 ^ 64, quorum := d.quorum, members := d.members, modules := d.modules, allow := d.allow, paddocks := d.paddocks }
  let s1 := s.enclaveModes d.paddocks
  { s1 with
    byvon := { s1.byvon with flock := some flock, device := mine.1, member := mine.2.2, epoch := 0, session := [] }
    firewall := (ranges.filter (fun r => d.paddocks.contains r.2.2)).take 64
    revoked := if again then s1.revoked else [] }

/-- R381 JOIN. (DEDUCED, log 77.) -/
def joinStep (s : State) : State :=
  if !(s.commanded 2) then s
  else
    match s.requestBlock (Config.requestBytes 2) with
    | none => s.byvonEnds FORM
    | some b =>
      if Config.isKeyBlock b then s
      else
        match Config.readDescriptor b with
        | none => s.byvonEnds FORM
        | some d =>
          if !(descriptorForm d) then s.byvonEnds FORM
          else if !(descriptorSigned d) then s.byvonEnds SIGNATURE
          else ((s.joinFlock d (Config.ownedRanges b)).unkeyPorts).byvonEnds OK
def execJoin (s : State) : Result := .next (joinStep s)

/-! ### Keys (R382, R383) -/

/-- A member is one of the flock's. -/
def State.isMember (s : State) (m : Nat) : Bool := s.byvon.flock.any (fun f => f.members.any (fun x => x.1 == m))

/-- R382: a JOIN block of kind KEY. -/
def joinKeyStep (s : State) : State :=
  if !(s.commanded 2) then s
  else
    match s.requestBlock (Config.requestBytes 2) with
    | none => s
    | some b =>
      if !(Config.isKeyBlock b) then s
      else
        match Config.readKeyBlock b with
        | none => s.byvonEnds FORM
        | some k =>
          if !(s.isMember k.member) then s.byvonEnds FORM
          else
            let key := digest (padTo 32 (Config.mlkemOpen s.byvon.powerUps k.cipher))
            ({ s with byvon := { s.byvon with session := s.byvon.session.put k.member key } }).byvonEnds OK
def execJoinKey (s : State) : Result := .next (joinKeyStep s)

/-! ### REVOKE (R385) -/

/-- R385: at least Q distinct members other than r have signed. -/
def signers (f : Flock) (r : Config.RevokeRecord) : List Nat :=
  ((r.signatures.map (·.1)).filter (fun m => m != r.member && f.members.any (fun x => x.1 == m))).dedup
/-- Every signature verifies. -/
def revokeSigned (f : Flock) (r : Config.RevokeRecord) : Bool :=
  r.signatures.all (fun x => f.members.any (fun m => m.1 == x.1 && Config.hssVerify m.2 r.signed x.2))

/-- R385 step 4: the header, set and elements with which a collective ends REVOKED. -/
def State.endsRevoked (s : State) (fold header cset : Nat) : State :=
  s.sendDown fold (setFld header 16 3 2) cset (List.replicate (wireCount (hdrBf header)) 0)

/-- Ports of a tree entry that a combining entry waits on, or that a push-mode send waits on. -/
def entryPorts (te : Nat) : List Nat := ((treeInputs te).filter (fun i => decide (17 ≤ i))).map (· - 16)
def State.pushPorts (s : State) (fold : Nat) (x : PushSent) : List Nat :=
  let te := s.treeEntry fold (hdrTree x.header)
  entryPorts te ++ [16 + x.port.getD (fld te 56 4)]

/-- R385 step 4: combining entries and push-mode sends that look toward a module of the member end with REVOKED. -/
def State.endToward (s : State) (devs : List Nat) : State :=
  let toward (fold : Nat) (ports : List Nat) : Bool := ports.any (fun p => devs.any (fun d => Config.leadsTo fold p d))
  (List.range Config.folds).foldl (fun (s : State) fold =>
    let es := (s.fold fold).comb.filter (fun e => toward fold (entryPorts e.latched))
    let ps := (s.fold fold).pushed.filter (fun x => toward fold (s.pushPorts fold x))
    let s1 := es.foldl (fun (s : State) e =>
      let (h, cset, _) := entrySum e
      (s.modFold fold (fun F => { F with comb := F.comb.erase e, lastSeq := F.lastSeq.put e.group e.seq })).endsRevoked fold h cset) s
    ps.foldl (fun (s : State) x => (s.dropPushed fold x).endsRevoked fold x.header x.cset) s1) s

/-- A context that works for a vcore: one that is live, that waits for an item or a binding, or that is detached. -/
def State.serves (s : State) (k : Nat) : Bool := (s.ctx k).live || (!(isDrain k) && ((s.slotOf k).live || (s.slotOf k).detached))
/-- R385 step 3: on a module of the revoked member, every context with ENCL 1 is frozen, the suspended ones too. -/
def State.freezeEnclave (s : State) : State :=
  let s1 := (s.ctxs.filter (fun x => s.serves x.1 && x.2.encl && !x.2.frozen)).foldl (fun (s : State) x => s.freeze x.1 2 0) s
  (s1.parked.filter (fun x => x.2.ctx.encl && !x.2.ctx.frozen)).foldl (fun (s : State) x =>
    ({ s with parked := s.parked.put x.1 { x.2 with ctx := { x.2.ctx with frozen := true } } }).reportFreeze (foldOf (x.2.key / 16))
      { time := s.time, cause := 2, kind := 0, unit := 0, slot := x.2.key % 16, core := x.2.key / 16, addr := 0, lid := x.2.slot.lid }) s1

/-- R385: the steps of a revocation, as one step. (DEDUCED, log 79.) -/
def State.applyRevocation (s : State) (f : Flock) (r epoch : Nat) : State :=
  let own := r == s.byvon.member
  let devs := (f.modules.filter (fun m => m.2.2 == r)).map (·.1)
  let s1 : State := { s with
    byvon := { s.byvon with epoch := epoch, session := Sparse.drop s.byvon.session r }
    revoked := (if own then NatSet.insert s.revoked 0 else s.revoked).insert (r + 1) }
  ((if own then s1.freezeEnclave else s1).endToward devs).unkeyPorts

/-- R385 REVOKE. -/
def revokeStep (s : State) : State :=
  if !(s.commanded 3) then s
  else
    match s.requestBlock (Config.requestBytes 3), s.byvon.flock with
    | some b, some f =>
      match Config.readRevoke b with
      | none => s.byvonEnds FORM
      | some r =>
        if !(r.flock == f.flock && f.members.any (fun x => x.1 == r.member) && decide (r.epoch < 2 ^ 32)) then s.byvonEnds FORM
        else if (signers f r).length < f.quorum then s.byvonEnds QUORUM
        else if !(revokeSigned f r) then s.byvonEnds SIGNATURE
        else if r.epoch ≤ s.byvon.epoch then s.byvonEnds EPOCH
        else (s.applyRevocation f r.member r.epoch).byvonEnds OK
    | _, _ => s.byvonEnds FORM
def execRevoke (s : State) : Result := .next (revokeStep s)

/-! ### THAW and SCRUB (R387) -/

/-- The engine of a CLASS (R212). -/
def classEngine (u : Nat) : Option Engine := [Engine.copy, .matrix, .quant].find? (fun e => engineCls e == u)
/-- The context that a master's name means. -/
def masterKey (m : Config.MasterName) : Nat := if m.kind = 1 then drainKey m.core m.unit else hartKey m.core m.slot

/-- The frozen vcore of a suspended gang that a master's name means: the one that held the slot. -/
def State.frozenParked (s : State) (m : Config.MasterName) : Option (Nat × Parked) :=
  s.parked.find? (fun x => m.kind == 0 && x.2.key == slotKey m.core m.slot && x.2.ctx.frozen)

/-- The named master is frozen, and is no context of a revoked member's module (R387). (DEDUCED, log 80.) -/
def State.mayRelease (s : State) (m : Config.MasterName) : Bool :=
  match m.kind with
  | 0 => decide (m.slot < 16) && ((s.ctx (masterKey m)).frozen || (s.frozenParked m).isSome) && !(s.revoked.contains 0)
  | 1 => decide (m.unit < 4) && (s.ctx (masterKey m)).frozen && !(s.revoked.contains 0)
  | 2 => (match classEngine m.unit with | some e => (s.engine m.core e).frozen | none => false)
  | 3 => s.device.hostFrozen
  | 4 => decide (m.unit < 16) && s.linkOf m.unit == 4
  | _ => false

/-- A master resumes as it stood; a vcore that a hard deadline has met meanwhile goes on at EXIT (R276). (DEDUCED, log 80.) -/
def State.thawMaster (s : State) (m : Config.MasterName) : State :=
  match m.kind with
  | 2 => (match classEngine m.unit with | some e => s.modEngine m.core e (fun x => { x with frozen := false }) | none => s)
  | 3 => { s with device := { s.device with hostFrozen := false } }
  | 4 => ({ s with device := { s.device with authFails := s.device.authFails.put m.unit 0 } }).setLink m.unit 3
  | _ =>
    if (s.ctx (masterKey m)).frozen then
      let t := s.modCtx (masterKey m) (fun c => { c with frozen := false })
      let key := slotKey m.core m.slot
      match m.kind, (s.slot key).exitAt with
      | 0, some pc => if (s.slot key).live then t.exitLive key pc else t
      | _, _ => t
    else
      match s.frozenParked m with
      | some x => { s with parked := s.parked.put x.1 { x.2 with ctx := { x.2.ctx with frozen := false } } }
      | none => s

/-- A range of places holds zeros. -/
def State.zeroRange (s : State) (a n : Nat) : State :=
  { s with
    mem := s.mem.filter (fun e => !(decide (a ≤ e.1) && decide (e.1 < a + n)))
    tags := clearTags s.tags a n
    poison := s.poison.filter (fun w => !(decide (a ≤ w * 8) && decide (w * 8 + 8 ≤ a + n)))
    syncs := s.syncs.filter (fun r => !(overlaps r.addr r.size a n)) }

/-- A slot whose context record and queues are zeros. Entries that the vcores before have left with its interface stay there (R361). -/
def Slot.zeroed (l : Slot) : Slot :=
  { engcap := 0, tlimit := 0, timecmp := 0, journal := l.journal.filter (fun e => !(e.2.lid == l.lid && e.2.vcore == l.vcore))
    retry := l.retry.filter (fun e => !(e.2.lid == l.lid && e.2.vcore == l.vcore)) }

/-- R387 SCRUB of a hart slot: its context record, its share areas and its queues are zeroed, and it is freed. -/
def State.scrubSlot (s : State) (key : Nat) : State :=
  let core := key / 16
  let slot := key % 16
  let s1 := State.walkPut 4 s (s.paddockOf core) (s.saveAt key) (List.replicate 16384 0)
  let s2 := [1, 2, 3, 4].foldl (fun (s : State) sp => s.zeroRange (placeKey sp core (s.shareStart slot sp)) (s.shareSize sp)) s1
  let s3 := s2.dropEngineWork core slot
  let z := (s3.slot key).zeroed
  let s4 := if (s3.slot key).live || (s3.slot key).detached then s3.leave key else s3.freeSlot key
  (s4.setSlot key z).setCtx (hartOfSlot key) { status := 0 }

/-- R387 SCRUB of a suspended vcore: its suspension record, with its areas and commands, is zeroed, and it is no more. -/
def State.scrubParked (s : State) (i : Nat) (x : Parked) : State :=
  let lid := x.slot.lid
  let g := s.gang lid
  let n := (savedAreas x.slot.prog).foldl (fun (m : Nat) (a : Nat × Nat × Nat) => max m (a.2.2 + a.2.1)) 0
  let s1 := State.walkPut 64 s g.ctx (s.suspAt g.ctx g.queue x.slot.vcore) (List.replicate n 0)
  let s2 : State := ({ s1 with parked := Sparse.drop s1.parked i } : State).modGang lid (fun g => { g with retired := g.retired ++ [x.slot.vcore] })
  if (s2.gang lid).retired.length = (s2.gang lid).vcores then s2.gangEnd lid none else s2.cycleGone g.ctx lid x.slot.vcore

/-- R387 SCRUB of an engine: what it was given is gone. -/
def State.scrubEngine (s : State) (core : Nat) (e : Engine) : State :=
  (s.modEngine core e (fun _ => {})).modCore core (fun c => { c with ranges := c.ranges.filter (fun r => r.engine != e) })

def State.scrubMaster (s : State) (m : Config.MasterName) : State :=
  match m.kind with
  | 0 =>
    (match s.frozenParked m with
     | some x => if (s.ctx (masterKey m)).frozen then s.scrubSlot (slotKey m.core m.slot) else s.scrubParked x.1 x.2
     | none => s.scrubSlot (slotKey m.core m.slot))
  | 1 => (s.endHandler (masterKey m) id).setCtx (masterKey m) {}
  | 2 => (match classEngine m.unit with | some e => s.scrubEngine m.core e | none => s)
  | 3 => { s with device := { s.device with hostFrozen := false } }
  | _ => ({ s with device := { s.device with authFails := s.device.authFails.put m.unit 0 } }).setLink m.unit 0

/-- The master that the block of a command names, where the command applies to it. -/
def State.namedMaster (s : State) (op : Nat) : Option Config.MasterName :=
  ((s.requestBlock (Config.requestBytes op)).bind Config.readMaster).filter s.mayRelease

/-- R387 THAW. -/
def thawStep (s : State) : State :=
  if !(s.commanded 4) then s
  else
    match s.namedMaster 4 with
    | none => s.byvonEnds FORM
    | some m => (s.thawMaster m).byvonEnds OK
def execThaw (s : State) : Result := .next (thawStep s)

/-- R387 SCRUB. -/
def scrubStep (s : State) : State :=
  if !(s.commanded 5) then s
  else
    match s.namedMaster 5 with
    | none => s.byvonEnds FORM
    | some m => (s.scrubMaster m).byvonEnds OK
def execScrub (s : State) : Result := .next (scrubStep s)

/-- R378: a command of another OP. -/
def badOpStep (s : State) : State :=
  if !s.device.off && !s.byvon.done && (s.byvon.op == 0 || decide (5 < s.byvon.op)) then s.byvonEnds BAD_OP else s
def execBadOp (s : State) : Result := .next (badOpStep s)

end Sys2Proof.Machine
end

