-- ==== Sys2Proof/Machine/Capability.lean ====
section
/-!
DEFINITION. Capability instructions (R124 to R126).
-/

namespace Sys2Proof.Machine

/-- R124 checks 1 to 3: the source capability, unsealed where `open_` says so, and the data operand B. -/
def capOperands (op : Nat) (f : Fields) (signed open_ : Bool) (s : State) : Exec (Cap × Nat) := do
  let r := s.capOpnd f.a
  need r.tag TAG (tagTval op 2 f.a)
  need (!open_ || !(r.cap.has permS)) PERM r.cap.cursor
  let b ← s.opndB op f signed
  .ok (r.cap, b)

/-- R124, R125 CBND. The TVAL of BOUNDS is A's cursor as it stood. (DESIGN CHOICE, log 119.) -/
def cbndBody (f : Fields) (s : State) : Exec Out := do
  let (c, l) ← capOperands 0x040 f false true s
  need (decide (c.off + l ≤ c.len)) BOUNDS c.cursor
  match lenEncode l with
  | none => trap BOUNDS c.cursor
  | some (m, e) => done (s.setD f.d ({ c with base := c.cursor, off := 0, lenM := m, lenE := e } : Cap).reg)
def execCbnd (f : Fields) (s : State) : Result := runScalar f (cbndBody f) s

/-- R124 CSOFF. The TVAL of BOUNDS is A's cursor as it stood. (DESIGN CHOICE, log 119.) -/
def csoffBody (f : Fields) (s : State) : Exec Out := do
  let (c, b) ← capOperands 0x041 f false true s
  need (decide (b < 2 ^ 40)) BOUNDS c.cursor
  done (s.setD f.d ({ c with off := b } : Cap).reg)
def execCsoff (f : Fields) (s : State) : Result := runScalar f (csoffBody f) s

/-- R124 CINC. The TVAL of BOUNDS is A's cursor as it stood. (DESIGN CHOICE, log 119.) -/
def cincBody (f : Fields) (s : State) : Exec Out := do
  let (c, b) ← capOperands 0x042 f true true s
  let o : Int := (c.off : Int) + sx b 64
  need (decide (0 ≤ o) && decide (o < (2 : Int) ^ 40)) BOUNDS c.cursor
  done (s.setD f.d ({ c with off := o.toNat } : Cap).reg)
def execCinc (f : Fields) (s : State) : Result := runScalar f (cincBody f) s

/-- R124 CPERM: PERM[5:0] is masked; S and I stay. -/
def cpermBody (f : Fields) (s : State) : Exec Out := do
  let (c, b) ← capOperands 0x043 f false true s
  done (s.setD f.d ({ c with perm := setFld c.perm 0 6 (c.perm &&& b) } : Cap).reg)
def execCperm (f : Fields) (s : State) : Result := runScalar f (cpermBody f) s

/-- R124: one field of a capability as data. -/
def Cap.field (c : Cap) (k : Nat) : Nat :=
  match k with
  | 0 => c.base
  | 1 => c.off
  | 2 => c.len
  | 3 => c.perm
  | 4 => c.space
  | 5 => c.otype
  | _ => c.cursor

/-- R124 CFLD: an untagged source gives 0. -/
def cfldBody (f : Fields) (s : State) : Exec Out :=
  let r := s.capOpnd f.a
  done (s.setD f.d (CReg.word (if r.tag then r.cap.field (f.mod 0 3) % 2 ^ 64 else 0)))
def execCfld (f : Fields) (s : State) : Result := runScalar f (cfldBody f) s

/-- R124 CTAG. -/
def ctagBody (f : Fields) (s : State) : Exec Out := done (s.setGuardD f.d (guardOf (s.capOpnd f.a).tag))
def execCtag (f : Fields) (s : State) : Result := runScalar f (ctagBody f) s

/-- R126 CSEAL. -/
def csealBody (f : Fields) (s : State) : Exec Out := do
  let (c, t) ← capOperands 0x046 f false true s
  need (decide (1 ≤ t) && decide (t ≤ 15)) BOUNDS t
  need (bitAt (s.slotOf s.cur).sealmask.toNat t) PERM c.cursor
  done (s.setD f.d ({ c with perm := c.perm ||| 2 ^ permS, otype := t } : Cap).reg)
def execCseal (f : Fields) (s : State) : Result := runScalar f (csealBody f) s

/-- R124, R126 CUNSEAL. -/
def cunsealBody (f : Fields) (s : State) : Exec Out := do
  let (c, t) ← capOperands 0x047 f false false s
  need (c.has permS) PERM c.cursor
  need (decide (1 ≤ t) && decide (t ≤ 15)) BOUNDS t
  need (bitAt (s.slotOf s.cur).sealmask.toNat (16 + t) && c.otype == t) PERM c.cursor
  done (s.setD f.d ({ c with perm := setFld c.perm permS 1 0, otype := 0 } : Cap).reg)
def execCunseal (f : Fields) (s : State) : Result := runScalar f (cunsealBody f) s

/-- R124 CCLR. -/
def cclrBody (f : Fields) (s : State) : Exec Out := done (s.setD f.d { s.capOpnd f.a with tag := false })
def execCclr (f : Fields) (s : State) : Result := runScalar f (cclrBody f) s

end Sys2Proof.Machine
end

