-- ==== Sys2Proof/Machine/Device.lean ====
section
/-!
DEFINITION. The device page and bring-up: partition changes (R397), the Olgus ports (R383, R398), TIME (R399), the states of DEVSTATE
(R400), power (R401), the host ports (R231, R395) and host accesses (R386).
-/

namespace Sys2Proof.Machine

/-! ### Partition changes (R397) -/

/-- R397: every enabled queue of a context is empty, and the context holds no suspended gang, detached vcore, active pipeline or open
cycle context. -/
def State.contextIdle (s : State) (p : Nat) : Bool :=
  (List.range 64).all (fun q => match s.qdesc p q with | some d => !d.en || d.rdidx == d.wridx | none => true) &&
    !(s.gangs.any (fun g => g.2.live && g.2.suspended && g.2.ctx == p)) &&
    !(s.slots.any (fun x => x.2.detached && s.paddockOf (x.1 / 16) == p)) &&
    !(s.pipes.any (fun x => x.1 / 4 == p && x.2.live)) &&
    !(s.cycles.any (fun x => x.1 / 8 == p && x.2.isOpen))

/-- R397: the partition changes. -/
def State.repartition (s : State) (n : Nat) : State :=
  { s with
    device := { s.device with nlog := n }
    cores := s.cores.map (fun (x : Nat × Core) => (x.1, { x.2 with tlb := [], tile := [], tileOwner := none }))
    drovers := s.drovers.map (fun (x : Nat × Drover) => (x.1, { x.2 with maps := [] }))
    folds := s.folds.map (fun (x : Nat × Fold) => (x.1, { x.2 with lastSeq := [] })) }

/-- R396, R397, R400: a write of PARTCFG. In REDUCED, NLOG ignores it. -/
def partitionChangeStep (value : Word64) (s : State) : State :=
  if !s.serving then s
  else
    let s1 : State := { s with device := { s.device with parterr := s.device.parterr && !(bitAt value.toNat 8) } }
    if s1.device.state = 1 then s1
    else if (List.range 8).all s1.contextIdle then s1.repartition (fld value.toNat 0 2)
    else { s1 with device := { s1.device with parterr := true } }
def execPartitionChange (value : Word64) (s : State) : Result := .next (partitionChangeStep value s)

/-! ### Links -/

/-- R398, R382: root firmware trains a port, or it goes down; it carries enclave traffic once the module holds its key. A frozen port
stays so until THAW. (DEDUCED, log 83.) -/
def linkStateChangeStep (port state : Nat) (s : State) : State :=
  if !(s.serving && s.device.state != 1) || decide (16 ≤ port) || decide (3 < state) || s.linkOf port == 4 then s
  else if state = 3 && !(s.portKeyed port) then s
  else ({ s with device := { s.device with authFails := s.device.authFails.put port 0 } }).setLink port state
def execLinkStateChange (port state : Nat) (s : State) : Result := .next (linkStateChangeStep port state s)

/-- R383: a packet fails authentication on a port enabled for enclave traffic, and is retried by the link; the sixteenth in a row
freezes the port. -/
def linkAuthFailureStep (port : Nat) (s : State) : State :=
  if !s.serving || decide (16 ≤ port) || s.linkOf port != 3 then s
  else
    let n := (if Config.passedBetween s.turn then 0 else Sparse.get 0 s.device.authFails port) + 1
    let s1 : State := { s with device := { s.device with authFails := s.device.authFails.put port n } }
    if n < 16 then s1
    else
      (s1.setLink port 4).reportFreeze (Config.noticeFold 4 port % Config.folds)
        { time := s.time, cause := 4, kind := 4, unit := port, slot := 0, core := 0, addr := 0, lid := 0 }
def execLinkAuthFailure (port : Nat) (s : State) : Result := .next (linkAuthFailureStep port s)

/-- R399: root firmware keeps TIME in step; it never runs backwards. -/
def timeSyncStep (value : Word64) (s : State) : State := if s.serving then { s with time := max s.time value.toNat } else s
def execTimeSync (value : Word64) (s : State) : Result := .next (timeSyncStep value s)

/-! ### Bring-up (R377, R400) -/

/-- DEVSTATE changes, which STATEVEC tells. -/
def State.setDevState (s : State) (x : Nat) : State :=
  if s.device.state = x then s else ({ s with device := { s.device with state := x } }).raiseMsix 0 s.device.statevec

/-- An address of the host tier (R178). -/
def hostTierAddress (a : Nat) : Bool := decide (2 ^ 51 ≤ a) && decide (a < 2 ^ 52)
/-- Power comes on after it was lost: the reset state, but for what fuses keep (R375), what the host's memory holds (R231) and the model's
own counts. (DEDUCED, log 84.) -/
def State.powerUp (s : State) : State :=
  { State.reset with
    mem := s.mem.filter (fun c => hostTierAddress c.1), poison := s.poison.filter (fun w => hostTierAddress (8 * w))
    turn := s.turn, free := s.free, epoch := s.epoch, byvon := { index := s.byvon.index, powerUps := s.byvon.powerUps } }

/-- FWDIG: the digest of the digests of the accepted images, in load order (R377). -/
def fwDigest (ds : List Nat) : BitVec 256 := digest (sha256 (ds.flatMap (natToBytes 32)))

/-- R376, R377, R400: after power-good, Byvon makes its key pair and verifies the firmware images; one that fails halts the part, and those
before it have been accepted. (DEDUCED, log 82.) -/
def powerGoodStep (badImage : Option Nat) (s : State) : State :=
  let s1 := if s.device.off then s.powerUp else s
  if !(s1.device.state == 0 && !s1.device.verified) then s
  else
    let ups := s1.byvon.powerUps + 1
    match badImage with
    | some i =>
      ({ s1 with byvon := { s1.byvon with powerUps := ups, badImage := some i, code := FW_BAD, fwdig := fwDigest ((Config.fwDigests ups).take i) } }).setDevState 3
    | none =>
      { s1 with
        device := { s1.device with verified := true }
        byvon := { s1.byvon with powerUps := ups, fwdig := fwDigest (Config.fwDigests ups) } }
def execPowerGood (badImage : Option Nat) (s : State) : Result := .next (powerGoodStep badImage s)

/-- R400: REDUCED service begins, once firmware has been verified. -/
def reducedStep (s : State) : State :=
  if !s.device.off && s.device.state == 0 && s.device.verified then s.setDevState 1 else s
def execReduced (s : State) : Result := .next (reducedStep s)

/-- R400: FULL service begins. -/
def fullStep (s : State) : State := if !s.device.off && s.device.state == 1 then s.setDevState 2 else s
def execFull (s : State) : Result := .next (fullStep s)

/-! ### Power (R401) -/

/-- What PWRNOW reads; the clocks are lowered where it asks for that (R401). -/
def State.sensed (s : State) (watts tjmax : Nat) : State :=
  ({ s with device := { s.device with watts := watts, tjmax := tjmax } } : State).throttle

/-- R401: a new reading of power and temperature. -/
def throttledStep (watts tjmax : Nat) (s : State) : State :=
  if !s.serving || decide (110 ≤ tjmax) then s
  else s.sensed watts tjmax
def execThrottled (watts tjmax : Nat) (s : State) : Result := .next (throttledStep watts tjmax s)

/-- R401: a new reading; the clocks return to nominal where it admits that. -/
def clockRestoreStep (watts tjmax : Nat) (s : State) : State :=
  if !s.serving || decide (110 ≤ tjmax) then s
  else
    let s1 := s.sensed watts tjmax
    if s1.tooHot then s1 else s1.setThrottled false
def execClockRestore (watts tjmax : Nat) (s : State) : Result := .next (clockRestoreStep watts tjmax s)

/-- The module is off: nothing but fuses keeps its state, and every link is down. -/
def State.powerOff (s : State) : State :=
  { s.powerUp with time := s.time, device := { off := true, hostPorts := [] } }

/-- R401: at 110 °C the module powers off. -/
def overtempPowerOffStep (tjmax : Nat) (s : State) : State := if !s.device.off && decide (110 ≤ tjmax) then s.powerOff else s
def execOvertempPowerOff (tjmax : Nat) (s : State) : Result := .next (overtempPowerOffStep tjmax s)

/-- R375: module power is lost; a committed index stays committed. -/
def powerLossStep (s : State) : State := if s.device.off then s else s.powerOff
def execPowerLoss (s : State) : Result := .next (powerLossStep s)

/-! ### The host (R231, R386, R395) -/

/-- R386: an access by a host function to a range that a paddock owns. -/
def State.hostCrosses (s : State) (pa n : Nat) : Bool := s.firewall.any (fun r => overlaps r.1 (r.2.1 - r.1) pa n)

/-- R386, R395: a CXL.mem access through port 0. One to an owned range freezes the host function; its writes are refused, and its
reads are answered with poisoned data, which is no state of the part. An address of the host tier is memory of the host's own, which the
host stores to whatever the part does, and which copies read (R178, R231). -/
def hostCxlAccessStep (write : Bool) (address : Nat) (bytes : List Byte) (s : State) : State :=
  if 2 ^ 51 ≤ address && inOneTier address bytes.length then (if write then s.storeBytes address bytes else s)
  else if !(s.serving && s.device.hostPorts.contains 0 && s.inDevice address bytes.length) || bytes.isEmpty || s.device.hostFrozen then s
  else if s.hostCrosses address bytes.length then
    ({ s with device := { s.device with hostFrozen := true } }).reportFreeze (Config.noticeFold 3 0 % Config.folds)
      { time := s.time, cause := 1, kind := 3, unit := 0, slot := 0, core := 0, addr := address, lid := 0 }
  else if write then s.storeBytes address bytes
  else s
def execHostCxlAccess (write : Bool) (address : Nat) (bytes : List Byte) (s : State) : Result :=
  .next (hostCxlAccessStep write address bytes s)

/-- R231: a host port trains or goes down. -/
def hostPortTrainingStep (port : Nat) (trained : Bool) (s : State) : State :=
  if s.device.off || decide (2 ≤ port) then s
  else
    let rest := s.device.hostPorts.filter (· != port)
    { s with device := { s.device with hostPorts := if trained then NatSet.insert rest port else rest } }
def execHostPortTraining (port : Nat) (trained : Bool) (s : State) : Result := .next (hostPortTrainingStep port trained s)

end Sys2Proof.Machine
end

