-- ==== Sys2Proof/Machine/Random.lean ====
section
/-!
DEFINITION. Random streams (R135 to R138).
-/

namespace Sys2Proof.Machine

/-- R137: the finaliser. -/
def rngMix (key idx ctr : Nat) : Nat :=
  let z := (key + (idx * 2 ^ 40 + ctr + 1) * 0x9E3779B97F4A7C15) % 2 ^ 64
  let z := (z ^^^ (z / 2 ^ 30)) * 0xBF58476D1CE4E5B9 % 2 ^ 64
  let z := (z ^^^ (z / 2 ^ 27)) * 0x94D049BB133111EB % 2 ^ 64
  z ^^^ (z / 2 ^ 31)

/-- R135: a stream word. -/
def streamWord (vcid number ctr : Nat) : Nat := vcid % 2 ^ 12 * 2 ^ 52 + number % 2 ^ 12 * 2 ^ 40 + ctr % 2 ^ 40

/-- R136 RNGSEED. -/
def rngseedBody (f : Fields) (s : State) : Exec Out := do
  let b ← s.opndB 0x0F1 f false
  done (s.setD f.d (CReg.word (streamWord (s.slotOf s.cur).vcore b 0)))
def execRngseed (f : Fields) (s : State) : Result := runScalar f (rngseedBody f) s

/-- R137 RNG. -/
def rngBody (f : Fields) (s : State) : Exec Out := do
  let w ← s.dataOpnd 0x0F0 2 f.a
  let sl := s.slotOf s.cur
  let vc := sl.vcore % 2 ^ 12
  let ctr := (fld w 0 40 + 1) % 2 ^ 40
  let w' := streamWord vc (fld w 40 12) ctr
  let s1 := (s.setD f.d (CReg.word (rngMix sl.seed.toNat (vc * 2 ^ 12 + fld w 40 12) (fld w 0 40)))).setD f.a (CReg.word w')
  if ctr = 0 then
    let s2 := s1.modSlot (s.slotKeyOf s.cur) (fun l => { l with rngctl := l.rngctl ||| 1 })
    .ok { s := s2, next := if bitAt sl.rngctl.toNat 1 then .after RNG_WRAP w' else .seq }
  else done s1
def execRng (f : Fields) (s : State) : Result := runScalar f (rngBody f) s

end Sys2Proof.Machine
end

