-- ==== Sys2Proof/Machine/Dispatch.lean ====
section
/-!
DEFINITION. One arm for every constructor of Instr: a direct call of its meaning.
-/

namespace Sys2Proof.Machine

def exec (i : Instr) (s : State) : Host.Outcome State Fault Refusal :=
  match i with
  | .add f => Sys2Proof.Machine.execAdd f s
  | .sub f => Sys2Proof.Machine.execSub f s
  | .mul f => Sys2Proof.Machine.execMul f s
  | .mulh f => Sys2Proof.Machine.execMulh f s
  | .mulhn f => Sys2Proof.Machine.execMulhn f s
  | .div f => Sys2Proof.Machine.execDiv f s
  | .divn f => Sys2Proof.Machine.execDivn f s
  | .rem f => Sys2Proof.Machine.execRem f s
  | .remn f => Sys2Proof.Machine.execRemn f s
  | .mad f => Sys2Proof.Machine.execMad f s
  | .andI f => Sys2Proof.Machine.execAndI f s
  | .orI f => Sys2Proof.Machine.execOrI f s
  | .xorI f => Sys2Proof.Machine.execXorI f s
  | .andn f => Sys2Proof.Machine.execAndn f s
  | .shl f => Sys2Proof.Machine.execShl f s
  | .shr f => Sys2Proof.Machine.execShr f s
  | .sar f => Sys2Proof.Machine.execSar f s
  | .rol f => Sys2Proof.Machine.execRol f s
  | .clz f => Sys2Proof.Machine.execClz f s
  | .ctz f => Sys2Proof.Machine.execCtz f s
  | .popc f => Sys2Proof.Machine.execPopc f s
  | .brev f => Sys2Proof.Machine.execBrev f s
  | .clmul f => Sys2Proof.Machine.execClmul f s
  | .clmulh f => Sys2Proof.Machine.execClmulh f s
  | .min f => Sys2Proof.Machine.execMin f s
  | .max f => Sys2Proof.Machine.execMax f s
  | .minn f => Sys2Proof.Machine.execMinn f s
  | .maxn f => Sys2Proof.Machine.execMaxn f s
  | .sel f => Sys2Proof.Machine.execSel f s
  | .mov f => Sys2Proof.Machine.execMov f s
  | .movImm f => Sys2Proof.Machine.execMovImm f s
  | .movh f => Sys2Proof.Machine.execMovh f s
  | .bfx f => Sys2Proof.Machine.execBfx f s
  | .bfi f => Sys2Proof.Machine.execBfi f s
  | .cmp f => Sys2Proof.Machine.execCmp f s
  | .gop f => Sys2Proof.Machine.execGop f s
  | .cbnd f => Sys2Proof.Machine.execCbnd f s
  | .csoff f => Sys2Proof.Machine.execCsoff f s
  | .cinc f => Sys2Proof.Machine.execCinc f s
  | .cperm f => Sys2Proof.Machine.execCperm f s
  | .cfld f => Sys2Proof.Machine.execCfld f s
  | .ctag f => Sys2Proof.Machine.execCtag f s
  | .cseal f => Sys2Proof.Machine.execCseal f s
  | .cunseal f => Sys2Proof.Machine.execCunseal f s
  | .cclr f => Sys2Proof.Machine.execCclr f s
  | .fadd f => Sys2Proof.Machine.execFadd f s
  | .fsub f => Sys2Proof.Machine.execFsub f s
  | .fmul f => Sys2Proof.Machine.execFmul f s
  | .ffma f => Sys2Proof.Machine.execFfma f s
  | .fdiv f => Sys2Proof.Machine.execFdiv f s
  | .fsqrt f => Sys2Proof.Machine.execFsqrt f s
  | .fmin f => Sys2Proof.Machine.execFmin f s
  | .fmax f => Sys2Proof.Machine.execFmax f s
  | .fcmp f => Sys2Proof.Machine.execFcmp f s
  | .fcvt f => Sys2Proof.Machine.execFcvt f s
  | .fclass f => Sys2Proof.Machine.execFclass f s
  | .bra f => Sys2Proof.Machine.execBra f s
  | .jmp f => Sys2Proof.Machine.execJmp f s
  | .call f => Sys2Proof.Machine.execCall f s
  | .callInd f => Sys2Proof.Machine.execCallInd f s
  | .ret f => Sys2Proof.Machine.execRet f s
  | .repI f => Sys2Proof.Machine.execRepI f s
  | .yield f => Sys2Proof.Machine.execYield f s
  | .endItem f => Sys2Proof.Machine.execEndItem f s
  | .nop f => Sys2Proof.Machine.execNop f s
  | .tail f => Sys2Proof.Machine.execTail f s
  | .rng f => Sys2Proof.Machine.execRng f s
  | .rngseed f => Sys2Proof.Machine.execRngseed f s
  | .vadd f => Sys2Proof.Machine.execVadd f s
  | .vsub f => Sys2Proof.Machine.execVsub f s
  | .vmul f => Sys2Proof.Machine.execVmul f s
  | .vfma f => Sys2Proof.Machine.execVfma f s
  | .vfms f => Sys2Proof.Machine.execVfms f s
  | .vmin f => Sys2Proof.Machine.execVmin f s
  | .vmax f => Sys2Proof.Machine.execVmax f s
  | .vabs f => Sys2Proof.Machine.execVabs f s
  | .vneg f => Sys2Proof.Machine.execVneg f s
  | .vrcp f => Sys2Proof.Machine.execVrcp f s
  | .vrsq f => Sys2Proof.Machine.execVrsq f s
  | .vexp2 f => Sys2Proof.Machine.execVexp2 f s
  | .vlog2 f => Sys2Proof.Machine.execVlog2 f s
  | .vand f => Sys2Proof.Machine.execVand f s
  | .vor f => Sys2Proof.Machine.execVor f s
  | .vxor f => Sys2Proof.Machine.execVxor f s
  | .vandn f => Sys2Proof.Machine.execVandn f s
  | .vshl f => Sys2Proof.Machine.execVshl f s
  | .vshr f => Sys2Proof.Machine.execVshr f s
  | .vsar f => Sys2Proof.Machine.execVsar f s
  | .vpopc f => Sys2Proof.Machine.execVpopc f s
  | .vclz f => Sys2Proof.Machine.execVclz f s
  | .vclmul f => Sys2Proof.Machine.execVclmul f s
  | .vcmp f => Sys2Proof.Machine.execVcmp f s
  | .vsel f => Sys2Proof.Machine.execVsel f s
  | .vcvt f => Sys2Proof.Machine.execVcvt f s
  | .vbcast f => Sys2Proof.Machine.execVbcast f s
  | .vperm f => Sys2Proof.Machine.execVperm f s
  | .vslide f => Sys2Proof.Machine.execVslide f s
  | .vcompress f => Sys2Proof.Machine.execVcompress f s
  | .viota f => Sys2Proof.Machine.execViota f s
  | .vmovc f => Sys2Proof.Machine.execVmovc f s
  | .vins f => Sys2Proof.Machine.execVins f s
  | .vred f => Sys2Proof.Machine.execVred f s
  | .vscan f => Sys2Proof.Machine.execVscan f s
  | .vdot f => Sys2Proof.Machine.execVdot f s
  | .ld f => Sys2Proof.Machine.execLd f s
  | .st f => Sys2Proof.Machine.execSt f s
  | .ldc f => Sys2Proof.Machine.execLdc f s
  | .stc f => Sys2Proof.Machine.execStc f s
  | .ldv f => Sys2Proof.Machine.execLdv f s
  | .stv f => Sys2Proof.Machine.execStv f s
  | .gath f => Sys2Proof.Machine.execGath f s
  | .scat f => Sys2Proof.Machine.execScat f s
  | .pst f => Sys2Proof.Machine.execPst f s
  | .pstV f => Sys2Proof.Machine.execPstV f s
  | .pfetch f => Sys2Proof.Machine.execPfetch f s
  | .qbind f => Sys2Proof.Machine.execQbind f s
  | .qrel f => Sys2Proof.Machine.execQrel f s
  | .tlock f => Sys2Proof.Machine.execTlock f s
  | .tunlock f => Sys2Proof.Machine.execTunlock f s
  | .tprobe f => Sys2Proof.Machine.execTprobe f s
  | .tinv f => Sys2Proof.Machine.execTinv f s
  | .tinvAll f => Sys2Proof.Machine.execTinvAll f s
  | .tfill f => Sys2Proof.Machine.execTfill f s
  | .lda f => Sys2Proof.Machine.execLda f s
  | .stl f => Sys2Proof.Machine.execStl f s
  | .amo f => Sys2Proof.Machine.execAmo f s
  | .cas f => Sys2Proof.Machine.execCas f s
  | .casw f => Sys2Proof.Machine.execCasw f s
  | .fence f => Sys2Proof.Machine.execFence f s
  | .waitm f => Sys2Proof.Machine.execWaitm f s
  | .waitmPoll core slot => Sys2Proof.Machine.execWaitmPoll core slot s
  | .hurdle f => Sys2Proof.Machine.execHurdle f s
  | .arrive f => Sys2Proof.Machine.execArrive f s
  | .arriveOne f => Sys2Proof.Machine.execArriveOne f s
  | .cwait f => Sys2Proof.Machine.execCwait f s
  | .cwaitPoll core slot => Sys2Proof.Machine.execCwaitPoll core slot s
  | .cwaitSb f => Sys2Proof.Machine.execCwaitSb f s
  | .cyopen f => Sys2Proof.Machine.execCyopen f s
  | .cyres f => Sys2Proof.Machine.execCyres f s
  | .cystep f => Sys2Proof.Machine.execCystep f s
  | .cystat f => Sys2Proof.Machine.execCystat f s
  | .cyclose f => Sys2Proof.Machine.execCyclose f s
  | .wupd f => Sys2Proof.Machine.execWupd f s
  | .fork f => Sys2Proof.Machine.execFork f s
  | .rdv f => Sys2Proof.Machine.execRdv f s
  | .inrecv f => Sys2Proof.Machine.execInrecv f s
  | .inpeek f => Sys2Proof.Machine.execInpeek f s
  | .inwait f => Sys2Proof.Machine.execInwait f s
  | .inwaitTimeout core slot => Sys2Proof.Machine.execInwaitTimeout core slot s
  | .sendChan f => Sys2Proof.Machine.execSendChan f s
  | .sendTg f => Sys2Proof.Machine.execSendTg f s
  | .sendIn f => Sys2Proof.Machine.execSendIn f s
  | .recv f => Sys2Proof.Machine.execRecv f s
  | .matchI f => Sys2Proof.Machine.execMatchI f s
  | .unmatch f => Sys2Proof.Machine.execUnmatch f s
  | .redc f => Sys2Proof.Machine.execRedc f s
  | .a2at f => Sys2Proof.Machine.execA2at f s
  | .mapld f => Sys2Proof.Machine.execMapld f s
  | .ppop f => Sys2Proof.Machine.execPpop f s
  | .ppush f => Sys2Proof.Machine.execPpush f s
  | .psplice f => Sys2Proof.Machine.execPsplice f s
  | .pstate f => Sys2Proof.Machine.execPstate f s
  | .pend f => Sys2Proof.Machine.execPend f s
  | .demit f => Sys2Proof.Machine.execDemit f s
  | .ddrop f => Sys2Proof.Machine.execDdrop f s
  | .dstat f => Sys2Proof.Machine.execDstat f s
  | .tidld f => Sys2Proof.Machine.execTidld f s
  | .tidst f => Sys2Proof.Machine.execTidst f s
  | .tidinv f => Sys2Proof.Machine.execTidinv f s
  | .trapI f => Sys2Proof.Machine.execTrapI f s
  | .eret f => Sys2Proof.Machine.execEret f s
  | .upret f => Sys2Proof.Machine.execUpret f s
  | .upretLeave f => Sys2Proof.Machine.execUpretLeave f s
  | .sysrd f => Sys2Proof.Machine.execSysrd f s
  | .syswr f => Sys2Proof.Machine.execSyswr f s
  | .wfi f => Sys2Proof.Machine.execWfi f s
  | .wfiTimeout core slot => Sys2Proof.Machine.execWfiTimeout core slot s
  | .ctxsave f => Sys2Proof.Machine.execCtxsave f s
  | .ctxload f => Sys2Proof.Machine.execCtxload f s
  | .bkpt f => Sys2Proof.Machine.execBkpt f s
  | .preq f => Sys2Proof.Machine.execPreq f s
  | .issueChoice core => Sys2Proof.Machine.execIssueChoice core s
  | .takePending core slot => Sys2Proof.Machine.execTakePending core slot s
  | .timer core slot => Sys2Proof.Machine.execTimer core slot s
  | .copy core => Sys2Proof.Machine.execCopy core s
  | .deal core => Sys2Proof.Machine.execDeal core s
  | .cmark core => Sys2Proof.Machine.execCmark core s
  | .cmarkCancel core slot record => Sys2Proof.Machine.execCmarkCancel core slot record s
  | .qscale core => Sys2Proof.Machine.execQscale core s
  | .qpack core => Sys2Proof.Machine.execQpack core s
  | .qunpack core => Sys2Proof.Machine.execQunpack core s
  | .mma core => Sys2Proof.Machine.execMma core s
  | .mzero core => Sys2Proof.Machine.execMzero core s
  | .mmark core => Sys2Proof.Machine.execMmark core s
  | .forkSequenceRead core engine => Sys2Proof.Machine.execForkSequenceRead core engine s
  | .mmaCheck core mismatch again => Sys2Proof.Machine.execMmaCheck core mismatch again s
  | .drainRowHandoff core => Sys2Proof.Machine.execDrainRowHandoff core s
  | .engineCompletion core engine => Sys2Proof.Machine.execEngineCompletion core engine s
  | .cxlAccessTimeout core => Sys2Proof.Machine.execCxlAccessTimeout core s
  | .missReport core slot => Sys2Proof.Machine.execMissReport core slot s
  | .missReportRepeat core slot => Sys2Proof.Machine.execMissReportRepeat core slot s
  | .translationNotice fold entry failed => Sys2Proof.Machine.execTranslationNotice fold entry failed s
  | .migrationCountReport fold page => Sys2Proof.Machine.execMigrationCountReport fold page s
  | .mqtailWrite ctx value => Sys2Proof.Machine.execMqtailWrite ctx value s
  | .pstArrival core slot entry => Sys2Proof.Machine.execPstArrival core slot entry s
  | .pstAck core slot entry => Sys2Proof.Machine.execPstAck core slot entry s
  | .pstNack core slot entry => Sys2Proof.Machine.execPstNack core slot entry s
  | .pstRetry core slot entry => Sys2Proof.Machine.execPstRetry core slot entry s
  | .pstParkedTimeout core slot entry => Sys2Proof.Machine.execPstParkedTimeout core slot entry s
  | .remoteAccessArrival core slot => Sys2Proof.Machine.execRemoteAccessArrival core slot s
  | .messageArrival core slot entry far => Sys2Proof.Machine.execMessageArrival core slot entry far s
  | .sendAck core slot entry => Sys2Proof.Machine.execSendAck core slot entry s
  | .sendNack core slot entry reason => Sys2Proof.Machine.execSendNack core slot entry reason s
  | .sendRetry core slot entry => Sys2Proof.Machine.execSendRetry core slot entry s
  | .reductionPacketArrival fold => Sys2Proof.Machine.execReductionPacketArrival fold s
  | .reductionEntryTimeout fold tree group seq => Sys2Proof.Machine.execReductionEntryTimeout fold tree group seq s
  | .reductionResultArrival fold => Sys2Proof.Machine.execReductionResultArrival fold s
  | .pushModeReturn fold gaddr header cset payload => Sys2Proof.Machine.execPushModeReturn fold gaddr header cset payload s
  | .pushModeTimeout fold tree group seq => Sys2Proof.Machine.execPushModeTimeout fold tree group seq s
  | .exchangeBlock ctx entry part => Sys2Proof.Machine.execExchangeBlock ctx entry part s
  | .exchangeDelivery ctx entry part => Sys2Proof.Machine.execExchangeDelivery ctx entry part s
  | .cycleHardDeadline ctx cycle => Sys2Proof.Machine.execCycleHardDeadline ctx cycle s
  | .doorbell ctx queue value => Sys2Proof.Machine.execDoorbell ctx queue value s
  | .dispatch ctx => Sys2Proof.Machine.execDispatch ctx s
  | .launch ctx queue => Sys2Proof.Machine.execLaunch ctx queue s
  | .pipeStart ctx queue => Sys2Proof.Machine.execPipeStart ctx queue s
  | .pipeSplice ctx queue => Sys2Proof.Machine.execPipeSplice ctx queue s
  | .coll ctx queue => Sys2Proof.Machine.execColl ctx queue s
  | .detlevel ctx queue => Sys2Proof.Machine.execDetlevel ctx queue s
  | .fencePacket ctx queue => Sys2Proof.Machine.execFencePacket ctx queue s
  | .signalStore ctx queue => Sys2Proof.Machine.execSignalStore ctx queue s
  | .signalAdd ctx queue => Sys2Proof.Machine.execSignalAdd ctx queue s
  | .waitv ctx queue => Sys2Proof.Machine.execWaitv ctx queue s
  | .waitvPoll ctx queue => Sys2Proof.Machine.execWaitvPoll ctx queue s
  | .waitTimeout ctx queue => Sys2Proof.Machine.execWaitTimeout ctx queue s
  | .preempt ctx queue => Sys2Proof.Machine.execPreempt ctx queue s
  | .reserving ctx queue => Sys2Proof.Machine.execReserving ctx queue s
  | .slotSwap core => Sys2Proof.Machine.execSlotSwap core s
  | .swapQuantumExpiry core => Sys2Proof.Machine.execSwapQuantumExpiry core s
  | .crookSave ctx queue => Sys2Proof.Machine.execCrookSave ctx queue s
  | .gangResume ctx queue => Sys2Proof.Machine.execGangResume ctx queue s
  | .sourceAdmit ctx pipe => Sys2Proof.Machine.execSourceAdmit ctx pipe s
  | .sinkWrite ctx pipe => Sys2Proof.Machine.execSinkWrite ctx pipe s
  | .shepherdSample ctx pipe => Sys2Proof.Machine.execShepherdSample ctx pipe s
  | .fbfree core slot value => Sys2Proof.Machine.execFbfree core slot value s
  | .qerrClear ctx value => Sys2Proof.Machine.execQerrClear ctx value s
  | .lotseed ctx value => Sys2Proof.Machine.execLotseed ctx value s
  | .abortW ctx value => Sys2Proof.Machine.execAbortW ctx value s
  | .qclear fold value => Sys2Proof.Machine.execQclear fold value s
  | .partitionChange value => Sys2Proof.Machine.execPartitionChange value s
  | .registerWrite offset value => Sys2Proof.Machine.execRegisterWrite offset value s
  | .report => Sys2Proof.Machine.execReport s
  | .join => Sys2Proof.Machine.execJoin s
  | .joinKey => Sys2Proof.Machine.execJoinKey s
  | .revoke => Sys2Proof.Machine.execRevoke s
  | .thaw => Sys2Proof.Machine.execThaw s
  | .scrub => Sys2Proof.Machine.execScrub s
  | .badOp => Sys2Proof.Machine.execBadOp s
  | .linkAuthFailure port => Sys2Proof.Machine.execLinkAuthFailure port s
  | .powerGood badImage => Sys2Proof.Machine.execPowerGood badImage s
  | .reduced => Sys2Proof.Machine.execReduced s
  | .full => Sys2Proof.Machine.execFull s
  | .throttled watts tjmax => Sys2Proof.Machine.execThrottled watts tjmax s
  | .overtempPowerOff tjmax => Sys2Proof.Machine.execOvertempPowerOff tjmax s
  | .timeSync value => Sys2Proof.Machine.execTimeSync value s
  | .linkStateChange port state => Sys2Proof.Machine.execLinkStateChange port state s
  | .hostCxlAccess write address bytes => Sys2Proof.Machine.execHostCxlAccess write address bytes s
  | .notbeforeReached core => Sys2Proof.Machine.execNotbeforeReached core s
  | .noPortUpTimeout core slot posted entry => Sys2Proof.Machine.execNoPortUpTimeout core slot posted entry s
  | .powerLoss => Sys2Proof.Machine.execPowerLoss s
  | .clockRestore watts tjmax => Sys2Proof.Machine.execClockRestore watts tjmax s
  | .hostPortTraining port trained => Sys2Proof.Machine.execHostPortTraining port trained s
  | .coreRepair core offer => Sys2Proof.Machine.execCoreRepair core offer s

end Sys2Proof.Machine
end

