-- ==== Sys2Proof/Machine/Step.lean ====
section
/-!
DEFINITION. One step of the part: the next turn, decided already or free, and what it does.  An issue choice runs, in
the same step, the instruction that it latches.
-/

namespace Sys2Proof.Machine

/-- The next turn: the first of the agenda, or a free one. -/
def State.nextTurn (s : State) : Turn := s.agenda.headD (Config.nextTurn s.turn)

/-- The state in which the next turn acts: its time has passed, and a buffer word may have been upset. -/
def State.begin (s : State) : State :=
  { s.upsetWord s.nextTurn.upset with
    agenda := s.agenda.tail, turn := s.turn + 1, time := Nat.min (s.time + s.nextTurn.dt) (2 ^ 64 - 1), latch := none }

/-- After a turn: a latched instruction runs; any other event lets waiting contexts look again. -/
def settle (event : Bool) (s : State) : Result :=
  match s.latch with
  | some i => exec i { s with latch := none }
  | none => .next (if event then { s with epoch := s.epoch + 1 } else s)

/-- Whether a turn is an issue choice. -/
def isIssue : Instr → Bool
  | .issueChoice _ => true
  | _ => false

/-- One step. An instruction word is no turn of its own: it runs only as the issue of a context. -/
def step (s : State) : Host.Outcome State Fault Refusal :=
  if s.nextTurn.what.opFields.isSome then .next s.begin
  else
    match exec s.nextTurn.what s.begin with
    | .next t => settle (!(isIssue s.nextTurn.what)) t
    | .fault r => .fault r
    | .refused r => .refused r

/-- Where `withFetchWord` places a word: an address of virtual and of physical memory. -/
def fetchSpot : Nat := 0x80000

/-- The context that `withFetchWord` lets issue: one in which the instruction is available. -/
def fetchKey (i : Option Instr) : Nat :=
  match i.bind Instr.home? with
  | some e => if e.service then hartKey Config.cores 0 else if e.drain then drainKey 0 0 else hartKey 0 0
  | none => hartKey 0 0

/-- The state with a word stored where the next step fetches it: a live context in Root mode at the word, a page that
maps it, and the turn in which its core issues. -/
def State.withFetchWord (s : State) (nbits w : Nat) : State :=
  let i := decodeTableWord nbits w
  let k := fetchKey i
  let worker := match i.bind Instr.home? with | some e => e.worker | none => false
  let s1 := s.storeBytes fetchSpot (natToBytes 12 (w % 2 ^ nbits))
  let s2 := s1.modCore (coreOf k) (fun c =>
    { c with tlb := Sparse.put c.tlb 0 (BitVec.ofNat 128 (fetchSpot * 2 ^ 64 + fetchSpot + 2 ^ 16 + 2 ^ 4 + 2 ^ 2)) })
  let s3 := s2.modSlot (slotKey (coreOf k) 0) (fun x => { x with live := true, resident := true, stopping := false, worker := worker })
  let s4 := s3.modCtx k (fun c =>
    { (c.setStatus 0 2 2) with
      live := true, frozen := false, hold := 0, yielding := [], blocked := none, rep := none
      pc := BitVec.ofNat 56 fetchSpot, regBase := BitVec.ofNat 56 fetchSpot, regLimit := BitVec.ofNat 57 (fetchSpot + 12 * 9) })
  { s4 with device := { s4.device with state := 2 }, agenda := [{ dt := 0, what := .issueChoice (coreOf k) }] }

end Sys2Proof.Machine
end

