-- ==== Sys2Proof/Safety.lean ====
section
/-!
DEFINITION. What a safe state is, in the terms the claims use.
-/

namespace Sys2Proof.Machine

/-- Memory is in canonical form: equal memories are equal data. -/
def State.memOk (s : State) : Prop := Memory.wf s.mem = true

/-- Every context that the state lists has a mode that R113 admits: 3 is never held. -/
def State.modesOk (s : State) : Prop := ∀ k, (s.ctx k).mode ≠ 3

/-- A safe state. -/
def State.safe (s : State) : Prop := s.memOk ∧ s.modesOk

/-! ### What an instruction leaves as it was -/

/-- `t` is `s` in all but the context `k`, which is now `c`, and in what an issue does to the issue choice (R90, R110):
the holds and yields of contexts, the slot of a core that issued last, its misses that were met and the faults that its Fold held
of them, the count of steps. -/
def State.GoesOn (s t : State) (k : Nat) (c : Ctx) : Prop :=
  t = { s with ctxs := t.ctxs, cores := t.cores, folds := t.folds, epoch := t.epoch } ∧
    (∀ j, j ≠ k → t.ctx j = { s.ctx j with hold := (t.ctx j).hold, yielding := (t.ctx j).yielding }) ∧
    (∀ n, t.core n = { s.core n with lastSlot := (t.core n).lastSlot, misses := (t.core n).misses }) ∧
    (∀ n, t.fold n = { s.fold n with heldFaults := (t.fold n).heldFaults }) ∧
    t.ctx k = { c with hold := (t.ctx k).hold, yielding := (t.ctx k).yielding, waitFrom := none, blocked := none, yielded := false }

/-- The instruction in hand has changed its context by `u` and nothing else, and the context goes on with the next in
sequence. -/
def State.Did (s t : State) (u : Ctx → Ctx) : Prop := s.GoesOn t s.cur (u (s.ctx s.cur)).advance

/-- The instruction in hand, with nothing of its effect, has taken the trap `cause` (R348). -/
def State.Trapped (s t : State) (cause tval : Nat) : Prop :=
  s.GoesOn t s.cur ((s.enterTrap s.cur 0 cause tval).ctx s.cur)

/-- A precise trap of the context in hand enters its handler: TVEC is set, the context is not in trap entry, and no splice is
probed (R339, R348). -/
def State.entersTraps (s : State) : Prop :=
  (s.slotOf s.cur).tvec ≠ 0 ∧ (s.ctx s.cur).inTrap = false ∧ (s.slotOf s.cur).work.probing = false

end Sys2Proof.Machine
end

