-- ==== Sys2Proof/Certificates/Slice0/Obligations.lean ====
section
/-!
DEFINITION. What is stated about the model, from the numbered rules of the specification.

Each statement of an effect concludes that `exec` answers a next state, which `State.GoesOn`, `State.Did` or
`State.Trapped` (Safety) compare with the state before: what an instruction does not name stays as it was.
-/

namespace Sys2Proof.Claims

open Sys2Proof.Machine

/-! ### Words used in the statements -/

/-- The instruction in hand acts: bit 0 of its guard is 1 (R20). -/
def acts (s : State) (f : Fields) : Prop := s.guardBit f 0 = true

/-- The field reads as this number of 64 bits, whoever reads it: a tagged register does not (R95). -/
def holds (s : State) (o : Opnd) (x : Nat) : Prop := ∀ op field, s.dataOpnd op field o = .ok x

/-- Operand B reads as this number: a register, or the literal, extended by its sign where `signed` says so (R87). -/
def holdsB (s : State) (f : Fields) (signed : Bool) (x : Nat) : Prop := ∀ op, s.opndB op f signed = .ok x

/-- A number read as an integer of type `ty` (R88, R118). -/
def val (ty x : Nat) : Int :=
  if ty < 4 then (BitVec.ofNat (tyWidth ty) x).toInt else ((BitVec.ofNat (tyWidth ty) x).toNat : Int)

/-- The c register that holds an integer result of type `ty`: its low bits, extended by the sign of the type to 64 bits and
from bit 63 to 128, and no tag (R95). -/
def reg (ty : Nat) (x : Int) : CReg :=
  let w := BitVec.ofInt (tyWidth ty) x
  ⟨false, (if ty < 4 then w.signExtend 64 else w.setWidth 64).signExtend 128⟩

/-- An exact integer as the type holds it under SAT (R47). -/
def clamp (ty : Nat) (x : Int) : Int :=
  let w := tyWidth ty
  if ty < 4 then max (-((2 : Int) ^ (w - 1))) (min x ((2 : Int) ^ (w - 1) - 1)) else max 0 (min x ((2 : Int) ^ w - 1))

/-- The c register of D is written with `r`; a write to c0 is discarded (R86). -/
def putC (o : Opnd) (r : CReg) (c : Ctx) : Ctx :=
  match o with
  | .c n => if n = 0 then c else { c with c := c.c.put n.toNat r }
  | _ => c

/-- The guard of D is written with `x`; a write to g0 is discarded (R86). -/
def putG (o : Opnd) (x : Word64) (c : Ctx) : Ctx :=
  match o with
  | .g n => if n = 0 then c else { c with g := c.g.put n.toNat x }
  | _ => c

/-- Sticky flags are added to FFLAGS, STATUS[25:21], and no bit of STATUS is cleared (R39). -/
def addFlags (fl : Nat) (c : Ctx) : Ctx := { c with status := c.status ||| BitVec.ofNat 64 (fl % 32 * 2 ^ 21) }

/-- The instruction answers a next state that differs from `s` in what `u` does to its context, and in its going on. -/
def does (i : Instr) (s : State) (u : Ctx → Ctx) : Prop := ∃ t, exec i s = .next t ∧ s.Did t u

/-- The instruction answers a next state in which it has trapped with none of its effect (R346, R348). -/
def traps (i : Instr) (s : State) (cause tval : Nat) : Prop := ∃ t, exec i s = .next t ∧ s.Trapped t cause tval

end Sys2Proof.Claims

open Sys2Proof Sys2Proof.Machine Sys2Proof.Claims

/-! ### Integers (R118 to R123) -/

namespace Sys2Proof.Claims

/-- R119, R120: the two-operand instructions that compute an exact integer and narrow it, with that integer. -/
def intTable (f : Fields) : List (Instr × (Int → Int → Int)) :=
  let n := tyWidth f.ty
  let sat (x : Int) : Int := if f.md.getLsbD 6 then clamp f.ty x else x
  [(.add f, fun a b => sat (a + b)), (.sub f, fun a b => sat (a - b)), (.mul f, fun a b => a * b),
   (.mulh f, fun a b => (a * b) >>> n), (.mulhn f, fun a b => (a * b) >>> n),
   (.div f, fun a b => if b = 0 then -1 else if a = -((2 : Int) ^ (n - 1)) ∧ b = -1 then a else a.tdiv b),
   (.rem f, fun a b => if b = 0 then a else if a = -((2 : Int) ^ (n - 1)) ∧ b = -1 then 0 else a.tmod b),
   (.divn f, fun a b => if b = 0 then (2 : Int) ^ n - 1 else a / b),
   (.remn f, fun a b => if b = 0 then a else a % b),
   (.min f, fun a b => min a b), (.max f, fun a b => max a b), (.minn f, fun a b => min a b), (.maxn f, fun a b => max a b)]

/-- R119: the two-operand instructions on bits. -/
def bitTable (f : Fields) (n : Nat) : List (Instr × (BitVec n → BitVec n → BitVec n)) :=
  [(.andI f, fun a b => a &&& b), (.orI f, fun a b => a ||| b), (.xorI f, fun a b => a ^^^ b), (.andn f, fun a b => a &&& ~~~b)]

/-- R119: the shifts, by an amount below n. -/
def shiftTable (f : Fields) (n : Nat) : List (Instr × (BitVec n → Nat → BitVec n)) :=
  [(.shl f, fun a k => a <<< k), (.shr f, fun a k => a >>> k), (.sar f, fun a k => a.sshiftRight k),
   (.rol f, fun a k => a.rotateLeft k)]

/-- A whole register as MOV and SEL copy it: a c register with its tag, or 64 bits of another as data (R122). -/
def wholeIs (s : State) (o : Opnd) (r : CReg) : Prop :=
  (∃ n, o = .c n ∧ r = (s.ctx s.cur).getC n) ∨
    ((∀ n, o ≠ .c n) ∧ ∃ x, holds s o x ∧ r = ⟨false, (BitVec.ofNat 64 x).signExtend 128⟩)

/-- Bit `k` of the carry-less product of two n-bit numbers: the parity of the pairs of bits whose places sum to `k`. -/
def clBit (n : Nat) (a b : BitVec n) (k : Nat) : Bool :=
  ((List.range (k + 1)).countP (fun i => a.getLsbD i && b.getLsbD (k - i))) % 2 == 1

end Sys2Proof.Claims

/-- R119, R120: an integer instruction with its operands readable writes D with its exact result, wrapped or, under SAT,
clamped; division by zero and the quotient that overflows have the results of R120 and no trap; MAD reads D first. The bitwise
instructions act bit by bit; a shift or rotation takes its amount mod n, from a literal that is not sign-extended. -/
def Obligations.IntegerResults : Prop :=
  (∀ (f : Fields) (s : State) (a b : Nat), acts s f → f.ty < 8 → holds s f.a a → holdsB s f (f.ty < 4) b →
     (∀ p ∈ intTable f, does p.1 s (putC f.d (reg f.ty (p.2 (val f.ty a) (val f.ty b))))) ∧
     ∀ d, holds s f.d d → does (.mad f) s (putC f.d (reg f.ty
       (let x := val f.ty d + val f.ty a * val f.ty b; if f.md.getLsbD 6 then clamp f.ty x else x)))) ∧
  ∀ (f : Fields) (s : State) (a b : Nat), acts s f → f.ty < 8 → holds s f.a a →
    let n := tyWidth f.ty
    (holdsB s f (f.ty < 4) b → ∀ p ∈ bitTable f n,
      does p.1 s (putC f.d (reg f.ty (p.2 (BitVec.ofNat n a) (BitVec.ofNat n b)).toNat))) ∧
    (holdsB s f false b → ∀ p ∈ shiftTable f n, does p.1 s (putC f.d (reg f.ty (p.2 (BitVec.ofNat n a) (b % n)).toNat)))

/-- R119: counts of zeros and ones, the reversal of bits, and the halves of the carry-less product. -/
def Obligations.BitCounts : Prop :=
  ∀ (f : Fields) (s : State) (a : Nat), acts s f → f.ty < 8 → holds s f.a a →
    let n := tyWidth f.ty
    let x := BitVec.ofNat n a
    let word (k : Nat) : CReg := ⟨false, BitVec.ofNat 128 k⟩
    (∃ k ≤ n, does (.clz f) s (putC f.d (word k)) ∧ (∀ i < k, x.getLsbD (n - 1 - i) = false) ∧
      (k < n → x.getLsbD (n - 1 - k) = true)) ∧
    (∃ k ≤ n, does (.ctz f) s (putC f.d (word k)) ∧ (∀ i < k, x.getLsbD i = false) ∧ (k < n → x.getLsbD k = true)) ∧
    does (.popc f) s (putC f.d (word ((List.range n).countP (fun i => x.getLsbD i)))) ∧
    (∃ y : BitVec n, does (.brev f) s (putC f.d (reg 7 (y.toNat))) ∧ ∀ i < n, y.getLsbD i = x.getLsbD (n - 1 - i)) ∧
    ∀ b, holdsB s f (f.ty < 4) b → 4 ≤ f.ty →
      (∃ y : BitVec n, does (.clmul f) s (putC f.d (reg f.ty y.toNat)) ∧ ∀ i < n, y.getLsbD i = clBit n x (BitVec.ofNat n b) i) ∧
      ∃ y : BitVec n, does (.clmulh f) s (putC f.d (reg f.ty y.toNat)) ∧
        ∀ i < n, y.getLsbD i = clBit n x (BitVec.ofNat n b) (n + i)

/-- R87, R122: SEL, MOV and MOVH. A copy from c to c keeps the tag, a g or special register is copied as 64 bits of data, and a tagged
register is no data for a g destination; a literal is extended by the sign of its type.
R123: the field that B describes, its position in bits 5 to 0 and its width, at most 64, in bits 12 to 6. -/
def Obligations.MovesAndFields : Prop :=
  (∀ (f : Fields) (s : State) (x y : CReg), acts s f → wholeIs s f.a x →
    let pick := ((s.ctx s.cur).getG (BitVec.ofNat 4 (f.md.toNat % 16))).getLsbD 0 != f.md.getLsbD 4
    (f.lit = false → wholeIs s f.b y → does (.sel f) s (putC f.d (if pick then x else y))) ∧
    (f.lit = true → does (.sel f) s (putC f.d (if pick then x else ⟨false, f.imm.signExtend 128⟩))) ∧
    (∀ n, f.d = .c n → does (.mov f) s (putC f.d x)) ∧
    (∀ n z, f.d = .g n → holds s f.a z → does (.mov f) s (putG f.d (BitVec.ofNat 64 z))) ∧
    (∀ z, holds s f.d z → does (.movh f) s (putC f.d ⟨false, (f.imm ++ (BitVec.ofNat 32 z)).signExtend 128⟩))) ∧
  (∀ (f : Fields) (s : State), acts s f → (f.ty = 3 ∨ f.ty = 7) →
    let x : BitVec 64 := if f.ty = 3 then f.imm.signExtend 64 else f.imm.setWidth 64
    (∀ n, f.d = .c n → does (.movImm f) s (putC f.d ⟨false, x.signExtend 128⟩)) ∧
    (∀ n, f.d = .g n → does (.movImm f) s (putG f.d x))) ∧
  ∀ (f : Fields) (s : State) (a b : Nat), acts s f → holds s f.a a → holdsB s f false b →
    let pos := b % 64
    let width := min (b / 64 % 128) 64
    (∃ y : BitVec 64, does (.bfx f) s (putC f.d ⟨false, y.signExtend 128⟩) ∧
      ∀ i < 64, y.getLsbD i =
        if i < width then (BitVec.ofNat 64 a).getLsbD (pos + i)
        else f.ty == 3 && width != 0 && (BitVec.ofNat 64 a).getLsbD (pos + width - 1)) ∧
    ∀ d, holds s f.d d → ∃ y : BitVec 64, does (.bfi f) s (putC f.d ⟨false, y.signExtend 128⟩) ∧
      ∀ i < 64, y.getLsbD i =
        if pos ≤ i ∧ i < pos + width then (BitVec.ofNat 64 a).getLsbD (i - pos) else (BitVec.ofNat 64 d).getLsbD i

/-- R121: CMP writes every bit of a guard with the comparison of the values of the type; GOP combines two masks bit by bit, its literal extended by its sign. No word with a reserved condition,
a reserved operation or a reserved bit of GOP is either instruction, nor is a NOT with an operand B; and the word of the rule's example is the instruction that it stands for. -/
def Obligations.GuardLogic : Prop :=
  ∀ (f : Fields) (s : State) (a b : Nat), acts s f → holds s f.a a →
    let c := f.md.toNat % 8
    (f.ty < 8 → c < 6 → holdsB s f (f.ty < 4) b →
      let x := val f.ty a
      let y := val f.ty b
      let r : Prop := match c with | 0 => x = y | 1 => x ≠ y | 2 => x < y | 3 => x ≤ y | 4 => x > y | _ => x ≥ y
      (r → does (.cmp f) s (putG f.d (BitVec.allOnes 64))) ∧ (¬r → does (.cmp f) s (putG f.d 0))) ∧
    (c < 5 → holdsB s f true b →
      let x := BitVec.ofNat 64 a
      let y := BitVec.ofNat 64 b
      does (.gop f) s (putG f.d (match c with | 0 => x &&& y | 1 => x ||| y | 2 => x ^^^ y | 3 => x &&& ~~~y | _ => ~~~x))) ∧
    (∀ e w, decodeWord e w = .ok (.cmp f) → c < 6) ∧
    (∀ e w, decodeWord e w = .ok (.gop f) → c < 5 ∧ f.md.toNat / 8 % 2 ^ 8 = 0 ∧ (c = 4 → f.lit = false ∧ f.b = .c 0)) ∧
    ∃ g : Fields, decodeWord DecodeEnv.hart 0x00000000B0000000000F8429#96 = .ok (.cmp g) ∧ g.d = .g 1 ∧ g.a = .c 7 ∧ g.lit = true ∧ g.imm = 0 ∧ g.ty = 6 ∧ g.md.toNat % 8 = 0

namespace Sys2Proof.Claims

/-- The integer, guard and floating-point instructions that read A alone, A and B, and D too, each with its opcode (R95). -/
def readsA (f : Fields) : List (Nat × Instr) :=
  [(0x018, .clz f), (0x019, .ctz f), (0x01A, .popc f), (0x01B, .brev f), (0x085, .fsqrt f), (0x089, .fcvt f), (0x08A, .fclass f)]
def readsAB (f : Fields) : List (Nat × Instr) :=
  [(0x001, .add f), (0x002, .sub f), (0x003, .mul f), (0x004, .mulh f), (0x005, .mulhn f), (0x006, .div f), (0x007, .divn f), (0x008, .rem f),
   (0x009, .remn f), (0x010, .andI f), (0x011, .orI f), (0x012, .xorI f), (0x013, .andn f), (0x014, .shl f), (0x015, .shr f), (0x016, .sar f),
   (0x017, .rol f), (0x01C, .clmul f), (0x01D, .clmulh f), (0x020, .min f), (0x021, .max f), (0x022, .minn f), (0x023, .maxn f),
   (0x027, .bfx f), (0x029, .cmp f), (0x02A, .gop f), (0x080, .fadd f), (0x081, .fsub f), (0x082, .fmul f), (0x084, .fdiv f),
   (0x086, .fmin f), (0x087, .fmax f), (0x088, .fcmp f)]
def readsDAB (f : Fields) : List (Nat × Instr) := [(0x00A, .mad f), (0x028, .bfi f), (0x083, .ffma f)]

/-- The scalar instructions: all that act or not by bit 0 of their guard (R20). -/
def scalars (f : Fields) : List Instr :=
  [Instr.add f, .sub f, .mul f, .mulh f, .mulhn f, .div f, .divn f, .rem f, .remn f, .mad f, .andI f, .orI f, .xorI f, .andn f, .shl f,
   .shr f, .sar f, .rol f, .clz f, .ctz f, .popc f, .brev f, .clmul f, .clmulh f, .min f, .max f, .minn f, .maxn f, .sel f, .mov f,
   .movImm f, .movh f, .bfx f, .bfi f, .cmp f, .gop f, .cbnd f, .csoff f, .cinc f, .cperm f, .cfld f, .ctag f, .cseal f, .cunseal f,
   .cclr f, .fadd f, .fsub f, .fmul f, .ffma f, .fdiv f, .fsqrt f, .fmin f, .fmax f, .fcmp f, .fcvt f, .fclass f, .bra f, .jmp f,
   .call f, .callInd f, .ret f, .endItem f, .nop f, .tail f, .rng f, .rngseed f, .vins f, .ld f, .st f, .ldc f, .stc f, .ldv f,
   .stv f, .pst f, .pstV f, .pfetch f, .qbind f, .qrel f, .tlock f, .tunlock f, .tprobe f, .tinv f, .tinvAll f, .tfill f, .lda f,
   .stl f, .amo f, .cas f, .casw f, .fence f, .waitm f, .hurdle f, .arrive f, .arriveOne f, .cwait f, .cwaitSb f, .cyopen f,
   .cyres f, .cystep f, .cystat f, .cyclose f, .wupd f, .fork f, .rdv f, .inrecv f, .inpeek f, .inwait f, .sendChan f, .sendTg f,
   .sendIn f, .recv f, .matchI f, .unmatch f, .redc f, .a2at f, .mapld f, .ppop f, .ppush f, .psplice f, .pstate f, .pend f,
   .demit f, .ddrop f, .dstat f, .tidld f, .tidst f, .tidinv f, .trapI f, .eret f, .upret f, .upretLeave f, .sysrd f, .syswr f,
   .wfi f, .ctxsave f, .ctxload f, .bkpt f, .preq f, .yield f]

end Sys2Proof.Claims

/-- R95: an integer, guard or floating-point instruction that reads a tagged register as data raises TAG precisely, with the field and the
specifier in TVAL: A, B, and D where the instruction reads it. Of several tagged operands D is named before A, and A before B, which is the
model's choice (log 118). MOVH reads D, and MOV into a guard reads A. -/
def Obligations.TaggedDataTraps : Prop :=
  ∀ (f : Fields) (s : State) (n : BitVec 6), acts s f → s.entersTraps → ((s.ctx s.cur).getC n).tag = true →
    let tval (field op : Nat) : Nat := field * 2 ^ 53 + n.toNat * 2 ^ 46 + op
    (f.a = .c n →
      (∀ p ∈ readsA f ++ readsAB f, traps p.2 s 0x05 (tval 2 p.1)) ∧ (∀ g, f.d = .g g → traps (.mov f) s 0x05 (tval 2 0x025)) ∧
      ∀ d, holds s f.d d → ∀ p ∈ readsDAB f, traps p.2 s 0x05 (tval 2 p.1)) ∧
    (f.lit = false → f.b = .c n → ∀ a, holds s f.a a →
      (∀ p ∈ readsAB f, traps p.2 s 0x05 (tval 3 p.1)) ∧ ∀ d, holds s f.d d → ∀ p ∈ readsDAB f, traps p.2 s 0x05 (tval 3 p.1)) ∧
    (f.d = .c n → ∀ p ∈ (0x026, Instr.movh f) :: readsDAB f, traps p.2 s 0x05 (tval 1 p.1))

/-- R20: a scalar instruction whose guard bit 0 is 0 has no effect but its hints. R86, R101: c0 reads as zero without a tag and g0 as all
ones; what is written to them is discarded; a write to another register changes no register but that one. -/
def Obligations.GuardOffAndConstants : Prop :=
  (∀ (f : Fields) (s : State), s.guardBit f 0 = false → ∀ i ∈ scalars f, does i s id) ∧
  ∀ (c : Ctx) (n m : BitVec 6) (r : CReg) (g h : BitVec 4) (x : Word64),
    c.getC 0 = ⟨false, 0⟩ ∧ c.getG 0 = BitVec.allOnes 64 ∧ putC (.c 0) r c = c ∧ putG (.g 0) x c = c ∧
    (n ≠ 0 → (putC (.c n) r c).getC n = r) ∧ (m ≠ n → (putC (.c n) r c).getC m = c.getC m) ∧
    (g ≠ 0 → (putG (.g g) x c).getG g = x) ∧ (h ≠ g → (putG (.g g) x c).getG h = c.getG h)


/-! ### Capabilities (R96, R97, R124 to R126) -/

namespace Sys2Proof.Claims

/-- 64 bits of data in a c register (R95). -/
def word (x : Nat) : CReg := ⟨false, (BitVec.ofNat 64 x).signExtend 128⟩

/-- The shortest form of a length: `l = m × 2^e` with `m ≤ 1023` and `e` as small as it can be (R125). -/
def shortest (l m e : Nat) : Prop := l = m * 2 ^ e ∧ m ≤ 1023 ∧ e < 64 ∧ ∀ m' e', l = m' * 2 ^ e' → m' ≤ 1023 → e ≤ e'

/-- What a capability lets its holder do is no more than another does: its bytes are bytes of the other, its space is the same,
and its permissions, but for the seal S, are among the other's (R96). -/
def within (x y : Cap) : Prop :=
  x.space = y.space ∧ (∀ i < x.len, ∃ j < y.len, (x.base + i) % 2 ^ 56 = (y.base + j) % 2 ^ 56) ∧
    ∀ p < 8, p ≠ 6 → x.perm.testBit p = true → y.perm.testBit p = true

/-- The instructions that write c or g registers from registers and literals alone: the capability group, the moves, the integer, guard and
floating-point instructions, the calls, the random streams, and the vector instructions with a scalar destination. -/
def registerWriters (f : Fields) : List Instr :=
  [.cbnd f, .csoff f, .cinc f, .cperm f, .cfld f, .ctag f, .cclr f, .cseal f, .cunseal f, .mov f, .movImm f, .sel f, .movh f, .bfx f, .bfi f,
   .call f, .callInd f, .rng f, .rngseed f, .vmovc f, .vred f, .vcmp f] ++
    (readsA f ++ readsAB f ++ readsDAB f).map (·.2)

/-- What the tagged registers of the context in hand grant afterwards, tagged registers granted before. -/
def grantsNoMore (s t : State) : Prop :=
  ∀ n : BitVec 6, ((t.ctx s.cur).getC n).tag = true →
    ∃ m, ((s.ctx s.cur).getC m).tag = true ∧ within ((t.ctx s.cur).getC n).cap ((s.ctx s.cur).getC m).cap

end Sys2Proof.Claims

/-- R124: CBND, CSOFF, CINC and CPERM on a tagged capability that is not sealed. CFLD reads one field of a capability as data, 0 of an untagged
register; CTAG writes the tag to a guard; CCLR copies a register without its tag. -/
def Obligations.CapabilityResults : Prop :=
  (∀ (f : Fields) (s : State) (n : BitVec 6) (b : Nat), acts s f → f.a = .c n → ((s.ctx s.cur).getC n).tag = true →
    let c := ((s.ctx s.cur).getC n).cap
    c.perm.testBit 6 = false →
    (holdsB s f false b → c.off + b ≤ c.len → ∀ m e, shortest b m e →
      does (.cbnd f) s (putC f.d (Cap.reg { c with base := (c.base + c.off) % 2 ^ 56, off := 0, lenM := m, lenE := e }))) ∧
    (holdsB s f false b → b < 2 ^ 40 → does (.csoff f) s (putC f.d (Cap.reg { c with off := b }))) ∧
    (holdsB s f true b → ∀ o : Nat, o < 2 ^ 40 → (o : Int) = (c.off : Int) + (BitVec.ofNat 64 b).toInt →
      does (.cinc f) s (putC f.d (Cap.reg { c with off := o }))) ∧
    (holdsB s f false b → ∃ p, does (.cperm f) s (putC f.d (Cap.reg { c with perm := p })) ∧
      ∀ i < 8, p.testBit i = (c.perm.testBit i && (decide (6 ≤ i) || b.testBit i)))) ∧
  ∀ (f : Fields) (s : State) (n : BitVec 6), acts s f → f.a = .c n →
    let r := (s.ctx s.cur).getC n
    does (.cclr f) s (putC f.d ⟨false, r.val⟩) ∧
    does (.ctag f) s (putG f.d (if r.tag then BitVec.allOnes 64 else 0)) ∧
    does (.cfld f) s (putC f.d (word (if r.tag then
      (match f.md.toNat % 8 with
       | 0 => r.val.toNat % 2 ^ 56 | 1 => r.val.toNat / 2 ^ 56 % 2 ^ 40
       | 2 => r.val.toNat / 2 ^ 96 % 2 ^ 10 * 2 ^ (r.val.toNat / 2 ^ 106 % 2 ^ 6) | 3 => r.val.toNat / 2 ^ 112 % 2 ^ 8
       | 4 => r.val.toNat / 2 ^ 120 % 2 ^ 4 | 5 => r.val.toNat / 2 ^ 124
       | _ => (r.val.toNat % 2 ^ 56 + r.val.toNat / 2 ^ 56 % 2 ^ 40) % 2 ^ 56) else 0)))

/-- R126: CSEAL with an object type that SEALMASK grants sets S and OTYPE; CUNSEAL of that type, granted in the upper half of
SEALMASK, clears them; without the grant each traps PERM. -/
def Obligations.SealAndUnseal : Prop :=
  ∀ (f : Fields) (s : State) (n : BitVec 6) (t : Nat), acts s f → f.a = .c n → ((s.ctx s.cur).getC n).tag = true →
    holdsB s f false t → 1 ≤ t → t ≤ 15 →
    let c := ((s.ctx s.cur).getC n).cap
    let mask := (s.slotOf s.cur).sealmask
    let cursor := (c.base + c.off) % 2 ^ 56
    (c.perm.testBit 6 = false → mask.getLsbD t = true → ∃ p, does (.cseal f) s (putC f.d (Cap.reg { c with perm := p, otype := t })) ∧
      ∀ i < 8, p.testBit i = (c.perm.testBit i || i == 6)) ∧
    (c.perm.testBit 6 = false → mask.getLsbD t = false → s.entersTraps → traps (.cseal f) s 0x07 cursor) ∧
    (c.perm.testBit 6 = true → mask.getLsbD (16 + t) = true → c.otype = t →
      ∃ p, does (.cunseal f) s (putC f.d (Cap.reg { c with perm := p, otype := 0 })) ∧ ∀ i < 8, p.testBit i = (c.perm.testBit i && i != 6)) ∧
    (c.perm.testBit 6 = true → (mask.getLsbD (16 + t) = false ∨ c.otype ≠ t) → s.entersTraps → traps (.cunseal f) s 0x07 cursor)

/-- R124: the checks on the operand. An untagged source traps TAG, a sealed one PERM with the cursor, an offset or a length that does
not fit BOUNDS with the cursor. -/
def Obligations.CapabilityChecksTrap : Prop :=
  ∀ (f : Fields) (s : State) (n : BitVec 6) (b : Nat), acts s f → s.entersTraps → f.a = .c n → holdsB s f false b →
    let r := (s.ctx s.cur).getC n
    let cursor := (r.cap.base + r.cap.off) % 2 ^ 56
    (r.tag = false → ∀ p ∈ [((0x040 : Nat), Instr.cbnd f), (0x041, .csoff f), (0x043, .cperm f), (0x046, .cseal f), (0x047, .cunseal f)],
      traps p.2 s 0x05 (2 * 2 ^ 53 + n.toNat * 2 ^ 46 + p.1)) ∧
    (r.tag = true → r.cap.perm.testBit 6 = true →
      ∀ i ∈ [Instr.cbnd f, .csoff f, .cperm f, .cseal f], traps i s 0x07 cursor) ∧
    (r.tag = true → r.cap.perm.testBit 6 = false → r.cap.len < r.cap.off + b → traps (.cbnd f) s 0x06 cursor) ∧
    (r.tag = true → r.cap.perm.testBit 6 = false → 2 ^ 40 ≤ b → traps (.csoff f) s 0x06 cursor)

/-- R96, R124: no instruction that computes on registers makes authority. A register that holds a tag afterwards grants nothing that a tagged
register did not grant before. SYSRD makes none either, but for GCAP and WCAP, which Super mode reads (R112). -/
def Obligations.NoForgedCapability : Prop :=
  ∀ (f : Fields) (s t : State),
    (∀ i ∈ registerWriters f, exec i s = .next t → grantsNoMore s t) ∧
    (f.imm.toNat % 2 ^ 12 ≠ 0x060 → f.imm.toNat % 2 ^ 12 ≠ 0x061 → exec (.sysrd f) s = .next t → grantsNoMore s t)

/-! ### Floating point (R36 to R42, R127 to R130) -/

namespace Sys2Proof.Claims

/-- The low 32 or 16 bits of a c register, or of the literal (R127). -/
def fpA (s : State) (f : Fields) (x : Nat) : Prop := ∃ y, holds s f.a y ∧ x = y % 2 ^ tyWidth f.ty
def fpB (s : State) (f : Fields) (x : Nat) : Prop :=
  (f.lit = true ∧ x = f.imm.toNat % 2 ^ tyWidth f.ty) ∨ (f.lit = false ∧ ∃ y, holds s f.b y ∧ x = y % 2 ^ tyWidth f.ty)

/-- Bits of the fraction of a type. -/
def frac (ty : Nat) : Nat := if ty = 8 then 23 else 7

end Sys2Proof.Claims

/-- R127, R39: a floating-point instruction writes its result pattern, zero-extended, and adds the flags that its operation
raises; FFMA reads D and rounds once. -/
def Obligations.FloatArithmetic : Prop :=
  ∀ (f : Fields) (s : State) (a b : Nat), acts s f → (f.ty = 8 ∨ f.ty = 9) → fpA s f a → fpB s f b →
    let fb := frac f.ty
    let rm := f.md.toNat % 4
    let out (i : Instr) (r : Nat × Nat) : Prop := does i s (fun c => addFlags r.2 (putC f.d (word r.1) c))
    out (.fadd f) (fAdd fb rm a b) ∧ out (.fsub f) (fSub fb a b) ∧ out (.fmul f) (fMul fb rm a b) ∧ out (.fdiv f) (fDiv fb a b) ∧
      out (.fsqrt f) (fSqrt fb a) ∧ out (.fmin f) (fMinMax false fb a b) ∧ out (.fmax f) (fMinMax true fb a b) ∧
      ∀ d, holds s f.d d → out (.ffma f) (fFma fb rm false a b (d % 2 ^ tyWidth f.ty))

/-- R128: FCMP completes, with its operands readable, and writes every bit of a guard. R130: FCLASS completes, with its operand readable,
names the one class of it and raises no flag. R129: FCVT completes, with its operand readable, and converts under RM: from a
floating-point type to an integer type, from an integer type, and from a floating-point type to another. -/
def Obligations.FloatCompareConvertClass : Prop :=
  (∀ (f : Fields) (s : State) (a b : Nat), acts s f → (f.ty = 8 ∨ f.ty = 9) → fpA s f a → fpB s f b →
    let r := fCompare (frac f.ty) (f.md.toNat % 8) a b
    does (.fcmp f) s (fun c => addFlags r.2 (putG f.d (if r.1 then BitVec.allOnes 64 else 0) c))) ∧
  (∀ (f : Fields) (s : State) (a : Nat), acts s f → (f.ty = 8 ∨ f.ty = 9) → fpA s f a →
    ∃ k < 10, fClass (frac f.ty) a = 2 ^ k ∧ does (.fclass f) s (putC f.d (word (2 ^ k)))) ∧
  (∀ (f : Fields) (s : State) (x src : Nat), acts s f → f.ty < 8 → (src = 8 ∨ src = 9) → src = f.md.toNat / 8 % 16 → holds s f.a x →
    let y := x % 2 ^ tyWidth src
    let r := cvtInt (tyWidth f.ty) (f.ty < 4) (f.md.toNat % 4) (fval (frac src) y)
    does (.fcvt f) s (fun c => addFlags (r.2 ||| if isSignalling (frac src) y then 16 else 0) (putC f.d (reg f.ty r.1) c))) ∧
  (∀ (f : Fields) (s : State) (x src : Nat), acts s f → (f.ty = 8 ∨ f.ty = 9) → src < 8 → src = f.md.toNat / 8 % 16 → holds s f.a x →
    let r := cvtFromInt (frac f.ty) (f.md.toNat % 4) (val src x)
    does (.fcvt f) s (fun c => addFlags r.2 (putC f.d (word r.1) c))) ∧
  ∀ (f : Fields) (s : State) (x src : Nat), acts s f → (f.ty = 8 ∨ f.ty = 9) → (src = 8 ∨ src = 9) → src = f.md.toNat / 8 % 16 → holds s f.a x →
    let r := cvtFloat (frac f.ty) (frac src) (f.md.toNat % 4) (x % 2 ^ tyWidth src)
    does (.fcvt f) s (fun c => addFlags r.2 (putC f.d (word r.1) c))

/-- R37, R39, R40: NaN operands give the canonical quiet NaN, with INVALID when one signals; the invalid operations give it with INVALID; a
finite number other than zero over zero is an infinity of the sign of both with DIVZERO. -/
def Obligations.FloatSpecialCases : Prop :=
  ∀ fb a b rm, (fb = 23 ∨ fb = 7) →
    let nan := 255 * 2 ^ fb + 2 ^ (fb - 1)
    (isNaN fb a = true ∨ isNaN fb b = true →
      let fl := if isSignalling fb a || isSignalling fb b then 16 else 0
      fAdd fb rm a b = (nan, fl) ∧ fSub fb a b = (nan, fl) ∧ fMul fb rm a b = (nan, fl) ∧ fDiv fb a b = (nan, fl)) ∧
    (∀ x, fval fb a = .inf x → fval fb b = .inf (!x) → fAdd fb rm a b = (nan, 16)) ∧
    (∀ x y e, fval fb a = .inf x → fval fb b = .fin y 0 e → fMul fb rm a b = (nan, 16) ∧ fMul fb rm b a = (nan, 16)) ∧
    (∀ x m e y e', m ≠ 0 → fval fb a = .fin x m e → fval fb b = .fin y 0 e' → fDiv fb a b = (infOf fb (x != y), 8)) ∧
    (∀ m e, m ≠ 0 → fval fb a = .fin true m e → fSqrt fb a = (nan, 16))

/-- R38: rounding to a multiple of `2^q`, of an exact value `± m × 2^e`. To nearest it is off by at most half a unit, and an exact half goes
to the even multiple; toward zero never above in magnitude; upward never below; downward never above; always by less than a unit. -/
def Obligations.RoundingDirections : Prop :=
  ∀ (neg : Bool) (m : Nat) (e q : Int), e ≤ q →
    let exact : ℚ := (if neg then -1 else 1) * (m : ℚ) * (2 : ℚ) ^ e
    let unit : ℚ := (2 : ℚ) ^ q
    let got (rm : Nat) : ℚ := (if neg then -1 else 1) * ((roundAt rm neg m e false q).1 : ℚ) * unit
    |got 0 - exact| * 2 ≤ unit ∧ (|got 0 - exact| * 2 = unit → (roundAt 0 neg m e false q).1 % 2 = 0) ∧
    |got 1| ≤ |exact| ∧ exact ≤ got 2 ∧ got 3 ≤ exact ∧
    (∀ rm < 4, |got rm - exact| < unit) ∧
    ∀ rm < 4, (roundAt rm neg m e false q).2 = true ↔ got rm ≠ exact

/-! ### Control flow, the repetition, random streams (R84, R90, R105 to R110, R131 to R138) -/

namespace Sys2Proof.Claims

/-- An address in the code region of a context, with the twelve bytes of a word (R131). -/
def inside (c : Ctx) (t : Nat) : Prop := c.regBase.toNat ≤ t ∧ t + 12 ≤ c.regLimit.toNat

/-- A capability through which control may pass (R132): tagged, not sealed, SPACE 0, permission X and not I, and a word of its bytes,
aligned, at its cursor. -/
def canJump (c : Cap) : Prop :=
  c.space = 0 ∧ c.perm.testBit 7 = false ∧ c.perm.testBit 6 = false ∧ c.perm.testBit 2 = true ∧ c.off + 12 ≤ c.len ∧
    (c.base + c.off) % 2 ^ 56 % 4 = 0

/-- The mixing function of R137, on the 64-bit counter value. -/
def mix (z : BitVec 64) : BitVec 64 :=
  let z := (z ^^^ (z >>> 30)) * 0xBF58476D1CE4E5B9#64
  let z := (z ^^^ (z >>> 27)) * 0x94D049BB133111EB#64
  z ^^^ (z >>> 31)

end Sys2Proof.Claims

/-- R132: BRA and CALL go to PC + 12 × IMM, where the target lies in the code region; CALL writes the address of the next word. A
target outside traps BOUNDS with the target. JMP, RET and CALL go through a register: an untagged register gives an address in the code
region, which stays; a capability that may be executed gives its cursor, and its bytes become the code region: that a limit above 2^56 is cut there is
the model's choice (log 12). -/
def Obligations.Jumps : Prop :=
  (∀ (f : Fields) (s : State), acts s f →
    let c := s.ctx s.cur
    let t := (c.pc + (12 : BitVec 56) * f.imm.signExtend 56)
    (inside c t.toNat →
      (∃ u, exec (.bra f) s = .next u ∧ s.GoesOn u s.cur { c with pc := t, rep := none }) ∧
      ∃ u, exec (.call f) s = .next u ∧ s.GoesOn u s.cur { putC f.d (word ((c.pc.toNat + 12) % 2 ^ 56)) c with pc := t, rep := none }) ∧
    (¬inside c t.toNat → s.entersTraps → traps (.bra f) s 0x06 t.toNat ∧ traps (.call f) s 0x06 t.toNat)) ∧
  ∀ (f : Fields) (s : State) (n : BitVec 6), acts s f → f.a = .c n →
    let c := s.ctx s.cur
    let r := c.getC n
    let link := putC f.d (word ((c.pc.toNat + 12) % 2 ^ 56))
    (r.tag = false → inside c (r.val.toNat % 2 ^ 56) →
      (∀ i ∈ [Instr.jmp f, .ret f], ∃ t, exec i s = .next t ∧ s.GoesOn t s.cur { c with pc := r.val.setWidth 56, rep := none }) ∧
      ∃ t, exec (.callInd f) s = .next t ∧ s.GoesOn t s.cur { link c with pc := r.val.setWidth 56, rep := none }) ∧
    (r.tag = true → canJump r.cap →
      let pc := BitVec.ofNat 56 (r.cap.base + r.cap.off)
      let base := BitVec.ofNat 56 r.cap.base
      let limit := BitVec.ofNat 57 (min (r.cap.base + r.cap.len) (2 ^ 56))
      (∀ i ∈ [Instr.jmp f, .ret f], ∃ t, exec i s = .next t ∧ s.GoesOn t s.cur { c with pc := pc, regBase := base, regLimit := limit, rep := none }) ∧
      ∃ t, exec (.callInd f) s = .next t ∧ s.GoesOn t s.cur { link c with pc := pc, regBase := base, regLimit := limit, rep := none })

/-- R133, R90: NOP does nothing but its hints; YIELD also yields: until each other context that is ready has issued or is no longer ready,
and the slot counts as waiting. PACE holds the context for its low three bits of cycles, and its top bit yields. -/
def Obligations.NopYieldAndPace : Prop :=
  ∀ (f : Fields) (s : State), acts s f → (s.ctx s.cur).rep = none →
    let p := f.hint.pace.toNat
    (∃ t, exec (.nop f) s = .next t ∧ s.Did t id ∧ (t.ctx s.cur).hold = p % 8 ∧
      (t.ctx s.cur).yielding = if 8 ≤ p then s.othersReady s.cur else []) ∧
    (∃ t u, exec (.yield f) s = .next u ∧ s.Did t id ∧ u = t.modCtx s.cur (fun c => { c with yielded := true }) ∧
      (u.ctx s.cur).hold = p % 8 ∧ (u.ctx s.cur).yielding = s.othersReady s.cur) ∧
    ∀ k, (s.ctx k).hold ≠ 0 ∨ (∃ j ∈ (s.ctx k).yielding, s.inPlay j = true) → s.ready k = false

/-- R106, R91: REP with a count of 0, or a guard of 0, passes its body; with a count that the checks admit it fills the repetition buffer with
the decoded body at pass 0, and its PC stays; a count above 16,777,215 traps REP_RANGE.
The words of the body issue in order, pass after pass, with the named register numbers moved on by the stride each pass; after the last word
of the last pass the context goes on behind the body. -/
def Obligations.Repetition : Prop :=
  (∀ (f : Fields) (s : State) (body : List Instr) (b : Nat),
    let c := s.ctx s.cur
    let len := f.md.toNat % 8
    s.fetchBody s.cur c.pc.toNat (len + 1) 0 = .ok body → holdsB s f false b → c.rep = none →
    let past := BitVec.ofNat 56 (c.pc.toNat + 12 * (len + 2))
    let count := b % 2 ^ 32
    (s.guardBit f 0 = false ∨ (count = 0 ∧ body.any barredInBody = false ∧
        firstFault (s.decodeEnv s.cur) (f.mod 6 4) (f.mod 3 3) 0 0 body = none) →
      ∃ t, exec (.repI f) s = .next t ∧ s.GoesOn t s.cur { c with pc := past }) ∧
    (acts s f → 0 < count → count ≤ 16777215 → body.any barredInBody = false →
        firstFault (s.decodeEnv s.cur) (f.mod 6 4) (f.mod 3 3) count 0 body = none →
      ∃ t, exec (.repI f) s = .next t ∧
        s.GoesOn t s.cur { c.chargeSb (chargeOf f.hint) with
          rep := some ⟨f.mod 6 4, f.mod 3 3, len, count, 0, 0, body, chargeOf f.hint, f.hint.pace.toNat⟩ }) ∧
    (acts s f → 16777215 < count → s.entersTraps → traps (.repI f) s 0x0D count)) ∧
  ∀ (s : State) (k : Nat) (c : Ctx) (r : RepState), c.rep = some r →
    (r.ix < r.len → c.advance = { c with rep := some { r with ix := r.ix + 1 } }) ∧
    (r.len ≤ r.ix → r.pass + 1 < r.count → c.advance = { c with rep := some { r with ix := 0, pass := r.pass + 1 } }) ∧
    (r.len ≤ r.ix → r.count ≤ r.pass + 1 →
      c.advance.rep = none ∧ c.advance.pc = c.pc + BitVec.ofNat 56 (12 * (r.len + 2))) ∧
    (s.ctx k = c → ∀ f, r.body.getD r.ix default = .add f →
      ∃ g, s.nextInstr k = .ok (.add g) ∧ g.md = f.md ∧ g.imm = f.imm ∧
        (∀ n, f.d = .c n → g.d = .c (if r.step.testBit 0 then n + BitVec.ofNat 6 (r.pass * r.stride) else n)) ∧
        (∀ n, f.a = .c n → g.a = .c (if r.step.testBit 1 then n + BitVec.ofNat 6 (r.pass * r.stride) else n)) ∧
        ∀ n, f.b = .c n → g.b = .c (if r.step.testBit 2 then n + BitVec.ofNat 6 (r.pass * r.stride) else n))

/-- R135 to R137: RNGSEED writes the stream word of the vcore, with a counter of 0; RNG writes the mixed value of the word to D and the word with
its counter one higher to A, and at the wrap of the counter it sets the wrapped bit of RNGCTL. -/
def Obligations.RandomStreams : Prop :=
  ∀ (f : Fields) (s : State) (b w : Nat), acts s f →
    let vc := (s.slotOf s.cur).vcore % 2 ^ 12
    let stream := w / 2 ^ 40 % 2 ^ 12
    let ctr := w % 2 ^ 40
    (holdsB s f false b → does (.rngseed f) s (putC f.d (word (vc * 2 ^ 52 + b % 2 ^ 12 * 2 ^ 40)))) ∧
    (holds s f.a w → f.d ≠ f.a →
      let value := mix (BitVec.ofNat 64 ((s.slotOf s.cur).seed.toNat + ((vc * 2 ^ 12 + stream) * 2 ^ 40 + ctr + 1) * 0x9E3779B97F4A7C15))
      let next := vc * 2 ^ 52 + stream * 2 ^ 40 + (ctr + 1) % 2 ^ 40
      let u (c : Ctx) : Ctx := putC f.a (word next) (putC f.d (word value.toNat) c)
      (ctr + 1 < 2 ^ 40 → does (.rng f) s u) ∧
      (ctr + 1 = 2 ^ 40 → (s.slotOf s.cur).rngctl.getLsbD 1 = false →
        ∃ t, exec (.rng f) s = .next t ∧
          (s.modSlot (s.slotKeyOf s.cur) (fun l => { l with rngctl := l.rngctl ||| 1 })).GoesOn t s.cur (u (s.ctx s.cur)).advance))

/-- R138: the finaliser is a bijection of the 64-bit values, so that two streams never give the same value, at any positions; a wrapped
counter resumes at the start of its own segment. -/
def Obligations.StreamsNeverMeet : Prop :=
  Function.Bijective mix ∧
  (∀ key idx ctr, rngMix key idx ctr = (mix (BitVec.ofNat 64 (key + (idx * 2 ^ 40 + ctr + 1) * 0x9E3779B97F4A7C15))).toNat) ∧
  (∀ key idx idx' ctr ctr', idx < 2 ^ 24 → idx' < 2 ^ 24 → ctr < 2 ^ 40 → ctr' < 2 ^ 40 → idx ≠ idx' →
    rngMix key idx ctr ≠ rngMix key idx' ctr') ∧
  ∀ vc n, streamWord vc n (2 ^ 40 - 1 + 1) = streamWord vc n 0

/-! ### Vectors (R139 to R155) -/

namespace Sys2Proof.Claims

/-- Lane `i` of a vector of lanes of `n` bits (R139). -/
def lane (x : VReg) (n i : Nat) : Nat := x.toNat / 2 ^ (n * i) % 2 ^ n

/-- The operands of a vector instruction with lanes of `n` bits are `a` and `b`, and `u` is the state after its pops (R140, R143). -/
def vecIn (s : State) (f : Fields) (n lit : Nat) (u : State) (a b : VReg) : Prop := ∀ op, vecOperands op f n lit s = .ok (u, a, b)

/-- The operand A of a vector instruction whose B is no vector. -/
def vecInA (s : State) (f : Fields) (u : State) (a : VReg) : Prop := ∀ op, vecA op f s = .ok (u, a)

/-- The instruction writes the lanes of D that its guard selects with `g`, keeps the others, and adds the flags of the lanes written
(R141); `u` is the state after its pops. -/
def writesLanes (i : Instr) (s u : State) (f : Fields) (n : Nat) (g : Nat → Nat × Nat) : Prop :=
  ∃ t r fl d, f.d = .v d ∧ exec i s = .next t ∧
    (∀ j < 512 / n, lane r n j = if s.guardBit f j then (g j).1 % 2 ^ n else lane ((s.ctx s.cur).getV d.toNat) n j) ∧
    (∀ k, fl.testBit k = true ↔ ∃ j < 512 / n, s.guardBit f j = true ∧ (g j).2.testBit k = true) ∧
    u.GoesOn t s.cur (addFlags fl { u.ctx s.cur with v := (u.ctx s.cur).v.put d.toNat r }).advance

/-- Bits of a literal, or of a c register, that a lane of the type holds (R140). -/
def litLane (f : Fields) : Nat := (if f.ty < 4 then (f.imm.signExtend 64).toNat else f.imm.toNat) % 2 ^ tyWidth f.ty

/-- An exact integer as a lane holds it: wrapped, or clamped under SAT (R145). -/
def narrow (f : Fields) (x : Int) : Nat := (BitVec.ofInt (tyWidth f.ty) (if f.md.getLsbD 6 then clamp f.ty x else x)).toNat

/-- R145, R146: the arithmetic instructions, as the lane that `a`, `b` and the old `d` give, and its flags. -/
def vecTable (f : Fields) : List (Instr × (Nat → Nat → Nat → Nat × Nat)) :=
  let fb := frac f.ty
  let v := val f.ty
  let int (x : Int) : Nat × Nat := (narrow f x, 0)
  [(.vadd f, fun a b _ => if f.ty < 8 then int (v a + v b) else fAdd fb 0 a b),
   (.vsub f, fun a b _ => if f.ty < 8 then int (v a - v b) else fSub fb a b),
   (.vmul f, fun a b _ => if f.ty < 8 then int (v a * v b) else fMul fb 0 a b),
   (.vfma f, fun a b d => if f.ty < 8 then int (v d + v a * v b) else fFma fb 0 false a b d),
   (.vfms f, fun a b d => if f.ty < 8 then int (v d - v a * v b) else fFma fb 0 true a b d),
   (.vmin f, fun a b _ => if f.ty < 8 then (if v a ≤ v b then a else b, 0) else fMinMax false fb a b),
   (.vmax f, fun a b _ => if f.ty < 8 then (if v a ≤ v b then b else a, 0) else fMinMax true fb a b),
   (.vabs f, fun a _ _ => if f.ty < 8 then int |v a| else
      if isNaN fb a then (canonNaN fb, if isSignalling fb a then 16 else 0) else (a % 2 ^ (fb + 8), 0)),
   (.vneg f, fun a _ _ => if f.ty < 8 then int (-(v a)) else
      if isNaN fb a then (canonNaN fb, if isSignalling fb a then 16 else 0) else (a ^^^ 2 ^ (fb + 8), 0))]

/-- R147: the instructions on the bits of lanes. -/
def vecBitTable (f : Fields) (n : Nat) : List (Instr × (BitVec n → BitVec n → BitVec n)) :=
  [(.vand f, fun a b => a &&& b), (.vor f, fun a b => a ||| b), (.vxor f, fun a b => a ^^^ b), (.vandn f, fun a b => a &&& ~~~b),
   (.vshl f, fun a b => a <<< (b.toNat % n)), (.vshr f, fun a b => a >>> (b.toNat % n)), (.vsar f, fun a b => a.sshiftRight (b.toNat % n)),
   (.vpopc f, fun a _ => BitVec.ofNat n ((List.range n).countP (fun i => a.getLsbD i)))]

end Sys2Proof.Claims

/-- R141, R145: an arithmetic vector instruction writes each lane that its guard selects with the exact result of that lane, narrowed or
rounded to nearest, keeps the others, and adds the flags of the lanes written. R147: the bitwise, shift and count instructions, lane by
lane; a shift amount is taken mod the width; VCLZ counts leading zeros, and VCLMUL writes the low or the high half of the carry-less
product. -/
def Obligations.VectorLanes : Prop :=
  (∀ (f : Fields) (s u : State) (a b : VReg) (d : BitVec 5), f.d = .v d → f.ty ≤ 9 →
     let n := tyWidth f.ty
     vecIn s f n (litLane f) u a b →
     ∀ p ∈ vecTable f, writesLanes p.1 s u f n (fun i => p.2 (lane a n i) (lane b n i) (lane ((s.ctx s.cur).getV d.toNat) n i))) ∧
  ∀ (f : Fields) (s u : State) (a b : VReg) (d : BitVec 5), f.d = .v d → f.ty < 8 →
    let n := tyWidth f.ty
    vecIn s f n (litLane f) u a b →
    (∀ p ∈ vecBitTable f n, writesLanes p.1 s u f n (fun i => ((p.2 (BitVec.ofNat n (lane a n i)) (BitVec.ofNat n (lane b n i))).toNat, 0))) ∧
    (∃ g : Nat → Nat, writesLanes (.vclz f) s u f n (fun i => (g i, 0)) ∧ ∀ i < 512 / n, let x := BitVec.ofNat n (lane a n i)
      g i ≤ n ∧ (∀ j < g i, x.getLsbD (n - 1 - j) = false) ∧ (g i < n → x.getLsbD (n - 1 - g i) = true)) ∧
    ∃ g : Nat → BitVec n, writesLanes (.vclmul f) s u f n (fun i => ((g i).toNat, 0)) ∧ ∀ i < 512 / n, ∀ j < n,
      (g i).getLsbD j = clBit n (BitVec.ofNat n (lane a n i)) (BitVec.ofNat n (lane b n i)) (if f.md.getLsbD 0 then n + j else j)

/-- R146: the reciprocal, the reciprocal root, the exponential and the logarithm of each lane. The value of VRCP and VRSQ at the
operands where it is exact: a power of 2, and a power of 4; the exponential of a small integer and the logarithm of a power of 2 are exact too. -/
def Obligations.VectorFunctions : Prop :=
  (∀ (f : Fields) (s u : State) (a b : VReg) (d : BitVec 5), f.d = .v d → (f.ty = 8 ∨ f.ty = 9) →
    let n := tyWidth f.ty
    let fb := frac f.ty
    vecIn s f n (litLane f) u a b →
    writesLanes (.vrcp f) s u f n (fun i => fRcp fb (lane a n i)) ∧ writesLanes (.vrsq f) s u f n (fun i => fRsq fb (lane a n i)) ∧
      writesLanes (.vexp2 f) s u f n (fun i => fExp2 fb (lane a n i)) ∧ writesLanes (.vlog2 f) s u f n (fun i => fLog2 fb (lane a n i))) ∧
  ∀ fb, (fb = 23 ∨ fb = 7) → let pow (e : Nat) : Nat := (127 + e) * 2 ^ fb
    (∀ e ≤ 60, fRcp fb (pow e) = ((127 - e) * 2 ^ fb, 0)) ∧ (∀ e ≤ 30, fRsq fb (pow (2 * e)) = ((127 - e) * 2 ^ fb, 0)) ∧
      fExp2 fb 0 = (pow 0, 0) ∧ fLog2 fb (pow 0) = (0, 0) ∧ fExp2 fb (pow 0) = (pow 1, 0) ∧ fLog2 fb (pow 1) = (pow 0, 0)

/-- R148 to R152: comparison into a guard, selection by a guard, and the instructions that move lanes. -/
def Obligations.VectorMoves : Prop :=
  ∀ (f : Fields) (s u : State) (a b : VReg), f.ty ≤ 9 →
    let n := tyWidth f.ty
    let N := 512 / n
    let ctx := s.ctx s.cur
    let guard (k : Nat) : Word64 := ctx.getG (BitVec.ofNat 4 k)
    (∀ d, f.d = .v d → vecIn s f n (litLane f) u a b →
      writesLanes (.vsel f) s u f n (fun i => (if (guard (f.md.toNat % 16)).getLsbD i != f.md.getLsbD 4 then lane a n i else lane b n i, 0)) ∧
      writesLanes (.vperm f) s u f n (fun i => (lane a n (lane b n i % N), 0))) ∧
    (∀ d x, f.d = .v d → (if f.lit then x = litLane f else holds s f.a x) → writesLanes (.vbcast f) s s f n (fun _ => (x % 2 ^ n, 0))) ∧
    (∀ d x, f.d = .v d → vecInA s f u a → holdsB s f true x → boundCheck s 0x142 f [(2, f.a)] = .ok () →
      writesLanes (.vslide f) s u f n (fun i => let j : Int := (i : Int) + (BitVec.ofNat 64 x).toInt
        (if 0 ≤ j ∧ j < N then lane a n j.toNat else 0, 0))) ∧
    (∀ d g, f.d = .v d → f.b = .g g → vecInA s f u a →
      writesLanes (.vcompress f) s u f n (fun i =>
        (match ((List.range N).filter (fun j => (ctx.getG g).getLsbD j))[i]? with | some j => lane a n j | none => 0, 0))) ∧
    (∀ d g, f.d = .v d → f.a = .g g →
      writesLanes (.viota f) s s f n (fun i => ((List.range i).countP (fun j => (ctx.getG g).getLsbD j), 0))) ∧
    (∀ x, acts s f → vecInA s f u a → holdsB s f false x → boundCheck s 0x145 f [(2, f.a)] = .ok () →
      ∃ t, exec (.vmovc f) s = .next t ∧ u.GoesOn t s.cur (putC f.d (reg f.ty (val f.ty (lane a n (x % N)))) (u.ctx s.cur)).advance) ∧
    (∀ d x y, f.d = .v d → acts s f → holds s f.a x → holdsB s f false y → ∃ r, does (.vins f) s (fun c => { c with v := c.v.put d.toNat r }) ∧
      ∀ j < N, lane r n j = if j = y % N then x % 2 ^ n else lane (ctx.getV d.toNat) n j) ∧
    (∀ g, f.d = .g g → vecIn s f n (litLane f) u a b → (∃ j < N, s.guardBit f j = true) →
      let at_ (j : Nat) : Bool × Nat := if f.ty < 8 then (intCompare (f.md.toNat % 8) (val f.ty (lane a n j)) (val f.ty (lane b n j)), 0)
        else fCompare (frac f.ty) (f.md.toNat % 8) (lane a n j) (lane b n j)
      ∃ t m fl, exec (.vcmp f) s = .next t ∧ u.GoesOn t s.cur (addFlags fl (putG f.d m (u.ctx s.cur))).advance ∧
        (∀ j < 64, m.getLsbD j = (decide (j < N) && s.guardBit f j && (at_ j).1)) ∧
        ∀ k, fl.testBit k = true ↔ ∃ j < N, s.guardBit f j = true ∧ (at_ j).2.testBit k = true) ∧
    ∀ (d : BitVec 5) (src : Nat), f.d = .v d → src = f.md.toNat / 8 % 16 → src ≤ 9 →
      let w := tyWidth src
      let M := 512 / max w n
      let part := f.imm.toNat % 8
      part * min w n < max w n →
      let x := ctx.getV (opndNum f.a)
      let inPart (i : Nat) : Bool := decide (n < w → part * M ≤ i ∧ i < part * M + M)
      let conv (i : Nat) : Nat × Nat := convLane f.ty src (f.md.toNat % 4) (lane x w (if n < w then i - part * M else part * M + i))
      ∃ t r fl, exec (.vcvt f) s = .next t ∧ s.GoesOn t s.cur (addFlags fl { ctx with v := ctx.v.put d.toNat r }).advance ∧
        (∀ i < N, lane r n i = if s.guardBit f i && inPart i && decide (i < M ∨ n < w) then (conv i).1 % 2 ^ n else lane (ctx.getV d.toNat) n i) ∧
        ∀ k, fl.testBit k = true ↔ ∃ i < N, s.guardBit f i = true ∧ inPart i = true ∧ (i < M ∨ n < w) ∧ (conv i).2.testBit k = true

/-- R153 to R155: the reduction of integer lanes is exact over the lanes that the guard selects, the scan gives each lane the reduction up to
it, an unselected lane counting as the identity, and the dot product adds four products of bytes to a 32-bit lane; floating-point lanes
are reduced by halves, and scanned by doubling distances. -/
def Obligations.VectorReductions : Prop :=
  (∀ (f : Fields) (s u : State) (a b : VReg), (f.ty = 8 ∨ f.ty = 9) →
    let n := tyWidth f.ty
    let red := f.md.toNat % 8
    let steps := if f.ty = 9 then 5 else 4
    let xs := (List.range (512 / n)).map (fun i => floatLane f.ty red (s.guardBit f i) (lane a n i))
    (vecInA s f u a → (∃ j < 512 / n, s.guardBit f j = true) →
      let r := floatEnd f.ty (halving (floatStep red) steps xs 0)
      ∃ t, exec (.vred f) s = .next t ∧ u.GoesOn t s.cur (addFlags r.2 (putC f.d (word r.1) (u.ctx s.cur))).advance) ∧
    (∀ d, f.d = .v d → vecInA s f u a → let ys := scanSteps (floatStep red) steps 1 (xs.map (fun x => (x, 0)))
      writesLanes (.vscan f) s u f n (fun i => floatEnd f.ty (ys.getD i (0, 0)))) ∧
    (∀ d, f.d = .v d → f.ty = 9 → vecIn s f 32 f.imm.toNat u a b →
      writesLanes (.vdot f) s u f 32 (fun i => dotBf16 (lane a 32 i) (lane b 32 i) (lane ((s.ctx s.cur).getV d.toNat) 32 i)))) ∧
  ∀ (f : Fields) (s u : State) (a b : VReg), f.ty < 8 →
    let n := tyWidth f.ty
    let N := 512 / n
    let red := f.md.toNat % 8
    let op (x y : Int) : Int := match red with
      | 0 => x + y | 1 => min x y | 2 => max x y
      | 3 => val f.ty ((BitVec.ofInt n x &&& BitVec.ofInt n y).toNat) | 4 => val f.ty ((BitVec.ofInt n x ||| BitVec.ofInt n y).toNat)
      | _ => val f.ty ((BitVec.ofInt n x ^^^ BitVec.ofInt n y).toNat)
    let unit : Int := match red with
      | 1 => if f.ty < 4 then 2 ^ (n - 1) - 1 else 2 ^ n - 1
      | 2 => if f.ty < 4 then -(2 ^ (n - 1)) else 0
      | 3 => if f.ty < 4 then -1 else 2 ^ n - 1
      | _ => 0
    let x (i : Nat) : Int := if s.guardBit f i then val f.ty (lane a n i) else unit
    (red < 6 → vecInA s f u a → (∃ j < N, s.guardBit f j = true) → ∃ t, exec (.vred f) s = .next t ∧
      u.GoesOn t s.cur (putC f.d (reg f.ty (val f.ty (narrow f (((List.range N).map x).foldl op unit)))) (u.ctx s.cur)).advance) ∧
    (∀ d, f.d = .v d → red < 6 → vecInA s f u a →
      writesLanes (.vscan f) s u f n (fun i => (narrow f (((List.range (i + 1)).map x).foldl op unit), 0))) ∧
    (∀ d, f.d = .v d → (f.ty = 0 ∨ f.ty = 4) → vecIn s f 32 f.imm.toNat u a b →
      let tb := if f.md.getLsbD 5 then 4 else f.ty
      let ty := if f.ty = 0 then 2 else 6
      writesLanes (.vdot f) s u f 32 (fun i =>
        let term (k : Nat) : Int := val f.ty (lane a 8 (4 * i + k)) * val tb (lane b 8 (4 * i + k))
        (((BitVec.ofInt 32 (let z := val ty (lane ((s.ctx s.cur).getV d.toNat) 32 i) + (term 0 + term 1 + term 2 + term 3)
           if f.md.getLsbD 6 then clamp ty z else z)).toNat), 0)))

/-! ### Memory (R98 to R100, R157 to R189, R191 to R195, R405) -/

namespace Sys2Proof.Claims

/-- The number in `n` bytes of memory, the lowest address the least significant (R6). -/
def le (s : State) (a n : Nat) : Nat := (List.range n).foldr (fun i acc => (s.byte (a + i)).toNat + 256 * acc) 0

/-- What a load, a store, and a synchronising access of `n` bytes ask of memory (R164, R165, R244). -/
def loadReq (op : Nat) (f : Fields) (n : Nat) (cp : Bool) : Req :=
  { op := op, field := 2, opnd := f.a, n := n, al := n, ld := true, st := false, cp := cp }

/-- The checks of R165 admit the access through the capability in `o` at an offset, at the place `l`; `u` is the state with what the race
detector has recorded. -/
def access (s : State) (rq : Req) (o : Opnd) (off : Int) (tagged permG : Bool) (u : State) (l : Loc) : Prop :=
  memAccess s s.cur rq (s.capOpnd o) off tagged permG = .ok (u, l)

/-- The literal of a load or a store as a signed offset (R13). -/
def offs (f : Fields) : Int := (f.imm).toInt

/-- The paddock of the context in hand samples no access (R194). -/
def notSampled (s : State) : Prop := (s.drover (s.paddockOf (coreOf s.cur))).sampcfg.getLsbD 0 = false

/-- The bytes of a place hold `x`, lowest first, and no other byte of memory differs from `s`. -/
def stored (s t : State) (a n x : Nat) : Prop :=
  ∀ i, t.byte i = if a ≤ i ∧ i < a + n then BitVec.ofNat 8 (x / 256 ^ (i - a)) else s.byte i

end Sys2Proof.Claims

/-- R97, R98, R157, R165: an access of a local buffer through a capability of that space is admitted when the capability is tagged, neither sealed nor
of an I stack, grants the kind of access, and the aligned bytes lie in it and in the buffer; a store goes to L or A alone, and to no WEIGHT tensor; it does
not wait when no engine command covers the bytes and the context has no posted store to that core that has not retired (R176, R240; how the
model keeps program order there is log 112). It touches nothing.
R182: in SPACE 0 a page of the TLB that grants the access gives the physical place. -/
def Obligations.AccessAdmitted : Prop :=
  ∀ (s : State) (rq : Req) (r : CReg) (off : Int), s.cur / 32 < 2048 →
    let c := r.cap
    let core := s.cur / 32
    let a := ((c.base : Int) + (c.off : Int) + off).toNat % 2 ^ 56
    rq.ld = !rq.st → rq.ex = false → rq.posted = false → rq.noW = false → c.space ∈ rq.spaces →
    r.tag = true → c.perm.testBit 7 = false → c.perm.testBit 6 = false → (rq.ld = true → c.perm.testBit 0 = true) →
    (rq.st = true → c.perm.testBit 1 = true) → (rq.cp = true → c.perm.testBit 3 = true) →
    0 ≤ (c.off : Int) + off → (c.off : Int) + off < 2 ^ 40 → (c.off : Int) + off + rq.n ≤ c.len → a % rq.al = 0 →
    (rq.st = true → (s.slotOf s.cur).weightHit core c.space a rq.n = none) →
    ((1 ≤ c.space ∧ c.space ≤ 4) → (rq.st = true → c.space = 1 ∨ c.space = 3) →
      a + rq.n ≤ (match c.space with | 2 => 768 * 1024 | 3 => 1024 * 1024 | _ => 256 * 1024) →
      (s.core core).mustWait c.space a rq.n rq.st = false → s.postedTo s.cur core = false →
      memAccess s s.cur rq r off false false =
        .ok (s, { key := placeKey c.space core a, space := c.space, core := core, addr := a, va := a, tags := c.space == 1 })) ∧
    (c.space = 0 → ∀ i img, tlbFind (s.core core) a = some (i, img) → imgAdmits img (s.ctx s.cur).mode (if rq.st then .store else .load) = true →
      imgCHK img = false → s.firewall = [] →
      ∃ l, memAccess s s.cur rq r off false false = .ok (s, l) ∧ l.key = imgPA img + a % 2 ^ pageShift (imgSize img) ∧ l.space = 0 ∧ l.chk = false)

/-- R97, R100, R165: the checks on the capability of a store trap in their order, with no effect: an untagged register TAG, a sealed capability and a
missing permission PERM, bytes beyond the length BOUNDS, a misaligned address ALIGN; TVAL of the last three is the address. -/
def Obligations.AccessChecksTrap : Prop :=
  ∀ (f : Fields) (s : State) (n m : BitVec 6) (x : Nat), acts s f → s.entersTraps → f.ty < 10 →
    f.a = .c n → f.d = .c m → holds s f.a x →
    let size := tyWidth f.ty / 8
    let addr (c : Cap) : Nat := ((c.base : Int) + (c.off : Int) + offs f).toNat % 2 ^ 56
    (((s.ctx s.cur).getC m).tag = false → ((s.ctx s.cur).getC m).cap.space ≠ 6 → traps (.st f) s 0x05 (1 * 2 ^ 53 + m.toNat * 2 ^ 46 + 0x201)) ∧
    (((s.ctx s.cur).getC m).tag = true → let c := ((s.ctx s.cur).getC m).cap
      c.space < 6 → c.perm.testBit 7 = false → 0 ≤ (c.off : Int) + offs f → (c.off : Int) + offs f < 2 ^ 40 →
      (c.perm.testBit 6 = true → traps (.st f) s 0x07 (addr c)) ∧
      (c.perm.testBit 6 = false → c.perm.testBit 1 = false → traps (.st f) s 0x07 (addr c)) ∧
      (c.perm.testBit 6 = false → c.perm.testBit 1 = true → c.len < (c.off : Int) + offs f + size → traps (.st f) s 0x06 (addr c)) ∧
      (c.perm.testBit 6 = false → c.perm.testBit 1 = true → (c.off : Int) + offs f + size ≤ c.len → addr c % size ≠ 0 →
        traps (.st f) s 0x08 (addr c)))

/-- R166 to R169: a load that is admitted writes D with the bytes of the place, the lowest the least significant, LDC with their tag where the place
keeps tags; GATH loads the lanes that its guard selects; a load of a register window gives its register. A load that meets an uncorrectable error takes
MATRIX_CHECK after its effect and quarantines a core (R160): that it is the core whose buffer holds the word, also for a remote load, is the model's
choice (log 109). Unless the access is sampled or checked for races, no byte of memory differs. -/
def Obligations.Loads : Prop :=
  (∀ (f : Fields) (s u : State) (l : Loc), acts s f → (s.capOpnd f.a).cap.space ≠ 6 →
    let n := tyWidth f.ty / 8
    let v := u.noteAccess s.cur l 0
    let ends (i : Instr) (size : Nat) (g : Ctx → Ctx) : Prop := v.poisoned l size = false →
      ∃ t, exec i s = .next t ∧ v.GoesOn t s.cur (g (v.ctx s.cur)).advance ∧ (l.chk = false → notSampled s → ∀ a, t.byte a = s.byte a)
    (f.ty < 10 → access s (loadReq 0x200 f n false) f.a (offs f) false false u l → ends (.ld f) n (putC f.d (reg f.ty (le s l.key n)))) ∧
    (access s (loadReq 0x202 f 16 true) f.a (offs f) false false u l →
      ends (.ldc f) 16 (putC f.d ⟨l.tags && s.tagAt l.key, BitVec.ofNat 128 (le s l.key 16)⟩)) ∧
    (∀ d, f.d = .v d → access s (loadReq 0x204 f 64 false) f.a (offs f) false false u l →
      ends (.ldv f) 64 (fun c => { c with v := c.v.put d.toNat (BitVec.ofNat 512 (le s l.key 64)) })) ∧
    (f.ty < 10 → access s (loadReq 0x200 f n false) f.a (offs f) false false u l → v.poisoned l n = true → s.entersTraps →
      ∃ t, exec (.ld f) s = .next t ∧ (t.core l.core).quarantined = true ∧ (t.ctx s.cur).cause = 0x12 ∧
        ∀ m, f.d = .c m → m ≠ 0 → (t.ctx s.cur).getC m = reg f.ty (le s l.key n))) ∧
  (∀ (f : Fields) (s : State) (a : Nat), acts s f → f.ty < 10 → (s.capOpnd f.a).cap.space = 6 →
    loadWindow 0x200 f (tyWidth f.ty / 8) false s = .ok a → does (.ld f) s (putC f.d (reg f.ty a))) ∧
  ∀ (f : Fields) (s u : State) (d : BitVec 5) (ls : List (Nat × Loc)), f.ty < 10 → f.d = .v d →
    let n := tyWidth f.ty
    let rq : Req := { op := 0x206, field := 2, opnd := f.a, n := n / 8, al := n / 8, ld := true, st := false, spaces := [0, 1, 2, 3, 4] }
    laneAccesses s rq (s.capOpnd f.a) (offs f) ((s.ctx s.cur).getV (opndNum f.b)) n s (s.activeLanes f n) = .ok (u, ls) →
    let v := ls.foldl (fun (w : State) p => w.noteAccess s.cur p.2 0) u
    (∀ p ∈ ls, v.poisoned p.2 (n / 8) = false) →
    ls.map (·.1) = (List.range (512 / n)).filter (s.guardBit f) ∧
    ∃ t r, exec (.gath f) s = .next t ∧ v.GoesOn t s.cur { v.ctx s.cur with v := (v.ctx s.cur).v.put d.toNat r }.advance ∧
      ∀ j < 512 / n, lane r n j = match ls.find? (fun p => p.1 == j) with
        | some p => le s p.2.key (n / 8)
        | none => lane ((s.ctx s.cur).getV d.toNat) n j

/-- R166 to R169, R197: a store that is admitted writes its bytes, the least significant at the lowest address, and no other byte; it clears the tags of
the granules it touches, and STC sets the tag of its granule where the value has one. SCAT stores the selected lanes, the highest winning. STV into an
engine's window pushes a command, and a store to a register window writes its register. -/
def Obligations.Stores : Prop :=
  (∀ (f : Fields) (s u : State) (l : Loc), acts s f → (s.capOpnd f.d).cap.space ≠ 6 →
    let n := tyWidth f.ty / 8
    let v := u.noteAccess s.cur l 1
    (∀ x, f.ty < 10 → holds s f.a x → access s (storeReq 0x201 f n false) f.d (offs f) false false u l →
      ∃ t, exec (.st f) s = .next t ∧ (v.write l.key n x).GoesOn t s.cur (v.ctx s.cur).advance ∧ stored v t l.key n x ∧
        (∀ g, t.tagAt g = true ↔ v.tagAt g = true ∧ ¬(l.key / 16 ≤ g / 16 ∧ g / 16 ≤ (l.key + n - 1) / 16))) ∧
    (∀ m, f.a = .c m → let r := (s.ctx s.cur).getC m
      access s (storeReq 0x203 f 16 true) f.d (offs f) r.tag (r.cap.perm.testBit 4) u l → l.key % 16 = 0 →
      ∃ t, exec (.stc f) s = .next t ∧ (v.writeTagged l.key r).GoesOn t s.cur (v.ctx s.cur).advance ∧ stored v t l.key 16 r.val.toNat ∧
        t.tagAt l.key = r.tag ∧ ∀ g, g / 16 ≠ l.key / 16 → t.tagAt g = v.tagAt g) ∧
    (∀ m, f.a = .v m → let x := (s.ctx s.cur).getV m.toNat
      access s (storeReq 0x205 f 64 false) f.d (offs f) false false u l →
      ∃ t, exec (.stv f) s = .next t ∧ (v.write l.key 64 x.toNat).GoesOn t s.cur (v.ctx s.cur).advance ∧ stored v t l.key 64 x.toNat)) ∧
  (∀ (f : Fields) (s : State) (a : Nat), acts s f → (s.capOpnd f.d).cap.space = 6 →
    (∀ m e u, f.a = .v m → storeWindow 0x205 f 64 false true s = .ok a → winEngine a = some e →
      s.push s.cur e ((s.ctx s.cur).getV m.toNat) = .ok u →
      ∃ t, exec (.stv f) s = .next t ∧ u.GoesOn t s.cur (u.ctx s.cur).advance) ∧
    (∀ x, f.ty < 10 → holds s f.a x → storeWindow 0x201 f (tyWidth f.ty / 8) false false s = .ok a →
      ∃ t, exec (.st f) s = .next t ∧ (s.windowWrite s.cur a x).GoesOn t s.cur ((s.windowWrite s.cur a x).ctx s.cur).advance)) ∧
  ∀ (f : Fields) (s u : State) (m : BitVec 5) (ls : List (Nat × Loc)), f.ty < 10 → f.a = .v m →
    let n := tyWidth f.ty
    let rq : Req := { op := 0x207, field := 1, opnd := f.d, n := n / 8, al := n / 8, ld := false, st := true, spaces := [0, 1, 2, 3, 4] }
    laneAccesses s rq (s.capOpnd f.d) (offs f) ((s.ctx s.cur).getV (opndNum f.b)) n s (s.activeLanes f n) = .ok (u, ls) →
    let v := ls.foldl (fun (w : State) p => w.noteAccess s.cur p.2 1) u
    let covers (p : Nat × Loc) (a : Nat) : Bool := decide (p.2.key ≤ a) && decide (a < p.2.key + n / 8)
    ∃ t, exec (.scat f) s = .next t ∧ ∀ a, t.byte a = match ls.reverse.find? (fun p => covers p a) with
      | some p => BitVec.ofNat 8 (lane ((s.ctx s.cur).getV m.toNat) n p.1 / 256 ^ (a - p.2.key))
      | none => v.byte a

/-- R172 to R176: PST and PST.V take a free journal entry and charge their counter; the store is performed at the far core's L when it arrives, if it is
admitted there and the vcore whose share it is stands in no freeze (log 126); its acknowledgement frees the entry and releases the counter; a negative acknowledgement backs off for 128 ns and then twice as long each
time, up to 16 µs, after which the store is sent again; 1 ms after its first attempt, or at a refusal, the entry stays and POSTED_STORE_REFUSED is pending. -/
def Obligations.PostedStores : Prop :=
  (∀ (f : Fields) (s u : State) (l : Loc) (n x i : Nat) (op : Instr), acts s f → f.ty < 10 →
    ((op = .pst f ∧ holds s f.a x ∧ n = tyWidth f.ty / 8) ∨ (∃ m, op = .pstV f ∧ f.a = .v m ∧ n = 64 ∧ x = ((s.ctx s.cur).getV m.toNat).toNat)) →
    access s { storeReq 0x208 f n false with remote := true, posted := true, spaces := [5] } f.d (offs f) false false u l →
    (s.slotOf s.cur).freeEntry = some i →
    ∃ t, exec op s = .next t ∧ (∀ a, t.byte a = u.byte a) ∧
      (let e := Sparse.get {} (t.slot (s.slotKeyOf s.cur)).journal i
       e.state = 1 ∧ e.phase = 0 ∧ e.addr = l.va ∧ e.size = n ∧ e.seq = (s.slotOf s.cur).pstSeq ∧ e.data = BitVec.ofNat 512 (x % 2 ^ (8 * n)) ∧
         e.sb = chargeOf f.hint ∧ e.firstAt = none ∧ e.order = s.turn ∧ e.user = ((s.ctx s.cur).mode == 0)) ∧
      ∀ b, chargeOf f.hint = some b → (s.ctx s.cur).rep = none → (t.ctx s.cur).getSb b = (u.ctx s.cur).getSb b + 1) ∧
  ∀ (core slot i : Nat) (s : State), let e := s.jentry core slot i
    (e.state = 1 ∨ e.state = 2) →
    (e.phase = 0 → s.heldBack e = false → s.pstVerdict e = none →
      (s.core (e.addr / 2 ^ 44 % 2 ^ 12)).mustWait 1 (e.addr % 2 ^ 44) e.size true = false →
      s.shareFrozen (e.addr / 2 ^ 44 % 2 ^ 12) (e.addr % 2 ^ 44) e.size = false →
      ∃ t, exec (.pstArrival core slot i) s = .next t ∧ (t.jentry core slot i).phase = 1 ∧
        stored s t (placeKey 1 (e.addr / 2 ^ 44 % 2 ^ 12) (e.addr % 2 ^ 44)) e.size e.data.toNat) ∧
    (e.phase = 0 → s.heldBack e = false → s.pstVerdict e = some 3 →
      exec (.pstArrival core slot i) s = .next (s.setJentry core slot i { e with phase := 2, firstAt := some (e.firstAt.getD s.time) })) ∧
    (∀ r, e.phase = 0 → s.heldBack e = false → s.pstVerdict e = some r → r ≠ 3 →
      exec (.pstArrival core slot i) s = .next (s.setJentry core slot i { e with phase := 4, verdict := r })) ∧
    (∀ home, e.phase = 1 →
      (s.modSlot (slotKey core slot) (fun l => { l with journal := l.journal.filter (fun p => p.1 != i) })).residentHome e.lid e.vcore = some home →
      ∃ t, exec (.pstAck core slot i) s = .next t ∧ (t.jentry core slot i).state = 0 ∧ (∀ a, t.byte a = s.byte a) ∧
        t.ctx (hartKey (home / 16) (home % 16)) = (s.ctx (hartKey (home / 16) (home % 16))).releaseSb e.sb) ∧
    (e.phase = 2 → exec (.pstNack core slot i) s = .next (s.setJentry core slot i { e with
      state := 2, phase := 3, backoff := if e.backoff = 0 then 128 else min (2 * e.backoff) 16000,
      nextAt := s.time + if e.backoff = 0 then 128 else min (2 * e.backoff) 16000 })) ∧
    (e.state = 2 → e.phase = 3 → e.nextAt ≤ s.time → exec (.pstRetry core slot i) s = .next (s.setJentry core slot i { e with phase := 0 })) ∧
    ∀ home r, (s.setJentry core slot i { e with state := 3, reason := r, phase := 0 }).residentHome e.lid e.vcore = some home →
      s.seatOf e.lid e.vcore ≠ none →
      let refused (op : Instr) : Prop := ∃ t, exec op s = .next t ∧ (t.jentry core slot i).state = 3 ∧ (t.jentry core slot i).reason = r ∧
        t.ctx (hartKey (home / 16) (home % 16)) = (s.ctx (hartKey (home / 16) (home % 16))).releaseSb e.sb ∧
        ∃ p ∈ (t.slot home).pending, p.cause = 0x10 ∧ p.tval = e.seq % 2 ^ 16 * 2 ^ 48 + r % 16 * 2 ^ 4 + i % 16
      (e.phase = 4 → r = e.verdict → refused (.pstAck core slot i)) ∧
      (∀ first, e.state = 2 → e.phase = 3 → e.firstAt = some first → first + 1000000 ≤ s.time → r = 3 → refused (.pstParkedTimeout core slot i))

/-- R109, R143, R170, R171, R290: QBIND binds a stream register to an arrival queue, which is bound to no other; QREL unbinds it; a stream operand takes the
oldest entry of its queue, and RECV pops one as a vector, where an entry that is consumed with an acquire finds room in the interval window (R259);
PFETCH has no architectural effect: that it installs no translation, which R170 lets it do, is the model's choice (log 19). -/
def Obligations.StreamRegisters : Prop :=
  ∀ (f : Fields) (s : State), acts s f →
    let room (b : Beat) : Prop := b.clock = [] ∨ (s.slotOf s.cur).interval + 1 ≤ (s.slotOf s.cur).hurdleInterval + 2 ^ 17
    does (.pfetch f) s id ∧
    (∀ q b, f.d = .q q → holdsB s f false b → b ≤ 7 → ∃ t, exec (.qbind f) s = .next t ∧
      (t.ctx s.cur).getQ q.toNat = ⟨true, BitVec.ofNat 3 b⟩ ∧
      (∀ r, r ≠ q.toNat → ((t.ctx s.cur).getQ r).bound = ((s.ctx s.cur).getQ r).bound && ((s.ctx s.cur).getQ r).queue.toNat != b) ∧
      (∃ u, s.Did t u ∧ ∀ c, u c = { c with q := (u c).q })) ∧
    (∀ q, f.d = .q q → does (.qrel f) s (fun c => c.setQ q.toNat { c.getQ q.toNat with bound := false })) ∧
    (∀ (q : BitVec 3) (beat : Beat) (rest : List Beat), f.a = .q q → ((s.ctx s.cur).getQ q.toNat).bound = true →
      let n := ((s.ctx s.cur).getQ q.toNat).queue.toNat
      Sparse.get [] (s.slotOf s.cur).arrivals n = beat :: rest → room beat →
      ∃ u, vecInA s f u beat.data ∧ Sparse.get [] (u.slotOf s.cur).arrivals n = rest ∧ u.mem = s.mem ∧
        ∀ k, u.ctx k = { s.ctx k with known := (u.ctx k).known }) ∧
    (∀ (d : BitVec 5) (b : Nat) (beat : Beat) (rest : List Beat), f.d = .v d → holdsB s f false b → b ≤ 7 → Sparse.get [] (s.slotOf s.cur).arrivals b = beat :: rest →
      room beat →
      ∃ t, exec (.recv f) s = .next t ∧ (t.ctx s.cur).getV d.toNat = beat.data ∧ Sparse.get [] (t.slotOf s.cur).arrivals b = rest)

/-! ### Translation and its notices (R179 to R195) -/

/-- R186, R187: TLOCK of pages that the TLB holds takes the lowest free lock record, answers its number, and locks the entries; one that is too much for the slot
or the core answers FULL; TUNLOCK frees a record in use; TPROBE reads the image that covers an address, or 0, and walks nothing. -/
def Obligations.TlbLocksAndProbe : Prop :=
  ∀ (f : Fields) (s : State) (n : BitVec 6), acts s f → f.a = .c n →
    let r := (s.ctx s.cur).getC n
    let c := r.cap
    let core := s.core (coreOf s.cur)
    let sl := s.slotOf s.cur
    let cursor := (c.base + c.off) % 2 ^ 56
    (∀ es, r.tag = true → c.perm.testBit 6 = false → c.perm.testBit 0 = true → c.space = 0 → c.off < c.len →
      tlbRegion core (fun _ => false) (c.base + c.len) 17 cursor [] false = (es, none, false) →
      let many := (es.foldl NatSet.insert sl.lockedEntries).length
      let all := (es.foldl NatSet.insert (s.coreLocked (coreOf s.cur))).length
      (∀ i < 8, (Sparse.get {} sl.locks i).used = false → (∀ j < i, (Sparse.get {} sl.locks j).used = true) → many ≤ 16 → all ≤ 96 →
        ∃ t, exec (.tlock f) s = .next t ∧
          (s.modSlot (s.slotKeyOf s.cur) (fun l => { l with locks := l.locks.put i { used := true, lo := cursor, hi := c.base + c.len, entries := es } })).GoesOn t s.cur
            (putC f.d (word (i * 2 ^ 8)) (s.ctx s.cur)).advance) ∧
      (16 < many ∨ 96 < all ∨ (∀ i < 8, (Sparse.get {} sl.locks i).used = true) → does (.tlock f) s (putC f.d (word 1)))) ∧
    (∀ b, holdsB s f false b →
      (b ≤ 7 → (Sparse.get {} sl.locks b).used = true → ∃ t, exec (.tunlock f) s = .next t ∧
        (s.modSlot (s.slotKeyOf s.cur) (fun l => { l with locks := l.locks.drop b })).GoesOn t s.cur (putC f.d (word 0) (s.ctx s.cur)).advance) ∧
      ((7 < b ∨ (Sparse.get {} sl.locks b).used = false) → does (.tunlock f) s (putC f.d (word 3)))) ∧
    (let va := if r.tag then cursor else r.val.toNat % 2 ^ 56
     does (.tprobe f) s (putC f.d ⟨false, match tlbFind core va with | some (_, img) => BitVec.ofNat 128 img | none => 0⟩))

/-- R184, R188, R189: TINV removes the entries of the targeted cores that cover an address, TINV.ALL every entry; a core that is not a service core
targets itself; it completes once no result of a REDC is still to be written through the core's translations. TFILL on a service core installs a well-formed image in the masked cores, so that each of its addresses is found there, serves the queued misses
that it spans, and answers 0, or 2 when none was queued; one with V = 0 leaves the pages that it overlaps without an entry there; a malformed image answers 1
and changes nothing else. -/
def Obligations.TlbInvalidateAndFill : Prop :=
  ∀ (f : Fields) (s : State) (n : BitVec 6), acts s f → f.a = .c n → isService (coreOf s.cur) = false →
    let r := (s.ctx s.cur).getC n
    let va := if r.tag then (r.cap.base + r.cap.off) % 2 ^ 56 else r.val.toNat % 2 ^ 56
    (s.resultsDue (coreOf s.cur) (fun _ => true) = false → (∃ t, exec (.tinv f) s = .next t ∧ (t.core (coreOf s.cur)).tlb = (s.core (coreOf s.cur)).tlb.filter (fun e => !imgCovers e.2.toNat va) ∧
      (∀ c, c ≠ coreOf s.cur → (t.core c).tlb = (s.core c).tlb) ∧ t.mem = s.mem) ∧
     (∃ t, exec (.tinvAll f) s = .next t ∧ (t.core (coreOf s.cur)).tlb = [] ∧ (∀ c, c ≠ coreOf s.cur → (t.core c).tlb = (s.core c).tlb) ∧ t.mem = s.mem)) ∧
    ∀ (k b : Nat), let s' : State := { s with cur := k }
      isService (coreOf k) = true → acts s' f → ((s'.ctx k).getC n).tag = false → holdsB s' f false b → f.md.getLsbD 0 = false →
      let img := ((s'.ctx k).getC n).val.toNat
      let fold := foldOf (coreOf k)
      (imgWellFormed img = true → imgValid img = true → ∃ t status, exec (.tfill f) s' = .next t ∧
        (b % 2 ^ 16 ≠ 0 → (status = 0 ∨ status = 2) ∧ (status = 0 ↔ ∃ e ∈ (s.fold fold).missQueue, imgSpans img e.key = true) ∧
          (t.fold fold).missQueue = (s.fold fold).missQueue.filter (fun e => !imgSpans img e.key)) ∧
        (∀ d, f.d = .c d → d ≠ 0 → b % 2 ^ 16 ≠ 0 → (t.ctx k).getC d = word status) ∧
        ∀ i < 16, b.testBit i = true → ∃ ix, (ix, BitVec.ofNat 128 img) ∈ (t.core (fold * 16 + i)).tlb) ∧
      (imgWellFormed img = true → imgValid img = false → b % 2 ^ 16 ≠ 0 → ∃ t, exec (.tfill f) s' = .next t ∧
        (t.fold fold).missQueue = (s.fold fold).missQueue.filter (fun e => !imgSpans img e.key) ∧
        ∀ i < 16, b.testBit i = true →
          (t.core (fold * 16 + i)).tlb = (s.core (fold * 16 + i)).tlb.filter (fun e => !imgOverlaps e.2.toNat img)) ∧
      (imgWellFormed img = false → b % 2 ^ 16 ≠ 0 → does (.tfill f) s' (putC f.d (word 1)))

/-- R183, R191, R195, R351: a TLB miss reports itself to the Fold's miss queue, where a report of the same page of 512 KiB only adds its core; a full queue is
tried again 1 µs later, and the report enters once there is room; a write that advances MQTAIL within the notices moves it; a fault-buffer entry is freed by its owner. The notice of a resolved or a failed translation
enters the inbox of the vcore that faulted. -/
def Obligations.TranslationEvents : Prop :=
  (∀ (core slot : Nat) (s : State) (m : Miss), let fold := foldOf core
    s.missOf core slot (fun x => x.tried.isNone) = some m → (s.fold fold).missQueue.length < 64 →
    (∀ e ∈ (s.fold fold).missQueue, e.key ≠ m.va / 2 ^ 19 * 2 ^ 19) →
    ∃ t, exec (.missReport core slot) s = .next t ∧
      (t.fold fold).missQueue = (s.fold fold).missQueue ++ [⟨m.va / 2 ^ 19 * 2 ^ 19, 2 ^ (core % 16)⟩] ∧ t.mem = s.mem ∧ t.ctxs = s.ctxs) ∧
  (∀ (core slot : Nat) (s : State) (m : Miss), let fold := foldOf core
    s.missOf core slot (fun x => match x.tried with | some t => decide (t + 1000 ≤ s.time) | none => false) = some m → (s.fold fold).missQueue.length = 64 →
    (∀ e ∈ (s.fold fold).missQueue, e.key ≠ m.va / 2 ^ 19 * 2 ^ 19) →
    ∃ t, exec (.missReportRepeat core slot) s = .next t ∧ (t.fold fold).missQueue = (s.fold fold).missQueue ∧
      { m with tried := some s.time } ∈ (t.core core).misses) ∧
  (∀ (core slot : Nat) (s : State) (m : Miss), let fold := foldOf core
    s.missOf core slot (fun x => match x.tried with | some t => decide (t + 1000 ≤ s.time) | none => false) = some m → (s.fold fold).missQueue.length < 64 →
    (∀ e ∈ (s.fold fold).missQueue, e.key ≠ m.va / 2 ^ 19 * 2 ^ 19) →
    ∃ t, exec (.missReportRepeat core slot) s = .next t ∧
      (t.fold fold).missQueue = (s.fold fold).missQueue ++ [⟨m.va / 2 ^ 19 * 2 ^ 19, 2 ^ (core % 16)⟩] ∧ t.mem = s.mem ∧ t.ctxs = s.ctxs) ∧
  (∀ (fold i key : Nat) (failed : Bool) (s : State), let e := Sparse.get {} (s.fold fold).faults i
    e.used = true → e.kind = 1 → e.noticed = false → s.faulterSlot e = some key → (s.slot key).ended = false → (s.slot key).inboxRoom = true →
    ∃ t, exec (.translationNotice fold i failed) s = .next t ∧ (Sparse.get {} (t.fold fold).faults i).noticed = true ∧
      ∃ x ∈ (t.slot key).inbox ++ (t.slot key).held.map (·.entry), x.val = inboxEntry i 0x08 (if failed then 1 else 0) 0 e.va) ∧
  (∀ (fold page core : Nat) (s : State), let p := s.paddockOfFold fold
    (maskCores fold 0xFFFF).find? (fun c => decide (64 ≤ Sparse.get 0 (s.core c).pageCounts page)) = some core →
    ∃ t, exec (.migrationCountReport fold page) s = .next t ∧
      (s.pageReg p 0x288 % 2 ^ 32 ≠ 0 → (Sparse.get {} (s.fold fold).pages page).count + 64 < s.pageReg p 0x288 % 2 ^ 32 →
        (Sparse.get {} (t.fold fold).pages page).count = (Sparse.get {} (s.fold fold).pages page).count + 64) ∧
      (s.pageReg p 0x288 % 2 ^ 32 = 0 → Sparse.get 0 (t.core core).pageCounts page = Sparse.get 0 (s.core core).pageCounts page - 64) ∧
      (s.pageReg p 0x288 % 2 ^ 32 ≠ 0 → s.pageReg p 0x288 % 2 ^ 32 ≤ (Sparse.get {} (s.fold fold).pages page).count + 64 →
        (Sparse.get {} (s.fold fold).pages page).queued = false → (s.pageReg p 0x270 + 2 ^ 32 - s.pageReg p 0x278) % 2 ^ 32 ≠ 1024 →
        t.pageReg p 0x270 = (s.pageReg p 0x270 + 1) % 2 ^ 32 ∧ (Sparse.get {} (t.fold fold).pages page).queued = true)) ∧
  (∀ (j : Nat) (value : Word64) (s : State), s.serving = true → j < s.paddocks →
    tailOk (s.pageReg j 0x270) (s.pageReg j 0x278) (value.toNat % 2 ^ 32) = true →
    ∃ t, exec (.mqtailWrite j value) s = .next t ∧ t.pageReg j 0x278 = value.toNat % 2 ^ 32 ∧ t.mem = s.mem ∧ t.pageReg j 0x270 = s.pageReg j 0x270) ∧
  ∀ (core slot : Nat) (value : Word64) (s : State), let i := value.toNat % 256
    let e := Sparse.get {} (s.fold (foldOf core)).faults i
    e.used = true → e.core = core → e.slot = slot → e.lid = (s.slot (slotKey core slot)).lid → e.vcore = (s.slot (slotKey core slot)).vcore →
    ∃ t, exec (.fbfree core slot value) s = .next t ∧ (Sparse.get {} (t.fold (foldOf core)).faults i).used = false ∧
      (∀ j, j ≠ i → Sparse.get {} (t.fold (foldOf core)).faults j = Sparse.get {} (s.fold (foldOf core)).faults j) ∧ t.mem = s.mem ∧ t.ctxs = s.ctxs

/-! ### Synchronisation (R236 to R250, R405) -/

namespace Sys2Proof.Claims

/-- What a synchronising load or atomic of `n` bytes at A asks of memory, and what it waits for is not there: the determinism checks admit it (R244, R258, R259). -/
def syncAt (s : State) (op n : Nat) (f : Fields) (ld st cp : Bool) (u : State) (l : Loc) : Prop :=
  memAccess s s.cur (syncReq op (if ld then 2 else 1) (if ld then f.a else f.d) n ld st cp) (s.capOpnd (if ld then f.a else f.d)) (ordOff f) false false = .ok (u, l) ∧
    (u.noteAccess s.cur l (if ld && st then 2 else if st then 1 else 0)).poisoned l n = false

/-- R258, R259: no determinism check refuses an instruction that counts `n` releases and acquires. -/
def freeToSync (s : State) (f : Fields) (n : Nat) : Prop :=
  ((s.ctx s.cur).detlvl = 0 ∨ f.md.toNat / 8 % 8 = 0) ∧ (s.slotOf s.cur).interval + n ≤ (s.slotOf s.cur).hurdleInterval + 2 ^ 17

end Sys2Proof.Claims

/-- R242, R245, R248 to R250: LDA returns the value and acquires what the releases at its place published, each counted as one more interval of the vcore; STL writes the value,
after every earlier posted store of its context has retired, and leaves a release at the place; FENCE waits in the same way and counts its acquire and its release; WAITM
returns once the value differs from B, and stays while it is equal. A poll issues the waiting instruction again. -/
def Obligations.AcquireAndRelease : Prop :=
  (∀ (f : Fields) (s u : State) (l : Loc), acts s f → f.ty < 10 → freeToSync s f 1 →
    let n := tyWidth f.ty / 8
    (syncAt s 0x240 n f true false false u l → ∃ t, exec (.lda f) s = .next t ∧
      (∀ m, f.d = .c m → m ≠ 0 → (t.ctx s.cur).getC m = reg f.ty (le s l.key n)) ∧
      (t.slotOf s.cur).interval = (s.slotOf s.cur).interval + 1 ∧ (∀ a, t.byte a = (u.noteAccess s.cur l 0).byte a) ∧
      ∀ r ∈ s.syncs, overlaps r.addr r.size l.key n = true → r.counted = false → coversGlobal r.storage = true → coversGlobal (f.md.toNat % 8) = true →
        s.inScope r.agent r.core r.slot (coreOf s.cur) (s.slotNo s.cur) = true →
        s.inScope (f.md.toNat / 8 % 8) (coreOf s.cur) (s.slotNo s.cur) r.core r.slot = true →
        ∀ e ∈ r.clock, e.2 ≤ Sparse.get 0 (t.known s.cur).clock e.1) ∧
    (∀ x, holds s f.a x → syncAt s 0x241 n f false true false u l → (isDrain s.cur = true ∨ s.pstOutstanding s.cur = false) →
      ∃ t, exec (.stl f) s = .next t ∧ stored (u.noteAccess s.cur l 1) t l.key n x ∧ (t.slotOf s.cur).interval = (s.slotOf s.cur).interval + 1 ∧
        ∃ r ∈ t.syncs, r.addr = l.key ∧ r.size = n ∧ r.core = coreOf s.cur ∧ r.agent = f.md.toNat / 8 % 8 ∧ r.storage = f.md.toNat % 8 ∧
          ((s.ctx s.cur).stream = none → Sparse.get 0 r.clock (clockKey (s.slotOf s.cur).lid (s.slotOf s.cur).vcore) = s.turn + 1)) ∧
    (∀ x, f.ty < 8 → holds s f.b x → syncAt s 0x246 n f true false false u l →
      (le s l.key n ≠ x % 2 ^ tyWidth f.ty → ∃ t, exec (.waitm f) s = .next t ∧
        (∀ m, f.d = .c m → m ≠ 0 → (t.ctx s.cur).getC m = reg f.ty (le s l.key n)) ∧ (t.slotOf s.cur).interval = (s.slotOf s.cur).interval + 1) ∧
      (le s l.key n = x % 2 ^ tyWidth f.ty → s.poisoned l n = false → ∃ t, exec (.waitm f) s = .next t ∧ (t.ctx s.cur).pc = (s.ctx s.cur).pc ∧
        (t.ctx s.cur).blocked = some s.epoch ∧ t.mem = s.mem))) ∧
  (∀ (f : Fields) (s : State), acts s f → let n := (if f.imm.getLsbD 20 then 1 else 0) + (if f.imm.getLsbD 21 then 1 else 0)
    freeToSync s f n → (f.imm.getLsbD 21 = false ∨ isDrain s.cur = true ∨ s.pstOutstanding s.cur = false) →
    ∃ t, exec (.fence f) s = .next t ∧ (t.slotOf s.cur).interval = (s.slotOf s.cur).interval + n ∧ t.mem = s.mem ∧
      (t.ctx s.cur).pc = (s.ctx s.cur).advance.pc) ∧
  ∀ (core slot : Nat) (s : State) (f : Fields), let k := hartKey core slot
    s.takesPending k = false →
    (s.waitingAt k = some (.waitm f) → exec (.waitmPoll core slot) s = .next { s with cur := k, latch := some (.waitm f) }) ∧
    (s.waitingAt k = some (.cwait f) → exec (.cwaitPoll core slot) s = .next { s with cur := k, latch := some (.cwait f) }) ∧
    (s.mayIssue k = true → (s.ctx k).blocked.isSome = true → s.nextInstr k = .ok (.lda f) → (({ s with cur := k } : State).capOpnd f.a).cap.space = 5 →
      (s.ctx k).hintsMet f.hint = true → exec (.remoteAccessArrival core slot) s = .next { s with cur := k, latch := some (.lda f) })

/-- R246, R247: AMO returns the old value and writes the operation's result over it; CAS compares n bits of D with memory and writes B where they are equal, CASW 128 bits and the tag;
each returns the old value, and one that does not write leaves memory as it was. -/
def Obligations.Atomics : Prop :=
  (∀ (f : Fields) (s u : State) (l : Loc) (b : Nat), acts s f → f.ty < 9 → freeToSync s f (syncCount f) → holds s f.b b →
    (f.imm.getLsbD 21 = false ∨ isDrain s.cur = true ∨ s.pstOutstanding s.cur = false) →
    let w := tyWidth f.ty
    syncAt s 0x242 (w / 8) f true true false u l →
    let m := BitVec.ofNat w (le s l.key (w / 8))
    let x := BitVec.ofNat w b
    let new : BitVec w × Nat := match f.imm.toNat / 2 ^ 16 % 16 with
      | 0 => (m + x, 0) | 1 => (m &&& x, 0) | 2 => (m ||| x, 0) | 3 => (m ^^^ x, 0)
      | 4 => (if m.sle x then m else x, 0) | 5 => (if x.sle m then m else x, 0)
      | 6 => (if m ≤ x then m else x, 0) | 7 => (if x ≤ m then m else x, 0) | 8 => (x, 0)
      | _ => (BitVec.ofNat w (fAdd 23 0 m.toNat x.toNat).1, (fAdd 23 0 m.toNat x.toNat).2)
    ∃ t, exec (.amo f) s = .next t ∧ stored (u.noteAccess s.cur l 2) t l.key (w / 8) new.1.toNat ∧
      (∀ d, f.d = .c d → d ≠ 0 → (t.ctx s.cur).getC d = reg f.ty m.toNat) ∧ (t.ctx s.cur).status = (addFlags new.2 (s.ctx s.cur)).status) ∧
  (∀ (f : Fields) (s u : State) (l : Loc) (d b : Nat), acts s f → f.ty < 8 → freeToSync s f (syncCount f) → holds s f.d d → holds s f.b b →
    (f.imm.getLsbD 21 = false ∨ isDrain s.cur = true ∨ s.pstOutstanding s.cur = false) →
    let w := tyWidth f.ty
    let hit (x : Loc) : Bool := s.read x.key (w / 8) == d % 2 ^ w
    memAccessIf s s.cur (syncReq 0x243 2 f.a (w / 8) true true false) (s.capOpnd f.a) (ordOff f) false false hit = .ok (u, l) →
    let v := u.noteAccess s.cur l 2
    v.poisoned l (w / 8) = false →
    ∃ t, exec (.cas f) s = .next t ∧ (∀ r, f.d = .c r → r ≠ 0 → (t.ctx s.cur).getC r = reg f.ty (le s l.key (w / 8))) ∧
      (if le s l.key (w / 8) = d % 2 ^ w then stored v t l.key (w / 8) b else ∀ a, t.byte a = v.byte a)) ∧
  ∀ (f : Fields) (s u : State) (l : Loc) (d b : BitVec 6), acts s f → f.d = .c d → f.b = .c b → freeToSync s f (syncCount f) →
    (f.imm.getLsbD 21 = false ∨ isDrain s.cur = true ∨ s.pstOutstanding s.cur = false) →
    let old (x : Loc) : CReg := ⟨x.tags && s.tagAt x.key, BitVec.ofNat 128 (le s x.key 16)⟩
    let new := (s.ctx s.cur).getC b
    memAccessIf s s.cur { syncReq 0x244 2 f.a 16 true true true with noW := !new.tag } (s.capOpnd f.a) (ordOff f) new.tag (new.cap.perm.testBit 4)
      (fun x => old x == (s.ctx s.cur).getC d) = .ok (u, l) →
    let v := u.noteAccess s.cur l 2
    v.poisoned l 16 = false → l.key % 16 = 0 →
    ∃ t, exec (.casw f) s = .next t ∧ (d ≠ 0 → (t.ctx s.cur).getC d = old l) ∧
      (if old l = (s.ctx s.cur).getC d then stored v t l.key 16 new.val.toNat ∧ t.tagAt l.key = new.tag else ∀ a, t.byte a = v.byte a)

/-! ### Hurdles, counted waits and the relaxation cycle (R261 to R283, R404) -/

namespace Sys2Proof.Claims

/-- The instruction in hand waits: it stands where it stood, met in the epoch that it was met in, and memory is as before (R75). -/
def waits (s t : State) : Prop :=
  (t.ctx s.cur).pc = (s.ctx s.cur).pc ∧ (t.ctx s.cur).blocked = some s.epoch ∧ t.mem = s.mem

/-- A collective may arrive: none is pending, the interval window admits its release and its acquire, and no posted store of the context is
outstanding (R250, R259, R262). -/
def mayArrive (s : State) : Prop :=
  (s.slotOf s.cur).coll = none ∧ (s.slotOf s.cur).interval + 2 ≤ (s.slotOf s.cur).hurdleInterval + 2 ^ 17 ∧
    (isDrain s.cur = true ∨ s.pstOutstanding s.cur = false) ∧
    s.seatOf (s.slotOf s.cur).lid (s.slotOf s.cur).vcore = some (s.slotKeyOf s.cur)

/-- A vcore of launch `lid` is a participant of the open context (R267). -/
def participant (c : Cycle) (lid v : Nat) : Prop :=
  (c.phase = 2 ∨ c.phase = 3) ∧ c.lid = lid ∧ cyVfirst c.desc ≤ v ∧ v ≤ cyVfirst c.desc + cyVcm1 c.desc

/-- The cycle context that an instruction names, and the paddock of the context in hand (R260). -/
def pad (s : State) : Nat := s.paddockOf (coreOf s.cur)
def named (s : State) (f : Fields) : Cycle := s.cycle (pad s) (f.md.toNat % 8)

end Sys2Proof.Claims

/-- R261, R262: HURDLE at level 0 departs at issue. A HURDLE whose items have all arrived or ended departs; one that some item has not reached
waits with its arrival standing. A HURDLE whose answer stands departs without arriving again, and acquires what it names; while it is not answered it waits,
and while another collective of the slot is pending, which is the model's choice (log 41). -/
def Obligations.Hurdles : Prop :=
  ∀ (f : Fields) (s : State), acts s f →
    let k := s.cur
    let sl := s.slotOf k
    let g := s.gang sl.lid
    let j := f.imm.toNat % 8
    (mayArrive s → j = 0 → ∃ t, exec (.hurdle f) s = .next t ∧ (t.slotOf k).interval = sl.interval + 2 ∧ t.mem = s.mem ∧
      Sparse.get 0 (t.slotOf k).hurdles 0 = Sparse.get 0 sl.hurdles 0 + 1 ∧ (t.ctx k).pc = (s.ctx k).advance.pc ∧
      (g.span = 0 → (t.slotOf k).hurdleInterval = sl.interval + 2)) ∧
    (mayArrive s → j ≠ 0 → j ≤ g.span → g.hurdles = [] → sl.vcore < g.vcores →
      let joins (w : Nat) : Prop := w < g.vcores ∧ w ≠ sl.vcore ∧ w / (g.extents.take j).prod = sl.vcore / (g.extents.take j).prod
      ((∀ w, joins w → w ∈ g.retired ∨ (s.vcoreSlot sl.lid w).ended = true) →
        ∃ t, exec (.hurdle f) s = .next t ∧ (t.slotOf k).coll = none ∧ (t.slotOf k).interval = sl.interval + 2 ∧ t.mem = s.mem ∧
          Sparse.get 0 (t.slotOf k).hurdles j = Sparse.get 0 sl.hurdles j + 1 ∧ (t.ctx k).pc = (s.ctx k).advance.pc ∧ (t.gang sl.lid).hurdles = []) ∧
      ((∃ w, joins w ∧ w ∉ g.retired ∧ (s.vcoreSlot sl.lid w).ended = false ∧
          (s.vcoreSlot sl.lid w).wid.toNat / 2 ^ (g.widths.take g.span).sum ≤ sl.wid.toNat / 2 ^ (g.widths.take g.span).sum) →
        ∃ t, exec (.hurdle f) s = .next t ∧ waits s t ∧ (t.slotOf k).interval = sl.interval + 1 ∧
          (t.slotOf k).coll = some { op := 1, which := j, instanceNo := Sparse.get 0 sl.hurdles j } ∧
          ∃ h ∈ (t.gang sl.lid).hurdles, h.level = j ∧ h.key = sl.wid.toNat / 2 ^ (g.widths.take j).sum ∧
            h.number = Sparse.get 0 sl.hurdles j ∧ h.arrived = [sl.vcore])) ∧
    (∀ c, sl.coll = some c →
      ((c.answer = none ∨ c.op ≠ 1 ∨ c.which ≠ j) → ∃ t, exec (.hurdle f) s = .next t ∧ waits s t ∧ t.slots = s.slots ∧ t.gangs = s.gangs) ∧
      (∀ a, c.answer = some a → c.op = 1 → c.which = j → c.check = none → ∃ t, exec (.hurdle f) s = .next t ∧ (t.slotOf k).coll = none ∧ (t.slotOf k).interval = sl.interval + 1 ∧
        t.mem = s.mem ∧ t.gangs = s.gangs ∧ (t.ctx k).pc = (s.ctx k).advance.pc ∧ ∀ e ∈ c.clock, e.2 ≤ Sparse.get 0 (t.known k).clock e.1))

/-- R263 to R266: ARRIVE adds B, ARRIVE.ONE 1, to the counter of 64 bits, and leaves a release of PADDOCK scope over ALL storage; CWAIT waits
while the counter is below B, and then writes the value that it read; CWAIT.SB waits while its scoreboard counter is above the limit. -/
def Obligations.CountedWaits : Prop :=
  ∀ (f : Fields) (s u : State) (l : Loc) (b : Nat), acts s f →
    let k := s.cur
    let sl := s.slotOf k
    (∀ op, (op = .arrive f ∧ holds s f.b b) ∨ (op = .arriveOne f ∧ b = 1) → sl.interval + 1 ≤ sl.hurdleInterval + 2 ^ 17 →
      (isDrain k = true ∨ s.pstOutstanding k = false) →
      access s { syncReq 0x281 1 f.d 8 true true false with al := 8 } f.d (offs f) false false u l → (u.noteAccess k l 2).poisoned l 8 = false →
      ∃ t, exec op s = .next t ∧ stored (u.noteAccess k l 2) t l.key 8 (le s l.key 8 + b) ∧ (t.slotOf k).interval = sl.interval + 1 ∧
        (t.ctx k).pc = (s.ctx k).advance.pc ∧
        ∃ r ∈ t.syncs, r.addr = l.key ∧ r.size = 8 ∧ r.agent = 3 ∧ r.storage = 4 ∧ r.core = coreOf k ∧ r.arrive = true ∧ r.counted = false ∧
          ((s.ctx k).stream = none → Sparse.get 0 r.clock (clockKey sl.lid sl.vcore) = s.turn + 1)) ∧
    (holds s f.b b → sl.interval + 1 ≤ sl.hurdleInterval + 2 ^ 17 → access s (syncReq 0x282 2 f.a 8 true false false) f.a (offs f) false false u l →
      (b ≤ le s l.key 8 → (u.noteAccess k l 0).poisoned l 8 = false → ∃ t, exec (.cwait f) s = .next t ∧ (∀ a, t.byte a = (u.noteAccess k l 0).byte a) ∧
        (∀ m, f.d = .c m → m ≠ 0 → (t.ctx k).getC m = word (le s l.key 8)) ∧ (t.slotOf k).interval = sl.interval + 1) ∧
      (le s l.key 8 < b → s.poisoned l 8 = false → ∃ t, exec (.cwait f) s = .next t ∧ waits s t)) ∧
    ((s.ctx k).getSb (f.md.toNat % 8) ≤ f.imm.toNat → does (.cwaitSb f) s id) ∧
    (f.imm.toNat < (s.ctx k).getSb (f.md.toNat % 8) → ∃ t, exec (.cwaitSb f) s = .next t ∧ waits s t)

/-- R267 to R271: CYOPEN answers CY_BUSY, CY_PART and CY_FORM at once, in that order, without an arrival; the last participant of a well-formed descriptor that
locks nothing and copies nothing opens the context with PBANK 0, ITER 0 and RESID +0; one that is not the last arrives and waits.
R277, R278: CYSTAT writes the word of the context; CYCLOSE of a free context answers CY_FREE, of a forward context that an open backward one names CY_BUSY, and
the last arrival ends the cycle, records it and frees the context. -/
def Obligations.CycleContexts : Prop :=
  ∀ (f : Fields) (s : State), acts s f →
    let k := s.cur
    let sl := s.slotOf k
    let c := named s f
    let cy := f.md.toNat % 8
    (∀ (u : State) (l : Loc), mayArrive s →
      access s { op := 0x290, field := 2, opnd := f.a, n := 64, al := 64, ld := true, st := false, spaces := [0, 1] } f.a (offs f) false false u l →
      (u.noteAccess k l 0).poisoned l 64 = false →
      let d := BitVec.ofNat 512 (le s l.key 64)
      let answers (a : Nat) : Prop := ∃ t, exec (.cyopen f) s = .next t ∧ (t.ctx k).pc = (s.ctx k).advance.pc ∧ t.cycles = s.cycles ∧
        ∀ m, f.d = .c m → m ≠ 0 → (t.ctx k).getC m = word a
      let inParts : Prop := cyVfirst d ≤ sl.vcore ∧ sl.vcore ≤ cyVfirst d + cyVcm1 d
      ((c.phase = 2 ∨ c.phase = 3) → answers 1) ∧
      (c.phase = 0 → ¬inParts → answers 8) ∧
      (c.phase = 0 → inParts → (cyLimit d = 0 ∨ (s.gang sl.lid).vcores ≤ cyVfirst d + cyVcm1 d) → answers 2) ∧
      ((∃ prev, c = { prev := prev }) → inParts → (s.gang sl.lid).vcores > cyVfirst d + cyVcm1 d → (s.gang sl.lid).retired = [] → 1 ≤ cyLimit d →
        fld (dw d 0) 60 4 = 0 → fld (dw d 0) 24 12 = 0 → fld (dw d 0) 0 8 = 0 → cyTol d < 0x7F800000 → cyDivf d = 0 → dw d 2 = 0 → dw d 3 = 0 → dw d 4 = 0 →
        dw d 5 = 0 → dw d 6 = 0 → dw d 7 = 0 → (s.heldLocks (pad s)).length ≤ 1024 →
        (cyVcm1 d = 0 → ∃ t, exec (.cyopen f) s = .next t ∧ (t.ctx k).pc = (s.ctx k).advance.pc ∧ (t.slotOf k).coll = none ∧
          (∀ m, f.d = .c m → m ≠ 0 → (t.ctx k).getC m = word 0) ∧
          (let o := named t f
           o.phase = 2 ∧ o.desc = d ∧ o.lid = sl.lid ∧ o.pbank = 0 ∧ o.iter = 0 ∧ o.resid = 0 ∧ o.status = 0 ∧ o.locks = [] ∧ o.partials = [])) ∧
        (cyVcm1 d ≠ 0 → ∃ t, exec (.cyopen f) s = .next t ∧ (t.ctx k).pc = (s.ctx k).pc ∧ (named t f).phase = 1 ∧ (named t f).arrived = [sl.vcore] ∧
          (t.slotOf k).coll = some { op := 2, which := cy, instanceNo := 0 }))) ∧
    (let w := if c.phase = 2 ∨ c.phase = 3 then
        c.resid.toNat * 2 ^ 32 + c.iter % 256 * 2 ^ 24 + cyFwd c.desc * 2 ^ 17 + (if cyDir c.desc then 2 ^ 16 else 0) +
          (if c.phase = 3 ∧ c.published = false then 2 ^ 9 else 0) + c.pbank % 2 * 2 ^ 8 + c.status % 8
      else 8
     does (.cystat f) s (putC f.d (word w))) ∧
    ((s.slotOf k).coll = none → c.phase = 0 → does (.cyclose f) s (putC f.d (word 10))) ∧
    ((s.slotOf k).coll = none → participant c sl.lid sl.vcore →
      (∃ i < 8, ((s.cycle (pad s) i).phase = 2 ∨ (s.cycle (pad s) i).phase = 3) ∧ cyDir (s.cycle (pad s) i).desc = true ∧
        cyFwd (s.cycle (pad s) i).desc = cy) → does (.cyclose f) s (putC f.d (word 1))) ∧
    (mayArrive s → participant c sl.lid sl.vcore → (∀ i < 8, cyDir (s.cycle (pad s) i).desc = false) →
      (∀ v, cyVfirst c.desc ≤ v → v ≤ cyVfirst c.desc + cyVcm1 c.desc → v = sl.vcore ∨ v ∈ c.closing ∨ v ∈ c.gone) →
      ∃ t, exec (.cyclose f) s = .next t ∧ (t.ctx k).pc = (s.ctx k).advance.pc ∧ (∀ m, f.d = .c m → m ≠ 0 → (t.ctx k).getC m = word 0) ∧
        (t.slotOf k).coll = none ∧
        named t f = { prev := some { lid := c.lid, vfirst := cyVfirst c.desc, vcm1 := cyVcm1 c.desc, smask := cySmask c.desc, bank := c.pbank,
                                     entries := c.entries } })

/-- R273: CYRES adds the partial in FP32, with its flags, and changes nothing once the context has ended. R274: the last participant's CYSTEP sums the partials in
ascending order of vcores, counts the iteration, decides in the order of the rule, and publishes the iteration unless it is not finite or diverges; D is all ones
where the cycle goes on. R267: each raises PERM for another issuer; the model leaves TVAL free there. R276: at a hard deadline the cycle ends with DEADLINE and its
bank stays; the participants resume at EXIT of the text with their registers. -/
def Obligations.CycleSteps : Prop :=
  (∀ (f : Fields) (s : State), acts s f →
    let k := s.cur
    let sl := s.slotOf k
    let c := named s f
    let parts := (List.range (cyVcm1 c.desc + 1)).map (fun i => (Sparse.get 0 c.partials (cyVfirst c.desc + i)).toNat)
    (∀ a, holds s f.a a → participant c sl.lid sl.vcore →
      (c.phase = 3 → does (.cyres f) s id) ∧
      (c.phase = 2 → let r := fAdd 23 0 (Sparse.get 0 c.partials sl.vcore).toNat (a % 2 ^ 32)
        ∃ t, exec (.cyres f) s = .next t ∧ (t.ctx k).pc = (s.ctx k).advance.pc ∧ t.mem = s.mem ∧ (t.ctx k).status = (addFlags r.2 (s.ctx k)).status ∧
          named t f = { c with partials := c.partials.put sl.vcore (BitVec.ofNat 32 r.1) })) ∧
    (∀ a, holds s f.a a → ¬participant c sl.lid sl.vcore → s.entersTraps → ∃ v, traps (.cyres f) s 0x07 v) ∧
    (sl.coll = none → ¬participant c sl.lid sl.vcore → s.entersTraps → ∃ v, traps (.cystep f) s 0x07 v) ∧
    (sl.coll = none → participant c sl.lid sl.vcore → c.phase = 3 → does (.cystep f) s (putG f.d 0)) ∧
    (mayArrive s → participant c sl.lid sl.vcore → c.phase = 2 →
      (∀ v, cyVfirst c.desc ≤ v → v ≤ cyVfirst c.desc + cyVcm1 c.desc → v = sl.vcore ∨ v ∈ c.arrived) →
      let r := seqSumF32 parts
      let iter := c.iter + 1
      let st := if (∃ x ∈ r :: parts, x / 2 ^ 23 % 256 = 255) then 5
        else if (fCompare 23 3 r (cyTol c.desc)).1 = true then 1
        else if cyDivf c.desc ≠ 0 ∧ 2 ≤ iter ∧ exceedsTimes r (cyDivf c.desc) c.resid.toNat = true then 4
        else if iter = cyLimit c.desc then 2
        else if cyDeadline c.desc ≠ 0 ∧ cyDeadline c.desc ≤ s.time then 3 else 0
      ∃ t, exec (.cystep f) s = .next t ∧ (t.ctx k).pc = (s.ctx k).advance.pc ∧ (t.slotOf k).coll = none ∧ t.mem = s.mem ∧
        (∀ m, f.d = .g m → m ≠ 0 → (t.ctx k).getG m = if st = 0 then BitVec.allOnes 64 else 0) ∧
        (let o := named t f
         o.status = st ∧ o.phase = (if st = 0 then 2 else 3) ∧ o.resid = BitVec.ofNat 32 r ∧ o.iter = iter ∧ o.partials = [] ∧ o.desc = c.desc ∧
           o.pbank = (if st = 4 ∨ st = 5 then c.pbank else 1 - c.pbank) ∧ o.locks = c.locks)) ∧
    (mayArrive s → participant c sl.lid sl.vcore → c.phase = 2 →
      (∃ v, cyVfirst c.desc ≤ v ∧ v ≤ cyVfirst c.desc + cyVcm1 c.desc ∧ v ≠ sl.vcore ∧ v ∉ c.arrived) →
      ∃ t, exec (.cystep f) s = .next t ∧ waits s t ∧ (named t f).arrived = c.arrived ++ [sl.vcore] ∧ (named t f).phase = 2 ∧
        (t.slotOf k).coll = some { op := 3, which := f.md.toNat % 8, instanceNo := 0 })) ∧
  ∀ (p cy : Nat) (s : State), let c := s.cycle p cy
    c.phase = 2 → cyHard c.desc = true → 0 < cyDeadline c.desc → cyDeadline c.desc ≤ s.time →
    ∃ t, exec (.cycleHardDeadline p cy) s = .next t ∧ (t.cycle p cy).phase = 3 ∧ (t.cycle p cy).status = 3 ∧ (t.cycle p cy).pbank = c.pbank ∧
      ∀ v key, cyVcm1 c.desc = 0 → v = cyVfirst c.desc → v ∉ (s.gang c.lid).retired → s.seatOf c.lid v = some key →
        (s.slot key).live = true → (s.slot key).resident = true → (s.ctx (hartOfSlot key)).frozen = false →
        (∀ x ∈ (s.drover p).exchanges, x.lid ≠ c.lid) →
        (t.ctx (hartOfSlot key)).pc = BitVec.ofNat 56 ((s.gang c.lid).prog.text + 12 * cyExit c.desc) ∧
        (t.ctx (hartOfSlot key)).c = (s.ctx (hartOfSlot key)).c ∧ (t.slot key).coll = none

/-! ### Engines, FORK and the inbox (R197 to R214, R231 to R233) -/

namespace Sys2Proof.Claims

/-- The command `c` at the head of the queue may start: the engine is idle, holds no entry, is not frozen, and no older range overlaps (R163, R212). -/
def atHead (s : State) (core : Nat) (e : Engine) (c : Cmd) (q : List QItem) : Prop :=
  let x := s.engine core e
  x.frozen = false ∧ x.run = none ∧ x.done = [] ∧ x.queue = .cmd c :: q ∧ c.status = 0 ∧ (s.core core).rangesClear c.id e = true ∧
    s.halting (slotKey c.issuer c.slot) = false

/-- The fields of a command's first doubleword (R198). -/
def kindOf (c : Cmd) : Nat := c.record.toNat % 256
def tagOf (c : Cmd) : Nat := c.record.toNat / 2 ^ 16 % 2 ^ 16
def noCmp (c : Cmd) : Bool := c.record.getLsbD 8

/-- A completion entry (R212): the tag, the class of the engine (1 matrix, 2 copy, 3 quantisation), the status, the count and the detail. -/
def entryOf (c : Cmd) (cls status count detail : Nat) : BitVec 128 :=
  BitVec.ofNat 128 (tagOf c + cls * 2 ^ 16 + status * 2 ^ 24 + count % 2 ^ 32 * 2 ^ 32 + detail % 2 ^ 64 * 2 ^ 64)

/-- The engine has ended the command, which was alone in hand: its entry waits, unless the command succeeded and asks for none; an error goes with ENGINE_FAULT (R200, R214). -/
def ended (t : State) (core : Nat) (e : Engine) (c : Cmd) (cls status count detail : Nat) : Prop :=
  (t.engine core e).run = none ∧
    (if status < 16 ∧ noCmp c = true then (t.engine core e).done = []
     else ∃ d, (t.engine core e).done = [d] ∧ d.cmd = c ∧ d.entry = entryOf c cls status count detail ∧ (d.cause = 0x0F ↔ 16 ≤ status ∧ status ≠ 0x19))

/-- A range that an engine of the core reads or writes lies in one of its buffers, whose place is `base`, and holds no uncorrectable error (R157, R160). -/
def buffer (s : State) (core space a n : Nat) : Prop :=
  1 ≤ space ∧ space ≤ 4 ∧ a + n ≤ (match space with | 2 => 768 * 1024 | 3 => 1024 * 1024 | _ => 256 * 1024) ∧
    ∀ w ∈ s.poison, ¬(w * 8 < placeKey space core a + n ∧ placeKey space core a < w * 8 + 8)

end Sys2Proof.Claims

/-- R210, R211, R213: FORK answers FORM, BUSY or OK, and on OK joins each named list to the queue of its engine behind the commands that are there; RDV waits while a
list is active or a command of one is still to run, and then writes and clears the mask of abandoned lists and acquires what their commands wrote; INRECV takes the oldest entry, with what it hands over, or 0, and both find room in the interval window (R259); INPEEK reads one; INWAIT ends with an entry, with b = 0, or when its
time has passed, and its guard says whether an entry is there. -/
def Obligations.ForkAndInbox : Prop :=
  (∀ (f : Fields) (s : State), acts s f →
    let k := s.cur
    let sl := s.slotOf k
    let core := coreOf k
    let box := sl.inbox.map (·.val)
    (∀ (u : State) (l : Loc), access s { op := 0x300, field := 2, opnd := f.a, n := 32, al := 32, ld := true, st := false, spaces := [0, 1] } f.a (offs f) false false u l →
      (u.noteAccess k l 0).poisoned l 32 = false →
      let b := le (u.noteAccess k l 0) l.key 32
      let d (i : Nat) : Nat := b / 2 ^ (64 * i) % 2 ^ 64
      let names (i : Nat) : Prop := (d i).testBit 63 = true
      let bad : Prop := d 3 ≠ 0 ∨ (∃ i < 3, d i / 2 ^ 40 % 2 ^ 23 ≠ 0 ∨ d i % 64 ≠ 0) ∨ ∀ i < 3, ¬names i
      let busy : Prop := ∃ i < 3, names i ∧ (Sparse.get {} sl.forks i).active = true
      let answers (t : State) (a : Nat) : Prop := exec (.fork f) s = .next t ∧ (t.ctx k).pc = (s.ctx k).advance.pc ∧
        ∀ m, f.d = .c m → m ≠ 0 → (t.ctx k).getC m = word a
      (bad → ∃ t, answers t 1 ∧ t.slots = s.slots) ∧ (¬bad → busy → ∃ t, answers t 2 ∧ t.slots = s.slots) ∧
      (¬bad → ¬busy → ∃ t, answers t 0 ∧ ∀ p ∈ [((0 : Nat), Engine.copy), (1, .matrix), (2, .quant)],
        (names p.1 → Sparse.get {} (t.slotOf k).forks p.1 =
            { active := true, cap := s.capOpnd f.a, off := d p.1 % 2 ^ 40, index := 0 } ∧
          (t.engine core p.2).queue = (s.engine core p.2).queue ++ [.list (s.slotNo k)]) ∧
        (¬names p.1 → Sparse.get {} (t.slotOf k).forks p.1 = Sparse.get {} sl.forks p.1 ∧ (t.engine core p.2).queue = (s.engine core p.2).queue))) ∧
    (sl.interval + 1 ≤ sl.hurdleInterval + 2 ^ 17 → ((∃ e ∈ sl.forks, e.2.active = true) ∨ ∃ e, s.listBusy core (s.slotNo k) e = true) →
      ∃ t, exec (.rdv f) s = .next t ∧ waits s t ∧ t.slots = s.slots) ∧
    (sl.interval + 1 ≤ sl.hurdleInterval + 2 ^ 17 → (∀ e ∈ sl.forks, e.2.active = false) → (∀ e, s.listBusy core (s.slotNo k) e = false) →
      let written := [0, 1, 2].foldl (fun c i => joinClock c [(engKey sl.lid sl.vcore (i + 4), Sparse.get 0 sl.engSeq (i + 4) + 1)]) []
      ∃ t, exec (.rdv f) s = .next t ∧
        ((s.learn k written).modSlot (s.slotKeyOf k) (fun l => { l with abandoned := 0 })).GoesOn t k
          (putC f.d (word sl.abandoned) ((s.learn k written).ctx k)).advance) ∧
    (sl.inbox = [] → does (.inrecv f) s (putC f.d ⟨false, 0⟩)) ∧
    (∀ x rest, sl.inbox = x :: rest → sl.held = [] → (x.clock = [] ∨ sl.interval + 1 ≤ sl.hurdleInterval + 2 ^ 17) → ∃ t, exec (.inrecv f) s = .next t ∧ (t.slotOf k).inbox = rest ∧ t.mem = s.mem ∧
      (∀ m, f.d = .c m → m ≠ 0 → (t.ctx k).getC m = ⟨false, x.val⟩) ∧ ∀ e ∈ x.clock, e.2 ≤ Sparse.get 0 (t.known k).clock e.1) ∧
    (∀ b, holdsB s f false b → does (.inpeek f) s (putC f.d ⟨false, box.getD b 0⟩) ∧
      (sl.inbox ≠ [] → does (.inwait f) s (putG f.d (BitVec.allOnes 64))) ∧
      (sl.inbox = [] → (s.ctx k).detlvl = 0 → b = 0 → does (.inwait f) s (putG f.d 0)) ∧
      (sl.inbox = [] → (b ≠ 0 ∨ (s.ctx k).detlvl ≠ 0) → (s.ctx k).waitFrom = none → ∃ t, exec (.inwait f) s = .next t ∧ waits s t ∧ (t.ctx k).waitFrom = some s.time))) ∧
  ∀ (core slot : Nat) (f : Fields) (b t0 : Nat) (s : State), let k := hartKey core slot
    let u : State := { s with cur := k }
    s.waitingAt k = some (.inwait f) → (s.ctx k).detlvl = 0 → holdsB u f false b → (s.ctx k).waitFrom = some t0 → t0 + b ≤ s.time →
    ∃ t, exec (.inwaitTimeout core slot) s = .next t ∧
      u.Did t (putG f.d (if (s.slotOf k).inbox = [] then 0 else BitVec.allOnes 64))

/-- R210: the sequencer of the list at the head of a queue waits for the command before, which is the model's choice (log 87); it ends the list at END, and abandons it, with BOUNDS, at a command beyond the kept
capability; another command it accepts as a push, ahead of the list, and goes on to the next. R212, R214: the oldest finished command of an engine writes its entry when the inbox has room, and
its error is pending; a head that failed its checks ends with their status. -/
def Obligations.ListsAndCompletions : Prop :=
  (∀ (core slot i : Nat) (e : Engine) (q : List QItem) (s : State), (i, e) ∈ [((0 : Nat), Engine.copy), (1, .matrix), (2, .quant)] →
    let x := s.engine core e
    let sl := s.slot (slotKey core slot)
    let l := Sparse.get {} sl.forks i
    let cap := l.cap.cap
    let off := l.off + 64 * l.index
    let a := (cap.base + off) % 2 ^ 56
    x.queue = .list slot :: q → x.frozen = false → s.halting (slotKey core slot) = false →
    ((s.listBusy core slot e = true ∨ x.run ≠ none ∨ x.parts ≠ []) → exec (.forkSequenceRead core e) s = .next s) ∧
    (x.run = none → x.parts = [] → s.listBusy core slot e = false → cap.len < off + 64 → ∃ t, exec (.forkSequenceRead core e) s = .next t ∧ (Sparse.get {} (t.slot (slotKey core slot)).forks i).active = false ∧
      (t.slot (slotKey core slot)).abandoned.testBit i = true ∧ .list slot ∉ (t.engine core e).queue ∧
      ∃ d ∈ (t.engine core e).done, d.entry.toNat / 2 ^ 24 % 2 ^ 8 = 0x13 ∧ d.entry.toNat / 2 ^ 64 = cap.space % 16 * 2 ^ 60 + a ∧ d.cause = 0x0F) ∧
    (x.run = none → x.parts = [] → s.listBusy core slot e = false → off + 64 ≤ cap.len → buffer s core cap.space a 64 →
      let r := le s (placeKey cap.space core a) 64
      (r % 2 ^ 8 = 0 → r / 2 ^ 9 % 2 ^ 7 = 0 → r / 2 ^ 32 % 2 ^ 32 = 0 →
        ∃ t, exec (.forkSequenceRead core e) s = .next t ∧ (Sparse.get {} (t.slot (slotKey core slot)).forks i).active = false ∧
          .list slot ∉ (t.engine core e).queue ∧ (t.slot (slotKey core slot)).abandoned = sl.abandoned ∧ t.mem = s.mem) ∧
      (r % 256 ≠ 0 → isGroup e (BitVec.ofNat 512 r) = false → (s.core core).quarantined = false →
        let u := (s.dropEngMisses core e).countCmd core slot (i + 4)
        let accepted (st : Nat) (rs : List Region) : Prop :=
          ∃ t, exec (.forkSequenceRead core e) s = .next t ∧ (Sparse.get {} (t.slot (slotKey core slot)).forks i).index = l.index + 1 ∧
            ∃ c, (t.engine core e).queue = .cmd c :: x.queue ∧ c.record = BitVec.ofNat 512 r ∧ c.slot = slot ∧ c.forked = true ∧
              c.mode = (s.ctx (hartKey core slot)).mode ∧ c.seq = Sparse.get 0 sl.engSeq (i + 4) + 1 ∧ c.status = st ∧ c.regions = rs
        (∀ st, checkCommand u core slot e (BitVec.ofNat 512 r) = .error st → accepted st []) ∧
        ∀ ab bb rs, checkCommand u core slot e (BitVec.ofNat 512 r) = .ok (ab, bb, rs) → (s.core core).ranges.length + rs.length ≤ 32 → accepted 0 rs))) ∧
  (∀ (core : Nat) (e : Engine) (d : Completion) (rest : List Completion) (s : State), (s.engine core e).done = d :: rest → (s.engine core e).frozen = false →
    let key := slotKey core d.cmd.slot
    (s.slot key).inboxRoom = true →
    ∃ t, exec (.engineCompletion core e) s = .next t ∧ (t.engine core e).done = rest ∧ t.mem = s.mem ∧
      ((s.slot key).resident = true → (s.slot key).ended = false → ∃ x, (t.slot key).inbox = (s.slot key).inbox ++ [x] ∧ x.val = d.entry) ∧
      (d.cause = 0x0F → (t.slot key).pending = (s.slot key).pending ++ [{ order := 4, cause := 0x0F, tval := d.tval }]) ∧
      (d.cause = 0 → (t.slot key).pending = (s.slot key).pending) ∧ ∀ r ∈ (t.core core).ranges, ¬(r.cmd = d.cmd.id ∧ r.engine = e)) ∧
  ∀ (core : Nat) (e : Engine) (c : Cmd) (q : List QItem) (s : State), let x := s.engine core e
    x.done = [] → x.frozen = false → x.run = none → x.parts = [] → x.queue = .cmd c :: q → 16 ≤ c.status → c.status < 256 → c.forked = false →
    ∃ t, exec (.engineCompletion core e) s = .next t ∧ (t.engine core e).queue = q ∧
      ended t core e c (match e with | .matrix => 1 | .copy => 2 | .quant => 3) c.status 0 c.detail

/-- R202 to R204, R232, R233: COPY moves a chunk of 4 KiB, or what is left, from one place to the other, read whole before it is written, and goes on or ends with the
bytes moved as COUNT; DEAL puts a block in the share of the slot's number at the core of its place in the round; CMARK ends once it stands at the head; with CANCEL it withdraws earlier commands of its
slot whose tags agree, which end with CANCELLED; a command whose NOTBEFORE has come starts as without one; a host access that fails, or that its link has not completed in
100 µs, ends its COPY with ECC, at the address of that access. -/
def Obligations.CopyEngine : Prop :=
  (∀ (core : Nat) (c : Cmd) (q : List QItem) (src dst : Region) (s : State), atHead s core .copy c q → kindOf c = 0x10 → c.progress = 0 → c.forked = false →
    c.record.toNat / 2 ^ 256 % 2 ^ 64 ≤ s.time → c.regions = [src, dst] → src.len = dst.len → buffer s core src.space src.addr src.len →
    buffer s core dst.space dst.addr dst.len →
    let n := min 4096 src.len
    ∃ t, exec (.copy core) s = .next t ∧ (t.engine core .copy).queue = q ∧
      (∀ a, t.byte a = if placeKey dst.space core dst.addr ≤ a ∧ a < placeKey dst.space core dst.addr + n
        then s.byte (placeKey src.space core src.addr + (a - placeKey dst.space core dst.addr)) else s.byte a) ∧
      (src.len ≤ 4096 → ended t core .copy c 2 0 src.len 0) ∧
      (4096 < src.len → ∃ r, (t.engine core .copy).run = some r ∧ r.cmd = c ∧ r.count = 4096) ∧
      (c.record.toNat / 2 ^ 256 % 2 ^ 64 ≠ 0 → exec (.notbeforeReached core) s = .next t)) ∧
  (∀ (core : Nat) (c : Cmd) (q : List QItem) (bs : List Byte) (s u : State), atHead s core .copy c q → kindOf c = 0x11 → c.progress = 0 → c.forked = false →
    let dw (i : Nat) : Nat := c.record.toNat / 2 ^ (64 * i) % 2 ^ 64
    let blk := 64 * (dw 4 % 2 ^ 16)
    let sp := dw 2 / 2 ^ 56 % 16
    let n := min 4096 blk
    let far := core / 16 * 16 + dw 4 / 2 ^ 16 % 16
    let at_ := c.slot * s.shareSize sp + dw 2 % 2 ^ 56
    dw 5 ≤ s.time → blk ≠ 0 → dw 3 % 2 ^ 32 ≠ 0 → dw 3 % 2 ^ 32 % blk = 0 → 1 ≤ dw 4 / 2 ^ 24 % 32 → dealTargetsOk s core c = true → buffer s core sp at_ n →
    engReadRange (s.startCmd core .copy c) core .copy c 0 (dw 1 % 2 ^ 56) n = .ok (u, bs) → bs.length = n →
    ∃ t, exec (.deal core) s = .next t ∧
      (∀ a, t.byte a = if placeKey sp far at_ ≤ a ∧ a < placeKey sp far at_ + n then bs.getD (a - placeKey sp far at_) 0 else u.byte a) ∧
      (dw 3 % 2 ^ 32 ≤ n → ended t core .copy c 2 0 n 0) ∧
      (n < dw 3 % 2 ^ 32 → ∃ r, (t.engine core .copy).run = some r ∧ r.cmd = c ∧ r.count = n) ∧
      (dw 5 ≠ 0 → exec (.notbeforeReached core) s = .next t)) ∧
  (∀ (core : Nat) (c : Cmd) (q : List QItem) (s : State), atHead s core .copy c q → kindOf c = 0x12 → c.forked = false →
    ∃ t, exec (.cmark core) s = .next t ∧ t.mem = s.mem ∧ (t.engine core .copy).queue = q ∧ ended t core .copy c 2 0 0 0) ∧
  (∀ (core slot : Nat) (m c : Cmd) (q : List QItem) (s : State), (s.engine core .copy).queue = .cmd c :: .cmd m :: q → c.id ≠ m.id →
    (∀ d ∈ q, ∀ x, d = .cmd x → x.id ≠ c.id ∧ x.id ≠ m.id) →
    m.slot = slot → m.status = 0 → kindOf m = 0x12 → m.record.getLsbD 9 = true → (kindOf c ≠ 0x12) → c.slot = slot → c.status = 0 → c.progress = 0 →
    let mask := m.record.toNat / 2 ^ 80 % 2 ^ 16
    ∃ t, exec (.cmarkCancel core slot m.record) s = .next t ∧ t.mem = s.mem ∧
      (tagOf c &&& mask = (m.record.toNat / 2 ^ 64 % 2 ^ 16) &&& mask → (t.engine core .copy).queue = q ∧
        ∃ d, d.cmd = { c with seq := 0 } ∧ d.entry = entryOf c 2 4 0 0 ∧ d ∈ (t.engine core .copy).done ∧
          (noCmp m = false → ∃ y ∈ (t.engine core .copy).done, y.cmd = { m with seq := 0 } ∧ y.entry = entryOf m 2 0 1 0)) ∧
      (tagOf c &&& mask ≠ (m.record.toNat / 2 ^ 64 % 2 ^ 16) &&& mask → (t.engine core .copy).queue = .cmd c :: q)) ∧
  ∀ (core : Nat) (r : Run) (src dst : Region) (s : State), (s.engine core .copy).run = some r → (s.engine core .copy).done = [] →
    (s.engine core .copy).frozen = false → s.halting (slotKey r.cmd.issuer r.cmd.slot) = false → kindOf r.cmd = 0x10 →
    r.cmd.record.toNat / 2 ^ 256 % 2 ^ 64 ≤ s.time → r.cmd.forked = false → r.cmd.regions = [src, dst] →
    let n := min 4096 (src.len - r.count)
    let fails (t : State) (a : Nat) : Prop := exec (.cxlAccessTimeout core) s = .next t ∧ t.mem = s.mem ∧ ended t core .copy r.cmd 2 0x18 r.count (a % 2 ^ 56)
    (∀ t0 a, r.hostAt = some (t0, a) → t0 + 100000 ≤ s.time → ∃ t, fails t a) ∧
    (∀ t0 a, r.hostAt = some (t0, a) → t0 + 100000 ≤ s.time → ∃ t, exec (.copy core) s = .next t ∧ t.mem = s.mem ∧
      ended t core .copy r.cmd 2 0x18 r.count (a % 2 ^ 56)) ∧
    (s.hostLate r = none → s.hostLines core r ≠ [] → ∃ t, ∃ a ∈ s.hostLines core r, fails t a) ∧
    ∀ a ∈ s.hostLines core r, s.inHostTier core a = true ∧
      ((src.addr + r.count ≤ a ∧ a < src.addr + r.count + n) ∨ (dst.addr + r.count ≤ a ∧ a < dst.addr + r.count + n))

/-- R205 to R208: a quantisation command of one row reads its row through R50, computes each element by the rule of its kind, writes the row or its scale entry,
and ends with COUNT 1 and the bits of saturated and invalid elements in its status. R217, R220: MZERO clears the tile and marks it as its slot's; MMARK ends at the head. -/
def Obligations.QuantAndMarks : Prop :=
  (∀ (core : Nat) (c : Cmd) (q : List QItem) (s : State), atHead s core .quant c q → c.progress = 0 → c.detail = 0 → c.forked = false →
    let t0 := s.startCmd core .quant c
    let o := quantOps s core c
    let d1 := c.record.toNat / 2 ^ 64 % 2 ^ 64
    let ends (op : Instr) (m : State) (sat inv : Bool) : Prop := ∃ t, exec op s = .next t ∧ t.mem = m.mem ∧ (t.engine core .quant).queue = q ∧
      ended t core .quant c 3 ((if sat then 1 else 0) + (if inv then 2 else 0)) 1 0
    o.rows = 1 →
    (∀ u v xs, kindOf c = 0x20 → o.b.saxis = false → readRow t0 core .quant c o.a c.abank o.a.p o.row0 = .ok (u, xs) →
      let e := scaleEntry o.b.sfmt (qMax o.b) (xs.map (elemVal o.a.kind))
      engWrite u core .quant c o.b.sspace (o.b.scaleBase c.bbank + o.row0 * o.b.scaleBytes) o.b.scaleBytes e.1 = .ok v →
      ends (.qscale core) v e.2.1 e.2.2) ∧
    (∀ u v w xs ss, kindOf c = 0x21 → readRow t0 core .quant c o.a c.abank o.a.p o.row0 = .ok (u, xs) → rowScales u core .quant c o.b c.bbank o.row0 = .ok (v, ss) →
      let qs := List.zipWith (fun x y => packElem (planeLo o.b) (planeHi o.b) (elemVal o.a.kind x) y) xs ss
      writeRow v core .quant c o.b c.bbank o.row0 (qs.map (fun z => (BitVec.ofInt o.b.p z.1).toNat)) = .ok w →
      ends (.qpack core) w (qs.any (·.2.1)) (qs.any (·.2.2))) ∧
    (∀ u v xs, let p := if d1 / 2 ^ 32 % 16 = 0 then o.a.dp else d1 / 2 ^ 32 % 16
      kindOf c = 0x22 → d1.testBit 38 = false → readRow t0 core .quant c o.a c.abank p o.row0 = .ok (u, xs) → xs.length = o.a.cols →
      let vs := xs.map (fun x => unpackElem o.b.kind false (planeRead (planeVal o.a x) o.a.p p (d1.testBit 37)) (.fin false 1 0))
      writeRow u core .quant c o.b c.bbank o.row0 (vs.map (·.1)) = .ok v →
      ends (.qunpack core) v (vs.any (·.2.1)) (vs.any (·.2.2)))) ∧
  ∀ (core : Nat) (c : Cmd) (q : List QItem) (s : State), atHead s core .matrix c q → c.forked = false → (s.core core).quarantined = false →
    (kindOf c = 2 → ∃ t, exec (.mzero core) s = .next t ∧ t.mem = s.mem ∧ (t.core core).tile = [] ∧ (t.core core).tileOwner = some (c.slot, c.lid) ∧
      (t.engine core .matrix).queue = q ∧ ended t core .matrix c 1 0 0 0) ∧
    (kindOf c = 3 → (s.engine core .matrix).parts = [] →
      (∀ i < 16, ∀ d ∈ (s.engine (core / 16 * 16 + i) .matrix).done, isGroup .matrix d.cmd.record = false) → ∃ t, exec (.mmark core) s = .next t ∧ t.mem = s.mem ∧ (t.core core).tile = (s.core core).tile ∧
      (t.engine core .matrix).queue = q ∧ ended t core .matrix c 1 0 0 0)

/-- R215, R217: MMA adds, to each cell of its M by N block, the exact sum of the products of the read values of its row of A and its row of B, held to 32 bits; without ACC the
cells start at 0, and every other cell of the tile is then 0. ACC on a tile of another slot or launch ends with CHAIN. R222: a check that agrees lets the command drain, or end with its bits and its
STEPS; a mismatch that stays quarantines the core and raises MATRIX_CHECK with CHECK. R224: a row goes to the lowest free drain context, with the entry state of the rule, whose MODE
is the issuer's at the push, which is this model's choice (log 90); R216: with the last row the unit is free. -/
def Obligations.MatrixUnit : Prop :=
  (∀ (core : Nat) (c : Cmd) (q : List QItem) (s : State), atHead s core .matrix c q → kindOf c = 1 → c.record.getLsbD 320 = false → c.forked = false →
    (s.core core).quarantined = false → c.issuer = core → (s.engine core .matrix).parts = [] →
    let f := mmaFields c.record
    let a := mmaOp s core c.slot (dw c.record 1)
    let b := mmaOp s core c.slot (dw c.record 2)
    let acc := c.record.getLsbD 256
    let mine : Prop := (s.core core).tileOwner = some (c.slot, c.lid)
    (acc = true → ¬mine → ∃ t, exec (.mma core) s = .next t ∧ t.mem = s.mem ∧ (t.core core).tile = (s.core core).tile ∧ (t.engine core .matrix).queue = q ∧
      ended t core .matrix { c with id := 0 } 1 0x1A 0 0) ∧
    (∀ u v as bs, (acc = true → mine) → Sparse.wf (0 : BitVec 32) (s.core core).tile = true →
      readOperand core c a c.abank f.k0 f.klen ((List.range f.m).map (fun i => a.row0 + i)) (s.startCmd core .matrix c) = .ok (u, as) →
      readOperand core c b c.bbank f.k0 f.klen ((List.range f.n).map (fun j => b.row0 + j)) u = .ok (v, bs) →
      ∃ t r, exec (.mma core) s = .next t ∧ t.mem = v.mem ∧ (t.engine core .matrix).queue = q ∧ (t.engine core .matrix).run = some r ∧ r.cmd = c ∧ r.phase = 1 ∧
        (t.core core).tileOwner = some (c.slot, c.lid) ∧
        ∀ i j, i < 128 → j < 128 →
          let old : BitVec 32 := if acc then Sparse.get 0 (s.core core).tile (128 * i + j) else 0
          let x := old.toInt + (List.zipWith (· * ·) (as.getD i []) (bs.getD j [])).sum
          Sparse.get 0 (t.core core).tile (128 * i + j) =
            if i < f.m ∧ j < f.n then BitVec.ofInt 32 (max (-(2 : Int) ^ 31) (min x ((2 : Int) ^ 31 - 1))) else old)) ∧
  (∀ (core : Nat) (r : Run) (s : State), (s.engine core .matrix).run = some r → r.phase = 1 → r.cmd.record.getLsbD 320 = false → r.cmd.forked = false →
    r.cmd.issuer = core → (s.engine core .matrix).done = [] → (s.engine core .matrix).parts = [] →
    let drains : Bool := r.cmd.record.toNat / 2 ^ 257 % 4 == 1
    (drains = true → ∃ t, exec (.mmaCheck core false false) s = .next t ∧ t.mem = s.mem ∧ (t.engine core .matrix).run = some { r with phase := 2, rowsB := [] }) ∧
    (drains = false → r.check = false → r.halted = false → ∃ t, exec (.mmaCheck core false false) s = .next t ∧ t.mem = s.mem ∧
      ended t core .matrix { r.cmd with clock := joinClock r.cmd.clock r.after } 1 ((if r.sat || r.dsat then 1 else 0) + (if r.invalid then 2 else 0)) r.count
        (r.steps % 2 ^ 32 * 2 ^ 32 + (if r.invalid then 2 ^ 19 else 0) + (if r.dsat then 2 ^ 18 else 0) + (if r.sat then 2 ^ 17 else 0) +
          (if r.replay then 2 ^ 16 else 0) + r.dropped % 2 ^ 16)) ∧
    (∃ t, exec (.mmaCheck core true true) s = .next t ∧ (t.core core).quarantined = true ∧ (t.engine core .matrix).run = none ∧
        ∃ d, (t.engine core .matrix).done = [d] ∧ d.entry.toNat / 2 ^ 24 % 2 ^ 8 = 0x19 ∧ d.cause = 0x12 ∧ d.tval % 2 ^ 16 = tagOf r.cmd)) ∧
  ∀ (core d : Nat) (r : Run) (s : State), (s.engine core .matrix).run = some r → r.phase = 2 → (s.engine core .matrix).frozen = false → r.halted = false →
    s.halting (slotKey core r.cmd.slot) = false → d < 4 → (s.ctx (drainKey core d)).live = false → (∀ e < d, (s.ctx (drainKey core e)).live = true) →
    let rec0 := r.cmd.record.toNat
    let prog := (s.slot (slotKey core r.cmd.slot)).prog
    r.nextRow < rec0 / 2 ^ 192 % 2 ^ 7 + 1 → r.cmd.mode < 4 →
    let next : Run := { r with nextRow := r.nextRow + 1 }
    let last : Prop := r.nextRow = rec0 / 2 ^ 192 % 2 ^ 7
    ∃ t, exec (.drainRowHandoff core) s = .next t ∧ t.mem = s.mem ∧ (¬last → (t.engine core .matrix).run = some next) ∧
      (last → (t.engine core .matrix).run = none ∧ { next with rowsA := [] } ∈ (t.engine core .matrix).parts) ∧
      Sparse.get 0 (t.core core).drainSlot d = r.cmd.slot ∧
      (let h := t.ctx (drainKey core d)
       h.live = true ∧ h.pc = BitVec.ofNat 56 (prog.handlers.getD (rec0 / 2 ^ 259 % 16) 0) ∧ h.mode = r.cmd.mode % 4 ∧ h.ie = false ∧
         h.regBase = BitVec.ofNat 56 prog.text ∧ h.regLimit = BitVec.ofNat 57 (prog.text + 12 * prog.textN) ∧
         h.getC 1 = word (rec0 / 2 ^ 272 % 2 ^ 20 + r.nextRow) ∧ h.getC 2 = word (tagOf r.cmd) ∧ h.getC 3 = word (rec0 / 2 ^ 264 % 2 ^ 6) ∧
         h.getC 7 = word (rec0 / 2 ^ 384 % 2 ^ 32) ∧ (r.cmd.record.getLsbD 320 = false → h.getC 6 = word 0) ∧
         (∀ n : BitVec 6, 8 ≤ n.toNat → h.getC n = {}) ∧ (∀ n : BitVec 4, n ≠ 0 → h.getG n = 0) ∧ (∀ n, h.getSb n = 0) ∧
         ∀ j < 128, lane (h.getV (j / 16)) 32 (j % 16) = (Sparse.get 0 (s.core core).tile (128 * r.nextRow + j)).toNat)

/-! ### Draining and tensor identifiers (R51 to R55, R226 to R229) -/

namespace Sys2Proof.Claims

/-- The identifier that a TID instruction names (R54). -/
def tidIs (s : State) (f : Fields) (i : Nat) : Prop := if f.md.getLsbD 6 then holds s f.b i else i = f.md.toNat % 64

end Sys2Proof.Claims

/-- R226 to R229: DEMIT converts the lanes of its source registers by the kind of the tensor, after the division by their scales where it asks for it, stores the row by R50 and no other byte, and
ends its handler, as DDROP does with nothing stored; the command goes on until its last handler has ended, and then completes with the rows written as COUNT. DSTAT writes the word of the command. -/
def Obligations.Draining : Prop :=
  ∀ (f : Fields) (s : State) (r : Run), acts s f → isDrain s.cur = true →
    let k := s.cur
    let core := coreOf k
    let unitHas (u : State) (x : Run) : Prop := (u.engine core .matrix).run.toList ++ (u.engine core .matrix).parts = [x]
    unitHas s r → (s.ctx k).command = r.cmd.id →
    let m := r.cmd.record.toNat / 2 ^ 192 % 2 ^ 7 + 1
    let goesOn (t : State) (h : Sparse Nat) (r' : Run) : Prop :=
      let g : Run := { r' with after := joinClock r.after h }
      (t.ctx k).live = false ∧ (g.ended ≠ g.nextRow → unitHas t g) ∧
      (g.ended = g.nextRow → m ≤ g.nextRow → r.cmd.record.getLsbD 320 = false → r.cmd.issuer = core → r.cmd.forked = false → r.check = false → r.halted = false →
        (s.engine core .matrix).done = [] →
        ended t core .matrix { r.cmd with clock := joinClock r.cmd.clock g.after } 1 ((if g.sat || g.dsat then 1 else 0) + (if g.invalid then 2 else 0)) g.count
          (g.steps % 2 ^ 32 * 2 ^ 32 + (if g.invalid then 2 ^ 19 else 0) + (if g.dsat then 2 ^ 18 else 0) + (if g.sat then 2 ^ 17 else 0) +
            (if g.replay then 2 ^ 16 else 0) + g.dropped % 2 ^ 16))
    (∀ idx row u ls ss, holds s f.d idx → holdsB s f false row →
      let t0 := (s.slotOf k).tensor idx
      let bsel := f.md.toNat / 16 % 4
      let pub := s.publishedBank core (s.slotNo k) idx
      let bank := if bsel = 2 then 1 - pub.getD 0 else bsel
      let ty := f.md.toNat / 128 % 16
      idx ≤ 63 → t0.kind ≠ 0 → (t0.space = 1 ∨ t0.space = 4) → t0.weight = false → (bsel = 0 ∨ (t0.state = true ∧ (bsel = 1 ∨ (bsel = 2 ∧ pub ≠ none)))) →
      row < t0.rows → opndNum f.a + (t0.cols + 15) / 16 ≤ 16 →
      s.demitScales k 0x350 t0 bank row (f.md.getLsbD 6) = .ok (u, ls, ss) →
      let xs := (List.range t0.cols).map (fun j => lane ((s.ctx k).getV (opndNum f.a + j / 16)) 32 (j % 16))
      let vs := List.zipWith (fun x y => demitConv t0 (if ty = 8 then fval 23 x else intVal (BitVec.ofNat 32 x).toInt) y) xs ss
      let stores := rowStores t0 bank row (vs.map (·.1))
      (∀ w ∈ stores, (s.core core).mustWait t0.space w.1 w.2.length true = false) →
      let covers (w : Nat × List Byte) (a : Nat) : Bool := decide (placeKey t0.space core w.1 ≤ a) && decide (a < placeKey t0.space core w.1 + w.2.length)
      ∃ t, exec (.demit f) s = .next t ∧
        (∀ a, t.byte a = match stores.reverse.find? (fun w => covers w a) with
          | some w => w.2.getD (a - placeKey t0.space core w.1) 0
          | none => u.byte a) ∧
        ∃ h, goesOn t h { r with count := r.count + 1, ended := r.ended + 1, dsat := r.dsat || vs.any (·.2.1), invalid := r.invalid || vs.any (·.2.2) }) ∧
    (∃ t, exec (.ddrop f) s = .next t ∧ t.mem = s.mem ∧ goesOn t (s.known k).clock { r with dropped := r.dropped + 1, ended := r.ended + 1 }) ∧
    does (.dstat f) s (putC f.d (word (tagOf r.cmd * 2 ^ 48 + r.dropped % 2 ^ 16 * 2 ^ 32 + r.ended % 2 ^ 16 * 2 ^ 16 + (if r.invalid then 8 else 0) +
      (if r.dsat then 4 else 0) + (if r.sat then 2 else 0) + (if r.replay then 1 else 0))))

/-- R51 to R55: TIDLD reads an entry of 32 bytes, adds the share start to its local addresses, and answers FORM, LOCKED or IN_FLIGHT, or installs it and answers OK; TIDST stores an entry with
its local addresses relative to the share again; TIDINV makes one invalid. An index above 63 is answered with 4, or, in TIDST, raises BOUNDS. Nothing else of the table changes. -/
def Obligations.TensorIdentifiers : Prop :=
  ∀ (f : Fields) (s : State) (i : Nat), acts s f → tidIs s f i →
    let k := s.cur
    let slot := s.slotNo k
    let rq (op field : Nat) (o : Opnd) (ld : Bool) : Req :=
      { op := op, field := field, opnd := o, n := 32, al := 32, ld := ld, st := !ld, spaces := [0, 1, 2, 3, 4, 5] }
    let locked := s.tidLocked (coreOf k) slot i
    let flying := s.inFlight (coreOf k) slot i
    let answers (op : Instr) (a : Nat) (v : Option (BitVec 256)) : Prop := ∃ t, exec op s = .next t ∧ (t.ctx k).pc = (s.ctx k).advance.pc ∧
      (∀ m, f.d = .c m → m ≠ 0 → (t.ctx k).getC m = word a) ∧
      ∀ j, Sparse.get 0 (t.slotOf k).tensors j = if j = i then v.getD (Sparse.get 0 (s.slotOf k).tensors i) else Sparse.get 0 (s.slotOf k).tensors j
    (63 < i → does (.tidld f) s (putC f.d (word 4)) ∧ does (.tidinv f) s (putC f.d (word 4)) ∧ (s.entersTraps → traps (.tidst f) s 0x06 i)) ∧
    (i ≤ 63 →
      (∀ (u : State) (l : Loc), access s (rq 0x360 2 f.a true) f.a (offs f) false false u l → (u.noteAccess k l 0).poisoned l 32 = false →
        let e := s.relocate slot false (BitVec.ofNat 256 (le (u.noteAccess k l 0) l.key 32))
        let wf := tensorWf (s.insideShare slot) e
        (wf = false → answers (.tidld f) 2 none) ∧ (wf = true → locked = true → answers (.tidld f) 3 none) ∧
        (wf = true → locked = false → flying = true → answers (.tidld f) 1 none) ∧
        (wf = true → locked = false → flying = false → answers (.tidld f) 0 (some e))) ∧
      (locked = true → answers (.tidinv f) 3 none) ∧ (locked = false → flying = true → answers (.tidinv f) 1 none) ∧
      (locked = false → flying = false → answers (.tidinv f) 0 (some 0)) ∧
      (∀ (u : State) (l : Loc), access s (rq 0x361 1 f.d false) f.d (offs f) false false u l →
        ∃ t, exec (.tidst f) s = .next t ∧ stored (u.noteAccess k l 1) t l.key 32 (s.relocate slot true (Sparse.get 0 (s.slotOf k).tensors i)).toNat ∧
          t.slots = s.slots))

/-! ### Messages (R284 to R293, R398) -/

namespace Sys2Proof.Claims

/-- A retry-buffer entry, with what the model keeps of where its message is. -/
def resent (e : REntry) (phase reason nextAt backoff : Nat) : REntry :=
  { e with phase := phase, reason := reason, nextAt := nextAt, backoff := backoff }

/-- The vcore that an endpoint of this module names runs: it is resident, live and not frozen (R284, R287). -/
def reaches (s : State) (e : REntry) (key : Nat) : Prop :=
  let v := e.endpoint % 2 ^ 12
  e.endpoint / 2 ^ 12 % 2 ^ 12 = s.byvon.device ∧ s.deviceRevoked s.byvon.device = false ∧ (s.gang e.lid).live = true ∧ (s.revoked.contains 0 = false) ∧
    v < (s.gang e.lid).vcores ∧ v ∉ (s.gang e.lid).retired ∧ s.seatOf e.lid v = some key ∧ (s.slot key).live = true ∧ (s.slot key).resident = true ∧
    (s.slot key).held = [] ∧ (s.ctx (hartOfSlot key)).frozen = false

end Sys2Proof.Claims

/-- R286, R292, R293: SEND takes the lowest free entry of the retry buffer, with its endpoint, its mode, its channel or its tag, the payload that it read and the next sequence number; with REL it is a
release. R291: MATCH arms the lowest free entry, and UNMATCH disarms the one of its tag; their statuses. Above level DEFAULT all of them raise DET_VIOLATION with REASON 4. -/
def Obligations.SendAndMatch : Prop :=
  ∀ (f : Fields) (s : State), acts s f →
    let k := s.cur
    let sl := s.slotOf k
    let n := f.md.toNat % 16 + 1
    let rel := f.md.getLsbD 10
    let sends (op : Instr) (u : State) (e mode chan tag : Nat) (bs : List Byte) : Prop :=
      ∀ i < 32, sl.retryAt i = none → (∀ j < i, sl.retryAt j ≠ none) →
        (rel = true → sl.interval + 1 ≤ sl.hurdleInterval + 2 ^ 17 ∧ (isDrain k = true ∨ s.pstOutstanding k = false)) →
        ∃ t, exec op s = .next t ∧ t.mem = u.mem ∧ (t.ctx k).pc = (s.ctx k).advance.pc ∧ (t.slotOf k).sendSeq = (sl.sendSeq + 1) % 2 ^ 16 ∧
          (t.slotOf k).interval = sl.interval + (if rel then 1 else 0) ∧
          (t.slotOf k).retryAt i = some { lid := sl.lid, vcore := sl.vcore, endpoint := e, mode := mode, channel := chan, tag := tag, payload := bs, seq := sl.sendSeq, order := s.turn, sentAt := s.time
                                          clock := if rel then s.releaseClock k else [] }
    (∀ op ∈ [Instr.sendChan f, .sendTg f, .sendIn f], (s.ctx k).detlvl ≠ 0 → s.entersTraps → traps op s 0x0C (4 * 2 ^ 60 + 0x320)) ∧
    ((s.ctx k).detlvl ≠ 0 → s.entersTraps → traps (.matchI f) s 0x0C (4 * 2 ^ 60 + 0x322) ∧ traps (.unmatch f) s 0x0C (4 * 2 ^ 60 + 0x323)) ∧
    (∀ e, (s.ctx k).detlvl = 0 → holds s f.d e → 2 ^ 24 ≤ e → s.entersTraps → ∀ op ∈ [Instr.sendChan f, .sendTg f, .sendIn f], traps op s 0x06 e) ∧
    (∀ e x b, (s.ctx k).detlvl = 0 → holds s f.d e → e < 2 ^ 24 → holds s f.a x → holdsB s f false b →
      sends (.sendIn f) s e 1 0 (b % 2 ^ 16) ((List.range 8).map (fun i => BitVec.ofNat 8 (x / 256 ^ i)))) ∧
    (∀ e u bs, (s.ctx k).detlvl = 0 → holds s f.d e → e < 2 ^ 24 → payloadAt f s = .ok ({ s := u, next := .seq }, bs) →
      (((s.capOpnd f.a).cap.space = 1 → bs.length = 64 * n ∧ ∀ i < 64 * n, bs.getD i 0 =
        s.byte (placeKey 1 (coreOf k) ((((s.capOpnd f.a).cap.base : Int) + (s.capOpnd f.a).cap.off + offs f).toNat % 2 ^ 56 + i))) ∧
      sends (.sendChan f) u e 0 (f.md.toNat / 32 % 8) 0 bs ∧ ∀ b, holds s f.b b → sends (.sendTg f) u e 2 0 (b % 2 ^ 16) bs)) ∧
    (∀ w c a l, (s.ctx k).detlvl = 0 → holds s f.b w → w < 2 ^ 20 →
      let len := 64 * (w / 2 ^ 16 + 1)
      let rq : Req := { op := 0x322, field := 2, opnd := f.a, n := len, al := 64, ld := false, st := true, spaces := [1] }
      capCheck s k rq (s.capOpnd f.a) (offs f) = .ok (c, a) → locate s k rq c a = .ok l →
      let dup : Prop := ∃ i < 32, (Sparse.get {} sl.matchTable i).armed = true ∧ (Sparse.get {} sl.matchTable i).tag = w % 2 ^ 16
      (dup → does (.matchI f) s (putC f.d (word 2))) ∧
      (¬dup → (∀ i < 32, (Sparse.get {} sl.matchTable i).armed = true) → does (.matchI f) s (putC f.d (word 1))) ∧
      ∀ i < 32, ¬dup → (Sparse.get {} sl.matchTable i).armed = false → (∀ j < i, (Sparse.get {} sl.matchTable j).armed = true) →
        ∃ t, exec (.matchI f) s = .next t ∧
          (s.modSlot (s.slotKeyOf k) (fun x => { x with matchTable := x.matchTable.put i { armed := true, tag := w % 2 ^ 16, len := len, addr := a } })).GoesOn t k
            (putC f.d (word (i * 2 ^ 8)) (s.ctx k)).advance) ∧
    ∀ b, (s.ctx k).detlvl = 0 → holdsB s f false b →
      ((∀ i < 32, (Sparse.get {} sl.matchTable i).armed = true → (Sparse.get {} sl.matchTable i).tag ≠ b % 2 ^ 16) → does (.unmatch f) s (putC f.d (word 3))) ∧
      ∀ i < 32, (Sparse.get {} sl.matchTable i).armed = true → (Sparse.get {} sl.matchTable i).tag = b % 2 ^ 16 →
        (∀ j < i, (Sparse.get {} sl.matchTable j).armed = true → (Sparse.get {} sl.matchTable j).tag ≠ b % 2 ^ 16) →
        ∃ t, exec (.unmatch f) s = .next t ∧
          (s.modSlot (s.slotKeyOf k) (fun x => { x with matchTable := x.matchTable.drop i })).GoesOn t k (putC f.d (word 0) (s.ctx k)).advance

/-- R287 to R289, R398: a message that reaches a running vcore enters its arrival queue whole, or its inbox, or the buffer of an armed entry of its tag and length, which is then disarmed; without room, or an
entry, it is refused with FULL, and with GONE where there is no such vcore. An acknowledgement retires the entry; a refusal with PARKED or FULL backs off for 128 ns and then twice as long each time, up to 16 µs;
GONE and REVOKED retire the entry and leave SEND_UNDELIVERABLE pending, as a route without a port for 1 ms does. -/
def Obligations.MessageDelivery : Prop :=
  ∀ (core slot i : Nat) (s : State) (e : REntry), let at_ := slotKey core slot
    (s.slot at_).retryAt i = some e →
    let from_ := s.byvon.device * 2 ^ 12 + e.vcore % 2 ^ 12
    let entry (cls status count detail : Nat) : BitVec 128 := BitVec.ofNat 128 (e.tag % 2 ^ 16 + cls * 2 ^ 16 + status * 2 ^ 24 + count % 2 ^ 32 * 2 ^ 32 + detail % 2 ^ 64 * 2 ^ 64)
    (e.phase = 0 → s.messageHeldBack e = false → ∀ key, reaches s e key →
      let tgt := s.slot key
      let q := Sparse.get [] tgt.arrivals e.channel
      let nb := e.payload.length / 64
      let refused (r : Nat) : Prop := ∃ t, exec (.messageArrival core slot i none) s = .next t ∧ t.mem = s.mem ∧
        (t.slot at_).retryAt i = some { e with phase := 2, reason := r } ∧ (key ≠ at_ → t.slot key = tgt)
      let accepted (t : State) : Prop := exec (.messageArrival core slot i none) s = .next t ∧ (t.slot at_).retryAt i = some { e with phase := 1 }
      (e.mode = 0 → q.length + nb ≤ 16 → ∃ t, accepted t ∧ t.mem = s.mem ∧
        ∃ bs, Sparse.get [] (t.slot key).arrivals e.channel = q ++ bs ∧ bs.length = nb ∧
          ∀ j < nb, (bs.getD j ⟨0, []⟩).data = BitVec.ofNat 512 (bytesToNat ((e.payload.drop (64 * j)).take 64))) ∧
      (e.mode = 0 → 16 < q.length + nb → refused 2) ∧
      (e.mode = 1 → tgt.inbox.length < 64 → ∃ t, accepted t ∧ t.mem = s.mem ∧
        (t.slot key).inbox = tgt.inbox ++ [⟨entry 6 0 from_ (bytesToNat e.payload), e.clock⟩]) ∧
      (e.mode = 1 → 64 ≤ tgt.inbox.length → refused 2) ∧
      (e.mode = 2 → (∀ j < 32, (Sparse.get {} tgt.matchTable j).armed = true → (Sparse.get {} tgt.matchTable j).tag ≠ e.tag ∨ (Sparse.get {} tgt.matchTable j).len ≠ e.payload.length) →
        refused 2) ∧
      ∀ j < 32, e.mode = 2 → let m := Sparse.get {} tgt.matchTable j
        m.armed = true → m.tag = e.tag → m.len = e.payload.length →
        (∀ j' < j, (Sparse.get {} tgt.matchTable j').armed = true → (Sparse.get {} tgt.matchTable j').tag ≠ e.tag ∨ (Sparse.get {} tgt.matchTable j').len ≠ e.payload.length) →
        tgt.inbox.length < 64 → (s.core (key / 16)).mustWait 1 m.addr e.payload.length true = false →
        ∃ t, accepted t ∧ (∀ a, t.byte a = let p := placeKey 1 (key / 16) m.addr
            if p ≤ a ∧ a < p + e.payload.length then e.payload.getD (a - p) 0 else s.byte a) ∧
          (Sparse.get {} (t.slot key).matchTable j).armed = false ∧ (t.slot key).inbox = tgt.inbox ++ [⟨entry 6 1 from_ e.payload.length, e.clock⟩]) ∧
    (e.phase = 0 → s.messageHeldBack e = false → e.endpoint / 2 ^ 12 % 2 ^ 12 = s.byvon.device → s.deviceRevoked s.byvon.device = false → s.revoked.contains 0 = false →
      ((s.gang e.lid).live = false ∨ (s.gang e.lid).vcores ≤ e.endpoint % 2 ^ 12 ∨ e.endpoint % 2 ^ 12 ∈ (s.gang e.lid).retired) →
      ∃ t, exec (.messageArrival core slot i none) s = .next t ∧ (t.slot at_).retryAt i = some { e with phase := 2, reason := 3 } ∧ t.mem = s.mem) ∧
    (e.phase = 1 → ∃ t, exec (.sendAck core slot i) s = .next t ∧ (t.slot at_).retryAt i = none ∧ t.mem = s.mem) ∧
    (∀ r, e.phase = 2 → (e.reason = 1 ∨ e.reason = 2) → let b := if e.backoff = 0 then 128 else min (2 * e.backoff) 16000
      ∃ t, exec (.sendNack core slot i r) s = .next t ∧ (t.slot at_).retryAt i = some (resent e 3 e.reason (s.time + b) b) ∧ t.mem = s.mem) ∧
    (∀ r home, (s.dropRentry core slot i).residentHome e.lid e.vcore = some home → (s.vcoreSlot e.lid e.vcore).ended = false →
      let tval (reason : Nat) : Nat := e.seq % 2 ^ 16 * 2 ^ 48 + e.endpoint % 2 ^ 24 * 2 ^ 24 + reason * 2 ^ 5 + i % 32
      let told (t : State) (reason : Nat) : Prop := t.mem = s.mem ∧ ∃ p ∈ (t.slot home).pending, p.order = 3 ∧ p.cause = 0x11 ∧ p.tval = tval reason
      (e.phase = 2 → (e.reason = 3 ∨ e.reason = 4) → ∃ t, exec (.sendNack core slot i r) s = .next t ∧ told t e.reason) ∧
      (e.phase = 0 → e.endpoint / 2 ^ 12 % 2 ^ 12 ≠ s.byvon.device → s.deviceRevoked (e.endpoint / 2 ^ 12 % 2 ^ 12) = false →
        e.sentAt + 1000000 ≤ s.time → (∀ p < 16, Config.routeUses p (e.endpoint / 2 ^ 12 % 2 ^ 12) = true →
          s.linkOf p ≠ 2 ∧ s.linkOf p ≠ 3 ∧ Sparse.get 0 s.device.downAt p + 1000000 ≤ s.time) →
        ∃ t, exec (.noPortUpTimeout core slot false i) s = .next t ∧ told t 3)) ∧
    (e.phase = 3 → e.nextAt ≤ s.time → ∃ t, exec (.sendRetry core slot i) s = .next t ∧ (t.slot at_).retryAt i = some { e with phase := 0 } ∧ t.mem = s.mem)

/-! ### Reductions and the exchange (R294 to R303, R304 to R317) -/

/-- R294 to R300, R303: REDC rounds its lanes to the wire and injects one packet, with its header and its contributor's bit; a packet of a sequence that is over is late, one of an input that the tree does not expect is a duplicate; the
first packet of a sequence opens an entry, and the last one sums the contributions in the order of their inputs, and sends the sum up or, at the Bellwether, down. An entry that runs out of time gives TIMEOUT with a zero payload.
A result is written to the buffer of the contribution, and then to the inbox, for which its entry waits. In push mode the switch's return over an enabled port is the
result. That the result takes its operation, format and NM1 from the header of its first packet is this model's choice (log 45), as is what a late contribution and a stray result meet (log 46). -/
def Obligations.Reductions : Prop :=
  (∀ (f : Fields) (s u : State) (w : Nat) (l : Loc), acts s f → holds s f.b w →
    let k := s.cur
    let core := coreOf k
    let wf := f.md.getLsbD 6
    let m := if wf then 32 else 16
    let rq : Req := { op := 0x324, field := 1, opnd := f.d, n := 64, al := 64, ld := false, st := true, spaces := [0, 1] }
    let te := (Sparse.get 0 (s.fold (foldOf core)).rregs (8 * (w / 2 ^ 36 % 16))).toNat
    let x (j : Nat) : Nat := lane ((s.ctx k).getV (opndNum f.a + j / 16)) 32 (j % 16)
    let nan (j : Nat) : Prop := x j / 2 ^ 23 % 256 = 255 ∧ x j % 2 ^ 23 ≠ 0
    let input := if isService core then 16 else core % 16
    w % 2 ^ 24 = 0 → w / 2 ^ 30 % 64 ≤ w / 2 ^ 24 % 64 → (wf = true → opndNum f.a + 1 ≤ 31) →
    access s rq f.d (offs f) false false u l → te.testBit 63 = true → te.testBit input = true →
    ∃ (t : State) (p : RedPacket), exec (.redc f) s = .next t ∧ t.mem = u.mem ∧ (t.ctx k).pc = (s.ctx k).advance.pc ∧
      (t.fold (foldOf core)).arriving = (s.fold (foldOf core)).arriving ++ [p] ∧ p.input = input ∧ p.stamp = s.turn ∧ p.cset = 2 ^ (w / 2 ^ 30 % 64) ∧
      (∀ inv : Nat, (inv = 1 ↔ ∃ j < m, nan j) → inv ≤ 1 → p.header = w + f.md.toNat % 4 * 2 ^ 22 + (if wf then 2 ^ 21 else 0) + inv * 2 ^ 20) ∧
      p.elems.length = m ∧ (∀ j < m, wf = false → (nan j → p.elems.getD j 0 = 0x7FC00000) ∧ (¬nan j → p.elems.getD j 0 = x j)) ∧
      (t.slotOf k).redcs = (s.slotOf k).redcs ++
        [{ tree := w / 2 ^ 36 % 16, group := w / 2 ^ 40 % 256, seq := w / 2 ^ 48 % 2 ^ 16, space := l.space, page := l.page
           addr := if l.space = 0 then l.key else l.addr
           core := core, stamp := s.turn }]) ∧
  (∀ (fold : Nat) (p : RedPacket) (s : State), let F := s.fold fold
    F.arriving = [p] →
    let age := (hdrSeq p.header + 2 ^ 16 - Sparse.get 0 F.lastSeq (hdrGroup p.header)) % 2 ^ 16
    let late : Prop := age = 0 ∨ 2 ^ 15 ≤ age
    let te := (Sparse.get 0 F.rregs (8 * hdrTree p.header)).toNat
    let mine (e : CombEntry) : Bool := e.tree == hdrTree p.header && e.group == hdrGroup p.header && e.seq == hdrSeq p.header
    let run (t : State) : Prop := exec (.reductionPacketArrival fold) s = .next t ∧ t.mem = s.mem
    (late → ∃ t, run t ∧ Sparse.get 0 (t.fold fold).rregs 0x110 = Sparse.get 0 F.rregs 0x110 + 1 ∧ (t.fold fold).comb = F.comb ∧
      (16 < p.input → (t.fold fold).results = F.results) ∧
      (p.input ≤ 16 → ∃ x : RedPacket, (t.fold fold).results = F.results ++ [x] ∧ x.input = p.input ∧ x.late = true ∧ x.stamp = p.stamp ∧ hdrStatus x.header = 1 ∧
        x.cset = 0 ∧ ∀ y ∈ x.elems, y = 0)) ∧
    (¬late → F.comb.find? mine = none → (te.testBit 63 = false ∨ p.input ∉ treeInputs te) →
      ∃ t, run t ∧ Sparse.get 0 (t.fold fold).rregs 0x108 = Sparse.get 0 F.rregs 0x108 + 1 ∧ (t.fold fold).comb = F.comb) ∧
    (¬late → F.comb.find? mine = none → te.testBit 63 = true → p.input ∈ treeInputs te → (∃ i ∈ treeInputs te, i ≠ p.input) → F.comb.length < 64 →
      ∃ t, run t ∧ (t.fold fold).arriving = [] ∧ (t.fold fold).comb = F.comb ++
        [{ tree := hdrTree p.header, group := hdrGroup p.header, seq := hdrSeq p.header, latched := te, due := s.time + F.rtimeout * 1000, packets := [p] }]) ∧
    ∀ (e : CombEntry) (q : RedPacket), ¬late → F.comb.find? mine = some e → e.packets = [q] → e.timedOut = false → q.input ≠ p.input → p.input ∈ treeInputs e.latched →
      (∀ i ∈ treeInputs e.latched, i = q.input ∨ i = p.input) → q.cset &&& p.cset = 0 → hdrOp q.header = 0 → hdrBf q.header = false → (∀ x ∈ q.elems ++ p.elems, x < 2 ^ 32) →
      let lo := if q.input < p.input then q else p
      let hi := if q.input < p.input then p else q
      let sum (r : RedPacket) : Prop := r.cset = q.cset ||| p.cset ∧ ∀ j < 16, r.elems.getD j 0 = (fAdd 23 0 (lo.elems.getD j 0) (hi.elems.getD j 0)).1
      let closed (t : State) : Prop := run t ∧ Sparse.get 0 (t.fold fold).lastSeq e.group = e.seq ∧ ∀ x ∈ (t.fold fold).comb, mine x = false
      (treeParent e.latched = 0 → q.cset ||| p.cset = 2 ^ (hdrNM1 q.header + 1) - 1 → ∃ (t : State) (r : RedPacket), closed t ∧ (t.fold fold).results = F.results ++ [r] ∧ r.input = 32 ∧
        hdrStatus r.header = 0 ∧ hdrSeq r.header = hdrSeq q.header ∧ sum r) ∧
      (treeParent e.latched = 1 → 16 ≤ fold → ∃ (t : State) (r : RedPacket), closed t ∧ (t.fold (fold - 16)).arriving = (s.fold (fold - 16)).arriving ++ [r] ∧ r.input = 19 ∧ sum r) ∧
      (treeParent e.latched = 7 → ∃ (t : State) (x : PushSent), closed t ∧ (t.fold fold).pushed = F.pushed ++ [x] ∧ x.cset = q.cset ||| p.cset ∧
        x.gaddr = Sparse.get 0 F.rregs (0x80 + 8 * e.tree) ∧ x.due = s.time + F.rtimeout * 1000 ∧
        x.port = if s.linkOf (e.latched / 2 ^ 56 % 16) = 3 then some (e.latched / 2 ^ 56 % 16) else none)) ∧
  (∀ (fold tree group seq : Nat) (e : CombEntry) (s : State), let F := s.fold fold
    F.comb.find? (fun e => e.tree == tree && e.group == group && e.seq == seq) = some e → e.due ≤ s.time → treeParent e.latched = 0 →
    let acc := e.packets.foldl (fun c p => c ||| p.cset) 0
    acc ≠ 2 ^ (hdrNM1 (e.packets.headD default).header + 1) - 1 →
    ∃ (t : State) (r : RedPacket), exec (.reductionEntryTimeout fold tree group seq) s = .next t ∧ t.mem = s.mem ∧ (t.fold fold).results = F.results ++ [r] ∧ r.input = 32 ∧ r.cset = acc ∧
      hdrStatus r.header = 1 ∧ (∀ x ∈ r.elems, x = 0) ∧ Sparse.get 0 (t.fold fold).rregs 0x118 = Sparse.get 0 F.rregs 0x118 + 1 ∧
      Sparse.get 0 (t.fold fold).lastSeq e.group = e.seq) ∧
  (∀ (fold key : Nat) (p : RedPacket) (rest : List RedPacket) (l : Slot) (r : Redc) (s : State), (s.fold fold).results = p :: rest → p.input < 16 →
    s.slots.find? (fun e => e.2.live && e.2.resident && e.2.redcs.any (fun r => (r.core == fold * 16 + p.input && r.answeredBy p) && (!r.paid || e.2.inboxRoom))) = some (key, l) →
    l.redcs = [r] → r.paid = false → l.ended = false → hdrStatus p.header < 3 → s.slot key = l → p.late = false → p.cset < 2 ^ (hdrNM1 p.header + 1) →
    let at_ := if r.space = 0 then r.addr else placeKey r.space (key / 16) r.addr
    let paid (t : State) : Prop := exec (.reductionResultArrival fold) s = .next t ∧
      ∀ a, t.byte a = if at_ ≤ a ∧ a < at_ + (payloadBytes p).length then (payloadBytes p).getD (a - at_) 0 else s.byte a
    (l.inboxRoom = false → ∃ t, paid t ∧ (t.slot key).redcs = [{ r with paid := true }] ∧ (t.slot key).inbox = l.inbox ∧ (t.fold fold).results = p :: rest) ∧
    (l.inboxRoom = true → ∃ t, paid t ∧ (t.slot key).redcs = [] ∧
      ∃ x : InEntry, (t.slot key).inbox = l.inbox ++ [x] ∧
        x.val = BitVec.ofNat 128 (hdrSeq p.header + 5 * 2 ^ 16 +
          (match hdrStatus p.header with | 0 => if hdrInvalid p.header then 0x02 else 0x00 | 1 => 0x1C | _ => 0x1D) * 2 ^ 24 +
          ((List.range 64).filter (fun i => p.cset.testBit i)).length * 2 ^ 32 + (2 ^ (hdrNM1 p.header + 1) - 1 - p.cset) * 2 ^ 64))) ∧
  ∀ (fold : Nat) (x : PushSent) (s : State), let F := s.fold fold
    s.pushedAt fold (hdrTree x.header) (hdrGroup x.header) (hdrSeq x.header) = some x →
    (∀ gaddr header cset payload, hdrTree header.toNat = hdrTree x.header → hdrGroup header.toNat = hdrGroup x.header → hdrSeq header.toNat = hdrSeq x.header →
      x.gaddr = gaddr →
      ((∀ q, x.port = some q → s.linkOf q ≠ 3) → exec (.pushModeReturn fold gaddr header cset payload) s = .next s) ∧
      ∀ q, x.port = some q → s.linkOf q = 3 → ∃ (t : State) (r : RedPacket), exec (.pushModeReturn fold gaddr header cset payload) s = .next t ∧ t.mem = s.mem ∧
        (t.fold fold).pushed = F.pushed.erase x ∧ (t.fold fold).results = F.results ++ [r] ∧ r.input = 32 ∧ r.cset = cset.toNat ∧ hdrStatus r.header = hdrStatus header.toNat) ∧
    (x.due ≤ s.time → ∃ (t : State) (r : RedPacket), exec (.pushModeTimeout fold (hdrTree x.header) (hdrGroup x.header) (hdrSeq x.header)) s = .next t ∧ t.mem = s.mem ∧
      (t.fold fold).pushed = F.pushed.erase x ∧ (t.fold fold).results = F.results ++ [r] ∧ r.input = 32 ∧ r.cset = x.cset ∧ hdrStatus r.header = 1 ∧ ∀ y ∈ r.elems, y = 0)

/-- R304 to R312: MAPLD answers BUSY, the first condition of R306 that its map fails, or OK, with the map in its entry; A2AT answers NONE, PART or BUSY, or joins the instance of its entry, which starts with the last participant; a
block moves elements in ascending order to where the map puts them; a participant whose source is read and whose destination is written receives its entry. A map of one participant that swaps its two dimensions transposes. -/
def Obligations.Exchange : Prop :=
  (∀ (f : Fields) (s u : State) (c : Cap) (a : Nat) (bs : List Byte), acts s f →
    let k := s.cur
    let p := s.paddockOf (coreOf k)
    let i := f.md.toNat % 16
    let rq : Req := { op := 0x331, field := 2, opnd := f.a, n := 128, al := 64, ld := true, st := false, spaces := [0, 1] }
    ((s.ctx k).detlvl = 0 ∨ (s.slotOf k).vcore = 0) → capCheck s k rq (s.capOpnd f.a) (offs f) = .ok (c, a) →
    plainLines { rq with n := 64 } c s 2 a { s := s } = .ok ({ s := u, next := .seq }, bs) →
    let m := bytesToNat bs
    let st := mapStatus m (s.gang (s.slotOf k).lid).vcores
    let busy : Prop := ∃ x ∈ (s.drover p).exchanges, x.entry = i
    let answers (t : State) (v : Nat) : Prop := exec (.mapld f) s = .next t ∧ t.mem = u.mem ∧ (t.ctx k).pc = (s.ctx k).advance.pc ∧
      ∀ n, f.d = .c n → n ≠ 0 → (t.ctx k).getC n = word v
    (busy → ∃ t, answers t 8 ∧ (t.drover p).maps = (s.drover p).maps) ∧
    (¬busy → st ≠ 0 → ∃ t, answers t st ∧ (t.drover p).maps = (s.drover p).maps) ∧
    (¬busy → st = 0 → ∃ t, answers t 0 ∧ ∀ j, Sparse.get {} (t.drover p).maps j =
      if j = i then { valid := true, lid := (s.slotOf k).lid, map := BitVec.ofNat 1024 m } else Sparse.get {} (s.drover p).maps j)) ∧
  (∀ (f : Fields) (s : State) (ss sa ds da : Nat), acts s f →
    let k := s.cur
    let p := s.paddockOf (coreOf k)
    let sl := s.slotOf k
    let i := f.md.toNat % 16
    let e := s.mapEntry p i
    let m := if e.valid then e.map.toNat else 0
    let size := if e.valid then mapSize m else 0
    a2Open s 2 f.a = .ok () → a2Open s 3 f.b = .ok () → a2Right s f.a false = .ok () → a2Right s f.b true = .ok () →
    a2Fits s k f.a size (2 ^ mapElog m) = .ok (ss, sa) → a2Fits s k f.b size (2 ^ mapElog m) = .ok (ds, da) →
    let mine : Prop := e.valid = true ∧ e.lid = sl.lid
    let part : Prop := mapVfirst m ≤ sl.vcore ∧ sl.vcore < mapVfirst m + mapN m
    let busy := s.exchanging p sl.lid sl.vcore
    (¬mine → does (.a2at f) s (putC f.d (word 1))) ∧ (mine → ¬part → does (.a2at f) s (putC f.d (word 2))) ∧
    (mine → part → busy = true → does (.a2at f) s (putC f.d (word 3))) ∧
    (mine → part → busy = false → sl.interval + 1 ≤ sl.hurdleInterval + 2 ^ 17 → (isDrain k = true ∨ s.pstOutstanding k = false) →
      (s.core (coreOf k)).ranges.length ≤ 30 → (∀ x ∈ (s.drover p).exchanges, x.entry ≠ i) →
      ∃ t, exec (.a2at f) s = .next t ∧ t.mem = s.mem ∧ (∀ n, f.d = .c n → n ≠ 0 → (t.ctx k).getC n = word 0) ∧ (t.slotOf k).interval = sl.interval + 1 ∧
        Sparse.get 0 (t.slotOf k).a2ats i = Sparse.get 0 sl.a2ats i + 1 ∧
        ∃ x, (t.drover p).exchanges = (s.drover p).exchanges ++ [x] ∧ x.entry = i ∧ x.lid = sl.lid ∧ x.number = Sparse.get 0 sl.a2ats i ∧ (x.started = true ↔ mapN m = 1) ∧
          ∃ y, x.parts = [(sl.vcore, y)] ∧ y.core = coreOf k ∧ y.slot = s.slotNo k ∧ (y.srcSpace, y.src, y.dstSpace, y.dst) = (ss, sa, ds, da) ∧ y.read = 0 ∧ y.written = 0)) ∧
  (∀ (ctx entry v : Nat) (x : ExInst) (s u : State), s.exchangeOf ctx entry v = some x →
    let m := x.map.toNat
    let e := Sparse.get default x.parts v
    let el := 2 ^ mapElog m
    let n := min 65536 (mapSize m - e.read)
    x.status = 0 → n ≠ 0 → s.exchangeRuns x = true → moveElements x v e el ((List.range (n / el)).map (fun i => e.read / el + i)) s = .ok u →
    (s.drover ctx).exchanges = [x] → x.parts = [(v, e)] → mapVfirst m = v → (∀ j, (mapElement m 0 j).1 = 0) →
    ∃ (t : State) (y : ExPart), exec (.exchangeBlock ctx entry v) s = .next t ∧ t.mem = u.mem ∧
      (t.drover ctx).exchanges = [{ x with parts := [(v, y)] }] ∧ y = { e with read := e.read + n, written := e.written + el * (n / el) }) ∧
  (∀ m i0 i1 : Nat, mapRank m = 2 → mapPerm m 0 = 1 → mapPerm m 1 = 0 → m / 2 ^ 264 % 2 ^ 24 = 0 → m / 2 ^ 392 % 2 ^ 24 = 0 → i0 < mapExt m 0 → i1 < mapExt m 1 →
    mapElement m 0 (i0 + mapExt m 0 * i1) = (0, i1 + mapExt m 1 * i0)) ∧
  ∀ (ctx entry v key : Nat) (x : ExInst) (s : State), s.exchangeOf ctx entry v = some x →
    let e := Sparse.get default x.parts v
    x.status = 0 → e.read = mapSize x.map.toNat → e.written = mapSize x.map.toNat → e.delivered = false → s.homeOf x.lid v = some key → (s.slot key).inboxRoom = true →
    (s.slot key).resident = true → (s.slot key).ended = false → (s.engine e.core .copy).frozen = false →
    ∃ (t : State) (z : InEntry), exec (.exchangeDelivery ctx entry v) s = .next t ∧ t.mem = s.mem ∧ (t.slot key).inbox = (s.slot key).inbox ++ [z] ∧
      z.val = BitVec.ofNat 128 ((x.entry + x.number % 2 ^ 12 * 2 ^ 4) % 2 ^ 16 + 4 * 2 ^ 16 + e.written % 2 ^ 32 * 2 ^ 32 + x.detail % 2 ^ 64 * 2 ^ 64) ∧
      (t.slot key).pending = (s.slot key).pending

/-! ### Pipelines (R319 to R345) -/

namespace Sys2Proof.Claims

/-- The stage worker of the context in hand, its slot, its pipeline and the stage that it works for. -/
def seat (s : State) : Nat := s.slotKeyOf s.cur
def worker (s : State) : Worker := (s.slotOf s.cur).work
def myPipe (s : State) : Pipe := s.pipe (worker s).pipe
/-- The launch of a pipeline neither records nor replays (R77, R80). -/
def freely (s : State) (k : Nat) : Prop := (s.gang (s.pipe k).lid).level = 0
/-- Register D of the context reads as `r`, when D names a c register but c0. -/
def gives (t : State) (k : Nat) (o : Opnd) (r : CReg) : Prop := ∀ n, o = .c n → n ≠ 0 → (t.ctx k).getC n = r
/-- The instruction has taken its effect in `z`, the pipeline has settled, and the context goes on. -/
def settles (z t : State) (k cur : Nat) : Prop := (z.settlePipe k).GoesOn t cur ((z.settlePipe k).ctx cur).advance

end Sys2Proof.Claims

/-- R331 to R334, R338: PPOP gives the first waiting worker the stage's next record, and waits while there is none; behind END it gives 0, and with a
record in hand it traps PERM. PPUSH gives the payload of the output slot, PEND ends the record with its output or a hole, PSTATE gives the state slot, and
PSPLICE answers LATE behind END, and else FORM, LATE, FULL or ORDER, the first that applies, or joins the splice to the buffer.
R322 to R328, R335, R338: a START that has passed its checks makes its gang and its stages; a SPLICE packet is submitted or refused; the source admits
a due splice, the next record, or END; the sink writes a record in order; a sample of the Shepherd moves one worker from the emptiest to the fullest.
R259: PPOP and PEND find room in the interval window. That a PSTATE whose length no capability represents gives a free tagged value is this model's choice (log 73). -/
def Obligations.Pipelines : Prop :=
  (∀ (f : Fields) (s : State), acts s f → s.entersTraps →
    let w := worker s
    (w.rcd.isSome = true → traps (.ppop f) s 0x07 0) ∧
    (w.rcd = none → traps (.ppush f) s 0x07 0 ∧ traps (.pend f) s 0x07 0) ∧
    (∀ n y b, w.rcd = some n → (myPipe s).stage w.stage = some y → holdsB s f false b →
      (if w.pushed then (myPipe s).slotSize y.area - 16 < b else b ≠ 0) → traps (.pend f) s 0x06 b)) ∧
  (∀ (f : Fields) (s : State) (y : Stage), acts s f →
    let cur := s.cur
    let w := worker s
    let k := w.pipe
    let x := myPipe s
    w.rcd = none → w.probing = false → w.restart = false → x.stage w.stage = some y →
    (y.ended = true → ∃ t : State, exec (.ppop f) s = .next t ∧ t.mem = s.mem ∧ t.pipes = s.pipes ∧ (t.slotOf cur).work = { w with lastZero := true } ∧
      gives t cur f.d (word 0) ∧ (t.ctx cur).pc = (s.ctx cur).advance.pc) ∧
    (y.ended = false → s.waitNoted.nextData k y = none → ∃ t : State, exec (.ppop f) s = .next t ∧ waits s t ∧ t.pipes = s.pipes) ∧
    (∀ (r : PRec) (o : Nat), y.ended = false → freely s k → s.waitNoted.nextData k y = some r → s.waitNoted.pickSlot k y.area y.next = some o →
      (s.slotOf cur).interval + 1 ≤ (s.slotOf cur).hurdleInterval + 2 ^ 17 → s.waitNoted.firstWaiter k y = some (s.slotOf cur).vcore →
      ∃ t z : State, exec (.ppop f) s = .next t ∧ settles z t k cur ∧ z.mem = s.mem ∧
        (z.slot (seat s)).work = { w with rcd := some r.seq, outSlot := o, pushed := false, lastZero := false } ∧
        (z.slot (seat s)).wid = BitVec.ofNat 64 (x.indexOf y.id * 2 ^ 32 + r.seq % 2 ^ 32) ∧ (z.pipe k).rec? r.seq = some { r with inHand := true } ∧
        (∃ q : Stage, (z.pipe k).stage y.id = some q ∧ q.next = y.next + 1 ∧ q.opened = y.opened ++ [r.seq]) ∧
        gives z cur f.d (mkCap 0 1 (x.slotAt r.area r.ix) (x.slotSize r.area)))) ∧
  (∀ (f : Fields) (s : State) (y : Stage), acts s f →
    let cur := s.cur
    let w := worker s
    let k := w.pipe
    let x := myPipe s
    x.stage w.stage = some y →
    (w.rcd.isSome = true → ∃ t : State, exec (.ppush f) s = .next t ∧ t.mem = s.mem ∧ t.pipes = s.pipes ∧ (t.slotOf cur).work = { w with pushed := true } ∧
      gives t cur f.d (mkCap 0 3 (x.slotAt y.area w.outSlot + 16) (x.slotSize y.area - 16)) ∧ (t.ctx cur).pc = (s.ctx cur).advance.pc) ∧
    (∀ i, y.bound.sslot = some i → representable (64 * sdSl y.bound.desc) = true → does (.pstate f) s (putC f.d (mkCap 0 3 (x.stateAt i) (64 * sdSl y.bound.desc)))) ∧
    (∀ i, y.bound.sslot = some i → representable (64 * sdSl y.bound.desc) = false → ∃ b, does (.pstate f) s (putC f.d ⟨true, b⟩)) ∧
    (y.bound.sslot = none → does (.pstate f) s (putC f.d (word 0))) ∧
    (∀ n b, w.rcd = some n → (x.rec? n).isSome = true → holdsB s f false b → (if w.pushed then b ≤ x.slotSize y.area - 16 else b = 0) → freely s k →
      (s.slotOf cur).interval + 1 ≤ (s.slotOf cur).hurdleInterval + 2 ^ 17 → (isDrain cur = true ∨ s.pstOutstanding cur = false) →
      ∃ (t z : State) (r : PRec) (q : Stage), exec (.pend f) s = .next t ∧ (z.settlePipe k).GoesOn t cur ((z.settlePipe k).ctx cur) ∧
        (z.ctx cur).pc = (s.ctx cur).advance.pc ∧ (z.slot (seat s)).work = { w with rcd := none, pushed := false } ∧
        (z.slot (seat s)).interval = (s.slot (seat s)).interval + 1 ∧ (z.slot (seat s)).wid.toNat % 2 ^ 32 = 0 ∧
        (z.pipe k).stage w.stage = some q ∧ q.opened = y.opened.erase n ∧ (z.pipe k).rec? n = some r ∧ r.inHand = false ∧
        (w.pushed = true → r.kind = 0 ∧ r.len = b ∧ r.area = y.area ∧ r.ix = w.outSlot ∧
          ∀ m, s.walkWrite (k / 4) (x.slotAt y.area w.outSlot) (natToBytes 8 (n % 2 ^ 32 * 2 ^ 32 + b % 2 ^ 16 * 2 ^ 16 + y.epoch % 2 ^ 8 * 2 ^ 8) ++ natToBytes 8 0) = some m →
            x.slotAt y.area w.outSlot % 2 ^ 19 + 16 ≤ 2 ^ 19 → z.mem = m.mem) ∧
        (w.pushed = false → r.kind = 4 ∧ z.mem = s.mem))) ∧
  (∀ (f : Fields) (s u : State) (ps : List (Loc × Nat)), acts s f →
    let cur := s.cur
    let k := (worker s).pipe
    let rq : Req := { op := 0x342, field := 2, opnd := f.a, n := 40, al := 8, ld := true, st := false, spaces := [0, 1] }
    spanAccess cur rq (s.capOpnd f.a) (offs f) s = .ok (u, ps) →
    let p := BitVec.ofNat 320 (bytesToNat (s.spanBytes ps))
    ((Out.spans cur { s := u } ps).next ≠ .seq → ∃ t : State, exec (.psplice f) s = .next t ∧ t.pipe k = s.pipe k) ∧
    ∀ v : State, Out.spans cur { s := u } ps = { s := v, next := .seq } →
    let x := v.pipe k
    let replay : Prop := (s.gang (s.slotOf cur).lid).level ≠ 0
    let ended : Prop := x.endIn = true
    let late : Prop := p.getLsbD 3 = true ∧ p.toNat / 2 ^ 32 % 2 ^ 32 < x.admitted
    let behind : Prop := p.getLsbD 3 = true ∧ ∃ o ∈ x.buffer, o.payload.getLsbD 3 = true ∧ p.toNat / 2 ^ 32 % 2 ^ 32 ≤ o.payload.toNat / 2 ^ 32 % 2 ^ 32
    let answers (st : Nat) : Prop := ∃ t : State, exec (.psplice f) s = .next t ∧ v.GoesOn t cur (putC f.d (word st) (v.ctx cur)).advance
    (replay → p.getLsbD 3 = false → s.entersTraps → traps (.psplice f) s 0x0C (6 * 2 ^ 60 + 0x342)) ∧
    (¬replay ∨ p.getLsbD 3 = true →
      (ended → answers 2) ∧ (¬ended → spWf (pdSslot x.decl) p = false → answers 1) ∧
      (¬ended → spWf (pdSslot x.decl) p = true → late → answers 2) ∧
      (¬ended → spWf (pdSslot x.decl) p = true → ¬late → 4 ≤ x.buffer.length → answers 3) ∧
      (¬ended → spWf (pdSslot x.decl) p = true → ¬late → x.buffer.length < 4 → behind → answers 4) ∧
      (¬ended → spWf (pdSslot x.decl) p = true → ¬late → x.buffer.length < 4 → ¬behind → ∃ t z : State, exec (.psplice f) s = .next t ∧
        z = v.setPipe k { x with buffer := x.buffer ++ [{ payload := p, vcore := some (s.slotOf cur).vcore }] } ∧
        z.GoesOn t cur (putC f.d (word 0) (v.ctx cur)).advance))) ∧
  (∀ (ctx queue : Nat) (s : State), s.begun ctx queue 2 = true →
    let x := (s.head ctx queue).packet
    let k := ctx * 4 + x.toNat / 2 ^ 33 % 4
    (x.getLsbD 32 = false → (s.drover ctx).enclave = false → s.holders ctx (s.head ctx queue) = [] →
      (x.toNat / 2 ^ 128 % 2 ^ 56 % 64 ≠ 0 → exec (.pipeStart ctx queue) s = .next (s.complete ctx queue IMAGE_FORM)) ∧
      ∀ i b d pb js ps tr, s.startHead ctx x = .ok (i, b, d, pb) →
        let u := match s.walkTo ctx pb false with | some pa => s.queueLearns ctx queue (s.droverAcquires pa 64) | none => s
        (u.startStages ctx i d.stages).2 = .ok js →
        let v := (u.startStages ctx i d.stages).1
        v.startRest ctx queue k (((s.qdesc ctx queue).map (·.level)).getD 0) b d js = .ok (ps, tr) →
        ∃ t : State, exec (.pipeStart ctx queue) s = .next t ∧ t.nextLid = v.nextLid + 1 ∧ (t.gang v.nextLid).live = true ∧
          (t.gang v.nextLid).vcores = pbGang b ∧ (t.gang v.nextLid).pipe = some (k % 4) ∧ (t.pipe k).live = true ∧ (t.pipe k).lid = v.nextLid ∧
          (t.pipe k).stages = startChain b d js ∧ (t.pipe k).recs = [] ∧ (t.head ctx queue).phase = 2 ∧ (t.head ctx queue).lid = v.nextLid) ∧
    (x.getLsbD 32 = true →
      let p := BitVec.ofNat 320 (x.toNat / 2 ^ 128)
      let form : Prop := x.toNat / 2 ^ 35 % 2 ^ 29 = 0 ∧ x.toNat / 2 ^ 448 = 0
      let stamped : Prop := (s.gang (s.pipe k).lid).level = 0 ∨ p.getLsbD 3 = true
      (¬form → exec (.pipeSplice ctx queue) s = .next (s.complete ctx queue PACKET_FORM)) ∧
      (form → (s.pipe k).live = false → exec (.pipeSplice ctx queue) s = .next (s.complete ctx queue 0x37)) ∧
      (form → (s.pipe k).live = true → ¬stamped → exec (.pipeSplice ctx queue) s = .next (s.complete ctx queue 0x38)) ∧
      (form → (s.pipe k).live = true → stamped → spWf (pdSslot (s.pipe k).decl) p = false → exec (.pipeSplice ctx queue) s = .next (s.complete ctx queue 0x38)) ∧
      (form → (s.pipe k).live = true → stamped → spWf (pdSslot (s.pipe k).decl) p = true → (s.pipe k).endIn = false → p.getLsbD 3 = false → (s.pipe k).buffer.length < 4 →
        ∃ z : State, exec (.pipeSplice ctx queue) s = .next (z.settlePipe k) ∧ (z.head ctx queue).phase = 2 ∧ z.mem = s.mem ∧
          (z.pipe k).buffer = (s.pipe k).buffer ++ [{ payload := p, queue := some queue }]))) ∧
  (∀ (ctx pipe : Nat) (s : State), s.pipeRuns ctx pipe = true →
    let k := ctx * 4 + pipe
    let x := s.pipe k
    let b := x.block
    let off := x.srcAt * pbSrl b
    let admits (r : PRec) : Prop := ∃ z : State, exec (.sourceAdmit ctx pipe) s = .next (z.settlePipe k) ∧ (z.pipe k).admitted = x.admitted + 1 ∧
      ∃ q : PRec, (z.pipe k).recs = x.recs ++ [q] ∧ q = { r with ix := q.ix } ∧ q.ix ∉ s.areaUsed k 0 ∧ (z.pipe k).endIn = (r.kind == 3) ∧
        (z.pipe k).srcAt = x.srcAt + (if r.kind = 0 then 1 else 0) ∧ (z.pipe k).buffer = if r.kind = 1 then [] else x.buffer
    let clock := (s.queue ctx x.queue).clock
    (x.endIn = true ∨ pdSqcap x.decl ≤ (s.areaUsed k 0).length → exec (.sourceAdmit ctx pipe) s = .next s) ∧
    (x.endIn = false → (s.areaUsed k 0).length < pdSqcap x.decl → (s.pickSlot k 0 x.admitted).isSome = true →
      (x.buffer = [] → off < pbSrclen b → (s.walkRead ctx ((pbSrc b + off) % 2 ^ 56) (min (pbSrl b) (pbSrclen b - off))).isSome = true →
        admits { seq := x.admitted, kind := 0, len := min (pbSrl b) (pbSrclen b - off), clock := clock }) ∧
      (x.buffer = [] → pbSrclen b ≤ off → admits { seq := x.admitted, kind := 3, clock := clock }) ∧
      ∀ sp : Splice, x.buffer = [sp] → sp.payload.getLsbD 3 = false ∨ sp.payload.toNat / 2 ^ 32 % 2 ^ 32 ≤ x.admitted ∨ pbSrclen b ≤ off →
        admits { seq := x.admitted, kind := 1, len := 40, splice := some sp, clock := clock }) ∧
    (∀ (r : PRec) (tail : Nat), x.rec? x.sinkNext = some r → s.walkNat ctx (pbSink b + 8) 8 = some tail →
      let full : Prop := (x.head + 2 ^ 64 - tail) % 2 ^ 64 = 2 ^ pbSinklog b
      let size := 64 * pbSink64 b
      let va := pbSink b + 64 + x.head % 2 ^ pbSinklog b * size
      let bytes := (s.walkGet ctx (x.slotAt r.area r.ix) (16 + r.len) ++ List.replicate size 0).take size
      (full ∨ r.inHand = true ∨ (x.consumer r.seq).isSome = true → exec (.sinkWrite ctx pipe) s = .next s) ∧
      (¬full → r.inHand = false → x.consumer r.seq = none → r.kind ≠ 4 →
        let moved (z : State) : Prop := (z.pipe k).head = x.head + 1 ∧ (z.pipe k).sinkNext = x.sinkNext + 1 ∧
          ((z.pipe k).recs = x.recs.filter (fun q => q.seq != r.seq)) ∧
          ∀ m w : State, 0 < pbSink64 b → va % 2 ^ 19 + size ≤ 2 ^ 19 → s.walkWrite ctx (va % 2 ^ 56) bytes = some m →
            (m.queueLearns ctx x.queue r.clock).droverRelease ctx x.queue (pbSink b) ((x.head + 1) % 2 ^ 64) = some w → z.mem = w.mem
        (r.kind ≠ 3 → ∃ z : State, exec (.sinkWrite ctx pipe) s = .next (z.settlePipe k) ∧ moved z) ∧
        (r.kind = 3 → (s.gang x.lid).live = true → ∃ t : State, exec (.sinkWrite ctx pipe) s = .next t ∧ moved t ∧ (t.pipe k).sunk = true))) ∧
    ((s.gang x.lid).live = true → (s.gang x.lid).suspended = false → freely s k →
      (s.time < x.startedAt + 10000 * (x.sample + 1) → exec (.shepherdSample ctx pipe) s = .next s) ∧
      ∀ (y z : Stage) (v key : Nat), x.startedAt + 10000 * (x.sample + 1) ≤ s.time → x.stages = [y, z] → y.id ≠ z.id → y.gone = none → z.gone = none →
        y.mode = 0 → z.mode = 0 → sdVmin y.bound.desc < (s.workersOf k y).length → (s.workersOf k z).length < sdVmax z.bound.desc →
        x.backlog y * sdQcap y.bound.desc < x.backlog z * pdSqcap x.decl →
        v ∈ s.workersOf k y → (s.workOf k v).moving = false → (∀ w ∈ s.workersOf k y, (s.workOf k w).moving = false → w ≤ v) → s.seatOf x.lid v = some key →
        ∃ t : State, exec (.shepherdSample ctx pipe) s = .next t ∧ t.mem = s.mem ∧ (t.pipe k).sample = x.sample + 1 ∧ (t.slot key).work.restart = true ∧
          (t.pipe k).stages = [{ y with workers := y.workers.erase v }, { z with workers := z.workers ++ [v] }]))

/-! ### Traps and returns, system registers, the ends of items (R110 to R117, R133, R134, R346 to R360, R282) -/

namespace Sys2Proof.Claims

/-- `d` is the context `c` after the steps of trap entry (R348): what is saved, the level that runs, and the handler's address. Nothing else
changes. -/
def entered (c d : Ctx) (l : Slot) (flags cause tval : Nat) : Prop :=
  d.cause = BitVec.ofNat 64 (flags * 2 ^ 62 + cause) ∧ d.tval = BitVec.ofNat 64 tval ∧ d.epc = c.pc.setWidth 64 ∧
    (c.rep = none → d.repst = 0) ∧ (∀ r, c.rep = some r → d.repst = BitVec.ofNat 64 (2 ^ 63 + r.stride % 16 * 2 ^ 59 + r.step % 8 * 2 ^ 56 + r.len % 8 * 2 ^ 53 +
      r.ix % 8 * 2 ^ 50 + (r.count - r.pass) % 2 ^ 24 * 2 ^ 24 + r.pass % 2 ^ 24)) ∧
    d.pregBase = c.regBase ∧ d.pregLimit = c.regLimit ∧
    (∀ i < 64, d.status.getLsbD i =
      if i = 0 then c.status.getLsbD 1 == false || c.status.getLsbD 0 else if i = 1 then c.status.getLsbD 1 && !(c.status.getLsbD 0)
      else if i = 2 then c.status.getLsbD 0 else if i = 3 then c.status.getLsbD 1 else if i = 6 then false else if i = 7 then c.status.getLsbD 6
      else c.status.getLsbD i) ∧
    d.pc = l.tvec.setWidth 56 ∧ d.regBase = l.sregBase ∧ d.regLimit = l.sregLimit.setWidth 57 ∧ d.rep = none ∧ d.inTrap = true ∧
    d.c = c.c ∧ d.g = c.g ∧ d.v = c.v ∧ d.sb = c.sb ∧ d.q = c.q ∧ d.live = c.live ∧ d.frozen = c.frozen

/-- No asynchronous trap and no interrupt is pending. -/
def quiet (l : Slot) : Prop := l.pending = [] ∧ l.intrPreempt = none ∧ l.intrTimer = false ∧ l.intrInbox = false ∧ l.intrMigrate = false

end Sys2Proof.Claims

/-- R346 to R350, R355 to R357: TRAP enters the handler after its effect, BKPT before it; ERET gives back STATUS, the code region and the PC, to a level that
is no higher, and traps BOUNDS where the PC lies outside; UPRET gives back what an upcall saved, and PERM where the entry is not the vcore's; UPRET.LEAVE
ends the upcall alone. The first pending item is taken at a boundary; with TVEC 0 the context freezes instead. TIMER is pending from TIMECMP on.
R110: a core issues from its ready drain context that started first, or else from its first ready hart context behind the last.
This model's choices in it: ERET gives MODE the lower of PMODE and MODE (log 11), a drain context has a PREGION of its own (log 13), and TIMER is pending by level (log 20). -/
def Obligations.TrapsAndReturns : Prop :=
  (∀ (f : Fields) (s : State), acts s f → s.entersTraps →
    (∃ (t : State) (d : Ctx), exec (.trapI f) s = .next t ∧ s.GoesOn t s.cur d ∧
      entered (s.ctx s.cur).advance d (s.slotOf s.cur) 0 0x16 (f.imm.toNat % 2 ^ 16)) ∧
    ∃ (t : State) (d : Ctx), exec (.bkpt f) s = .next t ∧ s.GoesOn t s.cur d ∧ entered (s.ctx s.cur) d (s.slotOf s.cur) 0 0x15 (f.imm.toNat % 2 ^ 16)) ∧
  (∀ (f : Fields) (s : State), acts s f → (s.slotOf s.cur).tvec = 0 → (s.slotOf s.cur).work.probing = false →
    ∃ t : State, exec (.bkpt f) s = .next t ∧ (t.ctx s.cur).frozen = true ∧ (t.ctx s.cur).pc = (s.ctx s.cur).pc ∧ (t.ctx s.cur).epc = (s.ctx s.cur).epc ∧
      t.byvon.freezes = (s.byvon.freezes + 1) % 2 ^ 64) ∧
  (∀ (f : Fields) (s : State), acts s f →
    let c := s.ctx s.cur
    let target := c.epc.toNat % 2 ^ 56
    let inPrior : Prop := c.pregBase.toNat ≤ target ∧ target + 12 ≤ c.pregLimit.toNat
    isDrain s.cur = true ∨ s.pstOutstanding s.cur = false →
    (∀ j e rest, inPrior → c.repst.getLsbD 63 = false → isDrain s.cur = false → c.handling = some (j, e) :: rest →
      ∃ t : State, exec (.eret f) s = .next t ∧ (Sparse.get {} (t.slot j).journal e : JEntry).state = 0 ∧ (t.ctx s.cur).handling = rest ∧
        (t.ctx s.cur).pc = BitVec.ofNat 56 c.epc.toNat) ∧
    (inPrior → c.repst.getLsbD 63 = false → isDrain s.cur = false → (∀ x, c.handling.head? ≠ some (some x)) →
      ∃ (t : State) (d : Ctx), exec (.eret f) s = .next t ∧ s.GoesOn t s.cur d ∧ d.pc = BitVec.ofNat 56 c.epc.toNat ∧ d.regBase = c.pregBase ∧
        d.regLimit = c.pregLimit ∧ d.inTrap = false ∧ d.c = c.c ∧ d.g = c.g ∧ d.v = c.v ∧
        (isService (coreOf s.cur) = false → d.status.toNat % 4 = min (c.status.toNat / 4 % 4) (c.status.toNat % 4)) ∧
        (∀ i < 64, 2 ≤ i → d.status.getLsbD i = if i ≤ 3 then false else if i = 6 then c.status.getLsbD 7 else if i = 7 then true else c.status.getLsbD i)) ∧
    (¬inPrior → s.entersTraps → traps (.eret f) s 0x06 target)) ∧
  (∀ (f : Fields) (s : State) (e : Nat), acts s f → holdsB s f false e →
    let k := s.cur
    let fo := foldOf (coreOf k)
    let en : FaultEntry := Sparse.get {} (s.fold fo).faults e
    let mine : Prop := e ≤ 255 ∧ en.used = true ∧ en.core = coreOf k ∧ en.slot = k % 32 ∧ en.lid = (s.slotOf k).lid ∧ en.vcore = (s.slotOf k).vcore
    (mine → en.repst.getLsbD 63 = false → ∃ t : State, exec (.upret f) s = .next t ∧ t.mem = s.mem ∧ (t.ctx k).pc = en.pc ∧ (t.ctx k).getC 1 = en.c1 ∧
      (t.ctx k).getC 2 = en.c2 ∧ (t.ctx k).getC 3 = en.c3 ∧ (t.ctx k).repst = en.repst ∧ (t.ctx k).status.getLsbD 26 = false ∧
      (Sparse.get {} (t.fold fo).faults e : FaultEntry).used = false ∧ ∀ n : BitVec 6, 3 < n.toNat → (t.ctx k).getC n = (s.ctx k).getC n) ∧
    (¬mine → s.entersTraps → traps (.upret f) s 0x07 e)) ∧
  (∀ (f : Fields) (s : State), acts s f → does (.upretLeave f) s (fun c => { c with status := c.status &&& ~~~(BitVec.ofNat 64 (2 ^ 26)) })) ∧
  (∀ (core slot : Nat) (s : State), slot < 16 →
    let k := hartKey core slot
    let key := slotKey core slot
    let l := s.slot key
    (s.ctx k).ie = true → s.mayIssue k = true →
    let takes (flags cause tval : Nat) (refused : Option (Nat × Nat)) (l' : Slot) : Prop := l.tvec ≠ 0 → ∃ (t : State) (d : Ctx),
      exec (.takePending core slot) s = .next t ∧ t.mem = s.mem ∧ t.ctx k = d ∧ entered (s.ctx k) d l flags cause tval ∧
        d.handling = refused :: (s.ctx k).handling ∧ t.slot key = l'
    (∀ p, l.pending = [p] → takes 2 p.cause p.tval (if p.cause = 0x10 then some (p.origin, p.tval % 16) else none) { l with pending := [] }) ∧
    (l.pending = [] → ∀ v, l.intrPreempt = some v → takes 1 0x17 v none { l with intrPreempt := none }) ∧
    (l.pending = [] → l.intrPreempt = none → l.intrTimer = true → takes 1 0x18 s.time none { l with intrTimer := false }) ∧
    (l.pending = [] → l.intrPreempt = none → l.intrTimer = false → l.intrInbox = true → takes 1 0x19 l.inbox.length none { l with intrInbox := false }) ∧
    (l.pending = [] → l.intrPreempt = none → l.intrTimer = false → l.intrInbox = false → l.intrMigrate = true →
      takes 1 0x1A (s.pageReg (s.paddockOf core) 0x270) none { l with intrMigrate := false }) ∧
    (l.tvec = 0 → l.anyPending = true → ∃ t : State, exec (.takePending core slot) s = .next t ∧ (t.ctx k).frozen = true ∧ (t.ctx k).pc = (s.ctx k).pc ∧
      (t.slot key).pending = l.pending)) ∧
  (∀ (core slot : Nat) (s : State), let key := slotKey core slot
    let l := s.slot key
    exec (.timer core slot) s = .next (if l.ien.getLsbD 0 = true ∧ l.timerDone = false ∧ l.timecmp.toNat ≤ s.time then
      s.setSlot key { l with intrTimer := true, timerDone := true } else s)) ∧
  ∀ (core : Nat) (s : State), s.serving = true → s.latch = none →
    let last := (s.core core).lastSlot
    let issues (k : Nat) : Prop :=
      (s.takesPending k = true → exec (.issueChoice core) s = .next { s with cur := k, latch := some (.takePending core (k % 32)) }) ∧
      ∀ i, s.takesPending k = false → (isDrain k = true ∨ (s.slotOf k).relocks = none) → ({ s with cur := k } : State).nextInstr k = .ok i → exec (.issueChoice core) s = .next { s with cur := k, latch := some i }
    (∀ d < 4, s.ready (drainKey core d) = true →
      (∀ e < 4, e ≠ d → s.ready (drainKey core e) = true → (s.ctx (drainKey core d)).started < (s.ctx (drainKey core e)).started) → issues (drainKey core d)) ∧
    (∀ n < 16, (∀ d < 4, s.ready (drainKey core d) = false) → s.ready (hartKey core ((last + 1 + n) % 16)) = true →
      (∀ m < n, s.ready (hartKey core ((last + 1 + m) % 16)) = false) → issues (hartKey core ((last + 1 + n) % 16))) ∧
    ((∀ d < 4, s.ready (drainKey core d) = false) → (∀ j < 16, s.ready (hartKey core j) = false) →
      ∃ t : State, exec (.issueChoice core) s = .next t ∧ t.latch = none ∧ t.mem = s.mem ∧ t.slots = s.slots ∧
        ∀ k, coreOf k = core → (t.ctx k).hold = (s.ctx k).hold - 1 ∧ (t.ctx k).pc = (s.ctx k).pc)

/-- R358 to R360, R111 to R117: SYSRD gives what the register holds, SYSWR changes the bits that may be written: User changes FFLAGS alone, and no write gives level 3; WFI ends
with an item pending or when its time has passed, and waits otherwise; PREQ tells once that the vcore was resumed. R133, R134, R33, R34: END waits for the
scoreboard counters and ends the item; TAIL registers a child with OK, and answers TAIL_SECOND, LEADER or PIPE otherwise, with its guard all ones or zero. R282: WUPD answers 1 while a
row is locked, and otherwise writes it; a trap leaves the tensor, D and the guard unchanged. This model's choices in it: a 1 written to RNGWRAP while it is 0 sets nothing (log 97), and the
bits of ENGCAP that the policy of the device allows (log 24). -/
def Obligations.SystemRegistersAndEnds : Prop :=
  (∀ (f : Fields) (s : State), acts s f →
    let c := s.ctx s.cur
    let l := s.slotOf s.cur
    let n := f.imm.toNat % 2 ^ 12
    let gets (r : Nat) (x : CReg) : Prop := n = r → does (.sysrd f) s (putC f.d x)
    gets 0x000 (word c.status.toNat) ∧ gets 0x001 (word c.cause.toNat) ∧ gets 0x002 (word c.epc.toNat) ∧ gets 0x003 (word c.tval.toNat) ∧
      gets 0x004 (word l.uvec.toNat) ∧ gets 0x005 (word l.tvec.toNat) ∧ gets 0x006 (word c.repst.toNat) ∧ gets 0x010 (word l.engcap.toNat) ∧
      gets 0x011 (word l.tbase.toNat) ∧ gets 0x012 (word l.tlimit.toNat) ∧ gets 0x020 (word s.time) ∧ gets 0x030 (word l.wid.toNat) ∧
      gets 0x031 (word (l.vcore % 2 ^ 12)) ∧ gets 0x040 (word l.seed.toNat) ∧ gets 0x041 (word l.rngctl.toNat) ∧ gets 0x042 (word l.sealmask.toNat) ∧
      gets 0x050 (word (s.drover (s.paddockOf (coreOf s.cur))).sampcfg.toNat) ∧
      (n = 0x060 → ∃ g : CReg, does (.sysrd f) s (putC f.d g) ∧ g.tag = true ∧
        g.cap = { base := 0, off := 0, lenM := 512, lenE := 47, perm := 0x1F, space := 0, otype := 0 }) ∧
      (n = 0x061 → ∃ g : CReg, does (.sysrd f) s (putC f.d g) ∧ g.tag = true ∧
        g.cap = { base := 0, off := 0, lenM := 512, lenE := 47, perm := 0x33, space := 6, otype := 0 }) ∧
      (isDrain s.cur = false → gets 0x032 (word (s.cur % 32 % 2 ^ 4)))) ∧
  (∀ (f : Fields) (s : State) (x : Nat), acts s f → holds s f.a x → x < 2 ^ 64 →
    let k := s.cur
    let n := f.imm.toNat % 2 ^ 12
    let c := s.ctx k
    let mask (m : Nat) : Word64 := BitVec.ofNat 64 x &&& BitVec.ofNat 64 m
    (n = 0x000 → isDrain k = false → does (.syswr f) s (fun c => { c with
        status :=
          let m : Word64 := BitVec.ofNat 64 (0x3E00000 + (if c.mode = 0 then 0 else 0xC0 + (if x / 4 % 4 = 3 then 0 else 0xC)))
          (c.status &&& ~~~m) ||| (BitVec.ofNat 64 x &&& m)
        inTrap := if c.mode ≠ 0 ∧ x.testBit 6 = true then false else c.inTrap })) ∧
    (n = 0x001 → does (.syswr f) s (fun c => { c with cause := mask 0xC0000000000000FF })) ∧
    (n = 0x002 → does (.syswr f) s (fun c => { c with epc := mask (2 ^ 56 - 1) })) ∧
    (n = 0x003 → does (.syswr f) s (fun c => { c with tval := BitVec.ofNat 64 x })) ∧
    (n = 0x006 → does (.syswr f) s (fun c => { c with repst := mask 0xFFFCFFFFFFFFFFFF })) ∧
    (let slot (g : Slot → Slot) : Prop := ∃ t : State, exec (.syswr f) s = .next t ∧ t.slotOf k = g (s.slotOf k) ∧ t.mem = s.mem ∧ (t.ctx k).pc = c.advance.pc ∧ (t.ctx k).c = c.c
     (n = 0x004 → slot (fun l => { l with uvec := mask (2 ^ 56 - 4) })) ∧
     (n = 0x005 → slot (fun l => { l with tvec := mask (2 ^ 56 - 4) })) ∧
     (n = 0x010 → slot (fun l => { l with
        engcap := BitVec.ofNat 64 x &&& BitVec.ofNat 64 0x00077F7F &&& (BitVec.ofNat 64 (if s.device.state = 1 then 0x00013F3F else 0x00073F3F) ||| l.engcap) })) ∧
     (n = 0x011 → slot (fun l => { l with tbase := mask (2 ^ 56 - 1) })) ∧
     (n = 0x012 → slot (fun l => { l with tlimit := mask (2 ^ 56 - 1) })) ∧
     (n = 0x040 → slot (fun l => { l with seed := BitVec.ofNat 64 x })) ∧
     (n = 0x041 → slot (fun l => { l with rngctl := BitVec.ofNat 64 x &&& (2 ||| (l.rngctl &&& 1)) })) ∧
     (n = 0x042 → slot (fun l => { l with sealmask := mask 0xFFFEFFFE }))) ∧
    (n = 0x020 → ∃ t : State, exec (.syswr f) s = .next t ∧ t.time = max s.time x ∧ t.mem = s.mem) ∧
    (n = 0x050 → ∃ t : State, exec (.syswr f) s = .next t ∧ t.mem = s.mem ∧ t.slots = s.slots ∧
      let d := (t.drover (s.paddockOf (coreOf k))).sampcfg.toNat
      let shift := x / 2 ^ 8 % 2 ^ 5
      d = d / 2 ^ 16 % 4 * 2 ^ 16 + d / 2 ^ 8 % 2 ^ 5 * 2 ^ 8 + d % 2 ∧ d / 2 ^ 16 % 4 = x / 2 ^ 16 % 4 ∧ d % 2 = x % 2 ∧
        d / 2 ^ 8 % 2 ^ 5 = if 6 ≤ shift ∧ shift ≤ 20 then shift else (s.drover (s.paddockOf (coreOf k))).sampcfg.toNat / 2 ^ 8 % 2 ^ 5)) ∧
  (∀ (f : Fields) (s : State), acts s f →
    (∀ b, holdsB s f false b → ((s.slotOf s.cur).anyPending = true ∨ (b ≠ 0 ∧ ∃ t0, (s.ctx s.cur).waitFrom = some t0 ∧ t0 + b ≤ s.time)) → does (.wfi f) s id) ∧
    (∀ b, holdsB s f false b → quiet (s.slotOf s.cur) → (b = 0 ∨ (∀ t0, (s.ctx s.cur).waitFrom = some t0 → s.time < t0 + b) ∧ b ≠ 0) →
      ∃ t : State, exec (.wfi f) s = .next t ∧ waits s t ∧ (t.ctx s.cur).waitFrom = some ((s.ctx s.cur).waitFrom.getD s.time)) ∧
    ∃ t : State, exec (.preq f) s = .next t ∧ (t.slotOf s.cur).resumed = false ∧ t.mem = s.mem ∧ (t.ctx s.cur).pc = (s.ctx s.cur).advance.pc ∧
      ∀ n, f.d = .g n → n ≠ 0 → (t.ctx s.cur).getG n = if (s.slotOf s.cur).resumed then BitVec.allOnes 64 else 0) ∧
  (∀ (core slot : Nat) (f : Fields) (s : State) (b t0 : Nat), slot < 16 → s.cur = hartKey core slot →
    s.waitingAt s.cur = some (.wfi f) → holdsB s f false b → b ≠ 0 → (s.ctx s.cur).waitFrom = some t0 →
    (t0 + b ≤ s.time → ∃ t : State, exec (.wfiTimeout core slot) s = .next t ∧ s.Did t id) ∧
    (s.time < t0 + b → exec (.wfiTimeout core slot) s = .next s)) ∧
  (∀ (f : Fields) (s : State), acts s f →
    let k := s.cur
    let key := s.slotKeyOf k
    let l := s.slotOf k
    let g := s.gang l.lid
    ((∃ e ∈ (s.ctx k).sb, e.2 ≠ 0) → ∃ t : State, exec (.endItem f) s = .next t ∧ waits s t ∧ t.slots = s.slots) ∧
    ((∀ e ∈ (s.ctx k).sb, e.2 = 0) → l.worker = true → l.work.lastZero = false → s.entersTraps → traps (.endItem f) s 0x07 0) ∧
    ((∀ e ∈ (s.ctx k).sb, e.2 = 0) → l.worker = false → g.level = 0 → g.hurdles = [] → hartOfSlot key = k → (s.ctx k).frozen = false →
      g.itemOf l.wid.toNat + 1 < g.items →
      (∀ j, (s.slot (slotKey (key / 16) j)).startDue = false) →
      ∃ t : State, exec (.endItem f) s = .next t ∧ (t.slot key).wid = BitVec.ofNat 64 (g.itemWid l.vcore (g.itemOf l.wid.toNat + 1)) ∧
        (t.slot key).startDue = false ∧ (t.ctx k).pc = BitVec.ofNat 56 l.prog.entry ∧ (t.ctx k).live = true ∧ (t.ctx k).v = [] ∧ (t.ctx k).g = [] ∧ t.mem = s.mem) ∧
    ((∀ e ∈ (s.ctx k).sb, e.2 = 0) → l.worker = false → g.level = 0 → g.hurdles = [] → hartOfSlot key = k → g.items ≤ g.itemOf l.wid.toNat + 1 →
      (∀ j, (s.slot (slotKey (key / 16) j)).startDue = false) → s.engineIdle (key / 16) (key % 16) = false →
      ∃ t : State, exec (.endItem f) s = .next t ∧ (t.slot key).ended = true ∧ (t.ctx k).live = false ∧ (t.slot key).live = l.live ∧ t.mem = s.mem)) ∧
  (∀ (f : Fields) (s u : State) (ps : List (Loc × Nat)), acts s f →
    let k := s.cur
    let l := s.slotOf k
    let g := s.gang l.lid
    let rq : Req := { op := 0x0C8, field := 2, opnd := f.a, n := 48, al := 16, ld := true, st := false, spaces := [0, 1, 5] }
    spanAccess k rq (s.capOpnd f.a) (offs f) s = .ok (u, ps) →
    ((Out.spans k { s := u } ps).next ≠ .seq → ∃ t : State, exec (.tail f) s = .next t ∧ (t.head g.ctx g.queue).tail = (s.head g.ctx g.queue).tail) ∧
    ∀ v : State, Out.spans k { s := u } ps = { s := v, next := .seq } →
    let answers (st : Nat) : Prop := ∃ t : State, exec (.tail f) s = .next t ∧ t.mem = v.mem ∧ gives t k f.d (word st) ∧ (t.ctx k).pc = (v.ctx k).advance.pc ∧
      (f.gidx ≠ 0 → (t.ctx k).getG f.gidx = if st = 0 then BitVec.allOnes 64 else 0) ∧
      ((t.head g.ctx g.queue).tail = if st = 0 then some (BitVec.ofNat 384 (bytesToNat (s.spanBytes ps))) else (v.head g.ctx g.queue).tail)
    (l.worker = true → answers 3) ∧
    (l.worker = false → g.level ≠ 0 → l.vcore ≠ 0 → answers 2) ∧
    (l.worker = false → (g.level = 0 ∨ l.vcore = 0) → (s.head g.ctx g.queue).tail.isSome = true → answers 1) ∧
    (l.worker = false → (g.level = 0 ∨ l.vcore = 0) → (s.head g.ctx g.queue).tail = none → answers 0)) ∧
  ∀ (f : Fields) (s : State) (row : Nat), acts s f → holdsB s f false row →
    let k := s.cur
    let t := (s.slotOf k).tensor (f.md.toNat % 64)
    let x := (s.ctx k).lanes32 (opndNum f.a) t.cols
    let places := rowStores t 0 row (List.replicate t.cols 0)
    let locked : Prop := ∃ w ∈ places, ∃ h ∈ s.heldLocks (s.paddockOf (coreOf k)), regionKey t.space (coreOf k) w.1 < h.hi ∧ h.lo < regionKey t.space (coreOf k) w.1 + w.2.length
    let may : Prop := t.kind ≠ 0 ∧ t.weight = true ∧ (t.space = 0 ∨ t.space = 2)
    (¬may → s.entersTraps → traps (.wupd f) s 0x07 (f.md.toNat % 64)) ∧
    (may → t.rows ≤ row → s.entersTraps → traps (.wupd f) s 0x06 row) ∧
    (may → row < t.rows → opndNum f.a + (t.cols + 15) / 16 ≤ 32 → locked → ∃ u : State, exec (.wupd f) s = .next u ∧ u.mem = s.mem ∧ gives u k f.d (word 1) ∧
      (f.gidx ≠ 0 → (u.ctx k).getG f.gidx = 0) ∧ (u.ctx k).pc = (s.ctx k).advance.pc) ∧
    (may → row < t.rows → opndNum f.a + (t.cols + 15) / 16 ≤ 32 → ¬locked → ∀ s0 sl ss u ls,
      s.demitScales k 0x2A0 t 0 row (f.md.getLsbD 6) = .ok (s0, sl, ss) →
      let vs := List.zipWith (fun x y => demitConv t (if f.md.toNat / 2 ^ 7 % 16 = 8 then fval 23 x else intVal (BitVec.ofNat 32 x).toInt) y) x ss
      let out := rowStores t 0 row (vs.map (·.1))
      wupdPlaces k t.space s (out.flatMap (fun w => linePieces w.1 w.2.length)) s0 = .ok (u, ls) →
      ((∃ x ∈ sl, u.poisoned x t.scaleBytes = true) → s.entersTraps → ∃ z : State, exec (.wupd f) s = .next z ∧ z.mem = u.mem ∧ (z.ctx k).c = (s.ctx k).c ∧
        (z.ctx k).g = (s.ctx k).g ∧ (z.ctx k).cause = 0x12) ∧
      ((∀ x ∈ sl, u.poisoned x t.scaleBytes = false) → ∃ z : State, exec (.wupd f) s = .next z ∧ z.mem = (putRow ls (out.flatMap (·.2)) u).mem ∧ gives z k f.d (word 0) ∧
        (f.gidx ≠ 0 → (z.ctx k).getG f.gidx = BitVec.allOnes 64)))

/-! ### Contexts of slots, swapping, suspension (R75, R361 to R368) -/

/-- R361 to R363: CTXSAVE and CTXLOAD trap BOUNDS for a slot that the core has not; CTXSAVE answers SELF or EMPTY, waits until the slot has stopped, and then writes its
record and detaches it; CTXLOAD answers VERSION, GEOMETRY, OCCUPIED or ALLOT, the first that applies, or makes the vcore live again as the record says.
R364 to R368: the Crook saves a gang whose slots have all stopped, and its slots are free; a resumption restores a vcore from its record, or ends the gang.
R74: a resumption waits for its slot; a record that CTXLOAD cannot place is kept to be re-placed. R75: with k 8 or 16 a ready slot is swapped in for one that waits, or for the one that has been resident longest, after 20 µs. R58, R368: repair lowers an OFFER.
This model's choices in it: which vcores start out of residence (log 66), the gang ABORTED where its record cannot be read or does not fit (log 69), the order of waiting for slots and the record
kept to re-place (logs 70, 71), and a CTXSAVE that keeps its stop while it waits (log 72). -/
def Obligations.ContextsAndSuspension : Prop :=
  (∀ (f : Fields) (s : State) (b : Nat), acts s f → holds s f.b b → s.kPer ≤ b → s.entersTraps →
    traps (.ctxsave f) s 0x06 b ∧ traps (.ctxload f) s 0x06 b) ∧
  (∀ (f : Fields) (s u : State) (b : Nat) (l : Loc), acts s f → holds s f.b b → b < s.kPer → recordAccess 0x386 f true s = .ok (u, [(l, 16384)]) →
    let k := s.cur
    let key := coreOf k * 16 + b
    let v := u.modSlot key (fun x => { x with stopping := true })
    let answers (st : Nat) : Prop := ∃ t : State, exec (.ctxsave f) s = .next t ∧ t.mem = s.mem ∧ t.slots = s.slots ∧ gives t k f.d (word st) ∧
      (t.ctx k).pc = (s.ctx k).advance.pc
    (b = s.slotNo k → answers 2) ∧
    (b ≠ s.slotNo k → (s.slot key).live = false → answers 3) ∧
    (b ≠ s.slotNo k → (s.slot key).live = true → v.slotStopped key = false → ∃ t : State, exec (.ctxsave f) s = .next t ∧ waits s t ∧
      t.slot key = { s.slot key with stopping := true }) ∧
    (b ≠ s.slotNo k → (s.slot key).live = true → v.slotStopped key = true → (isDrain k = true ∨ s.pstOutstanding k = false) → notSampled s →
      ∃ t : State, exec (.ctxsave f) s = .next t ∧ gives t k f.d (word 0) ∧ (t.slot key).detached = true ∧ (t.slot key).live = false ∧
        (t.slot key).lid = (s.slot key).lid ∧ (t.slot key).vcore = (s.slot key).vcore ∧ (t.ctx (hartOfSlot key)).live = false ∧
        (∀ i < 24, t.byte (l.key + i) = (natToBytes 8 (0x44564358 + 2 ^ 32 + key % 16 * 2 ^ 36 + (s.ctx (hartOfSlot key)).allot % 2 ^ 8 * 2 ^ 40 + 2 * 2 ^ 48 +
            (((s.slot key).coll.map (·.op)).getD 0) % 8 * 2 ^ 52) ++ natToBytes 8 (s.ctx (hartOfSlot key)).pc.toNat ++
            natToBytes 8 (s.ctx (hartOfSlot key)).status.toNat).getD i 0) ∧
        ∀ a, (a < l.key ∨ l.key + 16384 ≤ a) → t.byte a = u.byte a)) ∧
  (∀ (f : Fields) (s u : State) (b : Nat) (l : Loc), acts s f → holds s f.b b → b < s.kPer → recordAccess 0x387 f false s = .ok (u, [(l, 16384)]) →
    let k := s.cur
    let core := coreOf k
    let key := core * 16 + b
    let r := s.bytesAt l.key 16384
    let v := u.noteAccess k l 0
    v.poisoned l 16384 = false →
    let answers (st : Nat) : Prop := ∃ t : State, exec (.ctxload f) s = .next t ∧ t.mem = v.mem ∧ t.slots = v.slots ∧ gives t k f.d (word st) ∧
      (t.ctx k).pc = (v.ctx k).advance.pc
    let saved := s.savedVcore (s.paddockOf core) r
    (saved = none ∨ recordForm r = false → answers 5) ∧
    ∀ from? x c, saved = some (from?, x, c) → recordForm r = true →
      let occupied : Prop := ((s.slot key).live = true ∨ (s.slot key).detached = true) ∧ from? ≠ some key
      (recordSlot r ≠ b → answers 6) ∧
      (recordSlot r = b → occupied → answers 4) ∧
      (recordSlot r = b → ¬occupied → (s.core core).offer < recordAllot r →
        let w := v.acquired k ((s.syncWith k 4 (s.countedAt l.key 16384)).map (gain 4 l.key 16384))
        ∃ t : State, exec (.ctxload f) s = .next t ∧ t.mem = v.mem ∧ gives t k f.d (word 1) ∧ (t.ctx k).pc = (v.ctx k).advance.pc ∧
          ∀ j, w.seatOf x.lid x.vcore = some j → (t.slot j).refit = some r) ∧
      (recordSlot r = b → from? = some key → recordAllot r ≤ (s.core core).offer → x.exitAt = none → x.workKept = [] → x.forks = [] → x.ended = false →
        x.startDue = false → hartOfSlot key ≠ k → b < 16 → s.kPer ≤ 4 → (∀ i < 8, recDw r (0x108 + 16 * i) % 2 ^ 57 = 0) →
        ∃ t : State, exec (.ctxload f) s = .next t ∧ gives t k f.d (word 0) ∧ (t.slot key).live = true ∧ (t.slot key).detached = false ∧
          (t.slot key).resumed = true ∧ (t.slot key).wid = BitVec.ofNat 64 (recDw r 0x48) ∧ (t.ctx (hartOfSlot key)).live = true ∧
          (t.ctx (hartOfSlot key)).pc = BitVec.ofNat 56 (recDw r 8) ∧ (t.ctx (hartOfSlot key)).getG 1 = BitVec.ofNat 64 (recDw r 0x608))) ∧
  (∀ (ctx queue : Nat) (s : State),
    let h := s.head ctx queue
    let keys := (s.slots.filter (fun x => x.2.live && x.2.lid == h.lid)).map (·.1)
    (h.phase ≠ 4 ∨ (∃ key ∈ keys, s.slotStopped key = false) → exec (.crookSave ctx queue) s = .next s) ∧
    (∀ e, s.serving = true → h.phase = 4 → (s.gang h.lid).live = true → (∀ key ∈ keys, s.slotStopped key = true) → (s.gang h.lid).endWith = some e →
      (s.owesEntries h.lid = true → exec (.crookSave ctx queue) s = .next s) ∧
      (s.owesEntries h.lid = false → ∃ t : State, exec (.crookSave ctx queue) s = .next t ∧ (t.gang h.lid).live = false)) ∧
    ∀ key, s.serving = true → h.phase = 4 → (s.gang h.lid).live = true → keys = [key] → (s.slot key).lid = h.lid → s.slotStopped key = true →
      (s.gang h.lid).endWith = none → h.stopper = none → h.holding = false →
      ∃ (t : State) (x : Parked), exec (.crookSave ctx queue) s = .next t ∧ (t.gang h.lid).suspended = true ∧ (t.head ctx queue).phase = 3 ∧
        (t.head ctx queue).reserving = some s.time ∧ (t.slot key).live = false ∧ (t.ctx (hartOfSlot key)).live = false ∧
        t.parkedOf h.lid (s.slot key).vcore = some x ∧ x.key = key ∧ x.ctx = s.ctx (hartOfSlot key) ∧ x.slot.lid = h.lid) ∧
  (∀ (ctx queue i : Nat) (p : Parked) (s : State),
    let h := s.head ctx queue
    let pr := p.slot.prog
    let base := s.pageReg ctx (0x300 + 8 * queue) + i % 2 ^ 12 * (s.pageReg ctx 0x2C0 % 2 ^ 32)
    let bs := s.walkRead ctx (base % 2 ^ 56) (0x6000 + pr.fpW + pr.fpA + pr.fpY + pr.fpL)
    s.serving = true → h.phase = 6 → (s.gang h.lid).live = true → (s.gang h.lid).suspended = true → s.parked.filter (fun x => x.1 / 2 ^ 12 == h.lid) = [(i, p)] →
    (bs = none → exec (.gangResume ctx queue) s = .next (s.killGang h.lid ABORTED)) ∧
    ∀ r, bs = some r →
      let fits : Prop := recordForm r = true ∧ recDw r 0xE8 = h.lid ∧ recDw r 0x88 = i % 2 ^ 12 ∧ recordSlot r = p.key % 16
      (¬fits → exec (.gangResume ctx queue) s = .next (s.killGang h.lid ABORTED)) ∧
      (fits → recordAllot r ≤ (s.core (p.key / 16)).offer → ((s.slot p.key).live = true ∨ (s.slot p.key).detached = true) →
        exec (.gangResume ctx queue) s = .next (s.modHead ctx queue (fun x => { x with phase := 3 }))) ∧
      (fits → recordAllot r ≤ (s.core (p.key / 16)).offer → (s.slot p.key).live = false → (s.slot p.key).detached = false → commandsOf r (p.key % 16) 0 p.slot.known.clock p.slot.workKept = [] → p.slot.exitAt = none →
        p.slot.forks = [] → p.slot.ended = false → p.slot.startDue = false → (∀ i < 8, recDw r (0x108 + 16 * i) % 2 ^ 57 = 0) → s.kPer ≤ 4 → (s.gang h.lid).pipe = none →
        i = parkKey h.lid (i % 2 ^ 12) →
        ∃ t : State, exec (.gangResume ctx queue) s = .next t ∧ (t.gang h.lid).suspended = false ∧ (t.head ctx queue).phase = 2 ∧ (t.slot p.key).live = true ∧
          (t.slot p.key).lid = p.slot.lid ∧ (t.slot p.key).vcore = p.slot.vcore ∧ (t.slot p.key).resumed = true ∧
          (t.ctx (hartOfSlot p.key)).pc = BitVec.ofNat 56 (recDw r 8) ∧ t.parkedOf h.lid (i % 2 ^ 12) = none)) ∧
  (∀ (core key : Nat) (s : State), s.serving = true → isService core = false →
    let residents := s.slotsOf core (fun _ l => l.resident)
    let freely (key : Nat) : Prop := (s.gang (s.slot key).lid).level = 0
    (s.kPer < 8 → exec (.slotSwap core) s = .next s ∧ exec (.swapQuantumExpiry core) s = .next s) ∧
    (8 ≤ s.kPer → s.nextIn core = none → (∀ j ∈ residents, freely j) → exec (.slotSwap core) s = .next s ∧ exec (.swapQuantumExpiry core) s = .next s) ∧
    (8 ≤ s.kPer → s.nextIn core = some key → freely key →
      (residents.length < 4 → ∃ t : State, exec (.slotSwap core) s = .next t ∧ (t.slot key).resident = true ∧ ∀ j, j ≠ key → t.slot j = s.slot j) ∧
      (∀ v, 4 ≤ residents.length → v ≠ key → freely v → s.slotsOf core (fun j l => l.resident && s.waits j) = [v] →
        ∃ t : State, exec (.slotSwap core) s = .next t ∧ (t.slot key).resident = true ∧ (t.slot v).resident = false ∧ ∀ j, j ≠ key → j ≠ v → t.slot j = s.slot j) ∧
      (∀ v, 4 ≤ residents.length → v ≠ key → freely v → s.slotsOf core (fun _ l => l.resident && decide (l.residentSince + 20000 ≤ s.time)) = [v] →
        ∃ t : State, exec (.swapQuantumExpiry core) s = .next t ∧ (t.slot key).resident = true ∧ (t.slot v).resident = false ∧
          ∀ j, j ≠ key → j ≠ v → t.slot j = s.slot j))) ∧
  ∀ (core offer : Nat) (s : State), exec (.coreRepair core offer) s = .next
    (if core < Config.cores ∧ offer % 4 = 0 ∧ 48 ≤ offer ∧ offer ≤ (s.core core).offer then s.modCore core (fun c => { c with offer := offer }) else s)

/-! ### The Drover: queues, packets and registers (R58 to R71, R302, R367 to R369, R389, R396) -/

/-- R63: a head that completes writes its completion word, with the low half of TIME, V, and what its tail launches left, then RDIDX, raises its interrupt when its packet asks for
it, and is the head no more. R58, R60, R68, R69, R369, R389: a doorbell that keeps the rules of R60 gives WRIDX, and any other sets DBERR; a decision gives its turn to a ready
queue, by its tickets; QERR, LOTSEED, ABORT and QCLEAR act as their bits say, and a head that has waited 100 µs is reserving. R396: what plain registers hold after a write. -/
def Obligations.DroverQueues : Prop :=
  (∀ (p q st : Nat) (d : QDesc) (m : State) (s : State), s.qdesc p q = some d →
    let h := s.head p q
    s.droverRelease p q ((d.ring + 64 * (d.rdidx % 2 ^ d.logn) + 8) % 2 ^ 56)
      (s.time % 2 ^ 32 * 2 ^ 32 + 2 ^ 24 + min h.ntail 255 * 2 ^ 16 + h.tstatus % 2 ^ 8 * 2 ^ 8 + st % 2 ^ 8) = some m →
    let t := s.complete p q st
    t.mem = (m.putDesc p q 8 4 ((d.rdidx + 1) % 2 ^ 32)).mem ∧ (t.head p q).phase = 0 ∧ (t.head p q).lid = 0 ∧
      (let v := s.bellPort p q * 2048 + d.msix
       Sparse.get 0 t.device.msix v = Sparse.get 0 s.device.msix v + (if h.packet.getLsbD 8 ∧ d.msix ≤ 2047 then 1 else 0))) ∧
  (∀ (ctx queue : Nat) (value : BitVec 32) (s : State),
    ((s.serving = false ∨ s.ctxActive ctx = false ∨ 64 ≤ queue) → exec (.doorbell ctx queue value) s = .next s) ∧
    (s.serving = true → s.ctxActive ctx = true → queue < 64 →
      let w := value.toNat
      let rung (t : State) : Prop := exec (.doorbell ctx queue value) s = .next t ∧ Sparse.get 0 (t.drover ctx).doorbells queue = value
      let wrong : Prop := ∃ t : State, rung t ∧ t.mem = s.mem ∧ (t.drover ctx).qerr = (s.drover ctx).qerr ||| BitVec.ofNat 64 (2 ^ queue)
      (s.qdesc ctx queue = none → wrong) ∧
      ∀ d, s.qdesc ctx queue = some d →
        let room := (w + 2 ^ 32 - d.rdidx) % 2 ^ 32
        let good : Prop := d.en = true ∧ d.ok = true ∧ 1 ≤ room ∧ room ≤ 2 ^ d.logn
        (w = d.wridx → d.en = true → d.ok = true → ∃ t : State, rung t ∧ t.mem = s.mem ∧ (t.drover ctx).qerr = (s.drover ctx).qerr ∧ (t.queue ctx queue).held = d.held) ∧
        (w ≠ d.wridx → ¬good → wrong) ∧
        (w ≠ d.wridx → good → ∃ t : State, rung t ∧ t.mem = (s.putDesc ctx queue 12 4 w).mem ∧ (t.queue ctx queue).held = d.held))) ∧
  (∀ (lot q1 t1 q2 t2 : Nat),
    let x := BitVec.ofNat 32 lot
    let a := x ^^^ (x <<< 13)
    let b := a ^^^ (a >>> 17)
    let n := (b ^^^ (b <<< 5)).toNat
    lot < 2 ^ 32 → t1 + t2 ≠ 0 → drawQueue lot [(q1, t1), (q2, t2)] = (if n % (t1 + t2) < t1 then some q1 else some q2, n)) ∧
  (∀ (ctx q : Nat) (h : QHead) (d : QDesc) (s : State), s.serving = true → s.ctxActive ctx = true → q < 64 →
    s.slots = [] → s.parked = [] → s.pipes = [] → s.gangs = [] → (s.drover ctx).prepol = 0 → (s.drover ctx).heads = [(q, h)] → s.qdesc ctx q = some d →
    (∀ j < 64, j ≠ q → (s.qdesc ctx j).all (fun d => !d.en || d.wridx == d.rdidx) = true) → h.loaded = true → h.phase = 0 → h.packet.toNat % 2 ^ 8 = 5 → h.packet.getLsbD 32 = false →
    packetOk (s.foldsOf ctx).length h.packet = true → s.queueOpen ctx q = true →
    ∃ t : State, exec (.dispatch ctx) s = .next t ∧ t.head ctx q = { h with phase := 1 } ∧ t.mem = s.mem ∧
      (d.tickets = 0 → (t.drover ctx).lotstate = (s.drover ctx).lotstate)) ∧
  (∀ (ctx : Nat) (s : State), s.serving = false ∨ s.ctxActive ctx = false → exec (.dispatch ctx) s = .next s) ∧
  (∀ (ctx q : Nat) (s : State), s.serving = true → q < 64 → s.qdesc ctx q = none →
    ∃ t : State, exec (.qerrClear ctx (BitVec.ofNat 64 (2 ^ q))) s = .next t ∧ t.mem = s.mem ∧
      (t.drover ctx).qerr = (s.drover ctx).qerr &&& ~~~(BitVec.ofNat 64 (2 ^ q))) ∧
  (∀ (ctx : Nat) (value : Word64) (s : State), s.serving = true →
    exec (.lotseed ctx value) s = .next (s.modDrover ctx (fun d => { d with lotstate := if value.toNat % 2 ^ 32 = 0 then 0x2545F491 else value.toNat % 2 ^ 32 })) ∧
    (let q := value.toNat % 2 ^ 6
     let lid := (s.head ctx q).lid
     let aims : Prop := s.ctxActive ctx = true ∧ value.getLsbD 6 = true ∧ (s.gang lid).live = true ∧ (s.gang lid).queue = q ∧ (s.gang lid).ctx = ctx
     (¬aims → exec (.abortW ctx value) s = .next s) ∧
     (aims → ∃ t : State, exec (.abortW ctx value) s = .next t ∧ ((s.gang lid).suspended = true → s.owesEntries lid = false → (t.gang lid).live = false) ∧
       ((s.gang lid).suspended = true → s.owesEntries lid = true → (t.gang lid).live = true ∧ (t.gang lid).endWith = some 0x3C ∧ (t.head ctx q).phase = 4) ∧
       ((s.gang lid).suspended = false → (t.gang lid).endWith = some 0x3C ∧ t.mem = s.mem ∧ (t.head ctx q).tail = none ∧ (t.head ctx q).phase = 4 ∧
         ((s.head ctx q).phase ≠ 4 → ∀ key, (t.slot key).stopping = ((s.slot key).stopping || ((s.slot key).live && (s.slot key).lid == lid))))))) ∧
  (∀ (ctx queue : Nat) (s : State), let h := s.head ctx queue
    exec (.reserving ctx queue) s = .next (match h.notReady with
      | some t => if h.loaded = true ∧ (h.phase = 0 ∨ h.phase = 7) ∧ h.places = true ∧ h.reserving = none ∧ t + 100000 ≤ s.time then
          s.setHead ctx queue { h with reserving := some (t + 100000) } else s
      | none => s)) ∧
  (∀ (fold : Nat) (value : Word64) (s : State), s.serving = true → ∃ t : State, exec (.qclear fold value) s = .next t ∧ t.mem = s.mem ∧
    ∀ i < 16, (t.core (fold * 16 + i)).quarantined =
      ((s.core (fold * 16 + i)).quarantined && !(value.getLsbD i && (s.engine (fold * 16 + i) .matrix).unretired.isEmpty))) ∧
  ∀ (j : Nat) (value : Word64) (s : State), s.serving = true → s.device.off = false →
    let x := value.toNat
    let writes (off : Nat) (g : State → Prop) : Prop := ∃ t : State, exec (.registerWrite off value) s = .next t ∧ t.mem = s.mem ∧ g t
    writes 0x020 (fun t => t.device.pwrcap = if 600 ≤ x % 2 ^ 16 ∧ x % 2 ^ 16 ≤ 1500 then x % 2 ^ 16 else s.device.pwrcap) ∧
    writes 0x030 (fun t => t.device.frzvec = x % 2 ^ 12 ∧ t.device.statevec = x / 2 ^ 16 % 2 ^ 12) ∧
    writes 0x80018 (fun t => t.byvon.frbase = x % 2 ^ 56) ∧
    writes 0x80000 (fun t => (s.byvon.done = true → t.byvon.done = false ∧ t.byvon.op = x % 2 ^ 8 ∧ t.byvon.arg = x / 2 ^ 8) ∧
      (s.byvon.done = false → t.byvon = { s.byvon with busy := true })) ∧
    (j < 8 → ∀ off ∈ [0x200, 0x220, 0x240, 0x268, 0x2A0, 0x2A8, 0x2E8, 0x2F0, 0x300, 0x4F8], writes (0x100000 + 0x1000 * j + off) (fun t => t.pageReg j off = x % 2 ^ 56)) ∧
    (j < 8 → writes (0x100000 + 0x1000 * j + 0x2E0) (fun t => t.pageReg j 0x2E0 = x % 2 ^ 56 / 4 * 4)) ∧
    (j < 8 → writes (0x100000 + 0x1000 * j + 0x218) (fun t => (t.drover j).prepol = if x % 4 ≤ 1 then x % 4 else (s.drover j).prepol)) ∧
    (j < 128 → writes (0x200000 + 0x1000 * j + 0x100) (fun t => (t.fold j).rtimeout = if x % 2 ^ 16 = 0 then (s.fold j).rtimeout else x % 2 ^ 16))

/-- R64 to R67, R71, R302, R367: the kinds of packets, from the decision that starts them. A LAUNCH that has passed its checks makes a gang and starts its first item; DETLEVEL sets the level and the trace
of its queue; FENCE completes; SIGNAL stores or adds; WAITV reads until its condition holds, or its time has passed, and completes with what was decided; PREEMPT signals the stop of a gang that runs, and else
completes with NO_TARGET or PX_SPACE; COLL sends a chunk of each participant, writes each result, and completes with the worst. -/
def Obligations.Packets : Prop :=
  (∀ (ctx queue : Nat) (s : State), s.begun ctx queue 1 = true → (s.drover ctx).enclave = false →
    (s.holders ctx (s.head ctx queue) ≠ [] → exec (.launch ctx queue) s = .next (s.modHead ctx queue (fun h => { h with phase := 0 }))) ∧
    (s.holders ctx (s.head ctx queue) = [] →
    let h := packetHeader (s.head ctx queue).packet
    let level := ((s.qdesc ctx queue).map (·.level)).getD 0
    (lhImage h % 64 ≠ 0 ∨ 6 < lhSpan h ∨ 11 < lhStride h → exec (.launch ctx queue) s = .next (s.complete ctx queue 0x24)) ∧
    (∀ st, s.launchChecks ctx queue level h = .error st → exec (.launch ctx queue) s = .next (s.complete ctx queue st)) ∧
    ∀ i ps tr, s.launchChecks ctx queue level h = .ok (i, ps, tr) →
      let g := (s.nextLid : Nat)
      ∃ t : State, exec (.launch ctx queue) s = .next t ∧ t.nextLid = g + 1 ∧ (t.gang g).live = true ∧ (t.gang g).vcores = lhGang h ∧ (t.gang g).level = level ∧
        (t.gang g).ctx = ctx ∧ (t.gang g).queue = queue ∧ (t.head ctx queue).phase = 2 ∧ (t.head ctx queue).lid = g ∧
        ∀ c j, ps = [(c, j)] → j < 16 → level = 0 → (∀ n, (s.slot (slotKey c n)).startDue = false) →
          let pr := i.prog (lhEntry h) (lhArgs h) (lhArglen h)
          let x := t.slot (slotKey c j)
          let y := t.ctx (hartKey c j)
          x.live = true ∧ x.lid = g ∧ x.vcore = 0 ∧ x.startDue = false ∧ y.live = true ∧ y.pc = BitVec.ofNat 56 pr.entry ∧ y.regBase = BitVec.ofNat 56 pr.text ∧
            y.status = 0x40 ∧ y.allot = i.allot ∧ y.getC 8 = mkCap 0 1 (lhArgs h) (lhArglen h) ∧ y.getV 0 = 0 ∧ y.getG 1 = 0)) ∧
  (∀ (ctx queue : Nat) (s : State), (s.begun ctx queue 4 = true → let x := (s.head ctx queue).packet
      ∃ z : State, exec (.detlevel ctx queue) s = .next (z.complete ctx queue 0) ∧ (z.queue ctx queue).traceEnd = dw x 2 + dw x 3 ∧
        z.mem = (s.putLevel ctx queue (x.toNat / 2 ^ 32 % 4) (dw x 2)).mem ∧ z.head ctx queue = s.head ctx queue) ∧
    (s.begun ctx queue 5 = true → ∃ z : State, exec (.fencePacket ctx queue) s = .next (z.complete ctx queue 0) ∧ z.mem = s.mem ∧
      z.head ctx queue = s.head ctx queue ∧ ((s.head ctx queue).packet.getLsbD 32 = false → z = s))) ∧
  (∀ (ctx queue : Nat) (s : State), s.begun ctx queue 6 = true →
    let x := (s.head ctx queue).packet
    let old := s.walkNat ctx (dw x 2) 8
    let signals (i : Instr) (y : Nat → Nat) : Prop :=
      (old = none → exec i s = .next (s.complete ctx queue 0x30)) ∧
      ∀ m, old = some m →
        (s.droverRelease ctx queue (dw x 2) (y m % 2 ^ 64) = none → exec i s = .next (s.complete ctx queue 0x30)) ∧
        ∀ t, s.droverRelease ctx queue (dw x 2) (y m % 2 ^ 64) = some t → ∃ z : State, exec i s = .next (z.complete ctx queue 0) ∧ z.mem = t.mem
    (x.getLsbD 32 = false → signals (.signalStore ctx queue) (fun _ => dw x 3)) ∧ (x.getLsbD 32 = true → signals (.signalAdd ctx queue) (fun m => m + dw x 3))) ∧
  (∀ (ctx queue : Nat) (s : State), let h := s.head ctx queue
    let x := h.packet
    (s.begun ctx queue 7 = true → exec (.waitv ctx queue) s = .next (s.complete ctx queue (if h.cond = 1 then 0 else if h.cond = 2 then 0x30 else 0x2F))) ∧
    (s.serving = true → h.loaded = true → h.phase = 0 → x.toNat % 2 ^ 8 = 7 → packetOk (s.foldsOf ctx).length x = true → h.cond = 0 →
      (s.walkNat ctx (dw x 2) 8 = none → ∃ t : State, exec (.waitvPoll ctx queue) s = .next t ∧ t.head ctx queue = { h with cond := 2 }) ∧
      (∀ m, s.walkNat ctx (dw x 2) 8 = some m →
        let a := BitVec.ofNat 64 m &&& BitVec.ofNat 64 (dw x 4)
        let b := BitVec.ofNat 64 (dw x 3) &&& BitVec.ofNat 64 (dw x 4)
        let met : Prop := (x.toNat / 2 ^ 32 % 8 = 0 ∧ a = b) ∨ (x.toNat / 2 ^ 32 % 8 = 1 ∧ a ≠ b) ∨ (x.toNat / 2 ^ 32 % 8 = 2 ∧ b ≤ a) ∨ (x.toNat / 2 ^ 32 % 8 = 3 ∧ a < b)
        (met → (s.walkTo ctx (dw x 2) false).isSome = true → ∃ t : State, exec (.waitvPoll ctx queue) s = .next t ∧ t.head ctx queue = { h with cond := 1 }) ∧
        (¬met → (s.walkTo ctx (dw x 2) false).isSome = true → exec (.waitvPoll ctx queue) s = .next s)) ∧
      exec (.waitTimeout ctx queue) s = .next (if dw x 5 ≠ 0 ∧ h.since + dw x 5 ≤ s.time then s.setHead ctx queue { h with cond := 3 } else s))) ∧
  (∀ (ctx queue : Nat) (s : State), s.begun ctx queue 8 = true →
    let x := (s.head ctx queue).packet
    let q := x.toNat / 2 ^ 32 % 2 ^ 6
    let lid := (s.head ctx q).lid
    let runs : Prop := (s.head ctx q).phase = 2 ∧ lid ≠ 0 ∧ (s.gang lid).live = true
    let room : Prop := s.pageReg ctx (0x300 + 8 * q) ≠ 0 ∧ s.recordBytes lid ≤ s.pageReg ctx 0x2C0 % 2 ^ 32
    (q = queue ∨ (¬runs ∧ (s.head ctx q).phase ≠ 4) → exec (.preempt ctx queue) s = .next (s.complete ctx queue 0x2E)) ∧
    (q ≠ queue → runs → ¬room → exec (.preempt ctx queue) s = .next (s.complete ctx queue 0x3A)) ∧
    (q ≠ queue → runs → room → ∃ t : State, exec (.preempt ctx queue) s = .next t ∧ (t.head ctx q).phase = 4 ∧ (t.head ctx q).stopper = some queue ∧
      (t.head ctx q).holding = x.getLsbD 38 ∧ (t.head ctx queue).phase = 2 ∧ (t.head ctx queue).target = q ∧ t.mem = s.mem ∧
      ∀ key, (t.slot key).stopping = ((s.slot key).stopping || ((s.slot key).live && (s.slot key).lid == lid)))) ∧
  ∀ (ctx queue : Nat) (s : State), let h := s.head ctx queue
    let x := h.packet
    (s.begun ctx queue 3 = true →
      let ins := (List.range (dw x 6 / 2 ^ 32 % 2 ^ 6 + 1)).map (s.collInput ctx x 0)
      (none ∈ ins → exec (.coll ctx queue) s = .next (s.complete ctx queue 0x30)) ∧
      (none ∉ ins → ∃ t : State, exec (.coll ctx queue) s = .next t ∧ t.mem = s.mem ∧ (t.head ctx queue).phase = 2 ∧ (t.head ctx queue).waitsChunk = true ∧
        (t.head ctx queue).chunk = 0 ∧
        ∀ r, ins = [some r] → r.input = 16 ∧ r.cset = 1 ∧
          (t.fold ((s.foldsOf ctx).getD 0 0)).arriving = (s.fold ((s.foldsOf ctx).getD 0 0)).arriving ++ [r])) ∧
    (∀ st payload m, h.phase = 2 → h.waitsChunk = true → h.chunkGot = some (st, payload) → h.status = 0 →
      s.walkWrite ctx ((dw x 3 % 2 ^ 56 + 64 * h.chunk) % 2 ^ 56) (natToBytes 64 payload.toNat) = some m →
      h.chunk + 1 = dw x 4 % 2 ^ 32 / (if (dw x 6).testBit 30 then 128 else 64) →
      ∃ z : State, z.mem = m.mem ∧
        exec (.coll ctx queue) s = .next (z.complete ctx queue (if st = 0 then 0 else if st = 2 then 0x32 else if st = 0x1C then 0x31 else 0x33)))

/-! ### Byvon, bring-up, power and the host (R375 to R401) -/

/-- R378: a command completes with its code, or BUSY when another was written meanwhile; an OP beyond SCRUB gives BAD_OP. R375, R380: REPORT commits the next index, and then releases the report with its signature.
R381, R382, R385, R387: what a JOIN, a key block, a REVOKE, a THAW and a SCRUB answer, and change. The request blocks have no stated layout: what is said of them holds for every reading of their bytes, which is opaque, so that no concrete block can be shown (log 75).
R397: a change of the partition takes place when every context is idle, and sets PARTERR otherwise. R383, R398: links. R399: TIME never runs backwards. R377, R400, R401: the states of the device.
R386, R395: an access by the host, to device memory and to the host tier; the host's memory keeps what it holds when power is lost.
This model's choices in it: the order of the checks and the FORM cases of JOIN (log 77), REVOKE (log 78), THAW and SCRUB (log 80), what FWDIG covers of a bad image (log 82), THROTTLED and an ignored
write to NLOG in REDUCED (log 83), the memory that power loss drops (log 84), and that a freeze report lies at a physical address (log 4). -/
def Obligations.ByvonAndDevice : Prop :=
  (∀ s : State, s.device.off = false → s.byvon.done = false →
    let b := s.byvon
    let ends (t : State) (code : Nat) : Prop := t.byvon.done = true ∧ t.byvon.code = (if b.busy then 7 else code) ∧ t.byvon.busy = false
    ((b.op = 0 ∨ 5 < b.op) → ∃ t : State, exec .badOp s = .next t ∧ ends t 1 ∧ t.mem = s.mem) ∧
    (b.op = 1 → b.committed = none → 2 ^ 40 ≤ b.index → ∃ t : State, exec .report s = .next t ∧ ends t 6 ∧ t.mem = s.mem) ∧
    (b.op = 1 → b.committed = none → b.index < 2 ^ 40 → b.arg % 64 = 0 → s.inDevice b.arg 40 = true → s.inDevice (bytesToNat (s.bytesAt (b.arg + 32) 8)) 8192 = true →
      ∃ t : State, exec .report s = .next t ∧ t.byvon = { b with index := b.index + 1, committed := some b.index, request := s.bytesAt b.arg 40 } ∧ t.mem = s.mem) ∧
    (b.op = 1 → ∀ i, b.committed = some i → b.request.length = 40 →
      ∃ t : State, exec .report s = .next t ∧ ends t 0 ∧ t.byvon.index = b.index ∧ t.byvon.committed = none ∧
        t.mem = (s.storeBytes (bytesToNat (b.request.drop 32)) (s.reportBody (b.request.take 32) i ++ padTo 5716 (Config.hssSign i (s.reportBody (b.request.take 32) i)))).mem) ∧
    (b.op = 2 → ∃ t : State, exec .join s = .next t ∧ t.mem = s.mem ∧ ∀ r, s.requestBlock (Config.requestBytes 2) = some r → Config.isKeyBlock r = false →
      ∀ d, Config.readDescriptor r = some d →
        (descriptorForm d = false → ends t 2) ∧ (descriptorForm d = true → descriptorSigned d = false → ends t 3) ∧
        (descriptorForm d = true → descriptorSigned d = true → ends t 0 ∧ (∃ f : Flock, t.byvon.flock = some f ∧ f.flock = d.flock % 2 ^ 64 ∧ f.quorum = d.quorum ∧ f.allow = d.allow) ∧
          t.byvon.epoch = 0 ∧ t.byvon.session = [] ∧ ∀ p < 8, (t.drover p).enclave = d.paddocks.contains p)) ∧
    (b.op = 2 → ∃ t : State, exec .joinKey s = .next t ∧ t.mem = s.mem ∧ ∀ r, s.requestBlock (Config.requestBytes 2) = some r → Config.isKeyBlock r = true →
      ∀ k, Config.readKeyBlock r = some k →
        (s.isMember k.member = false → ends t 2) ∧
        (s.isMember k.member = true → ends t 0 ∧ Sparse.get 0 t.byvon.session k.member = digest (padTo 32 (Config.mlkemOpen b.powerUps k.cipher)))) ∧
    (b.op = 3 → ∃ t : State, exec .revoke s = .next t ∧ (b.flock = none → ends t 2) ∧ ∀ q f r, s.requestBlock (Config.requestBytes 3) = some q → b.flock = some f →
      Config.readRevoke q = some r →
        let form : Prop := r.flock = f.flock ∧ (∃ m ∈ f.members, m.1 = r.member) ∧ r.epoch < 2 ^ 32
        let enough : Prop := f.quorum ≤ (signers f r).length
        (¬form → ends t 2) ∧ (form → ¬enough → ends t 4) ∧ (form → enough → revokeSigned f r = false → ends t 3) ∧
        (form → enough → revokeSigned f r = true → r.epoch ≤ b.epoch → ends t 5) ∧
        (form → enough → revokeSigned f r = true → b.epoch < r.epoch → ends t 0 ∧ t.byvon.epoch = r.epoch ∧ Sparse.get 0 t.byvon.session r.member = 0 ∧
          t.revoked.contains (r.member + 1) = true)) ∧
    (b.op = 4 → ∃ t : State, exec .thaw s = .next t ∧ t.mem = s.mem ∧ (s.namedMaster 4 = none → ends t 2) ∧ ∀ m, s.namedMaster 4 = some m → ends t 0 ∧
      (m.kind = 0 → (s.slot (slotKey m.core m.slot)).exitAt = none →
        (t.ctx (hartKey m.core m.slot)).frozen = false ∧ (t.ctx (hartKey m.core m.slot)).pc = (s.ctx (hartKey m.core m.slot)).pc)) ∧
    (b.op = 5 → ∃ t : State, exec .scrub s = .next t ∧ (s.namedMaster 5 = none → ends t 2 ∧ t.mem = s.mem) ∧ ∀ m, s.namedMaster 5 = some m →
      (m.kind = 2 → ends t 0 ∧ ∀ e, classEngine m.unit = some e → t.engine m.core e = {}))) ∧
  (∀ (value : Word64) (s : State), s.serving = true →
    let err := s.device.parterr && !(value.getLsbD 8)
    let u : State := { s with device := { s.device with parterr := err } }
    (s.device.state = 1 → exec (.partitionChange value) s = .next u) ∧
    (s.device.state ≠ 1 → (∃ p < 8, u.contextIdle p = false) → exec (.partitionChange value) s = .next { s with device := { s.device with parterr := true } }) ∧
    (s.device.state ≠ 1 → (∀ p < 8, u.contextIdle p = true) → ∃ t : State, exec (.partitionChange value) s = .next t ∧ t.mem = s.mem ∧
      t.device = { s.device with parterr := err, nlog := value.toNat % 4 } ∧ ∀ c, (t.core c).tlb = [] ∧ (t.core c).tile = [] ∧ (t.core c).offer = (s.core c).offer)) ∧
  (∀ (port x : Nat) (s : State), s.serving = true → port < 16 →
    (s.device.state ≠ 1 → s.linkOf port ≠ 4 → x < 3 → ∃ t : State, exec (.linkStateChange port x) s = .next t ∧ t.linkOf port = x ∧ t.mem = s.mem) ∧
    (s.linkOf port = 4 → exec (.linkStateChange port x) s = .next s) ∧
    (s.linkOf port ≠ 3 → exec (.linkAuthFailure port) s = .next s) ∧
    (s.linkOf port = 3 → ∃ t : State, exec (.linkAuthFailure port) s = .next t ∧
      let n := (if Config.passedBetween s.turn then 0 else Sparse.get 0 s.device.authFails port) + 1
      Sparse.get 0 t.device.authFails port = n ∧ t.linkOf port = (if n < 16 then 3 else 4) ∧
        t.byvon.freezes = if n < 16 then s.byvon.freezes else (s.byvon.freezes + 1) % 2 ^ 64)) ∧
  (∀ (value : Word64) (s : State), s.serving = true → exec (.timeSync value) s = .next { s with time := max s.time value.toNat }) ∧
  (∀ (bad : Nat) (s : State), s.device.off = false → s.device.state = 0 →
    (s.device.verified = false →
      (∃ t : State, exec (.powerGood (some bad)) s = .next t ∧ t.device.state = 3 ∧ t.byvon.code = 8 ∧ t.byvon.badImage = some bad ∧
        t.byvon.fwdig = fwDigest ((Config.fwDigests (s.byvon.powerUps + 1)).take bad)) ∧
      (∃ t : State, exec (.powerGood none) s = .next t ∧ t.device.verified = true ∧ t.device.state = 0 ∧ t.byvon.powerUps = s.byvon.powerUps + 1 ∧
        t.byvon.fwdig = fwDigest (Config.fwDigests (s.byvon.powerUps + 1))) ∧
      exec .reduced s = .next s) ∧
    (s.device.verified = true → ∃ t : State, exec .reduced s = .next t ∧ t.device.state = 1 ∧ t.mem = s.mem ∧
      (s.device.statevec ≤ 2047 → Sparse.get 0 t.device.msix s.device.statevec = Sparse.get 0 s.device.msix s.device.statevec + 1)) ∧ exec .full s = .next s) ∧
  (∀ s : State, s.device.off = false → s.device.state = 1 → ∃ t : State, exec .full s = .next t ∧ t.device.state = 2 ∧ t.mem = s.mem) ∧
  (∀ (w c : Nat) (s : State), s.device.off = false →
    let hot : Prop := s.device.pwrcap < w ∨ 100 ≤ c
    (c < 110 → s.serving = true → ∃ t : State, exec (.throttled w c) s = .next t ∧ t.device.watts = w ∧ t.device.tjmax = c ∧ t.mem = s.mem ∧
      t.device.state = s.device.state ∧ (hot → t.device.throttled = true ∧ t.deviceRead 0x010 = 4) ∧ (¬hot → t.device.throttled = s.device.throttled)) ∧
    (c < 110 → s.serving = true → ∃ t : State, exec (.clockRestore w c) s = .next t ∧ t.device.watts = w ∧ t.device.tjmax = c ∧ t.mem = s.mem ∧
      t.device.state = s.device.state ∧ (hot → t.device.throttled = true ∧ t.deviceRead 0x010 = 4) ∧
      (¬hot → t.device.throttled = false ∧ t.deviceRead 0x010 = s.device.state)) ∧
    (c < 110 → exec (.overtempPowerOff c) s = .next s) ∧
    (110 ≤ c → ∃ t : State, exec (.overtempPowerOff c) s = .next t ∧ t.device.off = true ∧ t.device.linkst = 0 ∧ t.byvon.index = s.byvon.index ∧ t.slots = []) ∧
    ∃ t : State, exec .powerLoss s = .next t ∧ t.device.off = true ∧ t.device.linkst = 0 ∧ t.byvon.index = s.byvon.index ∧ t.slots = [] ∧
      ∀ a, t.byte a = if 2 ^ 51 ≤ a ∧ a < 2 ^ 52 then s.byte a else 0) ∧
  (∀ (port : Nat) (s : State), s.device.off = false → port < 2 → ∀ up : Bool, ∃ t : State, exec (.hostPortTraining port up) s = .next t ∧ t.mem = s.mem ∧
    ((port ∈ t.device.hostPorts) ↔ up = true) ∧ ∀ p, p ≠ port → (p ∈ t.device.hostPorts ↔ p ∈ s.device.hostPorts)) ∧
  (∀ (a : Nat) (bytes : List Byte) (s : State), 2 ^ 51 ≤ a → a + bytes.length ≤ 2 ^ 52 →
    exec (.hostCxlAccess true a bytes) s = .next (s.storeBytes a bytes) ∧ exec (.hostCxlAccess false a bytes) s = .next s) ∧
  ∀ (a : Nat) (bytes : List Byte) (s : State), s.serving = true → s.device.hostPorts.contains 0 = true → s.inDevice a bytes.length = true → bytes ≠ [] → s.device.hostFrozen = false →
    let owned : Prop := ∃ r ∈ s.firewall, overlaps r.1 (r.2.1 - r.1) a bytes.length = true
    (¬owned → exec (.hostCxlAccess true a bytes) s = .next (s.storeBytes a bytes) ∧ exec (.hostCxlAccess false a bytes) s = .next s) ∧
    (owned → ∀ write, ∃ t : State, exec (.hostCxlAccess write a bytes) s = .next t ∧ t.device.hostFrozen = true ∧ t.byvon.freezes = (s.byvon.freezes + 1) % 2 ^ 64 ∧
      t.mem = (s.storeBytes (s.byvon.frbase + 32 * (s.byvon.freezes % 256))
        (freezeBytes { time := s.time, cause := 1, kind := 3, unit := 0, slot := 0, core := 0, addr := a, lid := 0 })).mem)

/-! ### Reset, the step, the encoding, and what every step keeps -/

/-- What the registers hold after reset, by the Reset columns of R58, R76, R96, R101, R111, R113, R196, R296, R351, R378 and R396: no vcore is placed, a context has IE 1 and the other fields of STATUS 0, a slot's registers
are at their reset values, c registers are untagged zeros, guards zero, no TLB entry is valid, the lottery has its first state, the partition is of eight paddocks, and the device is in FW_CHECK. Memory is in canonical form, no
context is in mode 3, and nothing is listed; that a byte which nothing has written reads 0 is this model's choice (log 2), and so is an OFFER of 64 (log 5). -/
def Obligations.ResetState : Prop :=
  let s := State.reset
  s.safe ∧ s.time = 0 ∧
    (∀ k, (s.ctx k).live = false ∧ (s.ctx k).status = 0x40 ∧ (s.ctx k).cause = 0 ∧ (s.ctx k).epc = 0 ∧ (s.ctx k).tval = 0 ∧ (s.ctx k).repst = 0 ∧
      (∀ n, (s.ctx k).getC n = ⟨false, 0⟩) ∧ ∀ n : BitVec 4, n ≠ 0 → (s.ctx k).getG n = 0) ∧
    (∀ j, let l := s.slot j
      l.live = false ∧ l.uvec = 0 ∧ l.tvec = 0 ∧ l.engcap = 0x00073F3F ∧ l.tbase = 0 ∧ l.tlimit = 0x00FFFFFFFFFFFFFF ∧ l.seed = 0 ∧ l.rngctl = 0 ∧ l.sealmask = 0 ∧
        l.timecmp = BitVec.allOnes 64 ∧ l.ien = 0) ∧
    (∀ c, (s.core c).tlb = [] ∧ (s.core c).offer = 64) ∧
    (∀ p, (s.drover p).lotstate = 0x2545F491 ∧ (s.drover p).prepol = 0 ∧ (s.drover p).qerr = 0 ∧ (s.drover p).sampcfg = 0 ∧ (s.drover p).enclave = false ∧
      ∀ off, s.pageReg p off = 0) ∧
    (∀ f, (s.fold f).rtimeout = 64 ∧ ∀ off, Sparse.get 0 (s.fold f).rregs off = 0) ∧
    s.device.state = 0 ∧ s.paddocks = 8 ∧ s.device.pwrcap = 1500 ∧ s.device.linkst = 0 ∧ s.device.statevec = 0 ∧ s.device.frzvec = 0 ∧
    s.byvon.done = true ∧ s.byvon.code = 0 ∧ s.byvon.freezes = 0 ∧ s.byvon.frbase = 0 ∧ ∀ a, s.byte a = 0

/-- R84, R93: where a core issues from a context whose twelve bytes at the PC, lowest first, are a word that passes every check, the step is `exec` of that instruction in that context, its time passed; a word that fails a check traps with the
cause and TVAL of R94. The two words of the specification that are worked by hand, and three more from its tables, decode to what they say, and a word of zeros traps ILLEGAL_OP. That a core
fetches the newest bytes of memory, where R25 also admits the old ones after a write, is this model's choice (log 94). -/
def Obligations.StepRunsDecoded : Prop :=
  (∀ (s : State) (turn : Turn) (core k n img : Nat) (rest : List Turn), s.agenda = turn :: rest → turn.what = .issueChoice core →
    let b := s.begin
    let u : State := { b with cur := k }
    let c := u.ctx k
    let pc := c.pc.toNat
    b.serving = true → b.choose core = some k → b.takesPending k = false → isService (coreOf k) = false → c.rep = none → ((b.slotOf k).relocks = none ∨ isDrain k = true) →
    pc % 4 = 0 → c.regBase.toNat ≤ pc → pc + 12 ≤ c.regLimit.toNat → tlbFind (u.core (coreOf k)) pc = some (n, img) →
    imgAdmits img c.mode .fetch = true → pc % 2 ^ pageShift (imgSize img) + 12 ≤ 2 ^ pageShift (imgSize img) → u.crosses (coreOf k) (imgMap img pc) 12 = false →
    let w := BitVec.ofNat 96 (le u (imgMap img pc) 12)
    (∀ i, decodeWord (u.decodeEnv k) w = .ok i → u.bodyChecked k i = .ok () → step s = exec i u) ∧
    (∀ i, (∀ f, i ≠ .repI f) → u.bodyChecked k i = .ok ()) ∧
    (∀ t, decodeWord (u.decodeEnv k) w = .error t → u.entersTraps →
      ∃ v : State, step s = .next v ∧ u.GoesOn v k ((u.enterTrap k 0 t.cause (t.reason * 2 ^ 60 + t.field * 2 ^ 53 + t.spec * 2 ^ 46 +
        (w.extractLsb' 52 12).toNat * 2 ^ 34 + (w.extractLsb' 36 16).toNat * 2 ^ 10 + (w.extractLsb' 0 10).toNat)).ctx k))) ∧
  (∃ f : Fields, decodeWord DecodeEnv.hart 0x000003000030000000082B60#96 = .ok (.tidld f) ∧ f.d = .c 10 ∧ f.a = .c 4 ∧ f.md = 3 ∧ f.imm = 0x300) ∧
  (∃ f : Fields, decodeWord DecodeEnv.hart 0xFFFFFFE00400208A0B082B60#96 = .ok (.tidld f) ∧ f.d = .c 10 ∧ f.a = .c 4 ∧ f.b = .c 11 ∧ f.md = 0x40 ∧ f.neg = true ∧ f.gidx = 4 ∧
    f.hint = ⟨2, 0, 8⟩ ∧ f.imm = 0xFFFFFFE0) ∧
  (∃ f : Fields, decodeWord DecodeEnv.hart 0x000000001800000003040401#96 = .ok (.add f) ∧ f.d = .c 1 ∧ f.a = .c 2 ∧ f.b = .c 3 ∧ f.ty = 3 ∧ f.lit = false) ∧
  (∃ f : Fields, decodeWord DecodeEnv.hart 0x0000000000000000000000C7#96 = .ok (.nop f)) ∧
  (∃ f : Fields, decodeWord DecodeEnv.hart 0x0000001200000000000000C0#96 = .ok (.bra f) ∧ f.imm = 0x12) ∧
  decodeWord DecodeEnv.hart 0 = .error ⟨0x01, 0, 0, 0⟩

/-- R83, R85, R92, R93: an instruction that is well formed in a context is what its word decodes to there, and a word that decodes to it is its word: no bit of a word is dropped, and no other word has its meaning. -/
def Obligations.EncodeDecodeRoundTrip : Prop :=
  ∀ (e : DecodeEnv) (i : Instr), i.wellFormed e → decodeWord e (encode i) = .ok i ∧ ∀ w, decodeWord e w = .ok i → w = encode i

/-- Memory keeps its one canonical form, addresses rising and no byte listed that reads as an unlisted one, through every step: so equal memories are equal data. -/
def Obligations.MemoryStaysCanonical : Prop := ∀ s t : State, s.memOk → step s = .next t → t.memOk
end

