-- ==== Sys2Proof/Laws/Sparse.lean ====
section
/-!
SUPPORT. Tables: a read after a write, and the canonical form that every write keeps.
-/

namespace Sys2Proof

variable {α : Type}

/-! ### A read after a write -/

@[simp] theorem Sparse.get_nil (d : α) (i : Nat) : Sparse.get d [] i = d := rfl

theorem Sparse.get_put (d : α) (m : Sparse α) (i j : Nat) (x : α) :
    (Sparse.put m i x).get d j = if j = i then x else m.get d j := by
  fun_induction Sparse.put m i x <;> grind [Sparse.get]

theorem Sparse.get_drop (d : α) (m : Sparse α) (i j : Nat) : (m.drop i).get d j = if j = i then d else m.get d j := by
  induction m <;> grind [Sparse.get, Sparse.drop]

theorem Sparse.get_set [DecidableEq α] (d : α) (m : Sparse α) (i j : Nat) (x : α) :
    (Sparse.set d m i x).get d j = if j = i then x else m.get d j := by
  grind [Sparse.set, Sparse.get_drop, Sparse.get_put]

/-! ### The canonical form -/

/-- What a write can list: its own entry, and what was listed. -/
theorem Sparse.mem_put (m : Sparse α) (i : Nat) (x : α) (q : Nat × α) : q ∈ m.put i x → q = (i, x) ∨ q ∈ m := by
  fun_induction Sparse.put m i x <;> grind

/-- Rising indices, said of each entry and all that follow it. -/
theorem Sparse.sorted_iff (m : Sparse α) : m.sorted = true ↔ m.Pairwise (fun a b => a.1 < b.1) := by
  fun_induction Sparse.sorted m <;> grind [List.pairwise_cons]

theorem Sparse.sorted_put (m : Sparse α) (i : Nat) (x : α) (h : m.sorted = true) : (m.put i x).sorted = true := by
  rw [Sparse.sorted_iff] at h ⊢
  fun_induction Sparse.put m i x
  case case4 t i x hlt hne ih =>
    have := Sparse.mem_put t i x
    grind [List.pairwise_cons]
  all_goals grind [List.pairwise_cons]

theorem Sparse.sorted_drop (m : Sparse α) (i : Nat) (h : m.sorted = true) : (m.drop i).sorted = true :=
  (Sparse.sorted_iff _).2 (((Sparse.sorted_iff m).1 h).filter _)

/-- A write keeps the canonical form. -/
theorem Sparse.wf_set [DecidableEq α] (d : α) (m : Sparse α) (i : Nat) (x : α) (h : Sparse.wf d m = true) :
    Sparse.wf d (Sparse.set d m i x) = true := by
  have hs := Sparse.sorted_put m i x
  have hd := Sparse.sorted_drop m i
  have hm := Sparse.mem_put m i x
  unfold Sparse.set
  split <;> grind [Sparse.wf, Sparse.drop]

/-! ### Byte order -/

@[simp] theorem natToBytes_length (n x : Nat) : (natToBytes n x).length = n := by
  induction n generalizing x with
  | zero => rfl
  | succ n ih => simp [natToBytes, ih]

/-- R6: the bytes of a number, read back. -/
theorem bytesToNat_natToBytes (n x : Nat) : bytesToNat (natToBytes n x) = x % 256 ^ n := by
  induction n generalizing x with
  | zero => simp [natToBytes, bytesToNat, Nat.mod_one]
  | succ n ih =>
    simp only [natToBytes, bytesToNat, ih, BitVec.toNat_ofNat]
    have h : x % 256 % 2 ^ 8 = x % 256 := by omega
    have e : 256 ^ (n + 1) = 256 * 256 ^ n := Nat.pow_succ'
    rw [h, e, Nat.mod_mul]

end Sys2Proof
end

