-- ==== Sys2Proof/Laws/Memory.lean ====
section
/-!
SUPPORT. Memory: a read after a write, and the canonical form, which every memory operation keeps.
-/

namespace Sys2Proof.Machine

/-! ### A read after a write -/

@[simp] theorem readByte_writeByte (m : List Host.Cell) (a i : Nat) (b : Byte) :
    readByte (writeByte m a b) i = if i = a then b else readByte m i := Sparse.get_set _ _ _ _ _

theorem readByte_writeBytes_outside (m : List Host.Cell) (a i : Nat) (bs : List Byte) (h : i < a ∨ a + bs.length ≤ i) :
    readByte (writeBytes m a bs) i = readByte m i := by
  induction bs generalizing m a with
  | nil => rfl
  | cons b bs ih =>
    simp only [List.length_cons] at h
    unfold writeBytes
    rw [ih _ _ (by omega), readByte_writeByte, if_neg (by omega)]

theorem readByte_writeBytes_inside (m : List Host.Cell) (a i : Nat) (bs : List Byte) (h : i < bs.length) :
    readByte (writeBytes m a bs) (a + i) = bs.getD i 0 := by
  induction bs generalizing m a i with
  | nil => simp at h
  | cons b bs ih =>
    simp only [List.length_cons] at h
    unfold writeBytes
    cases i with
    | zero => rw [readByte_writeBytes_outside _ _ _ _ (by omega), readByte_writeByte]; simp
    | succ i =>
      rw [show a + (i + 1) = a + 1 + i by omega, ih _ _ _ (by omega)]
      simp

theorem State.byte_storeBytes_outside (s : State) (a i : Nat) (bs : List Byte) (h : i < a ∨ a + bs.length ≤ i) :
    (s.storeBytes a bs).byte i = s.byte i := readByte_writeBytes_outside _ _ _ _ h

theorem State.bytesAt_storeBytes (s : State) (a : Nat) (bs : List Byte) : (s.storeBytes a bs).bytesAt a bs.length = bs := by
  unfold State.bytesAt
  apply List.ext_getElem
  · simp
  · intro i h1 h2
    rw [List.getElem_map, List.getElem_range]
    show readByte (writeBytes s.mem a bs) (a + i) = _
    rw [readByte_writeBytes_inside _ _ _ _ h2]
    simp [h2]

theorem State.byte_write_outside (s : State) (a n x i : Nat) (h : i < a ∨ a + n ≤ i) : (s.write a n x).byte i = s.byte i :=
  State.byte_storeBytes_outside _ _ _ _ (by simpa using h)

/-- R6: a number written and read back at the same place, with the same size. -/
theorem State.read_write (s : State) (a n x : Nat) : (s.write a n x).read a n = x % 256 ^ n := by
  have h := State.bytesAt_storeBytes s a (natToBytes n x)
  rw [natToBytes_length] at h
  unfold State.read State.write
  rw [h, bytesToNat_natToBytes]

theorem State.byte_writeTagged_outside (s : State) (a i : Nat) (r : CReg) (h : i < a ∨ a + 16 ≤ i) :
    (s.writeTagged a r).byte i = s.byte i := by
  unfold State.writeTagged
  split
  · exact State.byte_write_outside _ _ _ _ _ h
  · exact State.byte_write_outside _ _ _ _ _ h

/-! ### The canonical form -/

theorem Memory.wf_writeByte (m : List Host.Cell) (a : Nat) (b : Byte) (h : Memory.wf m = true) : Memory.wf (writeByte m a b) = true :=
  Sparse.wf_set 0 m a b h

theorem Memory.wf_writeBytes (m : List Host.Cell) (a : Nat) (bs : List Byte) (h : Memory.wf m = true) :
    Memory.wf (writeBytes m a bs) = true := by
  induction bs generalizing m a with
  | nil => exact h
  | cons b bs ih => exact ih _ _ (Memory.wf_writeByte m a b h)

theorem State.memOk_storeBytes (s : State) (a : Nat) (bs : List Byte) (h : s.memOk) : (s.storeBytes a bs).memOk :=
  Memory.wf_writeBytes _ _ _ h

theorem State.memOk_write (s : State) (a n x : Nat) (h : s.memOk) : (s.write a n x).memOk := State.memOk_storeBytes _ _ _ h

theorem State.memOk_writeTagged (s : State) (a : Nat) (r : CReg) (h : s.memOk) : (s.writeTagged a r).memOk := by
  unfold State.writeTagged
  split
  · exact State.memOk_write _ _ _ _ h
  · exact State.memOk_write _ _ _ _ h

theorem State.memOk_reset_mem : Memory.wf State.reset.mem = true := rfl

/-- The end of an instruction keeps memory. -/
theorem State.GoesOn.mem_eq {s t : State} {k : Nat} {c : Ctx} (h : s.GoesOn t k c) : t.mem = s.mem := by
  obtain ⟨h1, -⟩ := h
  rw [h1]

end Sys2Proof.Machine
end

