-- ==== Sys2Proof/Laws/PerInstr.lean ====
section
/-!
SUPPORT. Facts about every instruction as syntax, one lemma per constructor.
-/

namespace Sys2Proof.Laws.Form

/-- An instruction's OP and fields are those of its row of the encoding tables in every context, and an event has
none. -/
def Statement (i : Instr) : Prop := ∀ e : DecodeEnv, (i.form? e).map (fun p => (p.1.op, p.2)) = i.opFields

theorem form_fields {i : Instr} {op : Nat} {f : Fields} (h : ∀ e, (i.form? e).map (fun p => (p.1.op, p.2)) = some (op, f)) : Statement i := by
  intro e
  rw [h e]
  exact (h DecodeEnv.hart).symm

theorem no_form {i : Instr} (h : ∀ e, i.form? e = none) : Statement i := by
  intro e
  simp [Instr.opFields, h]

theorem add (f : Fields) : Statement (.add f) := form_fields (fun _ => rfl)
theorem sub (f : Fields) : Statement (.sub f) := form_fields (fun _ => rfl)
theorem mul (f : Fields) : Statement (.mul f) := form_fields (fun _ => rfl)
theorem mulh (f : Fields) : Statement (.mulh f) := form_fields (fun _ => rfl)
theorem mulhn (f : Fields) : Statement (.mulhn f) := form_fields (fun _ => rfl)
theorem div (f : Fields) : Statement (.div f) := form_fields (fun _ => rfl)
theorem divn (f : Fields) : Statement (.divn f) := form_fields (fun _ => rfl)
theorem rem (f : Fields) : Statement (.rem f) := form_fields (fun _ => rfl)
theorem remn (f : Fields) : Statement (.remn f) := form_fields (fun _ => rfl)
theorem mad (f : Fields) : Statement (.mad f) := form_fields (fun _ => rfl)
theorem andI (f : Fields) : Statement (.andI f) := form_fields (fun _ => rfl)
theorem orI (f : Fields) : Statement (.orI f) := form_fields (fun _ => rfl)
theorem xorI (f : Fields) : Statement (.xorI f) := form_fields (fun _ => rfl)
theorem andn (f : Fields) : Statement (.andn f) := form_fields (fun _ => rfl)
theorem shl (f : Fields) : Statement (.shl f) := form_fields (fun _ => rfl)
theorem shr (f : Fields) : Statement (.shr f) := form_fields (fun _ => rfl)
theorem sar (f : Fields) : Statement (.sar f) := form_fields (fun _ => rfl)
theorem rol (f : Fields) : Statement (.rol f) := form_fields (fun _ => rfl)
theorem clz (f : Fields) : Statement (.clz f) := form_fields (fun _ => rfl)
theorem ctz (f : Fields) : Statement (.ctz f) := form_fields (fun _ => rfl)
theorem popc (f : Fields) : Statement (.popc f) := form_fields (fun _ => rfl)
theorem brev (f : Fields) : Statement (.brev f) := form_fields (fun _ => rfl)
theorem clmul (f : Fields) : Statement (.clmul f) := form_fields (fun _ => rfl)
theorem clmulh (f : Fields) : Statement (.clmulh f) := form_fields (fun _ => rfl)
theorem min (f : Fields) : Statement (.min f) := form_fields (fun _ => rfl)
theorem max (f : Fields) : Statement (.max f) := form_fields (fun _ => rfl)
theorem minn (f : Fields) : Statement (.minn f) := form_fields (fun _ => rfl)
theorem maxn (f : Fields) : Statement (.maxn f) := form_fields (fun _ => rfl)
theorem sel (f : Fields) : Statement (.sel f) := form_fields (fun _ => rfl)
theorem mov (f : Fields) : Statement (.mov f) := form_fields (fun _ => rfl)
theorem movImm (f : Fields) : Statement (.movImm f) := form_fields (fun _ => rfl)
theorem movh (f : Fields) : Statement (.movh f) := form_fields (fun _ => rfl)
theorem bfx (f : Fields) : Statement (.bfx f) := form_fields (fun _ => rfl)
theorem bfi (f : Fields) : Statement (.bfi f) := form_fields (fun _ => rfl)
theorem cmp (f : Fields) : Statement (.cmp f) := form_fields (fun _ => rfl)
theorem gop (f : Fields) : Statement (.gop f) := form_fields (fun _ => rfl)
theorem cbnd (f : Fields) : Statement (.cbnd f) := form_fields (fun _ => rfl)
theorem csoff (f : Fields) : Statement (.csoff f) := form_fields (fun _ => rfl)
theorem cinc (f : Fields) : Statement (.cinc f) := form_fields (fun _ => rfl)
theorem cperm (f : Fields) : Statement (.cperm f) := form_fields (fun _ => rfl)
theorem cfld (f : Fields) : Statement (.cfld f) := form_fields (fun _ => rfl)
theorem ctag (f : Fields) : Statement (.ctag f) := form_fields (fun _ => rfl)
theorem cseal (f : Fields) : Statement (.cseal f) := form_fields (fun _ => rfl)
theorem cunseal (f : Fields) : Statement (.cunseal f) := form_fields (fun _ => rfl)
theorem cclr (f : Fields) : Statement (.cclr f) := form_fields (fun _ => rfl)
theorem fadd (f : Fields) : Statement (.fadd f) := form_fields (fun _ => rfl)
theorem fsub (f : Fields) : Statement (.fsub f) := form_fields (fun _ => rfl)
theorem fmul (f : Fields) : Statement (.fmul f) := form_fields (fun _ => rfl)
theorem ffma (f : Fields) : Statement (.ffma f) := form_fields (fun _ => rfl)
theorem fdiv (f : Fields) : Statement (.fdiv f) := form_fields (fun _ => rfl)
theorem fsqrt (f : Fields) : Statement (.fsqrt f) := form_fields (fun _ => rfl)
theorem fmin (f : Fields) : Statement (.fmin f) := form_fields (fun _ => rfl)
theorem fmax (f : Fields) : Statement (.fmax f) := form_fields (fun _ => rfl)
theorem fcmp (f : Fields) : Statement (.fcmp f) := form_fields (fun _ => rfl)
theorem fcvt (f : Fields) : Statement (.fcvt f) := form_fields (fun _ => rfl)
theorem fclass (f : Fields) : Statement (.fclass f) := form_fields (fun _ => rfl)
theorem bra (f : Fields) : Statement (.bra f) := form_fields (fun _ => rfl)
theorem jmp (f : Fields) : Statement (.jmp f) := form_fields (fun _ => rfl)
theorem call (f : Fields) : Statement (.call f) := form_fields (fun _ => rfl)
theorem callInd (f : Fields) : Statement (.callInd f) := form_fields (fun _ => rfl)
theorem ret (f : Fields) : Statement (.ret f) := form_fields (fun _ => rfl)
theorem repI (f : Fields) : Statement (.repI f) := form_fields (fun _ => rfl)
theorem yield (f : Fields) : Statement (.yield f) := form_fields (fun _ => rfl)
theorem endItem (f : Fields) : Statement (.endItem f) := form_fields (fun _ => rfl)
theorem nop (f : Fields) : Statement (.nop f) := form_fields (fun _ => rfl)
theorem tail (f : Fields) : Statement (.tail f) := form_fields (fun _ => rfl)
theorem rng (f : Fields) : Statement (.rng f) := form_fields (fun _ => rfl)
theorem rngseed (f : Fields) : Statement (.rngseed f) := form_fields (fun _ => rfl)
theorem vadd (f : Fields) : Statement (.vadd f) := form_fields (fun _ => rfl)
theorem vsub (f : Fields) : Statement (.vsub f) := form_fields (fun _ => rfl)
theorem vmul (f : Fields) : Statement (.vmul f) := form_fields (fun _ => rfl)
theorem vfma (f : Fields) : Statement (.vfma f) := form_fields (fun _ => rfl)
theorem vfms (f : Fields) : Statement (.vfms f) := form_fields (fun _ => rfl)
theorem vmin (f : Fields) : Statement (.vmin f) := form_fields (fun _ => rfl)
theorem vmax (f : Fields) : Statement (.vmax f) := form_fields (fun _ => rfl)
theorem vabs (f : Fields) : Statement (.vabs f) := form_fields (fun _ => rfl)
theorem vneg (f : Fields) : Statement (.vneg f) := form_fields (fun _ => rfl)
theorem vrcp (f : Fields) : Statement (.vrcp f) := form_fields (fun _ => rfl)
theorem vrsq (f : Fields) : Statement (.vrsq f) := form_fields (fun _ => rfl)
theorem vexp2 (f : Fields) : Statement (.vexp2 f) := form_fields (fun _ => rfl)
theorem vlog2 (f : Fields) : Statement (.vlog2 f) := form_fields (fun _ => rfl)
theorem vand (f : Fields) : Statement (.vand f) := form_fields (fun _ => rfl)
theorem vor (f : Fields) : Statement (.vor f) := form_fields (fun _ => rfl)
theorem vxor (f : Fields) : Statement (.vxor f) := form_fields (fun _ => rfl)
theorem vandn (f : Fields) : Statement (.vandn f) := form_fields (fun _ => rfl)
theorem vshl (f : Fields) : Statement (.vshl f) := form_fields (fun _ => rfl)
theorem vshr (f : Fields) : Statement (.vshr f) := form_fields (fun _ => rfl)
theorem vsar (f : Fields) : Statement (.vsar f) := form_fields (fun _ => rfl)
theorem vpopc (f : Fields) : Statement (.vpopc f) := form_fields (fun _ => rfl)
theorem vclz (f : Fields) : Statement (.vclz f) := form_fields (fun _ => rfl)
theorem vclmul (f : Fields) : Statement (.vclmul f) := form_fields (fun _ => rfl)
theorem vcmp (f : Fields) : Statement (.vcmp f) := form_fields (fun _ => rfl)
theorem vsel (f : Fields) : Statement (.vsel f) := form_fields (fun _ => rfl)
theorem vcvt (f : Fields) : Statement (.vcvt f) := form_fields (fun _ => rfl)
theorem vbcast (f : Fields) : Statement (.vbcast f) := form_fields (fun _ => rfl)
theorem vperm (f : Fields) : Statement (.vperm f) := form_fields (fun _ => rfl)
theorem vslide (f : Fields) : Statement (.vslide f) := form_fields (fun _ => rfl)
theorem vcompress (f : Fields) : Statement (.vcompress f) := form_fields (fun _ => rfl)
theorem viota (f : Fields) : Statement (.viota f) := form_fields (fun _ => rfl)
theorem vmovc (f : Fields) : Statement (.vmovc f) := form_fields (fun _ => rfl)
theorem vins (f : Fields) : Statement (.vins f) := form_fields (fun _ => rfl)
theorem vred (f : Fields) : Statement (.vred f) := form_fields (fun _ => rfl)
theorem vscan (f : Fields) : Statement (.vscan f) := form_fields (fun _ => rfl)
theorem vdot (f : Fields) : Statement (.vdot f) := form_fields (fun _ => rfl)
theorem ld (f : Fields) : Statement (.ld f) := form_fields (fun _ => rfl)
theorem st (f : Fields) : Statement (.st f) := form_fields (fun _ => rfl)
theorem ldc (f : Fields) : Statement (.ldc f) := form_fields (fun _ => rfl)
theorem stc (f : Fields) : Statement (.stc f) := form_fields (fun _ => rfl)
theorem ldv (f : Fields) : Statement (.ldv f) := form_fields (fun _ => rfl)
theorem stv (f : Fields) : Statement (.stv f) := form_fields (fun _ => rfl)
theorem gath (f : Fields) : Statement (.gath f) := form_fields (fun _ => rfl)
theorem scat (f : Fields) : Statement (.scat f) := form_fields (fun _ => rfl)
theorem pst (f : Fields) : Statement (.pst f) := form_fields (fun _ => rfl)
theorem pstV (f : Fields) : Statement (.pstV f) := form_fields (fun _ => rfl)
theorem pfetch (f : Fields) : Statement (.pfetch f) := form_fields (fun _ => rfl)
theorem qbind (f : Fields) : Statement (.qbind f) := form_fields (fun _ => rfl)
theorem qrel (f : Fields) : Statement (.qrel f) := form_fields (fun _ => rfl)
theorem tlock (f : Fields) : Statement (.tlock f) := form_fields (fun _ => rfl)
theorem tunlock (f : Fields) : Statement (.tunlock f) := form_fields (fun _ => rfl)
theorem tprobe (f : Fields) : Statement (.tprobe f) := form_fields (fun _ => rfl)
theorem tinv (f : Fields) : Statement (.tinv f) := form_fields (fun _ => rfl)
theorem tinvAll (f : Fields) : Statement (.tinvAll f) := form_fields (fun _ => rfl)
theorem tfill (f : Fields) : Statement (.tfill f) := form_fields (fun _ => rfl)
theorem lda (f : Fields) : Statement (.lda f) := form_fields (fun _ => rfl)
theorem stl (f : Fields) : Statement (.stl f) := form_fields (fun _ => rfl)
theorem amo (f : Fields) : Statement (.amo f) := form_fields (fun _ => rfl)
theorem cas (f : Fields) : Statement (.cas f) := form_fields (fun _ => rfl)
theorem casw (f : Fields) : Statement (.casw f) := form_fields (fun _ => rfl)
theorem fence (f : Fields) : Statement (.fence f) := form_fields (fun _ => rfl)
theorem waitm (f : Fields) : Statement (.waitm f) := form_fields (fun _ => rfl)
theorem waitmPoll (core slot : Nat) : Statement (.waitmPoll core slot) := no_form (fun _ => rfl)
theorem hurdle (f : Fields) : Statement (.hurdle f) := form_fields (fun _ => rfl)
theorem arrive (f : Fields) : Statement (.arrive f) := form_fields (fun _ => rfl)
theorem arriveOne (f : Fields) : Statement (.arriveOne f) := form_fields (fun _ => rfl)
theorem cwait (f : Fields) : Statement (.cwait f) := form_fields (fun _ => rfl)
theorem cwaitPoll (core slot : Nat) : Statement (.cwaitPoll core slot) := no_form (fun _ => rfl)
theorem cwaitSb (f : Fields) : Statement (.cwaitSb f) := form_fields (fun _ => rfl)
theorem cyopen (f : Fields) : Statement (.cyopen f) := form_fields (fun _ => rfl)
theorem cyres (f : Fields) : Statement (.cyres f) := form_fields (fun _ => rfl)
theorem cystep (f : Fields) : Statement (.cystep f) := form_fields (fun _ => rfl)
theorem cystat (f : Fields) : Statement (.cystat f) := form_fields (fun _ => rfl)
theorem cyclose (f : Fields) : Statement (.cyclose f) := form_fields (fun _ => rfl)
theorem wupd (f : Fields) : Statement (.wupd f) := form_fields (fun _ => rfl)
theorem fork (f : Fields) : Statement (.fork f) := form_fields (fun _ => rfl)
theorem rdv (f : Fields) : Statement (.rdv f) := form_fields (fun _ => rfl)
theorem inrecv (f : Fields) : Statement (.inrecv f) := form_fields (fun _ => rfl)
theorem inpeek (f : Fields) : Statement (.inpeek f) := form_fields (fun _ => rfl)
theorem inwait (f : Fields) : Statement (.inwait f) := form_fields (fun _ => rfl)
theorem inwaitTimeout (core slot : Nat) : Statement (.inwaitTimeout core slot) := no_form (fun _ => rfl)
theorem sendChan (f : Fields) : Statement (.sendChan f) := form_fields (fun _ => rfl)
theorem sendTg (f : Fields) : Statement (.sendTg f) := form_fields (fun _ => rfl)
theorem sendIn (f : Fields) : Statement (.sendIn f) := form_fields (fun _ => rfl)
theorem recv (f : Fields) : Statement (.recv f) := form_fields (fun _ => rfl)
theorem matchI (f : Fields) : Statement (.matchI f) := form_fields (fun _ => rfl)
theorem unmatch (f : Fields) : Statement (.unmatch f) := form_fields (fun _ => rfl)
theorem redc (f : Fields) : Statement (.redc f) := form_fields (fun _ => rfl)
theorem a2at (f : Fields) : Statement (.a2at f) := form_fields (fun _ => rfl)
theorem mapld (f : Fields) : Statement (.mapld f) := form_fields (fun _ => rfl)
theorem ppop (f : Fields) : Statement (.ppop f) := form_fields (fun _ => rfl)
theorem ppush (f : Fields) : Statement (.ppush f) := form_fields (fun _ => rfl)
theorem psplice (f : Fields) : Statement (.psplice f) := form_fields (fun _ => rfl)
theorem pstate (f : Fields) : Statement (.pstate f) := form_fields (fun _ => rfl)
theorem pend (f : Fields) : Statement (.pend f) := form_fields (fun _ => rfl)
theorem demit (f : Fields) : Statement (.demit f) := form_fields (fun _ => rfl)
theorem ddrop (f : Fields) : Statement (.ddrop f) := form_fields (fun _ => rfl)
theorem dstat (f : Fields) : Statement (.dstat f) := form_fields (fun _ => rfl)
theorem tidld (f : Fields) : Statement (.tidld f) := form_fields (fun _ => rfl)
theorem tidst (f : Fields) : Statement (.tidst f) := form_fields (fun _ => rfl)
theorem tidinv (f : Fields) : Statement (.tidinv f) := form_fields (fun _ => rfl)
theorem trapI (f : Fields) : Statement (.trapI f) := form_fields (fun _ => rfl)
theorem eret (f : Fields) : Statement (.eret f) := form_fields (fun _ => rfl)
theorem upret (f : Fields) : Statement (.upret f) := form_fields (fun _ => rfl)
theorem upretLeave (f : Fields) : Statement (.upretLeave f) := form_fields (fun _ => rfl)
theorem sysrd (f : Fields) : Statement (.sysrd f) := form_fields (fun _ => rfl)
theorem syswr (f : Fields) : Statement (.syswr f) := form_fields (fun _ => rfl)
theorem wfi (f : Fields) : Statement (.wfi f) := form_fields (fun _ => rfl)
theorem wfiTimeout (core slot : Nat) : Statement (.wfiTimeout core slot) := no_form (fun _ => rfl)
theorem ctxsave (f : Fields) : Statement (.ctxsave f) := form_fields (fun _ => rfl)
theorem ctxload (f : Fields) : Statement (.ctxload f) := form_fields (fun _ => rfl)
theorem bkpt (f : Fields) : Statement (.bkpt f) := form_fields (fun _ => rfl)
theorem preq (f : Fields) : Statement (.preq f) := form_fields (fun _ => rfl)
theorem issueChoice (core : Nat) : Statement (.issueChoice core) := no_form (fun _ => rfl)
theorem takePending (core slot : Nat) : Statement (.takePending core slot) := no_form (fun _ => rfl)
theorem timer (core slot : Nat) : Statement (.timer core slot) := no_form (fun _ => rfl)
theorem copy (core : Nat) : Statement (.copy core) := no_form (fun _ => rfl)
theorem deal (core : Nat) : Statement (.deal core) := no_form (fun _ => rfl)
theorem cmark (core : Nat) : Statement (.cmark core) := no_form (fun _ => rfl)
theorem cmarkCancel (core slot : Nat) (record : BitVec 512) : Statement (.cmarkCancel core slot record) := no_form (fun _ => rfl)
theorem qscale (core : Nat) : Statement (.qscale core) := no_form (fun _ => rfl)
theorem qpack (core : Nat) : Statement (.qpack core) := no_form (fun _ => rfl)
theorem qunpack (core : Nat) : Statement (.qunpack core) := no_form (fun _ => rfl)
theorem mma (core : Nat) : Statement (.mma core) := no_form (fun _ => rfl)
theorem mzero (core : Nat) : Statement (.mzero core) := no_form (fun _ => rfl)
theorem mmark (core : Nat) : Statement (.mmark core) := no_form (fun _ => rfl)
theorem forkSequenceRead (core : Nat) (engine : Engine) : Statement (.forkSequenceRead core engine) := no_form (fun _ => rfl)
theorem mmaCheck (core : Nat) (mismatch again : Bool) : Statement (.mmaCheck core mismatch again) := no_form (fun _ => rfl)
theorem drainRowHandoff (core : Nat) : Statement (.drainRowHandoff core) := no_form (fun _ => rfl)
theorem engineCompletion (core : Nat) (engine : Engine) : Statement (.engineCompletion core engine) := no_form (fun _ => rfl)
theorem cxlAccessTimeout (core : Nat) : Statement (.cxlAccessTimeout core) := no_form (fun _ => rfl)
theorem missReport (core slot : Nat) : Statement (.missReport core slot) := no_form (fun _ => rfl)
theorem missReportRepeat (core slot : Nat) : Statement (.missReportRepeat core slot) := no_form (fun _ => rfl)
theorem translationNotice (fold entry : Nat) (failed : Bool) : Statement (.translationNotice fold entry failed) := no_form (fun _ => rfl)
theorem migrationCountReport (fold page : Nat) : Statement (.migrationCountReport fold page) := no_form (fun _ => rfl)
theorem mqtailWrite (ctx : Nat) (value : Word64) : Statement (.mqtailWrite ctx value) := no_form (fun _ => rfl)
theorem pstArrival (core slot entry : Nat) : Statement (.pstArrival core slot entry) := no_form (fun _ => rfl)
theorem pstAck (core slot entry : Nat) : Statement (.pstAck core slot entry) := no_form (fun _ => rfl)
theorem pstNack (core slot entry : Nat) : Statement (.pstNack core slot entry) := no_form (fun _ => rfl)
theorem pstRetry (core slot entry : Nat) : Statement (.pstRetry core slot entry) := no_form (fun _ => rfl)
theorem pstParkedTimeout (core slot entry : Nat) : Statement (.pstParkedTimeout core slot entry) := no_form (fun _ => rfl)
theorem remoteAccessArrival (core slot : Nat) : Statement (.remoteAccessArrival core slot) := no_form (fun _ => rfl)
theorem messageArrival (core slot entry : Nat) (far : Option FarMsg) : Statement (.messageArrival core slot entry far) := no_form (fun _ => rfl)
theorem sendAck (core slot entry : Nat) : Statement (.sendAck core slot entry) := no_form (fun _ => rfl)
theorem sendNack (core slot entry : Nat) (reason : Nat) : Statement (.sendNack core slot entry reason) := no_form (fun _ => rfl)
theorem sendRetry (core slot entry : Nat) : Statement (.sendRetry core slot entry) := no_form (fun _ => rfl)
theorem reductionPacketArrival (fold : Nat) : Statement (.reductionPacketArrival fold) := no_form (fun _ => rfl)
theorem reductionEntryTimeout (fold tree group seq : Nat) : Statement (.reductionEntryTimeout fold tree group seq) := no_form (fun _ => rfl)
theorem reductionResultArrival (fold : Nat) : Statement (.reductionResultArrival fold) := no_form (fun _ => rfl)
theorem pushModeReturn (fold : Nat) (gaddr header cset : Word64) (payload : BitVec 512) : Statement (.pushModeReturn fold gaddr header cset payload) := no_form (fun _ => rfl)
theorem pushModeTimeout (fold tree group seq : Nat) : Statement (.pushModeTimeout fold tree group seq) := no_form (fun _ => rfl)
theorem exchangeBlock (ctx entry part : Nat) : Statement (.exchangeBlock ctx entry part) := no_form (fun _ => rfl)
theorem exchangeDelivery (ctx entry part : Nat) : Statement (.exchangeDelivery ctx entry part) := no_form (fun _ => rfl)
theorem cycleHardDeadline (ctx cycle : Nat) : Statement (.cycleHardDeadline ctx cycle) := no_form (fun _ => rfl)
theorem doorbell (ctx queue : Nat) (value : BitVec 32) : Statement (.doorbell ctx queue value) := no_form (fun _ => rfl)
theorem dispatch (ctx : Nat) : Statement (.dispatch ctx) := no_form (fun _ => rfl)
theorem launch (ctx queue : Nat) : Statement (.launch ctx queue) := no_form (fun _ => rfl)
theorem pipeStart (ctx queue : Nat) : Statement (.pipeStart ctx queue) := no_form (fun _ => rfl)
theorem pipeSplice (ctx queue : Nat) : Statement (.pipeSplice ctx queue) := no_form (fun _ => rfl)
theorem coll (ctx queue : Nat) : Statement (.coll ctx queue) := no_form (fun _ => rfl)
theorem detlevel (ctx queue : Nat) : Statement (.detlevel ctx queue) := no_form (fun _ => rfl)
theorem fencePacket (ctx queue : Nat) : Statement (.fencePacket ctx queue) := no_form (fun _ => rfl)
theorem signalStore (ctx queue : Nat) : Statement (.signalStore ctx queue) := no_form (fun _ => rfl)
theorem signalAdd (ctx queue : Nat) : Statement (.signalAdd ctx queue) := no_form (fun _ => rfl)
theorem waitv (ctx queue : Nat) : Statement (.waitv ctx queue) := no_form (fun _ => rfl)
theorem waitvPoll (ctx queue : Nat) : Statement (.waitvPoll ctx queue) := no_form (fun _ => rfl)
theorem waitTimeout (ctx queue : Nat) : Statement (.waitTimeout ctx queue) := no_form (fun _ => rfl)
theorem preempt (ctx queue : Nat) : Statement (.preempt ctx queue) := no_form (fun _ => rfl)
theorem reserving (ctx queue : Nat) : Statement (.reserving ctx queue) := no_form (fun _ => rfl)
theorem slotSwap (core : Nat) : Statement (.slotSwap core) := no_form (fun _ => rfl)
theorem swapQuantumExpiry (core : Nat) : Statement (.swapQuantumExpiry core) := no_form (fun _ => rfl)
theorem crookSave (ctx queue : Nat) : Statement (.crookSave ctx queue) := no_form (fun _ => rfl)
theorem gangResume (ctx queue : Nat) : Statement (.gangResume ctx queue) := no_form (fun _ => rfl)
theorem sourceAdmit (ctx pipe : Nat) : Statement (.sourceAdmit ctx pipe) := no_form (fun _ => rfl)
theorem sinkWrite (ctx pipe : Nat) : Statement (.sinkWrite ctx pipe) := no_form (fun _ => rfl)
theorem shepherdSample (ctx pipe : Nat) : Statement (.shepherdSample ctx pipe) := no_form (fun _ => rfl)
theorem fbfree (core slot : Nat) (value : Word64) : Statement (.fbfree core slot value) := no_form (fun _ => rfl)
theorem qerrClear (ctx : Nat) (value : Word64) : Statement (.qerrClear ctx value) := no_form (fun _ => rfl)
theorem lotseed (ctx : Nat) (value : Word64) : Statement (.lotseed ctx value) := no_form (fun _ => rfl)
theorem abortW (ctx : Nat) (value : Word64) : Statement (.abortW ctx value) := no_form (fun _ => rfl)
theorem qclear (fold : Nat) (value : Word64) : Statement (.qclear fold value) := no_form (fun _ => rfl)
theorem partitionChange (value : Word64) : Statement (.partitionChange value) := no_form (fun _ => rfl)
theorem registerWrite (offset : Nat) (value : Word64) : Statement (.registerWrite offset value) := no_form (fun _ => rfl)
theorem report : Statement (.report) := no_form (fun _ => rfl)
theorem join : Statement (.join) := no_form (fun _ => rfl)
theorem joinKey : Statement (.joinKey) := no_form (fun _ => rfl)
theorem revoke : Statement (.revoke) := no_form (fun _ => rfl)
theorem thaw : Statement (.thaw) := no_form (fun _ => rfl)
theorem scrub : Statement (.scrub) := no_form (fun _ => rfl)
theorem badOp : Statement (.badOp) := no_form (fun _ => rfl)
theorem linkAuthFailure (port : Nat) : Statement (.linkAuthFailure port) := no_form (fun _ => rfl)
theorem powerGood (badImage : Option Nat) : Statement (.powerGood badImage) := no_form (fun _ => rfl)
theorem reduced : Statement (.reduced) := no_form (fun _ => rfl)
theorem full : Statement (.full) := no_form (fun _ => rfl)
theorem throttled (watts tjmax : Nat) : Statement (.throttled watts tjmax) := no_form (fun _ => rfl)
theorem overtempPowerOff (tjmax : Nat) : Statement (.overtempPowerOff tjmax) := no_form (fun _ => rfl)
theorem timeSync (value : Word64) : Statement (.timeSync value) := no_form (fun _ => rfl)
theorem linkStateChange (port state : Nat) : Statement (.linkStateChange port state) := no_form (fun _ => rfl)
theorem hostCxlAccess (write : Bool) (address : Nat) (bytes : List Byte) : Statement (.hostCxlAccess write address bytes) := no_form (fun _ => rfl)
theorem notbeforeReached (core : Nat) : Statement (.notbeforeReached core) := no_form (fun _ => rfl)
theorem noPortUpTimeout (core slot : Nat) (posted : Bool) (entry : Nat) : Statement (.noPortUpTimeout core slot posted entry) := no_form (fun _ => rfl)
theorem powerLoss : Statement (.powerLoss) := no_form (fun _ => rfl)
theorem clockRestore (watts tjmax : Nat) : Statement (.clockRestore watts tjmax) := no_form (fun _ => rfl)
theorem hostPortTraining (port : Nat) (trained : Bool) : Statement (.hostPortTraining port trained) := no_form (fun _ => rfl)
theorem coreRepair (core offer : Nat) : Statement (.coreRepair core offer) := no_form (fun _ => rfl)

end Sys2Proof.Laws.Form
end

