-- ==== Sys2Proof/Laws/State.lean ====
section
/-!
SUPPORT. What each update of the state and of a context leaves alone and what it changes: one lemma per field per update, so
that no later proof unfolds a record update.
-/

namespace Sys2Proof.Machine

/-! ### Tables of the state: what a read gives after an update -/

@[simp] theorem State.ctx_setCtx (s : State) (k j : Nat) (x : Ctx) : (s.setCtx k x).ctx j = if j = k then x else s.ctx j :=
  Sparse.get_put _ _ _ _ _
@[simp] theorem State.ctx_modCtx (s : State) (k j : Nat) (f : Ctx → Ctx) :
    (s.modCtx k f).ctx j = if j = k then f (s.ctx k) else s.ctx j := Sparse.get_put _ _ _ _ _
@[simp] theorem State.slot_setCtx (s : State) (k j : Nat) (x : Ctx) : (s.setCtx k x).slot j = s.slot j := rfl
@[simp] theorem State.slot_modCtx (s : State) (k j : Nat) (f : Ctx → Ctx) : (s.modCtx k f).slot j = s.slot j := rfl
@[simp] theorem State.core_setCtx (s : State) (k j : Nat) (x : Ctx) : (s.setCtx k x).core j = s.core j := rfl
@[simp] theorem State.core_modCtx (s : State) (k j : Nat) (f : Ctx → Ctx) : (s.modCtx k f).core j = s.core j := rfl
@[simp] theorem State.fold_setCtx (s : State) (k j : Nat) (x : Ctx) : (s.setCtx k x).fold j = s.fold j := rfl
@[simp] theorem State.fold_modCtx (s : State) (k j : Nat) (f : Ctx → Ctx) : (s.modCtx k f).fold j = s.fold j := rfl
@[simp] theorem State.drover_setCtx (s : State) (k j : Nat) (x : Ctx) : (s.setCtx k x).drover j = s.drover j := rfl
@[simp] theorem State.drover_modCtx (s : State) (k j : Nat) (f : Ctx → Ctx) : (s.modCtx k f).drover j = s.drover j := rfl
@[simp] theorem State.gang_setCtx (s : State) (k j : Nat) (x : Ctx) : (s.setCtx k x).gang j = s.gang j := rfl
@[simp] theorem State.gang_modCtx (s : State) (k j : Nat) (f : Ctx → Ctx) : (s.modCtx k f).gang j = s.gang j := rfl
@[simp] theorem State.slot_setSlot (s : State) (k j : Nat) (x : Slot) : (s.setSlot k x).slot j = if j = k then x else s.slot j :=
  Sparse.get_put _ _ _ _ _
@[simp] theorem State.slot_modSlot (s : State) (k j : Nat) (f : Slot → Slot) :
    (s.modSlot k f).slot j = if j = k then f (s.slot k) else s.slot j := Sparse.get_put _ _ _ _ _
@[simp] theorem State.ctx_setSlot (s : State) (k j : Nat) (x : Slot) : (s.setSlot k x).ctx j = s.ctx j := rfl
@[simp] theorem State.ctx_modSlot (s : State) (k j : Nat) (f : Slot → Slot) : (s.modSlot k f).ctx j = s.ctx j := rfl
@[simp] theorem State.core_setSlot (s : State) (k j : Nat) (x : Slot) : (s.setSlot k x).core j = s.core j := rfl
@[simp] theorem State.core_modSlot (s : State) (k j : Nat) (f : Slot → Slot) : (s.modSlot k f).core j = s.core j := rfl
@[simp] theorem State.fold_setSlot (s : State) (k j : Nat) (x : Slot) : (s.setSlot k x).fold j = s.fold j := rfl
@[simp] theorem State.fold_modSlot (s : State) (k j : Nat) (f : Slot → Slot) : (s.modSlot k f).fold j = s.fold j := rfl
@[simp] theorem State.drover_setSlot (s : State) (k j : Nat) (x : Slot) : (s.setSlot k x).drover j = s.drover j := rfl
@[simp] theorem State.drover_modSlot (s : State) (k j : Nat) (f : Slot → Slot) : (s.modSlot k f).drover j = s.drover j := rfl
@[simp] theorem State.gang_setSlot (s : State) (k j : Nat) (x : Slot) : (s.setSlot k x).gang j = s.gang j := rfl
@[simp] theorem State.gang_modSlot (s : State) (k j : Nat) (f : Slot → Slot) : (s.modSlot k f).gang j = s.gang j := rfl
@[simp] theorem State.core_setCore (s : State) (k j : Nat) (x : Core) : (s.setCore k x).core j = if j = k then x else s.core j :=
  Sparse.get_put _ _ _ _ _
@[simp] theorem State.core_modCore (s : State) (k j : Nat) (f : Core → Core) :
    (s.modCore k f).core j = if j = k then f (s.core k) else s.core j := Sparse.get_put _ _ _ _ _
@[simp] theorem State.ctx_setCore (s : State) (k j : Nat) (x : Core) : (s.setCore k x).ctx j = s.ctx j := rfl
@[simp] theorem State.ctx_modCore (s : State) (k j : Nat) (f : Core → Core) : (s.modCore k f).ctx j = s.ctx j := rfl
@[simp] theorem State.slot_setCore (s : State) (k j : Nat) (x : Core) : (s.setCore k x).slot j = s.slot j := rfl
@[simp] theorem State.slot_modCore (s : State) (k j : Nat) (f : Core → Core) : (s.modCore k f).slot j = s.slot j := rfl
@[simp] theorem State.fold_setCore (s : State) (k j : Nat) (x : Core) : (s.setCore k x).fold j = s.fold j := rfl
@[simp] theorem State.fold_modCore (s : State) (k j : Nat) (f : Core → Core) : (s.modCore k f).fold j = s.fold j := rfl
@[simp] theorem State.drover_setCore (s : State) (k j : Nat) (x : Core) : (s.setCore k x).drover j = s.drover j := rfl
@[simp] theorem State.drover_modCore (s : State) (k j : Nat) (f : Core → Core) : (s.modCore k f).drover j = s.drover j := rfl
@[simp] theorem State.gang_setCore (s : State) (k j : Nat) (x : Core) : (s.setCore k x).gang j = s.gang j := rfl
@[simp] theorem State.gang_modCore (s : State) (k j : Nat) (f : Core → Core) : (s.modCore k f).gang j = s.gang j := rfl
@[simp] theorem State.fold_setFold (s : State) (k j : Nat) (x : Fold) : (s.setFold k x).fold j = if j = k then x else s.fold j :=
  Sparse.get_put _ _ _ _ _
@[simp] theorem State.fold_modFold (s : State) (k j : Nat) (f : Fold → Fold) :
    (s.modFold k f).fold j = if j = k then f (s.fold k) else s.fold j := Sparse.get_put _ _ _ _ _
@[simp] theorem State.ctx_setFold (s : State) (k j : Nat) (x : Fold) : (s.setFold k x).ctx j = s.ctx j := rfl
@[simp] theorem State.ctx_modFold (s : State) (k j : Nat) (f : Fold → Fold) : (s.modFold k f).ctx j = s.ctx j := rfl
@[simp] theorem State.slot_setFold (s : State) (k j : Nat) (x : Fold) : (s.setFold k x).slot j = s.slot j := rfl
@[simp] theorem State.slot_modFold (s : State) (k j : Nat) (f : Fold → Fold) : (s.modFold k f).slot j = s.slot j := rfl
@[simp] theorem State.core_setFold (s : State) (k j : Nat) (x : Fold) : (s.setFold k x).core j = s.core j := rfl
@[simp] theorem State.core_modFold (s : State) (k j : Nat) (f : Fold → Fold) : (s.modFold k f).core j = s.core j := rfl
@[simp] theorem State.drover_setFold (s : State) (k j : Nat) (x : Fold) : (s.setFold k x).drover j = s.drover j := rfl
@[simp] theorem State.drover_modFold (s : State) (k j : Nat) (f : Fold → Fold) : (s.modFold k f).drover j = s.drover j := rfl
@[simp] theorem State.gang_setFold (s : State) (k j : Nat) (x : Fold) : (s.setFold k x).gang j = s.gang j := rfl
@[simp] theorem State.gang_modFold (s : State) (k j : Nat) (f : Fold → Fold) : (s.modFold k f).gang j = s.gang j := rfl
@[simp] theorem State.drover_setDrover (s : State) (k j : Nat) (x : Drover) : (s.setDrover k x).drover j = if j = k then x else s.drover j :=
  Sparse.get_put _ _ _ _ _
@[simp] theorem State.drover_modDrover (s : State) (k j : Nat) (f : Drover → Drover) :
    (s.modDrover k f).drover j = if j = k then f (s.drover k) else s.drover j := Sparse.get_put _ _ _ _ _
@[simp] theorem State.ctx_setDrover (s : State) (k j : Nat) (x : Drover) : (s.setDrover k x).ctx j = s.ctx j := rfl
@[simp] theorem State.ctx_modDrover (s : State) (k j : Nat) (f : Drover → Drover) : (s.modDrover k f).ctx j = s.ctx j := rfl
@[simp] theorem State.slot_setDrover (s : State) (k j : Nat) (x : Drover) : (s.setDrover k x).slot j = s.slot j := rfl
@[simp] theorem State.slot_modDrover (s : State) (k j : Nat) (f : Drover → Drover) : (s.modDrover k f).slot j = s.slot j := rfl
@[simp] theorem State.core_setDrover (s : State) (k j : Nat) (x : Drover) : (s.setDrover k x).core j = s.core j := rfl
@[simp] theorem State.core_modDrover (s : State) (k j : Nat) (f : Drover → Drover) : (s.modDrover k f).core j = s.core j := rfl
@[simp] theorem State.fold_setDrover (s : State) (k j : Nat) (x : Drover) : (s.setDrover k x).fold j = s.fold j := rfl
@[simp] theorem State.fold_modDrover (s : State) (k j : Nat) (f : Drover → Drover) : (s.modDrover k f).fold j = s.fold j := rfl
@[simp] theorem State.gang_setDrover (s : State) (k j : Nat) (x : Drover) : (s.setDrover k x).gang j = s.gang j := rfl
@[simp] theorem State.gang_modDrover (s : State) (k j : Nat) (f : Drover → Drover) : (s.modDrover k f).gang j = s.gang j := rfl
@[simp] theorem State.gang_setGang (s : State) (k j : Nat) (x : Gang) : (s.setGang k x).gang j = if j = k then x else s.gang j :=
  Sparse.get_put _ _ _ _ _
@[simp] theorem State.gang_modGang (s : State) (k j : Nat) (f : Gang → Gang) :
    (s.modGang k f).gang j = if j = k then f (s.gang k) else s.gang j := Sparse.get_put _ _ _ _ _
@[simp] theorem State.ctx_setGang (s : State) (k j : Nat) (x : Gang) : (s.setGang k x).ctx j = s.ctx j := rfl
@[simp] theorem State.ctx_modGang (s : State) (k j : Nat) (f : Gang → Gang) : (s.modGang k f).ctx j = s.ctx j := rfl
@[simp] theorem State.slot_setGang (s : State) (k j : Nat) (x : Gang) : (s.setGang k x).slot j = s.slot j := rfl
@[simp] theorem State.slot_modGang (s : State) (k j : Nat) (f : Gang → Gang) : (s.modGang k f).slot j = s.slot j := rfl
@[simp] theorem State.core_setGang (s : State) (k j : Nat) (x : Gang) : (s.setGang k x).core j = s.core j := rfl
@[simp] theorem State.core_modGang (s : State) (k j : Nat) (f : Gang → Gang) : (s.modGang k f).core j = s.core j := rfl
@[simp] theorem State.fold_setGang (s : State) (k j : Nat) (x : Gang) : (s.setGang k x).fold j = s.fold j := rfl
@[simp] theorem State.fold_modGang (s : State) (k j : Nat) (f : Gang → Gang) : (s.modGang k f).fold j = s.fold j := rfl
@[simp] theorem State.drover_setGang (s : State) (k j : Nat) (x : Gang) : (s.setGang k x).drover j = s.drover j := rfl
@[simp] theorem State.drover_modGang (s : State) (k j : Nat) (f : Gang → Gang) : (s.modGang k f).drover j = s.drover j := rfl

/-! ### Fields of the state -/

@[simp] theorem State.setCtx_mem (s : State) (k : Nat) (x : Ctx) : (s.setCtx k x).mem = s.mem := rfl
@[simp] theorem State.modCtx_mem (s : State) (k : Nat) (f : Ctx → Ctx) : (s.modCtx k f).mem = s.mem := rfl
@[simp] theorem State.setCtx_tags (s : State) (k : Nat) (x : Ctx) : (s.setCtx k x).tags = s.tags := rfl
@[simp] theorem State.modCtx_tags (s : State) (k : Nat) (f : Ctx → Ctx) : (s.modCtx k f).tags = s.tags := rfl
@[simp] theorem State.setCtx_slots (s : State) (k : Nat) (x : Ctx) : (s.setCtx k x).slots = s.slots := rfl
@[simp] theorem State.modCtx_slots (s : State) (k : Nat) (f : Ctx → Ctx) : (s.modCtx k f).slots = s.slots := rfl
@[simp] theorem State.setCtx_parked (s : State) (k : Nat) (x : Ctx) : (s.setCtx k x).parked = s.parked := rfl
@[simp] theorem State.modCtx_parked (s : State) (k : Nat) (f : Ctx → Ctx) : (s.modCtx k f).parked = s.parked := rfl
@[simp] theorem State.setCtx_cores (s : State) (k : Nat) (x : Ctx) : (s.setCtx k x).cores = s.cores := rfl
@[simp] theorem State.modCtx_cores (s : State) (k : Nat) (f : Ctx → Ctx) : (s.modCtx k f).cores = s.cores := rfl
@[simp] theorem State.setCtx_folds (s : State) (k : Nat) (x : Ctx) : (s.setCtx k x).folds = s.folds := rfl
@[simp] theorem State.modCtx_folds (s : State) (k : Nat) (f : Ctx → Ctx) : (s.modCtx k f).folds = s.folds := rfl
@[simp] theorem State.setCtx_drovers (s : State) (k : Nat) (x : Ctx) : (s.setCtx k x).drovers = s.drovers := rfl
@[simp] theorem State.modCtx_drovers (s : State) (k : Nat) (f : Ctx → Ctx) : (s.modCtx k f).drovers = s.drovers := rfl
@[simp] theorem State.setCtx_gangs (s : State) (k : Nat) (x : Ctx) : (s.setCtx k x).gangs = s.gangs := rfl
@[simp] theorem State.modCtx_gangs (s : State) (k : Nat) (f : Ctx → Ctx) : (s.modCtx k f).gangs = s.gangs := rfl
@[simp] theorem State.setCtx_pipes (s : State) (k : Nat) (x : Ctx) : (s.setCtx k x).pipes = s.pipes := rfl
@[simp] theorem State.modCtx_pipes (s : State) (k : Nat) (f : Ctx → Ctx) : (s.modCtx k f).pipes = s.pipes := rfl
@[simp] theorem State.setCtx_cycles (s : State) (k : Nat) (x : Ctx) : (s.setCtx k x).cycles = s.cycles := rfl
@[simp] theorem State.modCtx_cycles (s : State) (k : Nat) (f : Ctx → Ctx) : (s.modCtx k f).cycles = s.cycles := rfl
@[simp] theorem State.setCtx_tables (s : State) (k : Nat) (x : Ctx) : (s.setCtx k x).tables = s.tables := rfl
@[simp] theorem State.modCtx_tables (s : State) (k : Nat) (f : Ctx → Ctx) : (s.modCtx k f).tables = s.tables := rfl
@[simp] theorem State.setCtx_syncs (s : State) (k : Nat) (x : Ctx) : (s.setCtx k x).syncs = s.syncs := rfl
@[simp] theorem State.modCtx_syncs (s : State) (k : Nat) (f : Ctx → Ctx) : (s.modCtx k f).syncs = s.syncs := rfl
@[simp] theorem State.setCtx_raceMarks (s : State) (k : Nat) (x : Ctx) : (s.setCtx k x).raceMarks = s.raceMarks := rfl
@[simp] theorem State.modCtx_raceMarks (s : State) (k : Nat) (f : Ctx → Ctx) : (s.modCtx k f).raceMarks = s.raceMarks := rfl
@[simp] theorem State.setCtx_poison (s : State) (k : Nat) (x : Ctx) : (s.setCtx k x).poison = s.poison := rfl
@[simp] theorem State.modCtx_poison (s : State) (k : Nat) (f : Ctx → Ctx) : (s.modCtx k f).poison = s.poison := rfl
@[simp] theorem State.setCtx_firewall (s : State) (k : Nat) (x : Ctx) : (s.setCtx k x).firewall = s.firewall := rfl
@[simp] theorem State.modCtx_firewall (s : State) (k : Nat) (f : Ctx → Ctx) : (s.modCtx k f).firewall = s.firewall := rfl
@[simp] theorem State.setCtx_revoked (s : State) (k : Nat) (x : Ctx) : (s.setCtx k x).revoked = s.revoked := rfl
@[simp] theorem State.modCtx_revoked (s : State) (k : Nat) (f : Ctx → Ctx) : (s.modCtx k f).revoked = s.revoked := rfl
@[simp] theorem State.setCtx_device (s : State) (k : Nat) (x : Ctx) : (s.setCtx k x).device = s.device := rfl
@[simp] theorem State.modCtx_device (s : State) (k : Nat) (f : Ctx → Ctx) : (s.modCtx k f).device = s.device := rfl
@[simp] theorem State.setCtx_byvon (s : State) (k : Nat) (x : Ctx) : (s.setCtx k x).byvon = s.byvon := rfl
@[simp] theorem State.modCtx_byvon (s : State) (k : Nat) (f : Ctx → Ctx) : (s.modCtx k f).byvon = s.byvon := rfl
@[simp] theorem State.setCtx_nextLid (s : State) (k : Nat) (x : Ctx) : (s.setCtx k x).nextLid = s.nextLid := rfl
@[simp] theorem State.modCtx_nextLid (s : State) (k : Nat) (f : Ctx → Ctx) : (s.modCtx k f).nextLid = s.nextLid := rfl
@[simp] theorem State.setCtx_time (s : State) (k : Nat) (x : Ctx) : (s.setCtx k x).time = s.time := rfl
@[simp] theorem State.modCtx_time (s : State) (k : Nat) (f : Ctx → Ctx) : (s.modCtx k f).time = s.time := rfl
@[simp] theorem State.setCtx_turn (s : State) (k : Nat) (x : Ctx) : (s.setCtx k x).turn = s.turn := rfl
@[simp] theorem State.modCtx_turn (s : State) (k : Nat) (f : Ctx → Ctx) : (s.modCtx k f).turn = s.turn := rfl
@[simp] theorem State.setCtx_agenda (s : State) (k : Nat) (x : Ctx) : (s.setCtx k x).agenda = s.agenda := rfl
@[simp] theorem State.modCtx_agenda (s : State) (k : Nat) (f : Ctx → Ctx) : (s.modCtx k f).agenda = s.agenda := rfl
@[simp] theorem State.setCtx_free (s : State) (k : Nat) (x : Ctx) : (s.setCtx k x).free = s.free := rfl
@[simp] theorem State.modCtx_free (s : State) (k : Nat) (f : Ctx → Ctx) : (s.modCtx k f).free = s.free := rfl
@[simp] theorem State.setCtx_epoch (s : State) (k : Nat) (x : Ctx) : (s.setCtx k x).epoch = s.epoch := rfl
@[simp] theorem State.modCtx_epoch (s : State) (k : Nat) (f : Ctx → Ctx) : (s.modCtx k f).epoch = s.epoch := rfl
@[simp] theorem State.setCtx_cur (s : State) (k : Nat) (x : Ctx) : (s.setCtx k x).cur = s.cur := rfl
@[simp] theorem State.modCtx_cur (s : State) (k : Nat) (f : Ctx → Ctx) : (s.modCtx k f).cur = s.cur := rfl
@[simp] theorem State.setCtx_latch (s : State) (k : Nat) (x : Ctx) : (s.setCtx k x).latch = s.latch := rfl
@[simp] theorem State.modCtx_latch (s : State) (k : Nat) (f : Ctx → Ctx) : (s.modCtx k f).latch = s.latch := rfl
@[simp] theorem State.setSlot_mem (s : State) (k : Nat) (x : Slot) : (s.setSlot k x).mem = s.mem := rfl
@[simp] theorem State.modSlot_mem (s : State) (k : Nat) (f : Slot → Slot) : (s.modSlot k f).mem = s.mem := rfl
@[simp] theorem State.setSlot_tags (s : State) (k : Nat) (x : Slot) : (s.setSlot k x).tags = s.tags := rfl
@[simp] theorem State.modSlot_tags (s : State) (k : Nat) (f : Slot → Slot) : (s.modSlot k f).tags = s.tags := rfl
@[simp] theorem State.setSlot_ctxs (s : State) (k : Nat) (x : Slot) : (s.setSlot k x).ctxs = s.ctxs := rfl
@[simp] theorem State.modSlot_ctxs (s : State) (k : Nat) (f : Slot → Slot) : (s.modSlot k f).ctxs = s.ctxs := rfl
@[simp] theorem State.setSlot_parked (s : State) (k : Nat) (x : Slot) : (s.setSlot k x).parked = s.parked := rfl
@[simp] theorem State.modSlot_parked (s : State) (k : Nat) (f : Slot → Slot) : (s.modSlot k f).parked = s.parked := rfl
@[simp] theorem State.setSlot_cores (s : State) (k : Nat) (x : Slot) : (s.setSlot k x).cores = s.cores := rfl
@[simp] theorem State.modSlot_cores (s : State) (k : Nat) (f : Slot → Slot) : (s.modSlot k f).cores = s.cores := rfl
@[simp] theorem State.setSlot_folds (s : State) (k : Nat) (x : Slot) : (s.setSlot k x).folds = s.folds := rfl
@[simp] theorem State.modSlot_folds (s : State) (k : Nat) (f : Slot → Slot) : (s.modSlot k f).folds = s.folds := rfl
@[simp] theorem State.setSlot_drovers (s : State) (k : Nat) (x : Slot) : (s.setSlot k x).drovers = s.drovers := rfl
@[simp] theorem State.modSlot_drovers (s : State) (k : Nat) (f : Slot → Slot) : (s.modSlot k f).drovers = s.drovers := rfl
@[simp] theorem State.setSlot_gangs (s : State) (k : Nat) (x : Slot) : (s.setSlot k x).gangs = s.gangs := rfl
@[simp] theorem State.modSlot_gangs (s : State) (k : Nat) (f : Slot → Slot) : (s.modSlot k f).gangs = s.gangs := rfl
@[simp] theorem State.setSlot_pipes (s : State) (k : Nat) (x : Slot) : (s.setSlot k x).pipes = s.pipes := rfl
@[simp] theorem State.modSlot_pipes (s : State) (k : Nat) (f : Slot → Slot) : (s.modSlot k f).pipes = s.pipes := rfl
@[simp] theorem State.setSlot_cycles (s : State) (k : Nat) (x : Slot) : (s.setSlot k x).cycles = s.cycles := rfl
@[simp] theorem State.modSlot_cycles (s : State) (k : Nat) (f : Slot → Slot) : (s.modSlot k f).cycles = s.cycles := rfl
@[simp] theorem State.setSlot_tables (s : State) (k : Nat) (x : Slot) : (s.setSlot k x).tables = s.tables := rfl
@[simp] theorem State.modSlot_tables (s : State) (k : Nat) (f : Slot → Slot) : (s.modSlot k f).tables = s.tables := rfl
@[simp] theorem State.setSlot_syncs (s : State) (k : Nat) (x : Slot) : (s.setSlot k x).syncs = s.syncs := rfl
@[simp] theorem State.modSlot_syncs (s : State) (k : Nat) (f : Slot → Slot) : (s.modSlot k f).syncs = s.syncs := rfl
@[simp] theorem State.setSlot_raceMarks (s : State) (k : Nat) (x : Slot) : (s.setSlot k x).raceMarks = s.raceMarks := rfl
@[simp] theorem State.modSlot_raceMarks (s : State) (k : Nat) (f : Slot → Slot) : (s.modSlot k f).raceMarks = s.raceMarks := rfl
@[simp] theorem State.setSlot_poison (s : State) (k : Nat) (x : Slot) : (s.setSlot k x).poison = s.poison := rfl
@[simp] theorem State.modSlot_poison (s : State) (k : Nat) (f : Slot → Slot) : (s.modSlot k f).poison = s.poison := rfl
@[simp] theorem State.setSlot_firewall (s : State) (k : Nat) (x : Slot) : (s.setSlot k x).firewall = s.firewall := rfl
@[simp] theorem State.modSlot_firewall (s : State) (k : Nat) (f : Slot → Slot) : (s.modSlot k f).firewall = s.firewall := rfl
@[simp] theorem State.setSlot_revoked (s : State) (k : Nat) (x : Slot) : (s.setSlot k x).revoked = s.revoked := rfl
@[simp] theorem State.modSlot_revoked (s : State) (k : Nat) (f : Slot → Slot) : (s.modSlot k f).revoked = s.revoked := rfl
@[simp] theorem State.setSlot_device (s : State) (k : Nat) (x : Slot) : (s.setSlot k x).device = s.device := rfl
@[simp] theorem State.modSlot_device (s : State) (k : Nat) (f : Slot → Slot) : (s.modSlot k f).device = s.device := rfl
@[simp] theorem State.setSlot_byvon (s : State) (k : Nat) (x : Slot) : (s.setSlot k x).byvon = s.byvon := rfl
@[simp] theorem State.modSlot_byvon (s : State) (k : Nat) (f : Slot → Slot) : (s.modSlot k f).byvon = s.byvon := rfl
@[simp] theorem State.setSlot_nextLid (s : State) (k : Nat) (x : Slot) : (s.setSlot k x).nextLid = s.nextLid := rfl
@[simp] theorem State.modSlot_nextLid (s : State) (k : Nat) (f : Slot → Slot) : (s.modSlot k f).nextLid = s.nextLid := rfl
@[simp] theorem State.setSlot_time (s : State) (k : Nat) (x : Slot) : (s.setSlot k x).time = s.time := rfl
@[simp] theorem State.modSlot_time (s : State) (k : Nat) (f : Slot → Slot) : (s.modSlot k f).time = s.time := rfl
@[simp] theorem State.setSlot_turn (s : State) (k : Nat) (x : Slot) : (s.setSlot k x).turn = s.turn := rfl
@[simp] theorem State.modSlot_turn (s : State) (k : Nat) (f : Slot → Slot) : (s.modSlot k f).turn = s.turn := rfl
@[simp] theorem State.setSlot_agenda (s : State) (k : Nat) (x : Slot) : (s.setSlot k x).agenda = s.agenda := rfl
@[simp] theorem State.modSlot_agenda (s : State) (k : Nat) (f : Slot → Slot) : (s.modSlot k f).agenda = s.agenda := rfl
@[simp] theorem State.setSlot_free (s : State) (k : Nat) (x : Slot) : (s.setSlot k x).free = s.free := rfl
@[simp] theorem State.modSlot_free (s : State) (k : Nat) (f : Slot → Slot) : (s.modSlot k f).free = s.free := rfl
@[simp] theorem State.setSlot_epoch (s : State) (k : Nat) (x : Slot) : (s.setSlot k x).epoch = s.epoch := rfl
@[simp] theorem State.modSlot_epoch (s : State) (k : Nat) (f : Slot → Slot) : (s.modSlot k f).epoch = s.epoch := rfl
@[simp] theorem State.setSlot_cur (s : State) (k : Nat) (x : Slot) : (s.setSlot k x).cur = s.cur := rfl
@[simp] theorem State.modSlot_cur (s : State) (k : Nat) (f : Slot → Slot) : (s.modSlot k f).cur = s.cur := rfl
@[simp] theorem State.setSlot_latch (s : State) (k : Nat) (x : Slot) : (s.setSlot k x).latch = s.latch := rfl
@[simp] theorem State.modSlot_latch (s : State) (k : Nat) (f : Slot → Slot) : (s.modSlot k f).latch = s.latch := rfl
@[simp] theorem State.setCore_mem (s : State) (k : Nat) (x : Core) : (s.setCore k x).mem = s.mem := rfl
@[simp] theorem State.modCore_mem (s : State) (k : Nat) (f : Core → Core) : (s.modCore k f).mem = s.mem := rfl
@[simp] theorem State.setCore_tags (s : State) (k : Nat) (x : Core) : (s.setCore k x).tags = s.tags := rfl
@[simp] theorem State.modCore_tags (s : State) (k : Nat) (f : Core → Core) : (s.modCore k f).tags = s.tags := rfl
@[simp] theorem State.setCore_ctxs (s : State) (k : Nat) (x : Core) : (s.setCore k x).ctxs = s.ctxs := rfl
@[simp] theorem State.modCore_ctxs (s : State) (k : Nat) (f : Core → Core) : (s.modCore k f).ctxs = s.ctxs := rfl
@[simp] theorem State.setCore_slots (s : State) (k : Nat) (x : Core) : (s.setCore k x).slots = s.slots := rfl
@[simp] theorem State.modCore_slots (s : State) (k : Nat) (f : Core → Core) : (s.modCore k f).slots = s.slots := rfl
@[simp] theorem State.setCore_parked (s : State) (k : Nat) (x : Core) : (s.setCore k x).parked = s.parked := rfl
@[simp] theorem State.modCore_parked (s : State) (k : Nat) (f : Core → Core) : (s.modCore k f).parked = s.parked := rfl
@[simp] theorem State.setCore_folds (s : State) (k : Nat) (x : Core) : (s.setCore k x).folds = s.folds := rfl
@[simp] theorem State.modCore_folds (s : State) (k : Nat) (f : Core → Core) : (s.modCore k f).folds = s.folds := rfl
@[simp] theorem State.setCore_drovers (s : State) (k : Nat) (x : Core) : (s.setCore k x).drovers = s.drovers := rfl
@[simp] theorem State.modCore_drovers (s : State) (k : Nat) (f : Core → Core) : (s.modCore k f).drovers = s.drovers := rfl
@[simp] theorem State.setCore_gangs (s : State) (k : Nat) (x : Core) : (s.setCore k x).gangs = s.gangs := rfl
@[simp] theorem State.modCore_gangs (s : State) (k : Nat) (f : Core → Core) : (s.modCore k f).gangs = s.gangs := rfl
@[simp] theorem State.setCore_pipes (s : State) (k : Nat) (x : Core) : (s.setCore k x).pipes = s.pipes := rfl
@[simp] theorem State.modCore_pipes (s : State) (k : Nat) (f : Core → Core) : (s.modCore k f).pipes = s.pipes := rfl
@[simp] theorem State.setCore_cycles (s : State) (k : Nat) (x : Core) : (s.setCore k x).cycles = s.cycles := rfl
@[simp] theorem State.modCore_cycles (s : State) (k : Nat) (f : Core → Core) : (s.modCore k f).cycles = s.cycles := rfl
@[simp] theorem State.setCore_tables (s : State) (k : Nat) (x : Core) : (s.setCore k x).tables = s.tables := rfl
@[simp] theorem State.modCore_tables (s : State) (k : Nat) (f : Core → Core) : (s.modCore k f).tables = s.tables := rfl
@[simp] theorem State.setCore_syncs (s : State) (k : Nat) (x : Core) : (s.setCore k x).syncs = s.syncs := rfl
@[simp] theorem State.modCore_syncs (s : State) (k : Nat) (f : Core → Core) : (s.modCore k f).syncs = s.syncs := rfl
@[simp] theorem State.setCore_raceMarks (s : State) (k : Nat) (x : Core) : (s.setCore k x).raceMarks = s.raceMarks := rfl
@[simp] theorem State.modCore_raceMarks (s : State) (k : Nat) (f : Core → Core) : (s.modCore k f).raceMarks = s.raceMarks := rfl
@[simp] theorem State.setCore_poison (s : State) (k : Nat) (x : Core) : (s.setCore k x).poison = s.poison := rfl
@[simp] theorem State.modCore_poison (s : State) (k : Nat) (f : Core → Core) : (s.modCore k f).poison = s.poison := rfl
@[simp] theorem State.setCore_firewall (s : State) (k : Nat) (x : Core) : (s.setCore k x).firewall = s.firewall := rfl
@[simp] theorem State.modCore_firewall (s : State) (k : Nat) (f : Core → Core) : (s.modCore k f).firewall = s.firewall := rfl
@[simp] theorem State.setCore_revoked (s : State) (k : Nat) (x : Core) : (s.setCore k x).revoked = s.revoked := rfl
@[simp] theorem State.modCore_revoked (s : State) (k : Nat) (f : Core → Core) : (s.modCore k f).revoked = s.revoked := rfl
@[simp] theorem State.setCore_device (s : State) (k : Nat) (x : Core) : (s.setCore k x).device = s.device := rfl
@[simp] theorem State.modCore_device (s : State) (k : Nat) (f : Core → Core) : (s.modCore k f).device = s.device := rfl
@[simp] theorem State.setCore_byvon (s : State) (k : Nat) (x : Core) : (s.setCore k x).byvon = s.byvon := rfl
@[simp] theorem State.modCore_byvon (s : State) (k : Nat) (f : Core → Core) : (s.modCore k f).byvon = s.byvon := rfl
@[simp] theorem State.setCore_nextLid (s : State) (k : Nat) (x : Core) : (s.setCore k x).nextLid = s.nextLid := rfl
@[simp] theorem State.modCore_nextLid (s : State) (k : Nat) (f : Core → Core) : (s.modCore k f).nextLid = s.nextLid := rfl
@[simp] theorem State.setCore_time (s : State) (k : Nat) (x : Core) : (s.setCore k x).time = s.time := rfl
@[simp] theorem State.modCore_time (s : State) (k : Nat) (f : Core → Core) : (s.modCore k f).time = s.time := rfl
@[simp] theorem State.setCore_turn (s : State) (k : Nat) (x : Core) : (s.setCore k x).turn = s.turn := rfl
@[simp] theorem State.modCore_turn (s : State) (k : Nat) (f : Core → Core) : (s.modCore k f).turn = s.turn := rfl
@[simp] theorem State.setCore_agenda (s : State) (k : Nat) (x : Core) : (s.setCore k x).agenda = s.agenda := rfl
@[simp] theorem State.modCore_agenda (s : State) (k : Nat) (f : Core → Core) : (s.modCore k f).agenda = s.agenda := rfl
@[simp] theorem State.setCore_free (s : State) (k : Nat) (x : Core) : (s.setCore k x).free = s.free := rfl
@[simp] theorem State.modCore_free (s : State) (k : Nat) (f : Core → Core) : (s.modCore k f).free = s.free := rfl
@[simp] theorem State.setCore_epoch (s : State) (k : Nat) (x : Core) : (s.setCore k x).epoch = s.epoch := rfl
@[simp] theorem State.modCore_epoch (s : State) (k : Nat) (f : Core → Core) : (s.modCore k f).epoch = s.epoch := rfl
@[simp] theorem State.setCore_cur (s : State) (k : Nat) (x : Core) : (s.setCore k x).cur = s.cur := rfl
@[simp] theorem State.modCore_cur (s : State) (k : Nat) (f : Core → Core) : (s.modCore k f).cur = s.cur := rfl
@[simp] theorem State.setCore_latch (s : State) (k : Nat) (x : Core) : (s.setCore k x).latch = s.latch := rfl
@[simp] theorem State.modCore_latch (s : State) (k : Nat) (f : Core → Core) : (s.modCore k f).latch = s.latch := rfl
@[simp] theorem State.setFold_mem (s : State) (k : Nat) (x : Fold) : (s.setFold k x).mem = s.mem := rfl
@[simp] theorem State.modFold_mem (s : State) (k : Nat) (f : Fold → Fold) : (s.modFold k f).mem = s.mem := rfl
@[simp] theorem State.setFold_tags (s : State) (k : Nat) (x : Fold) : (s.setFold k x).tags = s.tags := rfl
@[simp] theorem State.modFold_tags (s : State) (k : Nat) (f : Fold → Fold) : (s.modFold k f).tags = s.tags := rfl
@[simp] theorem State.setFold_ctxs (s : State) (k : Nat) (x : Fold) : (s.setFold k x).ctxs = s.ctxs := rfl
@[simp] theorem State.modFold_ctxs (s : State) (k : Nat) (f : Fold → Fold) : (s.modFold k f).ctxs = s.ctxs := rfl
@[simp] theorem State.setFold_slots (s : State) (k : Nat) (x : Fold) : (s.setFold k x).slots = s.slots := rfl
@[simp] theorem State.modFold_slots (s : State) (k : Nat) (f : Fold → Fold) : (s.modFold k f).slots = s.slots := rfl
@[simp] theorem State.setFold_parked (s : State) (k : Nat) (x : Fold) : (s.setFold k x).parked = s.parked := rfl
@[simp] theorem State.modFold_parked (s : State) (k : Nat) (f : Fold → Fold) : (s.modFold k f).parked = s.parked := rfl
@[simp] theorem State.setFold_cores (s : State) (k : Nat) (x : Fold) : (s.setFold k x).cores = s.cores := rfl
@[simp] theorem State.modFold_cores (s : State) (k : Nat) (f : Fold → Fold) : (s.modFold k f).cores = s.cores := rfl
@[simp] theorem State.setFold_drovers (s : State) (k : Nat) (x : Fold) : (s.setFold k x).drovers = s.drovers := rfl
@[simp] theorem State.modFold_drovers (s : State) (k : Nat) (f : Fold → Fold) : (s.modFold k f).drovers = s.drovers := rfl
@[simp] theorem State.setFold_gangs (s : State) (k : Nat) (x : Fold) : (s.setFold k x).gangs = s.gangs := rfl
@[simp] theorem State.modFold_gangs (s : State) (k : Nat) (f : Fold → Fold) : (s.modFold k f).gangs = s.gangs := rfl
@[simp] theorem State.setFold_pipes (s : State) (k : Nat) (x : Fold) : (s.setFold k x).pipes = s.pipes := rfl
@[simp] theorem State.modFold_pipes (s : State) (k : Nat) (f : Fold → Fold) : (s.modFold k f).pipes = s.pipes := rfl
@[simp] theorem State.setFold_cycles (s : State) (k : Nat) (x : Fold) : (s.setFold k x).cycles = s.cycles := rfl
@[simp] theorem State.modFold_cycles (s : State) (k : Nat) (f : Fold → Fold) : (s.modFold k f).cycles = s.cycles := rfl
@[simp] theorem State.setFold_tables (s : State) (k : Nat) (x : Fold) : (s.setFold k x).tables = s.tables := rfl
@[simp] theorem State.modFold_tables (s : State) (k : Nat) (f : Fold → Fold) : (s.modFold k f).tables = s.tables := rfl
@[simp] theorem State.setFold_syncs (s : State) (k : Nat) (x : Fold) : (s.setFold k x).syncs = s.syncs := rfl
@[simp] theorem State.modFold_syncs (s : State) (k : Nat) (f : Fold → Fold) : (s.modFold k f).syncs = s.syncs := rfl
@[simp] theorem State.setFold_raceMarks (s : State) (k : Nat) (x : Fold) : (s.setFold k x).raceMarks = s.raceMarks := rfl
@[simp] theorem State.modFold_raceMarks (s : State) (k : Nat) (f : Fold → Fold) : (s.modFold k f).raceMarks = s.raceMarks := rfl
@[simp] theorem State.setFold_poison (s : State) (k : Nat) (x : Fold) : (s.setFold k x).poison = s.poison := rfl
@[simp] theorem State.modFold_poison (s : State) (k : Nat) (f : Fold → Fold) : (s.modFold k f).poison = s.poison := rfl
@[simp] theorem State.setFold_firewall (s : State) (k : Nat) (x : Fold) : (s.setFold k x).firewall = s.firewall := rfl
@[simp] theorem State.modFold_firewall (s : State) (k : Nat) (f : Fold → Fold) : (s.modFold k f).firewall = s.firewall := rfl
@[simp] theorem State.setFold_revoked (s : State) (k : Nat) (x : Fold) : (s.setFold k x).revoked = s.revoked := rfl
@[simp] theorem State.modFold_revoked (s : State) (k : Nat) (f : Fold → Fold) : (s.modFold k f).revoked = s.revoked := rfl
@[simp] theorem State.setFold_device (s : State) (k : Nat) (x : Fold) : (s.setFold k x).device = s.device := rfl
@[simp] theorem State.modFold_device (s : State) (k : Nat) (f : Fold → Fold) : (s.modFold k f).device = s.device := rfl
@[simp] theorem State.setFold_byvon (s : State) (k : Nat) (x : Fold) : (s.setFold k x).byvon = s.byvon := rfl
@[simp] theorem State.modFold_byvon (s : State) (k : Nat) (f : Fold → Fold) : (s.modFold k f).byvon = s.byvon := rfl
@[simp] theorem State.setFold_nextLid (s : State) (k : Nat) (x : Fold) : (s.setFold k x).nextLid = s.nextLid := rfl
@[simp] theorem State.modFold_nextLid (s : State) (k : Nat) (f : Fold → Fold) : (s.modFold k f).nextLid = s.nextLid := rfl
@[simp] theorem State.setFold_time (s : State) (k : Nat) (x : Fold) : (s.setFold k x).time = s.time := rfl
@[simp] theorem State.modFold_time (s : State) (k : Nat) (f : Fold → Fold) : (s.modFold k f).time = s.time := rfl
@[simp] theorem State.setFold_turn (s : State) (k : Nat) (x : Fold) : (s.setFold k x).turn = s.turn := rfl
@[simp] theorem State.modFold_turn (s : State) (k : Nat) (f : Fold → Fold) : (s.modFold k f).turn = s.turn := rfl
@[simp] theorem State.setFold_agenda (s : State) (k : Nat) (x : Fold) : (s.setFold k x).agenda = s.agenda := rfl
@[simp] theorem State.modFold_agenda (s : State) (k : Nat) (f : Fold → Fold) : (s.modFold k f).agenda = s.agenda := rfl
@[simp] theorem State.setFold_free (s : State) (k : Nat) (x : Fold) : (s.setFold k x).free = s.free := rfl
@[simp] theorem State.modFold_free (s : State) (k : Nat) (f : Fold → Fold) : (s.modFold k f).free = s.free := rfl
@[simp] theorem State.setFold_epoch (s : State) (k : Nat) (x : Fold) : (s.setFold k x).epoch = s.epoch := rfl
@[simp] theorem State.modFold_epoch (s : State) (k : Nat) (f : Fold → Fold) : (s.modFold k f).epoch = s.epoch := rfl
@[simp] theorem State.setFold_cur (s : State) (k : Nat) (x : Fold) : (s.setFold k x).cur = s.cur := rfl
@[simp] theorem State.modFold_cur (s : State) (k : Nat) (f : Fold → Fold) : (s.modFold k f).cur = s.cur := rfl
@[simp] theorem State.setFold_latch (s : State) (k : Nat) (x : Fold) : (s.setFold k x).latch = s.latch := rfl
@[simp] theorem State.modFold_latch (s : State) (k : Nat) (f : Fold → Fold) : (s.modFold k f).latch = s.latch := rfl
@[simp] theorem State.setDrover_mem (s : State) (k : Nat) (x : Drover) : (s.setDrover k x).mem = s.mem := rfl
@[simp] theorem State.modDrover_mem (s : State) (k : Nat) (f : Drover → Drover) : (s.modDrover k f).mem = s.mem := rfl
@[simp] theorem State.setDrover_tags (s : State) (k : Nat) (x : Drover) : (s.setDrover k x).tags = s.tags := rfl
@[simp] theorem State.modDrover_tags (s : State) (k : Nat) (f : Drover → Drover) : (s.modDrover k f).tags = s.tags := rfl
@[simp] theorem State.setDrover_ctxs (s : State) (k : Nat) (x : Drover) : (s.setDrover k x).ctxs = s.ctxs := rfl
@[simp] theorem State.modDrover_ctxs (s : State) (k : Nat) (f : Drover → Drover) : (s.modDrover k f).ctxs = s.ctxs := rfl
@[simp] theorem State.setDrover_slots (s : State) (k : Nat) (x : Drover) : (s.setDrover k x).slots = s.slots := rfl
@[simp] theorem State.modDrover_slots (s : State) (k : Nat) (f : Drover → Drover) : (s.modDrover k f).slots = s.slots := rfl
@[simp] theorem State.setDrover_parked (s : State) (k : Nat) (x : Drover) : (s.setDrover k x).parked = s.parked := rfl
@[simp] theorem State.modDrover_parked (s : State) (k : Nat) (f : Drover → Drover) : (s.modDrover k f).parked = s.parked := rfl
@[simp] theorem State.setDrover_cores (s : State) (k : Nat) (x : Drover) : (s.setDrover k x).cores = s.cores := rfl
@[simp] theorem State.modDrover_cores (s : State) (k : Nat) (f : Drover → Drover) : (s.modDrover k f).cores = s.cores := rfl
@[simp] theorem State.setDrover_folds (s : State) (k : Nat) (x : Drover) : (s.setDrover k x).folds = s.folds := rfl
@[simp] theorem State.modDrover_folds (s : State) (k : Nat) (f : Drover → Drover) : (s.modDrover k f).folds = s.folds := rfl
@[simp] theorem State.setDrover_gangs (s : State) (k : Nat) (x : Drover) : (s.setDrover k x).gangs = s.gangs := rfl
@[simp] theorem State.modDrover_gangs (s : State) (k : Nat) (f : Drover → Drover) : (s.modDrover k f).gangs = s.gangs := rfl
@[simp] theorem State.setDrover_pipes (s : State) (k : Nat) (x : Drover) : (s.setDrover k x).pipes = s.pipes := rfl
@[simp] theorem State.modDrover_pipes (s : State) (k : Nat) (f : Drover → Drover) : (s.modDrover k f).pipes = s.pipes := rfl
@[simp] theorem State.setDrover_cycles (s : State) (k : Nat) (x : Drover) : (s.setDrover k x).cycles = s.cycles := rfl
@[simp] theorem State.modDrover_cycles (s : State) (k : Nat) (f : Drover → Drover) : (s.modDrover k f).cycles = s.cycles := rfl
@[simp] theorem State.setDrover_tables (s : State) (k : Nat) (x : Drover) : (s.setDrover k x).tables = s.tables := rfl
@[simp] theorem State.modDrover_tables (s : State) (k : Nat) (f : Drover → Drover) : (s.modDrover k f).tables = s.tables := rfl
@[simp] theorem State.setDrover_syncs (s : State) (k : Nat) (x : Drover) : (s.setDrover k x).syncs = s.syncs := rfl
@[simp] theorem State.modDrover_syncs (s : State) (k : Nat) (f : Drover → Drover) : (s.modDrover k f).syncs = s.syncs := rfl
@[simp] theorem State.setDrover_raceMarks (s : State) (k : Nat) (x : Drover) : (s.setDrover k x).raceMarks = s.raceMarks := rfl
@[simp] theorem State.modDrover_raceMarks (s : State) (k : Nat) (f : Drover → Drover) : (s.modDrover k f).raceMarks = s.raceMarks := rfl
@[simp] theorem State.setDrover_poison (s : State) (k : Nat) (x : Drover) : (s.setDrover k x).poison = s.poison := rfl
@[simp] theorem State.modDrover_poison (s : State) (k : Nat) (f : Drover → Drover) : (s.modDrover k f).poison = s.poison := rfl
@[simp] theorem State.setDrover_firewall (s : State) (k : Nat) (x : Drover) : (s.setDrover k x).firewall = s.firewall := rfl
@[simp] theorem State.modDrover_firewall (s : State) (k : Nat) (f : Drover → Drover) : (s.modDrover k f).firewall = s.firewall := rfl
@[simp] theorem State.setDrover_revoked (s : State) (k : Nat) (x : Drover) : (s.setDrover k x).revoked = s.revoked := rfl
@[simp] theorem State.modDrover_revoked (s : State) (k : Nat) (f : Drover → Drover) : (s.modDrover k f).revoked = s.revoked := rfl
@[simp] theorem State.setDrover_device (s : State) (k : Nat) (x : Drover) : (s.setDrover k x).device = s.device := rfl
@[simp] theorem State.modDrover_device (s : State) (k : Nat) (f : Drover → Drover) : (s.modDrover k f).device = s.device := rfl
@[simp] theorem State.setDrover_byvon (s : State) (k : Nat) (x : Drover) : (s.setDrover k x).byvon = s.byvon := rfl
@[simp] theorem State.modDrover_byvon (s : State) (k : Nat) (f : Drover → Drover) : (s.modDrover k f).byvon = s.byvon := rfl
@[simp] theorem State.setDrover_nextLid (s : State) (k : Nat) (x : Drover) : (s.setDrover k x).nextLid = s.nextLid := rfl
@[simp] theorem State.modDrover_nextLid (s : State) (k : Nat) (f : Drover → Drover) : (s.modDrover k f).nextLid = s.nextLid := rfl
@[simp] theorem State.setDrover_time (s : State) (k : Nat) (x : Drover) : (s.setDrover k x).time = s.time := rfl
@[simp] theorem State.modDrover_time (s : State) (k : Nat) (f : Drover → Drover) : (s.modDrover k f).time = s.time := rfl
@[simp] theorem State.setDrover_turn (s : State) (k : Nat) (x : Drover) : (s.setDrover k x).turn = s.turn := rfl
@[simp] theorem State.modDrover_turn (s : State) (k : Nat) (f : Drover → Drover) : (s.modDrover k f).turn = s.turn := rfl
@[simp] theorem State.setDrover_agenda (s : State) (k : Nat) (x : Drover) : (s.setDrover k x).agenda = s.agenda := rfl
@[simp] theorem State.modDrover_agenda (s : State) (k : Nat) (f : Drover → Drover) : (s.modDrover k f).agenda = s.agenda := rfl
@[simp] theorem State.setDrover_free (s : State) (k : Nat) (x : Drover) : (s.setDrover k x).free = s.free := rfl
@[simp] theorem State.modDrover_free (s : State) (k : Nat) (f : Drover → Drover) : (s.modDrover k f).free = s.free := rfl
@[simp] theorem State.setDrover_epoch (s : State) (k : Nat) (x : Drover) : (s.setDrover k x).epoch = s.epoch := rfl
@[simp] theorem State.modDrover_epoch (s : State) (k : Nat) (f : Drover → Drover) : (s.modDrover k f).epoch = s.epoch := rfl
@[simp] theorem State.setDrover_cur (s : State) (k : Nat) (x : Drover) : (s.setDrover k x).cur = s.cur := rfl
@[simp] theorem State.modDrover_cur (s : State) (k : Nat) (f : Drover → Drover) : (s.modDrover k f).cur = s.cur := rfl
@[simp] theorem State.setDrover_latch (s : State) (k : Nat) (x : Drover) : (s.setDrover k x).latch = s.latch := rfl
@[simp] theorem State.modDrover_latch (s : State) (k : Nat) (f : Drover → Drover) : (s.modDrover k f).latch = s.latch := rfl
@[simp] theorem State.setGang_mem (s : State) (k : Nat) (x : Gang) : (s.setGang k x).mem = s.mem := rfl
@[simp] theorem State.modGang_mem (s : State) (k : Nat) (f : Gang → Gang) : (s.modGang k f).mem = s.mem := rfl
@[simp] theorem State.setGang_tags (s : State) (k : Nat) (x : Gang) : (s.setGang k x).tags = s.tags := rfl
@[simp] theorem State.modGang_tags (s : State) (k : Nat) (f : Gang → Gang) : (s.modGang k f).tags = s.tags := rfl
@[simp] theorem State.setGang_ctxs (s : State) (k : Nat) (x : Gang) : (s.setGang k x).ctxs = s.ctxs := rfl
@[simp] theorem State.modGang_ctxs (s : State) (k : Nat) (f : Gang → Gang) : (s.modGang k f).ctxs = s.ctxs := rfl
@[simp] theorem State.setGang_slots (s : State) (k : Nat) (x : Gang) : (s.setGang k x).slots = s.slots := rfl
@[simp] theorem State.modGang_slots (s : State) (k : Nat) (f : Gang → Gang) : (s.modGang k f).slots = s.slots := rfl
@[simp] theorem State.setGang_parked (s : State) (k : Nat) (x : Gang) : (s.setGang k x).parked = s.parked := rfl
@[simp] theorem State.modGang_parked (s : State) (k : Nat) (f : Gang → Gang) : (s.modGang k f).parked = s.parked := rfl
@[simp] theorem State.setGang_cores (s : State) (k : Nat) (x : Gang) : (s.setGang k x).cores = s.cores := rfl
@[simp] theorem State.modGang_cores (s : State) (k : Nat) (f : Gang → Gang) : (s.modGang k f).cores = s.cores := rfl
@[simp] theorem State.setGang_folds (s : State) (k : Nat) (x : Gang) : (s.setGang k x).folds = s.folds := rfl
@[simp] theorem State.modGang_folds (s : State) (k : Nat) (f : Gang → Gang) : (s.modGang k f).folds = s.folds := rfl
@[simp] theorem State.setGang_drovers (s : State) (k : Nat) (x : Gang) : (s.setGang k x).drovers = s.drovers := rfl
@[simp] theorem State.modGang_drovers (s : State) (k : Nat) (f : Gang → Gang) : (s.modGang k f).drovers = s.drovers := rfl
@[simp] theorem State.setGang_pipes (s : State) (k : Nat) (x : Gang) : (s.setGang k x).pipes = s.pipes := rfl
@[simp] theorem State.modGang_pipes (s : State) (k : Nat) (f : Gang → Gang) : (s.modGang k f).pipes = s.pipes := rfl
@[simp] theorem State.setGang_cycles (s : State) (k : Nat) (x : Gang) : (s.setGang k x).cycles = s.cycles := rfl
@[simp] theorem State.modGang_cycles (s : State) (k : Nat) (f : Gang → Gang) : (s.modGang k f).cycles = s.cycles := rfl
@[simp] theorem State.setGang_tables (s : State) (k : Nat) (x : Gang) : (s.setGang k x).tables = s.tables := rfl
@[simp] theorem State.modGang_tables (s : State) (k : Nat) (f : Gang → Gang) : (s.modGang k f).tables = s.tables := rfl
@[simp] theorem State.setGang_syncs (s : State) (k : Nat) (x : Gang) : (s.setGang k x).syncs = s.syncs := rfl
@[simp] theorem State.modGang_syncs (s : State) (k : Nat) (f : Gang → Gang) : (s.modGang k f).syncs = s.syncs := rfl
@[simp] theorem State.setGang_raceMarks (s : State) (k : Nat) (x : Gang) : (s.setGang k x).raceMarks = s.raceMarks := rfl
@[simp] theorem State.modGang_raceMarks (s : State) (k : Nat) (f : Gang → Gang) : (s.modGang k f).raceMarks = s.raceMarks := rfl
@[simp] theorem State.setGang_poison (s : State) (k : Nat) (x : Gang) : (s.setGang k x).poison = s.poison := rfl
@[simp] theorem State.modGang_poison (s : State) (k : Nat) (f : Gang → Gang) : (s.modGang k f).poison = s.poison := rfl
@[simp] theorem State.setGang_firewall (s : State) (k : Nat) (x : Gang) : (s.setGang k x).firewall = s.firewall := rfl
@[simp] theorem State.modGang_firewall (s : State) (k : Nat) (f : Gang → Gang) : (s.modGang k f).firewall = s.firewall := rfl
@[simp] theorem State.setGang_revoked (s : State) (k : Nat) (x : Gang) : (s.setGang k x).revoked = s.revoked := rfl
@[simp] theorem State.modGang_revoked (s : State) (k : Nat) (f : Gang → Gang) : (s.modGang k f).revoked = s.revoked := rfl
@[simp] theorem State.setGang_device (s : State) (k : Nat) (x : Gang) : (s.setGang k x).device = s.device := rfl
@[simp] theorem State.modGang_device (s : State) (k : Nat) (f : Gang → Gang) : (s.modGang k f).device = s.device := rfl
@[simp] theorem State.setGang_byvon (s : State) (k : Nat) (x : Gang) : (s.setGang k x).byvon = s.byvon := rfl
@[simp] theorem State.modGang_byvon (s : State) (k : Nat) (f : Gang → Gang) : (s.modGang k f).byvon = s.byvon := rfl
@[simp] theorem State.setGang_nextLid (s : State) (k : Nat) (x : Gang) : (s.setGang k x).nextLid = s.nextLid := rfl
@[simp] theorem State.modGang_nextLid (s : State) (k : Nat) (f : Gang → Gang) : (s.modGang k f).nextLid = s.nextLid := rfl
@[simp] theorem State.setGang_time (s : State) (k : Nat) (x : Gang) : (s.setGang k x).time = s.time := rfl
@[simp] theorem State.modGang_time (s : State) (k : Nat) (f : Gang → Gang) : (s.modGang k f).time = s.time := rfl
@[simp] theorem State.setGang_turn (s : State) (k : Nat) (x : Gang) : (s.setGang k x).turn = s.turn := rfl
@[simp] theorem State.modGang_turn (s : State) (k : Nat) (f : Gang → Gang) : (s.modGang k f).turn = s.turn := rfl
@[simp] theorem State.setGang_agenda (s : State) (k : Nat) (x : Gang) : (s.setGang k x).agenda = s.agenda := rfl
@[simp] theorem State.modGang_agenda (s : State) (k : Nat) (f : Gang → Gang) : (s.modGang k f).agenda = s.agenda := rfl
@[simp] theorem State.setGang_free (s : State) (k : Nat) (x : Gang) : (s.setGang k x).free = s.free := rfl
@[simp] theorem State.modGang_free (s : State) (k : Nat) (f : Gang → Gang) : (s.modGang k f).free = s.free := rfl
@[simp] theorem State.setGang_epoch (s : State) (k : Nat) (x : Gang) : (s.setGang k x).epoch = s.epoch := rfl
@[simp] theorem State.modGang_epoch (s : State) (k : Nat) (f : Gang → Gang) : (s.modGang k f).epoch = s.epoch := rfl
@[simp] theorem State.setGang_cur (s : State) (k : Nat) (x : Gang) : (s.setGang k x).cur = s.cur := rfl
@[simp] theorem State.modGang_cur (s : State) (k : Nat) (f : Gang → Gang) : (s.modGang k f).cur = s.cur := rfl
@[simp] theorem State.setGang_latch (s : State) (k : Nat) (x : Gang) : (s.setGang k x).latch = s.latch := rfl
@[simp] theorem State.modGang_latch (s : State) (k : Nat) (f : Gang → Gang) : (s.modGang k f).latch = s.latch := rfl

/-! ### Memory operations -/

@[simp] theorem State.storeBytes_ctxs (s : State) (a : Nat) (bs : List Byte) : (s.storeBytes a bs).ctxs = s.ctxs := rfl
@[simp] theorem State.write_ctxs (s : State) (a n x : Nat) : (s.write a n x).ctxs = s.ctxs := rfl
@[simp] theorem State.writeTagged_ctxs (s : State) (a : Nat) (r : CReg) : (s.writeTagged a r).ctxs = s.ctxs := by
  unfold State.writeTagged; split <;> rfl
@[simp] theorem State.storeBytes_slots (s : State) (a : Nat) (bs : List Byte) : (s.storeBytes a bs).slots = s.slots := rfl
@[simp] theorem State.write_slots (s : State) (a n x : Nat) : (s.write a n x).slots = s.slots := rfl
@[simp] theorem State.writeTagged_slots (s : State) (a : Nat) (r : CReg) : (s.writeTagged a r).slots = s.slots := by
  unfold State.writeTagged; split <;> rfl
@[simp] theorem State.storeBytes_parked (s : State) (a : Nat) (bs : List Byte) : (s.storeBytes a bs).parked = s.parked := rfl
@[simp] theorem State.write_parked (s : State) (a n x : Nat) : (s.write a n x).parked = s.parked := rfl
@[simp] theorem State.writeTagged_parked (s : State) (a : Nat) (r : CReg) : (s.writeTagged a r).parked = s.parked := by
  unfold State.writeTagged; split <;> rfl
@[simp] theorem State.storeBytes_cores (s : State) (a : Nat) (bs : List Byte) : (s.storeBytes a bs).cores = s.cores := rfl
@[simp] theorem State.write_cores (s : State) (a n x : Nat) : (s.write a n x).cores = s.cores := rfl
@[simp] theorem State.writeTagged_cores (s : State) (a : Nat) (r : CReg) : (s.writeTagged a r).cores = s.cores := by
  unfold State.writeTagged; split <;> rfl
@[simp] theorem State.storeBytes_folds (s : State) (a : Nat) (bs : List Byte) : (s.storeBytes a bs).folds = s.folds := rfl
@[simp] theorem State.write_folds (s : State) (a n x : Nat) : (s.write a n x).folds = s.folds := rfl
@[simp] theorem State.writeTagged_folds (s : State) (a : Nat) (r : CReg) : (s.writeTagged a r).folds = s.folds := by
  unfold State.writeTagged; split <;> rfl
@[simp] theorem State.storeBytes_drovers (s : State) (a : Nat) (bs : List Byte) : (s.storeBytes a bs).drovers = s.drovers := rfl
@[simp] theorem State.write_drovers (s : State) (a n x : Nat) : (s.write a n x).drovers = s.drovers := rfl
@[simp] theorem State.writeTagged_drovers (s : State) (a : Nat) (r : CReg) : (s.writeTagged a r).drovers = s.drovers := by
  unfold State.writeTagged; split <;> rfl
@[simp] theorem State.storeBytes_gangs (s : State) (a : Nat) (bs : List Byte) : (s.storeBytes a bs).gangs = s.gangs := rfl
@[simp] theorem State.write_gangs (s : State) (a n x : Nat) : (s.write a n x).gangs = s.gangs := rfl
@[simp] theorem State.writeTagged_gangs (s : State) (a : Nat) (r : CReg) : (s.writeTagged a r).gangs = s.gangs := by
  unfold State.writeTagged; split <;> rfl
@[simp] theorem State.storeBytes_pipes (s : State) (a : Nat) (bs : List Byte) : (s.storeBytes a bs).pipes = s.pipes := rfl
@[simp] theorem State.write_pipes (s : State) (a n x : Nat) : (s.write a n x).pipes = s.pipes := rfl
@[simp] theorem State.writeTagged_pipes (s : State) (a : Nat) (r : CReg) : (s.writeTagged a r).pipes = s.pipes := by
  unfold State.writeTagged; split <;> rfl
@[simp] theorem State.storeBytes_cycles (s : State) (a : Nat) (bs : List Byte) : (s.storeBytes a bs).cycles = s.cycles := rfl
@[simp] theorem State.write_cycles (s : State) (a n x : Nat) : (s.write a n x).cycles = s.cycles := rfl
@[simp] theorem State.writeTagged_cycles (s : State) (a : Nat) (r : CReg) : (s.writeTagged a r).cycles = s.cycles := by
  unfold State.writeTagged; split <;> rfl
@[simp] theorem State.storeBytes_tables (s : State) (a : Nat) (bs : List Byte) : (s.storeBytes a bs).tables = s.tables := rfl
@[simp] theorem State.write_tables (s : State) (a n x : Nat) : (s.write a n x).tables = s.tables := rfl
@[simp] theorem State.writeTagged_tables (s : State) (a : Nat) (r : CReg) : (s.writeTagged a r).tables = s.tables := by
  unfold State.writeTagged; split <;> rfl
@[simp] theorem State.storeBytes_raceMarks (s : State) (a : Nat) (bs : List Byte) : (s.storeBytes a bs).raceMarks = s.raceMarks := rfl
@[simp] theorem State.write_raceMarks (s : State) (a n x : Nat) : (s.write a n x).raceMarks = s.raceMarks := rfl
@[simp] theorem State.writeTagged_raceMarks (s : State) (a : Nat) (r : CReg) : (s.writeTagged a r).raceMarks = s.raceMarks := by
  unfold State.writeTagged; split <;> rfl
@[simp] theorem State.storeBytes_firewall (s : State) (a : Nat) (bs : List Byte) : (s.storeBytes a bs).firewall = s.firewall := rfl
@[simp] theorem State.write_firewall (s : State) (a n x : Nat) : (s.write a n x).firewall = s.firewall := rfl
@[simp] theorem State.writeTagged_firewall (s : State) (a : Nat) (r : CReg) : (s.writeTagged a r).firewall = s.firewall := by
  unfold State.writeTagged; split <;> rfl
@[simp] theorem State.storeBytes_revoked (s : State) (a : Nat) (bs : List Byte) : (s.storeBytes a bs).revoked = s.revoked := rfl
@[simp] theorem State.write_revoked (s : State) (a n x : Nat) : (s.write a n x).revoked = s.revoked := rfl
@[simp] theorem State.writeTagged_revoked (s : State) (a : Nat) (r : CReg) : (s.writeTagged a r).revoked = s.revoked := by
  unfold State.writeTagged; split <;> rfl
@[simp] theorem State.storeBytes_device (s : State) (a : Nat) (bs : List Byte) : (s.storeBytes a bs).device = s.device := rfl
@[simp] theorem State.write_device (s : State) (a n x : Nat) : (s.write a n x).device = s.device := rfl
@[simp] theorem State.writeTagged_device (s : State) (a : Nat) (r : CReg) : (s.writeTagged a r).device = s.device := by
  unfold State.writeTagged; split <;> rfl
@[simp] theorem State.storeBytes_byvon (s : State) (a : Nat) (bs : List Byte) : (s.storeBytes a bs).byvon = s.byvon := rfl
@[simp] theorem State.write_byvon (s : State) (a n x : Nat) : (s.write a n x).byvon = s.byvon := rfl
@[simp] theorem State.writeTagged_byvon (s : State) (a : Nat) (r : CReg) : (s.writeTagged a r).byvon = s.byvon := by
  unfold State.writeTagged; split <;> rfl
@[simp] theorem State.storeBytes_nextLid (s : State) (a : Nat) (bs : List Byte) : (s.storeBytes a bs).nextLid = s.nextLid := rfl
@[simp] theorem State.write_nextLid (s : State) (a n x : Nat) : (s.write a n x).nextLid = s.nextLid := rfl
@[simp] theorem State.writeTagged_nextLid (s : State) (a : Nat) (r : CReg) : (s.writeTagged a r).nextLid = s.nextLid := by
  unfold State.writeTagged; split <;> rfl
@[simp] theorem State.storeBytes_time (s : State) (a : Nat) (bs : List Byte) : (s.storeBytes a bs).time = s.time := rfl
@[simp] theorem State.write_time (s : State) (a n x : Nat) : (s.write a n x).time = s.time := rfl
@[simp] theorem State.writeTagged_time (s : State) (a : Nat) (r : CReg) : (s.writeTagged a r).time = s.time := by
  unfold State.writeTagged; split <;> rfl
@[simp] theorem State.storeBytes_turn (s : State) (a : Nat) (bs : List Byte) : (s.storeBytes a bs).turn = s.turn := rfl
@[simp] theorem State.write_turn (s : State) (a n x : Nat) : (s.write a n x).turn = s.turn := rfl
@[simp] theorem State.writeTagged_turn (s : State) (a : Nat) (r : CReg) : (s.writeTagged a r).turn = s.turn := by
  unfold State.writeTagged; split <;> rfl
@[simp] theorem State.storeBytes_agenda (s : State) (a : Nat) (bs : List Byte) : (s.storeBytes a bs).agenda = s.agenda := rfl
@[simp] theorem State.write_agenda (s : State) (a n x : Nat) : (s.write a n x).agenda = s.agenda := rfl
@[simp] theorem State.writeTagged_agenda (s : State) (a : Nat) (r : CReg) : (s.writeTagged a r).agenda = s.agenda := by
  unfold State.writeTagged; split <;> rfl
@[simp] theorem State.storeBytes_free (s : State) (a : Nat) (bs : List Byte) : (s.storeBytes a bs).free = s.free := rfl
@[simp] theorem State.write_free (s : State) (a n x : Nat) : (s.write a n x).free = s.free := rfl
@[simp] theorem State.writeTagged_free (s : State) (a : Nat) (r : CReg) : (s.writeTagged a r).free = s.free := by
  unfold State.writeTagged; split <;> rfl
@[simp] theorem State.storeBytes_epoch (s : State) (a : Nat) (bs : List Byte) : (s.storeBytes a bs).epoch = s.epoch := rfl
@[simp] theorem State.write_epoch (s : State) (a n x : Nat) : (s.write a n x).epoch = s.epoch := rfl
@[simp] theorem State.writeTagged_epoch (s : State) (a : Nat) (r : CReg) : (s.writeTagged a r).epoch = s.epoch := by
  unfold State.writeTagged; split <;> rfl
@[simp] theorem State.storeBytes_cur (s : State) (a : Nat) (bs : List Byte) : (s.storeBytes a bs).cur = s.cur := rfl
@[simp] theorem State.write_cur (s : State) (a n x : Nat) : (s.write a n x).cur = s.cur := rfl
@[simp] theorem State.writeTagged_cur (s : State) (a : Nat) (r : CReg) : (s.writeTagged a r).cur = s.cur := by
  unfold State.writeTagged; split <;> rfl
@[simp] theorem State.storeBytes_latch (s : State) (a : Nat) (bs : List Byte) : (s.storeBytes a bs).latch = s.latch := rfl
@[simp] theorem State.write_latch (s : State) (a n x : Nat) : (s.write a n x).latch = s.latch := rfl
@[simp] theorem State.writeTagged_latch (s : State) (a : Nat) (r : CReg) : (s.writeTagged a r).latch = s.latch := by
  unfold State.writeTagged; split <;> rfl
@[simp] theorem State.ctx_storeBytes (s : State) (a : Nat) (bs : List Byte) (k : Nat) : (s.storeBytes a bs).ctx k = s.ctx k := rfl
@[simp] theorem State.ctx_write (s : State) (a n x k : Nat) : (s.write a n x).ctx k = s.ctx k := rfl
@[simp] theorem State.ctx_writeTagged (s : State) (a : Nat) (r : CReg) (k : Nat) : (s.writeTagged a r).ctx k = s.ctx k := by
  unfold State.writeTagged; split <;> rfl
@[simp] theorem State.slot_storeBytes (s : State) (a : Nat) (bs : List Byte) (k : Nat) : (s.storeBytes a bs).slot k = s.slot k := rfl
@[simp] theorem State.slot_write (s : State) (a n x k : Nat) : (s.write a n x).slot k = s.slot k := rfl
@[simp] theorem State.slot_writeTagged (s : State) (a : Nat) (r : CReg) (k : Nat) : (s.writeTagged a r).slot k = s.slot k := by
  unfold State.writeTagged; split <;> rfl
@[simp] theorem State.core_storeBytes (s : State) (a : Nat) (bs : List Byte) (k : Nat) : (s.storeBytes a bs).core k = s.core k := rfl
@[simp] theorem State.core_write (s : State) (a n x k : Nat) : (s.write a n x).core k = s.core k := rfl
@[simp] theorem State.core_writeTagged (s : State) (a : Nat) (r : CReg) (k : Nat) : (s.writeTagged a r).core k = s.core k := by
  unfold State.writeTagged; split <;> rfl
@[simp] theorem State.fold_storeBytes (s : State) (a : Nat) (bs : List Byte) (k : Nat) : (s.storeBytes a bs).fold k = s.fold k := rfl
@[simp] theorem State.fold_write (s : State) (a n x k : Nat) : (s.write a n x).fold k = s.fold k := rfl
@[simp] theorem State.fold_writeTagged (s : State) (a : Nat) (r : CReg) (k : Nat) : (s.writeTagged a r).fold k = s.fold k := by
  unfold State.writeTagged; split <;> rfl
@[simp] theorem State.drover_storeBytes (s : State) (a : Nat) (bs : List Byte) (k : Nat) : (s.storeBytes a bs).drover k = s.drover k := rfl
@[simp] theorem State.drover_write (s : State) (a n x k : Nat) : (s.write a n x).drover k = s.drover k := rfl
@[simp] theorem State.drover_writeTagged (s : State) (a : Nat) (r : CReg) (k : Nat) : (s.writeTagged a r).drover k = s.drover k := by
  unfold State.writeTagged; split <;> rfl
@[simp] theorem State.gang_storeBytes (s : State) (a : Nat) (bs : List Byte) (k : Nat) : (s.storeBytes a bs).gang k = s.gang k := rfl
@[simp] theorem State.gang_write (s : State) (a n x k : Nat) : (s.write a n x).gang k = s.gang k := rfl
@[simp] theorem State.gang_writeTagged (s : State) (a : Nat) (r : CReg) (k : Nat) : (s.writeTagged a r).gang k = s.gang k := by
  unfold State.writeTagged; split <;> rfl

/-! ### Contexts -/

@[simp] theorem Ctx.setC_live (c : Ctx) (n : BitVec 6) (r : CReg) : (c.setC n r).live = c.live := by unfold Ctx.setC; split <;> rfl
@[simp] theorem Ctx.setC_pc (c : Ctx) (n : BitVec 6) (r : CReg) : (c.setC n r).pc = c.pc := by unfold Ctx.setC; split <;> rfl
@[simp] theorem Ctx.setC_regBase (c : Ctx) (n : BitVec 6) (r : CReg) : (c.setC n r).regBase = c.regBase := by unfold Ctx.setC; split <;> rfl
@[simp] theorem Ctx.setC_regLimit (c : Ctx) (n : BitVec 6) (r : CReg) : (c.setC n r).regLimit = c.regLimit := by unfold Ctx.setC; split <;> rfl
@[simp] theorem Ctx.setC_pregBase (c : Ctx) (n : BitVec 6) (r : CReg) : (c.setC n r).pregBase = c.pregBase := by unfold Ctx.setC; split <;> rfl
@[simp] theorem Ctx.setC_pregLimit (c : Ctx) (n : BitVec 6) (r : CReg) : (c.setC n r).pregLimit = c.pregLimit := by unfold Ctx.setC; split <;> rfl
@[simp] theorem Ctx.setC_allot (c : Ctx) (n : BitVec 6) (r : CReg) : (c.setC n r).allot = c.allot := by unfold Ctx.setC; split <;> rfl
@[simp] theorem Ctx.setC_v (c : Ctx) (n : BitVec 6) (r : CReg) : (c.setC n r).v = c.v := by unfold Ctx.setC; split <;> rfl
@[simp] theorem Ctx.setC_g (c : Ctx) (n : BitVec 6) (r : CReg) : (c.setC n r).g = c.g := by unfold Ctx.setC; split <;> rfl
@[simp] theorem Ctx.setC_sb (c : Ctx) (n : BitVec 6) (r : CReg) : (c.setC n r).sb = c.sb := by unfold Ctx.setC; split <;> rfl
@[simp] theorem Ctx.setC_q (c : Ctx) (n : BitVec 6) (r : CReg) : (c.setC n r).q = c.q := by unfold Ctx.setC; split <;> rfl
@[simp] theorem Ctx.setC_status (c : Ctx) (n : BitVec 6) (r : CReg) : (c.setC n r).status = c.status := by unfold Ctx.setC; split <;> rfl
@[simp] theorem Ctx.setC_cause (c : Ctx) (n : BitVec 6) (r : CReg) : (c.setC n r).cause = c.cause := by unfold Ctx.setC; split <;> rfl
@[simp] theorem Ctx.setC_epc (c : Ctx) (n : BitVec 6) (r : CReg) : (c.setC n r).epc = c.epc := by unfold Ctx.setC; split <;> rfl
@[simp] theorem Ctx.setC_tval (c : Ctx) (n : BitVec 6) (r : CReg) : (c.setC n r).tval = c.tval := by unfold Ctx.setC; split <;> rfl
@[simp] theorem Ctx.setC_repst (c : Ctx) (n : BitVec 6) (r : CReg) : (c.setC n r).repst = c.repst := by unfold Ctx.setC; split <;> rfl
@[simp] theorem Ctx.setC_rep (c : Ctx) (n : BitVec 6) (r : CReg) : (c.setC n r).rep = c.rep := by unfold Ctx.setC; split <;> rfl
@[simp] theorem Ctx.setC_hold (c : Ctx) (n : BitVec 6) (r : CReg) : (c.setC n r).hold = c.hold := by unfold Ctx.setC; split <;> rfl
@[simp] theorem Ctx.setC_yielding (c : Ctx) (n : BitVec 6) (r : CReg) : (c.setC n r).yielding = c.yielding := by unfold Ctx.setC; split <;> rfl
@[simp] theorem Ctx.setC_blocked (c : Ctx) (n : BitVec 6) (r : CReg) : (c.setC n r).blocked = c.blocked := by unfold Ctx.setC; split <;> rfl
@[simp] theorem Ctx.setC_waitFrom (c : Ctx) (n : BitVec 6) (r : CReg) : (c.setC n r).waitFrom = c.waitFrom := by unfold Ctx.setC; split <;> rfl
@[simp] theorem Ctx.setC_yielded (c : Ctx) (n : BitVec 6) (r : CReg) : (c.setC n r).yielded = c.yielded := by unfold Ctx.setC; split <;> rfl
@[simp] theorem Ctx.setC_inTrap (c : Ctx) (n : BitVec 6) (r : CReg) : (c.setC n r).inTrap = c.inTrap := by unfold Ctx.setC; split <;> rfl
@[simp] theorem Ctx.setC_frozen (c : Ctx) (n : BitVec 6) (r : CReg) : (c.setC n r).frozen = c.frozen := by unfold Ctx.setC; split <;> rfl
@[simp] theorem Ctx.setC_handling (c : Ctx) (n : BitVec 6) (r : CReg) : (c.setC n r).handling = c.handling := by unfold Ctx.setC; split <;> rfl
@[simp] theorem Ctx.setC_started (c : Ctx) (n : BitVec 6) (r : CReg) : (c.setC n r).started = c.started := by unfold Ctx.setC; split <;> rfl
@[simp] theorem Ctx.setC_row (c : Ctx) (n : BitVec 6) (r : CReg) : (c.setC n r).row = c.row := by unfold Ctx.setC; split <;> rfl
@[simp] theorem Ctx.setC_command (c : Ctx) (n : BitVec 6) (r : CReg) : (c.setC n r).command = c.command := by unfold Ctx.setC; split <;> rfl
@[simp] theorem Ctx.setC_stream (c : Ctx) (n : BitVec 6) (r : CReg) : (c.setC n r).stream = c.stream := by unfold Ctx.setC; split <;> rfl
@[simp] theorem Ctx.setC_known (c : Ctx) (n : BitVec 6) (r : CReg) : (c.setC n r).known = c.known := by unfold Ctx.setC; split <;> rfl
@[simp] theorem Ctx.setV_live (c : Ctx) (n : Nat) (x : VReg) : (c.setV n x).live = c.live := by unfold Ctx.setV; rfl
@[simp] theorem Ctx.setV_pc (c : Ctx) (n : Nat) (x : VReg) : (c.setV n x).pc = c.pc := by unfold Ctx.setV; rfl
@[simp] theorem Ctx.setV_regBase (c : Ctx) (n : Nat) (x : VReg) : (c.setV n x).regBase = c.regBase := by unfold Ctx.setV; rfl
@[simp] theorem Ctx.setV_regLimit (c : Ctx) (n : Nat) (x : VReg) : (c.setV n x).regLimit = c.regLimit := by unfold Ctx.setV; rfl
@[simp] theorem Ctx.setV_pregBase (c : Ctx) (n : Nat) (x : VReg) : (c.setV n x).pregBase = c.pregBase := by unfold Ctx.setV; rfl
@[simp] theorem Ctx.setV_pregLimit (c : Ctx) (n : Nat) (x : VReg) : (c.setV n x).pregLimit = c.pregLimit := by unfold Ctx.setV; rfl
@[simp] theorem Ctx.setV_allot (c : Ctx) (n : Nat) (x : VReg) : (c.setV n x).allot = c.allot := by unfold Ctx.setV; rfl
@[simp] theorem Ctx.setV_c (c : Ctx) (n : Nat) (x : VReg) : (c.setV n x).c = c.c := by unfold Ctx.setV; rfl
@[simp] theorem Ctx.setV_g (c : Ctx) (n : Nat) (x : VReg) : (c.setV n x).g = c.g := by unfold Ctx.setV; rfl
@[simp] theorem Ctx.setV_sb (c : Ctx) (n : Nat) (x : VReg) : (c.setV n x).sb = c.sb := by unfold Ctx.setV; rfl
@[simp] theorem Ctx.setV_q (c : Ctx) (n : Nat) (x : VReg) : (c.setV n x).q = c.q := by unfold Ctx.setV; rfl
@[simp] theorem Ctx.setV_status (c : Ctx) (n : Nat) (x : VReg) : (c.setV n x).status = c.status := by unfold Ctx.setV; rfl
@[simp] theorem Ctx.setV_cause (c : Ctx) (n : Nat) (x : VReg) : (c.setV n x).cause = c.cause := by unfold Ctx.setV; rfl
@[simp] theorem Ctx.setV_epc (c : Ctx) (n : Nat) (x : VReg) : (c.setV n x).epc = c.epc := by unfold Ctx.setV; rfl
@[simp] theorem Ctx.setV_tval (c : Ctx) (n : Nat) (x : VReg) : (c.setV n x).tval = c.tval := by unfold Ctx.setV; rfl
@[simp] theorem Ctx.setV_repst (c : Ctx) (n : Nat) (x : VReg) : (c.setV n x).repst = c.repst := by unfold Ctx.setV; rfl
@[simp] theorem Ctx.setV_rep (c : Ctx) (n : Nat) (x : VReg) : (c.setV n x).rep = c.rep := by unfold Ctx.setV; rfl
@[simp] theorem Ctx.setV_hold (c : Ctx) (n : Nat) (x : VReg) : (c.setV n x).hold = c.hold := by unfold Ctx.setV; rfl
@[simp] theorem Ctx.setV_yielding (c : Ctx) (n : Nat) (x : VReg) : (c.setV n x).yielding = c.yielding := by unfold Ctx.setV; rfl
@[simp] theorem Ctx.setV_blocked (c : Ctx) (n : Nat) (x : VReg) : (c.setV n x).blocked = c.blocked := by unfold Ctx.setV; rfl
@[simp] theorem Ctx.setV_waitFrom (c : Ctx) (n : Nat) (x : VReg) : (c.setV n x).waitFrom = c.waitFrom := by unfold Ctx.setV; rfl
@[simp] theorem Ctx.setV_yielded (c : Ctx) (n : Nat) (x : VReg) : (c.setV n x).yielded = c.yielded := by unfold Ctx.setV; rfl
@[simp] theorem Ctx.setV_inTrap (c : Ctx) (n : Nat) (x : VReg) : (c.setV n x).inTrap = c.inTrap := by unfold Ctx.setV; rfl
@[simp] theorem Ctx.setV_frozen (c : Ctx) (n : Nat) (x : VReg) : (c.setV n x).frozen = c.frozen := by unfold Ctx.setV; rfl
@[simp] theorem Ctx.setV_handling (c : Ctx) (n : Nat) (x : VReg) : (c.setV n x).handling = c.handling := by unfold Ctx.setV; rfl
@[simp] theorem Ctx.setV_started (c : Ctx) (n : Nat) (x : VReg) : (c.setV n x).started = c.started := by unfold Ctx.setV; rfl
@[simp] theorem Ctx.setV_row (c : Ctx) (n : Nat) (x : VReg) : (c.setV n x).row = c.row := by unfold Ctx.setV; rfl
@[simp] theorem Ctx.setV_command (c : Ctx) (n : Nat) (x : VReg) : (c.setV n x).command = c.command := by unfold Ctx.setV; rfl
@[simp] theorem Ctx.setV_stream (c : Ctx) (n : Nat) (x : VReg) : (c.setV n x).stream = c.stream := by unfold Ctx.setV; rfl
@[simp] theorem Ctx.setV_known (c : Ctx) (n : Nat) (x : VReg) : (c.setV n x).known = c.known := by unfold Ctx.setV; rfl
@[simp] theorem Ctx.setG_live (c : Ctx) (n : BitVec 4) (x : Word64) : (c.setG n x).live = c.live := by unfold Ctx.setG; split <;> rfl
@[simp] theorem Ctx.setG_pc (c : Ctx) (n : BitVec 4) (x : Word64) : (c.setG n x).pc = c.pc := by unfold Ctx.setG; split <;> rfl
@[simp] theorem Ctx.setG_regBase (c : Ctx) (n : BitVec 4) (x : Word64) : (c.setG n x).regBase = c.regBase := by unfold Ctx.setG; split <;> rfl
@[simp] theorem Ctx.setG_regLimit (c : Ctx) (n : BitVec 4) (x : Word64) : (c.setG n x).regLimit = c.regLimit := by unfold Ctx.setG; split <;> rfl
@[simp] theorem Ctx.setG_pregBase (c : Ctx) (n : BitVec 4) (x : Word64) : (c.setG n x).pregBase = c.pregBase := by unfold Ctx.setG; split <;> rfl
@[simp] theorem Ctx.setG_pregLimit (c : Ctx) (n : BitVec 4) (x : Word64) : (c.setG n x).pregLimit = c.pregLimit := by unfold Ctx.setG; split <;> rfl
@[simp] theorem Ctx.setG_allot (c : Ctx) (n : BitVec 4) (x : Word64) : (c.setG n x).allot = c.allot := by unfold Ctx.setG; split <;> rfl
@[simp] theorem Ctx.setG_c (c : Ctx) (n : BitVec 4) (x : Word64) : (c.setG n x).c = c.c := by unfold Ctx.setG; split <;> rfl
@[simp] theorem Ctx.setG_v (c : Ctx) (n : BitVec 4) (x : Word64) : (c.setG n x).v = c.v := by unfold Ctx.setG; split <;> rfl
@[simp] theorem Ctx.setG_sb (c : Ctx) (n : BitVec 4) (x : Word64) : (c.setG n x).sb = c.sb := by unfold Ctx.setG; split <;> rfl
@[simp] theorem Ctx.setG_q (c : Ctx) (n : BitVec 4) (x : Word64) : (c.setG n x).q = c.q := by unfold Ctx.setG; split <;> rfl
@[simp] theorem Ctx.setG_status (c : Ctx) (n : BitVec 4) (x : Word64) : (c.setG n x).status = c.status := by unfold Ctx.setG; split <;> rfl
@[simp] theorem Ctx.setG_cause (c : Ctx) (n : BitVec 4) (x : Word64) : (c.setG n x).cause = c.cause := by unfold Ctx.setG; split <;> rfl
@[simp] theorem Ctx.setG_epc (c : Ctx) (n : BitVec 4) (x : Word64) : (c.setG n x).epc = c.epc := by unfold Ctx.setG; split <;> rfl
@[simp] theorem Ctx.setG_tval (c : Ctx) (n : BitVec 4) (x : Word64) : (c.setG n x).tval = c.tval := by unfold Ctx.setG; split <;> rfl
@[simp] theorem Ctx.setG_repst (c : Ctx) (n : BitVec 4) (x : Word64) : (c.setG n x).repst = c.repst := by unfold Ctx.setG; split <;> rfl
@[simp] theorem Ctx.setG_rep (c : Ctx) (n : BitVec 4) (x : Word64) : (c.setG n x).rep = c.rep := by unfold Ctx.setG; split <;> rfl
@[simp] theorem Ctx.setG_hold (c : Ctx) (n : BitVec 4) (x : Word64) : (c.setG n x).hold = c.hold := by unfold Ctx.setG; split <;> rfl
@[simp] theorem Ctx.setG_yielding (c : Ctx) (n : BitVec 4) (x : Word64) : (c.setG n x).yielding = c.yielding := by unfold Ctx.setG; split <;> rfl
@[simp] theorem Ctx.setG_blocked (c : Ctx) (n : BitVec 4) (x : Word64) : (c.setG n x).blocked = c.blocked := by unfold Ctx.setG; split <;> rfl
@[simp] theorem Ctx.setG_waitFrom (c : Ctx) (n : BitVec 4) (x : Word64) : (c.setG n x).waitFrom = c.waitFrom := by unfold Ctx.setG; split <;> rfl
@[simp] theorem Ctx.setG_yielded (c : Ctx) (n : BitVec 4) (x : Word64) : (c.setG n x).yielded = c.yielded := by unfold Ctx.setG; split <;> rfl
@[simp] theorem Ctx.setG_inTrap (c : Ctx) (n : BitVec 4) (x : Word64) : (c.setG n x).inTrap = c.inTrap := by unfold Ctx.setG; split <;> rfl
@[simp] theorem Ctx.setG_frozen (c : Ctx) (n : BitVec 4) (x : Word64) : (c.setG n x).frozen = c.frozen := by unfold Ctx.setG; split <;> rfl
@[simp] theorem Ctx.setG_handling (c : Ctx) (n : BitVec 4) (x : Word64) : (c.setG n x).handling = c.handling := by unfold Ctx.setG; split <;> rfl
@[simp] theorem Ctx.setG_started (c : Ctx) (n : BitVec 4) (x : Word64) : (c.setG n x).started = c.started := by unfold Ctx.setG; split <;> rfl
@[simp] theorem Ctx.setG_row (c : Ctx) (n : BitVec 4) (x : Word64) : (c.setG n x).row = c.row := by unfold Ctx.setG; split <;> rfl
@[simp] theorem Ctx.setG_command (c : Ctx) (n : BitVec 4) (x : Word64) : (c.setG n x).command = c.command := by unfold Ctx.setG; split <;> rfl
@[simp] theorem Ctx.setG_stream (c : Ctx) (n : BitVec 4) (x : Word64) : (c.setG n x).stream = c.stream := by unfold Ctx.setG; split <;> rfl
@[simp] theorem Ctx.setG_known (c : Ctx) (n : BitVec 4) (x : Word64) : (c.setG n x).known = c.known := by unfold Ctx.setG; split <;> rfl
@[simp] theorem Ctx.setQ_live (c : Ctx) (n : Nat) (x : QBind) : (c.setQ n x).live = c.live := by unfold Ctx.setQ; rfl
@[simp] theorem Ctx.setQ_pc (c : Ctx) (n : Nat) (x : QBind) : (c.setQ n x).pc = c.pc := by unfold Ctx.setQ; rfl
@[simp] theorem Ctx.setQ_regBase (c : Ctx) (n : Nat) (x : QBind) : (c.setQ n x).regBase = c.regBase := by unfold Ctx.setQ; rfl
@[simp] theorem Ctx.setQ_regLimit (c : Ctx) (n : Nat) (x : QBind) : (c.setQ n x).regLimit = c.regLimit := by unfold Ctx.setQ; rfl
@[simp] theorem Ctx.setQ_pregBase (c : Ctx) (n : Nat) (x : QBind) : (c.setQ n x).pregBase = c.pregBase := by unfold Ctx.setQ; rfl
@[simp] theorem Ctx.setQ_pregLimit (c : Ctx) (n : Nat) (x : QBind) : (c.setQ n x).pregLimit = c.pregLimit := by unfold Ctx.setQ; rfl
@[simp] theorem Ctx.setQ_allot (c : Ctx) (n : Nat) (x : QBind) : (c.setQ n x).allot = c.allot := by unfold Ctx.setQ; rfl
@[simp] theorem Ctx.setQ_c (c : Ctx) (n : Nat) (x : QBind) : (c.setQ n x).c = c.c := by unfold Ctx.setQ; rfl
@[simp] theorem Ctx.setQ_v (c : Ctx) (n : Nat) (x : QBind) : (c.setQ n x).v = c.v := by unfold Ctx.setQ; rfl
@[simp] theorem Ctx.setQ_g (c : Ctx) (n : Nat) (x : QBind) : (c.setQ n x).g = c.g := by unfold Ctx.setQ; rfl
@[simp] theorem Ctx.setQ_sb (c : Ctx) (n : Nat) (x : QBind) : (c.setQ n x).sb = c.sb := by unfold Ctx.setQ; rfl
@[simp] theorem Ctx.setQ_status (c : Ctx) (n : Nat) (x : QBind) : (c.setQ n x).status = c.status := by unfold Ctx.setQ; rfl
@[simp] theorem Ctx.setQ_cause (c : Ctx) (n : Nat) (x : QBind) : (c.setQ n x).cause = c.cause := by unfold Ctx.setQ; rfl
@[simp] theorem Ctx.setQ_epc (c : Ctx) (n : Nat) (x : QBind) : (c.setQ n x).epc = c.epc := by unfold Ctx.setQ; rfl
@[simp] theorem Ctx.setQ_tval (c : Ctx) (n : Nat) (x : QBind) : (c.setQ n x).tval = c.tval := by unfold Ctx.setQ; rfl
@[simp] theorem Ctx.setQ_repst (c : Ctx) (n : Nat) (x : QBind) : (c.setQ n x).repst = c.repst := by unfold Ctx.setQ; rfl
@[simp] theorem Ctx.setQ_rep (c : Ctx) (n : Nat) (x : QBind) : (c.setQ n x).rep = c.rep := by unfold Ctx.setQ; rfl
@[simp] theorem Ctx.setQ_hold (c : Ctx) (n : Nat) (x : QBind) : (c.setQ n x).hold = c.hold := by unfold Ctx.setQ; rfl
@[simp] theorem Ctx.setQ_yielding (c : Ctx) (n : Nat) (x : QBind) : (c.setQ n x).yielding = c.yielding := by unfold Ctx.setQ; rfl
@[simp] theorem Ctx.setQ_blocked (c : Ctx) (n : Nat) (x : QBind) : (c.setQ n x).blocked = c.blocked := by unfold Ctx.setQ; rfl
@[simp] theorem Ctx.setQ_waitFrom (c : Ctx) (n : Nat) (x : QBind) : (c.setQ n x).waitFrom = c.waitFrom := by unfold Ctx.setQ; rfl
@[simp] theorem Ctx.setQ_yielded (c : Ctx) (n : Nat) (x : QBind) : (c.setQ n x).yielded = c.yielded := by unfold Ctx.setQ; rfl
@[simp] theorem Ctx.setQ_inTrap (c : Ctx) (n : Nat) (x : QBind) : (c.setQ n x).inTrap = c.inTrap := by unfold Ctx.setQ; rfl
@[simp] theorem Ctx.setQ_frozen (c : Ctx) (n : Nat) (x : QBind) : (c.setQ n x).frozen = c.frozen := by unfold Ctx.setQ; rfl
@[simp] theorem Ctx.setQ_handling (c : Ctx) (n : Nat) (x : QBind) : (c.setQ n x).handling = c.handling := by unfold Ctx.setQ; rfl
@[simp] theorem Ctx.setQ_started (c : Ctx) (n : Nat) (x : QBind) : (c.setQ n x).started = c.started := by unfold Ctx.setQ; rfl
@[simp] theorem Ctx.setQ_row (c : Ctx) (n : Nat) (x : QBind) : (c.setQ n x).row = c.row := by unfold Ctx.setQ; rfl
@[simp] theorem Ctx.setQ_command (c : Ctx) (n : Nat) (x : QBind) : (c.setQ n x).command = c.command := by unfold Ctx.setQ; rfl
@[simp] theorem Ctx.setQ_stream (c : Ctx) (n : Nat) (x : QBind) : (c.setQ n x).stream = c.stream := by unfold Ctx.setQ; rfl
@[simp] theorem Ctx.setQ_known (c : Ctx) (n : Nat) (x : QBind) : (c.setQ n x).known = c.known := by unfold Ctx.setQ; rfl
@[simp] theorem Ctx.setSb_live (c : Ctx) (n x : Nat) : (c.setSb n x).live = c.live := by unfold Ctx.setSb; rfl
@[simp] theorem Ctx.setSb_pc (c : Ctx) (n x : Nat) : (c.setSb n x).pc = c.pc := by unfold Ctx.setSb; rfl
@[simp] theorem Ctx.setSb_regBase (c : Ctx) (n x : Nat) : (c.setSb n x).regBase = c.regBase := by unfold Ctx.setSb; rfl
@[simp] theorem Ctx.setSb_regLimit (c : Ctx) (n x : Nat) : (c.setSb n x).regLimit = c.regLimit := by unfold Ctx.setSb; rfl
@[simp] theorem Ctx.setSb_pregBase (c : Ctx) (n x : Nat) : (c.setSb n x).pregBase = c.pregBase := by unfold Ctx.setSb; rfl
@[simp] theorem Ctx.setSb_pregLimit (c : Ctx) (n x : Nat) : (c.setSb n x).pregLimit = c.pregLimit := by unfold Ctx.setSb; rfl
@[simp] theorem Ctx.setSb_allot (c : Ctx) (n x : Nat) : (c.setSb n x).allot = c.allot := by unfold Ctx.setSb; rfl
@[simp] theorem Ctx.setSb_c (c : Ctx) (n x : Nat) : (c.setSb n x).c = c.c := by unfold Ctx.setSb; rfl
@[simp] theorem Ctx.setSb_v (c : Ctx) (n x : Nat) : (c.setSb n x).v = c.v := by unfold Ctx.setSb; rfl
@[simp] theorem Ctx.setSb_g (c : Ctx) (n x : Nat) : (c.setSb n x).g = c.g := by unfold Ctx.setSb; rfl
@[simp] theorem Ctx.setSb_q (c : Ctx) (n x : Nat) : (c.setSb n x).q = c.q := by unfold Ctx.setSb; rfl
@[simp] theorem Ctx.setSb_status (c : Ctx) (n x : Nat) : (c.setSb n x).status = c.status := by unfold Ctx.setSb; rfl
@[simp] theorem Ctx.setSb_cause (c : Ctx) (n x : Nat) : (c.setSb n x).cause = c.cause := by unfold Ctx.setSb; rfl
@[simp] theorem Ctx.setSb_epc (c : Ctx) (n x : Nat) : (c.setSb n x).epc = c.epc := by unfold Ctx.setSb; rfl
@[simp] theorem Ctx.setSb_tval (c : Ctx) (n x : Nat) : (c.setSb n x).tval = c.tval := by unfold Ctx.setSb; rfl
@[simp] theorem Ctx.setSb_repst (c : Ctx) (n x : Nat) : (c.setSb n x).repst = c.repst := by unfold Ctx.setSb; rfl
@[simp] theorem Ctx.setSb_rep (c : Ctx) (n x : Nat) : (c.setSb n x).rep = c.rep := by unfold Ctx.setSb; rfl
@[simp] theorem Ctx.setSb_hold (c : Ctx) (n x : Nat) : (c.setSb n x).hold = c.hold := by unfold Ctx.setSb; rfl
@[simp] theorem Ctx.setSb_yielding (c : Ctx) (n x : Nat) : (c.setSb n x).yielding = c.yielding := by unfold Ctx.setSb; rfl
@[simp] theorem Ctx.setSb_blocked (c : Ctx) (n x : Nat) : (c.setSb n x).blocked = c.blocked := by unfold Ctx.setSb; rfl
@[simp] theorem Ctx.setSb_waitFrom (c : Ctx) (n x : Nat) : (c.setSb n x).waitFrom = c.waitFrom := by unfold Ctx.setSb; rfl
@[simp] theorem Ctx.setSb_yielded (c : Ctx) (n x : Nat) : (c.setSb n x).yielded = c.yielded := by unfold Ctx.setSb; rfl
@[simp] theorem Ctx.setSb_inTrap (c : Ctx) (n x : Nat) : (c.setSb n x).inTrap = c.inTrap := by unfold Ctx.setSb; rfl
@[simp] theorem Ctx.setSb_frozen (c : Ctx) (n x : Nat) : (c.setSb n x).frozen = c.frozen := by unfold Ctx.setSb; rfl
@[simp] theorem Ctx.setSb_handling (c : Ctx) (n x : Nat) : (c.setSb n x).handling = c.handling := by unfold Ctx.setSb; rfl
@[simp] theorem Ctx.setSb_started (c : Ctx) (n x : Nat) : (c.setSb n x).started = c.started := by unfold Ctx.setSb; rfl
@[simp] theorem Ctx.setSb_row (c : Ctx) (n x : Nat) : (c.setSb n x).row = c.row := by unfold Ctx.setSb; rfl
@[simp] theorem Ctx.setSb_command (c : Ctx) (n x : Nat) : (c.setSb n x).command = c.command := by unfold Ctx.setSb; rfl
@[simp] theorem Ctx.setSb_stream (c : Ctx) (n x : Nat) : (c.setSb n x).stream = c.stream := by unfold Ctx.setSb; rfl
@[simp] theorem Ctx.setSb_known (c : Ctx) (n x : Nat) : (c.setSb n x).known = c.known := by unfold Ctx.setSb; rfl
@[simp] theorem Ctx.setStatus_live (c : Ctx) (lo n x : Nat) : (c.setStatus lo n x).live = c.live := by unfold Ctx.setStatus; rfl
@[simp] theorem Ctx.setStatus_pc (c : Ctx) (lo n x : Nat) : (c.setStatus lo n x).pc = c.pc := by unfold Ctx.setStatus; rfl
@[simp] theorem Ctx.setStatus_regBase (c : Ctx) (lo n x : Nat) : (c.setStatus lo n x).regBase = c.regBase := by unfold Ctx.setStatus; rfl
@[simp] theorem Ctx.setStatus_regLimit (c : Ctx) (lo n x : Nat) : (c.setStatus lo n x).regLimit = c.regLimit := by unfold Ctx.setStatus; rfl
@[simp] theorem Ctx.setStatus_pregBase (c : Ctx) (lo n x : Nat) : (c.setStatus lo n x).pregBase = c.pregBase := by unfold Ctx.setStatus; rfl
@[simp] theorem Ctx.setStatus_pregLimit (c : Ctx) (lo n x : Nat) : (c.setStatus lo n x).pregLimit = c.pregLimit := by unfold Ctx.setStatus; rfl
@[simp] theorem Ctx.setStatus_allot (c : Ctx) (lo n x : Nat) : (c.setStatus lo n x).allot = c.allot := by unfold Ctx.setStatus; rfl
@[simp] theorem Ctx.setStatus_c (c : Ctx) (lo n x : Nat) : (c.setStatus lo n x).c = c.c := by unfold Ctx.setStatus; rfl
@[simp] theorem Ctx.setStatus_v (c : Ctx) (lo n x : Nat) : (c.setStatus lo n x).v = c.v := by unfold Ctx.setStatus; rfl
@[simp] theorem Ctx.setStatus_g (c : Ctx) (lo n x : Nat) : (c.setStatus lo n x).g = c.g := by unfold Ctx.setStatus; rfl
@[simp] theorem Ctx.setStatus_sb (c : Ctx) (lo n x : Nat) : (c.setStatus lo n x).sb = c.sb := by unfold Ctx.setStatus; rfl
@[simp] theorem Ctx.setStatus_q (c : Ctx) (lo n x : Nat) : (c.setStatus lo n x).q = c.q := by unfold Ctx.setStatus; rfl
@[simp] theorem Ctx.setStatus_cause (c : Ctx) (lo n x : Nat) : (c.setStatus lo n x).cause = c.cause := by unfold Ctx.setStatus; rfl
@[simp] theorem Ctx.setStatus_epc (c : Ctx) (lo n x : Nat) : (c.setStatus lo n x).epc = c.epc := by unfold Ctx.setStatus; rfl
@[simp] theorem Ctx.setStatus_tval (c : Ctx) (lo n x : Nat) : (c.setStatus lo n x).tval = c.tval := by unfold Ctx.setStatus; rfl
@[simp] theorem Ctx.setStatus_repst (c : Ctx) (lo n x : Nat) : (c.setStatus lo n x).repst = c.repst := by unfold Ctx.setStatus; rfl
@[simp] theorem Ctx.setStatus_rep (c : Ctx) (lo n x : Nat) : (c.setStatus lo n x).rep = c.rep := by unfold Ctx.setStatus; rfl
@[simp] theorem Ctx.setStatus_hold (c : Ctx) (lo n x : Nat) : (c.setStatus lo n x).hold = c.hold := by unfold Ctx.setStatus; rfl
@[simp] theorem Ctx.setStatus_yielding (c : Ctx) (lo n x : Nat) : (c.setStatus lo n x).yielding = c.yielding := by unfold Ctx.setStatus; rfl
@[simp] theorem Ctx.setStatus_blocked (c : Ctx) (lo n x : Nat) : (c.setStatus lo n x).blocked = c.blocked := by unfold Ctx.setStatus; rfl
@[simp] theorem Ctx.setStatus_waitFrom (c : Ctx) (lo n x : Nat) : (c.setStatus lo n x).waitFrom = c.waitFrom := by unfold Ctx.setStatus; rfl
@[simp] theorem Ctx.setStatus_yielded (c : Ctx) (lo n x : Nat) : (c.setStatus lo n x).yielded = c.yielded := by unfold Ctx.setStatus; rfl
@[simp] theorem Ctx.setStatus_inTrap (c : Ctx) (lo n x : Nat) : (c.setStatus lo n x).inTrap = c.inTrap := by unfold Ctx.setStatus; rfl
@[simp] theorem Ctx.setStatus_frozen (c : Ctx) (lo n x : Nat) : (c.setStatus lo n x).frozen = c.frozen := by unfold Ctx.setStatus; rfl
@[simp] theorem Ctx.setStatus_handling (c : Ctx) (lo n x : Nat) : (c.setStatus lo n x).handling = c.handling := by unfold Ctx.setStatus; rfl
@[simp] theorem Ctx.setStatus_started (c : Ctx) (lo n x : Nat) : (c.setStatus lo n x).started = c.started := by unfold Ctx.setStatus; rfl
@[simp] theorem Ctx.setStatus_row (c : Ctx) (lo n x : Nat) : (c.setStatus lo n x).row = c.row := by unfold Ctx.setStatus; rfl
@[simp] theorem Ctx.setStatus_command (c : Ctx) (lo n x : Nat) : (c.setStatus lo n x).command = c.command := by unfold Ctx.setStatus; rfl
@[simp] theorem Ctx.setStatus_stream (c : Ctx) (lo n x : Nat) : (c.setStatus lo n x).stream = c.stream := by unfold Ctx.setStatus; rfl
@[simp] theorem Ctx.setStatus_known (c : Ctx) (lo n x : Nat) : (c.setStatus lo n x).known = c.known := by unfold Ctx.setStatus; rfl
@[simp] theorem Ctx.orFlags_live (c : Ctx) (fl : Nat) : (c.orFlags fl).live = c.live := by unfold Ctx.orFlags Ctx.setStatus; rfl
@[simp] theorem Ctx.orFlags_pc (c : Ctx) (fl : Nat) : (c.orFlags fl).pc = c.pc := by unfold Ctx.orFlags Ctx.setStatus; rfl
@[simp] theorem Ctx.orFlags_regBase (c : Ctx) (fl : Nat) : (c.orFlags fl).regBase = c.regBase := by unfold Ctx.orFlags Ctx.setStatus; rfl
@[simp] theorem Ctx.orFlags_regLimit (c : Ctx) (fl : Nat) : (c.orFlags fl).regLimit = c.regLimit := by unfold Ctx.orFlags Ctx.setStatus; rfl
@[simp] theorem Ctx.orFlags_pregBase (c : Ctx) (fl : Nat) : (c.orFlags fl).pregBase = c.pregBase := by unfold Ctx.orFlags Ctx.setStatus; rfl
@[simp] theorem Ctx.orFlags_pregLimit (c : Ctx) (fl : Nat) : (c.orFlags fl).pregLimit = c.pregLimit := by unfold Ctx.orFlags Ctx.setStatus; rfl
@[simp] theorem Ctx.orFlags_allot (c : Ctx) (fl : Nat) : (c.orFlags fl).allot = c.allot := by unfold Ctx.orFlags Ctx.setStatus; rfl
@[simp] theorem Ctx.orFlags_c (c : Ctx) (fl : Nat) : (c.orFlags fl).c = c.c := by unfold Ctx.orFlags Ctx.setStatus; rfl
@[simp] theorem Ctx.orFlags_v (c : Ctx) (fl : Nat) : (c.orFlags fl).v = c.v := by unfold Ctx.orFlags Ctx.setStatus; rfl
@[simp] theorem Ctx.orFlags_g (c : Ctx) (fl : Nat) : (c.orFlags fl).g = c.g := by unfold Ctx.orFlags Ctx.setStatus; rfl
@[simp] theorem Ctx.orFlags_sb (c : Ctx) (fl : Nat) : (c.orFlags fl).sb = c.sb := by unfold Ctx.orFlags Ctx.setStatus; rfl
@[simp] theorem Ctx.orFlags_q (c : Ctx) (fl : Nat) : (c.orFlags fl).q = c.q := by unfold Ctx.orFlags Ctx.setStatus; rfl
@[simp] theorem Ctx.orFlags_cause (c : Ctx) (fl : Nat) : (c.orFlags fl).cause = c.cause := by unfold Ctx.orFlags Ctx.setStatus; rfl
@[simp] theorem Ctx.orFlags_epc (c : Ctx) (fl : Nat) : (c.orFlags fl).epc = c.epc := by unfold Ctx.orFlags Ctx.setStatus; rfl
@[simp] theorem Ctx.orFlags_tval (c : Ctx) (fl : Nat) : (c.orFlags fl).tval = c.tval := by unfold Ctx.orFlags Ctx.setStatus; rfl
@[simp] theorem Ctx.orFlags_repst (c : Ctx) (fl : Nat) : (c.orFlags fl).repst = c.repst := by unfold Ctx.orFlags Ctx.setStatus; rfl
@[simp] theorem Ctx.orFlags_rep (c : Ctx) (fl : Nat) : (c.orFlags fl).rep = c.rep := by unfold Ctx.orFlags Ctx.setStatus; rfl
@[simp] theorem Ctx.orFlags_hold (c : Ctx) (fl : Nat) : (c.orFlags fl).hold = c.hold := by unfold Ctx.orFlags Ctx.setStatus; rfl
@[simp] theorem Ctx.orFlags_yielding (c : Ctx) (fl : Nat) : (c.orFlags fl).yielding = c.yielding := by unfold Ctx.orFlags Ctx.setStatus; rfl
@[simp] theorem Ctx.orFlags_blocked (c : Ctx) (fl : Nat) : (c.orFlags fl).blocked = c.blocked := by unfold Ctx.orFlags Ctx.setStatus; rfl
@[simp] theorem Ctx.orFlags_waitFrom (c : Ctx) (fl : Nat) : (c.orFlags fl).waitFrom = c.waitFrom := by unfold Ctx.orFlags Ctx.setStatus; rfl
@[simp] theorem Ctx.orFlags_yielded (c : Ctx) (fl : Nat) : (c.orFlags fl).yielded = c.yielded := by unfold Ctx.orFlags Ctx.setStatus; rfl
@[simp] theorem Ctx.orFlags_inTrap (c : Ctx) (fl : Nat) : (c.orFlags fl).inTrap = c.inTrap := by unfold Ctx.orFlags Ctx.setStatus; rfl
@[simp] theorem Ctx.orFlags_frozen (c : Ctx) (fl : Nat) : (c.orFlags fl).frozen = c.frozen := by unfold Ctx.orFlags Ctx.setStatus; rfl
@[simp] theorem Ctx.orFlags_handling (c : Ctx) (fl : Nat) : (c.orFlags fl).handling = c.handling := by unfold Ctx.orFlags Ctx.setStatus; rfl
@[simp] theorem Ctx.orFlags_started (c : Ctx) (fl : Nat) : (c.orFlags fl).started = c.started := by unfold Ctx.orFlags Ctx.setStatus; rfl
@[simp] theorem Ctx.orFlags_row (c : Ctx) (fl : Nat) : (c.orFlags fl).row = c.row := by unfold Ctx.orFlags Ctx.setStatus; rfl
@[simp] theorem Ctx.orFlags_command (c : Ctx) (fl : Nat) : (c.orFlags fl).command = c.command := by unfold Ctx.orFlags Ctx.setStatus; rfl
@[simp] theorem Ctx.orFlags_stream (c : Ctx) (fl : Nat) : (c.orFlags fl).stream = c.stream := by unfold Ctx.orFlags Ctx.setStatus; rfl
@[simp] theorem Ctx.orFlags_known (c : Ctx) (fl : Nat) : (c.orFlags fl).known = c.known := by unfold Ctx.orFlags Ctx.setStatus; rfl
@[simp] theorem Ctx.chargeSb_live (c : Ctx) (n : Option Nat) : (c.chargeSb n).live = c.live := by
  cases n <;> simp [Ctx.chargeSb]
@[simp] theorem Ctx.chargeSb_pc (c : Ctx) (n : Option Nat) : (c.chargeSb n).pc = c.pc := by
  cases n <;> simp [Ctx.chargeSb]
@[simp] theorem Ctx.chargeSb_regBase (c : Ctx) (n : Option Nat) : (c.chargeSb n).regBase = c.regBase := by
  cases n <;> simp [Ctx.chargeSb]
@[simp] theorem Ctx.chargeSb_regLimit (c : Ctx) (n : Option Nat) : (c.chargeSb n).regLimit = c.regLimit := by
  cases n <;> simp [Ctx.chargeSb]
@[simp] theorem Ctx.chargeSb_pregBase (c : Ctx) (n : Option Nat) : (c.chargeSb n).pregBase = c.pregBase := by
  cases n <;> simp [Ctx.chargeSb]
@[simp] theorem Ctx.chargeSb_pregLimit (c : Ctx) (n : Option Nat) : (c.chargeSb n).pregLimit = c.pregLimit := by
  cases n <;> simp [Ctx.chargeSb]
@[simp] theorem Ctx.chargeSb_allot (c : Ctx) (n : Option Nat) : (c.chargeSb n).allot = c.allot := by
  cases n <;> simp [Ctx.chargeSb]
@[simp] theorem Ctx.chargeSb_c (c : Ctx) (n : Option Nat) : (c.chargeSb n).c = c.c := by
  cases n <;> simp [Ctx.chargeSb]
@[simp] theorem Ctx.chargeSb_v (c : Ctx) (n : Option Nat) : (c.chargeSb n).v = c.v := by
  cases n <;> simp [Ctx.chargeSb]
@[simp] theorem Ctx.chargeSb_g (c : Ctx) (n : Option Nat) : (c.chargeSb n).g = c.g := by
  cases n <;> simp [Ctx.chargeSb]
@[simp] theorem Ctx.chargeSb_q (c : Ctx) (n : Option Nat) : (c.chargeSb n).q = c.q := by
  cases n <;> simp [Ctx.chargeSb]
@[simp] theorem Ctx.chargeSb_status (c : Ctx) (n : Option Nat) : (c.chargeSb n).status = c.status := by
  cases n <;> simp [Ctx.chargeSb]
@[simp] theorem Ctx.chargeSb_cause (c : Ctx) (n : Option Nat) : (c.chargeSb n).cause = c.cause := by
  cases n <;> simp [Ctx.chargeSb]
@[simp] theorem Ctx.chargeSb_epc (c : Ctx) (n : Option Nat) : (c.chargeSb n).epc = c.epc := by
  cases n <;> simp [Ctx.chargeSb]
@[simp] theorem Ctx.chargeSb_tval (c : Ctx) (n : Option Nat) : (c.chargeSb n).tval = c.tval := by
  cases n <;> simp [Ctx.chargeSb]
@[simp] theorem Ctx.chargeSb_repst (c : Ctx) (n : Option Nat) : (c.chargeSb n).repst = c.repst := by
  cases n <;> simp [Ctx.chargeSb]
@[simp] theorem Ctx.chargeSb_rep (c : Ctx) (n : Option Nat) : (c.chargeSb n).rep = c.rep := by
  cases n <;> simp [Ctx.chargeSb]
@[simp] theorem Ctx.chargeSb_hold (c : Ctx) (n : Option Nat) : (c.chargeSb n).hold = c.hold := by
  cases n <;> simp [Ctx.chargeSb]
@[simp] theorem Ctx.chargeSb_yielding (c : Ctx) (n : Option Nat) : (c.chargeSb n).yielding = c.yielding := by
  cases n <;> simp [Ctx.chargeSb]
@[simp] theorem Ctx.chargeSb_blocked (c : Ctx) (n : Option Nat) : (c.chargeSb n).blocked = c.blocked := by
  cases n <;> simp [Ctx.chargeSb]
@[simp] theorem Ctx.chargeSb_waitFrom (c : Ctx) (n : Option Nat) : (c.chargeSb n).waitFrom = c.waitFrom := by
  cases n <;> simp [Ctx.chargeSb]
@[simp] theorem Ctx.chargeSb_yielded (c : Ctx) (n : Option Nat) : (c.chargeSb n).yielded = c.yielded := by
  cases n <;> simp [Ctx.chargeSb]
@[simp] theorem Ctx.chargeSb_inTrap (c : Ctx) (n : Option Nat) : (c.chargeSb n).inTrap = c.inTrap := by
  cases n <;> simp [Ctx.chargeSb]
@[simp] theorem Ctx.chargeSb_frozen (c : Ctx) (n : Option Nat) : (c.chargeSb n).frozen = c.frozen := by
  cases n <;> simp [Ctx.chargeSb]
@[simp] theorem Ctx.chargeSb_handling (c : Ctx) (n : Option Nat) : (c.chargeSb n).handling = c.handling := by
  cases n <;> simp [Ctx.chargeSb]
@[simp] theorem Ctx.chargeSb_started (c : Ctx) (n : Option Nat) : (c.chargeSb n).started = c.started := by
  cases n <;> simp [Ctx.chargeSb]
@[simp] theorem Ctx.chargeSb_row (c : Ctx) (n : Option Nat) : (c.chargeSb n).row = c.row := by
  cases n <;> simp [Ctx.chargeSb]
@[simp] theorem Ctx.chargeSb_command (c : Ctx) (n : Option Nat) : (c.chargeSb n).command = c.command := by
  cases n <;> simp [Ctx.chargeSb]
@[simp] theorem Ctx.chargeSb_stream (c : Ctx) (n : Option Nat) : (c.chargeSb n).stream = c.stream := by
  cases n <;> simp [Ctx.chargeSb]
@[simp] theorem Ctx.chargeSb_known (c : Ctx) (n : Option Nat) : (c.chargeSb n).known = c.known := by
  cases n <;> simp [Ctx.chargeSb]
@[simp] theorem Ctx.releaseSb_live (c : Ctx) (n : Option Nat) : (c.releaseSb n).live = c.live := by
  cases n <;> simp [Ctx.releaseSb]
@[simp] theorem Ctx.releaseSb_pc (c : Ctx) (n : Option Nat) : (c.releaseSb n).pc = c.pc := by
  cases n <;> simp [Ctx.releaseSb]
@[simp] theorem Ctx.releaseSb_regBase (c : Ctx) (n : Option Nat) : (c.releaseSb n).regBase = c.regBase := by
  cases n <;> simp [Ctx.releaseSb]
@[simp] theorem Ctx.releaseSb_regLimit (c : Ctx) (n : Option Nat) : (c.releaseSb n).regLimit = c.regLimit := by
  cases n <;> simp [Ctx.releaseSb]
@[simp] theorem Ctx.releaseSb_pregBase (c : Ctx) (n : Option Nat) : (c.releaseSb n).pregBase = c.pregBase := by
  cases n <;> simp [Ctx.releaseSb]
@[simp] theorem Ctx.releaseSb_pregLimit (c : Ctx) (n : Option Nat) : (c.releaseSb n).pregLimit = c.pregLimit := by
  cases n <;> simp [Ctx.releaseSb]
@[simp] theorem Ctx.releaseSb_allot (c : Ctx) (n : Option Nat) : (c.releaseSb n).allot = c.allot := by
  cases n <;> simp [Ctx.releaseSb]
@[simp] theorem Ctx.releaseSb_c (c : Ctx) (n : Option Nat) : (c.releaseSb n).c = c.c := by
  cases n <;> simp [Ctx.releaseSb]
@[simp] theorem Ctx.releaseSb_v (c : Ctx) (n : Option Nat) : (c.releaseSb n).v = c.v := by
  cases n <;> simp [Ctx.releaseSb]
@[simp] theorem Ctx.releaseSb_g (c : Ctx) (n : Option Nat) : (c.releaseSb n).g = c.g := by
  cases n <;> simp [Ctx.releaseSb]
@[simp] theorem Ctx.releaseSb_q (c : Ctx) (n : Option Nat) : (c.releaseSb n).q = c.q := by
  cases n <;> simp [Ctx.releaseSb]
@[simp] theorem Ctx.releaseSb_status (c : Ctx) (n : Option Nat) : (c.releaseSb n).status = c.status := by
  cases n <;> simp [Ctx.releaseSb]
@[simp] theorem Ctx.releaseSb_cause (c : Ctx) (n : Option Nat) : (c.releaseSb n).cause = c.cause := by
  cases n <;> simp [Ctx.releaseSb]
@[simp] theorem Ctx.releaseSb_epc (c : Ctx) (n : Option Nat) : (c.releaseSb n).epc = c.epc := by
  cases n <;> simp [Ctx.releaseSb]
@[simp] theorem Ctx.releaseSb_tval (c : Ctx) (n : Option Nat) : (c.releaseSb n).tval = c.tval := by
  cases n <;> simp [Ctx.releaseSb]
@[simp] theorem Ctx.releaseSb_repst (c : Ctx) (n : Option Nat) : (c.releaseSb n).repst = c.repst := by
  cases n <;> simp [Ctx.releaseSb]
@[simp] theorem Ctx.releaseSb_rep (c : Ctx) (n : Option Nat) : (c.releaseSb n).rep = c.rep := by
  cases n <;> simp [Ctx.releaseSb]
@[simp] theorem Ctx.releaseSb_hold (c : Ctx) (n : Option Nat) : (c.releaseSb n).hold = c.hold := by
  cases n <;> simp [Ctx.releaseSb]
@[simp] theorem Ctx.releaseSb_yielding (c : Ctx) (n : Option Nat) : (c.releaseSb n).yielding = c.yielding := by
  cases n <;> simp [Ctx.releaseSb]
@[simp] theorem Ctx.releaseSb_blocked (c : Ctx) (n : Option Nat) : (c.releaseSb n).blocked = c.blocked := by
  cases n <;> simp [Ctx.releaseSb]
@[simp] theorem Ctx.releaseSb_waitFrom (c : Ctx) (n : Option Nat) : (c.releaseSb n).waitFrom = c.waitFrom := by
  cases n <;> simp [Ctx.releaseSb]
@[simp] theorem Ctx.releaseSb_yielded (c : Ctx) (n : Option Nat) : (c.releaseSb n).yielded = c.yielded := by
  cases n <;> simp [Ctx.releaseSb]
@[simp] theorem Ctx.releaseSb_inTrap (c : Ctx) (n : Option Nat) : (c.releaseSb n).inTrap = c.inTrap := by
  cases n <;> simp [Ctx.releaseSb]
@[simp] theorem Ctx.releaseSb_frozen (c : Ctx) (n : Option Nat) : (c.releaseSb n).frozen = c.frozen := by
  cases n <;> simp [Ctx.releaseSb]
@[simp] theorem Ctx.releaseSb_handling (c : Ctx) (n : Option Nat) : (c.releaseSb n).handling = c.handling := by
  cases n <;> simp [Ctx.releaseSb]
@[simp] theorem Ctx.releaseSb_started (c : Ctx) (n : Option Nat) : (c.releaseSb n).started = c.started := by
  cases n <;> simp [Ctx.releaseSb]
@[simp] theorem Ctx.releaseSb_row (c : Ctx) (n : Option Nat) : (c.releaseSb n).row = c.row := by
  cases n <;> simp [Ctx.releaseSb]
@[simp] theorem Ctx.releaseSb_command (c : Ctx) (n : Option Nat) : (c.releaseSb n).command = c.command := by
  cases n <;> simp [Ctx.releaseSb]
@[simp] theorem Ctx.releaseSb_stream (c : Ctx) (n : Option Nat) : (c.releaseSb n).stream = c.stream := by
  cases n <;> simp [Ctx.releaseSb]
@[simp] theorem Ctx.releaseSb_known (c : Ctx) (n : Option Nat) : (c.releaseSb n).known = c.known := by
  cases n <;> simp [Ctx.releaseSb]

/-! ### Registers: a read after a write -/

theorem Ctx.getC_setC (c : Ctx) (n m : BitVec 6) (r : CReg) :
    (c.setC n r).getC m = if m = 0 then {} else if m = n then r else c.getC m := by
  have := @BitVec.toNat_inj 6 m n
  unfold Ctx.setC Ctx.getC
  grind [Sparse.get_put]

theorem Ctx.getG_setG (c : Ctx) (n m : BitVec 4) (x : Word64) :
    (c.setG n x).getG m = if m = 0 then BitVec.allOnes 64 else if m = n then x else c.getG m := by
  have := @BitVec.toNat_inj 4 m n
  unfold Ctx.setG Ctx.getG
  grind [Sparse.get_put]

@[simp] theorem Ctx.getV_setV (c : Ctx) (n m : Nat) (x : VReg) : (c.setV n x).getV m = if m = n then x else c.getV m :=
  Sparse.get_put _ _ _ _ _
@[simp] theorem Ctx.getQ_setQ (c : Ctx) (n m : Nat) (x : QBind) : (c.setQ n x).getQ m = if m = n then x else c.getQ m :=
  Sparse.get_put _ _ _ _ _
@[simp] theorem Ctx.getSb_setSb (c : Ctx) (n m x : Nat) : (c.setSb n x).getSb m = if m = n then x else c.getSb m :=
  Sparse.get_set _ _ _ _ _

/-- c0 and g0 discard what is written (R86). -/
@[simp] theorem Ctx.setC_zero (c : Ctx) (r : CReg) : c.setC 0 r = c := rfl
@[simp] theorem Ctx.setG_zero (c : Ctx) (x : Word64) : c.setG 0 x = c := rfl

/-! ### What a context knows (R238) -/

@[simp] theorem State.modKnown_mem (s : State) (k : Nat) (f : Known → Known) : (s.modKnown k f).mem = s.mem := by
  unfold State.modKnown; split <;> rfl
@[simp] theorem State.modKnown_cores (s : State) (k : Nat) (f : Known → Known) : (s.modKnown k f).cores = s.cores := by
  unfold State.modKnown; split <;> rfl
theorem State.known_modKnown (s : State) (k : Nat) (f : Known → Known) : (s.modKnown k f).known k = f (s.known k) := by
  unfold State.modKnown State.known
  split <;> simp [State.slotOf, State.slotKeyOf, State.slotNo, *]

end Sys2Proof.Machine
end

