-- ==== Sys2Proof/Laws/Run.lean ====
section
/-!
SUPPORT. What the end of an instruction can do: it goes on, jumps, traps or waits, and nothing else changes.
-/

namespace Sys2Proof.Machine

/-! ### A core cycle, and an issue -/

theorem Sparse.get_map {α : Type} (d : α) (g : Nat → α → α) (hd : ∀ i, g i d = d) (m : Sparse α) (i : Nat) :
    Sparse.get d (m.map (fun e => (e.1, g e.1 e.2))) i = g i (Sparse.get d m i) := by
  induction m <;> grind [Sparse.get]

/-- What a core cycle does to a context: its hold and its yield. -/
theorem State.ctx_coreCycle (s : State) (core j : Nat) (k : Option Nat) :
    ∃ h y, (s.coreCycle core k).ctx j = { s.ctx j with hold := h, yielding := y } := by
  have key := Sparse.get_map ({} : Ctx)
    (fun i c => if i / 32 = core then
      { c with hold := c.hold - 1, yielding := c.yielding.filter (fun n => some n != k && s.ready n) } else c)
    (by intro i; dsimp only; split <;> rfl) s.ctxs j
  have e : (s.coreCycle core k).ctxs = s.ctxs.map (fun e => (e.1, (if e.1 / 32 = core then
      { e.2 with hold := e.2.hold - 1, yielding := e.2.yielding.filter (fun n => some n != k && s.ready n) } else e.2))) := by
    unfold State.coreCycle
    dsimp only
    apply List.map_congr_left
    rintro ⟨i, c⟩ _
    dsimp only
    split <;> rfl
  unfold State.ctx
  rw [e]
  have key' : Sparse.get ({} : Ctx) (s.ctxs.map (fun e => (e.1, (if e.1 / 32 = core then
      { e.2 with hold := e.2.hold - 1, yielding := e.2.yielding.filter (fun n => some n != k && s.ready n) } else e.2)))) j = _ := key
  rw [key']
  split
  · exact ⟨_, _, rfl⟩
  · exact ⟨_, _, rfl⟩

theorem State.ctx_dropMisses (s : State) (k j : Nat) : (s.dropMisses k).ctx j = s.ctx j := by
  unfold State.dropMisses; split <;> rfl

theorem State.core_dropMisses (s : State) (k n : Nat) :
    (s.dropMisses k).core n = { s.core n with misses := ((s.dropMisses k).core n).misses } := by
  unfold State.dropMisses
  split
  · rfl
  · rw [State.core_modFold, State.core_modCore]
    split
    · next h => subst h; rfl
    · rfl

theorem State.fold_dropMisses (s : State) (k n : Nat) :
    (s.dropMisses k).fold n = { s.fold n with heldFaults := ((s.dropMisses k).fold n).heldFaults } := by
  unfold State.dropMisses
  split
  · rfl
  · rw [State.fold_modFold, State.fold_modCore]
    split
    · next h => subst h; rfl
    · rfl

theorem State.rest_dropMisses (s : State) (k : Nat) :
    s.dropMisses k = { s with cores := (s.dropMisses k).cores, folds := (s.dropMisses k).folds } := by
  unfold State.dropMisses; split <;> rfl

/-- An issue sets what the issue choice keeps, and leaves the rest. -/
theorem State.issued_goesOn (s before : State) (k pace : Nat) :
    s.issued before k pace = { s with ctxs := (s.issued before k pace).ctxs, cores := (s.issued before k pace).cores,
                                      epoch := (s.issued before k pace).epoch } ∧
    (∀ j, j ≠ k → (s.issued before k pace).ctx j =
      { s.ctx j with hold := ((s.issued before k pace).ctx j).hold, yielding := ((s.issued before k pace).ctx j).yielding }) ∧
    (∀ n, (s.issued before k pace).core n = { s.core n with lastSlot := ((s.issued before k pace).core n).lastSlot }) ∧
    (s.issued before k pace).ctx k =
      { s.ctx k with hold := ((s.issued before k pace).ctx k).hold, yielding := ((s.issued before k pace).ctx k).yielding,
                     blocked := none, yielded := false } := by
  have hc : ∀ j, ∃ h y, (s.coreCycle (coreOf k) (some k)).ctx j = { s.ctx j with hold := h, yielding := y } :=
    fun j => State.ctx_coreCycle s (coreOf k) j (some k)
  unfold State.issued
  dsimp only
  cases hd : isDrain k
  all_goals
    simp only [if_true, Bool.false_eq_true, if_false]
    refine ⟨rfl, ?_, ?_, ?_⟩
  · intro j hj
    obtain ⟨h, y, e⟩ := hc j
    have : ∀ (A : State), ({ A with epoch := A.epoch + 1 } : State).ctx j = A.ctx j := fun _ => rfl
    simp only [this, State.ctx_modCtx, if_neg hj, State.ctx_modCore, e]
  · intro n
    have : ∀ (A : State), ({ A with epoch := A.epoch + 1 } : State).core n = A.core n := fun _ => rfl
    simp only [this, State.core_modCtx, State.core_modCore]
    split
    · next h => subst h; rfl
    · rfl
  · obtain ⟨h, y, e⟩ := hc k
    have : ∀ (A : State), ({ A with epoch := A.epoch + 1 } : State).ctx k = A.ctx k := fun _ => rfl
    simp only [this, State.ctx_modCtx, if_pos, State.ctx_modCore, e]
  · intro j hj
    obtain ⟨h, y, e⟩ := hc j
    have : ∀ (A : State), ({ A with epoch := A.epoch + 1 } : State).ctx j = A.ctx j := fun _ => rfl
    simp only [this, State.ctx_modCtx, if_neg hj, e]
  · intro n; rfl
  · obtain ⟨h, y, e⟩ := hc k
    have : ∀ (A : State), ({ A with epoch := A.epoch + 1 } : State).ctx k = A.ctx k := fun _ => rfl
    simp only [this, State.ctx_modCtx, if_pos, e]

/-- The end of an instruction, once: misses dropped, the context set, the issue. -/
theorem State.issue_goesOn (s before : State) (k pace : Nat) (c : Ctx) :
    s.GoesOn ((((s.dropMisses k).setCtx k { c with waitFrom := none }).issued before k pace)) k c := by
  obtain ⟨h1, h2, h3, h4⟩ := State.issued_goesOn ((s.dropMisses k).setCtx k { c with waitFrom := none }) before k pace
  generalize ((s.dropMisses k).setCtx k { c with waitFrom := none }).issued before k pace = t at *
  refine ⟨?_, ?_, ?_, ?_, ?_⟩
  · rw [State.rest_dropMisses s k] at h1
    rw [h1]
    rfl
  · intro j hj
    rw [h2 j hj, State.ctx_setCtx, if_neg hj, State.ctx_dropMisses]
  · intro n
    rw [h3 n]
    rw [State.core_setCtx, State.core_dropMisses s k n]
  · intro n
    rw [show t.fold n = ((s.dropMisses k).setCtx k { c with waitFrom := none }).fold n by rw [h1]; rfl]
    rw [State.fold_setCtx, State.fold_dropMisses s k n]
  · rw [h4, State.ctx_setCtx, if_pos rfl]

theorem State.modCtx_eq (s : State) (k : Nat) (f : Ctx → Ctx) : s.modCtx k f = s.setCtx k (f (s.ctx k)) := rfl

theorem Sparse.put_put {α : Type} (m : Sparse α) (i : Nat) (x y : α) : (m.put i x).put i y = m.put i y := by
  fun_induction Sparse.put m i x <;> grind [Sparse.put]

theorem State.setCtx_setCtx (s : State) (k : Nat) (a b : Ctx) : (s.setCtx k a).setCtx k b = s.setCtx k b := by
  unfold State.setCtx
  simp only [Sparse.put_put]

/-! ### The ends of an instruction -/

theorem Ctx.advance_waitFrom (c : Ctx) : Ctx.advance { c with waitFrom := none } = { c.advance with waitFrom := none } := by
  unfold Ctx.advance
  cases c.rep with
  | none => rfl
  | some r => dsimp only; split <;> [rfl; (split <;> [rfl; (cases r.charge <;> rfl)])]

/-- An instruction that took its effect goes on with the next in sequence. -/
theorem State.finish_seq (s s1 : State) (f : Fields) : s1.GoesOn (s.finish f ⟨s1, .seq⟩) s.cur (s1.ctx s.cur).advance := by
  have key := State.issue_goesOn s1 s s.cur ((s.ctx s.cur).paceNow f) (s1.ctx s.cur).advance
  unfold State.finish
  simp only [State.modCtx_eq, State.setCtx_setCtx, State.ctx_setCtx, if_pos, State.ctx_dropMisses]
  rw [Ctx.advance_waitFrom]
  exact key

/-- An instruction that transfers control goes on at its target. -/
theorem State.finish_jump (s s1 : State) (f : Fields) (a : Nat) :
    s1.GoesOn (s.finish f ⟨s1, .jump a⟩) s.cur { s1.ctx s.cur with pc := BitVec.ofNat 56 a, rep := none } := by
  have key := State.issue_goesOn s1 s s.cur ((s.ctx s.cur).paceNow f) { s1.ctx s.cur with pc := BitVec.ofNat 56 a, rep := none }
  unfold State.finish
  simp only [State.modCtx_eq, State.setCtx_setCtx, State.ctx_setCtx, if_pos, State.ctx_dropMisses]
  exact key

/-- An instruction that moved the PC itself. -/
theorem State.finish_moved (s s1 : State) (f : Fields) : s1.GoesOn (s.finish f ⟨s1, .moved⟩) s.cur (s1.ctx s.cur) := by
  have key := State.issue_goesOn s1 s s.cur ((s.ctx s.cur).paceNow f) (s1.ctx s.cur)
  unfold State.finish
  simp only [State.modCtx_eq, State.ctx_dropMisses]
  exact key

theorem State.finish_gone (s s1 : State) (f : Fields) : s1.GoesOn (s.finish f ⟨s1, .gone⟩) s.cur (s1.ctx s.cur) := by
  have key := State.issue_goesOn s1 s s.cur ((s.ctx s.cur).paceNow f) (s1.ctx s.cur)
  unfold State.finish
  simp only [State.modCtx_eq, State.ctx_dropMisses]
  exact key

theorem State.finish_held (s s1 : State) (f : Fields) : s1.GoesOn (s.finish f ⟨s1, .held⟩) s.cur (s1.ctx s.cur) := by
  have key := State.issue_goesOn s1 s s.cur 0 (s1.ctx s.cur)
  unfold State.finish
  simp only [State.modCtx_eq, State.ctx_dropMisses]
  exact key

theorem State.slotNo_dropMisses (s : State) (k : Nat) : (s.dropMisses k).slotNo k = s.slotNo k := by
  unfold State.slotNo
  rw [State.core_dropMisses]

theorem State.slotOf_dropMisses (s : State) (k : Nat) : (s.dropMisses k).slotOf k = s.slotOf k := by
  unfold State.slotOf State.slotKeyOf
  rw [State.slotNo_dropMisses]
  unfold State.dropMisses; split <;> rfl

/-- A precise trap whose handler is entered changes the context as R348 says, and nothing else. -/
theorem State.stopped_trap (s : State) (cause tval : Nat) (h : s.entersTraps) :
    s.Trapped (s.stopped (.trap cause tval)) cause tval := by
  obtain ⟨h1, h2, h3⟩ := h
  have key := State.issue_goesOn s s s.cur 0 ((s.enterTrap s.cur 0 cause tval).ctx s.cur)
  unfold State.stopped State.takeTrap State.failsProbe
  simp only [State.slotOf_dropMisses, State.ctx_dropMisses, h1, h2, h3, Bool.and_false, Bool.false_and, Bool.false_eq_true,
    if_false, decide_false, Bool.or_self]
  unfold State.Trapped
  have e : (s.dropMisses s.cur).enterTrap s.cur 0 cause tval =
      (s.dropMisses s.cur).setCtx s.cur { (s.enterTrap s.cur 0 cause tval).ctx s.cur with waitFrom := none } := by
    unfold State.enterTrap
    simp only [State.modCtx_eq, State.ctx_dropMisses, State.slotOf_dropMisses, State.ctx_setCtx, if_pos]
  rw [e]
  exact key

/-- R348: a trap enters the handler, where one is set and the context is not in trap entry. -/
theorem State.takeTrap_enter (s : State) (k flags cause tval : Nat) (h1 : (s.slotOf k).tvec ≠ 0) (h2 : (s.ctx k).inTrap = false)
    (h3 : (s.slotOf k).work.probing = false) : s.takeTrap k flags cause tval = s.enterTrap k flags cause tval := by
  unfold State.takeTrap State.failsProbe
  simp only [h1, h2, h3, Bool.and_false, Bool.false_and, Bool.false_eq_true, if_false, decide_false, Bool.or_self]

/-- A trap after the whole effect: the context has gone on, and then enters its handler (R346). -/
theorem State.finish_after (s s1 : State) (f : Fields) (cause tval : Nat)
    (h1 : (s1.slotOf s.cur).tvec ≠ 0) (h2 : (s1.ctx s.cur).inTrap = false) (h3 : (s1.slotOf s.cur).work.probing = false) :
    s1.GoesOn (s.finish f ⟨s1, .after cause tval⟩) s.cur
      (((s1.modCtx s.cur Ctx.advance).enterTrap s.cur 0 cause tval).ctx s.cur) := by
  have key := State.issue_goesOn s1 s s.cur ((s.ctx s.cur).paceNow f)
    (((s1.modCtx s.cur Ctx.advance).enterTrap s.cur 0 cause tval).ctx s.cur)
  have ha : ∀ c : Ctx, c.advance.inTrap = c.inTrap := by
    intro c; unfold Ctx.advance
    cases c.rep with
    | none => rfl
    | some r => dsimp only; split <;> [rfl; (split <;> [rfl; (cases r.charge <;> rfl)])]
  unfold State.finish
  simp only [State.modCtx_eq, State.setCtx_setCtx, State.ctx_setCtx, if_pos, State.ctx_dropMisses, Ctx.advance_waitFrom]
  have hs : ∀ c, (((s1.dropMisses s.cur).setCtx s.cur c).slotOf s.cur) = s1.slotOf s.cur := by
    intro c
    exact State.slotOf_dropMisses s1 s.cur
  rw [State.takeTrap_enter _ _ _ _ _ (by rw [hs]; exact h1) (by rw [State.ctx_setCtx, if_pos rfl]; exact (ha _).trans h2)
    (by rw [hs]; exact h3)]
  have e : ((s1.dropMisses s.cur).setCtx s.cur { (s1.ctx s.cur).advance with waitFrom := none }).enterTrap s.cur 0 cause tval =
      (s1.dropMisses s.cur).setCtx s.cur
        { ((s1.modCtx s.cur Ctx.advance).enterTrap s.cur 0 cause tval).ctx s.cur with waitFrom := none } := by
    unfold State.enterTrap
    simp only [State.modCtx_eq, State.setCtx_setCtx, State.ctx_setCtx, if_pos, hs]
    rfl
  exact (congrArg (fun A : State => s1.GoesOn (A.issued s s.cur ((s.ctx s.cur).paceNow f)) s.cur
    (((s1.modCtx s.cur Ctx.advance).enterTrap s.cur 0 cause tval).ctx s.cur)) e).mpr key

/-! ### Scalar and vector instructions -/

theorem stepScalar_on (f : Fields) (body : State → Exec Out) (s : State) (h : s.guardBit f 0 = true) :
    stepScalar f body s = stepVector f body s := by unfold stepScalar; rw [if_pos h]

/-- R20: with its guard 0, a scalar instruction has no effect but its hints. -/
theorem stepScalar_off (f : Fields) (body : State → Exec Out) (s : State) (h : s.guardBit f 0 = false) :
    s.Did (stepScalar f body s) id := by
  unfold stepScalar
  rw [if_neg (by simp [h])]
  exact State.finish_seq s s f

theorem stepVector_ok (f : Fields) (body : State → Exec Out) (s : State) (o : Out) (h : body s = .ok o) :
    stepVector f body s = s.finish f o := by unfold stepVector; rw [h]

theorem stepVector_error (f : Fields) (body : State → Exec Out) (s : State) (e : Stop) (h : body s = .error e) :
    stepVector f body s = s.stopped e := by unfold stepVector; rw [h]

theorem State.ctx_modCtx_self (s : State) (k : Nat) (u : Ctx → Ctx) : (s.modCtx k u).ctx k = u (s.ctx k) := by simp

/-- An effect on the context in hand alone. -/
theorem State.GoesOn.of_modCtx {s t : State} {k : Nat} {u : Ctx → Ctx} {c : Ctx} (h : (s.modCtx k u).GoesOn t k c) :
    s.GoesOn t k c := by
  obtain ⟨h1, h2, h3, h5, h4⟩ := h
  refine ⟨?_, ?_, ?_, ?_, h4⟩
  · rw [h1]; rfl
  · intro j hj; rw [h2 j hj, State.ctx_modCtx, if_neg hj]
  · intro n; rw [h3 n, State.core_modCtx]
  · intro n; rw [h5 n, State.fold_modCtx]

/-- The whole of a scalar instruction that changes registers of its context only. -/
theorem State.finish_did (s : State) (f : Fields) (u : Ctx → Ctx) : s.Did (s.finish f ⟨s.modCtx s.cur u, .seq⟩) u := by
  have h := State.finish_seq s (s.modCtx s.cur u) f
  rw [State.ctx_modCtx_self] at h
  exact h.of_modCtx

end Sys2Proof.Machine
end

