-- ==== Sys2Proof/Tests/Slice0.lean ====
section
/-!
SUPPORT. Tests: words of the specification decoded, ill-formed instructions refused, single steps with results worked by hand from the
rules, and for each statement a state and operands that meet its hypotheses.
-/

set_option Elab.async false

namespace Sys2Proof.Tests

open Sys2Proof Sys2Proof.Machine Sys2Proof.Claims

/-! ### Decoding: words that the specification works out, as it stores them (three words of 32 bits, the lowest first) -/

/-- A stored word. -/
def stored3 (lo mid imm : Nat) : Nat := imm * 2 ^ 64 + mid * 2 ^ 32 + lo

/-- Fields with no hint and the guard g0. -/
def F (d a b : Opnd) (md : BitVec 12) (imm : BitVec 32) : Fields := ⟨⟨0, 0, 0⟩, false, 0, d, a, b, md, imm⟩

/-- What the decoder reads from a stored word. -/
def reads (lo mid imm : Nat) : Option Instr := decodeTableWord 96 (stored3 lo mid imm)

/-- R121. -/
theorem decodes_cmp : reads 0x000F8429 0xB0000000 0 = some (.cmp (F (.g 1) (.c 7) (.c 0) 0xB00 0)) := by decide +kernel
/-- 20: CLMUL, SAR; 25: OR, SHR. -/
theorem decodes_clmul : reads 0x14142C1C 0x38000000 0 = some (.clmul (F (.c 11) (.c 10) (.c 20) 0x380 0)) := by decide +kernel
theorem decodes_sar : reads 0x001A4C16 0x98000000 0x3F = some (.sar (F (.c 19) (.c 13) (.c 0) 0x980 0x3F)) := by decide +kernel
theorem decodes_or : reads 0x00286011 0xB8000000 0x28000 = some (.orI (F (.c 24) (.c 20) (.c 0) 0xB80 0x28000)) := by decide +kernel
/-- 22: MOVH; 18: a special register as operand. -/
theorem decodes_movh : reads 0x00004426 0x80000000 1 = some (.movh (F (.c 17) (.c 0) (.c 0) 0x800 1)) := by decide +kernel
theorem decodes_cmp_vcid : reads 0x09F38829 0x38000000 0 = some (.cmp (F (.g 2) .vcid (.c 9) 0x380 0)) := by decide +kernel
/-- 13: a capability instruction. -/
theorem decodes_cinc : reads 0x1C045042 0 0 = some (.cinc (F (.c 20) (.c 2) (.c 28) 0 0)) := by decide +kernel
/-- 18: scalar floating point. -/
theorem decodes_fcvt : reads 0x00142C89 0x43800000 0 = some (.fcvt (F (.c 11) (.c 10) (.c 0) 0x438 0)) := by decide +kernel
/-- R132, 22: branches, one under g1 and one backward; R105: REP. -/
theorem decodes_bra : reads 0x800000C0 0 4 = some (.bra { F (.c 0) (.c 0) (.c 0) 0 4 with gidx := 1 }) := by decide +kernel
theorem decodes_bra_back : reads 0x000000C0 0 0xFFFFFFFA = some (.bra (F (.c 0) (.c 0) (.c 0) 0 0xFFFFFFFA)) := by decide +kernel
theorem decodes_rep : reads 0x000000C4 0x85A00000 2 = some (.repI (F (.c 0) (.c 0) (.c 0) 0x85A 2)) := by decide +kernel
/-- 08, 20, 22: vectors. -/
theorem decodes_vcvt : reads 0x00830932 0x4C000000 1 = some (.vcvt (F (.v 2) (.v 1) (.c 0) 0x4C0 1)) := by decide +kernel
theorem decodes_vbcast : reads 0x000F3140 0x40000000 0 = some (.vbcast (F (.v 12) (.c 7) (.c 0) 0x400 0)) := by decide +kernel
theorem decodes_vfma : reads 0x4C811103 0x40000000 0 = some (.vfma (F (.v 4) (.v 0) (.v 12) 0x400 0)) := by decide +kernel
theorem decodes_vcmp : reads 0x00858D30 0xA0000000 0x22 = some (.vcmp (F (.g 3) (.v 2) (.c 0) 0xA00 0x22)) := by decide +kernel
theorem decodes_vscan : reads 0x00830951 0x30000000 0 = some (.vscan (F (.v 2) (.v 1) (.c 0) 0x300 0)) := by decide +kernel
theorem decodes_vmovc : reads 0x00843145 0xB0000000 15 = some (.vmovc (F (.c 12) (.v 2) (.c 0) 0xB00 15)) := by decide +kernel
theorem decodes_vins : reads 0x80335546 0xB8000003 4 = some (.vins { F (.v 21) (.c 25) (.c 0) 0xB80 4 with gidx := 7 }) := by decide +kernel
/-- 09, 20, 25: loads and stores, under a negated guard and with a hint. -/
theorem decodes_ld : reads 0x00081E00 0x30000000 0x200 = some (.ld (F (.c 7) (.c 4) (.c 0) 0x300 0x200)) := by decide +kernel
theorem decodes_stv : reads 0x00A00A05 0x0000020A 0x1180 =
    some (.stv { F (.c 2) (.v 16) (.c 0) 0 0x1180 with neg := true, gidx := 4, hint := ⟨0, 2, 0⟩ }) := by decide +kernel
theorem decodes_stv_wait : reads 0x00AA1605 0x00001000 0 = some (.stv { F (.c 5) (.v 21) (.c 0) 0 0 with hint := ⟨1, 0, 0⟩ }) := by decide +kernel
theorem decodes_gath : reads 0x41190A06 0x38000000 0x10 = some (.gath (F (.v 2) (.c 12) (.v 1) 0x380 0x10)) := by decide +kernel
/-- 10: TLOCK, TFILL. -/
theorem decodes_tlock : reads 0x002A5220 0 0 = some (.tlock (F (.c 20) (.c 21) (.c 0) 0 0)) := by decide +kernel
theorem decodes_tfill : reads 0x00142624 0x80000000 0x88 = some (.tfill (F (.c 9) (.c 10) (.c 0) 0x800 0x88)) := by decide +kernel
/-- 11, 12, 13: the inbox and a drain handler's end. -/
theorem decodes_inrecv : reads 0x00002710 0 0 = some (.inrecv (F (.c 9) (.c 0) (.c 0) 0 0)) := by decide +kernel
theorem decodes_inwait : reads 0x00018B12 0x80000000 0x4E20 = some (.inwait (F (.g 2) (.c 0) (.c 0) 0x800 0x4E20)) := by decide +kernel
theorem decodes_demit : reads 0x01900F50 0x40000000 0 = some (.demit (F (.c 3) (.v 8) (.c 1) 0x400 0)) := by decide +kernel
/-- 14, 22: synchronising accesses. -/
theorem decodes_cas : reads 0x0A282643 0x32200000 0x500000 = some (.cas (F (.c 9) (.c 20) (.c 10) 0x322 0x500000)) := by decide +kernel
theorem decodes_stl : reads 0x002A5241 0x39A00000 8 = some (.stl (F (.c 20) (.c 21) (.c 0) 0x39A 8)) := by decide +kernel
theorem decodes_lda : reads 0x00285A40 0x39A00000 8 = some (.lda (F (.c 22) (.c 20) (.c 0) 0x39A 8)) := by decide +kernel
theorem decodes_waitm : reads 0x00244E46 0x39A00000 0x400 = some (.waitm (F (.c 19) (.c 18) (.c 0) 0x39A 0x400)) := by decide +kernel
/-- 15: the cycle. -/
theorem decodes_hurdle : reads 0x00000280 0x80000000 1 = some (.hurdle (F (.c 0) (.c 0) (.c 0) 0x800 1)) := by decide +kernel
theorem decodes_cyopen : reads 0x00085E90 0 0x240 = some (.cyopen (F (.c 23) (.c 4) (.c 0) 0 0x240)) := by decide +kernel
theorem decodes_cyres : reads 0x002E0291 0 0 = some (.cyres (F (.c 0) (.c 23) (.c 0) 0 0)) := by decide +kernel
theorem decodes_cystep : reads 0x00019A92 0x00100000 0 = some (.cystep (F (.g 6) (.c 0) (.c 0) 1 0)) := by decide +kernel
theorem decodes_wupd : reads 0x00B066A0 0xC0000000 0 = some (.wupd (F (.c 25) (.v 24) (.c 0) 0xC00 0)) := by decide +kernel
/-- 16, 17: messages, reductions, the exchange. -/
theorem decodes_send_chan : reads 0x00082720 0x04000000 0x300 = some (.sendChan (F (.c 9) (.c 4) (.c 0) 0x040 0x300)) := by decide +kernel
theorem decodes_send_in : reads 0x00142720 0xD0000000 0x42 = some (.sendIn (F (.c 9) (.c 10) (.c 0) 0xD00 0x42)) := by decide +kernel
theorem decodes_redc : reads 0x0F881324 0x44000000 0x80 = some (.redc (F (.c 4) (.v 4) (.c 15) 0x440 0x80)) := by decide +kernel
theorem decodes_mapld : reads 0x00082731 0x00200000 0x300 = some (.mapld (F (.c 9) (.c 4) (.c 0) 2 0x300)) := by decide +kernel
theorem decodes_a2at : reads 0x15282B30 0x00200000 0 = some (.a2at (F (.c 10) (.c 20) (.c 21) 2 0)) := by decide +kernel
/-- 19, 20: pipelines, in a stage worker. -/
theorem decodes_ppop : reads 0x00003340 0 0 = some (.ppop (F (.c 12) (.c 0) (.c 0) 0 0)) := by decide +kernel
theorem decodes_pend : reads 0x00000344 0x80000000 4 = some (.pend (F (.c 0) (.c 0) (.c 0) 0x800 4)) := by decide +kernel
theorem decodes_psplice : reads 0x00082742 0 0 = some (.psplice (F (.c 9) (.c 4) (.c 0) 0 0)) := by decide +kernel
theorem decodes_pstate : reads 0x00002F43 0 0 = some (.pstate (F (.c 11) (.c 0) (.c 0) 0 0)) := by decide +kernel
/-- R354: the system instructions. -/
theorem decodes_trap : reads 0x00000380 0 0x12 = some (.trapI (F (.c 0) (.c 0) (.c 0) 0 0x12)) := by decide +kernel
theorem decodes_eret : reads 0x00000381 0 0 = some (.eret (F (.c 0) (.c 0) (.c 0) 0 0)) := by decide +kernel
theorem decodes_sysrd : reads 0x00002783 0 3 = some (.sysrd (F (.c 9) (.c 0) (.c 0) 0 3)) := by decide +kernel
theorem decodes_wfi : reads 0x00000385 0x80000000 0x3E8 = some (.wfi (F (.c 0) (.c 0) (.c 0) 0x800 0x3E8)) := by decide +kernel
theorem decodes_preq : reads 0x00018F89 0 0 = some (.preq (F (.g 3) (.c 0) (.c 0) 0 0)) := by decide +kernel

/-! ### Ill-formed instructions are refused, one for each check of R93 -/

def hart : DecodeEnv := DecodeEnv.hart
/-- The cause and the reason of the first check that fails. -/
def refused (e : DecodeEnv) (i : Instr) : Option (Nat × Nat × Nat) := (i.check e).map (fun t => (t.cause, t.reason, t.field))

theorem wf_good : refused hart (.add (F (.c 1) (.c 2) (.c 3) 0x180 0)) = none := by decide +kernel
/-- An instruction that is not available in a drain context (R133). -/
theorem wf_context : refused { hart with drain := true } (.endItem (F (.c 0) (.c 0) (.c 0) 0 0)) = some (1, 0, 0) := by decide +kernel
theorem wf_worker : refused hart (.ppop (F (.c 12) (.c 0) (.c 0) 0 0)) = some (1, 0, 0) := by decide +kernel
theorem wf_mod_reserved : refused hart (.add (F (.c 1) (.c 2) (.c 3) 0x181 0)) = some (2, 1, 6) := by decide +kernel
theorem wf_no_literal : refused hart (.ld (F (.c 1) (.c 2) (.c 0) 0x980 0)) = some (2, 2, 6) := by decide +kernel
theorem wf_type : refused hart (.div (F (.c 1) (.c 2) (.c 3) 0x400 0)) = some (2, 5, 6) := by decide +kernel
theorem wf_own_field : refused hart (.cmp (F (.g 1) (.c 2) (.c 3) 0x186 0)) = some (2, 5, 6) := by decide +kernel
theorem wf_bf16_literal : refused hart (.fadd (F (.c 1) (.c 2) (.c 0) 0xC80 0x10000)) = some (2, 5, 7) := by decide +kernel
theorem wf_guard : refused hart (.add { F (.c 1) (.c 2) (.c 3) 0x180 0 with neg := true }) = some (2, 3, 4) := by decide +kernel
theorem wf_hint : refused hart (.wfi { F (.c 0) (.c 0) (.c 0) 0x800 9 with hint := ⟨1, 0, 0⟩ }) = some (2, 4, 5) := by decide +kernel
theorem wf_sbset : refused hart (.add { F (.c 1) (.c 2) (.c 3) 0x180 0 with hint := ⟨0, 9, 0⟩ }) = some (2, 4, 5) := by decide +kernel
theorem wf_reserved_specifier : refused hart (.add (F (.c 1) (.rsv 0) (.c 3) 0x180 0)) = some (3, 6, 2) := by decide +kernel
theorem wf_class : refused hart (.add (F (.c 1) (.c 2) (.v 3) 0x180 0)) = some (3, 7, 3) := by decide +kernel
theorem wf_destination : refused hart (.add (F .wid (.c 2) (.c 3) 0x180 0)) = some (3, 8, 1) := by decide +kernel
theorem wf_allotment : refused { hart with allot := 48 } (.add (F (.c 48) (.c 2) (.c 3) 0x180 0)) = some (3, 9, 1) := by decide +kernel
theorem wf_unused : refused hart (.clz (F (.c 1) (.c 2) (.c 3) 0x180 0)) = some (3, 10, 3) := by decide +kernel
theorem wf_literal_beside_b : refused hart (.add (F (.c 1) (.c 2) (.c 3) 0x980 5)) = some (3, 11, 3) := by decide +kernel
theorem wf_rng_registers : refused hart (.rng (F (.c 1) (.c 1) (.c 0) 0 0)) = some (3, 7, 2) := by decide +kernel
theorem wf_privilege : refused { hart with mode := 0 } (.eret (F (.c 0) (.c 0) (.c 0) 0 0)) = some (4, 12, 0) := by decide +kernel

/-- R94: the second TIDLD of the worked pair with GUARD written as NEG over g0 traps with the TVAL that the rule works out. -/
theorem test_worked_tval : (match decodeWord hart 0xFFFFFFE0040020880B082B60#96 with
    | .error t => some (t.cause, t.tval 0xFFFFFFE0040020880B082B60#96 none) | .ok _ => none) = some (2, 0x3080010000082360) := by decide +kernel

/-! ### Single steps -/

/-- The image of a page of 512 KiB at virtual and physical `a`, readable, writable and executable by User (R181). -/
def page (a : Nat) : BitVec 128 := BitVec.ofNat 128 (a * 2 ^ 64 + a + 2 ^ 16 + 2 ^ 5 + 2 ^ 4 + 2 ^ 3 + 2 ^ 2)
/-- A context of a vcore in User mode at 0x80000, with some c registers. -/
def ctxOf (c : Sparse CReg) : Ctx := { live := true, pc := 0x80000, regBase := 0x80000, regLimit := 0x80100, c := c }
def slotA : Slot := { live := true, lid := 1, tvec := 0x90000, sregBase := 0x90000, sregLimit := 0x91000, prog := { text := 0x80000, textN := 20, entry := 0x80000 } }
def gangA : Gang := { live := true, vcores := 1, prog := slotA.prog }
/-- A device in FULL in which slot 0 of core 0 runs the one vcore of launch 1; core 0 maps two pages. -/
def mach (c : Ctx) (l : Slot := slotA) (g : Gang := gangA) : State :=
  { ctxs := [(0, c)], slots := [(0, l)], gangs := [(1, g)], device := { state := 2 }, cores := [(0, { tlb := [(0, page 0x80000), (1, page 0)] })] }
def regsOf (c : Sparse CReg) : State := mach (ctxOf c)

def d (x : Nat) : CReg := word x
def D1 (md : BitVec 12) (imm : BitVec 32 := 0) : Fields := F (.c 1) (.c 2) (.c 3) md imm
/-- A register afterwards; a trap shows as its cause and TVAL with the tag set. -/
def reg1 (i : Instr) (s : State) (n : BitVec 6 := 1) : Option CReg :=
  match exec i s with | .next t => some ((t.ctx s.cur).getC n) | _ => none
def guard1 (i : Instr) (s : State) (n : BitVec 4 := 1) : Option Word64 :=
  match exec i s with | .next t => some ((t.ctx s.cur).getG n) | _ => none
def flags1 (i : Instr) (s : State) : Option Nat :=
  match exec i s with | .next t => some ((t.ctx s.cur).status.toNat / 2 ^ 21 % 32) | _ => none
def pc1 (i : Instr) (s : State) : Option (BitVec 56) :=
  match exec i s with | .next t => some (t.ctx s.cur).pc | _ => none
/-- The cause and the TVAL after a trap to 0x90000. -/
def trap1 (i : Instr) (s : State) : Option (Nat × Nat) :=
  match exec i s with
  | .next t => if (t.ctx s.cur).pc = 0x90000 then some ((t.ctx s.cur).cause.toNat, (t.ctx s.cur).tval.toNat) else none
  | _ => none
def lane1 (i : Instr) (s : State) (n j : Nat) : Option Nat :=
  match exec i s with | .next t => some (lane ((t.ctx s.cur).getV 1) n j) | _ => none
def bytes1 (i : Instr) (s : State) (a n : Nat) : Option Nat :=
  match exec i s with | .next t => some (le t a n) | _ => none

/-- The values of registers 2 and 3 of a two-operand step. -/
def two (a b : Nat) : State := regsOf [(1, d 7), (2, d a), (3, d b)]
def neg (x : Nat) : Nat := 2 ^ 64 - x

/-! Integers: R119, R120; the type is MOD[10:7] (0 I8, 2 I32, 3 I64, 4 N8, 6 N32, 7 N64), SAT MOD[6]. -/
theorem test_add_wraps : reg1 (.add (D1 0)) (two 127 1) = some (reg 0 (-128)) := by decide +kernel
theorem test_add_sat : reg1 (.add (D1 0x40)) (two 127 1) = some (d 127) := by decide +kernel
theorem test_sub_sat : reg1 (.sub (D1 0x240)) (two 3 5) = some (d 0) := by decide +kernel
theorem test_mul : reg1 (.mul (D1 0x300)) (two 0x10000 0x10001) = some (d 0x10000) := by decide +kernel
theorem test_mulh : reg1 (.mulh (D1 0x180)) (two (neg 1) (2 ^ 63)) = some (d 0) := by decide +kernel
theorem test_mulhn : reg1 (.mulhn (D1 0x380)) (two (neg 1) (neg 1)) = some (d (neg 2)) := by decide +kernel
theorem test_div : reg1 (.div (D1 0x100)) (two (neg 7) 2) = some (reg 2 (-3)) := by decide +kernel
theorem test_div_corner : reg1 (.div (D1 0x100)) (two (2 ^ 31) (neg 1)) = some (reg 2 (-(2 ^ 31))) := by decide +kernel
theorem test_rem : reg1 (.rem (D1 0x100)) (two (neg 7) 2) = some (reg 2 (-1)) := by decide +kernel
theorem test_divn : reg1 (.divn (D1 0x300)) (two (neg 7) 2) = some (d 0x7FFFFFFC) := by decide +kernel
theorem test_divn_zero : reg1 (.divn (D1 0x300)) (two 5 0) = some (d 0xFFFFFFFF) := by decide +kernel
theorem test_remn : reg1 (.remn (D1 0x300)) (two (neg 7) 2) = some (d 1) := by decide +kernel
theorem test_min : reg1 (.min (D1 0x180)) (two (neg 1) 1) = some (reg 3 (-1)) := by decide +kernel
theorem test_minn : reg1 (.minn (D1 0x380)) (two (neg 1) 1) = some (d 1) := by decide +kernel
theorem test_max : reg1 (.max (D1 0x180)) (two (neg 1) 1) = some (d 1) := by decide +kernel
theorem test_maxn : reg1 (.maxn (D1 0x380)) (two (neg 1) 1) = some (reg 3 (-1)) := by decide +kernel
theorem test_mad_reads_d : reg1 (.mad (D1 0x380)) (two 3 5) = some (d 22) := by decide +kernel
theorem test_and : reg1 (.andI (D1 0x380)) (two 12 10) = some (d 8) := by decide +kernel
theorem test_or : reg1 (.orI (D1 0x380)) (two 12 10) = some (d 14) := by decide +kernel
theorem test_xor : reg1 (.xorI (D1 0x380)) (two 12 10) = some (d 6) := by decide +kernel
theorem test_andn : reg1 (.andn (D1 0x380)) (two 12 10) = some (d 4) := by decide +kernel
theorem test_shl_mod : reg1 (.shl (D1 0x300)) (two 1 33) = some (d 2) := by decide +kernel
theorem test_shr : reg1 (.shr (D1 0x200)) (two 0x180 7) = some (d 1) := by decide +kernel
theorem test_sar : reg1 (.sar (D1 0)) (two 0x80 7) = some (reg 0 (-1)) := by decide +kernel
theorem test_rol : reg1 (.rol (D1 0x200)) (two 0x81 1) = some (d 3) := by decide +kernel
theorem test_clz_zero : reg1 (.clz (F (.c 1) (.c 2) (.c 0) 0x300 0)) (two 0 0) = some (d 32) := by decide +kernel
theorem test_ctz : reg1 (.ctz (F (.c 1) (.c 2) (.c 0) 0x300 0)) (two 8 0) = some (d 3) := by decide +kernel
theorem test_popc : reg1 (.popc (F (.c 1) (.c 2) (.c 0) 0x200 0)) (two 0x1FF 0) = some (d 8) := by decide +kernel
theorem test_brev : reg1 (.brev (F (.c 1) (.c 2) (.c 0) 0x200 0)) (two 0x12 0) = some (d 0x48) := by decide +kernel
theorem test_clmul : reg1 (.clmul (D1 0x380)) (two 3 3) = some (d 5) := by decide +kernel
theorem test_clmulh : reg1 (.clmulh (D1 0x380)) (two (2 ^ 63) 6) = some (d 3) := by decide +kernel
/-! R121 to R123. -/
theorem test_cmp : guard1 (.cmp (F (.g 1) (.c 2) (.c 3) 0x182 0)) (two (neg 1) 1) = some (BitVec.allOnes 64) := by decide +kernel
theorem test_cmp_unsigned : guard1 (.cmp (F (.g 1) (.c 2) (.c 3) 0x382 0)) (two (neg 1) 1) = some 0 := by decide +kernel
theorem test_gop_not : guard1 (.gop (F (.g 1) (.g 0) (.c 0) 4 0)) (two 0 0) = some 0 := by decide +kernel
theorem test_mov_tag : reg1 (.mov (F (.c 1) (.c 2) (.c 0) 0 0)) (regsOf [(2, mkCap 1 3 0 64)]) = some (mkCap 1 3 0 64) := by decide +kernel
theorem test_mov_imm : reg1 (.movImm (F (.c 1) (.c 0) (.c 0) 0x980 0xFFFFFFFF)) (two 0 0) = some (reg 3 (-1)) := by decide +kernel
theorem test_movh : reg1 (.movh (F (.c 1) (.c 0) (.c 0) 0x800 1)) (two 0 0) = some (d 0x100000007) := by decide +kernel
theorem test_sel : reg1 (.sel (F (.c 1) (.c 2) (.c 3) 1 0)) (two 5 6) = some (d 6) := by decide +kernel
theorem test_bfx_signed : reg1 (.bfx (F (.c 1) (.c 2) (.c 0) 0x980 (4 * 64 + 4))) (two 0x8F 0) = some (reg 3 (-8)) := by decide +kernel
theorem test_bfi : reg1 (.bfi (F (.c 1) (.c 2) (.c 0) 0xB80 (4 * 64 + 4))) (two 0xF 0) = some (d 0xF7) := by decide +kernel

/-! R126: the worked lines of c4 of `axpy4`, SPACE 1, PERM R W C, 768 bytes at 0. -/
def c4 : CReg := mkCap 1 0x0B 0 768
def c20 : CReg := Cap.reg { c4.cap with off := 0x100 }
def capF (a : Opnd) (imm : BitVec 32) : Fields := F (.c 1) a (.c 0) 0x800 imm
def caps : State := regsOf [(4, c4), (20, c20), (21, mkCap 1 0x0B 0x100 0x100), (22, mkCap 1 1 0x100 0x100)]
theorem test_cinc : reg1 (.cinc (capF (.c 4) 0x100)) caps = some c20 := by decide +kernel
theorem test_csoff : reg1 (.csoff (capF (.c 4) 0x100)) caps = some c20 := by decide +kernel
theorem test_cbnd : reg1 (.cbnd (capF (.c 20) 0x100)) caps = some (mkCap 1 0x0B 0x100 0x100) := by decide +kernel
theorem test_cbnd_beyond : trap1 (.cbnd (capF (.c 20) 0x201)) caps = some (6, 0x100) := by decide +kernel
theorem test_cperm : reg1 (.cperm (capF (.c 21) 1)) caps = some (mkCap 1 1 0x100 0x100) := by decide +kernel
theorem test_st_without_w : trap1 (.st (F (.c 22) (.c 9) (.c 0) 0x300 0)) caps = some (7, 0x100) := by decide +kernel
theorem test_ld_beyond : trap1 (.ld (F (.c 9) (.c 22) (.c 0) 0x300 0x100)) caps = some (6, 0x200) := by decide +kernel
theorem test_cfld_length : reg1 (.cfld (F (.c 1) (.c 4) (.c 0) 2 0)) caps = some (d 768) := by decide +kernel
theorem test_ctag : guard1 (.ctag (F (.g 1) (.c 9) (.c 0) 0 0)) caps = some 0 := by decide +kernel
theorem test_cclr : reg1 (.cclr (F (.c 1) (.c 4) (.c 0) 0 0)) caps = some ⟨false, c4.val⟩ := by decide +kernel
def sealer : State := mach (ctxOf [(4, c4)]) { slotA with sealmask := 0x8 }
theorem test_cseal : reg1 (.cseal (capF (.c 4) 3)) sealer = some (Cap.reg { c4.cap with perm := 0x4B, otype := 3 }) := by decide +kernel
theorem test_cseal_denied : trap1 (.cseal (capF (.c 4) 4)) sealer = some (7, 0) := by decide +kernel
theorem test_cunseal_denied : trap1 (.cunseal (capF (.c 4) 3)) (mach (ctxOf [(4, Cap.reg { c4.cap with perm := 0x4B, otype := 3 })]) { slotA with sealmask := 0x8 })
    = some (7, 0) := by decide +kernel

/-! R42, R128 to R130: the worked conversions; R39, R40. Flags: 16 INVALID, 8 DIVZERO, 4 OVERFLOW, 2 UNDERFLOW, 1 INEXACT. -/
def cvt (md : BitVec 12) : Instr := .fcvt (F (.c 1) (.c 2) (.c 0) md 0)
theorem test_fcvt_int : (reg1 (cvt 0x140) (two 0x40200000 0), flags1 (cvt 0x140) (two 0x40200000 0)) = (some (d 2), some 1) := by decide +kernel
theorem test_fcvt_saturates : (reg1 (cvt 0x140) (two 0x4F32D05E 0), flags1 (cvt 0x140) (two 0x4F32D05E 0)) = (some (d 0x7FFFFFFF), some 16) := by decide +kernel
theorem test_cvt_bf16_tie : (cvtFloat 7 23 0 0x3F818000, cvtFloat 7 23 0 0x3F808000) = ((0x3F82, 1), (0x3F80, 1)) := by decide +kernel
theorem test_cvt_bf16_edges : (cvtFloat 7 23 0 0x7F7FFFFF, cvtFloat 7 23 1 0x7F7FFFFF, cvtFloat 7 23 2 0x00008000, cvtFloat 7 23 0 0x7F800001)
    = ((0x7F80, 5), (0x7F7F, 1), (0x0001, 3), (0x7FC0, 16)) := by decide +kernel
theorem test_fadd : reg1 (.fadd (D1 0x402)) (two 0x3F800000 0x33800000) = some (d 0x3F800001) := by decide +kernel
theorem test_fsub_cancels : reg1 (.fsub (D1 0x400)) (two 0x3F800000 0x3F800000) = some (d 0) := by decide +kernel
theorem test_fmul : reg1 (.fmul (D1 0x400)) (two 0xC0000000 0x40400000) = some (d 0xC0C00000) := by decide +kernel
theorem test_fdiv_zero : (reg1 (.fdiv (D1 0x400)) (two 0xBF800000 0), flags1 (.fdiv (D1 0x400)) (two 0xBF800000 0)) = (some (d 0xFF800000), some 8) := by decide +kernel
theorem test_fsqrt : reg1 (.fsqrt (F (.c 1) (.c 2) (.c 0) 0x400 0)) (two 0x40800000 0) = some (d 0x40000000) := by decide +kernel
theorem test_fsqrt_negative : flags1 (.fsqrt (F (.c 1) (.c 2) (.c 0) 0x400 0)) (two 0xBF800000 0) = some 16 := by decide +kernel
/-- (1 + 2^-23)^2 − (1 + 2^-22) is 2^-46 exactly: one rounding. -/
theorem test_ffma_one_rounding : reg1 (.ffma (D1 0x400)) (regsOf [(1, d 0xBF800002), (2, d 0x3F800001), (3, d 0x3F800001)]) = some (d 0x28800000) := by decide +kernel
theorem test_fmin_zero_signs : reg1 (.fmin (D1 0x400)) (two 0 0x80000000) = some (d 0x80000000) := by decide +kernel
theorem test_fmax_ignores_nan : reg1 (.fmax (D1 0x400)) (two 0x7FC00000 0x3F800000) = some (d 0x3F800000) := by decide +kernel
theorem test_fcmp_equal_zeros : guard1 (.fcmp (F (.g 1) (.c 2) (.c 3) 0x400 0)) (two 0 0x80000000) = some (BitVec.allOnes 64) := by decide +kernel
theorem test_fclass : reg1 (.fclass (F (.c 1) (.c 2) (.c 0) 0x400 0)) (two 0x80000001 0) = some (d 4) := by decide +kernel

/-! Control flow: R132, R133; R137: the worked first value of stream 0. -/
theorem test_bra : pc1 (.bra (F (.c 0) (.c 0) (.c 0) 0 4)) (two 0 0) = some 0x80030 := by decide +kernel
theorem test_bra_outside : trap1 (.bra (F (.c 0) (.c 0) (.c 0) 0 0xFFFFFFFF)) (two 0 0) = some (6, 0x7FFF4) := by decide +kernel
theorem test_call_links : reg1 (.call (F (.c 1) (.c 0) (.c 0) 0 4)) (two 0 0) = some (d 0x8000C) := by decide +kernel
theorem test_jmp : pc1 (.jmp (F (.c 0) (.c 2) (.c 0) 0 0)) (two 0x80018 0) = some 0x80018 := by decide +kernel
theorem test_ret_outside : trap1 (.ret (F (.c 0) (.c 2) (.c 0) 0 0)) (two 0x70000 0) = some (6, 0x70000) := by decide +kernel
theorem test_nop : pc1 (.nop (F (.c 0) (.c 0) (.c 0) 0 0)) (two 0 0) = some 0x8000C := by decide +kernel
theorem test_rng_first_value : reg1 (.rng (F (.c 1) (.c 2) (.c 0) 0 0)) (two 0 0) = some (d 0xE220A8397B1DCDAF) := by decide +kernel
theorem test_rngseed : reg1 (.rngseed (F (.c 1) (.c 0) (.c 0) 0x800 5)) (two 0 0) = some (d (5 * 2 ^ 40)) := by decide +kernel
theorem test_guard_off : reg1 (.add { D1 0x380 with gidx := 1 }) (two 3 5) = some (d 7) := by decide +kernel
theorem test_tag_trap : trap1 (.add (D1 0x380)) (regsOf [(2, c4)]) = some (5, 2 * 2 ^ 53 + 2 * 2 ^ 46 + 1) := by decide +kernel

/-! Vectors (R139 to R155). Lanes of 32 bits; v2 holds 1, 2, 3, ..., 16 and v3 ones. -/
def lanes (n : Nat) (xs : List Nat) : VReg := BitVec.ofNat 512 (xs.foldr (fun x acc => acc * 2 ^ n + x) 0)
def upto : VReg := lanes 32 ((List.range 16).map (· + 1))
def vecs (g : Word64 := 0) : State :=
  mach { ctxOf [(2, d 5), (3, d 0xFFFFFFFFFFFFFFFF)] with v := [(1, lanes 32 (List.replicate 16 9)), (2, upto), (3, lanes 32 (List.replicate 16 1))], g := [(1, g)] }
def V1 (md : BitVec 12) : Fields := F (.v 1) (.v 2) (.v 3) md 0
theorem test_vadd_guarded : (lane1 (.vadd { V1 0x300 with gidx := 1 }) (vecs 2) 32 1, lane1 (.vadd { V1 0x300 with gidx := 1 }) (vecs 2) 32 0)
    = (some 3, some 9) := by decide +kernel
theorem test_vsub : lane1 (.vsub (V1 0x300)) vecs 32 4 = some 4 := by decide +kernel
theorem test_vmul : lane1 (.vmul (F (.v 1) (.v 2) (.v 2) 0x300 0)) vecs 32 3 = some 16 := by decide +kernel
theorem test_vfma : lane1 (.vfma (V1 0x300)) vecs 32 3 = some 13 := by decide +kernel
theorem test_vfms : lane1 (.vfms (V1 0x300)) vecs 32 3 = some 5 := by decide +kernel
theorem test_vmin : lane1 (.vmin (V1 0x300)) vecs 32 3 = some 1 := by decide +kernel
theorem test_vmax : lane1 (.vmax (V1 0x300)) vecs 32 3 = some 4 := by decide +kernel
theorem test_vneg : lane1 (.vneg (F (.v 1) (.v 2) (.c 0) 0x100 0)) vecs 32 0 = some 0xFFFFFFFF := by decide +kernel
theorem test_vabs_float : lane1 (.vabs (F (.v 1) (.v 2) (.c 0) 0x400 0)) (mach { ctxOf [] with v := [(2, lanes 32 [0x80000001])] }) 32 0 = some 1 := by decide +kernel
theorem test_vrcp : lane1 (.vrcp (F (.v 1) (.v 2) (.c 0) 0x400 0)) (mach { ctxOf [] with v := [(2, lanes 32 [0x40800000])] }) 32 0 = some 0x3E800000 := by decide +kernel
theorem test_vrsq : lane1 (.vrsq (F (.v 1) (.v 2) (.c 0) 0x400 0)) (mach { ctxOf [] with v := [(2, lanes 32 [0x40800000])] }) 32 0 = some 0x3F000000 := by decide +kernel
theorem test_vexp2 : fExp2 23 0x40400000 = (0x41000000, 0) := by decide +kernel
theorem test_vlog2 : fLog2 23 0x41000000 = (0x40400000, 0) := by decide +kernel
theorem test_vand : lane1 (.vand (V1 0x300)) vecs 32 2 = some 1 := by decide +kernel
theorem test_vor : lane1 (.vor (V1 0x300)) vecs 32 3 = some 5 := by decide +kernel
theorem test_vxor : lane1 (.vxor (V1 0x300)) vecs 32 2 = some 2 := by decide +kernel
theorem test_vandn : lane1 (.vandn (V1 0x300)) vecs 32 2 = some 2 := by decide +kernel
theorem test_vshl : lane1 (.vshl (V1 0x300)) vecs 32 2 = some 6 := by decide +kernel
theorem test_vshr : lane1 (.vshr (V1 0x300)) vecs 32 3 = some 2 := by decide +kernel
theorem test_vsar : lane1 (.vsar (F (.v 1) (.v 2) (.v 3) 0x100 0)) (mach { ctxOf [] with v := [(2, lanes 32 [0x80000000]), (3, lanes 32 [31])] }) 32 0 = some 0xFFFFFFFF := by decide +kernel
theorem test_vpopc : lane1 (.vpopc (F (.v 1) (.v 2) (.c 0) 0x300 0)) vecs 32 6 = some 3 := by decide +kernel
theorem test_vclz : lane1 (.vclz (F (.v 1) (.v 2) (.c 0) 0x300 0)) vecs 32 0 = some 31 := by decide +kernel
theorem test_vclmul : lane1 (.vclmul (F (.v 1) (.v 2) (.v 2) 0x300 0)) vecs 32 2 = some 5 := by decide +kernel
theorem test_vcmp : guard1 (.vcmp (F (.g 1) (.v 2) (.c 0) 0xB03 3)) vecs = some 7 := by decide +kernel
theorem test_vsel : (lane1 (.vsel (F (.v 1) (.v 2) (.v 3) 0x301 0)) (vecs 2) 32 1, lane1 (.vsel (F (.v 1) (.v 2) (.v 3) 0x301 0)) (vecs 2) 32 2) = (some 2, some 1) := by decide +kernel
/-- R150: the worked conversion to BF16, in the upper part. -/
theorem test_vcvt_part : lane1 (.vcvt (F (.v 1) (.v 2) (.c 0) 0x4C0 1)) (mach { ctxOf [] with v := [(2, lanes 32 [0x3F808000, 0x3F818000])] }) 16 17 = some 0x3F82 := by decide +kernel
theorem test_vbcast : lane1 (.vbcast (F (.v 1) (.c 2) (.c 0) 0x300 0)) vecs 32 15 = some 5 := by decide +kernel
theorem test_vperm : lane1 (.vperm (V1 0x300)) vecs 32 9 = some 2 := by decide +kernel
theorem test_vslide : (lane1 (.vslide (F (.v 1) (.v 2) (.c 3) 0x300 0)) vecs 32 1, lane1 (.vslide (F (.v 1) (.v 2) (.c 3) 0x300 0)) vecs 32 0) = (some 1, some 0) := by decide +kernel
theorem test_vcompress : (lane1 (.vcompress (F (.v 1) (.v 2) (.g 1) 0x300 0)) (vecs 0x14) 32 1, lane1 (.vcompress (F (.v 1) (.v 2) (.g 1) 0x300 0)) (vecs 0x14) 32 2) = (some 5, some 0) := by decide +kernel
theorem test_viota : lane1 (.viota (F (.v 1) (.g 1) (.c 0) 0x300 0)) (vecs 0x15) 32 4 = some 2 := by decide +kernel
theorem test_vmovc_sign : reg1 (.vmovc (F (.c 1) (.v 2) (.c 0) 0x900 0)) (mach { ctxOf [] with v := [(2, lanes 32 [0x80000000])] }) = some (reg 2 (-(2 ^ 31))) := by decide +kernel
theorem test_vins : lane1 (.vins (F (.v 1) (.c 2) (.c 0) 0xB00 3)) vecs 32 3 = some 5 := by decide +kernel
theorem test_vred : reg1 (.vred (F (.c 1) (.v 2) (.c 0) 0x300 0)) vecs = some (d 136) := by decide +kernel
/-- 22: the worked scan. -/
theorem test_vscan : lane1 (.vscan (F (.v 1) (.v 2) (.c 0) 0x300 0)) vecs 32 15 = some 136 := by decide +kernel
theorem test_vdot : lane1 (.vdot (F (.v 1) (.v 2) (.v 3) 0 0)) (mach { ctxOf [] with v := [(1, lanes 32 [10]), (2, lanes 8 [1, 2, 3, 0xFF]), (3, lanes 8 [1, 1, 1, 2])] }) 32 0 = some 14 := by decide +kernel

/-! Memory (R164 to R171). c4 covers the L buffer of core 0, c5 a page of global memory. -/
def inL (a : Nat) : Nat := placeKey 1 0 a
def memo (c : Sparse CReg := []) (mem : List Host.Cell := []) (tags : NatSet := []) : State :=
  { regsOf (c ++ [(4, mkCap 1 0x0B 0 0x1000), (5, mkCap 0 0x0B 0 0x1000)]) with mem := mem, tags := tags }
def cells (a : Nat) (bs : List Nat) : List Host.Cell := (List.range bs.length).map (fun i => (a + i, BitVec.ofNat 8 (bs.getD i 0)))
theorem test_ld_signed : reg1 (.ld (F (.c 1) (.c 4) (.c 0) 0x080 8)) (memo [] (cells (inL 8) [0xFE, 0xFF])) = some (reg 1 (-2)) := by decide +kernel
theorem test_ld_global_order : reg1 (.ld (F (.c 1) (.c 5) (.c 0) 0x300 0x10)) (memo [] (cells 0x10 [1, 2, 3, 4])) = some (d 0x04030201) := by decide +kernel
theorem test_ld_misaligned : trap1 (.ld (F (.c 1) (.c 5) (.c 0) 0x300 0x12)) (memo) = some (8, 0x12) := by decide +kernel
theorem test_st_order : bytes1 (.st (F (.c 5) (.c 2) (.c 0) 0x280 0x10)) (memo [(2, d 0x0201)]) 0x10 2 = some 0x0201 := by decide +kernel
theorem test_st_clears_tag : (match exec (.st (F (.c 4) (.c 2) (.c 0) 0x200 0x21)) (memo [(2, d 1)] [] [inL 0x20]) with
    | .next t => some (t.tagAt (inL 0x20)) | _ => none) = some false := by decide +kernel
theorem test_stc_sets_tag : (match exec (.stc (F (.c 4) (.c 2) (.c 0) 0 0x20)) (memo [(2, mkCap 1 3 0 64)]) with
    | .next t => some (t.tagAt (inL 0x20)) | _ => none) = some true := by decide +kernel
theorem test_ldc_without_tag : reg1 (.ldc (F (.c 1) (.c 4) (.c 0) 0 0)) (memo [] (cells (inL 0) [7])) = some ⟨false, 7⟩ := by decide +kernel
theorem test_ldv : lane1 (.ldv (F (.v 1) (.c 4) (.c 0) 0 0x40)) (memo [] (cells (inL 0x7F) [9])) 8 63 = some 9 := by decide +kernel
theorem test_stv : bytes1 (.stv (F (.c 4) (.v 2) (.c 0) 0 0x40)) { vecs with ctxs := [(0, { ctxOf [(4, mkCap 1 0x0B 0 0x1000)] with v := [(2, upto)] })] } (inL 0x7C) 4 = some 16 := by decide +kernel
theorem test_gath : lane1 (.gath (F (.v 1) (.c 4) (.v 2) 0x300 0)) { memo [] (cells (inL 4) [0x11, 0, 0, 0, 0x22]) with
    ctxs := [(0, { ctxOf [(4, mkCap 1 0x0B 0 0x1000)] with v := [(2, lanes 32 [2, 1])] })] } 32 1 = some 0x11 := by decide +kernel
theorem test_scat_highest_lane : bytes1 (.scat { F (.c 4) (.v 1) (.v 2) 0x300 0 with gidx := 1 }) { memo with
    ctxs := [(0, { ctxOf [(4, mkCap 1 0x0B 0 0x1000)] with v := [(1, lanes 32 [5, 6]), (2, lanes 32 [2, 2])], g := [(1, 3)] })] } (inL 8) 4 = some 6 := by decide +kernel
theorem test_qbind : (match exec (.qbind (F (.q 1) (.c 0) (.c 0) 0x800 3)) (memo) with | .next t => some ((t.ctx 0).getQ 1) | _ => none) = some ⟨true, 3⟩ := by decide +kernel
theorem test_qbind_range : trap1 (.qbind (F (.q 1) (.c 0) (.c 0) 0x800 8)) (memo) = some (6, 8) := by decide +kernel
theorem test_amo_add : (reg1 (.amo (F (.c 1) (.c 5) (.c 2) 0x322 0)) (memo [(2, d 5)] (cells 0 [7])), bytes1 (.amo (F (.c 1) (.c 5) (.c 2) 0x322 0)) (memo [(2, d 5)] (cells 0 [7])) 0 4)
    = (some (d 7), some 12) := by decide +kernel
theorem test_cas_fails : (reg1 (.cas (F (.c 1) (.c 5) (.c 2) 0x322 0)) (memo [(1, d 8), (2, d 5)] (cells 0 [7])), bytes1 (.cas (F (.c 1) (.c 5) (.c 2) 0x322 0)) (memo [(1, d 8), (2, d 5)] (cells 0 [7])) 0 4)
    = (some (d 7), some 7) := by decide +kernel
theorem test_cas_writes : bytes1 (.cas (F (.c 1) (.c 5) (.c 2) 0x322 0)) (memo [(1, d 7), (2, d 5)] (cells 0 [7])) 0 4 = some 5 := by decide +kernel
theorem test_lda : reg1 (.lda (F (.c 1) (.c 5) (.c 0) 0x322 0)) (memo [] (cells 0 [7])) = some (d 7) := by decide +kernel
theorem test_stl : bytes1 (.stl (F (.c 5) (.c 2) (.c 0) 0x322 8)) (memo [(2, d 9)]) 8 4 = some 9 := by decide +kernel
theorem test_waitm_waits : pc1 (.waitm (F (.c 1) (.c 5) (.c 2) 0x322 0)) (memo [(2, d 7)] (cells 0 [7])) = some 0x80000 := by decide +kernel
theorem test_tprobe : reg1 (.tprobe (F (.c 1) (.c 2) (.c 0) 0 0)) (memo [(2, d 0x80010)]) = some ⟨false, page 0x80000⟩ := by decide +kernel
theorem test_page_fault : trap1 (.st (F (.c 5) (.c 2) (.c 0) 0x300 0)) { memo [(2, d 1)] with cores := [(0, { tlb := [(0, page 0 &&& ~~~8)] })] } = some (9, 0) := by decide +kernel

/-! Traps and the system (R346 to R360). -/
def sys0 : State := mach { ctxOf [(2, d 0x4000)] with status := 0x41 }
theorem test_trap : (trap1 (.trapI (F (.c 0) (.c 0) (.c 0) 0 0x12)) sys0,
    (match exec (.trapI (F (.c 0) (.c 0) (.c 0) 0 0x12)) sys0 with | .next t => some ((t.ctx 0).epc.toNat, (t.ctx 0).status.toNat) | _ => none))
    = (some (0x16, 0x12), some (0x8000C, 0x85)) := by decide +kernel
theorem test_bkpt : (match exec (.bkpt (F (.c 0) (.c 0) (.c 0) 0 3)) sys0 with | .next t => some ((t.ctx 0).epc.toNat, (t.ctx 0).tval.toNat) | _ => none) = some (0x80000, 3) := by decide +kernel
def handler : State := mach { ctxOf [] with status := 0x85, epc := 0x8000C, pregBase := 0x80000, pregLimit := 0x80100, inTrap := true }
theorem test_eret : (match exec (.eret (F (.c 0) (.c 0) (.c 0) 0 0)) handler with | .next t => some ((t.ctx 0).pc.toNat, (t.ctx 0).status.toNat) | _ => none)
    = some (0x8000C, 0xC1) := by decide +kernel
theorem test_sysrd : reg1 (.sysrd (F (.c 1) (.c 0) (.c 0) 0 0x012)) sys0 = some (d 0x00FFFFFFFFFFFFFF) := by decide +kernel
theorem test_syswr_tvec : (match exec (.syswr (F (.c 0) (.c 2) (.c 0) 0 5)) sys0 with | .next t => some (t.slotOf 0).tvec | _ => none) = some 0x4000 := by decide +kernel
theorem test_wfi_waits : pc1 (.wfi (F (.c 0) (.c 0) (.c 0) 0x800 100)) sys0 = some 0x80000 := by decide +kernel
theorem test_preq : guard1 (.preq (F (.g 1) (.c 0) (.c 0) 0 0)) sys0 = some 0 := by decide +kernel
theorem test_hurdle_level0 : pc1 (.hurdle (F (.c 0) (.c 0) (.c 0) 0x800 0)) sys0 = some 0x8000C := by decide +kernel
theorem test_cwait_sb : (pc1 (.cwaitSb (F (.c 0) (.c 0) (.c 0) 0x841 1)) (mach { ctxOf [] with sb := [(1, 1)] }), pc1 (.cwaitSb (F (.c 0) (.c 0) (.c 0) 0x841 0)) (mach { ctxOf [] with sb := [(1, 1)] }))
    = (some 0x8000C, some 0x80000) := by decide +kernel
theorem test_cystat_free : reg1 (.cystat (F (.c 1) (.c 0) (.c 0) 0 0)) sys0 = some (d 8) := by decide +kernel
theorem test_cyclose_free : reg1 (.cyclose (F (.c 1) (.c 0) (.c 0) 0 0)) sys0 = some (d 10) := by decide +kernel
theorem test_inrecv : reg1 (.inrecv (F (.c 1) (.c 0) (.c 0) 0 0)) (mach (ctxOf []) { slotA with inbox := [⟨42, []⟩] }) = some ⟨false, 42⟩ := by decide +kernel
theorem test_tidinv_range : reg1 (.tidinv (F (.c 1) (.c 0) (.c 2) 0x40 0)) (regsOf [(2, d 64)]) = some (d 4) := by decide +kernel
theorem test_unmatch_none : reg1 (.unmatch (F (.c 1) (.c 0) (.c 0) 0x800 5)) sys0 = some (d 3) := by decide +kernel
theorem test_ctxsave_self : reg1 (.ctxsave (F (.c 1) (.c 5) (.c 2) 0 0)) (regsOf [(2, d 0), (5, mkCap 0 0x0B 0 0x10000)]) = some (d 2) := by decide +kernel
/-- R68: the first draw of the lottery: the xorshift by 13, 17 and 5 takes 0x2545F491 to 0xe124b63a, worked apart from the model. -/
theorem test_lottery : (drawQueue 0x2545F491 [(3, 1), (5, 1)]) = (some 3, 0xe124b63a) := by decide +kernel
/-- SHA-256 of "abc" (FIPS 180-4). -/
theorem test_sha256 : (sha256 [0x61, 0x62, 0x63]).take 4 = [0xBA, 0x78, 0x16, 0xBF] := by decide +kernel

/-! ### The hypotheses of the statements are met -/

/-- The computation answers this value. -/
def okIs {α : Type} [DecidableEq α] (x : Exec α) (v : α) : Bool := match x with | .ok y => decide (y = v) | .error _ => false
theorem of_okIs {α : Type} [DecidableEq α] {x : Exec α} {v : α} (h : okIs x v = true) : x = .ok v := by
  unfold okIs at h; split at h
  · rw [of_decide_eq_true h]
  · cases h
/-- The computation answers a value with a property. -/
def okAnd {α : Type} (x : Exec α) (p : α → Bool) : Bool := match x with | .ok y => p y | .error _ => false
theorem of_okAnd {α : Type} {x : Exec α} {p : α → Bool} (h : okAnd x p = true) : ∃ y, x = .ok y ∧ p y = true := by
  unfold okAnd at h; split at h
  · exact ⟨_, rfl, h⟩
  · cases h

theorem acts0 {s : State} {f : Fields} (h : s.guardBit f 0 = true := by decide +kernel) : acts s f := h
theorem holds0 {s : State} {o : Opnd} {x : Nat} (h : okIs (s.dataOpnd 0 0 o) x = true := by decide +kernel) : holds s o x := by
  intro op field
  have := of_okIs h
  unfold State.dataOpnd at this ⊢
  cases o <;> simp_all [trap]
  rename_i n
  by_cases ht : ((s.ctx s.cur).getC n).tag <;> simp_all
theorem holdsB0 {s : State} {f : Fields} {b : Bool} {x : Nat} (h : okIs (s.opndB 0 f b) x = true := by decide +kernel) : holdsB s f b x := by
  intro op
  have := of_okIs h
  unfold State.opndB at this ⊢
  split at this
  · simp_all
  · rename_i hl
    rw [if_neg hl]
    have h0 : okIs (s.dataOpnd 0 0 f.b) x = true := by
      unfold State.dataOpnd at this ⊢
      cases hb : f.b <;> simp_all [trap, okIs]
      rename_i n
      by_cases ht : ((s.ctx s.cur).getC n).tag <;> simp_all
    exact holds0 h0 op 3
theorem enters0 {s : State}
    (h : ((s.slotOf s.cur).tvec ≠ 0 ∧ (s.ctx s.cur).inTrap = false ∧ (s.slotOf s.cur).work.probing = false) := by decide +kernel) : s.entersTraps := h

theorem witness_IntegerResults : let s := two 3 5; let f := D1 0x300
    acts s f ∧ f.ty < 8 ∧ holds s f.a 3 ∧ holdsB s f (f.ty < 4) 5 ∧ holdsB s f false 5 ∧ holds s f.d 7 :=
  ⟨acts0, by decide +kernel, holds0, holdsB0, holdsB0, holds0⟩
/-- With a literal that is negative, and c0 as destination. -/
theorem witness_IntegerResults_literal : let s := two 3 5; let f := F (.c 0) (.c 2) (.c 0) 0x900 0xFFFFFFFF
    acts s f ∧ f.ty < 8 ∧ holds s f.a 3 ∧ holdsB s f (f.ty < 4) (2 ^ 64 - 1) ∧ holdsB s f false 0xFFFFFFFF ∧ holds s f.d 0 :=
  ⟨acts0, by decide +kernel, holds0, holdsB0, holdsB0, holds0⟩
theorem witness_BitCounts : let s := two 0 5; let f := D1 0x300
    acts s f ∧ f.ty < 8 ∧ holds s f.a 0 ∧ holdsB s f (f.ty < 4) 5 ∧ 4 ≤ f.ty := ⟨acts0, by decide +kernel, holds0, holdsB0, by decide +kernel⟩
theorem witness_MovesAndFields : let s := regsOf [(2, c4), (3, d 5)]
    (let f := F (.c 1) (.c 2) (.c 3) 1 0
     acts s f ∧ wholeIs s f.a c4 ∧ f.lit = false ∧ wholeIs s f.b (d 5) ∧ (∃ n, f.d = .c n) ∧ holds s f.d 0) ∧
    (let f := F (.c 1) (.c 2) (.c 0) 0x801 7
     acts s f ∧ wholeIs s f.a c4 ∧ f.lit = true) ∧
    (let f := F (.g 1) (.c 3) (.c 0) 0 0
     acts s f ∧ wholeIs s f.a (d 5) ∧ f.d = .g 1 ∧ holds s f.a 5) ∧
    (let f := F (.g 1) .wid (.c 0) 0 0
     acts s f ∧ wholeIs s f.a (d 0) ∧ holds s f.a 0) :=
  ⟨⟨acts0, .inl ⟨2, rfl, by decide +kernel⟩, by decide +kernel, .inl ⟨3, rfl, by decide +kernel⟩, ⟨1, rfl⟩, holds0⟩,
   ⟨acts0, .inl ⟨2, rfl, by decide +kernel⟩, by decide +kernel⟩, ⟨acts0, .inl ⟨3, rfl, by decide +kernel⟩, rfl, holds0⟩,
   acts0, .inr ⟨fun _ h => (nomatch h), 0, holds0, by decide +kernel⟩, holds0⟩
theorem witness_MovesAndFields_fields : let s := two 0x8F 0
    (let f := F (.c 1) (.c 0) (.c 0) 0x980 0xFFFFFFFF
     acts s f ∧ (f.ty = 3 ∨ f.ty = 7) ∧ f.d = .c 1) ∧
    (let f := F (.g 1) (.c 0) (.c 0) 0xB80 1
     acts s f ∧ (f.ty = 3 ∨ f.ty = 7) ∧ f.d = .g 1) ∧
    (let f := F (.c 1) (.c 2) (.c 0) 0xB80 (127 * 64 + 63)
     acts s f ∧ holds s f.a 0x8F ∧ holdsB s f false (127 * 64 + 63) ∧ holds s f.d 7) :=
  ⟨⟨acts0, by decide +kernel, rfl⟩, ⟨acts0, by decide +kernel, rfl⟩, acts0, holds0, holdsB0, holds0⟩
theorem witness_GuardLogic : let s := two (neg 1) 1
    (let f := F (.g 1) (.c 2) (.c 3) 0x185 0
     acts s f ∧ holds s f.a (neg 1) ∧ f.ty < 8 ∧ f.md.toNat % 8 < 6 ∧ holdsB s f (f.ty < 4) 1) ∧
    (let f := F (.g 1) (.g 0) (.c 0) 4 0
     acts s f ∧ holds s f.a (2 ^ 64 - 1) ∧ f.md.toNat % 8 < 5 ∧ holdsB s f true 0) :=
  ⟨⟨acts0, holds0, by decide +kernel, by decide +kernel, holdsB0⟩, acts0, holds0, by decide +kernel, holdsB0⟩
theorem witness_TaggedDataTraps : let s := regsOf [(2, c4)]; let f := D1 0x380
    acts s f ∧ s.entersTraps ∧ f.a = .c 2 ∧ ((s.ctx s.cur).getC 2).tag = true := ⟨acts0, enters0, rfl, by decide +kernel⟩
theorem witness_GuardOffAndConstants : (two 3 5).guardBit { D1 0x380 with gidx := 1 } 0 = false := by decide +kernel

theorem witness_CapabilityResults : let s := caps; let f := capF (.c 20) 0x100; let c := ((s.ctx s.cur).getC 20).cap
    acts s f ∧ f.a = .c 20 ∧ ((s.ctx s.cur).getC 20).tag = true ∧ c.perm.testBit 6 = false ∧ holdsB s f false 0x100 ∧ holdsB s f true 0x100 ∧
      c.off + 0x100 ≤ c.len ∧ (0x100 : Nat) < 2 ^ 40 ∧ ((0x200 : Nat) : Int) = (c.off : Int) + (BitVec.ofNat 64 0x100).toInt :=
  ⟨acts0, rfl, by decide +kernel, by decide +kernel, holdsB0, holdsB0, by decide +kernel, by decide +kernel, by decide +kernel⟩
theorem witness_CapabilityResults_shortest : shortest 0x100 0x100 0 := ⟨rfl, by decide, by decide, fun _ _ _ _ => Nat.zero_le _⟩
theorem witness_SealAndUnseal :
    (let s := sealer; let f := capF (.c 4) 3; let c := ((s.ctx s.cur).getC 4).cap
     acts s f ∧ f.a = .c 4 ∧ ((s.ctx s.cur).getC 4).tag = true ∧ holdsB s f false 3 ∧ c.perm.testBit 6 = false ∧ (s.slotOf s.cur).sealmask.getLsbD 3 = true) ∧
    (let s := sealer; let f := capF (.c 4) 15; let c := ((s.ctx s.cur).getC 4).cap
     acts s f ∧ holdsB s f false 15 ∧ c.perm.testBit 6 = false ∧ (s.slotOf s.cur).sealmask.getLsbD 15 = false ∧ s.entersTraps) ∧
    (let s := mach (ctxOf [(4, Cap.reg { c4.cap with perm := 0x4B, otype := 3 })]) { slotA with sealmask := 0x80000 }; let c := ((s.ctx s.cur).getC 4).cap
     acts s (capF (.c 4) 3) ∧ ((s.ctx s.cur).getC 4).tag = true ∧ holdsB s (capF (.c 4) 3) false 3 ∧ c.perm.testBit 6 = true ∧ (s.slotOf s.cur).sealmask.getLsbD (16 + 3) = true ∧ c.otype = 3 ∧
       holdsB s (capF (.c 4) 1) false 1 ∧ c.otype ≠ 1 ∧ s.entersTraps) :=
  ⟨⟨acts0, rfl, by decide +kernel, holdsB0, by decide +kernel, by decide +kernel⟩, ⟨acts0, holdsB0, by decide +kernel, by decide +kernel, enters0⟩,
   acts0, by decide +kernel, holdsB0, by decide +kernel, by decide +kernel, by decide +kernel, holdsB0, by decide +kernel, enters0⟩
theorem witness_CapabilityChecksTrap : let s := regsOf [(4, c4), (6, d 9), (7, Cap.reg { c4.cap with perm := 0x4B, otype := 3 }), (8, c20)]
    s.entersTraps ∧ holdsB s (F (.c 1) (.c 6) (.c 0) 0x800 1) false 1 ∧ ((s.ctx s.cur).getC 6).tag = false ∧
      ((s.ctx s.cur).getC 7).tag = true ∧ ((s.ctx s.cur).getC 7).cap.perm.testBit 6 = true ∧
      (let r := (s.ctx s.cur).getC 8; r.tag = true ∧ r.cap.perm.testBit 6 = false ∧ r.cap.len < r.cap.off + 0x201) ∧
      holdsB s (F (.c 1) (.c 8) (.c 0) 0x800 0x201) false 0x201 :=
  ⟨enters0, holdsB0, by decide +kernel, by decide +kernel, by decide +kernel, by decide +kernel, holdsB0⟩
theorem witness_CapabilityChecksTrap_csoff : let s := regsOf [(4, c4), (9, d (2 ^ 40))]
    s.entersTraps ∧ holdsB s (F (.c 1) (.c 4) (.c 9) 0 0) false (2 ^ 40) ∧ ((s.ctx s.cur).getC 4).tag = true ∧ ((s.ctx s.cur).getC 4).cap.perm.testBit 6 = false :=
  ⟨enters0, holdsB0, by decide +kernel, by decide +kernel⟩
theorem witness_NoForgedCapability : ∃ t, exec (.cbnd (capF (.c 20) 0x100)) caps = .next t ∧ ((t.ctx caps.cur).getC 1).tag = true := by
  have h : reg1 (.cbnd (capF (.c 20) 0x100)) caps = some (mkCap 1 0x0B 0x100 0x100) := test_cbnd
  unfold reg1 at h
  split at h
  · rename_i t ht
    exact ⟨t, ht, by have := Option.some.inj h; rw [show caps.cur = 0 from rfl] at *; rw [this]; decide +kernel⟩
  · cases h
theorem witness_FloatArithmetic : let s := regsOf [(1, d 0xBF800002), (2, d 0x3F800001), (3, d 0x3F800001)]; let f := D1 0x403
    acts s f ∧ (f.ty = 8 ∨ f.ty = 9) ∧ fpA s f 0x3F800001 ∧ fpB s f 0x3F800001 ∧ holds s f.d 0xBF800002 :=
  ⟨acts0, by decide +kernel, ⟨0x3F800001, holds0, by decide +kernel⟩, .inr ⟨by decide +kernel, 0x3F800001, holds0, by decide +kernel⟩, holds0⟩
theorem witness_FloatCompareConvertClass : let s := two 0x40200000 0x3F800000
    (let f := F (.c 1) (.c 2) (.c 0) 0x140 0
     acts s f ∧ f.ty < 8 ∧ 8 = f.md.toNat / 8 % 16 ∧ holds s f.a 0x40200000) ∧
    (let f := F (.c 1) (.c 2) (.c 0) 0xC00 0x3F800000
     acts s f ∧ (f.ty = 8 ∨ f.ty = 9) ∧ fpA s f 0x40200000 ∧ fpB s f 0x3F800000 ∧ holds s f.a 0x40200000 ∧ 0 = f.md.toNat / 8 % 16) ∧
    9 = (F (.c 1) (.c 2) (.c 0) 0x448 0).md.toNat / 8 % 16 :=
  ⟨⟨acts0, by decide +kernel, by decide +kernel, holds0⟩,
   ⟨acts0, by decide +kernel, ⟨0x40200000, holds0, by decide +kernel⟩, .inl ⟨by decide +kernel, by decide +kernel⟩, holds0, by decide +kernel⟩, by decide +kernel⟩
theorem witness_FloatSpecialCases : isNaN 23 0x7FC00000 = true ∧ fval 23 0x7F800000 = .inf false ∧ fval 23 0xFF800000 = .inf true ∧
    fval 23 0 = .fin false 0 (-149) ∧ fval 23 0x3F800000 = .fin false (2 ^ 23) (-23) ∧ fval 7 0xBF80 = .fin true (2 ^ 7) (-7) := by decide +kernel

theorem witness_Jumps : let s := two 0x80018 0
    (let f := F (.c 1) (.c 0) (.c 0) 0 20
     acts s f ∧ inside (s.ctx s.cur) ((s.ctx s.cur).pc + (12 : BitVec 56) * f.imm.signExtend 56).toNat) ∧
    (let f := F (.c 1) (.c 0) (.c 0) 0 21
     acts s f ∧ ¬inside (s.ctx s.cur) ((s.ctx s.cur).pc + (12 : BitVec 56) * f.imm.signExtend 56).toNat ∧ s.entersTraps) ∧
    ((s.ctx s.cur).getC 2).tag = false ∧ inside (s.ctx s.cur) (((s.ctx s.cur).getC 2).val.toNat % 2 ^ 56) :=
  ⟨⟨acts0, by unfold inside; decide +kernel⟩, ⟨acts0, by unfold inside; decide +kernel, enters0⟩, by decide +kernel, by unfold inside; decide +kernel⟩
theorem witness_Jumps_capability : let s := regsOf [(2, mkCap 0 5 0x3000 0x600)]; ((s.ctx s.cur).getC 2).tag = true ∧ canJump ((s.ctx s.cur).getC 2).cap := by
  refine ⟨by decide +kernel, ?_⟩; unfold canJump; decide +kernel
theorem witness_NopYieldAndPace : let s := two 0 0
    acts s { F (.c 0) (.c 0) (.c 0) 0 0 with hint := ⟨0, 0, 15⟩ } ∧ (s.ctx s.cur).rep = none ∧ ({ s with ctxs := [(0, { ctxOf [] with hold := 1 })] } : State).ready 0 = false ∧
      (({ s with ctxs := [(0, { ctxOf [] with hold := 1 })] } : State).ctx 0).hold ≠ 0 := ⟨acts0, by decide +kernel, by decide +kernel, by decide +kernel⟩

/-- The word ADD.N64 c9, c1, c2 behind a REP at 0x80000. -/
def looped (count : Nat) : State := { mach (ctxOf [(3, d count)]) with
  mem := (List.range 12).map (fun i => (0x8000C + i, BitVec.ofNat 8 ((encode (.add (F (.c 9) (.c 1) (.c 2) 0x380 0))).toNat / 256 ^ i))) |>.filter (fun c => c.2 ≠ 0) }
def repF : Fields := F (.c 0) (.c 0) (.c 3) 0x058 0
def bodyA : List Instr := [.add (F (.c 9) (.c 1) (.c 2) 0x380 0)]
theorem witness_Repetition :
    (∀ n ∈ [0, 4, 16777216], okIs ((looped n).fetchBody 0 0x80000 1 0) bodyA = true) ∧
    holdsB (looped 0) repF false 0 ∧ holdsB (looped 4) repF false 4 ∧ holdsB (looped 16777216) repF false 16777216 ∧ acts (looped 4) repF ∧ ((looped 4).ctx 0).rep = none ∧
    bodyA.any barredInBody = false ∧ firstFault ((looped 0).decodeEnv 0) (repF.mod 6 4) (repF.mod 3 3) 0 0 bodyA = none ∧
    firstFault ((looped 4).decodeEnv 0) (repF.mod 6 4) (repF.mod 3 3) 4 0 bodyA = none ∧ (looped 16777216).entersTraps ∧
    (looped 4).guardBit { repF with gidx := 1 } 0 = false :=
  ⟨by decide +kernel, holdsB0, holdsB0, holdsB0, acts0, by decide +kernel, by decide +kernel, by decide +kernel, by decide +kernel, enters0, by decide +kernel⟩
theorem witness_Repetition_passes :
    let r : RepState := ⟨1, 3, 0, 2, 1, 0, bodyA, none, 0⟩
    let c : Ctx := { ctxOf [] with rep := some r }
    r.len ≤ r.ix ∧ r.count ≤ r.pass + 1 ∧ r.body.getD r.ix default = .add (F (.c 9) (.c 1) (.c 2) 0x380 0) ∧ ((mach c).ctx 0) = c ∧
      { r with len := 1 }.ix < 1 ∧ { r with pass := 0 }.pass + 1 < r.count := by decide +kernel
theorem witness_RandomStreams :
    (let s := two 0 0
     acts s (F (.c 1) (.c 2) (.c 0) 0 0) ∧ holds s (.c 2) 0 ∧ holdsB s (F (.c 1) (.c 0) (.c 0) 0x800 4096) false 4096) ∧
    (let s := two (2 ^ 40 - 1) 0
     holds s (.c 2) (2 ^ 40 - 1) ∧ (s.slotOf s.cur).rngctl.getLsbD 1 = false) := ⟨⟨acts0, holds0, holdsB0⟩, holds0, by decide +kernel⟩
theorem witness_StreamsNeverMeet : rngMix 0 0 0 ≠ rngMix 0 1 0 := by decide +kernel

theorem vecIn_vv {s : State} {f : Fields} {w lit i j : Nat} {n m : BitVec 5} (hl : f.lit = false) (ha : f.a = .v n) (hb : f.b = .v m)
    (hi : n.toNat = i := by decide) (hj : m.toNat = j := by decide) : vecIn s f w lit s ((s.ctx s.cur).getV i) ((s.ctx s.cur).getV j) := by
  intro op
  simp [vecOperands, boundCheck, popStreams, acquireCheck, State.beatsAcquired, streamsOf, hl, ha, hb, hi, hj, State.vReg, opndNum, Bind.bind, Except.bind]
theorem vecIn_vlit {s : State} {f : Fields} {w lit i : Nat} {n : BitVec 5} (hl : f.lit = true) (ha : f.a = .v n) (hb : f.b = .c 0)
    (hi : n.toNat = i := by decide) : vecIn s f w lit s ((s.ctx s.cur).getV i) (broadcast w lit) := by
  intro op
  simp [vecOperands, boundCheck, popStreams, acquireCheck, State.beatsAcquired, streamsOf, hl, ha, hb, hi, State.vReg, opndNum, Bind.bind, Except.bind]
theorem vecInA_v {s : State} {f : Fields} {i : Nat} {n : BitVec 5} (ha : f.a = .v n) (hi : n.toNat = i := by decide) :
    vecInA s f s ((s.ctx s.cur).getV i) := by
  intro op
  simp [vecA, boundCheck, popStreams, acquireCheck, State.beatsAcquired, streamsOf, ha, hi, State.vReg, opndNum, Bind.bind, Except.bind]

theorem witness_VectorLanes : let s := vecs 2; let f := { V1 0x300 with gidx := 1 }
    f.d = .v 1 ∧ f.ty < 8 ∧ vecIn s f (tyWidth f.ty) (litLane f) s ((s.ctx s.cur).getV 2) ((s.ctx s.cur).getV 3) :=
  ⟨rfl, by decide +kernel, vecIn_vv (by decide +kernel) rfl rfl⟩
/-- A literal in lanes of 8 bits, and BF16. -/
theorem witness_VectorLanes_literal : let s := vecs 2; let f := F (.v 1) (.v 2) (.c 0) 0x800 0xFF; let f' := F (.v 1) (.v 2) (.v 3) 0x480 0
    f.d = .v 1 ∧ f.ty < 8 ∧ f'.ty ≤ 9 ∧ vecIn s f (tyWidth f.ty) (litLane f) s ((s.ctx s.cur).getV 2) (broadcast (tyWidth f.ty) (litLane f)) ∧
      vecIn s f' (tyWidth f'.ty) (litLane f') s ((s.ctx s.cur).getV 2) ((s.ctx s.cur).getV 3) :=
  ⟨rfl, by decide +kernel, by decide +kernel, vecIn_vlit (by decide +kernel) rfl rfl, vecIn_vv (by decide +kernel) rfl rfl⟩
theorem witness_VectorFunctions : let s := vecs; let f := F (.v 1) (.v 2) (.v 3) 0x400 0
    f.d = .v 1 ∧ (f.ty = 8 ∨ f.ty = 9) ∧ vecIn s f (tyWidth f.ty) (litLane f) s ((s.ctx s.cur).getV 2) ((s.ctx s.cur).getV 3) :=
  ⟨rfl, by decide +kernel, vecIn_vv (by decide +kernel) rfl rfl⟩
theorem witness_VectorMoves : let s := vecs 2
    (let f := V1 0x300
     f.ty ≤ 9 ∧ f.d = .v 1 ∧ vecIn s f (tyWidth f.ty) (litLane f) s ((s.ctx s.cur).getV 2) ((s.ctx s.cur).getV 3)) ∧
    (let f := F (.v 1) (.c 2) (.c 0) 0x300 0
     f.lit = false ∧ holds s f.a 5 ∧ holdsB s f false 0) ∧ (F (.v 1) (.c 0) (.c 0) 0xB00 7).lit = true ∧
    (let f := F (.v 1) (.v 2) (.c 3) 0x300 0
     vecInA s f s ((s.ctx s.cur).getV 2) ∧ holdsB s f true (2 ^ 64 - 1) ∧ boundCheck s 0x142 f [(2, f.a)] = .ok ()) ∧
    (let f := F (.v 1) (.v 2) (.g 1) 0x300 0
     f.b = .g 1 ∧ vecInA s f s ((s.ctx s.cur).getV 2)) ∧
    (let f := F (.c 1) (.v 2) (.c 2) 0x300 0
     acts s f ∧ vecInA s f s ((s.ctx s.cur).getV 2) ∧ holdsB s f false 5 ∧ boundCheck s 0x145 f [(2, f.a)] = .ok ()) ∧
    (let f := { F (.g 2) (.v 2) (.v 3) 0x302 0 with gidx := 1 }
     f.d = .g 2 ∧ vecIn s f (tyWidth f.ty) (litLane f) s ((s.ctx s.cur).getV 2) ((s.ctx s.cur).getV 3) ∧ s.guardBit f 1 = true) ∧
    (let f := F (.v 1) (.v 2) (.c 0) 0x4C0 1
     8 = f.md.toNat / 8 % 16 ∧ f.imm.toNat % 8 * min (tyWidth 8) (tyWidth f.ty) < max (tyWidth 8) (tyWidth f.ty)) :=
  ⟨⟨by decide +kernel, rfl, vecIn_vv (by decide +kernel) rfl rfl⟩, ⟨by decide +kernel, holds0, holdsB0⟩, by decide +kernel, ⟨vecInA_v rfl, holdsB0, rfl⟩, ⟨rfl, vecInA_v rfl⟩,
   ⟨acts0, vecInA_v rfl, holdsB0, rfl⟩, ⟨rfl, vecIn_vv (by decide +kernel) rfl rfl, by decide +kernel⟩, by decide +kernel, by decide +kernel⟩
theorem witness_VectorReductions : let s := vecs 2
    (let f := { F (.c 1) (.v 2) (.c 0) 0x400 0 with gidx := 1 }
     (f.ty = 8 ∨ f.ty = 9) ∧ vecInA s f s ((s.ctx s.cur).getV 2) ∧ s.guardBit f 1 = true) ∧
    (let f := F (.v 1) (.v 2) (.v 3) 0x480 0
     f.ty = 9 ∧ vecIn s f 32 f.imm.toNat s ((s.ctx s.cur).getV 2) ((s.ctx s.cur).getV 3)) ∧
    (let f := { F (.c 1) (.v 2) (.c 0) 0x305 0 with gidx := 1 }
     f.ty < 8 ∧ f.md.toNat % 8 < 6 ∧ vecInA s f s ((s.ctx s.cur).getV 2) ∧ s.guardBit f 1 = true) ∧
    (let f := F (.v 1) (.v 2) (.v 3) 0 0
     (f.ty = 0 ∨ f.ty = 4) ∧ vecIn s f 32 f.imm.toNat s ((s.ctx s.cur).getV 2) ((s.ctx s.cur).getV 3)) :=
  ⟨⟨by decide +kernel, vecInA_v rfl, by decide +kernel⟩, ⟨by decide +kernel, vecIn_vv (by decide +kernel) rfl rfl⟩,
   ⟨by decide +kernel, by decide +kernel, vecInA_v rfl, by decide +kernel⟩, by decide +kernel, vecIn_vv (by decide +kernel) rfl rfl⟩

/-- The value of a computation that succeeds. -/
def okD {ε α : Type} (y : α) (x : Except ε α) : α := match x with | .ok y => y | .error _ => y
def isOk {ε α : Type} (x : Except ε α) : Bool := match x with | .ok _ => true | .error _ => false
theorem ok0 {ε α : Type} (y : α) {x : Except ε α} (h : isOk x = true := by decide +kernel) : x = .ok (okD y x) := by
  unfold isOk at h; unfold okD; split at h
  · rfl
  · cases h
theorem okP {ε α β : Type} (y : α × β) {x : Except ε (α × β)} (h : isOk x = true := by decide +kernel) : x = .ok ((okD y x).1, (okD y x).2) := ok0 y h
/-- An admitted access: the state, and the place. -/
def noLoc : State × Loc := ({}, { key := 0, space := 0, core := 0, addr := 0, va := 0, tags := false })
theorem okA {x : Exec (State × Loc)} (h : isOk x = true := by decide +kernel) : x = .ok ((okD noLoc x).1, (okD noLoc x).2) := ok0 noLoc h
theorem okL {x : Exec (State × List (Nat × Loc))} (h : isOk x = true := by decide +kernel) :
    x = .ok ((okD ({}, []) x).1, (okD ({}, []) x).2) := ok0 ({}, []) h

theorem witness_AccessAdmitted : let s := memo; let rq := loadReq 0x200 (D1 0x300) 4 false; let r := mkCap 1 0x0B 0 0x1000; let c := r.cap
    s.cur / 32 < 2048 ∧ (rq.ld = !rq.st) ∧ rq.ex = false ∧ rq.posted = false ∧ rq.noW = false ∧ c.space ∈ rq.spaces ∧ r.tag = true ∧ c.perm.testBit 7 = false ∧
      c.perm.testBit 6 = false ∧ c.perm.testBit 0 = true ∧ rq.st = false ∧ rq.cp = false ∧ (c.off : Int) + 0xFFC + rq.n ≤ c.len ∧ 0xFFC % rq.al = 0 ∧
      (s.core 0).mustWait c.space 0xFFC rq.n rq.st = false ∧ s.postedTo s.cur 0 = false := by decide +kernel
/-- A store of 64 bytes that ends with the capability and the buffer L, and one of global memory. -/
theorem witness_AccessAdmitted_store : let s := memo; let rq := storeReq 0x205 (D1 0) 64 false
    rq.ex = false ∧ rq.posted = false ∧ rq.noW = false ∧
    (let c := (mkCap 1 0x0B 0x3FFC0 64).cap
     c.space ∈ rq.spaces ∧ c.perm.testBit 1 = true ∧ c.perm.testBit 6 = false ∧ c.perm.testBit 7 = false ∧ (c.off : Int) + 0 + rq.n ≤ c.len ∧
      (s.slotOf s.cur).weightHit 0 c.space 0x3FFC0 rq.n = none ∧ 0x3FFC0 + rq.n ≤ 256 * 1024 ∧ (s.core 0).mustWait 1 0x3FFC0 64 true = false ∧
      s.postedTo s.cur 0 = false) ∧
    (let c := (mkCap 0 0x0B 0x80000 64).cap
     c.space ∈ rq.spaces ∧ c.perm.testBit 1 = true ∧ (c.off : Int) + 0 + rq.n ≤ c.len ∧ (s.slotOf s.cur).weightHit 0 c.space 0x80000 rq.n = none ∧
      tlbFind (s.core 0) 0x80000 = some (0, (page 0x80000).toNat) ∧ imgAdmits (page 0x80000).toNat (s.ctx s.cur).mode .store = true ∧
      imgCHK (page 0x80000).toNat = false ∧ s.firewall = []) := by decide +kernel

/-- A store through one of several capabilities, each with one thing wrong. -/
def stores : State := regsOf [(2, d 1), (5, d 9), (6, Cap.reg { c4.cap with perm := 0x4B }), (7, mkCap 1 1 0 768), (8, Cap.reg { c4.cap with off := 767 }),
  (9, Cap.reg { c4.cap with off := 1 })]
def stF (n : BitVec 6) : Fields := F (.c n) (.c 2) (.c 0) 0x280 0
theorem witness_AccessChecksTrap : let s := stores
    (∀ n ∈ [(5 : BitVec 6), 6, 7, 8, 9], s.guardBit (stF n) 0 = true) ∧ s.entersTraps ∧ (stF 5).ty < 10 ∧ holds s (.c 2) 1 ∧
    (let r := (s.ctx s.cur).getC 5; r.tag = false ∧ r.cap.space ≠ 6) ∧
    (∀ n ∈ [(6 : BitVec 6), 7, 8, 9], let r := (s.ctx s.cur).getC n
      r.tag = true ∧ r.cap.space < 6 ∧ r.cap.perm.testBit 7 = false ∧ 0 ≤ (r.cap.off : Int) + offs (stF n) ∧ (r.cap.off : Int) + offs (stF n) < 2 ^ 40) ∧
    ((s.ctx s.cur).getC 6).cap.perm.testBit 6 = true ∧
    (let c := ((s.ctx s.cur).getC 7).cap; c.perm.testBit 6 = false ∧ c.perm.testBit 1 = false) ∧
    (let c := ((s.ctx s.cur).getC 8).cap; c.perm.testBit 6 = false ∧ c.perm.testBit 1 = true ∧ c.len < (c.off : Int) + offs (stF 8) + 2) ∧
    (let c := ((s.ctx s.cur).getC 9).cap; c.perm.testBit 6 = false ∧ c.perm.testBit 1 = true ∧ (c.off : Int) + offs (stF 9) + 2 ≤ c.len ∧
      ((c.base : Int) + (c.off : Int) + offs (stF 9)).toNat % 2 ^ 56 % 2 ≠ 0) :=
  ⟨by decide +kernel, enters0, by decide +kernel, holds0, by decide +kernel⟩

def loadF : Fields := F (.c 1) (.c 4) (.c 0) 0x300 0
theorem witness_Loads : let s := memo [] (cells (inL 0) [1, 2, 3, 4])
    ∃ u l u2 l2 u3 l3, acts s loadF ∧ (s.capOpnd loadF.a).cap.space ≠ 6 ∧ loadF.ty < 10 ∧ notSampled s ∧
      access s (loadReq 0x200 loadF 4 false) loadF.a (offs loadF) false false u l ∧ l.chk = false ∧ (u.noteAccess s.cur l 0).poisoned l 4 = false ∧
      access s (loadReq 0x202 loadF 16 true) loadF.a (offs loadF) false false u2 l2 ∧ (u2.noteAccess s.cur l2 0).poisoned l2 16 = false ∧
      access s (loadReq 0x204 { loadF with d := .v 1 } 64 false) loadF.a (offs loadF) false false u3 l3 ∧ (u3.noteAccess s.cur l3 0).poisoned l3 64 = false :=
  ⟨_, _, _, _, _, _, acts0, by decide +kernel, by decide +kernel, by unfold notSampled; decide +kernel, okA, by decide +kernel, by decide +kernel, okA, by decide +kernel, okA, by decide +kernel⟩
theorem witness_Loads_uncorrectable : let s : State := { memo with poison := [inL 0 / 8] }
    ∃ u l, acts s loadF ∧ access s (loadReq 0x200 loadF 4 false) loadF.a (offs loadF) false false u l ∧ (u.noteAccess s.cur l 0).poisoned l 4 = true ∧ s.entersTraps :=
  ⟨_, _, acts0, okA, by decide +kernel, enters0⟩
theorem witness_Loads_gather : let f := { F (.v 1) (.c 4) (.v 2) 0x300 0 with gidx := 1 }
    let s : State := { memo with ctxs := [(0, { ctxOf [(4, mkCap 1 0x0B 0 0x1000)] with v := [(2, lanes 32 [2, 1])], g := [(1, 3)] })] }
    let rq : Req := { op := 0x206, field := 2, opnd := f.a, n := 4, al := 4, ld := true, st := false, spaces := [0, 1, 2, 3, 4] }
    ∃ u ls, f.ty < 10 ∧ f.d = .v 1 ∧ laneAccesses s rq (s.capOpnd f.a) (offs f) ((s.ctx s.cur).getV (opndNum f.b)) 32 s (s.activeLanes f 32) = .ok (u, ls) ∧
      (∀ p ∈ ls, (ls.foldl (fun (w : State) p => w.noteAccess s.cur p.2 0) u).poisoned p.2 4 = false) ∧ ls.length = 2 :=
  ⟨_, _, by decide +kernel, rfl, okL, by decide +kernel, by decide +kernel⟩
/-- Windows of SPACE 6 (R168, R351): c4 the context window, c5 the tensor table, c6 the queue of the matrix engine; Supervisor mode. -/
def window : State := mach { ctxOf [(2, d 5), (4, mkCap 6 0x2B (8 * 2 ^ 48) 0x1000), (5, mkCap 6 0x2B (5 * 2 ^ 48) 0x800), (6, mkCap 6 0x2B (2 * 2 ^ 48) 64)] with status := 0x41 }
def winF (n : BitVec 6) : Fields := F (.c 1) (.c n) (.c 0) 0x380 8
theorem witness_Loads_window : let s := window; ∃ a, acts s (winF 4) ∧ (winF 4).ty < 10 ∧ (s.capOpnd (winF 4).a).cap.space = 6 ∧
    loadWindow 0x200 (winF 4) (tyWidth (winF 4).ty / 8) false s = .ok a := ⟨_, acts0, by decide +kernel, by decide +kernel, ok0 0⟩

def storeF : Fields := F (.c 4) (.c 2) (.c 0) 0x300 0x20
def storing : State := { memo [(2, mkCap 1 3 0 64), (3, d 9)] [] [inL 0x20] with ctxs := [(0, { ctxOf [(2, mkCap 1 3 0 64), (3, d 9), (4, mkCap 1 0x0B 0 0x1000)] with v := [(2, upto)] })] }
theorem witness_Stores : let s := storing
    (let f := { storeF with a := .c 3 }
     ∃ u l, acts s f ∧ (s.capOpnd f.d).cap.space ≠ 6 ∧ f.ty < 10 ∧ holds s f.a 9 ∧ access s (storeReq 0x201 f 4 false) f.d (offs f) false false u l) ∧
    (let r := (s.ctx s.cur).getC 2
     ∃ u l, storeF.a = .c 2 ∧ access s (storeReq 0x203 storeF 16 true) storeF.d (offs storeF) r.tag (r.cap.perm.testBit 4) u l ∧ l.key % 16 = 0) ∧
    (let f := F (.c 4) (.v 2) (.c 0) 0 0x40
     ∃ u l, f.a = .v 2 ∧ access s (storeReq 0x205 f 64 false) f.d (offs f) false false u l) :=
  ⟨⟨_, _, acts0, by decide +kernel, by decide +kernel, holds0, okA⟩, ⟨_, _, rfl, okA, by decide +kernel⟩, _, _, rfl, okA⟩
theorem witness_Stores_window : let s := window
    (let f := F (.c 6) (.v 2) (.c 0) 0 0
     ∃ a u, acts s f ∧ (s.capOpnd f.d).cap.space = 6 ∧ storeWindow 0x205 f 64 false true s = .ok a ∧ winEngine a = some .matrix ∧
       s.push s.cur .matrix ((s.ctx s.cur).getV 2) = .ok u) ∧
    (let f := F (.c 4) (.c 2) (.c 0) 0x380 0
     ∃ a, (s.capOpnd f.d).cap.space = 6 ∧ f.ty < 10 ∧ holds s f.a 5 ∧ storeWindow 0x201 f 8 false false s = .ok a) :=
  ⟨⟨_, _, acts0, by decide +kernel, ok0 0, by decide +kernel, ok0 {}⟩, _, by decide +kernel, by decide +kernel, holds0, ok0 0⟩
theorem witness_Stores_scatter : let f := { F (.c 4) (.v 1) (.v 2) 0x300 0 with gidx := 1 }
    let s : State := { memo with ctxs := [(0, { ctxOf [(4, mkCap 1 0x0B 0 0x1000)] with v := [(1, lanes 32 [5, 6]), (2, lanes 32 [2, 2])], g := [(1, 3)] })] }
    let rq : Req := { op := 0x207, field := 1, opnd := f.d, n := 4, al := 4, ld := false, st := true, spaces := [0, 1, 2, 3, 4] }
    ∃ u ls, f.ty < 10 ∧ f.a = .v 1 ∧ laneAccesses s rq (s.capOpnd f.d) (offs f) ((s.ctx s.cur).getV (opndNum f.b)) 32 s (s.activeLanes f 32) = .ok (u, ls) ∧ ls.length = 2 :=
  ⟨_, _, by decide +kernel, rfl, okL, by decide +kernel⟩

/-- Two vcores of a launch, on cores 0 and 1; c4 is a capability of SPACE 5 for the L buffer of core 1. -/
def pairOf (c : Ctx) (j : Sparse JEntry := []) (time : Nat := 0) : State :=
  { mach c with slots := [(0, { slotA with journal := j }), (16, { slotA with vcore := 1 })], gangs := [(1, { gangA with vcores := 2 })], time := time }
def posting : State := pairOf { ctxOf [(2, d 7), (4, mkCap 5 0x0B (2 ^ 44) 0x1000)] with v := [(2, upto)] }
def pstF : Fields := { F (.c 4) (.c 2) (.c 0) 0x300 8 with hint := ⟨0, 0, 9⟩ }
theorem witness_PostedStores : let s := posting
    (∃ u l, acts s pstF ∧ pstF.ty < 10 ∧ holds s pstF.a 7 ∧ access s { storeReq 0x208 pstF 4 false with remote := true, posted := true, spaces := [5] } pstF.d (offs pstF) false false u l) ∧
    (let f := F (.c 4) (.v 2) (.c 0) 0 0x40
     ∃ u l, acts s f ∧ f.ty < 10 ∧ f.a = .v 2 ∧ access s { storeReq 0x208 f 64 false with remote := true, posted := true, spaces := [5] } f.d (offs f) false false u l) ∧
    (s.slotOf s.cur).freeEntry = some 0 ∧ (s.ctx s.cur).rep = none :=
  ⟨⟨_, _, acts0, by decide +kernel, holds0, okA⟩, ⟨_, _, acts0, by decide +kernel, rfl, okA⟩, by decide +kernel, by decide +kernel⟩
/-- An entry on its way, one that finds its target swapped out, one that is acknowledged, one that is sent back, and one that retries. -/
theorem witness_PostedStores_arrival : let e : JEntry := { lid := 1, state := 1, addr := 2 ^ 44 + 8, size := 4, data := 7 }
    (let s := pairOf (ctxOf []) [(3, e)]
     s.jentry 0 0 3 = e ∧ s.heldBack e = false ∧ s.pstVerdict e = none ∧ (s.core 1).mustWait 1 8 4 true = false) ∧
    (let s := { pairOf (ctxOf []) [(3, e)] with slots := [(0, { slotA with journal := [(3, e)] }), (16, { slotA with vcore := 1, live := false, detached := true })] }
     s.heldBack e = false ∧ s.pstVerdict e = some 3) ∧
    ((pairOf (ctxOf []) [(3, { e with phase := 1 })]).modSlot (slotKey 0 0) (fun l => { l with journal := l.journal.filter (fun p => p.1 != 3) })).residentHome 1 0 = some 0 ∧
    (let s := pairOf (ctxOf []) [(3, { e with state := 2, phase := 3, firstAt := some 5, nextAt := 5 })] 1000005
     let e := s.jentry 0 0 3
     e.nextAt ≤ s.time ∧ e.firstAt = some 5 ∧ 5 + 1000000 ≤ s.time ∧ s.seatOf e.lid e.vcore ≠ none ∧
       (s.setJentry 0 0 3 { e with state := 3, reason := 3, phase := 0 }).residentHome e.lid e.vcore = some 0) := by decide +kernel
/-- An entry that ends beyond the buffer is refused, and its answer arrives. -/
theorem witness_PostedStores_refused : let e : JEntry := { lid := 1, state := 1, addr := 2 ^ 44 + 0x3FFFE, size := 4, data := 7 }
    (let s := pairOf (ctxOf []) [(3, e)]
     s.heldBack e = false ∧ s.pstVerdict e = some 1) ∧
    (let s := pairOf (ctxOf []) [(3, { e with phase := 4, verdict := 1 })]
     let e := s.jentry 0 0 3
     s.seatOf e.lid e.vcore ≠ none ∧ (s.setJentry 0 0 3 { e with state := 3, reason := 1, phase := 0 }).residentHome e.lid e.vcore = some 0) := by decide +kernel
theorem witness_StreamRegisters : let s := mach { ctxOf [] with q := [(1, ⟨true, 3⟩)] } { slotA with arrivals := [(3, [⟨upto, []⟩, ⟨0, []⟩])] }
    acts s (D1 0) ∧ holdsB s (F (.q 1) (.c 0) (.c 0) 0x800 7) false 7 ∧ ((s.ctx s.cur).getQ 1).bound = true ∧ ((s.ctx s.cur).getQ 1).queue.toNat = 3 ∧
      Sparse.get [] (s.slotOf s.cur).arrivals 3 = [⟨upto, []⟩, ⟨0, []⟩] ∧ holdsB s (F (.v 1) (.c 0) (.c 0) 0x800 3) false 3 :=
  ⟨acts0, holdsB0, by decide +kernel, by decide +kernel, by decide +kernel, holdsB0⟩

theorem okN {α β : Type} {x : α × Option β × Bool} (h : x.2 = (none, false) := by decide +kernel) : x = (x.1, none, false) := by cases x; simp_all
theorem witness_TlbLocksAndProbe : let s := memo; let f := F (.c 1) (.c 5) (.c 0) 0x800 0
    let c := ((s.ctx s.cur).getC 5).cap
    ∃ es, acts s f ∧ f.a = .c 5 ∧ ((s.ctx s.cur).getC 5).tag = true ∧ c.perm.testBit 6 = false ∧ c.perm.testBit 0 = true ∧ c.space = 0 ∧ c.off < c.len ∧
      tlbRegion (s.core 0) (fun _ => false) (c.base + c.len) 17 ((c.base + c.off) % 2 ^ 56) [] false = (es, none, false) ∧
      (Sparse.get {} (s.slotOf s.cur).locks 0).used = false ∧ (es.foldl NatSet.insert (s.slotOf s.cur).lockedEntries).length ≤ 16 ∧
      (es.foldl NatSet.insert (s.coreLocked 0)).length ≤ 96 :=
  ⟨_, acts0, rfl, by decide +kernel, by decide +kernel, by decide +kernel, by decide +kernel, by decide +kernel, okN, by decide +kernel, by decide +kernel, by decide +kernel⟩
/-- Every record in use: one more is FULL, and the last can be freed. -/
theorem witness_TlbLocksAndProbe_full : let s := mach (ctxOf []) { slotA with locks := (List.range 8).map (fun i => (i, ⟨true, 0, 0x1000, [1], none⟩)) }
    (∀ i < 8, (Sparse.get {} (s.slotOf s.cur).locks i).used = true) ∧ holdsB s (F (.c 1) (.c 5) (.c 0) 0x800 7) false 7 ∧
      holdsB s (F (.c 1) (.c 5) (.c 0) 0x800 8) false 8 := ⟨by decide +kernel, holdsB0, holdsB0⟩
/-- The service core of Fold 0 beside core 0, with an image in c2, a malformed one in c3, and one miss queued. -/
def filling : State := { memo with
  ctxs := [(0, ctxOf [(2, d 0x80010)]), (65536, { ctxOf [(2, ⟨false, page 0x100000⟩), (3, ⟨false, page 0x100000 + 0x200⟩)] with status := 0x82 })],
  slots := [(0, slotA), (2048 * 16, { slotA with lid := 0 })], folds := [(0, { missQueue := [⟨0x100000, 1⟩, ⟨0x180000, 1⟩] })] }
theorem witness_TlbInvalidateAndFill : let s := filling; let s' : State := { s with cur := 65536 }; let f := F (.c 1) (.c 2) (.c 0) 0x800 0xFFFF
    acts s f ∧ f.a = .c 2 ∧ isService (coreOf s.cur) = false ∧ isService (coreOf 65536) = true ∧ acts s' f ∧ ((s'.ctx 65536).getC 2).tag = false ∧ holdsB s' f false 0xFFFF ∧
      f.md.getLsbD 0 = false ∧ imgWellFormed ((s'.ctx 65536).getC 2).val.toNat = true ∧ imgValid ((s'.ctx 65536).getC 2).val.toNat = true ∧
      imgWellFormed ((page 0x100000).toNat - 2 ^ 16) = true ∧ imgValid ((page 0x100000).toNat - 2 ^ 16) = false ∧ (0xFFFF : Nat) % 2 ^ 16 ≠ 0 ∧ imgWellFormed ((s'.ctx 65536).getC 3).val.toNat = false ∧ ((s'.ctx 65536).getC 3).tag = false :=
  ⟨acts0, rfl, by decide +kernel, by decide +kernel, acts0, by decide +kernel, holdsB0, by decide +kernel, by decide +kernel, by decide +kernel, by decide +kernel, by decide +kernel, by decide, by decide +kernel, by decide +kernel⟩

def missA : Miss := { ctx := some 0, slot := 0, va := 0x123456, kind := 0 }
def missing (q : List MissEntry) (m : Miss) (time : Nat := 0) : State := { memo with cores := [(0, { misses := [m] })], folds := [(0, { missQueue := q })], time := time }
theorem witness_TranslationEvents :
    ((missing [] missA).missOf 0 0 (fun x => x.tried.isNone) = some missA) ∧
    (let q : List MissEntry := (List.range 64).map (fun i => ⟨(i + 8) * 2 ^ 19, 1⟩)
     let s := missing q { missA with tried := some 5 } 1005
     s.missOf 0 0 (fun x => match x.tried with | some t => decide (t + 1000 ≤ s.time) | none => false) = some { missA with tried := some 5 } ∧
       (s.fold 0).missQueue.length = 64 ∧ ∀ e ∈ (s.fold 0).missQueue, e.key ≠ missA.va / 2 ^ 19 * 2 ^ 19) ∧
    (let e : FaultEntry := { used := true, lid := 1, kind := 1, va := 0x123456 }
     let s : State := { memo with folds := [(0, { faults := [(3, e)] })] }
     (Sparse.get {} (s.fold 0).faults 3).used = true ∧ (Sparse.get {} (s.fold 0).faults 3).kind = 1 ∧ (Sparse.get {} (s.fold 0).faults 3).noticed = false ∧ s.faulterSlot (Sparse.get {} (s.fold 0).faults 3) = some 0 ∧ (s.slot 0).ended = false ∧ (s.slot 0).inboxRoom = true ∧
       e.core = 0 ∧ e.slot = 0 ∧ e.lid = (s.slot (slotKey 0 0)).lid ∧ e.vcore = (s.slot (slotKey 0 0)).vcore ∧ (BitVec.ofNat 64 3).toNat % 256 = 3) := by decide +kernel
theorem witness_TranslationEvents_counts : let s : State := { memo with cores := [(0, { pageCounts := [(5, 64)] })], drovers := [(0, { regs := [(0x270, 2), (0x288, 64)] })] }
    (maskCores 0 0xFFFF).find? (fun c => decide (64 ≤ Sparse.get 0 (s.core c).pageCounts 5)) = some 0 ∧ s.pageReg 0 0x288 % 2 ^ 32 ≠ 0 ∧
      s.pageReg 0 0x288 % 2 ^ 32 ≤ (Sparse.get {} (s.fold 0).pages 5).count + 64 ∧ (Sparse.get {} (s.fold 0).pages 5).queued = false ∧
      (s.pageReg 0 0x270 + 2 ^ 32 - s.pageReg 0 0x278) % 2 ^ 32 ≠ 1024 ∧ s.serving = true ∧ 0 < s.paddocks ∧ s.paddockOfFold 0 = 0 ∧
      tailOk (s.pageReg 0 0x270) (s.pageReg 0 0x278) ((2 : Word64).toNat % 2 ^ 32) = true ∧ memo.pageReg 0 0x288 % 2 ^ 32 = 0 ∧
      (Sparse.get {} (s.fold 0).pages 5).count + 64 < ({ s with drovers := [(0, { regs := [(0x288, 65)] })] } : State).pageReg 0 0x288 % 2 ^ 32 := by decide +kernel

/-- An instruction at 0x80000. -/
def code (s : State) (i : Instr) : State := { s with
  mem := (List.range 12).map (fun j => (0x80000 + j, BitVec.ofNat 8 ((encode i).toNat / 256 ^ j))) |>.filter (fun c => c.2 ≠ 0) }
/-- A release of AGENT MODULE over ALL storage by core 16, whose clock knows interval 4 of vcore 9. -/
def released : State := { memo [(1, d 7), (2, d 5), (3, d 7)] (cells 0 [7]) with syncs := [⟨0, 4, 16, 0, 5, 4, [(clockKey 1 9, 4)], false, false⟩] }
def ordL : Fields := F (.c 1) (.c 5) (.c 2) 0x322 0
theorem witness_AcquireAndRelease : let s := released; let f := { ordL with md := 0x32A }
    (∃ u l, acts s f ∧ f.ty < 10 ∧ freeToSync s f 1 ∧ syncAt s 0x240 4 f true false false u l ∧
      (∃ r ∈ s.syncs, overlaps r.addr r.size l.key 4 = true ∧ r.counted = false ∧ coversGlobal r.storage = true ∧ coversGlobal (f.md.toNat % 8) = true ∧
        s.inScope r.agent r.core r.slot 0 0 = true ∧ s.inScope (f.md.toNat / 8 % 8) 0 0 r.core r.slot = true)) ∧
    (let f := F (.c 5) (.c 2) (.c 0) 0x32A 8
     ∃ u l, acts s f ∧ freeToSync s f 1 ∧ holds s f.a 5 ∧ syncAt s 0x241 4 f false true false u l ∧ (s.ctx s.cur).stream = none ∧ s.pstOutstanding s.cur = false) ∧
    (∃ u l, f.ty < 8 ∧ holds s f.b 5 ∧ syncAt s 0x246 4 f true false false u l ∧ le s l.key 4 ≠ 5 % 2 ^ 32) ∧
    (let f := { f with b := .c 3 }
     ∃ u l, holds s f.b 7 ∧ syncAt s 0x246 4 f true false false u l ∧ le s l.key 4 = 7 % 2 ^ 32 ∧ s.poisoned l 4 = false) ∧
    (let f := F (.c 0) (.c 0) (.c 0) 0x82A 0x300000
     acts s f ∧ freeToSync s f 2 ∧ f.imm.getLsbD 20 = true ∧ f.imm.getLsbD 21 = true) :=
  ⟨⟨_, _, acts0, by decide +kernel, by unfold freeToSync; decide +kernel, ⟨okA, by decide +kernel⟩, by decide +kernel⟩,
   ⟨_, _, acts0, by unfold freeToSync; decide +kernel, holds0, ⟨okA, by decide +kernel⟩, by decide +kernel, by decide +kernel⟩,
   ⟨_, _, by decide +kernel, holds0, ⟨okA, by decide +kernel⟩, by decide +kernel⟩,
   ⟨_, _, holds0, ⟨okA, by decide +kernel⟩, by decide +kernel, by decide +kernel⟩, acts0, by unfold freeToSync; decide +kernel, by decide +kernel, by decide +kernel⟩
theorem witness_AcquireAndRelease_polls :
    (let s := code (mach { ctxOf [] with waitFrom := some 0 }) (.waitm ordL)
     s.takesPending 0 = false ∧ s.waitingAt 0 = some (.waitm ordL)) ∧
    (let s := code (mach { ctxOf [] with waitFrom := some 0 }) (.cwait { ordL with md := 0 })
     s.takesPending 0 = false ∧ s.waitingAt 0 = some (.cwait { ordL with md := 0 })) ∧
    (let s := code (pairOf { ctxOf [(5, mkCap 5 0x0B (2 ^ 44) 0x1000)] with blocked := some 0 }) (.lda { ordL with b := .c 0 })
     s.mayIssue 0 = true ∧ (s.ctx 0).blocked.isSome = true ∧ okIs (s.nextInstr 0) (.lda { ordL with b := .c 0 }) = true ∧ (s.capOpnd ordL.a).cap.space = 5 ∧ (s.ctx 0).hintsMet ordL.hint = true) := by decide +kernel
theorem witness_Atomics : let s := released
    (∃ u l, acts s ordL ∧ ordL.ty < 9 ∧ freeToSync s ordL (syncCount ordL) ∧ holds s ordL.b 5 ∧ ordL.imm.getLsbD 21 = false ∧ syncAt s 0x242 4 ordL true true false u l) ∧
    (let hit (x : Loc) : Bool := s.read x.key 4 == 7 % 2 ^ 32
     ∃ u l, holds s ordL.d 7 ∧ memAccessIf s s.cur (syncReq 0x243 2 ordL.a 4 true true false) (s.capOpnd ordL.a) (ordOff ordL) false false hit = .ok (u, l) ∧
       (u.noteAccess s.cur l 2).poisoned l 4 = false ∧ le s l.key 4 = 7 % 2 ^ 32) ∧
    (let hit (x : Loc) : Bool := s.read x.key 4 == 5 % 2 ^ 32
     ∃ u l, holds s { ordL with d := Opnd.c 2 }.d 5 ∧ memAccessIf s s.cur (syncReq 0x243 2 ordL.a 4 true true false) (s.capOpnd ordL.a) (ordOff ordL) false false hit = .ok (u, l) ∧
       (u.noteAccess s.cur l 2).poisoned l 4 = false ∧ le s l.key 4 ≠ 5 % 2 ^ 32) :=
  ⟨⟨_, _, acts0, by decide +kernel, by unfold freeToSync; decide +kernel, holds0, by decide +kernel, okA, by decide +kernel⟩,
   ⟨_, _, holds0, okA, by decide +kernel, by decide +kernel⟩, _, _, holds0, okA, by decide +kernel, by decide +kernel⟩
theorem witness_Atomics_capability : let s := memo [(1, d 7), (2, mkCap 1 3 0 64)] (cells (inL 0) [7]); let f := F (.c 1) (.c 4) (.c 2) 0x321 0
    let new := (s.ctx s.cur).getC 2
    let old (x : Loc) : CReg := ⟨x.tags && s.tagAt x.key, BitVec.ofNat 128 (le s x.key 16)⟩
    ∃ u l, acts s f ∧ freeToSync s f (syncCount f) ∧ memAccessIf s s.cur { syncReq 0x244 2 f.a 16 true true true with noW := !new.tag } (s.capOpnd f.a) (ordOff f) new.tag
        (new.cap.perm.testBit 4) (fun x => old x == (s.ctx s.cur).getC 1) = .ok (u, l) ∧
      (u.noteAccess s.cur l 2).poisoned l 16 = false ∧ l.key % 16 = 0 ∧ old l = (s.ctx s.cur).getC 1 :=
  ⟨_, _, acts0, by unfold freeToSync; decide +kernel, okA, by decide +kernel, by decide +kernel, by decide +kernel⟩

/-- Vcores 0 and 1 of a launch of two, which run on cores 0 and 1; core 0 maps two pages. -/
def team (c : Ctx := ctxOf []) (l0 l1 : Slot := slotA) (mem : List Host.Cell := []) (cy : Sparse Cycle := []) (time : Nat := 0) : State :=
  { mach c with slots := [(0, l0), (16, { l1 with vcore := 1, wid := 1 })], gangs := [(1, { gangA with vcores := 2, span := 1, widths := [1], extents := [2] })],
                mem := mem, cycles := cy, time := time }
def hurdleF (j : BitVec 32) : Fields := F (.c 0) (.c 0) (.c 0) 0x800 j
theorem mayArrive0 {s : State} (h : ((s.slotOf s.cur).coll = none ∧ (s.slotOf s.cur).interval + 2 ≤ (s.slotOf s.cur).hurdleInterval + 2 ^ 17 ∧
    (isDrain s.cur = true ∨ s.pstOutstanding s.cur = false) ∧
    s.seatOf (s.slotOf s.cur).lid (s.slotOf s.cur).vcore = some (s.slotKeyOf s.cur)) := by decide +kernel) : mayArrive s := h
theorem participant0 {c : Cycle} {lid v : Nat} (h : ((c.phase = 2 ∨ c.phase = 3) ∧ c.lid = lid ∧ cyVfirst c.desc ≤ v ∧ v ≤ cyVfirst c.desc + cyVcm1 c.desc) := by decide +kernel) :
    participant c lid v := h
theorem witness_Hurdles :
    (let s := two 0 0
     acts s (hurdleF 0) ∧ mayArrive s ∧ (hurdleF 0).imm.toNat % 8 = 0 ∧ (s.gang (s.slotOf s.cur).lid).span = 0) ∧
    (let s := team (ctxOf []) slotA { slotA with ended := true }; let g := s.gang (s.slotOf s.cur).lid
     acts s (hurdleF 1) ∧ mayArrive s ∧ 1 ≤ g.span ∧ g.hurdles = [] ∧ (s.slotOf s.cur).vcore < g.vcores ∧ (s.vcoreSlot 1 1).ended = true) ∧
    (let s := team; let g := s.gang (s.slotOf s.cur).lid
     acts s (hurdleF 1) ∧ mayArrive s ∧ g.hurdles = [] ∧ 1 < g.vcores ∧ 1 / (g.extents.take 1).prod = (s.slotOf s.cur).vcore / (g.extents.take 1).prod ∧ 1 ∉ g.retired ∧
       (s.vcoreSlot 1 1).ended = false ∧
       (s.vcoreSlot 1 1).wid.toNat / 2 ^ (g.widths.take g.span).sum ≤ (s.slotOf s.cur).wid.toNat / 2 ^ (g.widths.take g.span).sum) ∧
    (let c : Coll := { op := 1, which := 1, instanceNo := 0 }
     let s := team (ctxOf []) { slotA with coll := some c }; let s' := team (ctxOf []) { slotA with coll := some { c with answer := some 0, clock := [(clockKey 1 1, 5)] } }
     c.op = 1 ∧ c.which = (hurdleF 1).imm.toNat % 8 ∧ c.check = none ∧ acts s (hurdleF 1) ∧ (s.slotOf s.cur).coll = some c ∧ acts s' (hurdleF 1) ∧ (s'.slotOf s'.cur).coll = some { c with answer := some 0, clock := [(clockKey 1 1, 5)] }) :=
  ⟨⟨acts0, mayArrive0, by decide +kernel, by decide +kernel⟩, ⟨acts0, mayArrive0, by decide +kernel⟩,
   ⟨acts0, mayArrive0, by decide +kernel⟩, rfl, by decide +kernel, rfl, acts0, rfl, acts0, rfl⟩
def counting : State := memo [(2, d 5), (3, d 8)] (cells 8 [7])
theorem witness_CountedWaits : let s := counting
    (let f := F (.c 5) (.c 0) (.c 2) 0 8
     ∃ u l, acts s f ∧ holds s f.b 5 ∧ (s.slotOf s.cur).interval + 1 ≤ (s.slotOf s.cur).hurdleInterval + 2 ^ 17 ∧ s.pstOutstanding s.cur = false ∧ (s.ctx s.cur).stream = none ∧
       access s { syncReq 0x281 1 f.d 8 true true false with al := 8 } f.d (offs f) false false u l ∧ (u.noteAccess s.cur l 2).poisoned l 8 = false) ∧
    (let f := F (.c 1) (.c 5) (.c 2) 0 8
     ∃ u l, holds s f.b 5 ∧ access s (syncReq 0x282 2 f.a 8 true false false) f.a (offs f) false false u l ∧ 5 ≤ le s l.key 8 ∧ (u.noteAccess s.cur l 0).poisoned l 8 = false) ∧
    (let f := F (.c 1) (.c 5) (.c 3) 0 8
     ∃ u l, holds s f.b 8 ∧ access s (syncReq 0x282 2 f.a 8 true false false) f.a (offs f) false false u l ∧ le s l.key 8 < 8 ∧ s.poisoned l 8 = false) ∧
    (let s := mach { ctxOf [] with sb := [(1, 1)] }; let f := F (.c 0) (.c 0) (.c 0) 0x841 1
     (s.ctx s.cur).getSb (f.md.toNat % 8) ≤ f.imm.toNat ∧ { f with imm := 0 }.imm.toNat < (s.ctx s.cur).getSb (f.md.toNat % 8)) :=
  ⟨⟨_, _, acts0, holds0, by decide +kernel, by decide +kernel, by decide +kernel, okA, by decide +kernel⟩, ⟨_, _, holds0, okA, by decide +kernel, by decide +kernel⟩,
   ⟨_, _, holds0, okA, by decide +kernel, by decide +kernel⟩, by decide +kernel⟩

/-- The bytes of doublewords. -/
def dws (ws : List Nat) : List Nat := ws.flatMap (fun w => (List.range 8).map (fun i => w / 256 ^ i % 256))
/-- LIMIT 3, TOL 2^-10, with VCM1 `m`. -/
def cyWords (m : Nat) : List Nat := [m * 2 ^ 48 + 3 * 2 ^ 8, 0x3A800000]
def cyDesc (m : Nat) : BitVec 512 := BitVec.ofNat 512 (0x3A800000 * 2 ^ 64 + m * 2 ^ 48 + 3 * 2 ^ 8)
def cyF : Fields := F (.c 1) (.c 5) (.c 0) 0x800 0
def opening (m : Nat) (cy : Sparse Cycle := []) : State := team (ctxOf [(1, d 7), (5, mkCap 0 0x0B 0 0x1000)]) slotA slotA (cells 0 (dws (cyWords m))) cy
theorem witness_CycleContexts : ∀ m ∈ [0, 1], let s := opening m
    ∃ u l, acts s cyF ∧ mayArrive s ∧
      access s { op := 0x290, field := 2, opnd := cyF.a, n := 64, al := 64, ld := true, st := false, spaces := [0, 1] } cyF.a (offs cyF) false false u l ∧
      (u.noteAccess s.cur l 0).poisoned l 64 = false ∧ named s cyF = {} ∧
      (let d := BitVec.ofNat 512 (le s l.key 64)
       d = cyDesc m ∧ cyVfirst d ≤ 0 ∧ 0 ≤ cyVfirst d + cyVcm1 d ∧ (s.gang 1).vcores > cyVfirst d + cyVcm1 d ∧ (s.gang 1).retired = [] ∧ 1 ≤ cyLimit d ∧
         fld (dw d 0) 60 4 = 0 ∧ fld (dw d 0) 24 12 = 0 ∧ fld (dw d 0) 0 8 = 0 ∧ cyTol d < 0x7F800000 ∧ cyDivf d = 0 ∧ dw d 2 = 0 ∧ dw d 3 = 0 ∧ dw d 4 = 0 ∧
         dw d 5 = 0 ∧ dw d 6 = 0 ∧ dw d 7 = 0 ∧ (s.heldLocks (pad s)).length ≤ 1024 ∧ cyVcm1 d = m) := by
  have h : ∀ m ∈ [0, 1], let s := opening m; let x := okD noLoc (memAccess s s.cur { op := 0x290, field := 2, opnd := cyF.a, n := 64, al := 64, ld := true, st := false, spaces := [0, 1] }
      (s.capOpnd cyF.a) (offs cyF) false false)
    s.guardBit cyF 0 = true ∧ ((s.slotOf s.cur).coll = none ∧ (s.slotOf s.cur).interval + 2 ≤ (s.slotOf s.cur).hurdleInterval + 2 ^ 17 ∧
    (isDrain s.cur = true ∨ s.pstOutstanding s.cur = false) ∧ s.seatOf (s.slotOf s.cur).lid (s.slotOf s.cur).vcore = some (s.slotKeyOf s.cur)) ∧
      isOk (memAccess s s.cur { op := 0x290, field := 2, opnd := cyF.a, n := 64, al := 64, ld := true, st := false, spaces := [0, 1] } (s.capOpnd cyF.a) (offs cyF) false false) = true ∧
      (x.1.noteAccess s.cur x.2 0).poisoned x.2 64 = false ∧ named s cyF = {} ∧
      (let d := BitVec.ofNat 512 (le s x.2.key 64)
       d = cyDesc m ∧ cyVfirst d ≤ 0 ∧ 0 ≤ cyVfirst d + cyVcm1 d ∧ (s.gang 1).vcores > cyVfirst d + cyVcm1 d ∧ (s.gang 1).retired = [] ∧ 1 ≤ cyLimit d ∧
         fld (dw d 0) 60 4 = 0 ∧ fld (dw d 0) 24 12 = 0 ∧ fld (dw d 0) 0 8 = 0 ∧ cyTol d < 0x7F800000 ∧ cyDivf d = 0 ∧ dw d 2 = 0 ∧ dw d 3 = 0 ∧ dw d 4 = 0 ∧
         dw d 5 = 0 ∧ dw d 6 = 0 ∧ dw d 7 = 0 ∧ (s.heldLocks (pad s)).length ≤ 1024 ∧ cyVcm1 d = m) := by decide +kernel
  intro m hm
  have ⟨a, b, c, r⟩ := h m hm
  exact ⟨_, _, a, b, okA c, r⟩
/-- The other answers: a context that is open, an issuer that no descriptor names, a count above the launch; and what closes. -/
theorem witness_CycleContexts_answers :
    (named (opening 1 [(0, { phase := 2 })]) cyF).phase = 2 ∧ ¬(cyVfirst (cyDesc 0 + 2 ^ 36) ≤ 0) ∧ (2 : Nat) ≤ cyVfirst (cyDesc 2) + cyVcm1 (cyDesc 2) ∧
    (let s := opening 1 [(0, { phase := 2, lid := 1, desc := cyDesc 1 }), (1, { phase := 2, desc := 1 })]
     (s.slotOf s.cur).coll = none ∧ participant (named s cyF) 1 0 ∧ (s.cycle (pad s) 1).phase = 2 ∧ cyDir (s.cycle (pad s) 1).desc = true ∧ cyFwd (s.cycle (pad s) 1).desc = cyF.md.toNat % 8) ∧
    (let s := opening 1 [(0, { phase := 3, lid := 1, desc := cyDesc 1, closing := [1] })]
     acts s cyF ∧ mayArrive s ∧ participant (named s cyF) 1 0 ∧ (∀ i < 8, cyDir (s.cycle (pad s) i).desc = false) ∧ cyVcm1 (cyDesc 1) = 1 ∧ 1 ∈ (named s cyF).closing) :=
  ⟨by decide +kernel, by decide +kernel, by decide +kernel, ⟨by decide +kernel, participant0, by decide +kernel, by decide +kernel, by decide +kernel⟩,
   acts0, mayArrive0, participant0, by decide +kernel, by decide +kernel, by decide +kernel⟩
def cycling (ph : Nat) (arrived : List Nat) : State := team (ctxOf [(2, d 0x3F800000)]) slotA slotA [] [(0, { phase := ph, lid := 1, desc := cyDesc 1, arrived := arrived })]
def stepF : Fields := F (.g 1) (.c 2) (.c 0) 0x800 0
theorem witness_CycleSteps :
    (∀ ph ∈ [2, 3], (cycling ph [1]).guardBit stepF 0 = true) ∧ holds (cycling 2 [1]) stepF.a 0x3F800000 ∧ holds (cycling 3 []) stepF.a 0x3F800000 ∧
    participant (named (cycling 2 [1]) stepF) 1 0 ∧ participant (named (cycling 3 []) stepF) 1 0 ∧ (named (cycling 2 [1]) stepF).phase = 2 ∧
    (named (cycling 3 []) stepF).phase = 3 ∧ mayArrive (cycling 2 [1]) ∧ cyVcm1 (cyDesc 1) = 1 ∧ 1 ∈ (named (cycling 2 [1]) stepF).arrived ∧
    mayArrive (cycling 2 []) ∧ participant (named (cycling 2 []) stepF) 1 0 ∧ 1 ∉ (named (cycling 2 []) stepF).arrived ∧
    (cycling 0 []).entersTraps ∧ ¬participant (named (cycling 0 []) stepF) 1 0 :=
  ⟨by decide +kernel, holds0, holds0, participant0, participant0, by decide +kernel, by decide +kernel, mayArrive0, by decide +kernel, by decide +kernel, mayArrive0, participant0,
   by decide +kernel, enters0, by unfold participant; decide +kernel⟩
theorem witness_CycleSteps_deadline : let s := team (ctxOf []) slotA slotA [] [(0, { phase := 2, lid := 1, desc := cyDesc 0 + 0x40 + 5 * 2 ^ 128 })] 5; let c := s.cycle 0 0
    c.phase = 2 ∧ cyHard c.desc = true ∧ 0 < cyDeadline c.desc ∧ cyDeadline c.desc ≤ s.time ∧ cyVcm1 c.desc = 0 ∧ cyVfirst c.desc = 0 ∧ 0 ∉ (s.gang c.lid).retired ∧
      s.seatOf c.lid 0 = some 0 ∧ (s.slot 0).live = true ∧ (s.slot 0).resident = true ∧ (∀ x ∈ (s.drover 0).exchanges, x.lid ≠ c.lid) := by decide +kernel

/-- Core 0 with its TLB. -/
def core0 (c : Core) (mem : List Host.Cell := []) (l : Slot := slotA) (x : Ctx := ctxOf []) (time : Nat := 0) : State :=
  { mach x l with cores := [(0, { c with tlb := [(0, page 0x80000), (1, page 0)] })], mem := mem, time := time }
/-- A command record of up to eight doublewords. -/
def recd (ws : List Nat) : BitVec 512 := BitVec.ofNat 512 (ws.foldr (fun w acc => acc * 2 ^ 64 + w) 0)
def forkF : Fields := F (.c 1) (.c 5) (.c 0) 0x800 0
def forking (ws : List Nat) (l : Slot := slotA) : State := core0 {} (cells 0 (dws ws)) l (ctxOf [(5, mkCap 0 0x0B 0 0x1000)])
/-- A FORK block with nothing named; one that names two lists, free and with one of them active. -/
theorem witness_ForkAndInbox : let rq : Req := { op := 0x300, field := 2, opnd := forkF.a, n := 32, al := 32, ld := true, st := false, spaces := [0, 1] }
    (∀ p ∈ [forking [0x40], forking [2 ^ 63 + 0x40, 2 ^ 63], forking [2 ^ 63 + 0x40, 2 ^ 63] { slotA with forks := [(1, { active := true })] }],
      p.guardBit forkF 0 = true ∧ isOk (memAccess p p.cur rq (p.capOpnd forkF.a) (offs forkF) false false) = true ∧
      (let x := okD noLoc (memAccess p p.cur rq (p.capOpnd forkF.a) (offs forkF) false false); (x.1.noteAccess p.cur x.2 0).poisoned x.2 32 = false)) ∧
    (let s := forking [2 ^ 63 + 0x40, 2 ^ 63]; let x := okD noLoc (memAccess s s.cur rq (s.capOpnd forkF.a) (offs forkF) false false)
     le (x.1.noteAccess s.cur x.2 0) x.2.key 32 = 2 ^ 127 + 2 ^ 63 + 0x40 ∧ (Sparse.get {} (s.slotOf s.cur).forks 0).active = false ∧
       (Sparse.get {} (s.slotOf s.cur).forks 1).active = false) ∧
    (∃ e ∈ ((forking [] { slotA with forks := [(1, { active := true })] }).slotOf 0).forks, e.2.active = true) ∧ (∀ e ∈ ((forking []).slotOf 0).forks, e.2.active = false) ∧
    ((forking []).slotOf 0).inbox = [] ∧ ((forking []).ctx 0).detlvl = 0 ∧ ((forking []).ctx 0).waitFrom = none := by decide +kernel
theorem witness_ForkAndInbox_inbox : let s := core0 {} [] { slotA with inbox := [⟨42, [(clockKey 1 9, 4)]⟩] }; let f := F (.c 1) (.c 0) (.c 0) 0x800 0
    acts s f ∧ (s.slotOf s.cur).inbox = [⟨42, [(clockKey 1 9, 4)]⟩] ∧ (s.slotOf s.cur).held = [] ∧ holdsB s f false 0 := ⟨acts0, rfl, rfl, holdsB0⟩
theorem witness_ForkAndInbox_timeout : let f := F (.g 1) (.c 0) (.c 0) 0x800 5; let s := { code (mach { ctxOf [] with waitFrom := some 3 }) (.inwait f) with time := 8 }
    s.waitingAt 0 = some (.inwait f) ∧ (s.ctx 0).detlvl = 0 ∧ holdsB { s with cur := 0 } f false 5 ∧ (s.ctx 0).waitFrom = some 3 ∧ 3 + 5 ≤ s.time :=
  ⟨by decide +kernel, by decide +kernel, holdsB0, by decide +kernel, by decide +kernel⟩

/-- The list of the copy engine at the head of its queue: its capability covers `n` bytes of L, and `ws` stand there. -/
def listed (n : Nat) (ws : List Nat) (x : EngineState := {}) : State :=
  core0 { copy := { x with queue := [.list 0] } } (cells (inL 0) (dws ws)) { slotA with forks := [(0, { active := true, cap := mkCap 1 0x0B 0 n })] }
theorem buffer0 {s : State} {core space a n : Nat} (h : (1 ≤ space ∧ space ≤ 4 ∧ a + n ≤ (match space with | 2 => 768 * 1024 | 3 => 1024 * 1024 | _ => 256 * 1024) ∧
    ∀ w ∈ s.poison, ¬(w * 8 < placeKey space core a + n ∧ placeKey space core a < w * 8 + 8)) := by decide +kernel) : buffer s core space a n := h
theorem witness_ListsAndCompletions :
    (∀ p ∈ [listed 63 [], listed 64 [], listed 64 [0x12], listed 64 [0x10, 0, 0, 1]], (p.engine 0 .copy).queue = [.list 0] ∧ (p.engine 0 .copy).frozen = false ∧ p.halting (slotKey 0 0) = false) ∧
    (Sparse.get {} ((listed 63 []).slot 0).forks 0).cap.cap.len < 64 ∧ buffer (listed 64 []) 0 1 0 64 ∧
    le (listed 64 []) (placeKey 1 0 0) 64 = 0 ∧ ((listed 64 []).engine 0 .copy).run = none ∧
    le (listed 64 [0x12]) (placeKey 1 0 0) 64 = 0x12 ∧ isGroup .copy (BitVec.ofNat 512 0x12) = false ∧ ((listed 64 [0x12]).core 0).quarantined = false ∧
    isOk (checkCommand (listed 64 [0x12]) 0 0 .copy (BitVec.ofNat 512 0x12)) = true ∧ ((listed 64 [0x12]).core 0).ranges.length ≤ 0 ∧
    isOk (checkCommand (listed 64 [0x10, 0, 0, 1]) 0 0 .copy (BitVec.ofNat 512 (le (listed 64 [0x10, 0, 0, 1]) (placeKey 1 0 0) 64))) = false :=
  ⟨by decide +kernel, by decide +kernel, buffer0, by decide +kernel⟩
theorem witness_ListsAndCompletions_entries : let c : Cmd := { id := 1, lid := 1, record := 0x12 }
    (let s := core0 { copy := { done := [{ cmd := c, entry := 5, cause := 0x0F, tval := 9 }] } }
     (s.engine 0 .copy).done = [{ cmd := c, entry := 5, cause := 0x0F, tval := 9 }] ∧ (s.engine 0 .copy).frozen = false ∧ (s.slot (slotKey 0 0)).inboxRoom = true ∧
       (s.slot (slotKey 0 0)).resident = true) ∧
    (let s := core0 { copy := { queue := [.cmd { c with status := 0x10 }] } }; let x := s.engine 0 .copy
     x.done = [] ∧ x.frozen = false ∧ x.run = none ∧ x.parts = [] ∧ x.queue = [.cmd { c with status := 0x10 }]) := by decide +kernel

theorem atHead0 {s : State} {core : Nat} {e : Engine} {c : Cmd} {q : List QItem} (h : (let x := s.engine core e
    x.frozen = false ∧ x.run = none ∧ x.done = [] ∧ x.queue = .cmd c :: q ∧ c.status = 0 ∧ (s.core core).rangesClear c.id e = true ∧
    s.halting (slotKey c.issuer c.slot) = false) := by decide +kernel) : atHead s core e c q := h
/-- A copy of 64 bytes of L to 0x100, and one of 8 KiB. -/
def copyCmd (n notBefore : Nat) : Cmd := { id := 1, lid := 1, record := recd [0x30010, 0, 0x2000, n, notBefore], regions := [⟨1, 0, n, false⟩, ⟨1, 0x2000, n, true⟩] }
def copying (n notBefore time : Nat) : State := core0 { copy := { queue := [.cmd (copyCmd n notBefore)] } } (cells (inL 0) [1, 2, 3, 4]) slotA (ctxOf []) time
theorem test_copy : (match exec (.copy 0) (copying 64 0 0) with
    | .next t => some (le t (inL 0x2000) 4, (t.engine 0 .copy).done.map (·.entry)) | _ => none) = some (0x04030201, [0x4000020003]) := by decide +kernel
theorem witness_CopyEngine : ∀ p ∈ [((64 : Nat), (0 : Nat)), (0x2000, 5)], let c := copyCmd p.1 p.2; let s := copying p.1 p.2 5
    atHead s 0 .copy c [] ∧ kindOf c = 0x10 ∧ c.progress = 0 ∧ c.forked = false ∧ c.record.toNat / 2 ^ 256 % 2 ^ 64 ≤ s.time ∧ buffer s 0 1 0 p.1 ∧ buffer s 0 1 0x2000 p.1 := by
  unfold atHead buffer; decide +kernel
/-- Two blocks of 64 bytes of global memory to L, at cores 0 and 1. -/
def dealCmd : Cmd := { id := 1, lid := 1, record := recd [0x11, 0, 2 ^ 56 + 0x40, 128, 2 ^ 24 * 2 + 2 ^ 20 + 1, 3] }
def dealing : State := { core0 { copy := { queue := [.cmd dealCmd] } } (cells 0 [1, 2, 3, 4]) slotA (ctxOf []) 3 with slots := [(0, slotA), (16, { slotA with vcore := 1 })] }
theorem test_deal_second_block_follows : (match exec (.deal 0) dealing with
    | .next t => some (le t (inL 0x40) 4, (t.engine 0 .copy).run.map (·.count)) | _ => none) = some (0x04030201, some 64) := by decide +kernel
theorem witness_CopyEngine_deal : let c := dealCmd; let s := dealing; let dw (i : Nat) : Nat := c.record.toNat / 2 ^ (64 * i) % 2 ^ 64
    ∃ bs u, atHead s 0 .copy c [] ∧ kindOf c = 0x11 ∧ c.progress = 0 ∧ c.forked = false ∧ dw 5 ≤ s.time ∧ 64 * (dw 4 % 2 ^ 16) = 64 ∧ dw 3 % 2 ^ 32 = 128 ∧ 1 ≤ dw 4 / 2 ^ 24 % 32 ∧
      dealTargetsOk s 0 c = true ∧ buffer s 0 (dw 2 / 2 ^ 56 % 16) (c.slot * s.shareSize 1 + dw 2 % 2 ^ 56) 64 ∧
      engReadRange (s.startCmd 0 .copy c) 0 .copy c 0 (dw 1 % 2 ^ 56) 64 = .ok (u, bs) ∧ bs.length = 64 ∧ dw 5 ≠ 0 :=
  ⟨_, _, atHead0, by decide +kernel, by decide +kernel, by decide +kernel, by decide +kernel, by decide +kernel, by decide +kernel, by decide +kernel, by decide +kernel, buffer0,
   okP ({}, []), by decide +kernel, by decide +kernel⟩
/-- A CMARK with CANCEL over tags that agree in their low byte, behind a copy with tag 0x103, and one with tag 0x104. -/
def cancelCmd : Cmd := { id := 2, lid := 1, record := recd [0x90212, 2 ^ 16 * 0xFF + 3] }
theorem witness_CopyEngine_marks : let c (tag : Nat) : Cmd := { id := 1, lid := 1, record := recd [0x10 + tag * 2 ^ 16] }
    atHead (core0 { copy := { queue := [.cmd cancelCmd] } }) 0 .copy cancelCmd [] ∧ kindOf cancelCmd = 0x12 ∧ cancelCmd.forked = false ∧ cancelCmd.status = 0 ∧ cancelCmd.slot = 0 ∧
    cancelCmd.record.getLsbD 9 = true ∧
    (∀ t ∈ [0x103, 0x104], ((core0 { copy := { queue := [.cmd (c t), .cmd cancelCmd] } }).engine 0 .copy).queue = [.cmd (c t), .cmd cancelCmd] ∧ (c t).id ≠ cancelCmd.id ∧
      kindOf (c t) ≠ 0x12 ∧ (c t).slot = 0 ∧ (c t).status = 0) ∧
    (let mask := cancelCmd.record.toNat / 2 ^ 80 % 2 ^ 16
     tagOf (c 0x103) &&& mask = (cancelCmd.record.toNat / 2 ^ 64 % 2 ^ 16) &&& mask ∧ tagOf (c 0x104) &&& mask ≠ (cancelCmd.record.toNat / 2 ^ 64 % 2 ^ 16) &&& mask) :=
  ⟨atHead0, by decide +kernel⟩
theorem witness_CopyEngine_host : let c : Cmd := { id := 1, lid := 1, record := 0x10, regions := [⟨0, 0, 64, false⟩, ⟨1, 0x100, 64, true⟩] }; let r : Run := { cmd := c }
    let s : State := { core0 {} with cores := [(0, { copy := { run := some r }, tlb := [(0, page 0 + BitVec.ofNat 128 (2 ^ 115))] })] }
    (s.engine 0 .copy).run = some r ∧ (s.engine 0 .copy).done = [] ∧ kindOf r.cmd = 0x10 ∧ r.cmd.forked = false ∧ s.inHostTier 0 (0 + r.count) = true := by decide +kernel

/-- A table entry (R49). -/
def tens (kind space base p dp cols rows rstride pstride : Nat) (sfmt sspace scale : Nat := 0) : BitVec 256 :=
  BitVec.ofNat 256 (base + space * 2 ^ 56 + kind * 2 ^ 60 + scale * 2 ^ 64 + sspace * 2 ^ 124 + rows * 2 ^ 128 + cols * 2 ^ 148 + sfmt * 2 ^ 170 + dp * 2 ^ 176 + p * 2 ^ 180 +
    rstride * 2 ^ 192 + pstride * 2 ^ 224)
/-- F32 1, −2, 3.5 and 100 at 0 in L; four signed planes at 0x100 with one FP32 scale per row at 0x200. -/
def floats4 : List Nat := [0, 0, 0x80, 0x3F, 0, 0, 0, 0xC0, 0, 0, 0x60, 0x40, 0, 0, 0xC8, 0x42]
def quantSlot : Slot := { slotA with tensors := [(0, tens 5 1 0 0 0 4 1 16 0), (1, tens 1 1 0x100 4 4 4 1 4 64 1 1 0x200), (2, tens 3 1 0x300 0 0 4 1 4 0)] }
def quantCmd (kind a b : Nat) : Cmd := { id := 1, lid := 1, record := recd [kind, b * 2 ^ 16 + a, 2 ^ 20] }
def quanting (kind a b : Nat) : State := core0 { quant := { queue := [.cmd (quantCmd kind a b)] } }
  (cells (inL 0) floats4 ++ cells (inL 0x100) [2] ++ cells (inL 0x140) [14] ++ cells (inL 0x180) [10] ++ cells (inL 0x1C0) [9] ++ cells (inL 0x200) [0, 0, 0x80, 0x3F]) quantSlot
/-- By hand: 1, −2, 4 (3.5 to even) and 7 (100 saturates) as planes of 4 bits, the most significant first: 0010, 1110, 1010, 1001; status 1. -/
theorem test_qpack : (match exec (.qpack 0) (quanting 0x21 0 1) with
    | .next t => some ([0x100, 0x140, 0x180, 0x1C0].map (fun a => le t (inL a) 4), (t.engine 0 .quant).done.map (·.entry)) | _ => none)
    = some ([2, 14, 10, 9], [0x101030000]) := by decide +kernel
/-- By hand: 100 ÷ 7, rounded to nearest, is 0x41649249. -/
theorem test_qscale : (match exec (.qscale 0) (quanting 0x20 0 1) with | .next t => some (le t (inL 0x200) 4) | _ => none) = some 0x41649249 := by decide +kernel
theorem test_qunpack : (match exec (.qunpack 0) (quanting 0x22 1 2) with | .next t => some (le t (inL 0x300) 4) | _ => none) = some 0x0704FE01 := by decide +kernel
theorem witness_QuantAndMarks_scale : let s := quanting 0x20 0 1; let c := quantCmd 0x20 0 1; let o := quantOps s 0 c; let e (xs : List Nat) := scaleEntry o.b.sfmt (qMax o.b) (xs.map (elemVal o.a.kind))
    ∃ u v xs, atHead s 0 .quant c [] ∧ c.progress = 0 ∧ c.detail = 0 ∧ c.forked = false ∧ o.rows = 1 ∧ kindOf c = 0x20 ∧ o.b.saxis = false ∧
      readRow (s.startCmd 0 .quant c) 0 .quant c o.a c.abank o.a.p o.row0 = .ok (u, xs) ∧
      engWrite u 0 .quant c o.b.sspace (o.b.scaleBase c.bbank + o.row0 * o.b.scaleBytes) o.b.scaleBytes (e xs).1 = .ok v :=
  ⟨_, _, _, atHead0, by decide +kernel, by decide +kernel, by decide +kernel, by decide +kernel, by decide +kernel, by decide +kernel, okP ({}, []), ok0 {}⟩
theorem witness_QuantAndMarks_pack : let s := quanting 0x21 0 1; let c := quantCmd 0x21 0 1; let o := quantOps s 0 c
    ∃ u v w xs ss, atHead s 0 .quant c [] ∧ o.rows = 1 ∧ kindOf c = 0x21 ∧ readRow (s.startCmd 0 .quant c) 0 .quant c o.a c.abank o.a.p o.row0 = .ok (u, xs) ∧
      rowScales u 0 .quant c o.b c.bbank o.row0 = .ok (v, ss) ∧
      writeRow v 0 .quant c o.b c.bbank o.row0 ((List.zipWith (fun x y => packElem (planeLo o.b) (planeHi o.b) (elemVal o.a.kind x) y) xs ss).map (fun z => (BitVec.ofInt o.b.p z.1).toNat)) = .ok w :=
  ⟨_, _, _, _, _, atHead0, by decide +kernel, by decide +kernel, okP ({}, []), okP ({}, []), ok0 {}⟩
theorem witness_QuantAndMarks_unpack : let s := quanting 0x22 1 2; let c := quantCmd 0x22 1 2; let o := quantOps s 0 c; let d1 := c.record.toNat / 2 ^ 64 % 2 ^ 64
    ∃ u v xs, atHead s 0 .quant c [] ∧ o.rows = 1 ∧ kindOf c = 0x22 ∧ d1.testBit 38 = false ∧ d1 / 2 ^ 32 % 16 = 0 ∧ readRow (s.startCmd 0 .quant c) 0 .quant c o.a c.abank o.a.dp o.row0 = .ok (u, xs) ∧
      xs.length = o.a.cols ∧ writeRow u 0 .quant c o.b c.bbank o.row0
        ((xs.map (fun x => unpackElem o.b.kind false (planeRead (planeVal o.a x) o.a.p o.a.dp (d1.testBit 37)) (.fin false 1 0))).map (·.1)) = .ok v :=
  ⟨_, _, _, atHead0, by decide +kernel, by decide +kernel, by decide +kernel, by decide +kernel, okP ({}, []), by decide +kernel, ok0 {}⟩
theorem witness_QuantAndMarks_marks : ∀ kind ∈ [2, 3], let c : Cmd := { id := 1, lid := 1, record := BitVec.ofNat 512 kind }; let s := core0 { matrix := { queue := [.cmd c] }, tile := [(5, 1)] }
    atHead s 0 .matrix c [] ∧ c.forked = false ∧ (s.core 0).quarantined = false ∧ kindOf c = kind ∧ (s.engine 0 .matrix).parts = [] ∧
      (∀ i < 16, ∀ d ∈ (s.engine (0 / 16 * 16 + i) .matrix).done, isGroup .matrix d.cmd.record = false) := by unfold atHead; decide +kernel

/-- A is 1, −2 and B is 1, 1, each of two signed planes; the command takes one row of each, and ACC as `acc` says. -/
def mmaCmd (acc : Nat) : Cmd := { id := 1, lid := 1, record := recd [0x70001, 0, 1, 1 * 2 ^ 16, acc] }
def matSlot : Slot := { slotA with tensors := [(0, tens 1 1 0 2 2 2 1 4 64), (1, tens 1 1 0x100 2 2 2 1 4 64)] }
def mattering (acc : Nat) (owner : Option (Nat × Nat) := some (0, 1)) : State := core0 { matrix := { queue := [.cmd (mmaCmd acc)] }, tile := [(0, 10), (1, 20)], tileOwner := owner }
  (cells (inL 0) [2] ++ cells (inL 0x40) [1] ++ cells (inL 0x140) [3]) matSlot
/-- By hand: 10 + 1 × 1 − 2 × 1 is 9, and cell (0, 1) stays; without ACC they are −1 and 0. -/
theorem test_mma : [1, 0].map (fun acc => match exec (.mma 0) (mattering acc) with
    | .next t => some (Sparse.get 0 (t.core 0).tile 0, Sparse.get 0 (t.core 0).tile 1) | _ => none) = [some (9, 20), some (0xFFFFFFFF, 0)] := by decide +kernel
theorem witness_MatrixUnit : ∀ acc ∈ [1, 0], let s := mattering acc; let c := mmaCmd acc; let f := mmaFields c.record; let a := mmaOp s 0 c.slot (dw c.record 1); let b := mmaOp s 0 c.slot (dw c.record 2)
    (atHead s 0 .matrix c [] ∧ kindOf c = 1 ∧ c.record.getLsbD 320 = false ∧ c.forked = false ∧ (s.core 0).quarantined = false ∧ c.issuer = 0 ∧ (s.engine 0 .matrix).parts = [] ∧ (s.core 0).tileOwner = some (c.slot, c.lid) ∧
      c.record.getLsbD 256 = (acc == 1) ∧ Sparse.wf (0 : BitVec 32) (s.core 0).tile = true) ∧
    (let x := readOperand 0 c a c.abank f.k0 f.klen ((List.range f.m).map (fun i => a.row0 + i)) (s.startCmd 0 .matrix c)
     isOk x = true ∧ isOk (readOperand 0 c b c.bbank f.k0 f.klen ((List.range f.n).map (fun j => b.row0 + j)) (okD ({}, []) x).1) = true) := by unfold atHead; decide +kernel
theorem witness_MatrixUnit_chain : let s := mattering 1 (some (0, 2)); let c := mmaCmd 1
    atHead s 0 .matrix c [] ∧ c.record.getLsbD 256 = true ∧ (s.core 0).tileOwner ≠ some (c.slot, c.lid) := ⟨atHead0, by decide +kernel, by decide +kernel⟩
/-- A command of one row that drains through handler 0, and one that does not. -/
def drainCmd (drain : Nat) : Cmd := { id := 1, lid := 1, record := recd [0x70001, 0, 1, 1 * 2 ^ 16, drain * 2, 0, 0x55] }
def drainRun (ph drain : Nat) : Run := { cmd := drainCmd drain, phase := ph, steps := 1 }
def draining (ph drain : Nat) : State := core0 { matrix := { run := some (drainRun ph drain) }, tile := [(0, 10), (1, 20)] } (cells (inL 0) [2] ++ cells (inL 0x40) [1] ++ cells (inL 0x140) [3])
  { matSlot with prog := { slotA.prog with handlers := [0x80024] } }
theorem witness_MatrixUnit_check :
    ∀ dr ∈ [0, 1], let s := draining 1 dr; let r := drainRun 1 dr
      (s.engine 0 .matrix).run = some r ∧ r.phase = 1 ∧ r.cmd.record.getLsbD 320 = false ∧ r.cmd.forked = false ∧ r.cmd.issuer = 0 ∧ (s.engine 0 .matrix).done = [] ∧
        r.check = false ∧ r.halted = false ∧ (s.engine 0 .matrix).parts = [] ∧ (r.cmd.record.toNat / 2 ^ 257 % 4 == 1) = (dr == 1) := by decide +kernel
theorem witness_MatrixUnit_row : let s := draining 2 1; let r := drainRun 2 1
    (s.engine 0 .matrix).run = some r ∧ (s.engine 0 .matrix).frozen = false ∧ r.halted = false ∧ s.halting (slotKey 0 r.cmd.slot) = false ∧ (s.ctx (drainKey 0 0)).live = false ∧
      r.nextRow < r.cmd.record.toNat / 2 ^ 192 % 2 ^ 7 + 1 ∧ r.cmd.mode < 4 := by decide +kernel

/-- A drain context of core 0 that has row 0 of a command in hand; v0 holds 3, −9, 200 and 2; tensor 3, named in c5, takes I8. -/
def handling : State := { draining 2 1 with
  cur := 16
  ctxs := [(0, ctxOf []), (16, { ctxOf [(5, d 3)] with command := 1, v := [(0, lanes 32 [3, 2 ^ 32 - 9, 200, 2])] })]
  slots := [(0, { matSlot with tensors := [(3, tens 3 1 0x400 0 0 4 1 4 0)] })]
  cores := [(0, { matrix := { parts := [{ drainRun 2 1 with nextRow := 1 }] }, tlb := [(0, page 0x80000)] })] }
def demitF : Fields := F (.c 5) (.v 0) (.c 1) 0x100 0
/-- By hand: 200 saturates to 127 in I8, so that the status of the completed command is 1. -/
theorem test_demit : (match exec (.demit demitF) handling with
    | .next t => some (le t (inL 0x400) 4, (t.engine 0 .matrix).done.map (·.entry.toNat / 2 ^ 16 % 2 ^ 16), (t.ctx 16).live) | _ => none)
    = some (0x027FF703, [0x0101], false) := by decide +kernel
theorem okT {α β γ : Type} [Inhabited α] [Inhabited β] [Inhabited γ] {x : Exec (α × β × γ)} (h : isOk x = true := by decide +kernel) :
    x = .ok ((okD (default, default, default) x).1, (okD (default, default, default) x).2.1, (okD (default, default, default) x).2.2) := ok0 (default, default, default) h
theorem witness_Draining : let s := handling; let f := demitF
    let r := { drainRun 2 1 with nextRow := 1 }; let t0 := (s.slotOf s.cur).tensor 3
    ∃ u ls ss, acts s f ∧ isDrain s.cur = true ∧ (s.engine 0 .matrix).run.toList ++ (s.engine 0 .matrix).parts = [r] ∧ (s.ctx s.cur).command = r.cmd.id ∧ holds s f.d 3 ∧ holdsB s f false 0 ∧ t0.kind ≠ 0 ∧ t0.space = 1 ∧ t0.weight = false ∧ f.md.toNat / 16 % 4 = 0 ∧
      0 < t0.rows ∧ opndNum f.a + (t0.cols + 15) / 16 ≤ 16 ∧ s.demitScales s.cur 0x350 t0 0 0 (f.md.getLsbD 6) = .ok (u, ls, ss) ∧
      (∀ w ∈ rowStores t0 0 0 ((List.zipWith (fun x y => demitConv t0 (intVal (BitVec.ofNat 32 x).toInt) y)
        ((List.range t0.cols).map (fun j => lane ((s.ctx s.cur).getV (opndNum f.a + j / 16)) 32 (j % 16))) ss).map (·.1)), (s.core 0).mustWait t0.space w.1 w.2.length true = false) :=
  ⟨_, _, _, acts0, by decide +kernel, by decide +kernel, by decide +kernel, holds0, holdsB0, by decide +kernel, by decide +kernel, by decide +kernel, by decide +kernel, by decide +kernel, by decide +kernel,
   okT, by decide +kernel⟩
/-- The row is the last of its command, which completes with it. -/
theorem witness_Draining_last : let r := { drainRun 2 1 with nextRow := 1 }
    r.ended + 1 = r.nextRow ∧ r.cmd.record.toNat / 2 ^ 192 % 2 ^ 7 + 1 ≤ r.nextRow ∧ r.cmd.record.getLsbD 320 = false ∧ r.cmd.issuer = 0 ∧ r.cmd.forked = false ∧ r.check = false ∧ r.halted = false ∧
      (handling.engine 0 .matrix).done = [] := by decide +kernel

def tidF (md : BitVec 12) : Fields := F (.c 1) (.c 5) (.c 2) md 0
def tenE : BitVec 256 := tens 5 1 0 0 0 4 1 16 0
/-- A well-formed entry in memory at 0, and a malformed one; identifier 3 free, in flight, and locked. -/
def tabling (e : BitVec 256) (c : Core := {}) (cy : Sparse Cycle := []) : State :=
  { core0 c (cells 0 ((List.range 32).map (fun i => e.toNat / 256 ^ i % 256))) { slotA with tensors := [(3, tenE)] } (ctxOf [(2, d 64), (5, mkCap 0 0x0B 0 0x1000)]) with cycles := cy }
def tidRq (op field : Nat) (o : Opnd) (ld : Bool) : Req := { op := op, field := field, opnd := o, n := 32, al := 32, ld := ld, st := !ld, spaces := [0, 1, 2, 3, 4, 5] }
theorem witness_TensorIdentifiers : let s := tabling tenE; let f := tidF 3
    ∃ u l u' l', acts s f ∧ tidIs s f 3 ∧ tidIs s (tidF 0x40) 64 ∧ s.entersTraps ∧ s.tidLocked 0 0 3 = false ∧ s.inFlight 0 0 3 = false ∧
      access s (tidRq 0x360 2 f.a true) f.a (offs f) false false u l ∧ (u.noteAccess s.cur l 0).poisoned l 32 = false ∧
      tensorWf (s.insideShare 0) (s.relocate 0 false (BitVec.ofNat 256 (le (u.noteAccess s.cur l 0) l.key 32))) = true ∧
      access s (tidRq 0x361 1 (.c 5) false) (.c 5) 0 false false u' l' :=
  ⟨_, _, _, _, acts0, by unfold tidIs; exact (by decide +kernel : 3 = (tidF 3).md.toNat % 64), by unfold tidIs; exact holds0, enters0, by decide +kernel, by decide +kernel, okA, by decide +kernel, by decide +kernel, okA⟩
theorem witness_TensorIdentifiers_refused :
    tensorWf ((tabling 1).insideShare 0) ((tabling 1).relocate 0 false 1) = false ∧
    (tabling tenE { quant := { queue := [.cmd { id := 1, lid := 1, record := recd [0x20, 3] }] } }).inFlight 0 0 3 = true ∧
    (tabling tenE {} [(0, { phase := 2, lid := 1, desc := cyDesc 0 + 8 * 2 ^ 192 })]).tidLocked 0 0 3 = true := by decide +kernel

def sendF (md : BitVec 12 := 0) : Fields := F (.c 2) (.c 4) (.c 3) md 0
def sending (c : Ctx := ctxOf [(2, d 1), (3, d 0x10007), (4, mkCap 1 0x0B 0 0x1000), (5, d 9)]) (l : Slot := slotA) : State := core0 {} (cells (inL 0) [1, 2]) l c
/-- Lines that are read without an uncorrectable error: the state, and the bytes. -/
theorem okO {x : Exec (Out × List Byte)} (h : (isOk x && (okD ({ s := {} }, []) x).1.next == .seq) = true := by decide +kernel) :
    x = .ok ({ s := (okD ({ s := {} }, []) x).1.s, next := .seq }, (okD ({ s := {} }, []) x).2) := by
  rcases x with e | ⟨⟨u, n⟩, bs⟩
  · cases h
  · simp only [isOk, okD, Bool.true_and, beq_iff_eq] at h ⊢
    subst h; rfl
theorem witness_SendAndMatch : let s := sending
    (∃ u bs, acts s sendF ∧ (s.ctx s.cur).detlvl = 0 ∧ holds s (sendF).d 1 ∧ (1 : Nat) < 2 ^ 24 ∧ payloadAt (sendF) s = .ok ({ s := u, next := .seq }, bs) ∧ (s.capOpnd (sendF).a).cap.space = 1 ∧ holds s (sendF).b 0x10007) ∧
    (s.slotOf s.cur).retryAt 0 = none ∧ (sendF 0x400).md.getLsbD 10 = true ∧ (s.slotOf s.cur).interval + 1 ≤ (s.slotOf s.cur).hurdleInterval + 2 ^ 17 ∧ s.pstOutstanding s.cur = false ∧
    holds s (.c 5) 9 ∧ holdsB s (sendF) false 0x10007 :=
  ⟨⟨_, _, acts0, by decide +kernel, holds0, by decide, okO, by decide +kernel, holds0⟩, by decide +kernel, by decide +kernel, by decide +kernel, by decide +kernel, holds0, holdsB0⟩
theorem witness_SendAndMatch_traps : (let s := sending { ctxOf [(2, d 1)] with status := 0x40 + 2 ^ 28 }; acts s sendF ∧ (s.ctx s.cur).detlvl ≠ 0 ∧ s.entersTraps) ∧
    (let s := sending (ctxOf [(2, d (2 ^ 24))]); acts s sendF ∧ (s.ctx s.cur).detlvl = 0 ∧ holds s (sendF).d (2 ^ 24) ∧ s.entersTraps) :=
  ⟨⟨acts0, by decide +kernel, enters0⟩, acts0, by decide +kernel, holds0, enters0⟩
theorem witness_SendAndMatch_match : let s := sending; let rq : Req := { op := 0x322, field := 2, opnd := .c 4, n := 128, al := 64, ld := false, st := true, spaces := [1] }
    ∃ c a l, (0x10007 : Nat) < 2 ^ 20 ∧ 64 * ((0x10007 : Nat) / 2 ^ 16 + 1) = 128 ∧ capCheck s s.cur rq (s.capOpnd (.c 4)) 0 = .ok (c, a) ∧ locate s s.cur rq c a = .ok l ∧
      ∀ i < 32, (Sparse.get {} (s.slotOf s.cur).matchTable i).armed = false :=
  ⟨_, _, _, by decide, by decide, okP (c4.cap, 0), ok0 noLoc.2, by decide +kernel⟩
/-- Tag 7 armed in entry 0; and a full table without it. -/
theorem witness_SendAndMatch_armed :
    (let s := sending (ctxOf [(3, d 7)]) { slotA with matchTable := [(0, ⟨true, 7, 64, 0⟩)] }
     holdsB s (sendF) false 7 ∧ (Sparse.get {} (s.slotOf s.cur).matchTable 0).armed = true ∧ (Sparse.get {} (s.slotOf s.cur).matchTable 0).tag = 7 % 2 ^ 16) ∧
    (let s := sending (ctxOf [(3, d 7)]) { slotA with matchTable := (List.range 32).map (fun i => (i, ⟨true, 100 + i, 64, 0⟩)) }
     holdsB s (sendF) false 7 ∧ ∀ i < 32, (Sparse.get {} (s.slotOf s.cur).matchTable i).armed = true ∧ (Sparse.get {} (s.slotOf s.cur).matchTable i).tag ≠ 7) :=
  ⟨⟨holdsB0, by decide +kernel, by decide +kernel⟩, holdsB0, by decide +kernel⟩

/-- A message of vcore 0 to vcore 1 in its retry buffer, and vcore 1's slot. -/
def mail (mode : Nat) (n : Nat := 64) : REntry := { lid := 1, vcore := 0, endpoint := 1, mode := mode, channel := 3, tag := 7, payload := List.replicate n 5, seq := 0 }
def mailing (e : REntry) (l1 : Slot := slotA) (time : Nat := 0) : State := team (ctxOf []) { slotA with retry := [(2, e)], sendSeq := 1 } l1 [] [] time
theorem reaches0 {s : State} {e : REntry} {key : Nat} (h : (let v := e.endpoint % 2 ^ 12
    e.endpoint / 2 ^ 12 % 2 ^ 12 = s.byvon.device ∧ s.deviceRevoked s.byvon.device = false ∧ (s.gang e.lid).live = true ∧ (s.revoked.contains 0 = false) ∧
    v < (s.gang e.lid).vcores ∧ v ∉ (s.gang e.lid).retired ∧ s.seatOf e.lid v = some key ∧ (s.slot key).live = true ∧ (s.slot key).resident = true ∧
    (s.slot key).held = [] ∧ (s.ctx (hartOfSlot key)).frozen = false) := by decide +kernel) : reaches s e key := h
def matchSlot : Slot := { slotA with matchTable := [(0, ⟨true, 7, 64, 0x100⟩)] }
theorem test_delivery : (match exec (.messageArrival 0 0 2 none) (mailing (mail 2) matchSlot) with
    | .next t => some (le t (placeKey 1 1 0x100) 2, (t.slot 16).inbox.map (·.val), ((t.slot 16).matchAt 0).armed) | _ => none)
    = some (0x0505, [64 * 2 ^ 64 + 2 ^ 24 + 6 * 2 ^ 16 + 7], false) := by decide +kernel
theorem witness_MessageDelivery : ∀ mode ∈ [0, 1, 2], let e := mail mode; let s := mailing e matchSlot
    (s.slot (slotKey 0 0)).retryAt 2 = some e ∧ e.phase = 0 ∧ s.messageHeldBack e = false ∧ reaches s e 16 ∧ (Sparse.get [] (s.slot 16).arrivals e.channel).length + e.payload.length / 64 ≤ 16 ∧
      (s.slot 16).inbox.length < 64 ∧ (let m := Sparse.get {} (s.slot 16).matchTable 0; m.armed = true ∧ m.tag = e.tag ∧ m.len = e.payload.length ∧
        (s.core 1).mustWait 1 m.addr e.payload.length true = false) := by unfold reaches; decide +kernel
theorem witness_MessageDelivery_full :
    (let s := mailing (mail 0 (64 * 16)) { slotA with arrivals := [(3, [⟨0, []⟩])] }
     reaches s (mail 0 (64 * 16)) 16 ∧ 16 < (Sparse.get [] (s.slot 16).arrivals 3).length + (mail 0 (64 * 16)).payload.length / 64) ∧
    (let s := mailing (mail 1) { slotA with inbox := List.replicate 64 ⟨0, []⟩ }
     reaches s (mail 1) 16 ∧ 64 ≤ (s.slot 16).inbox.length) ∧
    (let s := mailing (mail 2 128) matchSlot
     reaches s (mail 2 128) 16 ∧ (Sparse.get {} (s.slot 16).matchTable 0).len ≠ (mail 2 128).payload.length ∧ ∀ j < 32, j ≠ 0 → (Sparse.get {} (s.slot 16).matchTable j).armed = false) := by
  unfold reaches; decide +kernel
theorem witness_MessageDelivery_answers :
    (let e := { mail 0 with endpoint := 2 }; let s := mailing e
     s.messageHeldBack e = false ∧ e.endpoint / 2 ^ 12 % 2 ^ 12 = s.byvon.device ∧ s.deviceRevoked s.byvon.device = false ∧ s.revoked.contains 0 = false ∧
       (s.gang e.lid).vcores ≤ e.endpoint % 2 ^ 12) ∧
    (let e := { mail 0 with phase := 2, reason := 3 }; let s := mailing e
     (s.dropRentry 0 0 2).residentHome e.lid e.vcore = some 0 ∧ (s.vcoreSlot e.lid e.vcore).ended = false) ∧
    (let e := { mail 0 with phase := 3, nextAt := 128, backoff := 128 }; let s := mailing e slotA 128
     (s.slot (slotKey 0 0)).retryAt 2 = some e ∧ e.nextAt ≤ s.time) := by decide +kernel
/-- A message to another module, 1 ms after it was sent, with every port down. -/
theorem witness_MessageDelivery_far : let e := { mail 0 with endpoint := 0x2001 }; let s := mailing e slotA 1000000
    (s.slot (slotKey 0 0)).retryAt 2 = some e ∧ (s.dropRentry 0 0 2).residentHome e.lid e.vcore = some 0 ∧ (s.vcoreSlot e.lid e.vcore).ended = false ∧ e.phase = 0 ∧
      e.endpoint / 2 ^ 12 % 2 ^ 12 ≠ s.byvon.device ∧ s.deviceRevoked (e.endpoint / 2 ^ 12 % 2 ^ 12) = false ∧ e.sentAt + 1000000 ≤ s.time ∧
      ∀ p < 16, s.linkOf p ≠ 2 ∧ s.linkOf p ≠ 3 ∧ Sparse.get 0 s.device.downAt p + 1000000 ≤ s.time := by decide +kernel

/-- A contribution of vcore 0's lanes to group 1 of tree 2, sequence 1, of two: router 0 expects cores 0 and 1 and is the Bellwether. -/
def redW : Nat := 2 ^ 48 + 2 ^ 40 + 2 * 2 ^ 36 + 2 ^ 24
def treeW : Word64 := 2 ^ 63 + 3
def redcF : Fields := F (.c 4) (.v 2) (.c 3) 0 0
def reducing (F : Fold := { rregs := [(16, treeW)] }) (l : Slot := slotA) (time : Nat := 0) : State :=
  { core0 {} [] l { ctxOf [(3, d redW), (4, mkCap 1 0x0B 0 0x1000)] with v := [(2, lanes 32 [0x3F800000])] } time with folds := [(0, F)] }
theorem witness_Reductions : let s := reducing; let rq : Req := { op := 0x324, field := 1, opnd := redcF.d, n := 64, al := 64, ld := false, st := true, spaces := [0, 1] }
    let te := (Sparse.get 0 (s.fold 0).rregs (8 * (redW / 2 ^ 36 % 16))).toNat
    ∃ u l, acts s redcF ∧ holds s redcF.b redW ∧ (if isService (coreOf s.cur) then 16 else coreOf s.cur % 16) = 0 ∧ redW % 2 ^ 24 = 0 ∧ redW / 2 ^ 30 % 64 ≤ redW / 2 ^ 24 % 64 ∧ redcF.md.getLsbD 6 = false ∧
      access s rq redcF.d (offs redcF) false false u l ∧ te.testBit 63 = true ∧ te.testBit 0 = true :=
  ⟨_, _, acts0, holds0, by decide +kernel, by decide +kernel, by decide +kernel, by decide +kernel, okA, by decide +kernel, by decide +kernel⟩
def packet (i : Nat) (x : Nat := 0x3F800000) (seq : Nat := 1) : RedPacket := { input := i, header := redW + (seq - 1) * 2 ^ 48, cset := 2 ^ i, elems := List.replicate 16 x }
def entryC : CombEntry := { tree := 2, group := 1, seq := 1, latched := treeW.toNat, due := 64000, packets := [packet 1] }
/-- By hand: 1 + 1 is 2, from both contributors. -/
theorem test_reduction : (match exec (.reductionPacketArrival 0) (reducing { rregs := [(16, treeW)], comb := [entryC], arriving := [packet 0] }) with
    | .next t => some ((t.fold 0).results.map (fun r => (r.input, r.cset, r.elems.getD 15 0))) | _ => none) = some [(32, 3, 0x40000000)] := by decide +kernel
theorem witness_Reductions_packet :
    (let F := (reducing { rregs := [(16, treeW)], arriving := [packet 0] }).fold 0; let te := (Sparse.get 0 F.rregs (8 * hdrTree (packet 0).header)).toNat
     F.arriving = [packet 0] ∧ (hdrSeq (packet 0).header + 2 ^ 16 - Sparse.get 0 F.lastSeq (hdrGroup (packet 0).header)) % 2 ^ 16 = 1 ∧ F.comb = [] ∧ te.testBit 63 = true ∧
       (packet 0).input ∈ treeInputs te ∧ (∃ i ∈ treeInputs te, i ≠ (packet 0).input) ∧ (packet 2).input ∉ treeInputs te) ∧
    (let F := (reducing { rregs := [(16, treeW)], arriving := [packet 0], lastSeq := [(1, 1)] }).fold 0
     (hdrSeq (packet 0).header + 2 ^ 16 - Sparse.get 0 F.lastSeq (hdrGroup (packet 0).header)) % 2 ^ 16 = 0) ∧
    (let e := entryC; let F := (reducing { rregs := [(16, treeW)], comb := [e], arriving := [packet 0] }).fold 0; let p := packet 0; let q := packet 1
     F.comb.find? (fun e => e.tree == hdrTree p.header && e.group == hdrGroup p.header && e.seq == hdrSeq p.header) = some e ∧ e.packets = [q] ∧ e.timedOut = false ∧ q.input ≠ p.input ∧
       p.input ∈ treeInputs e.latched ∧ (∀ i ∈ treeInputs e.latched, i = q.input ∨ i = p.input) ∧ q.cset &&& p.cset = 0 ∧ hdrOp q.header = 0 ∧ hdrBf q.header = false ∧
       (∀ x ∈ q.elems ++ p.elems, x < 2 ^ 32) ∧ treeParent e.latched = 0 ∧ q.cset ||| p.cset = 2 ^ (hdrNM1 q.header + 1) - 1 ∧ treeParent (e.latched + 2 ^ 60) = 1) := by decide +kernel
theorem witness_Reductions_timeout : let e := entryC; let s := reducing { rregs := [(16, treeW)], comb := [e] } slotA 64000; let F := s.fold 0
    F.comb.find? (fun e => e.tree == 2 && e.group == 1 && e.seq == 1) = some e ∧ e.due ≤ s.time ∧ treeParent e.latched = 0 ∧
      e.packets.foldl (fun c p => c ||| p.cset) 0 ≠ 2 ^ (hdrNM1 (e.packets.headD default).header + 1) - 1 := by decide +kernel
theorem witness_Reductions_result : ∀ room ∈ [true, false], let r : Redc := { tree := 2, group := 1, seq := 1, space := 1, addr := 0x40 }
    let l := { slotA with redcs := [r], inbox := if room then [] else List.replicate 64 ⟨0, []⟩ }; let p : RedPacket := { packet 0 with cset := 3 }; let s := reducing { results := [p] } l
    (s.fold 0).results = [p] ∧ p.input < 16 ∧ s.slots.find? (fun e => e.2.live && e.2.resident && e.2.redcs.any (fun r => (r.core == 0 * 16 + p.input && r.answeredBy p) && (!r.paid || e.2.inboxRoom))) = some (0, l) ∧
      l.inboxRoom = room ∧ l.redcs = [r] ∧ r.paid = false ∧ l.ended = false ∧ hdrStatus p.header < 3 ∧ s.slot 0 = l ∧ p.late = false ∧ p.cset < 2 ^ (hdrNM1 p.header + 1) := by decide +kernel
theorem witness_Reductions_push : let x : PushSent := ⟨redW, 1, 77, [], some 2, 64000⟩; let s := { reducing { pushed := [x] } slotA 64000 with device := { linkst := 0x300 } }
    s.linkOf 2 = 3 ∧ s.linkOf 3 ≠ 3 ∧ s.pushedAt 0 (hdrTree x.header) (hdrGroup x.header) (hdrSeq x.header) = some x ∧ x.gaddr = 77 ∧ x.port ≠ none ∧ x.due ≤ s.time := by decide +kernel

/-- A map of one participant: bytes in 2 by 3, with the dimensions swapped. -/
def mapW : Nat := 2 + (1 + 2 * 64 + 3 * 512 + 4 * 4096 + 5 * 32768) * 2 ^ 32 + 2 * 2 ^ 64 + 3 * 2 ^ 96 + 2 ^ 128 + 2 ^ 160 + 2 ^ 192 + 2 ^ 224
def mapF : Fields := F (.c 1) (.c 4) (.c 5) 0 0
def mapping (v : Nat := 0) (D : Drover := {}) (m : Nat := mapW) : State :=
  { core0 {} (cells 0 ((List.range 128).map (fun i => m / 256 ^ i % 256)) ++ cells (inL 0x100) [1, 2, 3, 4, 5, 6]) { slotA with vcore := v }
      (ctxOf [(4, mkCap 0 0x0B 0 0x1000), (5, mkCap 1 0x0B 0x200 64), (6, mkCap 1 0x0B 0x100 64)]) with drovers := [(0, D)] }
def mapE (m : Nat := mapW) : Drover := { maps := [(0, { valid := true, lid := 1, map := BitVec.ofNat 1024 m })] }
theorem witness_Exchange : let rq : Req := { op := 0x331, field := 2, opnd := mapF.a, n := 128, al := 64, ld := true, st := false, spaces := [0, 1] }
    (let s := mapping
     ∃ c a u bs, acts s mapF ∧ (s.ctx s.cur).detlvl = 0 ∧ capCheck s s.cur rq (s.capOpnd mapF.a) (offs mapF) = .ok (c, a) ∧
       plainLines { rq with n := 64 } c s 2 a { s := s } = .ok ({ s := u, next := .seq }, bs) ∧
       mapStatus (bytesToNat bs) (s.gang (s.slotOf s.cur).lid).vcores = 0 ∧ (s.drover 0).exchanges = []) ∧ mapStatus (mapW + 8) 1 = 1 :=
  ⟨⟨_, _, _, _, acts0, by decide +kernel, okP (c4.cap, 0), okO, by decide +kernel, by decide +kernel⟩, by decide +kernel⟩
def a2F : Fields := F (.c 1) (.c 6) (.c 5) 0 0
def partE : ExPart := { core := 0, slot := 0, srcSpace := 1, src := 0x100, dstSpace := 1, dst := 0x200, clock := [] }
def instE (y : ExPart := partE) : ExInst := { entry := 0, number := 0, lid := 1, map := BitVec.ofNat 1024 mapW, started := true, parts := [(0, y)] }
/-- R305: element (i0, i1) goes to (i1, i0). -/
theorem test_exchange_transposes : (match exec (.exchangeBlock 0 0 0) (mapping 0 { mapE with exchanges := [instE] }) with
    | .next t => some ((List.range 6).map (fun i => (t.byte (inL (0x200 + i))).toNat)) | _ => none) = some [1, 3, 5, 2, 4, 6] := by decide +kernel
theorem witness_Exchange_a2at :
    (let s := mapping 0 (mapE); let e := s.mapEntry 0 0
     acts s a2F ∧ a2Open s 2 a2F.a = .ok () ∧ a2Open s 3 a2F.b = .ok () ∧ a2Right s a2F.a false = .ok () ∧ a2Right s a2F.b true = .ok () ∧
       isOk (a2Fits s s.cur a2F.a (mapSize mapW) (2 ^ mapElog mapW)) = true ∧ isOk (a2Fits s s.cur a2F.b (mapSize mapW) (2 ^ mapElog mapW)) = true ∧ e.valid = true ∧ e.lid = 1 ∧
       e.map.toNat = mapW ∧ mapVfirst mapW ≤ (s.slotOf s.cur).vcore ∧ (s.slotOf s.cur).vcore < mapVfirst mapW + mapN mapW ∧ s.exchanging 0 1 0 = false ∧
       (s.slotOf s.cur).interval + 1 ≤ (s.slotOf s.cur).hurdleInterval + 2 ^ 17 ∧ s.pstOutstanding s.cur = false ∧ (s.core 0).ranges.length ≤ 30 ∧ (s.drover 0).exchanges = []) ∧
    (mapping.mapEntry 0 0).valid = false ∧ ¬((mapping 1 (mapE)).slotOf 0).vcore < mapVfirst mapW + mapN mapW ∧ (mapping 0 { mapE with exchanges := [instE] }).exchanging 0 1 0 = true :=
  ⟨⟨acts0, by rfl, by rfl, by rfl, by rfl, by decide +kernel⟩, by decide +kernel, by decide +kernel, by decide +kernel⟩
theorem mapElement_one (j : Nat) : (mapElement mapW 0 j).1 = 0 := by
  have h : (mapDst mapW).parts = (1, 1) := by decide +kernel
  unfold mapElement
  simp [h, Split.place]
theorem witness_Exchange_block : let s := mapping 0 { mapE with exchanges := [instE] }; let x := instE; let e := Sparse.get default x.parts 0; let m := x.map.toNat
    ∃ u, s.exchangeOf 0 0 0 = some x ∧ x.status = 0 ∧ min 65536 (mapSize m - e.read) = 6 ∧ s.exchangeRuns x = true ∧
      moveElements x 0 e 1 ((List.range (6 / 1)).map (fun i => e.read / 1 + i)) s = .ok u ∧ 2 ^ mapElog m = 1 ∧ (s.drover 0).exchanges = [x] ∧ x.parts = [(0, e)] ∧ mapVfirst m = 0 ∧ m = mapW :=
  ⟨_, by decide +kernel, by decide +kernel, by decide +kernel, by decide +kernel, ok0 {}, by decide +kernel⟩
theorem witness_Exchange_transpose : mapRank mapW = 2 ∧ mapPerm mapW 0 = 1 ∧ mapPerm mapW 1 = 0 ∧ mapW / 2 ^ 264 % 2 ^ 24 = 0 ∧ mapW / 2 ^ 392 % 2 ^ 24 = 0 ∧ 1 < mapExt mapW 0 ∧ 2 < mapExt mapW 1 := by
  decide +kernel
theorem witness_Exchange_delivery : let x := instE { partE with read := 6, written := 6 }; let s := mapping 0 { mapE with exchanges := [x] }; let e := Sparse.get default x.parts 0
    s.exchangeOf 0 0 0 = some x ∧ x.status = 0 ∧ e.read = mapSize x.map.toNat ∧ e.written = mapSize x.map.toNat ∧ e.delivered = false ∧ s.homeOf x.lid 0 = some 0 ∧ (s.slot 0).inboxRoom = true ∧
      (s.slot 0).resident = true ∧ (s.slot 0).ended = false ∧ (s.engine e.core .copy).frozen = false := by decide +kernel

theorem some0 {α : Type} (y : α) {x : Option α} (h : x.isSome = true := by decide +kernel) : x = some (x.getD y) := by cases x <;> simp_all
theorem someP {α β : Type} (y : α × β) {x : Option (α × β)} (h : x.isSome = true := by decide +kernel) : x = some ((x.getD y).1, (x.getD y).2) := some0 y h

/-- A stage descriptor with an area of two slots of 64 bytes, VMIN and VMAX, and SL64. -/
def stageD (vmin vmax : Nat) (sl : Nat := 0) : BitVec 256 := BitVec.ofNat 256 (2 * 2 ^ 144 + 2 ^ 160 + sl * 2 ^ 176 + vmin * 2 ^ 192 + vmax * 2 ^ 204)
/-- A declaration of one stage, with an input area of two slots. -/
def declW : BitVec 512 := BitVec.ofNat 512 (1 + 2 * 2 ^ 16 + 2 ^ 32 + 2 ^ 64)
/-- Records of 8 bytes at 0x5000 to a sink of two slots at 0x3000, areas of 128 bytes at 0x4000, for at most eight contexts. -/
def blockW : BitVec 512 := recd [0x5000, 8, 0x3000, 0x4000, 0, 3 * 2 ^ 32 + 2 ^ 36 + 2 ^ 40, 128, 8]
def stageY : Stage := { id := 0, area := 1, workers := [0], bound := { desc := stageD 1 2 1, prog := slotA.prog, sslot := some 0 } }
def pipeX : Pipe := { live := true, lid := 1, block := blockW, decl := declW, stages := [stageY] }
/-- Vcore 0 works for stage 0 of pipeline 0, at a PPOP. -/
def popF : Fields := F (.c 1) (.c 0) (.c 0) 0 0
def piped (x : Pipe := pipeX) (w : Worker := {}) (g : Gang := { gangA with pipe := some 0 }) (mem : List Host.Cell := []) (c : Ctx := ctxOf [(5, mkCap 0 0x0B 0 0x1000)]) : State :=
  let s := code (mach c { slotA with worker := true, work := w } g) (.ppop popF)
  { s with mem := mem ++ s.mem, pipes := [(0, x)], tables := [(0, page 0), (0, page 0x80000)] }
def recR (n : Nat := 0) : PRec := { seq := n, kind := 0, len := 8, area := 0, ix := 0 }
theorem witness_Pipelines_traps : (let s := piped pipeX { rcd := some 0 }; acts s popF ∧ s.entersTraps ∧ (worker s).rcd.isSome = true ∧
      (myPipe s).stage (worker s).stage = some stageY ∧ holdsB s { popF with md := 0x800, imm := 1 } false 1 ∧ (worker s).pushed = false) ∧
    (worker piped).rcd = none ∧ (myPipe (piped pipeX { rcd := some 0, pushed := true })).slotSize stageY.area - 16 < 49 :=
  ⟨⟨acts0, enters0, by decide +kernel, by decide +kernel, holdsB0, by decide +kernel⟩, by decide +kernel, by decide +kernel⟩
theorem witness_Pipelines_ppop : let s := piped { pipeX with recs := [recR] }; let w := worker s
    (∃ o, acts s popF ∧ w.rcd = none ∧ w.probing = false ∧ w.restart = false ∧ (myPipe s).stage w.stage = some stageY ∧ stageY.ended = false ∧ freely s 0 ∧
      s.waitNoted.nextData 0 stageY = some recR ∧ s.waitNoted.pickSlot 0 stageY.area stageY.next = some o ∧
      (s.slotOf s.cur).interval + 1 ≤ (s.slotOf s.cur).hurdleInterval + 2 ^ 17 ∧ s.waitNoted.firstWaiter 0 stageY = some (s.slotOf s.cur).vcore) ∧
    piped.waitNoted.nextData 0 stageY = none ∧ (myPipe (piped { pipeX with stages := [{ stageY with ended := true }] })).stage 0 = some { stageY with ended := true } :=
  ⟨⟨_, acts0, by decide +kernel, by decide +kernel, by decide +kernel, by decide +kernel, by decide +kernel, by unfold freely; decide +kernel, by decide +kernel, some0 0 (Pipe.choose_isSome (by decide +kernel)),
    by decide +kernel, by decide +kernel⟩,
   by decide +kernel, by decide +kernel⟩
theorem witness_Pipelines_pend : let x := { pipeX with recs := [{ recR with inHand := true }] }; let s := piped x { rcd := some 0, pushed := true }; let s' := piped x { rcd := some 0 }
    acts s popF ∧ (myPipe s).stage (worker s).stage = some stageY ∧ (worker s).rcd = some 0 ∧ ((myPipe s).rec? 0).isSome = true ∧ holdsB s { popF with md := 0x800, imm := 48 } false 48 ∧
      (48 : Nat) ≤ (myPipe s).slotSize stageY.area - 16 ∧ freely s 0 ∧ ((s.slotOf s.cur).interval + 1 ≤ (s.slotOf s.cur).hurdleInterval + 2 ^ 17 ∧ s.pstOutstanding s.cur = false) ∧ holdsB s' { popF with md := 0x800 } false 0 ∧ (worker s').pushed = false ∧
      stageY.bound.sslot = some 0 ∧ representable (64 * sdSl stageY.bound.desc) = true ∧
      (∃ m, s.walkWrite 0 ((myPipe s).slotAt 1 0) (natToBytes 8 (0 % 2 ^ 32 * 2 ^ 32 + 48 % 2 ^ 16 * 2 ^ 16 + 0 % 2 ^ 8 * 2 ^ 8) ++ natToBytes 8 0) = some m) ∧
      (myPipe s).slotAt 1 0 % 2 ^ 19 + 16 ≤ 2 ^ 19 :=
  ⟨acts0, by decide +kernel, by decide +kernel, by decide +kernel, holdsB0, by decide +kernel, by unfold freely; decide +kernel, by decide +kernel, holdsB0, by decide +kernel, by decide +kernel,
   by decide +kernel, ⟨_, some0 {}⟩, by decide +kernel⟩
def spliceF : Fields := F (.c 1) (.c 5) (.c 0) 0 0
def sp (op atv at_ : Nat) : BitVec 320 := BitVec.ofNat 320 (op + atv * 8 + at_ * 2 ^ 32)
theorem witness_Pipelines_psplice : let rq : Req := { op := 0x342, field := 2, opnd := spliceF.a, n := 40, al := 8, ld := true, st := false, spaces := [0, 1] }
    let s := piped pipeX {} { gangA with pipe := some 0 } (cells 0 [1])
    ∃ u ps v, acts s spliceF ∧ spanAccess s.cur rq (s.capOpnd spliceF.a) (offs spliceF) s = .ok (u, ps) ∧ Out.spans s.cur { s := u } ps = { s := v, next := .seq } ∧
      (s.gang (s.slotOf s.cur).lid).level = 0 ∧ s.entersTraps ∧ BitVec.ofNat 320 (bytesToNat (s.spanBytes ps)) = sp 1 0 0 ∧ spWf (pdSslot (v.pipe 0).decl) (sp 1 0 0) = true ∧
      (v.pipe 0).endIn = false ∧ (sp 1 0 0).getLsbD 3 = false ∧ (v.pipe 0).buffer = [] :=
  ⟨_, _, _, acts0, okP ({}, []), rfl, by decide +kernel, enters0, by decide +kernel⟩
theorem witness_Pipelines_psplice_answers : ({ gangA with level := 2 } : Gang).level ≠ 0 ∧ spWf 1 (sp 3 0 0) = false ∧ spWf 1 (sp 1 1 5) = true ∧ (sp 1 1 5).getLsbD 3 = true ∧ (sp 1 1 5).toNat / 2 ^ 32 % 2 ^ 32 < 6 ∧
    (∃ o ∈ [({ payload := sp 1 1 5 } : Splice)], o.payload.getLsbD 3 = true ∧ (sp 1 1 5).toNat / 2 ^ 32 % 2 ^ 32 ≤ o.payload.toNat / 2 ^ 32 % 2 ^ 32) := by decide +kernel

/-- An image of 256 bytes with one word of text at 64, entry 0, and the declaration of one stage, which names the image itself. -/
def imageBytes : List Nat :=
  dws [0x44560004 + 2 ^ 32 + 64 * 2 ^ 48, 64 + 2 ^ 32, 128, 0, 0, 0, 1 + 2 ^ 24 + 128 * 2 ^ 32, 256] ++ List.replicate 68 0 ++
    dws [1 + 2 * 2 ^ 16 + 2 ^ 32, 0, 0, 0, 0, 0, 0, 0] ++ dws [0, 0, 2 * 2 ^ 16 + 2 ^ 32, 1 + 2 * 2 ^ 12]
/-- A context of paddock 0 whose head has won a decision with a packet, an image at 0x1000 and a parameter block at 0x2000. -/
def dispatched (x : BitVec 512) (pipes : Sparse Pipe := []) (h : QHead := { loaded := true, phase := 1 }) (D : Drover := {}) : State :=
  { device := { state := 2 }, drovers := [(0, { D with heads := (0, { h with packet := x }) :: D.heads })], pipes := pipes, tables := [(0, page 0)]
    mem := cells 0x1000 imageBytes ++ cells 0x2000 (dws [0x5000, 8, 0x3000, 0x4000, 0, 3 * 2 ^ 32 + 2 ^ 36 + 2 ^ 40, 128, 8]) }
def startX : BitVec 512 := recd [2, 0, 0x1000, 0x2000]
def startHead0 : Image × BitVec 512 × PipeDecl × Nat := okD default ((dispatched startX).startHead 0 startX)
def starting : State := let s := dispatched startX; match s.walkTo 0 startHead0.2.2.2 false with | some pa => s.queueLearns 0 0 (s.droverAcquires pa 64) | none => s
def startImages : List Image := okD [] (starting.startStages 0 startHead0.1 startHead0.2.2.1.stages).2
theorem witness_Pipelines_start : let s := dispatched startX; let z := starting.startStages 0 startHead0.1 startHead0.2.2.1.stages
    ∃ ps tr, s.begun 0 0 2 = true ∧ s.holders 0 (s.head 0 0) = [] ∧ startX.getLsbD 32 = false ∧ (s.drover 0).enclave = false ∧ s.startHead 0 startX = .ok startHead0 ∧ z.2 = .ok startImages ∧
      z.1.startRest 0 0 0 (((s.qdesc 0 0).map (·.level)).getD 0) startHead0.2.1 startHead0.2.2.1 startImages = .ok (ps, tr) :=
  ⟨_, _, by decide +kernel, by decide +kernel, by decide +kernel, by decide +kernel, ok0 default, ok0 [], okP ([], {})⟩
/-- SPLICE packets: ill-formed, for no pipeline, and one that is accepted. -/
theorem witness_Pipelines_splice : let x : BitVec 512 := recd [2 + 2 ^ 32, 0, 1]; let s := dispatched x [(0, pipeX)]; let p := BitVec.ofNat 320 (x.toNat / 2 ^ 128)
    s.begun 0 0 2 = true ∧ x.getLsbD 32 = true ∧ x.toNat / 2 ^ 35 % 2 ^ 29 = 0 ∧ x.toNat / 2 ^ 448 = 0 ∧ (s.pipe 0).live = true ∧ (s.gang (s.pipe 0).lid).level = 0 ∧
      spWf (pdSslot (s.pipe 0).decl) p = true ∧ (s.pipe 0).endIn = false ∧ p.getLsbD 3 = false ∧ (s.pipe 0).buffer = [] ∧ ((dispatched x).pipe 0).live = false ∧
      (recd [2 + 2 ^ 32 + 2 ^ 35]).toNat / 2 ^ 35 % 2 ^ 29 ≠ 0 := by decide +kernel

def flowing (x : Pipe) (mem : List Host.Cell := []) (time : Nat := 0) : State := { piped x {} { gangA with pipe := some 0 } mem with time := time }
theorem witness_Pipelines_source_slot : let s := flowing pipeX; (s.pickSlot 0 0 (s.pipe 0).admitted).isSome = true := Pipe.choose_isSome (by decide +kernel)
theorem witness_Pipelines_source : let s := flowing pipeX; let x := s.pipe 0; let b := x.block
    s.pipeRuns 0 0 = true ∧ x.endIn = false ∧ (s.areaUsed 0 0).length < pdSqcap x.decl ∧ x.buffer = [] ∧ x.srcAt * pbSrl b < pbSrclen b ∧
      (s.walkRead 0 ((pbSrc b + x.srcAt * pbSrl b) % 2 ^ 56) (min (pbSrl b) (pbSrclen b - x.srcAt * pbSrl b))).isSome = true ∧
      pbSrclen b ≤ ({ pipeX with srcAt := 1 } : Pipe).srcAt * pbSrl b ∧ (sp 1 0 0).getLsbD 3 = false ∧
      pdSqcap x.decl ≤ ((flowing { pipeX with recs := [recR, { recR 1 with ix := 1 }] }).areaUsed 0 0).length := by decide +kernel
/-- A record that every stage has passed, with room in the sink, and a sink that is full. -/
def sunk (kind head : Nat) : State := flowing { pipeX with recs := [{ recR with kind := kind }], stages := [{ stageY with next := 1 }], head := head }
theorem witness_Pipelines_sink : ∀ kind ∈ [0, 3], let s := sunk kind 0; let x := s.pipe 0; let r := { recR with kind := kind }
    let bytes := (s.walkGet 0 (x.slotAt r.area r.ix) (16 + r.len) ++ List.replicate 64 0).take 64
    s.pipeRuns 0 0 = true ∧ x.rec? x.sinkNext = some r ∧ s.walkNat 0 (pbSink x.block + 8) 8 = some 0 ∧ (x.head + 2 ^ 64 - 0) % 2 ^ 64 ≠ 2 ^ pbSinklog x.block ∧ r.inHand = false ∧ x.consumer r.seq = none ∧
      0 < pbSink64 x.block ∧ (pbSink x.block + 64) % 2 ^ 19 + 64 ≤ 2 ^ 19 ∧ (s.walkWrite 0 (pbSink x.block + 64) bytes).isSome = true ∧
      ((((s.walkWrite 0 (pbSink x.block + 64) bytes).getD s).queueLearns 0 x.queue r.clock).droverRelease 0 x.queue (pbSink x.block) 1).isSome = true ∧ (s.gang x.lid).live = true := by decide +kernel
theorem witness_Pipelines_sink_full : let s := sunk 0 2; let x := s.pipe 0; s.walkNat 0 (pbSink x.block + 8) 8 = some 0 ∧ (x.head + 2 ^ 64 - 0) % 2 ^ 64 = 2 ^ pbSinklog x.block := by decide +kernel
/-- Two workers for a stage with nothing to do, and one for a stage with a record to take. -/
def shepherd : State :=
  let y : Stage := { stageY with workers := [0, 1], bound := { desc := stageD 1 2 }, next := 1 }
  let z : Stage := { id := 1, area := 2, workers := [2], bound := { desc := stageD 1 2 } }
  { flowing { pipeX with recs := [{ recR with area := 1 }], stages := [y, z] } [] 10000 with
    slots := [(0, { slotA with worker := true }), (16, { slotA with worker := true, vcore := 1 }), (32, { slotA with worker := true, vcore := 2, work := { stage := 1 } })]
    gangs := [(1, { gangA with pipe := some 0, vcores := 3 })] }
theorem witness_Pipelines_shepherd : let s := shepherd; let x := s.pipe 0; let y := x.stages.getD 0 default; let z := x.stages.getD 1 default
    s.pipeRuns 0 0 = true ∧ (s.gang x.lid).live = true ∧ (s.gang x.lid).suspended = false ∧ (s.gang x.lid).level = 0 ∧ x.startedAt + 10000 * (x.sample + 1) ≤ s.time ∧ x.stages = [y, z] ∧ y.id ≠ z.id ∧
      y.gone = none ∧ z.gone = none ∧ y.mode = 0 ∧ z.mode = 0 ∧ sdVmin y.bound.desc < (s.workersOf 0 y).length ∧ (s.workersOf 0 z).length < sdVmax z.bound.desc ∧
      x.backlog y * sdQcap y.bound.desc < x.backlog z * pdSqcap x.decl ∧ 1 ∈ s.workersOf 0 y ∧ (s.workOf 0 1).moving = false ∧
      (∀ w ∈ s.workersOf 0 y, (s.workOf 0 w).moving = false → w ≤ 1) ∧ s.seatOf x.lid 1 = some 16 := by decide +kernel

theorem quiet0 {l : Slot} (h : (l.pending = [] ∧ l.intrPreempt = none ∧ l.intrTimer = false ∧ l.intrInbox = false ∧ l.intrMigrate = false) := by decide +kernel) : quiet l := h
theorem witness_TrapsAndReturns : (let s := two 0 0; acts s (D1 0) ∧ s.entersTraps ∧ s.pstOutstanding s.cur = false) ∧
    (let s := mach (ctxOf []) { slotA with tvec := 0 }; acts s (D1 0) ∧ (s.slotOf s.cur).tvec = 0 ∧ (s.slotOf s.cur).work.probing = false) ∧
    (let s := handler; let c := s.ctx s.cur
     acts s (D1 0) ∧ c.pregBase.toNat ≤ c.epc.toNat % 2 ^ 56 ∧ c.epc.toNat % 2 ^ 56 + 12 ≤ c.pregLimit.toNat ∧ c.repst.getLsbD 63 = false ∧ isDrain s.cur = false ∧
       c.handling.head? = none ∧ isService (coreOf s.cur) = false ∧ s.pstOutstanding s.cur = false) ∧
    (let s := mach { ctxOf [] with status := 0x85, epc := 0x800F8, pregBase := 0x80000, pregLimit := 0x80100 }; let c := s.ctx s.cur
     acts s (D1 0) ∧ ¬(c.pregBase.toNat ≤ c.epc.toNat % 2 ^ 56 ∧ c.epc.toNat % 2 ^ 56 + 12 ≤ c.pregLimit.toNat) ∧ s.entersTraps) :=
  ⟨⟨acts0, enters0, by decide +kernel⟩, ⟨acts0, by decide +kernel, by decide +kernel⟩,
   ⟨acts0, by decide +kernel⟩, acts0, by decide +kernel, enters0⟩
/-- A handler of a refused store. -/
theorem witness_TrapsAndReturns_refused : let c : Ctx := { ctxOf [] with status := 0x85, epc := 0x80018, pregBase := 0x80000, pregLimit := 0x80100, handling := [some (0, 3), none] }; let s := mach c
    acts s (D1 0) ∧ s.pstOutstanding s.cur = false ∧ c.pregBase.toNat ≤ c.epc.toNat % 2 ^ 56 ∧ c.epc.toNat % 2 ^ 56 + 12 ≤ c.pregLimit.toNat ∧ c.repst.getLsbD 63 = false ∧
      isDrain s.cur = false ∧ (s.ctx s.cur).handling = some (0, 3) :: [none] := ⟨acts0, by decide +kernel⟩
/-- UPRET of entry 3, which is the vcore's, and of entry 255, which is not in use. -/
def upcall : State := { two 3 255 with folds := [(0, { faults := [(3, { used := true, lid := 1, pc := 0x80018 })] })] }
theorem witness_TrapsAndReturns_upret : let s := upcall; let f := F (.c 0) (.c 0) (.c 2) 0 0; let en : FaultEntry := Sparse.get {} (s.fold 0).faults 3
    acts s f ∧ holdsB s f false 3 ∧ en.used = true ∧ en.core = coreOf s.cur ∧ en.slot = s.cur % 32 ∧ en.lid = (s.slotOf s.cur).lid ∧ en.vcore = (s.slotOf s.cur).vcore ∧ en.repst.getLsbD 63 = false ∧
      holdsB s { f with b := .c 3 } false 255 ∧ (Sparse.get {} (s.fold 0).faults 255 : FaultEntry).used = false ∧ s.entersTraps :=
  ⟨acts0, holdsB0, by decide +kernel, by decide +kernel, by decide +kernel, by decide +kernel, by decide +kernel, by decide +kernel, holdsB0, by decide +kernel, enters0⟩
def pending (l : Slot) : State := mach (ctxOf []) l
theorem witness_TrapsAndReturns_pending :
    (∀ l ∈ [{ slotA with pending := [⟨3, 0x11, 9, 0⟩] }, { slotA with intrPreempt := some 4 }, { slotA with intrTimer := true }, { slotA with intrInbox := true }, { slotA with intrMigrate := true },
        { slotA with tvec := 0, intrTimer := true }],
      let s := pending l; (s.ctx (hartKey 0 0)).ie = true ∧ s.mayIssue (hartKey 0 0) = true ∧ (s.slot (slotKey 0 0)).anyPending = true) ∧
    (let l := { slotA with timecmp := 5, ien := 1 }
     l.ien.getLsbD 0 = true ∧ l.timerDone = false ∧ l.timecmp.toNat ≤ ({ pending l with time := 5 } : State).time) := by decide +kernel
/-- Hart 0 is ready behind hart 3; a drain context is ready beside it; and nothing is. -/
def issuing : State := code (two 3 5) (.add (D1 0x380))
theorem witness_TrapsAndReturns_issue :
    (let s := issuing
     s.serving = true ∧ s.latch = none ∧ (s.core 0).lastSlot = 3 ∧ (∀ d < 4, s.ready (drainKey 0 d) = false) ∧ s.ready (hartKey 0 ((3 + 1 + 12) % 16)) = true ∧
       (∀ m < 12, s.ready (hartKey 0 ((3 + 1 + m) % 16)) = false) ∧ s.takesPending (hartKey 0 0) = false ∧ (s.slotOf (hartKey 0 0)).relocks = none ∧ okIs (({ s with cur := hartKey 0 0 } : State).nextInstr (hartKey 0 0)) (.add (D1 0x380)) = true) ∧
    (let s : State := { issuing with ctxs := [(0, ctxOf []), (16, ctxOf [])] }
     s.ready (drainKey 0 0) = true ∧ ∀ e < 4, e ≠ 0 → s.ready (drainKey 0 e) = false) ∧
    (let s := mach { ctxOf [] with live := false }
     (∀ d < 4, s.ready (drainKey 0 d) = false) ∧ ∀ j < 16, s.ready (hartKey 0 j) = false) ∧
    (let s := code (pending { slotA with intrTimer := true }) (.add (D1 0x380))
     s.takesPending (hartKey 0 0) = true ∧ s.ready (hartKey 0 0) = true) := by decide +kernel

theorem witness_SystemRegistersAndEnds : let s := sys0
    acts s (D1 0) ∧ isDrain s.cur = false ∧ holds s (.c 2) 0x4000 ∧ (0x4000 : Nat) < 2 ^ 64 ∧ (s.ctx s.cur).mode ≠ 0 ∧ ((two 0 0).ctx 0).mode = 0 :=
  ⟨acts0, by decide +kernel, holds0, by decide, by decide +kernel, by decide +kernel⟩
def wfiF : Fields := F (.c 0) (.c 0) (.c 0) 0x800 5
theorem witness_SystemRegistersAndEnds_wfi :
    (let s := pending { slotA with intrTimer := true }; acts s wfiF ∧ holdsB s wfiF false 5 ∧ (s.slotOf s.cur).anyPending = true) ∧
    (let s := { code (mach { ctxOf [] with waitFrom := some 3 }) (.wfi wfiF) with time := 8 }
     acts s wfiF ∧ holdsB s wfiF false 5 ∧ (s.ctx s.cur).waitFrom = some 3 ∧ 3 + 5 ≤ s.time ∧ s.cur = hartKey 0 0 ∧ s.waitingAt s.cur = some (.wfi wfiF) ∧ quiet (s.slotOf s.cur)) ∧
    (let s := code (mach { ctxOf [] with waitFrom := some 3 }) (.wfi wfiF)
     s.time < 3 + 5 ∧ quiet (s.slotOf s.cur) ∧ s.waitingAt s.cur = some (.wfi wfiF)) :=
  ⟨⟨acts0, holdsB0, by decide +kernel⟩, ⟨acts0, holdsB0, by decide +kernel, by decide +kernel, by decide +kernel, by decide +kernel, quiet0⟩, by decide +kernel, quiet0, by decide +kernel⟩
/-- An item with a counter charged; a stage worker; the first of two items, and the last with a COPY in hand. -/
def gangOf2 : Gang := { gangA with widths := [1, 0, 0, 0, 0, 0], extents := [2, 1, 1, 1, 1, 1] }
theorem witness_SystemRegistersAndEnds_end :
    (let s := mach { ctxOf [] with sb := [(1, 1)] }; s.guardBit wfiF 0 = true ∧ ∃ e ∈ (s.ctx s.cur).sb, e.2 ≠ 0) ∧
    (let s := mach (ctxOf []) { slotA with worker := true }; s.guardBit wfiF 0 = true ∧ (∀ e ∈ (s.ctx s.cur).sb, e.2 = 0) ∧ (s.slotOf s.cur).worker = true ∧ (s.slotOf s.cur).work.lastZero = false ∧
       (s.slotOf s.cur).tvec ≠ 0) ∧
    (let s := mach (ctxOf []) slotA gangOf2; let l := s.slotOf s.cur; let g := s.gang l.lid
     s.guardBit wfiF 0 = true ∧ (∀ e ∈ (s.ctx s.cur).sb, e.2 = 0) ∧ l.worker = false ∧ g.level = 0 ∧ g.hurdles = [] ∧ hartOfSlot (s.slotKeyOf s.cur) = s.cur ∧ g.itemOf l.wid.toNat + 1 < g.items ∧
       s.slots.all (fun e => !e.2.startDue) = true) ∧
    (let s := { mach (ctxOf []) { slotA with wid := 1 } gangOf2 with cores := [(0, { copy := { queue := [.cmd { id := 1, lid := 1, record := 0x12 }] } })] }; let l := s.slotOf s.cur; let g := s.gang l.lid
     g.items ≤ g.itemOf l.wid.toNat + 1 ∧ s.engineIdle (s.slotKeyOf s.cur / 16) (s.slotKeyOf s.cur % 16) = false ∧ s.slots.all (fun e => !e.2.startDue) = true) := by decide +kernel
def tailF : Fields := F (.c 1) (.c 5) (.c 0) 0 0
theorem outSeq {o : Out} (h : (o.next == .seq) = true := by decide +kernel) : o = { s := o.s, next := .seq } := by
  cases o; simp_all
theorem witness_SystemRegistersAndEnds_tail : let rq : Req := { op := 0x0C8, field := 2, opnd := tailF.a, n := 48, al := 16, ld := true, st := false, spaces := [0, 1, 5] }
    (let s := memo
     ∃ u ps v, acts s tailF ∧ spanAccess s.cur rq (s.capOpnd tailF.a) (offs tailF) s = .ok (u, ps) ∧ Out.spans s.cur { s := u } ps = { s := v, next := .seq } ∧ (s.slotOf s.cur).worker = false ∧ (s.gang (s.slotOf s.cur).lid).level = 0 ∧
       (s.head 0 0).tail = none) ∧
    ({ gangA with level := 1 } : Gang).level ≠ 0 ∧ (({ memo with drovers := [(0, { heads := [(0, { tail := some 0 })] })] } : State).head 0 0).tail.isSome = true :=
  ⟨⟨_, _, _, acts0, okP ({}, []), outSeq, by decide +kernel⟩, by decide +kernel, by decide +kernel⟩
/-- A WEIGHT tensor of two rows of four I8 in global memory, named 3; row 1 of it can be locked. -/
def weighing (cy : Sparse Cycle := []) : State :=
  { core0 {} [] { slotA with tensors := [(3, tens 3 0 0x100 0 0 4 2 4 0 + BitVec.ofNat 256 (2 ^ 173))] } { ctxOf [] with v := [(2, lanes 32 [3, 200, 1, 2])] } with cycles := cy }
def wupdF (md : BitVec 12 := 0x103) : Fields := F (.c 1) (.v 2) (.c 0) (md + 0x800) 1
theorem witness_SystemRegistersAndEnds_wupd : let s := weighing; let t := (s.slotOf s.cur).tensor ((wupdF).md.toNat % 64)
    let out (ss : List FVal) := rowStores t 0 1 ((List.zipWith (fun x y => demitConv t (if (wupdF).md.toNat / 2 ^ 7 % 16 = 8 then fval 23 x else intVal (BitVec.ofNat 32 x).toInt) y)
      ((s.ctx s.cur).lanes32 (opndNum (wupdF).a) t.cols) ss).map (·.1))
    ∃ s0 sl ss u ls, acts s (wupdF) ∧ holdsB s (wupdF) false 1 ∧ t.kind ≠ 0 ∧ t.weight = true ∧ t.space = 0 ∧ 1 < t.rows ∧ opndNum (wupdF).a + (t.cols + 15) / 16 ≤ 32 ∧ s.heldLocks 0 = [] ∧
      s.demitScales s.cur 0x2A0 t 0 1 ((wupdF).md.getLsbD 6) = .ok (s0, sl, ss) ∧
      wupdPlaces s.cur t.space s ((out ss).flatMap (fun w => linePieces w.1 w.2.length)) s0 = .ok (u, ls) ∧ sl = [] :=
  ⟨_, _, _, _, _, acts0, holdsB0, by decide +kernel, by decide +kernel, by decide +kernel, by decide +kernel, by decide +kernel, by decide +kernel, okT, okP ({}, []), by decide +kernel⟩
theorem witness_SystemRegistersAndEnds_wupd_refused :
    (let s := weighing [(0, { phase := 2, locks := [⟨true, 0, 0, 0, 0x104, 0x105⟩] })]; let t := (s.slotOf s.cur).tensor 3
     ∃ w ∈ rowStores t 0 1 (List.replicate t.cols 0), ∃ h ∈ s.heldLocks (s.paddockOf (coreOf s.cur)), regionKey t.space (coreOf s.cur) w.1 < h.hi ∧ h.lo < regionKey t.space (coreOf s.cur) w.1 + w.2.length) ∧
    ((weighing.slotOf 0).tensor 4).kind = 0 ∧ ((weighing.slotOf 0).tensor 3).rows ≤ 2 := by decide +kernel

theorem okRec {x : Exec (State × List (Loc × Nat))} (h : (isOk x = true ∧ (okD ({}, []) x).2 = [(((okD ({}, []) x).2.headD (noLoc.2, 0)).1, 16384)]) := by decide +kernel) :
    x = .ok ((okD ({}, []) x).1, [(((okD ({}, []) x).2.headD (noLoc.2, 0)).1, 16384)]) := by
  rw [← h.2]; exact okP ({}, []) h.1
/-- Vcore 0 in slot 0, and vcore 1 in slot 1 of the same core; a record at 0 in global memory, and the number of a slot in c2. -/
def recF : Fields := F (.c 1) (.c 5) (.c 2) 0 0
def saving (b : Nat) (l1 : Slot := slotA) (c1 : Ctx := ctxOf []) (nlog : Nat := 1) (mem : List Host.Cell := []) : State :=
  { mach (ctxOf [(2, d b), (5, mkCap 0 0x0B 0 0x10000)]) with
    ctxs := [(0, ctxOf [(2, d b), (5, mkCap 0 0x0B 0 0x10000)]), (1, c1)]
    slots := [(0, slotA), (1, { l1 with vcore := 1 })], gangs := [(1, { gangA with vcores := 2 })], device := { state := 2, nlog := nlog }, mem := mem }
theorem witness_ContextsAndSuspension_bounds : let s := saving 16 slotA (ctxOf []) 3; acts s recF ∧ holds s recF.b 16 ∧ s.kPer ≤ 16 ∧ s.entersTraps :=
  ⟨acts0, holds0, by decide +kernel, enters0⟩
theorem witness_ContextsAndSuspension_save : let s := saving 1
    ∃ u l, acts s recF ∧ holds s recF.b 1 ∧ 1 < s.kPer ∧ recordAccess 0x386 recF true s = .ok (u, [(l, 16384)]) ∧ 1 ≠ s.slotNo s.cur ∧ (s.slot 1).live = true ∧
      (u.modSlot 1 (fun x => { x with stopping := true })).slotStopped 1 = true ∧ s.pstOutstanding s.cur = false ∧ notSampled s :=
  ⟨_, _, acts0, holds0, by decide +kernel, okRec, by decide +kernel, by decide +kernel, by decide +kernel, by decide +kernel, by unfold notSampled; decide +kernel⟩
/-- The issuer's own slot, an empty one, and a slot whose engine has a command in hand. -/
theorem witness_ContextsAndSuspension_save_answers : (saving 0).slotNo (saving 0).cur = 0 ∧ ((saving 2).slot 2).live = false ∧
    (let s := { saving 1 with cores := [(0, { matrix := { run := some { cmd := { id := 1, slot := 1, lid := 1 } } }, tlb := [(0, page 0x80000), (1, page 0)] })] }
     isOk (recordAccess 0x386 recF true s) = true ∧ (s.modSlot 1 (fun x => { x with stopping := true })).slotStopped 1 = false) := by decide +kernel
/-- The first words of a record of slot `n`, and what stands in it of vcore 1 of launch 1. -/
def recordAt (a n : Nat) : List Host.Cell := (cells a (dws [0x44564358 + 2 ^ 32 + n * 2 ^ 36 + 64 * 2 ^ 40, 0x80018, 0x40]) ++ cells (a + 0x88) [1] ++ cells (a + 0xE8) [1]).filter (fun c => c.2 ≠ 0)
def gone : Slot := { slotA with live := false, detached := true }
def loading (n b : Nat) : State := saving b gone (ctxOf []) 1 (recordAt 0 n)
def recBytes (s : State) : List Byte := s.bytesAt ((okD ({}, []) (recordAccess 0x387 recF false s)).2.headD (noLoc.2, 0)).1.key 16384
theorem witness_ContextsAndSuspension_load : let s := loading 1 1
    ∃ u l, acts s recF ∧ holds s recF.b 1 ∧ 1 < s.kPer ∧ recordAccess 0x387 recF false s = .ok (u, [(l, 16384)]) ∧ (u.noteAccess s.cur l 0).poisoned l 16384 = false ∧
      s.savedVcore (s.paddockOf 0) (recBytes s) = some (some 1, { gone with vcore := 1 }, ctxOf []) ∧ s.kPer ≤ 4 :=
  ⟨_, _, acts0, holds0, by decide +kernel, okRec, by decide +kernel, by decide +kernel, by decide +kernel⟩
theorem witness_ContextsAndSuspension_load_form : let s := loading 1 1
    recordForm (recBytes s) = true ∧ recordSlot (recBytes s) = 1 ∧ recordAllot (recBytes s) ≤ (s.core 0).offer ∧ (∀ i < 8, recDw (recBytes s) (0x108 + 16 * i) % 2 ^ 57 = 0) ∧
      gone.exitAt = none ∧ gone.workKept = [] ∧ gone.forks = [] ∧ gone.ended = false ∧ gone.startDue = false := by decide +kernel
theorem witness_ContextsAndSuspension_load_answers :
    recordForm (recBytes (saving 1 gone)) = false ∧ recordSlot (recBytes (loading 2 1)) = 2 ∧ (loading 2 2).savedVcore 0 (recBytes (loading 2 2)) = some (some 1, { gone with vcore := 1 }, ctxOf []) ∧
      (let s := { loading 0 0 with slots := [(0, slotA), (1, { gone with vcore := 1 })] }
       (s.slot 0).live = true ∧ (some 1 : Option Nat) ≠ some 0) ∧
      (({ loading 1 1 with cores := [(0, { offer := 48 })] } : State).core 0).offer < recordAllot (recBytes (loading 1 1)) := by decide +kernel
/-- A gang of one vcore on slot 16, which is being stopped. -/
def crook (l : Slot) (h : QHead) (g : Gang := gangA) : State := { mach (ctxOf []) with
  ctxs := [(32, ctxOf [])], slots := [(16, l)], gangs := [(1, g)], drovers := [(0, { heads := [(0, h)] })] }
theorem witness_ContextsAndSuspension_crook : let s := crook { slotA with stopping := true } { loaded := true, phase := 4, lid := 1 }; let h := s.head 0 0
    (s.slots.filter (fun x => x.2.live && x.2.lid == h.lid)).map (·.1) = [16] ∧ s.serving = true ∧ h.phase = 4 ∧ (s.gang h.lid).live = true ∧ (s.slot 16).lid = h.lid ∧ s.slotStopped 16 = true ∧
      (s.gang h.lid).endWith = none ∧ h.stopper = none ∧ h.holding = false ∧ (crook slotA { loaded := true, phase := 4, lid := 1 }).slotStopped 16 = false ∧
      (let s := crook { slotA with stopping := true } { loaded := true, phase := 4, lid := 1 } { gangA with endWith := some 0x3C }
       s.slotStopped 16 = true ∧ (s.gang 1).live = true ∧ (s.gang 1).endWith = some 0x3C) := by decide +kernel

theorem walkRead_of {s : State} {p va n : Nat} {g : Nat → Nat} (h : ∀ i < n, s.walkTo p ((va + i) % 2 ^ 56) false = some (g i)) :
    s.walkRead p va n = some ((List.range n).map (fun i => s.byte (g i))) := by
  unfold State.walkRead
  have key : ∀ l : List Nat, (∀ i ∈ l, i < n) → l.foldr (fun i acc =>
      match acc, s.walkTo p ((va + i) % 2 ^ 56) false with
      | some bs, some pa => some (s.byte pa :: bs)
      | _, _ => none) (some []) = some (l.map (fun i => s.byte (g i))) := by
    intro l
    induction l <;> grind
  exact key _ (fun i hi => List.mem_range.mp hi)
/-- Vcore 1 of launch 1, suspended from slot 1 of core 1; its record stands at 0x10000. -/
def parkedP : Parked := { key := 17, slot := { slotA with vcore := 1, live := false } }
def resuming (n : Nat) (m : List (Nat × BitVec 128) := [(0, page 0)]) : State :=
  { crook { slotA with live := false, lid := 0 } { loaded := true, phase := 6, lid := 1 } { gangA with suspended := true } with
    slots := [], parked := [(2 ^ 12 + 1, parkedP)], tables := m, mem := recordAt 0x10000 n, device := { state := 2, nlog := 1 }
    drovers := [(0, { heads := [(0, { loaded := true, phase := 6, lid := 1 })], regs := [(0x2C0, 0x8000), (0x300, 0x8000)] })] }
theorem page0_walks (n a : Nat) (h : a < 2 ^ 19) : (resuming n).walkTo 0 a false = some a := by
  have hc : imgCovers (page 0).toNat a = true := by
    unfold imgCovers
    have hs : imgSize (page 0).toNat = 0 ∧ imgVA (page 0).toNat = 0 ∧ imgValid (page 0).toNat = true := by decide +kernel
    unfold imgSpans
    rw [hs.1, hs.2.1, hs.2.2]
    simp [pageShift]; omega
  have hp : imgP (page 0).toNat = true ∧ imgPA (page 0).toNat = 0 ∧ imgSize (page 0).toNat = 0 := by decide +kernel
  have hm : imgMap (page 0).toNat a = a := by simp [imgMap, hp.2.1, hp.2.2, pageShift]; omega
  have hw : (resuming n).walk 0 a = some (page 0).toNat := by
    unfold State.walk resuming
    simp [hc, State.mappedYet]
  unfold State.walkTo
  simp [hw, hp.1, hm]
def resumed (n : Nat) : List Byte := (List.range 0x6000).map (fun i => (resuming n).byte (0x10000 + i))
theorem witness_ContextsAndSuspension_resume : let s := resuming 1; let h := s.head 0 0
    s.serving = true ∧ h.phase = 6 ∧ (s.gang h.lid).live = true ∧ (s.gang h.lid).suspended = true ∧ s.parked.filter (fun x => x.1 / 2 ^ 12 == h.lid) = [(2 ^ 12 + 1, parkedP)] ∧
      s.pageReg 0 (0x300 + 8 * 0) + (2 ^ 12 + 1) % 2 ^ 12 * (s.pageReg 0 0x2C0 % 2 ^ 32) = 0x10000 ∧ s.walkRead 0 (0x10000 % 2 ^ 56) 0x6000 = some (resumed 1) ∧
      recordAllot (resumed 1) ≤ (s.core (parkedP.key / 16)).offer ∧ recordForm (resumed 1) = true ∧ recDw (resumed 1) 0xE8 = h.lid ∧ recDw (resumed 1) 0x88 = (2 ^ 12 + 1) % 2 ^ 12 ∧
      recordSlot (resumed 1) = parkedP.key % 16 ∧ (∀ i < 8, recDw (resumed 1) (0x108 + 16 * i) % 2 ^ 57 = 0) ∧ s.kPer ≤ 4 ∧ (s.gang h.lid).pipe = none ∧
      (s.slot parkedP.key).live = false ∧ (s.slot parkedP.key).detached = false ∧ (({ s with slots := [(17, slotA)] } : State).slot parkedP.key).live = true ∧ 2 ^ 12 + 1 = parkKey h.lid ((2 ^ 12 + 1) % 2 ^ 12) := by
  refine ⟨by decide +kernel, by decide +kernel, by decide +kernel, by decide +kernel, by decide +kernel, by decide +kernel, walkRead_of (g := fun i => 0x10000 + i) ?_, ?_⟩
  · intro i hi
    rw [show ((0x10000 % 2 ^ 56 + i) % 2 ^ 56 : Nat) = 0x10000 + i by omega]
    exact page0_walks 1 _ (by omega)
  · decide +kernel
/-- Five vcores on core 0, of which slots 0 to 3 are resident and slot 4 is ready; slot 2 has yielded, and slot 1 has been resident longest. -/
def swapping (n : Nat := 4) : State := code { mach (ctxOf []) with
  ctxs := (List.range 5).map (fun i => (i, { ctxOf [] with yielded := i == 2 }))
  slots := (List.range n).map (fun i => (i, { slotA with vcore := i, residentSince := if i = 1 then 0 else 10000 })) ++ [(4, { slotA with vcore := 4, resident := false })]
  gangs := [(1, { gangA with vcores := 5 })], time := 20000 } (.add (D1 0x380))
theorem witness_ContextsAndSuspension_swap : let s := swapping; let residents := s.slotsOf 0 (fun _ l => l.resident)
    s.serving = true ∧ isService 0 = false ∧ 8 ≤ s.kPer ∧ s.nextIn 0 = some 4 ∧ (s.gang (s.slot 4).lid).level = 0 ∧ 4 ≤ residents.length ∧ s.slotsOf 0 (fun j l => l.resident && s.waits j) = [2] ∧
      s.slotsOf 0 (fun _ l => l.resident && decide (l.residentSince + 20000 ≤ s.time)) = [1] ∧ ((swapping 3).slotsOf 0 (fun _ l => l.resident)).length < 4 ∧ (swapping 3).nextIn 0 = some 4 ∧
      (swapping 4).nextIn 1 = none ∧ (∀ j ∈ (swapping 4).slotsOf 1 (fun _ l => l.resident), ((swapping 4).gang ((swapping 4).slot j).lid).level = 0) ∧ (saving 1).kPer < 8 := by decide +kernel

/-- A queue's descriptor at 0: a ring of 16 packets at 0x800, with WRIDX, RDIDX and tickets. -/
def descBytes (wr rd tickets : Nat) : List Nat := dws [2 ^ 63 + 4 * 2 ^ 56 + 0x800, wr * 2 ^ 32 + rd, tickets, 0]
def queued (x : BitVec 512) (h : QHead := { loaded := true, phase := 1 }) (D : Drover := {}) (wr : Nat := 1) : State :=
  let s := dispatched x [] h D
  { s with mem := cells 0 (descBytes wr 0 3) ++ s.mem }
def noDesc : QDesc := qdescOf 0
theorem witness_DroverQueues : let s := queued (recd [0x105]); let d := (s.qdesc 0 0).getD noDesc; let h := s.head 0 0
    ∃ m, s.qdesc 0 0 = some d ∧ s.droverRelease 0 0 ((d.ring + 64 * (d.rdidx % 2 ^ d.logn) + 8) % 2 ^ 56)
      (s.time % 2 ^ 32 * 2 ^ 32 + 2 ^ 24 + min h.ntail 255 * 2 ^ 16 + h.tstatus % 2 ^ 8 * 2 ^ 8 + 0 % 2 ^ 8) = some m ∧ h.packet.getLsbD 8 = true ∧ d.msix ≤ 2047 :=
  ⟨_, some0 _, some0 {}, by decide +kernel, by decide +kernel⟩
theorem witness_DroverQueues_doorbell : let s := queued (recd [5]); let d := (s.qdesc 0 0).getD noDesc; let room (w : Nat) := (w + 2 ^ 32 - d.rdidx) % 2 ^ 32
    s.serving = true ∧ s.ctxActive 0 = true ∧ s.qdesc 0 0 = some d ∧ d.wridx = 1 ∧ d.en = true ∧ d.ok = true ∧ 1 ≤ room 16 ∧ room 16 ≤ 2 ^ d.logn ∧ ¬room 17 ≤ 2 ^ d.logn ∧
      ({ s with tables := [] } : State).qdesc 0 0 = none ∧ s.ctxActive 8 = false := by decide +kernel
def dispatchHead : QHead := { loaded := true, packet := recd [5] }
/-- The table of descriptors begins at the last 32 bytes that are mapped, so that only queue 0 has one. -/
def dispatching : State :=
  let s := dispatched (recd [5]) [] { loaded := true } { regs := [(0x200, 0x7FFE0)] }
  { s with mem := s.mem ++ cells 0x7FFE0 (descBytes 1 0 3) }
theorem dispatching_none : dispatching.slots.isEmpty = true ∧ dispatching.parked.isEmpty = true ∧ dispatching.pipes.isEmpty = true ∧ dispatching.gangs.isEmpty = true := by decide +kernel
theorem dispatching_heads : (dispatching.drover 0).heads = [(0, dispatchHead)] := by decide +kernel
theorem dispatching_desc : (dispatching.qdesc 0 0).isSome = true := by decide +kernel
theorem dispatching_others : ∀ j < 64, j ≠ 0 → (dispatching.qdesc 0 j).all (fun d => !d.en || d.wridx == d.rdidx) = true := by decide +kernel
theorem dispatching_serves : dispatching.serving = true ∧ dispatching.ctxActive 0 = true ∧ (dispatching.drover 0).prepol = 0 := by decide +kernel
theorem dispatching_form : packetOk (dispatching.foldsOf 0).length dispatchHead.packet = true ∧ dispatching.queueOpen 0 0 = true := by decide +kernel
theorem dispatching_op : dispatchHead.packet.toNat % 2 ^ 8 = 5 ∧ dispatchHead.packet.getLsbD 32 = false := by decide +kernel
theorem witness_DroverQueues_dispatch : dispatching.serving = true ∧ dispatching.ctxActive 0 = true ∧ dispatching.slots = [] ∧ dispatching.parked = [] ∧ dispatching.pipes = [] ∧ dispatching.gangs = [] ∧
      (dispatching.drover 0).prepol = 0 ∧ (dispatching.drover 0).heads = [(0, dispatchHead)] ∧ dispatching.qdesc 0 0 = some ((dispatching.qdesc 0 0).getD noDesc) ∧
      (∀ j < 64, j ≠ 0 → (dispatching.qdesc 0 j).all (fun d => !d.en || d.wridx == d.rdidx) = true) ∧ dispatchHead.packet.toNat % 2 ^ 8 = 5 ∧ dispatchHead.packet.getLsbD 32 = false ∧
      packetOk (dispatching.foldsOf 0).length dispatchHead.packet = true ∧ dispatching.queueOpen 0 0 = true :=
  ⟨dispatching_serves.1, dispatching_serves.2.1, List.isEmpty_iff.mp dispatching_none.1, List.isEmpty_iff.mp dispatching_none.2.1, List.isEmpty_iff.mp dispatching_none.2.2.1, List.isEmpty_iff.mp dispatching_none.2.2.2,
    dispatching_serves.2.2, dispatching_heads, some0 noDesc dispatching_desc, dispatching_others, dispatching_op.1, dispatching_op.2, dispatching_form.1, dispatching_form.2⟩
theorem witness_DroverQueues_registers :
    (let s : State := { queued (recd [1]) { loaded := true, phase := 2, lid := 1 } with gangs := [(1, gangA)] }; let value : Word64 := 0x40
     s.serving = true ∧ s.device.off = false ∧ s.ctxActive 0 = true ∧ value.getLsbD 6 = true ∧ value.toNat % 2 ^ 6 = 0 ∧ (s.gang (s.head 0 0).lid).live = true ∧
       (s.gang (s.head 0 0).lid).queue = 0 ∧ (s.gang (s.head 0 0).lid).ctx = 0 ∧ (s.gang (s.head 0 0).lid).suspended = false ∧ (s.head 0 0).phase ≠ 4 ∧
       (({ s with gangs := [(1, { gangA with suspended := true })] } : State).gang (s.head 0 0).lid).suspended = true) ∧
    (let s := { queued (recd [1]) { loaded := true, notReady := some 5 } with time := 100005 }; let h := s.head 0 0
     h.notReady = some 5 ∧ h.loaded = true ∧ h.phase = 0 ∧ h.places = true ∧ h.reserving = none ∧ 5 + 100000 ≤ s.time) := by decide +kernel

/-- Launch headers: of the image at 0x1000 for at most eight contexts; an image that is not aligned; an entry that the image has not. -/
def launchX (image entry : Nat) : BitVec 512 := recd [1, 0, image + entry * 2 ^ 56, 3 * 2 ^ 60]
def launched : Check (Image × List (Nat × Nat) × Trace) := (queued (launchX 0x1000 0)).launchChecks 0 0 0 (packetHeader ((queued (launchX 0x1000 0)).head 0 0).packet)
theorem okTriple {ε α β γ : Type} (y : α × β × γ) (v : β) {x : Except ε (α × β × γ)} (h : isOk x = true) (e : (okD y x).2.1 = v) :
    x = .ok ((okD y x).1, v, (okD y x).2.2) := by subst e; exact ok0 y h
theorem launched_ok : isOk launched = true ∧ (okD default launched).2.1 = [(0, 0)] := by decide +kernel
theorem launched_eq : launched = .ok ((okD default launched).1, [(0, 0)], (okD default launched).2.2) := okTriple default _ launched_ok.1 launched_ok.2
theorem witness_Packets_launch : let s := queued (launchX 0x1000 0); let h := packetHeader (s.head 0 0).packet
    ∃ i tr, s.begun 0 0 1 = true ∧ s.holders 0 (s.head 0 0) = [] ∧ ({ s with slots := [(0, slotA)] } : State).holders 0 (s.head 0 0) ≠ [] ∧ (s.drover 0).enclave = false ∧ ((s.qdesc 0 0).map (·.level)).getD 0 = 0 ∧ s.launchChecks 0 0 0 h = .ok (i, [(0, 0)], tr) ∧ s.slots = [] :=
  ⟨(okD default launched).1, (okD default launched).2.2, by decide +kernel, by decide +kernel, by decide +kernel, by decide +kernel, by decide +kernel, launched_eq, by decide +kernel⟩
def errorOf {ε α : Type} (x : Except ε α) : Option ε := match x with | .error e => some e | .ok _ => none
theorem witness_Packets_launch_refused : lhImage (packetHeader (launchX 0x1001 0)) % 64 ≠ 0 ∧ (queued (launchX 0x1001 0)).begun 0 0 1 = true ∧
    errorOf ((queued (launchX 0x1000 1)).launchChecks 0 0 0 (packetHeader (launchX 0x1000 1))) = some ENTRY := by decide +kernel
/-- DETLEVEL, FENCE, and SIGNALs of the doubleword at 0x4000: of one that is mapped and writable, of one that is only readable, of none. -/
def signalX (add : Nat) : BitVec 512 := recd [6 + add * 2 ^ 32, 0, 0x4000, 5]
theorem witness_Packets : (queued (recd [4 + 2 ^ 32, 0, 0x4000, 64])).begun 0 0 4 = true ∧ (queued (recd [5])).begun 0 0 5 = true ∧
    (∀ add ∈ [0, 1], let s := queued (signalX add)
      s.begun 0 0 6 = true ∧ (signalX add).getLsbD 32 = (add == 1) ∧ s.walkNat 0 (dw (signalX add) 2) 8 = some 0 ∧ (s.droverRelease 0 0 (dw (signalX add) 2) 5).isSome = true ∧
        ({ s with tables := [(0, page 0 &&& ~~~8)] } : State).walkNat 0 (dw (signalX add) 2) 8 = some 0 ∧
        ({ s with tables := [(0, page 0 &&& ~~~8)] } : State).droverRelease 0 0 (dw (signalX add) 2) 5 = none ∧ ({ s with tables := [] } : State).walkNat 0 (dw (signalX add) 2) 8 = none) := by decide +kernel
/-- WAITV until the doubleword at 0x4000 is not below 0, which holds, or is 5, which does not, for 100 ns. -/
def waitX (cond ref : Nat) : BitVec 512 := recd [7 + cond * 2 ^ 32, 0, 0x4000, ref, 2 ^ 64 - 1, 100]
theorem witness_Packets_waitv : (∀ c ∈ [0, 1, 2, 3], (queued (waitX 2 0) { loaded := true, phase := 1, cond := c }).begun 0 0 7 = true) ∧
    (let s := { queued (waitX 2 0) { loaded := true, since := 5 } with time := 105 }; let h := s.head 0 0; let x := h.packet
     s.serving = true ∧ h.loaded = true ∧ h.phase = 0 ∧ x.toNat % 2 ^ 8 = 7 ∧ packetOk (s.foldsOf 0).length x = true ∧ h.cond = 0 ∧ s.walkNat 0 (dw x 2) 8 = some 0 ∧
       x.toNat / 2 ^ 32 % 8 = 2 ∧ BitVec.ofNat 64 (dw x 3) &&& BitVec.ofNat 64 (dw x 4) ≤ BitVec.ofNat 64 0 &&& BitVec.ofNat 64 (dw x 4) ∧ (s.walkTo 0 (dw x 2) false).isSome = true ∧
       dw x 5 ≠ 0 ∧ h.since + dw x 5 ≤ s.time) ∧
    (let x := waitX 0 5; packetOk 16 x = true ∧ BitVec.ofNat 64 0 &&& BitVec.ofNat 64 (dw x 4) ≠ BitVec.ofNat 64 (dw x 3) &&& BitVec.ofNat 64 (dw x 4)) := by decide +kernel
/-- PREEMPT of queue 1 by queue 0, with and without room for a record. -/
def preempting (bytes : Word64) : State := { queued (recd [8 + 2 ^ 32]) { loaded := true, phase := 1 }
    { heads := [(1, { loaded := true, phase := 2, lid := 1 })], regs := [(0x2C0, bytes), (0x308, 0x10000)] } with gangs := [(1, gangA)], slots := [(0, slotA)] }
theorem witness_Packets_preempt : let s := preempting 0x8000; let x := (s.head 0 0).packet
    s.begun 0 0 8 = true ∧ x.toNat / 2 ^ 32 % 2 ^ 6 = 1 ∧ (s.head 0 1).phase = 2 ∧ (s.head 0 1).lid = 1 ∧ (s.gang 1).live = true ∧ s.pageReg 0 (0x300 + 8 * 1) ≠ 0 ∧
      s.recordBytes 1 ≤ s.pageReg 0 0x2C0 % 2 ^ 32 ∧ ¬(preempting 64).recordBytes 1 ≤ (preempting 64).pageReg 0 0x2C0 % 2 ^ 32 ∧
      (queued (recd [8])).begun 0 0 8 = true ∧ (recd [8]).toNat / 2 ^ 32 % 2 ^ 6 = 0 := by decide +kernel
/-- A COLL of one participant with one chunk of 64 bytes from 0x4000 to 0x5000, and one whose source cannot be read. -/
def collX (src : Nat) : BitVec 512 := recd [3, 0, src, 0x5000, 64, 0, 1]
theorem witness_Packets_coll :
    (let s := queued (collX 0x4000); let x := (s.head 0 0).packet
     s.begun 0 0 3 = true ∧ dw x 6 / 2 ^ 32 % 2 ^ 6 = 0 ∧ (s.collInput 0 x 0 0).isSome = true ∧ (queued (collX 0x100000)).collInput 0 (collX 0x100000) 0 0 = none) ∧
    (let s := queued (collX 0x4000) { loaded := true, phase := 2, waitsChunk := true, chunkGot := some (0, upto) }; let h := s.head 0 0; let x := h.packet
     h.phase = 2 ∧ h.waitsChunk = true ∧ h.chunkGot = some (0, upto) ∧ h.status = 0 ∧ (s.walkWrite 0 ((dw x 3 % 2 ^ 56 + 64 * h.chunk) % 2 ^ 56) (natToBytes 64 upto.toNat)).isSome = true ∧
       h.chunk + 1 = dw x 4 % 2 ^ 32 / (if (dw x 6).testBit 30 then 128 else 64)) := by decide +kernel

/-- A device in FULL with a mailbox command in hand. -/
def mailbox (op : Nat) : State := { device := { state := 2 }, byvon := { done := false, op := op } }
/-- Bring-up: the device after power is good. -/
def device0 (state : Nat) : State := { device := { state := state } }
theorem witness_ByvonAndDevice :
    (∀ op ∈ [0, 1, 2, 3, 4, 5, 6], (mailbox op).device.off = false ∧ (mailbox op).byvon.done = false ∧ (mailbox op).byvon.op = op) ∧
    (let s := mailbox 1; let b := s.byvon
     b.committed = none ∧ b.index < 2 ^ 40 ∧ b.arg % 64 = 0 ∧ s.inDevice b.arg 40 = true ∧ s.inDevice (bytesToNat (s.bytesAt (b.arg + 32) 8)) 8192 = true) ∧
    (let b : Byvon := { (mailbox 1).byvon with index := 2 ^ 40 }; b.op = 1 ∧ b.committed = none ∧ 2 ^ 40 ≤ b.index) ∧
    (let b : Byvon := { (mailbox 1).byvon with committed := some 0, request := List.replicate 40 0 }; b.committed = some 0 ∧ b.request.length = 40) := by decide +kernel
theorem witness_ByvonAndDevice_bringUp :
    (let s := device0 0; s.device.off = false ∧ s.device.state = 0 ∧ s.device.verified = false) ∧
    (let s : State := { device := { state := 0, verified := true } }
     s.device.off = false ∧ s.device.state = 0 ∧ s.device.verified = true ∧ s.device.statevec ≤ 2047) ∧
    (device0 1).device.state = 1 ∧ (device0 1).device.off = false := by decide +kernel
theorem walkTo_unmapped {s : State} (h : s.tables = []) (p va : Nat) (b : Bool) : s.walkTo p va b = none := by simp [State.walkTo, State.walk, h]
theorem qdesc_unmapped {s : State} (h : s.tables = []) (p q : Nat) : s.qdesc p q = none := by
  have hr : s.walkRead p (s.qdescAt p q) 32 = none := by simp [State.walkRead, walkTo_unmapped h, List.range_succ]
  simp [State.qdesc, State.walkNat, hr]
/-- A paddock with no tables, whose cores run nothing, is idle. -/
theorem idle_unmapped {s : State} (h : s.tables = []) (hg : s.gangs = []) (hs : s.slots = []) (hp : s.pipes = []) (hc : s.cycles = []) (p : Nat) : s.contextIdle p = true := by
  simp [State.contextIdle, qdesc_unmapped h, hg, hs, hp, hc]
theorem witness_ByvonAndDevice_partition :
    (device0 1).serving = true ∧ (device0 2).serving = true ∧ (device0 1).device.state = 1 ∧ (device0 2).device.state ≠ 1 ∧
    (∀ value : Word64, let s := device0 2
     let u : State := { s with device := { s.device with parterr := s.device.parterr && !(value.getLsbD 8) } }; ∀ p < 8, u.contextIdle p = true) ∧
    (let s : State := { device0 2 with cycles := [(0, { phase := 2 })] }; s.serving = true ∧ s.device.state ≠ 1 ∧ ∃ p < 8, s.contextIdle p = false) :=
  ⟨by decide +kernel, by decide +kernel, by decide +kernel, by decide +kernel, fun _ p _ => idle_unmapped rfl rfl rfl rfl rfl p, by decide +kernel, by decide +kernel,
    0, by decide, by simp [State.contextIdle, Cycle.isOpen]⟩
def linked (x : Nat) : State := { device := { state := 2, linkst := BitVec.ofNat 64 (16 * x) } }
theorem witness_ByvonAndDevice_links :
    (∀ x ∈ [0, 3, 4], (linked x).serving = true) ∧ (1 : Nat) < 16 ∧ (linked 0).device.state ≠ 1 ∧ (linked 0).linkOf 1 = 0 ∧ (linked 0).linkOf 1 ≠ 4 ∧ (linked 0).linkOf 1 ≠ 3 ∧ (linked 4).linkOf 1 = 4 ∧ (linked 3).linkOf 1 = 3 ∧
      (Sparse.get 0 (linked 3).device.authFails 1) = 0 := by decide +kernel
theorem witness_ByvonAndDevice_power :
    (device0 2).device.off = false ∧ (device0 2).device.state = 2 ∧ (device0 2).serving = true ∧ (device0 2).device.pwrcap < 1501 ∧ ¬(device0 2).device.pwrcap < 1500 ∧ (99 : Nat) < 100 ∧
      (109 : Nat) < 110 ∧ (110 : Nat) ≤ 110 := by decide +kernel
theorem witness_ByvonAndDevice_host :
    let s := device0 2
    s.serving = true ∧ s.device.hostPorts.contains 0 = true ∧ s.inDevice 64 2 = true ∧ ([1, 2] : List Byte) ≠ [] ∧ s.device.hostFrozen = false ∧
      (¬∃ r ∈ s.firewall, overlaps r.1 (r.2.1 - r.1) 64 2 = true) ∧
      (∃ r ∈ ({ s with firewall := [(0, 128, 0)] } : State).firewall, overlaps r.1 (r.2.1 - r.1) 64 2 = true) ∧ s.byvon.frbase = 0 := by decide +kernel

/-- The turn of core 0, in which hart 0 issues an ADD, or a word of zeros. -/
def fetching : State := { issuing with agenda := [{ dt := 0, what := .issueChoice 0 }] }
def fetchingZeros : State := { two 3 5 with agenda := [{ dt := 0, what := .issueChoice 0 }] }
theorem witness_StepRunsDecoded : ∀ s ∈ [fetching, fetchingZeros], ∃ n ∈ [0, 1], ∃ img ∈ [(page 0x80000).toNat, (page 0).toNat],
    let u : State := { s.begin with cur := 0 }
    let c := u.ctx 0
    let pc := c.pc.toNat
    s.agenda.length = 1 ∧ s.nextTurn = { dt := 0, what := .issueChoice 0 } ∧ s.begin.serving = true ∧ s.begin.choose 0 = some 0 ∧ s.begin.takesPending 0 = false ∧ isService (coreOf 0) = false ∧ c.rep = none ∧ (s.begin.slotOf 0).relocks = none ∧
    pc % 4 = 0 ∧ c.regBase.toNat ≤ pc ∧ pc + 12 ≤ c.regLimit.toNat ∧ tlbFind (u.core (coreOf 0)) pc = some (n, img) ∧
    imgAdmits img c.mode .fetch = true ∧ pc % 2 ^ pageShift (imgSize img) + 12 ≤ 2 ^ pageShift (imgSize img) ∧ u.crosses (coreOf 0) (imgMap img pc) 12 = false := by decide +kernel
theorem witness_StepRunsDecoded_decodes :
    (let u : State := { fetching.begin with cur := 0 }
     (decodeWord (u.decodeEnv 0) (BitVec.ofNat 96 (le u (imgMap (page 0x80000).toNat (u.ctx 0).pc.toNat) 12))).toOption = some (.add (D1 0x380))) ∧
    (let u : State := { fetchingZeros.begin with cur := 0 }
     isOk (decodeWord (u.decodeEnv 0) (BitVec.ofNat 96 (le u (imgMap (page 0x80000).toNat (u.ctx 0).pc.toNat) 12))) = false ∧ u.entersTraps) := by unfold State.entersTraps; decide +kernel
theorem witness_EncodeDecodeRoundTrip : Instr.wellFormed DecodeEnv.hart (.add (D1 0x380)) := by unfold Instr.wellFormed; decide +kernel
theorem witness_MemoryStaysCanonical : fetching.memOk ∧ ∃ t, step fetching = .next t := by
  refine ⟨by unfold State.memOk; decide +kernel, ?_⟩
  have h : (match step fetching with | .next _ => true | _ => false) = true := by decide +kernel
  cases e : step fetching with
  | next t => exact ⟨t, rfl⟩
  | fault r => rw [e] at h; simp at h
  | refused r => rw [e] at h; simp at h

/-! ### Further witnesses: the other operands, the other clauses, and boundary values -/

/-- Operand B and operand D of an instruction that reads them, and the source of a move into a guard. -/
theorem witness_TaggedDataTraps_others : let s := regsOf [(1, d 7), (2, c4), (3, d 9)]
    (let f := F (.c 1) (.c 3) (.c 2) 0x380 0
     acts s f ∧ s.entersTraps ∧ f.lit = false ∧ f.b = .c 2 ∧ ((s.ctx s.cur).getC 2).tag = true ∧ holds s f.a 9 ∧ holds s f.d 7) ∧
    (let f := F (.c 2) (.c 3) (.c 1) 0x380 0; acts s f ∧ f.d = .c 2) ∧ (let f := F (.g 1) (.c 2) (.c 0) 0 0; acts s f ∧ f.a = .c 2 ∧ f.d = .g 1) :=
  ⟨⟨acts0, enters0, rfl, rfl, by decide +kernel, holds0, holds0⟩, ⟨acts0, rfl⟩, acts0, rfl, rfl⟩
theorem witness_NoForgedCapability_sysrd : let f := F (.c 1) (.c 0) (.c 0) 0 0x012
    f.imm.toNat % 2 ^ 12 ≠ 0x060 ∧ f.imm.toNat % 2 ^ 12 ≠ 0x061 ∧ ∃ t, exec (.sysrd f) sys0 = .next t := by
  refine ⟨by decide, by decide, ?_⟩
  have h := test_sysrd
  unfold reg1 at h
  split at h
  · exact ⟨_, by assumption⟩
  · cases h
/-- A beat that brings nothing to learn, and one for which the interval has room; the last interval that has. -/
theorem witness_StreamRegisters_room : let s := mach { ctxOf [] with q := [(1, ⟨true, 3⟩)] } { slotA with interval := 2 ^ 17 - 1, arrivals := [(3, [⟨upto, [(clockKey 1 9, 4)]⟩])] }
    acts s (F (.c 0) (.q 1) (.c 0) 0 0) ∧ Sparse.get [] (s.slotOf s.cur).arrivals 3 = [⟨upto, [(clockKey 1 9, 4)]⟩] ∧
      (s.slotOf s.cur).interval + 1 ≤ (s.slotOf s.cur).hurdleInterval + 2 ^ 17 := ⟨acts0, by decide +kernel, by decide +kernel⟩
theorem witness_TlbInvalidateAndFill_due : filling.resultsDue (coreOf filling.cur) (fun _ => true) = false := by decide +kernel
theorem witness_TranslationEvents_repeat : let s := missing [⟨0x80000, 1⟩] { missA with tried := some 5 } 1005
    s.missOf 0 0 (fun x => match x.tried with | some t => decide (t + 1000 ≤ s.time) | none => false) = some { missA with tried := some 5 } ∧
      (s.fold 0).missQueue.length < 64 ∧ ∀ e ∈ (s.fold 0).missQueue, e.key ≠ missA.va / 2 ^ 19 * 2 ^ 19 := by decide +kernel
/-- RDV with a list in hand and without one, and INRECV of an entry with a clock, each in the last interval that has room. -/
theorem witness_ForkAndInbox_intervals : let s := core0 {} [] { slotA with interval := 2 ^ 17 - 1, inbox := [⟨42, [(clockKey 1 9, 4)]⟩] }; let sl := s.slotOf s.cur
    acts s forkF ∧ sl.interval + 1 ≤ sl.hurdleInterval + 2 ^ 17 ∧ (∀ e ∈ sl.forks, e.2.active = false) ∧ (∀ e, s.listBusy (coreOf s.cur) (s.slotNo s.cur) e = false) ∧
      sl.inbox = [⟨42, [(clockKey 1 9, 4)]⟩] ∧ sl.held = [] ∧
      ∃ e ∈ ((core0 {} [] { slotA with interval := 2 ^ 17 - 1, forks := [(2, { active := true })] }).slotOf s.cur).forks, e.2.active = true :=
  ⟨acts0, by decide +kernel, by decide +kernel, fun e => by cases e <;> decide +kernel, by decide +kernel, by decide +kernel, by decide +kernel⟩
/-- A list behind a command that runs, and behind the parts of one. -/
theorem witness_ListsAndCompletions_waits : let c : Cmd := { id := 1, lid := 1, record := 0x12 }
    (let s := listed 64 [] { run := some { cmd := c } }; (s.engine 0 .copy).queue = [.list 0] ∧ (s.engine 0 .copy).run ≠ none ∧ s.halting (slotKey 0 0) = false) ∧
    ((listed 64 []).engine 0 .copy).parts = [] ∧ ((listed 64 []).engine 0 .copy).run = none := by decide +kernel
/-- A copy from a page of the host tier, at whose lines it has stood for 100 µs. -/
theorem witness_CopyEngine_host_late : let c : Cmd := { id := 1, lid := 1, record := 0x10, regions := [⟨0, 0, 64, false⟩, ⟨1, 0x100, 64, true⟩] }
    let s (r : Run) : State := { core0 {} with cores := [(0, { copy := { run := some r }, tlb := [(0, page 0 + BitVec.ofNat 128 (2 ^ 115))] })], time := 100007 }
    (let r : Run := { cmd := c, hostAt := some (7, 0) }
     ((s r).engine 0 .copy).run = some r ∧ ((s r).engine 0 .copy).done = [] ∧ ((s r).engine 0 .copy).frozen = false ∧ (s r).halting (slotKey r.cmd.issuer r.cmd.slot) = false ∧
       kindOf r.cmd = 0x10 ∧ r.cmd.record.toNat / 2 ^ 256 % 2 ^ 64 ≤ (s r).time ∧ r.cmd.regions = [⟨0, 0, 64, false⟩, ⟨1, 0x100, 64, true⟩] ∧ 7 + 100000 ≤ (s r).time) ∧
    (let r : Run := { cmd := c }; (s r).hostLate r = none ∧ (s r).hostLines 0 r ≠ []) := by decide +kernel
theorem witness_CycleSteps_deadline_thawed : ((team (ctxOf [])).ctx (hartOfSlot 0)).frozen = false := by decide +kernel
/-- A posted store meets no frozen share. -/
theorem witness_PostedStores_arrival_thawed : (pairOf (ctxOf []) [(3, { lid := 1, state := 1, addr := 2 ^ 44 + 8, size := 4, data := 7 })]).shareFrozen 1 8 4 = false := by decide +kernel
/-- A gang that is to end owes nothing, or a posted store of its vcore is on its way. -/
theorem witness_ContextsAndSuspension_owes :
    (let s := crook { slotA with stopping := true } { loaded := true, phase := 4, lid := 1 } { gangA with endWith := some 0x3C }
     s.slotStopped 16 = true ∧ s.owesEntries 1 = false ∧ s.serving = true) ∧
    (let s := crook { slotA with stopping := true, journal := [(0, { lid := 1, state := 1, addr := 2 ^ 44 + 8, size := 4 })] } { loaded := true, phase := 4, lid := 1 } { gangA with endWith := some 0x3C }
     s.slotStopped 16 = true ∧ s.owesEntries 1 = true ∧ s.serving = true ∧ (s.gang 1).live = true) := by decide +kernel
/-- ABORT of a suspended gang that owes nothing, and of one of which a posted store is on its way. -/
theorem witness_DroverQueues_abort : let g : Gang := { gangA with suspended := true, queue := 0, ctx := 0 }
    let s (j : Sparse JEntry) : State := crook { slotA with live := false, lid := 0, journal := j } { loaded := true, phase := 3, lid := 1 } g
    let aims (s : State) : Prop := s.serving = true ∧ s.ctxActive 0 = true ∧ (0x40 : Word64).getLsbD 6 = true ∧ (0x40 : Word64).toNat % 2 ^ 6 = 0 ∧ (s.gang 1).live = true ∧
      (s.gang 1).queue = 0 ∧ (s.gang 1).ctx = 0 ∧ (s.gang 1).suspended = true
    (aims (s []) ∧ (s []).owesEntries 1 = false) ∧ aims (s [(0, { lid := 1, state := 1 })]) ∧ (s [(0, { lid := 1, state := 1 })]).owesEntries 1 = true := by decide +kernel
/-- TAIL of a header, and PSPLICE of a payload, with an uncorrectable error: they trap. -/
theorem witness_SystemRegistersAndEnds_tail_check : let rq : Req := { op := 0x0C8, field := 2, opnd := tailF.a, n := 48, al := 16, ld := true, st := false, spaces := [0, 1, 5] }
    let s := { memo [(5, mkCap 1 0x0B 0 768)] with poison := [inL 8 / 8] }
    ∃ u ps, acts s tailF ∧ spanAccess s.cur rq (s.capOpnd tailF.a) (offs tailF) s = .ok (u, ps) ∧ (Out.spans s.cur { s := u } ps).next ≠ .seq :=
  ⟨_, _, acts0, okP ({}, []), by decide +kernel⟩
theorem witness_Pipelines_psplice_check : let rq : Req := { op := 0x342, field := 2, opnd := spliceF.a, n := 40, al := 8, ld := true, st := false, spaces := [0, 1] }
    let s := { piped pipeX {} { gangA with pipe := some 0 } [] (ctxOf [(5, mkCap 1 0x0B 0 768)]) with poison := [inL 8 / 8] }
    ∃ u ps, acts s spliceF ∧ spanAccess s.cur rq (s.capOpnd spliceF.a) (offs spliceF) s = .ok (u, ps) ∧ (Out.spans s.cur { s := u } ps).next ≠ .seq :=
  ⟨_, _, acts0, okP ({}, []), by decide +kernel⟩
/-- The WEIGHT tensor with scale entries in L; that of row 1 has an uncorrectable error. -/
def weighingScaled : State := { weighing with
  slots := [(0, { slotA with tensors := [(3, tens 3 0 0x100 0 0 4 2 4 0 1 1 0x40 + BitVec.ofNat 256 (2 ^ 173))] })], poison := [inL 0x44 / 8] }
theorem witness_SystemRegistersAndEnds_wupd_check : let s := weighingScaled; let f := wupdF 0x143; let t := (s.slotOf s.cur).tensor (f.md.toNat % 64)
    let out (ss : List FVal) := rowStores t 0 1 ((List.zipWith (fun x y => demitConv t (if f.md.toNat / 2 ^ 7 % 16 = 8 then fval 23 x else intVal (BitVec.ofNat 32 x).toInt) y)
      ((s.ctx s.cur).lanes32 (opndNum f.a) t.cols) ss).map (·.1))
    ∃ s0 sl ss u ls, acts s f ∧ holdsB s f false 1 ∧ t.kind ≠ 0 ∧ t.weight = true ∧ t.space = 0 ∧ 1 < t.rows ∧ s.heldLocks 0 = [] ∧ s.entersTraps ∧
      s.demitScales s.cur 0x2A0 t 0 1 (f.md.getLsbD 6) = .ok (s0, sl, ss) ∧
      wupdPlaces s.cur t.space s ((out ss).flatMap (fun w => linePieces w.1 w.2.length)) s0 = .ok (u, ls) ∧ ∃ x ∈ sl, u.poisoned x t.scaleBytes = true :=
  ⟨_, _, _, _, _, acts0, holdsB0, by decide +kernel, by decide +kernel, by decide +kernel, by decide +kernel, by decide +kernel, enters0, okT, okP ({}, []), by decide +kernel⟩
/-- R121 works out this word: CMP of c7 with a literal 0 into g1. -/
theorem test_cmp_mask_and_scalar : guard1 (.cmp (F (.g 1) (.c 7) (.c 0) 0xB00 0)) (regsOf [(7, d 0)]) = some (BitVec.allOnes 64) := by decide +kernel

end Sys2Proof.Tests
end

section
/-! # Memory keeps its canonical form (O60)

Only a few operations of the model touch `mem`: the byte stores of `Memory.writeBytes`, and the filters that clear a range.
Every other function rebuilds the state around the memory of an earlier one. So there is one lemma per function of the model,
`State.memOk.<function>`, that says: from a state of canonical memory it makes states of canonical memory. A proof of one of
them follows the function's definition and cites the lemmas of the functions that it calls, mostly as a chain
`h.setSlot.modCtx`; only where the function matches on a value is there a `split`. What a function answers besides a state
(a trap, a stop, an outcome) has its own `memOk`, and a computation in `Except` or `Option` is described by `Ends` or `Gives`. -/

namespace Sys2Proof

/-- Entries may be dropped: the rest still rise and still list no default. -/
theorem Sparse.wf_filter {α : Type} [DecidableEq α] (d : α) (m : Sparse α) (f : Nat × α → Bool) (h : Sparse.wf d m = true) :
    Sparse.wf d (m.filter f) = true := by
  unfold Sparse.wf at h ⊢
  rw [Bool.and_eq_true] at h ⊢
  obtain ⟨hs, hd⟩ := h
  refine ⟨(Sparse.sorted_iff _).2 (((Sparse.sorted_iff m).1 hs).filter _), ?_⟩
  rw [List.all_eq_true] at hd ⊢
  exact fun e he => hd e (List.mem_of_mem_filter he)

end Sys2Proof

namespace Sys2Proof.Machine

variable {α β ε : Type} {s t : State}

/-- The form is a fact about `mem` alone. -/
theorem State.memOk.of_mem (h : s.memOk) (e : t.mem = s.mem) : t.memOk := by
  unfold State.memOk
  rw [e]
  exact h

theorem State.memOk.withParked {x : Sparse Parked} (h : s.memOk) : ({ s with parked := x } : State).memOk := h

theorem State.memOk.ite {c : Prop} [Decidable c] (hs : s.memOk) (ht : t.memOk) : (if c then s else t).memOk := by
  split
  · exact hs
  · exact ht

theorem State.memOk.foldl {l : List α} {f : State → α → State} (h : s.memOk) (hf : ∀ t x, t.memOk → (f t x).memOk) :
    (l.foldl f s).memOk :=
  List.foldlRecOn l f h fun t ht x _ => hf t x ht

theorem State.memOk.fst {a : α} (h : s.memOk) : (s, a).1.memOk := h

theorem State.memOk.ite_fst {c : Prop} [Decidable c] {p q : State × α} (hp : p.1.memOk) (hq : q.1.memOk) : (if c then p else q).1.memOk := by
  split
  · exact hp
  · exact hq

theorem State.memOk.of_filter {f : Host.Cell → Bool} (h : s.memOk) (e : t.mem = s.mem.filter f) : t.memOk := by
  unfold State.memOk Memory.wf
  rw [e]
  exact Sparse.wf_filter _ _ _ h

theorem State.memOk.storeBytes {a : Nat} {bs : List Byte} (h : s.memOk) : (s.storeBytes a bs).memOk := State.memOk_storeBytes s a bs h
theorem State.memOk.write {a n x : Nat} (h : s.memOk) : (s.write a n x).memOk := State.memOk_write s a n x h
theorem State.memOk.writeTagged {a : Nat} {r : CReg} (h : s.memOk) : (s.writeTagged a r).memOk := State.memOk_writeTagged s a r h

theorem State.memOk.of_fst {p : State × α} {a : α} (h : p.1.memOk) (e : p = (t, a)) : t.memOk := by
  rw [e] at h
  exact h

/-- A stop that carries a state carries one of canonical memory. -/
def Stop.memOk : Stop → Prop
  | .trap _ _ => True
  | .stay s => s.memOk
  | .fin s => s.memOk

/-- The same of what ends a step of an engine short. -/
def EStop.memOk : EStop → Prop
  | .miss s => s.memOk
  | _ => True

/-- The same of the outcome of a race check. -/
def RaceOut.memOk : RaceOut → Prop
  | .ok s => s.memOk
  | _ => True

/-- The same of the outcome of a delivery. -/
def Delivery.memOk : Delivery → Prop
  | .done s => s.memOk
  | _ => True

/-- The state that an instruction's body leaves has canonical memory. -/
def Out.memOk (o : Out) : Prop := o.s.memOk

theorem Out.memOk.foldl {l : List α} {f : Out → α → Out} {o : Out} (h : o.memOk) (hf : ∀ o x, o.memOk → (f o x).memOk) :
    (l.foldl f o).memOk :=
  List.foldlRecOn l f h fun o ho x _ => hf o x ho

theorem RaceOut.memOk.of_ok {r : RaceOut} (h : r.memOk) (e : r = .ok t) : t.memOk := by
  rw [e] at h
  exact h

theorem Delivery.memOk.of_done {r : Delivery} (h : r.memOk) (e : r = .done t) : t.memOk := by
  rw [e] at h
  exact h

/-- A computation ends with a value of `P`, or short of it with `E`. -/
def Ends (E : ε → Prop) (P : α → Prop) : Except ε α → Prop
  | .ok a => P a
  | .error e => E e

/-- What is there, if anything, has `P`. -/
def Gives (P : α → Prop) (o : Option α) : Prop := ∀ a, o = some a → P a

/-- What a turn leaves, if it leaves a state, keeps the canonical form. -/
def Result.memOk : Result → Prop
  | .next s => s.memOk
  | _ => True

theorem Result.memOk.next (h : s.memOk) : Result.memOk (.next s) := h

theorem Result.memOk.of_next {r : Result} (h : Result.memOk r) (e : r = .next t) : t.memOk := by
  rw [e] at h
  exact h

section Ends
variable {E : ε → Prop} {P : α → Prop} {Q : β → Prop} {x y : Except ε α}

theorem Ends.ok {a : α} (h : P a) : Ends E P (.ok a) := h
theorem Ends.value {a : α} : Ends E (fun _ => True) (.ok a) := trivial
theorem Ends.error {e : ε} (h : E e) : Ends E P (.error e) := h
theorem Ends.ite {c : Prop} [Decidable c] (hx : Ends E P x) (hy : Ends E P y) : Ends E P (if c then x else y) := by
  split
  · exact hx
  · exact hy
theorem Ends.bind {f : α → Except ε β} (hx : Ends E P x) (hf : ∀ a, P a → Ends E Q (f a)) : Ends E Q (x >>= f) := by
  cases x with
  | ok a => exact hf a hx
  | error e => exact hx
theorem Ends.mapM {f : β → Except ε α} (hf : ∀ b, Ends E (fun _ => True) (f b)) {l : List β} : Ends E (fun _ => True) (l.mapM f) := by
  induction l with
  | nil => exact trivial
  | cons b l ih =>
    rw [List.mapM_cons]
    exact (hf b).bind fun _ _ => ih.bind fun _ _ => trivial
theorem Ends.of_ok {a : α} (hx : Ends E P x) (e : x = .ok a) : P a := by
  rw [e] at hx
  exact hx
theorem Ends.of_error {e : ε} (hx : Ends E P x) (he : x = .error e) : E e := by
  rw [he] at hx
  exact hx
theorem Ends.trap {cause tval : Nat} : Ends Stop.memOk P (trap cause tval) := trivial
theorem Ends.operandTrap {op reason field : Nat} {f : Fields} {o : Opnd} : Ends Stop.memOk P (operandTrap s op f reason field o) := .trap
theorem Ends.need {ok : Bool} {cause tval : Nat} : Ends Stop.memOk (fun _ => True) (need ok cause tval) := by
  unfold Machine.need
  exact .ite trivial .trap
theorem Ends.boundCheck {op : Nat} {f : Fields} {x : List (Nat × Opnd)} : Ends Stop.memOk (fun _ => True) (boundCheck s op f x) := by
  fun_induction Machine.boundCheck s op f x with
  | case1 => exact .value
  | case2 _ _ _ _ ih => exact ih
  | case3 => exact .operandTrap
  | case4 _ _ _ ih => exact ih
theorem Ends.atSpace {P : α → Prop} {sp : Nat} {x : Except EStop α} (hx : Ends EStop.memOk P x) :
    Ends (fun r => r.2.memOk) P (atSpace sp x) := by
  cases x with
  | ok a => exact hx
  | error e => exact hx
end Ends

section Gives
variable {P : α → Prop} {Q : β → Prop} {x y : Option α}
theorem Gives.none : Gives P .none := nofun
theorem Gives.some {a : α} (h : P a) : Gives P (.some a) := fun _ e => Option.some.inj e ▸ h
theorem Gives.ite {c : Prop} [Decidable c] (hx : Gives P x) (hy : Gives P y) : Gives P (if c then x else y) := by
  split
  · exact hx
  · exact hy
theorem Gives.map {f : α → β} (hx : Gives P x) (hf : ∀ a, P a → Q (f a)) : Gives Q (x.map f) := by
  cases x with
  | none => exact .none
  | some a => exact .some (hf a (hx a rfl))
theorem Gives.findSome? {f : β → Option α} {l : List β} (hf : ∀ b, Gives P (f b)) : Gives P (l.findSome? f) := by
  induction l with
  | nil => exact .none
  | cons b l ih =>
    rw [List.findSome?_cons]
    split
    next e => exact .some (hf b _ e)
    · exact ih
theorem Gives.or (hx : Gives P x) (hy : Gives P y) : Gives P (x.or y) := by
  cases x with
  | none => exact hy
  | some a => exact hx
theorem Gives.any : Gives (fun _ => True) x := fun _ _ => trivial
theorem Gives.getD {d : α} (hx : Gives P x) (hd : P d) : P (x.getD d) := by
  cases x with
  | none => exact hd
  | some a => exact hx a rfl
end Gives

section
variable {s : State} {f : Fields}

/-! ### The shared operations -/

theorem State.memOk.setCtx {k : Nat} {c : Ctx} (h : s.memOk) : (s.setCtx k c).memOk := h

theorem State.memOk.modCtx {k : Nat} {f : Ctx → Ctx} (h : s.memOk) : (s.modCtx k f).memOk := h.setCtx

theorem State.memOk.setSlot {k : Nat} {x : Slot} (h : s.memOk) : (s.setSlot k x).memOk := h

theorem State.memOk.modSlot {k : Nat} {f : Slot → Slot} (h : s.memOk) : (s.modSlot k f).memOk := h.setSlot

theorem State.memOk.setCore {k : Nat} {x : Core} (h : s.memOk) : (s.setCore k x).memOk := h

theorem State.memOk.modCore {k : Nat} {f : Core → Core} (h : s.memOk) : (s.modCore k f).memOk := h.setCore

theorem State.memOk.setFold {k : Nat} {x : Fold} (h : s.memOk) : (s.setFold k x).memOk := h

theorem State.memOk.modFold {k : Nat} {f : Fold → Fold} (h : s.memOk) : (s.modFold k f).memOk := h.setFold

theorem State.memOk.setDrover {k : Nat} {x : Drover} (h : s.memOk) : (s.setDrover k x).memOk := h

theorem State.memOk.modDrover {k : Nat} {f : Drover → Drover} (h : s.memOk) : (s.modDrover k f).memOk := h.setDrover

theorem State.memOk.setGang {k : Nat} {x : Gang} (h : s.memOk) : (s.setGang k x).memOk := h

theorem State.memOk.modGang {k : Nat} {f : Gang → Gang} (h : s.memOk) : (s.modGang k f).memOk := h.setGang

theorem State.memOk.modKnown {k : Nat} {f : Known → Known} (h : s.memOk) : (s.modKnown k f).memOk := h.modCtx.ite h.modSlot

theorem State.memOk.upsetWord {x : Option (Nat × BitVec 64)} (h : s.memOk) : (s.upsetWord x).memOk := by
  unfold State.upsetWord
  split
  · exact h.ite (Memory.wf_writeBytes _ _ _ h)
  · exact h

theorem State.memOk.raiseMsix {port vec : Nat} (h : s.memOk) : (s.raiseMsix port vec).memOk := h.ite (.of_mem h rfl)

theorem State.memOk.reportFreeze {fold : Nat} {f : Freeze} (h : s.memOk) : (s.reportFreeze fold f).memOk :=
  .raiseMsix (.modFold (.of_mem h.storeBytes (by dsimp only)))

theorem State.memOk.freeze {k cause addr : Nat} (h : s.memOk) : (s.freeze k cause addr).memOk := h.modCtx.reportFreeze

theorem State.memOk.enterTrap {k flags cause tval : Nat} (h : s.memOk) : (s.enterTrap k flags cause tval).memOk := h.modCtx

theorem State.memOk.violates {k addr : Nat} (h : s.memOk) : (s.violates k addr).memOk := h.modCtx.freeze

theorem State.memOk.takeTrap {k flags cause tval : Nat} (h : s.memOk) : (s.takeTrap k flags cause tval).memOk :=
  h.modSlot.modCtx.ite (h.freeze.ite h.enterTrap)

/-! ### Operands -/

theorem Ends.dataOpnd {op field : Nat} {o : Opnd} : Ends Stop.memOk (fun _ => True) (s.dataOpnd op field o) := by
  unfold State.dataOpnd
  split
  · exact .ite .trap .value
  · exact .value
  · exact .value
  · exact .value
  · exact .value
  · exact .value

theorem Ends.opndB {op : Nat} {signed : Bool} : Ends Stop.memOk (fun _ => True) (s.opndB op f signed) := .ite .value .dataOpnd

theorem State.memOk.setD {o : Opnd} {r : CReg} (h : s.memOk) : (s.setD o r).memOk := by
  unfold State.setD
  split
  · exact h.modCtx
  · exact h

theorem State.memOk.setVD {o : Opnd} {x : VReg} (h : s.memOk) : (s.setVD o x).memOk := by
  unfold State.setVD
  split
  · exact h.modCtx
  · exact h

theorem State.memOk.setGuardD {o : Opnd} {x : Word64} (h : s.memOk) : (s.setGuardD o x).memOk := by
  unfold State.setGuardD
  split
  · exact h.modCtx
  · exact h

theorem State.memOk.setOwnGuard {b : Bool} (h : s.memOk) : (s.setOwnGuard f b).memOk := h.modCtx

theorem State.memOk.done (h : s.memOk) : Ends Stop.memOk Out.memOk (done s) := .ok h

/-! ### Accesses to memory -/

theorem State.memOk.walkWrite {p va : Nat} {bs : List Byte} (h : s.memOk) : Gives State.memOk (s.walkWrite p va bs) := by
  unfold State.walkWrite
  split
  · exact .none
  · exact .ite (.some h.storeBytes) .none

theorem State.memOk.addHeld {p : Nat} (h : s.memOk) : (s.addHeld p).memOk := h.modDrover

theorem State.memOk.dropMisses {k : Nat} (h : s.memOk) : (s.dropMisses k).memOk := h.ite h.modCore.modFold

theorem State.memOk.pageFault {k va kind : Nat} {ak : AKind} (h : s.memOk) : (s.pageFault k va kind ak).memOk := by
  unfold State.pageFault
  extract_lets
  split
  · dsimp only
    split
    · exact h.dropMisses.modFold.modCtx
    · exact h.dropMisses.modFold.takeTrap
  · exact h

theorem State.memOk.miss {k va : Nat} {ak : AKind} (h : s.memOk) : (s.miss k va ak).memOk := by
  unfold State.miss
  dsimp only
  split
  · split
    · exact h
    · exact h.pageFault
  · exact h.modCore

theorem State.memOk.lockMiss {k a : Nat} (h : s.memOk) : (s.lockMiss k a).memOk := h.modCore

theorem State.memOk.obtain {k x : Nat} (h : s.memOk) : (State.obtain k x s).1.memOk := by
  induction x generalizing s with
  | zero =>
    unfold State.obtain
    exact h
  | succ _ ih =>
    unfold State.obtain
    dsimp only
    split
    · exact h
    · refine .ite_fst (ih h.modSlot) ?_
      split
      · exact ih h.modSlot
      · split
        · exact h.ite_fst (ih h.dropMisses.modSlot)
        · exact h.lockMiss

theorem State.memOk.translate {k va : Nat} {ak : AKind} (h : s.memOk) : Ends Stop.memOk (fun _ => True) (s.translate k va ak) := by
  unfold State.translate
  refine .ite .value ?_
  split
  · exact .ite .value .trap
  · exact .ite .trap (.error h.miss)

theorem Ends.capCheck {k : Nat} {rq : Req} {r : CReg} {off : Int} : Ends Stop.memOk (fun _ => True) (capCheck s k rq r off) :=
  .bind .need fun _ _ => .bind .need fun _ _ => .bind .need fun _ _ => .bind .need fun _ _ => .bind .need fun _ _ => .bind .need fun _ _ =>
    .bind .need fun _ _ => .bind .need fun _ _ => .bind .need fun _ _ => .bind .need fun _ _ => .value

theorem State.memOk.remoteCheck {k a n : Nat} (h : s.memOk) : Ends Stop.memOk (fun _ => True) (s.remoteCheck k a n) := by
  unfold State.remoteCheck
  refine .bind .need fun _ _ => .bind .need fun _ _ => ?_
  split
  · exact .need
  · split
    · exact .trap
    · exact .error h
    · exact .ite (.error h) .value

theorem State.memOk.shadowWrite {p : Nat} {x : List (Nat × Nat)} (h : s.memOk) :
    Ends (fun _ => True) State.memOk (State.shadowWrite p x s) := by
  induction x generalizing s with
  | nil =>
    unfold State.shadowWrite
    exact .ok h
  | cons _ _ ih =>
    unfold State.shadowWrite
    split
    next e => exact ih (h.walkWrite _ e)
    · exact .error trivial

theorem State.memOk.recordRead {p va w : Nat} {chain : List Nat} {g : Nat} {marks es : List AccessMark} (h : s.memOk) :
    (s.recordRead p va w chain g marks es).memOk := by
  unfold State.recordRead
  extract_lets
  split
  · exact trivial
  · split
    · exact trivial
    next e => exact .of_mem (.modDrover (h.shadowWrite.of_ok e)) (by dsimp only)

theorem State.memOk.raceGranule {p : Nat} {r : Racer} {store : Bool} {g : Nat} (h : s.memOk) : (s.raceGranule p r store g).memOk := by
  unfold State.raceGranule
  extract_lets
  split
  · exact trivial
  · split
    · exact trivial
    · extract_lets
      split
      · exact trivial
      · split
        · split
          · exact trivial
          next e => exact .of_mem (.modDrover (h.shadowWrite.of_ok e)) (by dsimp only)
        · split
          · exact trivial
          · exact h.recordRead

theorem State.memOk.raceRange {p : Nat} {r : Racer} {store : Bool} {x : List Nat} (h : s.memOk) : (s.raceRange p r store x).memOk := by
  induction x generalizing s with
  | nil =>
    unfold State.raceRange
    exact h
  | cons _ _ ih =>
    unfold State.raceRange
    split
    next e => exact ih (h.raceGranule.of_ok e)
    · exact h.raceGranule

theorem State.memOk.linkPartials {k lo n : Nat} (h : s.memOk) : (s.linkPartials k lo n).memOk := h.modKnown.ite h

theorem State.memOk.raceCheck {k : Nat} {rq : Req} {l : Loc} {n : Nat} {st : Bool} (h : s.memOk) :
    Ends Stop.memOk State.memOk (s.raceCheck k rq l n st) := by
  unfold State.raceCheck
  extract_lets
  refine .ite (.ok h) ?_
  split
  next e => exact .ok (.linkPartials (h.raceRange.of_ok e))
  · exact .trap
  · exact .trap
  · exact .trap

theorem State.memOk.countPage {core page : Nat} (h : s.memOk) : (s.countPage core page).memOk := h.modCore

theorem State.memOk.noteAccess {k : Nat} {l : Loc} {kind : Nat} (h : s.memOk) : (s.noteAccess k l kind).memOk :=
  h.ite (.ite (h.countPage.ite h) (.ite (.modCore (h.countPage.ite h)) (.ite (.modDrover (.modCore (h.countPage.ite h))) (.modDrover
    (Gives.getD (State.memOk.walkWrite (.modCore (h.countPage.ite h))) (.modCore (h.countPage.ite h)))))))

theorem State.memOk.locate {k : Nat} {rq : Req} {c : Cap} {a : Nat} (h : s.memOk) : Ends Stop.memOk (fun _ => True) (locate s k rq c a) :=
  .ite (h.translate.bind fun _ _ => .ite (.error h.violates) .value) (.ite (.bind .need fun _ _ => .ite (h.remoteCheck.bind fun _ _ =>
    .value) .value) (.bind .need fun _ _ => .bind .need fun _ _ => .value))

theorem Ends.weightCheck {k : Nat} {rq : Req} {c : Cap} {a : Nat} : Ends Stop.memOk (fun _ => True) (weightCheck s k rq c a) := by
  unfold Machine.weightCheck
  refine .ite .value ?_
  split
  · exact .trap
  · exact .value

theorem State.memOk.accessWaits {k : Nat} {rq : Req} {l : Loc} (h : s.memOk) : Ends Stop.memOk (fun _ => True) (accessWaits s k rq l) :=
  .ite (.error h) .value

theorem State.memOk.memAccessIf {k : Nat} {rq : Req} {r : CReg} {off : Int} {tagged permG : Bool} {writes : Loc → Bool} (h : s.memOk) :
    Ends Stop.memOk (fun r => r.1.memOk) (memAccessIf s k rq r off tagged permG writes) :=
  .bind .capCheck fun _ _ => h.locate.bind fun _ _ => .bind .need fun _ _ => .bind .weightCheck fun _ _ => h.raceCheck.bind fun _ h5 =>
    h.accessWaits.bind fun _ _ => .ok h5

theorem State.memOk.memAccess {k : Nat} {rq : Req} {r : CReg} {off : Int} {tagged permG : Bool} (h : s.memOk) :
    Ends Stop.memOk (fun r => r.1.memOk) (memAccess s k rq r off tagged permG) :=
  h.memAccessIf

theorem State.memOk.loadEnd {l : Loc} {n : Nat} (h : s.memOk) : (loadEnd s l n).memOk := by
  unfold Machine.loadEnd
  split
  · exact h.modCore
  · exact h

theorem Out.memOk.loads {o : Out} {l : Loc} {n : Nat} (h : o.memOk) : (Out.loads o l n).memOk := by
  unfold Out.loads
  split
  · exact h.loadEnd
  · exact h

/-! ### Fetch, issue and the end of an instruction -/

theorem State.memOk.fetchPart {k pc pa n : Nat} (h : s.memOk) : Ends Stop.memOk (fun _ => True) (s.fetchPart k pc pa n) :=
  .ite (.error h.violates) .value

theorem State.memOk.fetchBytes {k pc : Nat} (h : s.memOk) : Ends Stop.memOk (fun _ => True) (s.fetchBytes k pc) :=
  h.translate.bind fun _ _ => h.fetchPart.ite (h.translate.bind fun _ _ => h.fetchPart.bind fun _ _ => h.fetchPart.bind fun _ _ => .value)

theorem State.memOk.fetchWord {k pc : Nat} (h : s.memOk) : Ends Stop.memOk (fun _ => True) (s.fetchWord k pc) :=
  .bind .need fun _ _ => .bind .need fun _ _ => h.fetchBytes.bind fun _ _ => .value

theorem Ends.decodeAt {k : Nat} {body : Option Nat} {w : BitVec 96} : Ends Stop.memOk (fun _ => True) (s.decodeAt k body w) := by
  unfold State.decodeAt
  split
  · exact .value
  · exact .trap

theorem State.memOk.fetchBody {k pc x x1 : Nat} (h : s.memOk) : Ends Stop.memOk (fun _ => True) (s.fetchBody k pc x x1) := by
  induction x generalizing x1 with
  | zero =>
    unfold State.fetchBody
    exact .value
  | succ _ ih =>
    unfold State.fetchBody
    exact h.fetchWord.bind fun _ _ => .bind .decodeAt fun _ _ => .bind ih fun _ _ => .value

theorem State.memOk.bodyChecked {k : Nat} {x : Instr} (h : s.memOk) : Ends Stop.memOk (fun _ => True) (s.bodyChecked k x) := by
  unfold State.bodyChecked
  split
  · exact h.fetchBody.bind fun _ _ => .value
  · exact .value

theorem State.memOk.nextInstr {k : Nat} (h : s.memOk) : Ends Stop.memOk (fun _ => True) (s.nextInstr k) := by
  unfold State.nextInstr
  split
  · exact .value
  · exact h.fetchWord.bind fun _ _ => .bind .decodeAt fun _ _ => h.bodyChecked.bind fun _ _ => .value

theorem State.memOk.coreCycle {core : Nat} {k : Option Nat} (h : s.memOk) : (s.coreCycle core k).memOk := h

theorem State.memOk.leaveYields {k : Nat} (h : s.memOk) : (s.leaveYields k).memOk := h

theorem State.memOk.issued {s before : State} {k pace : Nat} (h : s.memOk) : (s.issued before k pace).memOk := by
  unfold State.issued
  exact .of_mem (.modCtx (h.coreCycle.ite h.coreCycle.modCore)) (by dsimp only)

theorem Out.memOk.finish {before : State} {o : Out} (ho : o.memOk) : (before.finish f o).memOk := by
  unfold State.finish
  split
  · exact ho.dropMisses.modCtx.modCtx.issued
  · exact ho.dropMisses.modCtx.modCtx.issued
  · exact ho.dropMisses.modCtx.modCtx.takeTrap.issued
  · exact ho.dropMisses.modCtx.modCtx.issued.modCtx
  · exact ho.dropMisses.modCtx.issued
  · exact ho.dropMisses.modCtx.issued
  · exact ho.dropMisses.modCtx.issued

theorem State.memOk.stopped {before : State} {x : Stop} (h : before.memOk) (hx : x.memOk) : (before.stopped x).memOk := by
  unfold State.stopped
  split
  · exact h.dropMisses.takeTrap.issued
  · exact .issued (.dropMisses hx)
  · exact .modCtx (.leaveYields hx)

theorem State.memOk.stepVector {body : State → Exec Out} (h : s.memOk)
    (hbody : ∀ (t : State), t.memOk → Ends Stop.memOk Out.memOk (body t)) : (stepVector f body s).memOk := by
  unfold Machine.stepVector
  split
  next e => exact Out.memOk.finish ((hbody _ h).of_ok e)
  next e => exact h.stopped ((hbody _ h).of_error e)

theorem State.memOk.stepScalar {body : State → Exec Out} (h : s.memOk)
    (hbody : ∀ (t : State), t.memOk → Ends Stop.memOk Out.memOk (body t)) : (stepScalar f body s).memOk :=
  .ite (h.stepVector hbody) (Out.memOk.finish h)

/-! ### What the engines share -/

theorem State.memOk.engTranslate {core : Nat} {e : Engine} {c : Cmd} {va n : Nat} {st : Bool} (h : s.memOk) :
    Ends EStop.memOk (fun _ => True) (Machine.engTranslate s core e c va n st) := by
  unfold Machine.engTranslate
  extract_lets
  split
  · exact .ite (.error trivial) (.ite (.error trivial) .value)
  · refine .ite (.error trivial) ?_
    split
    · exact .ite (.error h) (.error trivial)
    · exact .error h.modCore

theorem State.memOk.engCount {core img : Nat} (h : s.memOk) : (s.engCount core img).memOk := h.countPage.ite h

theorem State.memOk.keepMisses {s1 : State} (h : s.memOk) : (s.keepMisses s1).memOk := h

theorem State.memOk.engRace {core : Nat} {e : Engine} {c : Cmd} {pa n : Nat} {st : Bool} {va : Nat} (h : s.memOk) :
    Ends EStop.memOk State.memOk (engRace s core e c pa n st va) := by
  unfold Machine.engRace
  refine .ite (.error trivial) ?_
  split
  next e1 => exact .ok (h.raceRange.of_ok e1)
  · exact .error trivial
  · exact .error trivial

theorem State.memOk.engPlace {core : Nat} {e : Engine} {c : Cmd} {space a n : Nat} {st : Bool} (h : s.memOk) :
    Ends EStop.memOk (fun r => r.1.memOk) (engPlace s core e c space a n st) :=
  .ite (h.engTranslate.bind fun _ _ => .ite (.error trivial) (.ite (h.engCount.engRace.bind fun _ h2 =>
    .ok h2) (.ok h.engCount))) (.ite (.ite (.ok h) (.error trivial)) (.ite (.ok h) (.error trivial)))

theorem State.memOk.engRead {core : Nat} {e : Engine} {c : Cmd} {space a n : Nat} (h : s.memOk) :
    Ends EStop.memOk (fun r => r.1.memOk) (engRead s core e c space a n) :=
  h.engPlace.bind fun _ h1 => .ite (.error trivial) (.ok h1)

theorem State.memOk.engReadAny {core : Nat} {e : Engine} {c : Cmd} {space a n : Nat} (h : s.memOk) :
    Ends EStop.memOk (fun r => r.1.memOk) (engReadAny s core e c space a n) :=
  h.engRead.ite (h.engRead.bind fun _ h1 => h1.engRead.bind fun _ h2 => .ok h2)

theorem State.memOk.engWrite {core : Nat} {e : Engine} {c : Cmd} {space a n x : Nat} (h : s.memOk) :
    Ends EStop.memOk State.memOk (engWrite s core e c space a n x) :=
  h.engPlace.bind fun _ h1 => .ok h1.write

theorem State.memOk.dropEngMisses {core : Nat} {e : Engine} (h : s.memOk) : (s.dropEngMisses core e).memOk := h.modCore

theorem State.memOk.modEngine {core : Nat} {e : Engine} {g : EngineState → EngineState} (h : s.memOk) : (s.modEngine core e g).memOk :=
  h.modCore

theorem State.memOk.putInbox {key : Nat} {x : InEntry} {names : optParam (List Nat) []} (h : s.memOk) : (s.putInbox key x names).memOk :=
  h.modSlot

theorem State.memOk.releaseRanges {core id : Nat} {e : Engine} {readsOnly : Bool} (h : s.memOk) :
    (s.releaseRanges core id e readsOnly).memOk :=
  h.modCore

theorem State.memOk.endList {core slot : Nat} {e : Engine} {abandon : Bool} (h : s.memOk) : (s.endList core slot e abandon).memOk :=
  h.modEngine.modSlot

theorem State.memOk.finishCmd {core : Nat} {e : Engine} {c : Cmd} {status count detail cause tval : Nat} (h : s.memOk) :
    (s.finishCmd core e c status count detail cause tval).memOk := by
  unfold State.finishCmd
  split
  · split
    · exact h.endList.releaseRanges.modEngine
    · exact h.endList.releaseRanges
  · split
    · exact h.releaseRanges.modEngine
    · exact h.releaseRanges

theorem State.memOk.endCmd {core : Nat} {e : Engine} {c : Cmd} {status count detail cause tval : Nat} (h : s.memOk) :
    (s.endCmd core e c status count detail cause tval).memOk :=
  h.modEngine.dropEngMisses.finishCmd

theorem State.memOk.enqueue {core : Nat} {e : Engine} {c : Cmd} {rs : List Region} {at_ : Enter} (h : s.memOk) :
    (s.enqueue core e c rs at_).memOk :=
  h.modCore

theorem State.memOk.countCmd {core slot stream : Nat} (h : s.memOk) : (s.countCmd core slot stream).memOk := h.modSlot

theorem State.memOk.nameCmd {core : Nat} {e : Engine} {c : Cmd} (h : s.memOk) : (s.nameCmd core e c).1.memOk := h.countCmd

theorem State.memOk.accept {s0 : State} {core : Nat} {e : Engine} {c0 : Cmd} {front : Bool} (h : s0.memOk) :
    Gives State.memOk (s0.accept core e c0 front) := by
  have hs {slot stream : Nat} : (s0.countCmd core slot stream).memOk := h.countCmd
  unfold State.accept
  refine .ite .none (.ite .none (.ite (.ite .none ?_) ?_))
  · extract_lets
    split
    · exact .some hs.enqueue
    · refine .ite .none (.some (hs.foldl fun _ _ ht => ?_))
      split
      · exact ht.enqueue
      · exact ht
  · split
    · exact .some hs.enqueue
    · exact .ite .none (.some (.ite (.of_mem hs.enqueue (by dsimp only)) hs.enqueue))

/-! ### The copy engine -/

theorem State.memOk.engReadParts {core : Nat} {e : Engine} {c : Cmd} {space : Nat} {x : List (Nat × Nat)} (h : s.memOk) :
    Ends EStop.memOk (fun r => r.1.memOk) (engReadParts core e c space x s) := by
  induction x generalizing s with
  | nil =>
    unfold Machine.engReadParts
    exact .ok h
  | cons _ _ ih =>
    unfold Machine.engReadParts
    exact h.engRead.bind fun _ h1 => .bind (ih h1) fun _ h2 => .ok h2

theorem State.memOk.engWriteParts {core : Nat} {e : Engine} {c : Cmd} {space : Nat} {x : List (Nat × Nat)} {x1 : List Byte} (h : s.memOk) :
    Ends EStop.memOk State.memOk (engWriteParts core e c space x x1 s) := by
  induction x generalizing x1 s with
  | nil =>
    unfold Machine.engWriteParts
    exact .ok h
  | cons _ _ ih =>
    unfold Machine.engWriteParts
    exact h.engWrite.bind fun _ h1 => ih h1

theorem State.memOk.engReadRange {core : Nat} {e : Engine} {c : Cmd} {space a n : Nat} (h : s.memOk) :
    Ends EStop.memOk (fun r => r.1.memOk) (engReadRange s core e c space a n) :=
  h.engReadParts

theorem State.memOk.engWriteRange {core : Nat} {e : Engine} {c : Cmd} {space a : Nat} {bs : List Byte} (h : s.memOk) :
    Ends EStop.memOk State.memOk (engWriteRange s core e c space a bs) :=
  h.engWriteParts

theorem State.memOk.startCmd {core : Nat} {e : Engine} {c : Cmd} (h : s.memOk) : (s.startCmd core e c).memOk := h.modEngine

theorem State.memOk.inHand {core : Nat} {e : Engine} {ok : Cmd → Bool} (h : s.memOk) : Gives (fun r => r.1.memOk) (s.inHand core e ok) := by
  unfold State.inHand
  refine .ite .none ?_
  split
  · exact .ite (.some h) .none
  · split
    · exact .ite (.some h.startCmd) .none
    · exact .none

theorem State.memOk.freezeEngine {core : Nat} {e : Engine} {c : Cmd} {addr : Nat} (h : s.memOk) : (s.freezeEngine core e c addr).memOk :=
  h.modEngine.releaseRanges.reportFreeze

theorem State.memOk.hostWaits {core : Nat} {e : Engine} {c : Cmd} {count a : Nat} (h : s.memOk) : (s.hostWaits core e c count a).memOk := by
  unfold State.hostWaits
  split
  · split
    · exact h.endCmd.ite h
    · exact h.modEngine
  · exact h

theorem State.memOk.engStopped {core : Nat} {e : Engine} {c : Cmd} {space count : Nat} {x : EStop} (h : s.memOk) :
    (s.engStopped core e c space count x).memOk := by
  unfold State.engStopped
  split
  · exact h.keepMisses
  · exact h.hostWaits
  · exact h.endCmd
  · exact h.freezeEngine

theorem State.memOk.moveChunk {core : Nat} {c : Cmd} {ss sa ds da dcore n : Nat} (h : s.memOk) :
    Ends (fun r => r.2.memOk) State.memOk (Machine.moveChunk s core c ss sa ds da dcore n) := by
  unfold Machine.moveChunk
  split
  next e => exact .error (h.engReadRange.of_error e)
  next e =>
    have h1 := h.engReadRange.of_ok e
    refine .ite (.ok (.storeBytes h1)) ?_
    split
    next e1 => exact .error ((State.memOk.engWriteRange h1).of_error e1)
    next e1 => exact .ok ((State.memOk.engWriteRange h1).of_ok e1)

theorem State.memOk.copyChunk {core : Nat} {r : Run} (h : s.memOk) : (copyChunk s core r).memOk := by
  unfold Machine.copyChunk
  split
  · exact h.endCmd
  · dsimp only
    split
    · exact h.engStopped
    next e2 => exact .ite (.modEngine (.dropEngMisses (h.moveChunk.of_ok e2))) (.endCmd (.dropEngMisses (h.moveChunk.of_ok e2)))
  · exact h

theorem State.memOk.dealChunk {core : Nat} {r : Run} (h : s.memOk) : (dealChunk s core r).memOk := by
  unfold Machine.dealChunk
  refine h.endCmd.ite (h.endCmd.ite ?_)
  split
  · exact h.endCmd
  · exact h.engStopped
  next e1 => exact .ite (.modEngine (.dropEngMisses (h.moveChunk.of_ok e1))) (.endCmd (.dropEngMisses (h.moveChunk.of_ok e1)))

theorem State.memOk.copyStep {core : Nat} (h : s.memOk) : (copyStep core s).memOk := by
  unfold Machine.copyStep
  split
  next e => exact .copyChunk (h.inHand _ e)
  · exact h

theorem State.memOk.dealStep {core : Nat} (h : s.memOk) : (dealStep core s).memOk := by
  unfold Machine.dealStep
  split
  next e => exact .dealChunk (h.inHand _ e)
  · exact h

theorem State.memOk.notbeforeReachedStep {core : Nat} (h : s.memOk) : (notbeforeReachedStep core s).memOk := by
  unfold Machine.notbeforeReachedStep
  split
  · exact h.ite (h.copyStep.ite (h.dealStep.ite h))
  · exact h

theorem State.memOk.cmarkStep {core : Nat} (h : s.memOk) : (cmarkStep core s).memOk := by
  unfold Machine.cmarkStep
  split
  next e => exact .endCmd (h.inHand _ e)
  · exact h

theorem State.memOk.cmarkCancelStep {core slot : Nat} {record : BitVec 512} (h : s.memOk) : (cmarkCancelStep core slot record s).memOk := by
  unfold Machine.cmarkCancelStep
  dsimp only
  split
  · exact h.modEngine.modCore
  · exact h

theorem State.memOk.cxlAccessTimeoutStep {core : Nat} (h : s.memOk) : (cxlAccessTimeoutStep core s).memOk := by
  unfold Machine.cxlAccessTimeoutStep
  split
  next e =>
    split
    · exact .endCmd (h.inHand _ e)
    · exact h.ite (.of_mem (.endCmd (h.inHand _ e)) (by dsimp only))
  · exact h

theorem State.memOk.failHead {core : Nat} {e : Engine} (h : s.memOk) : (s.failHead core e).memOk := by
  unfold State.failHead
  refine h.ite ?_
  split
  · exact h.modEngine.finishCmd.ite h
  · exact h.modEngine.ite h
  · exact h

theorem State.memOk.engineCompletionStep {core : Nat} {e : Engine} (h : s.memOk) : (engineCompletionStep core e s).memOk := by
  unfold Machine.engineCompletionStep
  dsimp only
  split
  · exact h.ite h.modEngine.releaseRanges.putInbox.modSlot
  · exact h.ite h.failHead

/-! ### The quantisation engine -/

theorem State.memOk.readPlanes {core : Nat} {e : Engine} {c : Cmd} {x : Tensor} {base row x1 x2 : Nat} (h : s.memOk) :
    Ends EStop.memOk (fun r => r.1.memOk) (readPlanes s core e c x base row x1 x2) := by
  induction x1 generalizing s x2 with
  | zero =>
    unfold Machine.readPlanes
    exact .ok h
  | succ _ ih =>
    unfold Machine.readPlanes
    exact h.engReadRange.bind fun _ h1 => .bind (ih h1) fun _ h2 => .ok h2

theorem State.memOk.readRow {core : Nat} {e : Engine} {c : Cmd} {x : Tensor} {bank p row : Nat} (h : s.memOk) :
    Ends EStop.memOk (fun r => r.1.memOk) (readRow s core e c x bank p row) :=
  .ite (h.readPlanes.bind fun _ h1 => .ok h1) (h.engReadRange.bind fun _ h1 => .ok h1)

theorem State.memOk.writePlanes {core : Nat} {e : Engine} {c : Cmd} {x : Tensor} {base row : Nat} {xs : List Nat} {x1 x2 : Nat}
    (h : s.memOk) : Ends EStop.memOk State.memOk (writePlanes core e c x base row xs x1 x2 s) := by
  induction x1 generalizing x2 s with
  | zero =>
    unfold Machine.writePlanes
    exact .ok h
  | succ _ ih =>
    unfold Machine.writePlanes
    exact h.engWriteRange.bind fun _ h1 => ih h1

theorem State.memOk.writeRow {core : Nat} {e : Engine} {c : Cmd} {x : Tensor} {bank row : Nat} {xs : List Nat} (h : s.memOk) :
    Ends EStop.memOk State.memOk (writeRow s core e c x bank row xs) :=
  h.writePlanes.ite h.engWriteRange

theorem State.memOk.readScale {core : Nat} {e : Engine} {c : Cmd} {x : Tensor} {bank i : Nat} (h : s.memOk) :
    Ends EStop.memOk (fun r => r.1.memOk) (readScale s core e c x bank i) :=
  h.engRead.bind fun _ h1 => .ok h1

theorem State.memOk.readScales {core : Nat} {e : Engine} {c : Cmd} {x : Tensor} {bank : Nat} {x1 : List Nat} (h : s.memOk) :
    Ends EStop.memOk (fun r => r.1.memOk) (readScales core e c x bank x1 s) := by
  induction x1 generalizing s with
  | nil =>
    unfold Machine.readScales
    exact .ok h
  | cons _ _ ih =>
    unfold Machine.readScales
    exact h.readScale.bind fun _ h1 => .bind (ih h1) fun _ h2 => .ok h2

theorem State.memOk.rowScales {core : Nat} {e : Engine} {c : Cmd} {x : Tensor} {bank row : Nat} (h : s.memOk) :
    Ends EStop.memOk (fun r => r.1.memOk) (rowScales s core e c x bank row) :=
  h.readScales.ite (h.readScale.bind fun _ h1 => .ok h1)

theorem State.memOk.qscaleRow {core : Nat} {c : Cmd} {o : QuantOps} {row : Nat} (h : s.memOk) :
    Ends (fun r => r.2.memOk) (fun r => r.1.memOk) (qscaleRow s core c o row) :=
  h.readRow.atSpace.bind fun _ h1 => h1.engWrite.atSpace.bind fun _ h2 => .ok h2

theorem State.memOk.qpackRow {core : Nat} {c : Cmd} {o : QuantOps} {row : Nat} (h : s.memOk) :
    Ends (fun r => r.2.memOk) (fun r => r.1.memOk) (qpackRow s core c o row) :=
  h.readRow.atSpace.bind fun _ h1 => h1.rowScales.atSpace.bind fun _ h2 => h2.writeRow.atSpace.bind fun _ h3 => .ok h3

theorem State.memOk.qunpackRow {core : Nat} {c : Cmd} {o : QuantOps} {row : Nat} (h : s.memOk) :
    Ends (fun r => r.2.memOk) (fun r => r.1.memOk) (qunpackRow s core c o row) :=
  h.readRow.atSpace.bind fun _ h1 => .ite (h1.rowScales.atSpace.bind fun _ h2 => h2.writeRow.atSpace.bind fun _ h3 =>
    .ok h3) (.bind (P := fun r => r.1.memOk) (.ok h1) fun _ h2 => h2.writeRow.atSpace.bind fun _ h3 => .ok h3)

theorem State.memOk.quantRows {core : Nat} {o : QuantOps} {f : State → Cmd → Nat → RowOut} {x : Nat} {x1 : Run} (h : s.memOk)
    (hf : ∀ (t : State) (x : Cmd) (x1 : Nat), t.memOk → Ends (fun r => r.2.memOk) (fun r => r.1.memOk) (f t x x1)) :
    (quantRows core o f x x1 s).memOk := by
  induction x generalizing x1 s with
  | zero =>
    unfold Machine.quantRows
    exact h.modEngine
  | succ _ ih =>
    unfold Machine.quantRows
    refine h.endCmd.ite ?_
    split
    · exact h.endCmd
    · exact h.modEngine.engStopped
    next e1 => exact ih (.dropEngMisses ((hf _ _ _ h).of_ok e1))

theorem State.memOk.quantBlock {core : Nat} {f : State → Cmd → QuantOps → Nat → RowOut} {r : Run} (h : s.memOk)
    (hf : ∀ (t : State) (x : Cmd) (x1 : QuantOps) (x2 : Nat), t.memOk → Ends (fun r => r.2.memOk) (fun r => r.1.memOk) (f t x x1 x2)) :
    (quantBlock core f s r).memOk :=
  h.quantRows fun _ _ _ h1 => hf _ _ _ _ h1

theorem State.memOk.readRows {core : Nat} {c : Cmd} {x : Tensor} {bank : Nat} {x1 : List Nat} (h : s.memOk) :
    Ends EStop.memOk (fun r => r.1.memOk) (readRows core c x bank x1 s) := by
  induction x1 generalizing s with
  | nil =>
    unfold Machine.readRows
    exact .ok h
  | cons _ _ ih =>
    unfold Machine.readRows
    exact h.readRow.bind fun _ h1 => .bind (ih h1) fun _ h2 => .ok h2

theorem State.memOk.writeScales {core : Nat} {c : Cmd} {x : Tensor} {bank : Nat} {x1 : List (Nat × Nat)} (h : s.memOk) :
    Ends EStop.memOk State.memOk (writeScales core c x bank x1 s) := by
  induction x1 generalizing s with
  | nil =>
    unfold Machine.writeScales
    exact .ok h
  | cons _ _ ih =>
    unfold Machine.writeScales
    exact h.engWrite.bind fun _ h1 => ih h1

theorem State.memOk.qscaleCols {core : Nat} {r : Run} (h : s.memOk) : (qscaleCols core s r).memOk := by
  unfold Machine.qscaleCols
  refine .ite ?_ ?_
  · dsimp only
    split
    · exact h.engStopped
    next e => exact .modEngine (.dropEngMisses (h.readRows.of_ok e))
  · dsimp only
    split
    · exact h.engStopped
    next e => exact .endCmd (h.writeScales.of_ok e)

theorem State.memOk.qscaleStep {core : Nat} (h : s.memOk) : (qscaleStep core s).memOk := by
  unfold Machine.qscaleStep
  split
  next e =>
    refine .ite ?_ (.quantBlock (h.inHand _ e) fun _ _ _ _ h1 => h1.qscaleRow)
    split
    · exact .endCmd (h.inHand _ e)
    · exact .qscaleCols (h.inHand _ e)
  · exact h

theorem State.memOk.qpackStep {core : Nat} (h : s.memOk) : (qpackStep core s).memOk := by
  unfold Machine.qpackStep
  split
  next e => exact .quantBlock (h.inHand _ e) fun _ _ _ _ h1 => h1.qpackRow
  · exact h

theorem State.memOk.qunpackStep {core : Nat} (h : s.memOk) : (qunpackStep core s).memOk := by
  unfold Machine.qunpackStep
  split
  next e => exact .quantBlock (h.inHand _ e) fun _ _ _ _ h1 => h1.qunpackRow
  · exact h

/-! ### The matrix unit -/

theorem State.memOk.readOperand {core : Nat} {c : Cmd} {o : MmaOp} {bank k0 klen : Nat} {x : List Nat} (h : s.memOk) :
    Ends EStop.memOk (fun r => r.1.memOk) (readOperand core c o bank k0 klen x s) := by
  induction x generalizing s with
  | nil =>
    unfold Machine.readOperand
    exact .ok h
  | cons _ _ ih =>
    unfold Machine.readOperand
    exact h.readRow.bind fun _ h1 => .bind (ih h1) fun _ h2 => .ok h2

theorem State.memOk.mmaProduct {core : Nat} {r : Run} (h : s.memOk) : (mmaProduct s core r).memOk := h.modCore

theorem State.memOk.mmaCompute {core : Nat} {r : Run} (h : s.memOk) : Ends (fun r => r.2.memOk) State.memOk (mmaCompute s core r) :=
  h.readOperand.atSpace.bind fun _ h1 => h1.readOperand.atSpace.bind fun _ h2 => .ok h2.mmaProduct.releaseRanges.dropEngMisses

theorem State.memOk.dropPart {m : Nat} {c : Cmd} (h : s.memOk) : (s.dropPart m c).memOk := by
  unfold State.dropPart
  split
  · exact h.releaseRanges.modEngine
  · exact h

theorem State.memOk.endMma {core : Nat} {c : Cmd} {rs : List Run} {fixed : Option (Nat × Nat)} (h : s.memOk) :
    (s.endMma core c rs fixed).memOk := by
  unfold State.endMma
  split
  · dsimp only
    split <;> exact .finishCmd (.releaseRanges (h.foldl fun _ _ h1 => h1.dropPart))
  · dsimp only
    split <;> exact .finishCmd (.releaseRanges (h.foldl fun _ _ h1 => h1.dropPart))

theorem State.memOk.memberDone {core : Nat} {r : Run} (h : s.memOk) : (s.memberDone core r).memOk := h.modEngine.endMma.ite h.modEngine

theorem State.memOk.popMembers {members : List Nat} (h : s.memOk) : (s.popMembers members).memOk := by
  unfold State.popMembers
  refine h.foldl fun _ _ h1 => ?_
  split
  · exact h1.modEngine.releaseRanges
  · exact h1

theorem State.memOk.startMembers {c : Cmd} {core : Nat} {x : List Nat} (h : s.memOk) : (startMembers c core x s).memOk := by
  induction x generalizing s with
  | nil =>
    unfold Machine.startMembers
    exact h
  | cons _ _ ih =>
    unfold Machine.startMembers
    split
    · exact h
    · dsimp only
      split
      next e1 => exact ih (h.startCmd.mmaCompute.of_ok e1)
      · exact h.startCmd.popMembers.dropEngMisses.endMma
      · exact h.keepMisses
      · exact h
      · exact h.startCmd.freezeEngine

theorem State.memOk.mmaStep {core : Nat} (h : s.memOk) : (mmaStep core s).memOk := by
  unfold Machine.mmaStep
  split
  · exact h
  · exact h.ite (h.ite (h.popMembers.endMma.ite (h.popMembers.endMma.ite h.startMembers)))

theorem State.memOk.mzeroStep {core : Nat} (h : s.memOk) : (mzeroStep core s).memOk := by
  unfold Machine.mzeroStep
  refine h.ite ?_
  split
  next e => exact .endCmd (.modCore (h.inHand _ e))
  · exact h

theorem State.memOk.mmarkStep {core : Nat} (h : s.memOk) : (mmarkStep core s).memOk := by
  unfold Machine.mmarkStep
  refine h.ite ?_
  split
  next e => exact .endCmd (h.inHand _ e)
  · exact h

theorem State.memOk.checkPassed {core : Nat} {r : Run} (h : s.memOk) : (s.checkPassed core r).memOk := h.modEngine.ite h.memberDone

theorem State.memOk.mmaCheckStep {core : Nat} {mismatch again : Bool} (h : s.memOk) :
    (Machine.mmaCheckStep core mismatch again s).memOk := by
  unfold Machine.mmaCheckStep
  split
  · refine h.ite (h.checkPassed.ite ?_)
    extract_lets u
    have hu : u.memOk := h.modCore.mmaProduct
    split
    · exact hu
    · exact .ite hu.modCore.memberDone hu.checkPassed
  · exact h

theorem State.memOk.putRun {core : Nat} {r : Run} (h : s.memOk) : (s.putRun core r).memOk := h.modEngine

theorem State.memOk.drainEnds {core : Nat} {r : Run} (h : s.memOk) : (s.drainEnds core r).memOk := h.putRun.memberDone.ite h.putRun

theorem State.memOk.drainRowHandoffStep {core : Nat} (h : s.memOk) : (drainRowHandoffStep core s).memOk := by
  unfold Machine.drainRowHandoffStep
  split
  · refine h.ite (h.drainEnds.ite ?_)
    split
    · exact h
    · exact h.setCtx.modCore.modEngine
  · exact h

/-! ### Control flow and repetition -/

theorem Ends.relTarget : Ends Stop.memOk (fun _ => True) (relTarget f s) := .bind .need fun _ _ => .value

theorem Ends.regTarget {op : Nat} : Ends Stop.memOk (fun _ => True) (regTarget op f s) :=
  .ite (.bind .capCheck fun _ _ => .bind .need fun _ _ => .value) (.bind .need fun _ _ => .value)

theorem State.memOk.takeTarget {x : Nat × BitVec 56 × BitVec 57} (h : s.memOk) : Ends Stop.memOk Out.memOk (takeTarget s x) := .ok h.modCtx

theorem State.memOk.linkD (h : s.memOk) : (s.linkD f).memOk := h.setD

theorem State.memOk.braBody (h : s.memOk) : Ends Stop.memOk Out.memOk (braBody f s) := .bind .relTarget fun _ _ => .ok h

theorem State.memOk.jmpBody (h : s.memOk) : Ends Stop.memOk Out.memOk (jmpBody f s) := .bind .regTarget fun _ _ => h.takeTarget

theorem State.memOk.callBody (h : s.memOk) : Ends Stop.memOk Out.memOk (callBody f s) := .bind .relTarget fun _ _ => .ok h.linkD

theorem State.memOk.callIndBody (h : s.memOk) : Ends Stop.memOk Out.memOk (callIndBody f s) :=
  .bind .regTarget fun _ _ => h.linkD.takeTarget

theorem State.memOk.retBody (h : s.memOk) : Ends Stop.memOk Out.memOk (retBody f s) := .bind .regTarget fun _ _ => h.takeTarget

theorem Ends.repChecks {e : DecodeEnv} {stride step count : Nat} {body : List Instr} :
    Ends Stop.memOk (fun _ => True) (repChecks e stride step count body) := by
  unfold Machine.repChecks
  refine .bind .need fun _ _ => .bind .need fun _ _ => ?_
  split
  · exact .trap
  · exact .value

theorem State.memOk.repBody (h : s.memOk) : Ends Stop.memOk Out.memOk (repBody f s) :=
  h.fetchBody.bind fun _ _ => .ite (.ok h) (.bind .opndB fun _ _ => .bind .repChecks fun _ _ => .ite (.ok h) (.ok h.modCtx))

/-! ### The register pages -/

theorem State.memOk.withdrawIrq {j off : Nat} (h : s.memOk) : (s.withdrawIrq j off).memOk := h

theorem State.memOk.droverWrite {j off x : Nat} (h : s.memOk) : (s.droverWrite j off x).memOk :=
  .ite (h.modDrover.ite h) (h.modDrover.ite (.ite (h.modDrover.ite h) (h.modDrover.withdrawIrq.ite (h.ite h.modDrover))))

theorem State.memOk.foldWrite {f off x : Nat} (h : s.memOk) : (s.foldWrite f off x).memOk :=
  h.modFold.ite (h.modFold.ite (.ite (h.ite h.modFold) (h.modFold.ite h)))

theorem State.memOk.byvonWrite {off x : Nat} (h : s.memOk) : (s.byvonWrite off x).memOk := by
  unfold State.byvonWrite
  split
  · exact .of_mem h rfl
  · exact .of_mem h rfl
  · exact h

theorem State.memOk.setThrottled {on : Bool} (h : s.memOk) : (s.setThrottled on).memOk := h.ite (.raiseMsix (.of_mem h rfl))

theorem State.memOk.throttle (h : s.memOk) : s.throttle.memOk := h.setThrottled.ite h

theorem State.memOk.deviceWrite {off x : Nat} (h : s.memOk) : (s.deviceWrite off x).memOk := by
  unfold State.deviceWrite
  split
  · exact .ite (.throttle (.of_mem h rfl)) h
  · exact .of_mem h rfl
  · exact h

theorem State.memOk.registerWriteStep {off : Nat} {value : Word64} (h : s.memOk) : (registerWriteStep off value s).memOk :=
  .ite (h.ite h.byvonWrite) (h.ite (h.deviceWrite.ite (h.droverWrite.ite (h.foldWrite.ite h))))

/-! ### The issue choice and pending items -/

theorem State.memOk.issueFrom {k : Nat} (h : s.memOk) : (issueFrom k s).memOk := by
  have hcur : ({ s with cur := k } : State).memOk := h
  unfold Machine.issueFrom
  refine .ite (.of_mem hcur rfl) ?_
  split
  next e =>
    have ht := (State.memOk.ite_fst (.obtain hcur) (.fst hcur)).of_fst e
    refine .ite (ht.stopped ht) ?_
    split
    · exact .of_mem ht rfl
    next e1 => exact ht.stopped (ht.nextInstr.of_error e1)

theorem State.memOk.takePendingStep {core slot : Nat} (h : s.memOk) : (takePendingStep core slot s).memOk := by
  unfold Machine.takePendingStep
  refine h.ite ?_
  split
  · exact h
  · exact .of_mem (h.freeze.ite h.dropMisses.setSlot.enterTrap.modCtx) (by dsimp only)

theorem State.memOk.timerStep {core slot : Nat} (h : s.memOk) : (timerStep core slot s).memOk := h.setSlot.ite h

/-! ### System instructions -/

theorem State.memOk.trapBody (h : s.memOk) : Ends Stop.memOk Out.memOk (trapBody f s) := .ok h

theorem Ends.bkptBody : Ends Stop.memOk Out.memOk (bkptBody f s) := .trap

theorem State.memOk.resumeRep {k st : Nat} (h : s.memOk) : Ends Stop.memOk (fun _ => True) (s.resumeRep k st) :=
  .bind .need fun _ _ => h.fetchWord.bind fun _ _ => h.fetchBody.bind fun _ _ => .bind .repChecks fun _ _ => .value

theorem State.memOk.waitOn {α : Type} {x : Exec α} (h : s.memOk) (hx : Ends Stop.memOk (fun _ => True) x) :
    Ends Stop.memOk (fun _ => True) (waitOn s x) := by
  unfold Machine.waitOn
  split
  · exact .error (.of_mem h rfl)
  · exact hx

theorem State.memOk.takeUpRep {s1 : State} {k st : Nat} (h : s.memOk) (hs1 : s1.memOk) :
    Ends Stop.memOk Out.memOk (s.takeUpRep s1 k st) := by
  unfold State.takeUpRep
  dsimp only
  split
  · exact .ok hs1.modCtx
  · exact .error hs1.modCtx.takeTrap
  next e1 => exact .error ((h.waitOn hs1.modCtx.resumeRep).of_error e1)

theorem State.memOk.handled {k : Nat} (h : s.memOk) : (s.handled k).memOk := by
  unfold State.handled
  split
  · exact h.modCtx.modSlot
  · exact h.modCtx

theorem State.memOk.eretBody {x : Fields} (h : s.memOk) : Ends Stop.memOk Out.memOk (eretBody x s) :=
  .ite (.error h) (.bind .need fun _ _ => .ite (h.takeUpRep (h.setCtx.ite h.setCtx.handled)) (.ok (h.setCtx.ite h.setCtx.handled)))

theorem State.memOk.upretBody (h : s.memOk) : Ends Stop.memOk Out.memOk (upretBody f s) :=
  .bind .opndB fun _ _ => .bind .need fun _ _ => .ite (h.takeUpRep h.modFold.modCtx) (.ok h.modFold.modCtx)

theorem State.memOk.upretLeaveBody {x : Fields} (h : s.memOk) : Ends Stop.memOk Out.memOk (upretLeaveBody x s) := h.modCtx.done

theorem State.memOk.sysrdBody (h : s.memOk) : Ends Stop.memOk Out.memOk (sysrdBody f s) := h.setD.done

theorem State.memOk.writeSys {k n x : Nat} (h : s.memOk) : (s.writeSys k n x).memOk := by
  unfold State.writeSys
  split
  · exact h.modCtx
  · exact h.modCtx
  · exact h.modCtx
  · exact h.modCtx
  · exact h.modSlot
  · exact h.modSlot
  · exact h.modCtx
  · exact h.modSlot
  · exact h.modSlot
  · exact h.modSlot
  · exact h.ite (.of_mem h rfl)
  · exact h.modSlot
  · exact h.modSlot
  · exact h.modSlot
  · exact h.modDrover
  · exact h

theorem State.memOk.syswrBody (h : s.memOk) : Ends Stop.memOk Out.memOk (syswrBody f s) := .bind .dataOpnd fun _ _ => h.writeSys.done

theorem State.memOk.waitNoted (h : s.memOk) : s.waitNoted.memOk := h.modCtx

theorem State.memOk.wfiBody (h : s.memOk) : Ends Stop.memOk Out.memOk (wfiBody f s) :=
  .bind .opndB fun _ _ => h.done.ite (.error h.waitNoted)

theorem State.memOk.wfiTimeoutStep {core slot : Nat} (h : s.memOk) : (wfiTimeoutStep core slot s).memOk := by
  unfold Machine.wfiTimeoutStep
  dsimp only
  split
  · split
    · exact .ite (Out.memOk.finish (.of_mem h rfl)) h
    · exact h
  · exact h

theorem State.memOk.preqBody (h : s.memOk) : Ends Stop.memOk Out.memOk (preqBody f s) := h.setGuardD.modSlot.done

/-! ### The windows of SPACE 6 -/

theorem Ends.windowCheck {k a n : Nat} {stv st : Bool} : Ends Stop.memOk (fun _ => True) (windowCheck s k a n stv st) := by
  unfold Machine.windowCheck
  refine .ite (.bind .need fun _ _ => .bind .need fun _ _ => .need) (.bind .need fun _ _ => .bind .need fun _ _ => ?_)
  split
  · exact .need
  · exact .need
  · exact .need
  · exact .need
  · exact .value

theorem State.memOk.ctxWindowWrite {k o x : Nat} (h : s.memOk) : (s.ctxWindowWrite k o x).memOk := by
  unfold State.ctxWindowWrite
  split
  · exact h.modSlot
  · exact h.modSlot
  · exact h.modCtx
  · exact h.modCtx
  · exact h.modSlot
  · exact h.modSlot
  · exact .of_mem h rfl
  · exact h

theorem State.memOk.fbfreeStep {core slot : Nat} {value : Word64} (h : s.memOk) : (fbfreeStep core slot value s).memOk := h.modFold.ite h

theorem State.memOk.windowWrite {k a x : Nat} (h : s.memOk) : (s.windowWrite k a x).memOk := h.ctxWindowWrite.ite (.of_mem h rfl)

theorem State.memOk.push {k : Nat} {e : Engine} {r : BitVec 512} (h : s.memOk) : Ends Stop.memOk State.memOk (s.push k e r) := by
  unfold State.push
  refine .ite (.error h) ?_
  split
  next e1 => exact .ok (h.accept _ e1)
  · exact .error h

/-! ### Memory instructions and posted stores -/

theorem State.memOk.loadAt {op : Nat} {n : Nat} {cp : Bool} (h : s.memOk) : Ends Stop.memOk (fun r => r.1.memOk) (loadAt op f n cp s) :=
  h.memAccess.bind fun _ h1 => .ok h1.noteAccess.loadEnd

theorem Ends.loadWindow {op : Nat} {n : Nat} {cp : Bool} : Ends Stop.memOk (fun _ => True) (loadWindow op f n cp s) :=
  .bind .capCheck fun _ _ => .bind .windowCheck fun _ _ => .value

theorem State.memOk.ldBody (h : s.memOk) : Ends Stop.memOk Out.memOk (ldBody f s) :=
  .ite (.bind .loadWindow fun _ _ => h.setD.done) (h.loadAt.bind fun _ h1 => .ok h1.setD)

theorem State.memOk.ldcBody (h : s.memOk) : Ends Stop.memOk Out.memOk (ldcBody f s) :=
  .ite (.bind .loadWindow fun _ _ => h.done) (h.loadAt.bind fun _ h1 => .ok h1.setD)

theorem State.memOk.ldvBody (h : s.memOk) : Ends Stop.memOk Out.memOk (ldvBody f s) :=
  .ite (.bind .loadWindow fun _ _ => h.done) (h.loadAt.bind fun _ h1 => .ok h1.setVD)

theorem State.memOk.storeAt {op : Nat} {n : Nat} {cp tagged permG : Bool} (h : s.memOk) :
    Ends Stop.memOk (fun r => r.1.memOk) (Machine.storeAt op f n cp tagged permG s) :=
  h.memAccess.bind fun _ h1 => .ok h1.noteAccess

theorem Ends.storeWindow {op : Nat} {n : Nat} {cp stv : Bool} : Ends Stop.memOk (fun _ => True) (storeWindow op f n cp stv s) :=
  .bind .capCheck fun _ _ => .bind .windowCheck fun _ _ => .value

theorem State.memOk.stBody (h : s.memOk) : Ends Stop.memOk Out.memOk (stBody f s) :=
  .bind .dataOpnd fun _ _ => .ite (.bind .storeWindow fun _ _ => h.windowWrite.done) (h.storeAt.bind fun _ h2 => h2.write.done)

theorem State.memOk.stcBody (h : s.memOk) : Ends Stop.memOk Out.memOk (stcBody f s) :=
  .ite (.bind .storeWindow fun _ _ => h.done) (h.storeAt.bind fun _ h1 => h1.writeTagged.done)

theorem State.memOk.stvBody (h : s.memOk) : Ends Stop.memOk Out.memOk (stvBody f s) := by
  unfold Machine.stvBody
  refine .ite (.bind .storeWindow fun _ _ => ?_) (h.storeAt.bind fun _ h1 => h1.write.done)
  split
  · exact h.push.bind fun _ h2 => h2.done
  · exact h.done

theorem State.memOk.laneAccess {s1 : State} {rq : Req} {r : CReg} {off : Int} (h : s.memOk) (hs1 : s1.memOk) :
    Ends Stop.memOk (fun r => r.1.memOk) (laneAccess s s1 rq r off) := by
  unfold Machine.laneAccess
  split
  next e => exact .ok (hs1.memAccess.of_ok e)
  · exact .error trivial
  · exact h.memAccess

theorem State.memOk.laneAccesses {rq : Req} {r : CReg} {off : Int} {ix : VReg} {n : Nat} {s1 : State} {x : List Nat} (h : s.memOk)
    (hs1 : s1.memOk) : Ends Stop.memOk (fun r => r.1.memOk) (laneAccesses s rq r off ix n s1 x) := by
  induction x generalizing s1 with
  | nil =>
    unfold Machine.laneAccesses
    exact .ok hs1
  | cons _ _ ih =>
    unfold Machine.laneAccesses
    exact .bind (h.laneAccess hs1) fun _ h1 => .bind (ih h1) fun _ h2 => .ok h2

theorem State.memOk.gathBody (h : s.memOk) : Ends Stop.memOk Out.memOk (gathBody f s) := by
  unfold Machine.gathBody
  refine .bind (h.laneAccesses h) fun _ h1 => .ok (.setVD ?_)
  split
  · exact .loadEnd (h1.foldl fun _ _ h2 => h2.noteAccess)
  · exact h1.foldl fun _ _ h2 => h2.noteAccess

theorem State.memOk.scatBody (h : s.memOk) : Ends Stop.memOk Out.memOk (scatBody f s) :=
  .bind (h.laneAccesses h) fun _ h1 => State.memOk.done (.foldl (h1.foldl fun _ _ h2 => h2.noteAccess) fun _ _ h2 => h2.write)

theorem State.memOk.pfetchBody {x : Fields} (h : s.memOk) : Ends Stop.memOk Out.memOk (pfetchBody x s) := h.done

theorem State.memOk.qbindBody (h : s.memOk) : Ends Stop.memOk Out.memOk (qbindBody f s) :=
  .bind .opndB fun _ _ => .bind .need fun _ _ => h.modCtx.done

theorem State.memOk.qrelBody (h : s.memOk) : Ends Stop.memOk Out.memOk (qrelBody f s) := h.modCtx.done

theorem State.memOk.postStore {n data : Nat} (h : s.memOk) : Ends Stop.memOk Out.memOk (postStore f n data s) := by
  unfold Machine.postStore
  refine h.memAccess.bind fun _ h1 => ?_
  split
  · dsimp only
    split
    · exact .error h
    · exact h1.modSlot.modCtx.done

theorem State.memOk.pstBody (h : s.memOk) : Ends Stop.memOk Out.memOk (pstBody f s) := .bind .dataOpnd fun _ _ => h.postStore

theorem State.memOk.pstVBody (h : s.memOk) : Ends Stop.memOk Out.memOk (pstVBody f s) := h.postStore

theorem State.memOk.modVcore {lid vcore : Nat} {g : Slot → Slot} (h : s.memOk) : (s.modVcore lid vcore g).memOk := by
  unfold State.modVcore
  split
  · exact h.modSlot
  · split
    · exact .of_mem h rfl
    · exact h

theorem State.memOk.setJentry {core slot entry : Nat} {e : JEntry} (h : s.memOk) : (s.setJentry core slot entry e).memOk := h.modSlot

theorem State.memOk.takeOwed {home : Nat} {o : Owed} (h : s.memOk) : (s.takeOwed home o).memOk := h.modCtx.modSlot

theorem State.memOk.owe {lid vcore : Nat} {o : Owed} (h : s.memOk) : (s.owe lid vcore o).memOk := by
  unfold State.owe
  split
  · exact h.takeOwed
  · exact h.modVcore

theorem State.memOk.takeAllOwed {home : Nat} (h : s.memOk) : (s.takeAllOwed home).memOk := .modSlot (h.foldl fun _ _ h1 => h1.takeOwed)

theorem State.memOk.refuse {core slot entry reason : Nat} (h : s.memOk) : (s.refuse core slot entry reason).memOk :=
  h.modSlot.ite h.setJentry.owe

theorem State.memOk.pstArrivalStep {core slot entry : Nat} (h : s.memOk) : (pstArrivalStep core slot entry s).memOk := by
  unfold Machine.pstArrivalStep
  refine h.ite ?_
  split
  · exact h.setJentry
  · exact h.setJentry
  · exact h.ite h.storeBytes.setJentry

theorem State.memOk.pstAckStep {core slot entry : Nat} (h : s.memOk) : (pstAckStep core slot entry s).memOk :=
  h.modSlot.owe.ite (h.refuse.ite h)

theorem State.memOk.pstNackStep {core slot entry : Nat} (h : s.memOk) : (pstNackStep core slot entry s).memOk := h.setJentry.ite h

theorem State.memOk.pstRetryStep {core slot entry : Nat} (h : s.memOk) : (pstRetryStep core slot entry s).memOk := h.setJentry.ite h

theorem State.memOk.pstParkedTimeoutStep {core slot entry : Nat} (h : s.memOk) : (pstParkedTimeoutStep core slot entry s).memOk :=
  h.refuse.ite h

theorem State.memOk.remoteAccessArrivalStep {core slot : Nat} (h : s.memOk) : (remoteAccessArrivalStep core slot s).memOk := by
  unfold Machine.remoteAccessArrivalStep
  refine .ite ?_ h
  split
  · split
    · exact .ite (.of_mem h rfl) h
    · exact h
  · exact h

/-! ### Synchronisation -/

theorem State.memOk.bump {k : Nat} (h : s.memOk) : (s.bump k).memOk := h.modSlot

theorem State.memOk.learn {k : Nat} {c : Sparse Nat} (h : s.memOk) : (s.learn k c).memOk := h.modKnown.bump

theorem State.memOk.acquired {k : Nat} {gs : List (Nat × Nat × Sparse Nat)} (h : s.memOk) : (s.acquired k gs).memOk := h.learn.modKnown

theorem State.memOk.acquire {k agent storage key n : Nat} {recs : List SyncRec} (h : s.memOk) :
    (s.acquire k agent storage key n recs).memOk :=
  h.acquired

theorem State.memOk.remember {k : Nat} {recs : List SyncRec} (h : s.memOk) : (s.remember k recs).memOk := h.modKnown

theorem State.memOk.published {k key n : Nat} {arrive : Bool} {release : Option (Nat × Nat)} {earlier : List SyncRec} (h : s.memOk) :
    (s.published k key n arrive release earlier).memOk :=
  .ite (.bump (.of_mem h rfl)) (.of_mem h rfl)

theorem Ends.intervalCheck {op n : Nat} : Ends Stop.memOk (fun _ => True) (intervalCheck op n s) := .need

theorem Ends.detCheck {op : Nat} {n : Nat} : Ends Stop.memOk (fun _ => True) (detCheck op f n s) := .bind .need fun _ _ => .intervalCheck

theorem State.memOk.releaseWait {rel : Bool} (h : s.memOk) : Ends Stop.memOk (fun _ => True) (releaseWait s rel) := .ite (.error h) .value

theorem State.memOk.ldaBody (h : s.memOk) : Ends Stop.memOk Out.memOk (ldaBody f s) :=
  .bind .detCheck fun _ _ => h.memAccess.bind fun _ h2 => .ok h2.noteAccess.loadEnd.acquire.remember.setD

theorem State.memOk.stlBody (h : s.memOk) : Ends Stop.memOk Out.memOk (stlBody f s) :=
  .bind .dataOpnd fun _ _ => .bind .detCheck fun _ _ => h.memAccess.bind fun _ h3 => h.releaseWait.bind fun _ _ =>
    h3.noteAccess.write.published.done

theorem State.memOk.readSync {k : Nat} {acq : Bool} {key n : Nat} {recs : List SyncRec} (h : s.memOk) :
    (s.readSync k f acq key n recs).memOk :=
  .remember (h.acquire.ite h)

theorem State.memOk.amoBody (h : s.memOk) : Ends Stop.memOk Out.memOk (amoBody f s) :=
  .bind .dataOpnd fun _ _ => .bind .detCheck fun _ _ => h.memAccess.bind fun _ h3 => h.releaseWait.bind fun _ _ =>
    .ok h3.noteAccess.loadEnd.write.readSync.published.modCtx.setD

theorem State.memOk.casBody (h : s.memOk) : Ends Stop.memOk Out.memOk (casBody f s) :=
  .bind .dataOpnd fun _ _ => .bind .dataOpnd fun _ _ => .bind .detCheck fun _ _ => h.memAccessIf.bind fun _ h4 =>
    h.releaseWait.bind fun _ _ => .ok (.setD (h4.noteAccess.loadEnd.write.readSync.published.ite h4.noteAccess.loadEnd.readSync))

theorem State.memOk.caswBody (h : s.memOk) : Ends Stop.memOk Out.memOk (caswBody f s) :=
  .bind .detCheck fun _ _ => h.memAccessIf.bind fun _ h2 => h.releaseWait.bind fun _ _ =>
    .ok (.setD (h2.noteAccess.loadEnd.writeTagged.readSync.published.ite h2.noteAccess.loadEnd.readSync))

theorem State.memOk.fenceRel {k agent storage : Nat} (h : s.memOk) : (s.fenceRel k agent storage).memOk := h.modKnown.bump

theorem State.memOk.fenceAcq {k agent storage : Nat} (h : s.memOk) : (s.fenceAcq k agent storage).memOk := h.acquired

theorem State.memOk.fenceBody (h : s.memOk) : Ends Stop.memOk Out.memOk (fenceBody f s) :=
  .bind .detCheck fun _ _ => h.releaseWait.bind fun _ _ => State.memOk.done (.ite (.fenceRel (h.fenceAcq.ite h)) (h.fenceAcq.ite h))

theorem State.memOk.waitmBody (h : s.memOk) : Ends Stop.memOk Out.memOk (waitmBody f s) :=
  .bind .dataOpnd fun _ _ => .bind .detCheck fun _ _ => h.memAccess.bind fun _ h3 => .ite (.error h.waitNoted)
    (.ok h3.noteAccess.loadEnd.acquire.remember.setD)

theorem State.memOk.reissue {k : Nat} {ok : Instr → Bool} (h : s.memOk) : (s.reissue k ok).memOk := by
  unfold State.reissue
  split
  · exact .ite (.of_mem h rfl) h
  · exact h

theorem State.memOk.waitmPollStep {core slot : Nat} (h : s.memOk) : (waitmPollStep core slot s).memOk := h.reissue

/-! ### FORK, RDV and the inbox -/

theorem State.memOk.startLists {k : Nat} {cap : CReg} {b : BitVec 256} (h : s.memOk) : (s.startLists k cap b).memOk :=
  h.foldl fun _ _ h1 => h1.modSlot.modEngine

theorem State.memOk.forkBody (h : s.memOk) : Ends Stop.memOk Out.memOk (forkBody f s) :=
  h.memAccess.bind fun _ h1 => .ite (.ok h1.noteAccess.loadEnd.setD) (.ite (.ok h1.noteAccess.loadEnd.setD)
    (.ok h1.noteAccess.loadEnd.startLists.setD))

theorem State.memOk.rdvBody (h : s.memOk) : Ends Stop.memOk Out.memOk (rdvBody f s) :=
  .bind .intervalCheck fun _ _ => .ite (.error h) h.setD.learn.modSlot.done

theorem State.memOk.listFails {core : Nat} {e : Engine} {slot status detail : Nat} (h : s.memOk) :
    (s.listFails core e slot status detail).memOk :=
  h.dropEngMisses.finishCmd

theorem State.memOk.forkSequenceReadStep {core : Nat} {e : Engine} (h : s.memOk) : (forkSequenceReadStep core e s).memOk := by
  unfold Machine.forkSequenceReadStep
  dsimp only
  split
  · refine h.ite (h.listFails.ite ?_)
    split
    · exact h.keepMisses
    · exact h
    · exact h.freezeEngine
    · exact h.listFails
    next e2 =>
      refine .ite (.endList (.dropEngMisses (h.engReadAny.of_ok e2))) ?_
      split
      · exact h
      next e3 => exact .modSlot ((State.memOk.accept (.dropEngMisses (h.engReadAny.of_ok e2))) _ e3)
  · exact h

theorem State.memOk.inrecvBody (h : s.memOk) : Ends Stop.memOk Out.memOk (inrecvBody f s) := by
  unfold Machine.inrecvBody
  split
  · exact h.setD.done
  · exact h.setD.modSlot.done.ite (.bind .intervalCheck fun _ _ => h.setD.learn.modSlot.done)

theorem State.memOk.inpeekBody (h : s.memOk) : Ends Stop.memOk Out.memOk (inpeekBody f s) := .bind .opndB fun _ _ => h.setD.done

theorem State.memOk.inwaitBody (h : s.memOk) : Ends Stop.memOk Out.memOk (inwaitBody f s) :=
  .bind .opndB fun _ _ => h.setGuardD.done.ite (.error h.waitNoted)

theorem State.memOk.inwaitTimeoutStep {core slot : Nat} (h : s.memOk) : (inwaitTimeoutStep core slot s).memOk := by
  unfold Machine.inwaitTimeoutStep
  dsimp only
  split
  · split
    · exact .ite (Out.memOk.finish (.setGuardD (.of_mem h rfl))) h
    · exact h
  · exact h

/-! ### Drain instructions and tensor identifiers -/

theorem State.memOk.scalePlace {k space a n : Nat} (h : s.memOk) : Ends Stop.memOk (fun _ => True) (s.scalePlace k space a n) :=
  .ite (h.translate.bind fun _ _ => .ite (.error h.violates) .value) (.ite (h.remoteCheck.bind fun _ _ =>
    .ite (.error h) .value) (.ite (.error h) .value))

theorem State.memOk.scaleLoads {k op n : Nat} {x : List Loc} (h : s.memOk) : Ends Stop.memOk State.memOk (State.scaleLoads k op n x s) := by
  induction x generalizing s with
  | nil =>
    unfold State.scaleLoads
    exact .ok h
  | cons _ _ ih =>
    unfold State.scaleLoads
    exact h.raceCheck.bind fun _ h1 => ih h1.noteAccess

theorem State.memOk.demitScales {k op : Nat} {x : Tensor} {bank row : Nat} {on : Bool} (h : s.memOk) :
    Ends Stop.memOk (fun r => r.1.memOk) (s.demitScales k op x bank row on) :=
  .ite (.ok h) (.bind (.mapM fun _ => h.scalePlace) fun _ _ => h.scaleLoads.bind fun _ h2 => .ok h2)

theorem State.memOk.endHandler {k : Nat} {g : Run → Run} (h : s.memOk) : (s.endHandler k g).memOk := h.modCtx.drainEnds

theorem State.memOk.demitBody (h : s.memOk) : Ends Stop.memOk Out.memOk (demitBody f s) :=
  .bind .dataOpnd fun _ _ => .bind .opndB fun _ _ => .bind .need fun _ _ => .bind .need fun _ _ => .bind .need fun _ _ =>
    .bind .need fun _ _ => .bind .need fun _ _ => .ite .operandTrap (h.demitScales.bind fun _ h8 =>
    .ite (.error h) (.ok (.endHandler (.foldl (Out.memOk.foldl h8 fun _ _ h9 => h9.loads) fun _ _ h9 => h9.storeBytes))))

theorem State.memOk.ddropBody {x : Fields} (h : s.memOk) : Ends Stop.memOk Out.memOk (ddropBody x s) := .ok h.endHandler

theorem State.memOk.dstatBody (h : s.memOk) : Ends Stop.memOk Out.memOk (dstatBody f s) := h.setD.done

theorem Ends.tidIndex {op : Nat} : Ends Stop.memOk (fun _ => True) (s.tidIndex op f) := .ite .dataOpnd .value

theorem State.memOk.putTensor {key idx : Nat} {e : BitVec 256} (h : s.memOk) : (s.putTensor key idx e).memOk := h.modSlot

theorem State.memOk.tidldBody (h : s.memOk) : Ends Stop.memOk Out.memOk (tidldBody f s) :=
  .bind .tidIndex fun _ _ => h.setD.done.ite (h.memAccess.bind fun _ h2 => .ite (.ok h2.noteAccess.loadEnd.setD) (.ite
    (.ok h2.noteAccess.loadEnd.setD) (.ite (.ok h2.noteAccess.loadEnd.setD) (.ok h2.noteAccess.loadEnd.putTensor.setD))))

theorem State.memOk.tidstBody (h : s.memOk) : Ends Stop.memOk Out.memOk (tidstBody f s) :=
  .bind .tidIndex fun _ _ => .bind .need fun _ _ => h.memAccess.bind fun _ h3 => h3.noteAccess.write.done

theorem State.memOk.tidinvBody (h : s.memOk) : Ends Stop.memOk Out.memOk (tidinvBody f s) :=
  .bind .tidIndex fun _ _ => h.setD.done.ite (h.setD.done.ite (h.setD.done.ite h.putTensor.setD.done))

/-! ### Stopped engine work -/

theorem State.memOk.withdraw {core slot : Nat} {e : Engine} (h : s.memOk) : (s.withdraw core slot e).memOk :=
  h.foldl fun _ _ h1 => h1.ite h1.modEngine.modCore

theorem State.memOk.cancelUnstarted {core slot : Nat} {e : Engine} (h : s.memOk) : (s.cancelUnstarted core slot e).memOk :=
  h.ite h.withdraw.modEngine

theorem State.memOk.haltRunning {core slot : Nat} (h : s.memOk) : (s.haltRunning core slot).memOk := by
  unfold State.haltRunning
  refine .foldl ?_ ?_
  · refine .foldl (h.foldl fun _ _ h1 => ?_) fun _ _ h1 => h1.modEngine
    split
    · exact h1.endCmd.ite h1
    · exact h1
  · refine fun _ _ h1 => ?_
    split
    · exact h1.drainEnds.ite h1
    · exact h1

/-! ### Collectives, hurdles and counted waits -/

theorem State.memOk.depart {k : Nat} {c : Coll} (h : s.memOk) : (s.depart k c).memOk := h.learn.modSlot

theorem State.memOk.departs {k : Nat} {c : Coll} {a : Nat} {finish : Nat → State → State} (h : s.memOk)
    (hfinish : ∀ (x : Nat) (t : State), t.memOk → (finish x t).memOk) : (s.departs k c a finish).memOk := by
  unfold State.departs
  split <;> exact hfinish _ _ h.depart

theorem State.memOk.collective {op which : Nat} {arrive : State → Exec (Out × Option Nat)} {finish : Nat → State → State} (h : s.memOk)
    (harrive : ∀ (t : State), t.memOk → Ends Stop.memOk (fun r => r.1.memOk) (arrive t))
    (hfinish : ∀ (x : Nat) (t : State), t.memOk → (finish x t).memOk) :
    Ends Stop.memOk Out.memOk (collective op which arrive finish s) := by
  unfold Machine.collective
  dsimp only
  split
  · refine .ite ?_ (.error h)
    split
    · exact .ok (h.departs hfinish)
    · exact .error h
  · refine .bind (harrive _ h) fun _ h1 => ?_
    split
    · exact .ok (hfinish _ _ h1)
    · split
      · exact .ok (h1.modSlot.departs hfinish)
      · exact .error h1.modSlot
    · exact .error h1

theorem State.memOk.pend {k op which n : Nat} (h : s.memOk) : (s.pend k op which n).memOk := h.modSlot

theorem State.memOk.answer {lid vcore op which n a : Nat} {clock : Sparse Nat} (h : s.memOk) :
    (s.answer lid vcore op which n a clock).memOk :=
  h.modVcore

theorem State.memOk.settleHurdles {lid : Nat} (h : s.memOk) : (s.settleHurdles lid).memOk :=
  h.ite (.modGang (h.foldl fun _ _ h1 => h1.foldl fun _ _ h2 => h2.answer))

theorem State.memOk.arriveHurdle {k j : Nat} (h : s.memOk) : (s.arriveHurdle k j).memOk := h.modGang.modSlot.pend.settleHurdles

theorem State.memOk.leaveHurdle {k j : Nat} (h : s.memOk) : (s.leaveHurdle k j).memOk := h.modSlot.ite h

theorem State.memOk.hurdleBody (h : s.memOk) : Ends Stop.memOk Out.memOk (hurdleBody f s) := by
  unfold Machine.hurdleBody
  exact h.collective (fun _ h1 => .bind .intervalCheck fun _ _ => h1.releaseWait.bind fun _ _ =>
      .ite (.ok h1.modSlot) (.ok h1.arriveHurdle)) fun _ _ h1 => h1.leaveHurdle

theorem State.memOk.arriveWith {b : Nat} (h : s.memOk) : Ends Stop.memOk Out.memOk (arriveWith f b s) :=
  .bind .intervalCheck fun _ _ => h.memAccess.bind fun _ h2 => h.releaseWait.bind fun _ _ =>
    .ok h2.noteAccess.loadEnd.write.remember.published

theorem State.memOk.arriveBody (h : s.memOk) : Ends Stop.memOk Out.memOk (arriveBody f s) := .bind .dataOpnd fun _ _ => h.arriveWith

theorem State.memOk.arriveOneBody (h : s.memOk) : Ends Stop.memOk Out.memOk (arriveOneBody f s) := h.arriveWith

theorem State.memOk.cwaitBody (h : s.memOk) : Ends Stop.memOk Out.memOk (cwaitBody f s) :=
  .bind .dataOpnd fun _ _ => .bind .intervalCheck fun _ _ => h.memAccess.bind fun _ h3 =>
    .ite (.error h.waitNoted) (.ok h3.noteAccess.loadEnd.acquire.remember.setD)

theorem State.memOk.cwaitPollStep {core slot : Nat} (h : s.memOk) : (cwaitPollStep core slot s).memOk := h.reissue

theorem State.memOk.cwaitSbBody (h : s.memOk) : Ends Stop.memOk Out.memOk (cwaitSbBody f s) := h.done.ite (.error h.waitNoted)

/-! ### Scalar floating point -/

theorem Ends.fpOpnd {op field ty : Nat} {o : Opnd} : Ends Stop.memOk (fun _ => True) (s.fpOpnd op field ty o) :=
  .bind .dataOpnd fun _ _ => .value

theorem Ends.fpB {op : Nat} : Ends Stop.memOk (fun _ => True) (s.fpB op f) := .ite .value .fpOpnd

theorem State.memOk.fpDone {r : Flagged} (h : s.memOk) : Ends Stop.memOk Out.memOk (s.fpDone f r) := h.setD.modCtx.done

theorem State.memOk.fpBinary {op : Nat} {g : Nat → Nat → Nat → Flagged} (h : s.memOk) : Ends Stop.memOk Out.memOk (fpBinary op f g s) :=
  .bind .fpOpnd fun _ _ => .bind .fpB fun _ _ => h.fpDone

theorem State.memOk.ffmaBody (h : s.memOk) : Ends Stop.memOk Out.memOk (ffmaBody f s) := .bind .fpOpnd fun _ _ => h.fpBinary

theorem State.memOk.fsqrtBody (h : s.memOk) : Ends Stop.memOk Out.memOk (fsqrtBody f s) := .bind .fpOpnd fun _ _ => h.fpDone

theorem State.memOk.fcmpBody (h : s.memOk) : Ends Stop.memOk Out.memOk (fcmpBody f s) :=
  .bind .fpOpnd fun _ _ => .bind .fpB fun _ _ => h.setGuardD.modCtx.done

theorem State.memOk.fcvtBody (h : s.memOk) : Ends Stop.memOk Out.memOk (fcvtBody f s) := .bind .fpOpnd fun _ _ => h.setD.modCtx.done

theorem State.memOk.fclassBody (h : s.memOk) : Ends Stop.memOk Out.memOk (fclassBody f s) := .bind .fpOpnd fun _ _ => h.setD.done

/-! ### Integer and guard logic -/

theorem State.memOk.intBinary {op : Nat} {sat : Bool} {g : Int → Int → Int} (h : s.memOk) :
    Ends Stop.memOk Out.memOk (intBinary op f sat g s) :=
  .bind .dataOpnd fun _ _ => .bind .opndB fun _ _ => h.setD.done

theorem State.memOk.bitBinary {op : Nat} {g : Nat → Nat → Nat → Nat} (h : s.memOk) : Ends Stop.memOk Out.memOk (bitBinary op f g s) :=
  .bind .dataOpnd fun _ _ => .bind .opndB fun _ _ => h.setD.done

theorem State.memOk.shiftOp {op : Nat} {g : Nat → Nat → Nat → Nat} (h : s.memOk) : Ends Stop.memOk Out.memOk (shiftOp op f g s) :=
  .bind .dataOpnd fun _ _ => .bind .opndB fun _ _ => h.setD.done

theorem State.memOk.bitUnary {op : Nat} {g : Nat → Nat → Nat} (h : s.memOk) : Ends Stop.memOk Out.memOk (bitUnary op f g s) :=
  .bind .dataOpnd fun _ _ => h.setD.done

theorem State.memOk.madBody (h : s.memOk) : Ends Stop.memOk Out.memOk (madBody f s) := .bind .dataOpnd fun _ _ => h.intBinary

theorem State.memOk.selBody (h : s.memOk) : Ends Stop.memOk Out.memOk (selBody f s) := h.setD.done

theorem State.memOk.movBody (h : s.memOk) : Ends Stop.memOk Out.memOk (movBody f s) := by
  unfold Machine.movBody
  split
  · exact .bind .dataOpnd fun _ _ => h.setGuardD.done
  · exact h.setD.done

theorem State.memOk.movImmBody (h : s.memOk) : Ends Stop.memOk Out.memOk (movImmBody f s) := by
  unfold Machine.movImmBody
  split
  · exact h.setGuardD.done
  · exact h.setD.done

theorem State.memOk.movhBody (h : s.memOk) : Ends Stop.memOk Out.memOk (movhBody f s) := .bind .dataOpnd fun _ _ => h.setD.done

theorem State.memOk.bfxBody (h : s.memOk) : Ends Stop.memOk Out.memOk (bfxBody f s) :=
  .bind .dataOpnd fun _ _ => .bind .opndB fun _ _ => h.setD.done

theorem State.memOk.bfiBody (h : s.memOk) : Ends Stop.memOk Out.memOk (bfiBody f s) :=
  .bind .dataOpnd fun _ _ => .bind .dataOpnd fun _ _ => .bind .opndB fun _ _ => h.setD.done

theorem State.memOk.cmpBody (h : s.memOk) : Ends Stop.memOk Out.memOk (cmpBody f s) :=
  .bind .dataOpnd fun _ _ => .bind .opndB fun _ _ => h.setGuardD.done

theorem State.memOk.gopBody (h : s.memOk) : Ends Stop.memOk Out.memOk (gopBody f s) :=
  .bind .dataOpnd fun _ _ => .bind .opndB fun _ _ => h.setGuardD.done

/-! ### Vector instructions -/

theorem State.memOk.popQueue {k queue : Nat} (h : s.memOk) : (s.popQueue k queue).1.memOk := by
  unfold State.popQueue
  split
  · exact h
  · exact h.modSlot.ite h.modSlot.learn

theorem Ends.acquireCheck {op n : Nat} : Ends Stop.memOk (fun _ => True) (acquireCheck op n s) := .ite .value .intervalCheck

theorem State.memOk.popStreams {op : Nat} {os : List Opnd} (h : s.memOk) : Ends Stop.memOk (fun r => r.1.memOk) (popStreams op s os) := by
  unfold Machine.popStreams
  refine .ite (Ends.acquireCheck.bind fun _ _ => .ok ?_) (.error h)
  exact List.foldlRecOn (motive := fun r : State × List VReg => r.1.memOk) _ _ h fun _ h1 _ _ => h1.popQueue

theorem State.memOk.vecOperands {op : Nat} {w lit : Nat} (h : s.memOk) :
    Ends Stop.memOk (fun r => r.1.memOk) (vecOperands op f w lit s) := by
  unfold Machine.vecOperands
  refine .bind .boundCheck fun _ _ => ?_
  refine .ite ?_ ?_
  · refine .bind .value fun _ _ => h.popStreams.bind fun _ h3 => ?_
    split
    · split <;> exact .ok h3
  · split
    · refine .bind .dataOpnd fun _ _ => .bind .value fun _ _ => h.popStreams.bind fun _ h4 => ?_
      split
      · split <;> exact .ok h4
    · refine .bind .value fun _ _ => h.popStreams.bind fun _ h3 => ?_
      split
      · split <;> exact .ok h3
    · refine .bind .value fun _ _ => h.popStreams.bind fun _ h3 => ?_
      split
      · split <;> exact .ok h3

theorem State.memOk.vecDone {s1 : State} {n : Nat} {g : Nat → Flagged} (h : s.memOk) : Ends Stop.memOk Out.memOk (s.vecDone s1 f n g) :=
  h.setVD.modCtx.done

theorem State.memOk.vecBinary {op : Nat} {g : Nat → Nat → Nat → Flagged} (h : s.memOk) : Ends Stop.memOk Out.memOk (vecBinary op f g s) :=
  h.vecOperands.bind fun _ h1 => h1.vecDone

theorem State.memOk.vecUnary {op : Nat} {g : Nat → Flagged} (h : s.memOk) : Ends Stop.memOk Out.memOk (vecUnary op f g s) := h.vecBinary

theorem State.memOk.vaddBody (h : s.memOk) : Ends Stop.memOk Out.memOk (vaddBody f s) := h.vecBinary

theorem State.memOk.vsubBody (h : s.memOk) : Ends Stop.memOk Out.memOk (vsubBody f s) := h.vecBinary

theorem State.memOk.vmulBody (h : s.memOk) : Ends Stop.memOk Out.memOk (vmulBody f s) := h.vecBinary

theorem State.memOk.vfmaBody (h : s.memOk) : Ends Stop.memOk Out.memOk (vfmaBody f s) := h.vecBinary

theorem State.memOk.vfmsBody (h : s.memOk) : Ends Stop.memOk Out.memOk (vfmsBody f s) := h.vecBinary

theorem State.memOk.vminBody (h : s.memOk) : Ends Stop.memOk Out.memOk (vminBody f s) := h.vecBinary

theorem State.memOk.vmaxBody (h : s.memOk) : Ends Stop.memOk Out.memOk (vmaxBody f s) := h.vecBinary

theorem State.memOk.vabsBody (h : s.memOk) : Ends Stop.memOk Out.memOk (vabsBody f s) := h.vecUnary

theorem State.memOk.vnegBody (h : s.memOk) : Ends Stop.memOk Out.memOk (vnegBody f s) := h.vecUnary

theorem State.memOk.vrcpBody (h : s.memOk) : Ends Stop.memOk Out.memOk (vrcpBody f s) := h.vecUnary

theorem State.memOk.vrsqBody (h : s.memOk) : Ends Stop.memOk Out.memOk (vrsqBody f s) := h.vecUnary

theorem State.memOk.vexp2Body (h : s.memOk) : Ends Stop.memOk Out.memOk (vexp2Body f s) := h.vecUnary

theorem State.memOk.vlog2Body (h : s.memOk) : Ends Stop.memOk Out.memOk (vlog2Body f s) := h.vecUnary

theorem State.memOk.vecBits {op : Nat} {g : Nat → Nat → Nat → Nat} (h : s.memOk) : Ends Stop.memOk Out.memOk (vecBits op f g s) :=
  h.vecBinary

theorem State.memOk.vandBody (h : s.memOk) : Ends Stop.memOk Out.memOk (vandBody f s) := h.vecBits

theorem State.memOk.vorBody (h : s.memOk) : Ends Stop.memOk Out.memOk (vorBody f s) := h.vecBits

theorem State.memOk.vxorBody (h : s.memOk) : Ends Stop.memOk Out.memOk (vxorBody f s) := h.vecBits

theorem State.memOk.vandnBody (h : s.memOk) : Ends Stop.memOk Out.memOk (vandnBody f s) := h.vecBits

theorem State.memOk.vshlBody (h : s.memOk) : Ends Stop.memOk Out.memOk (vshlBody f s) := h.vecBits

theorem State.memOk.vshrBody (h : s.memOk) : Ends Stop.memOk Out.memOk (vshrBody f s) := h.vecBits

theorem State.memOk.vsarBody (h : s.memOk) : Ends Stop.memOk Out.memOk (vsarBody f s) := h.vecBits

theorem State.memOk.vpopcBody (h : s.memOk) : Ends Stop.memOk Out.memOk (vpopcBody f s) := h.vecBits

theorem State.memOk.vclzBody (h : s.memOk) : Ends Stop.memOk Out.memOk (vclzBody f s) := h.vecBits

theorem State.memOk.vclmulBody (h : s.memOk) : Ends Stop.memOk Out.memOk (vclmulBody f s) := h.vecBits

theorem State.memOk.vcmpBody (h : s.memOk) : Ends Stop.memOk Out.memOk (vcmpBody f s) :=
  h.vecOperands.bind fun _ h1 => h1.done.ite h1.setGuardD.modCtx.done

theorem State.memOk.vselBody (h : s.memOk) : Ends Stop.memOk Out.memOk (vselBody f s) := h.vecOperands.bind fun _ h1 => h1.vecDone

theorem State.memOk.vcvtBody (h : s.memOk) : Ends Stop.memOk Out.memOk (vcvtBody f s) := h.setVD.modCtx.done

theorem State.memOk.vbcastBody (h : s.memOk) : Ends Stop.memOk Out.memOk (vbcastBody f s) :=
  .ite (.bind .value fun _ _ => h.vecDone) (.bind .dataOpnd fun _ _ => h.vecDone)

theorem State.memOk.vpermBody (h : s.memOk) : Ends Stop.memOk Out.memOk (vpermBody f s) := h.vecOperands.bind fun _ h1 => h1.vecDone

theorem State.memOk.vecA {op : Nat} (h : s.memOk) : Ends Stop.memOk (fun r => r.1.memOk) (vecA op f s) := by
  unfold Machine.vecA
  refine .bind .boundCheck fun _ _ => h.popStreams.bind fun _ h2 => ?_
  split
  · split <;> exact .ok h2

theorem State.memOk.vslideBody (h : s.memOk) : Ends Stop.memOk Out.memOk (vslideBody f s) :=
  .bind .boundCheck fun _ _ => .bind .opndB fun _ _ => h.vecA.bind fun _ h3 => h3.vecDone

theorem State.memOk.vcompressBody (h : s.memOk) : Ends Stop.memOk Out.memOk (vcompressBody f s) := h.vecA.bind fun _ h1 => h1.vecDone

theorem State.memOk.viotaBody (h : s.memOk) : Ends Stop.memOk Out.memOk (viotaBody f s) := h.vecDone

theorem State.memOk.vmovcBody (h : s.memOk) : Ends Stop.memOk Out.memOk (vmovcBody f s) :=
  .ite (.bind .boundCheck fun _ _ => .bind .opndB fun _ _ => h.vecA.bind fun _ h3 => h3.setD.done) (h.vecA.bind fun _ h1 => h1.done)

theorem State.memOk.vinsBody (h : s.memOk) : Ends Stop.memOk Out.memOk (vinsBody f s) :=
  .bind .dataOpnd fun _ _ => .bind .opndB fun _ _ => h.setVD.done

theorem State.memOk.vredBody (h : s.memOk) : Ends Stop.memOk Out.memOk (vredBody f s) :=
  h.vecA.bind fun _ h1 => h1.done.ite (h1.setD.modCtx.done.ite h1.setD.done)

theorem State.memOk.vscanBody (h : s.memOk) : Ends Stop.memOk Out.memOk (vscanBody f s) := h.vecA.bind fun _ h1 => h1.vecDone.ite h1.vecDone

theorem State.memOk.vdotBody (h : s.memOk) : Ends Stop.memOk Out.memOk (vdotBody f s) := h.vecOperands.bind fun _ h1 => h1.vecDone

/-! ### Messages -/

theorem Ends.freeOnly {op : Nat} : Ends Stop.memOk (fun _ => True) (freeOnly op s) := .need

theorem Ends.endpointOpnd : Ends Stop.memOk (fun _ => True) (endpointOpnd f s) := .bind .dataOpnd fun _ _ => .bind .need fun _ _ => .value

theorem State.memOk.plainLines {rq : Req} {c : Cap} {x x1 : Nat} {x2 : Out} (h : s.memOk) (hx2 : x2.memOk) :
    Ends Stop.memOk (fun r => r.1.memOk) (plainLines rq c s x x1 x2) := by
  induction x generalizing x1 x2 with
  | zero =>
    unfold Machine.plainLines
    exact .ok hx2
  | succ _ ih =>
    unfold Machine.plainLines
    exact h.locate.bind fun _ _ => hx2.raceCheck.bind fun _ h2 => h.accessWaits.bind fun _ _ =>
        .bind (ih (.loads h2.noteAccess)) fun _ h4 => .ok h4

theorem State.memOk.payloadAt (h : s.memOk) : Ends Stop.memOk (fun r => r.1.memOk) (payloadAt f s) :=
  .bind .capCheck fun _ _ => h.plainLines h

theorem State.memOk.postMessage {endpoint mode channel tag : Nat} {o : Out} {payload : List Byte} (h : s.memOk) (ho : o.memOk) :
    Ends Stop.memOk Out.memOk (postMessage f endpoint mode channel tag s o payload) := by
  unfold Machine.postMessage
  dsimp only
  split
  · exact .error h
  · exact .ite (.bind .intervalCheck fun _ _ => h.releaseWait.bind fun _ _ => .ok (ho.modSlot.bump.ite ho.modSlot))
        (h.releaseWait.bind fun _ _ => .ok (ho.modSlot.bump.ite ho.modSlot))

theorem State.memOk.sendChanBody (h : s.memOk) : Ends Stop.memOk Out.memOk (sendChanBody f s) :=
  .bind .freeOnly fun _ _ => .bind .endpointOpnd fun _ _ => h.payloadAt.bind fun _ h3 => h.postMessage h3

theorem State.memOk.sendTgBody (h : s.memOk) : Ends Stop.memOk Out.memOk (sendTgBody f s) :=
  .bind .freeOnly fun _ _ => .bind .endpointOpnd fun _ _ => .bind .dataOpnd fun _ _ => h.payloadAt.bind fun _ h4 => h.postMessage h4

theorem State.memOk.sendInBody (h : s.memOk) : Ends Stop.memOk Out.memOk (sendInBody f s) :=
  .bind .freeOnly fun _ _ => .bind .endpointOpnd fun _ _ => .bind .dataOpnd fun _ _ => .bind .opndB fun _ _ => h.postMessage h

theorem State.memOk.recvBody (h : s.memOk) : Ends Stop.memOk Out.memOk (recvBody f s) := by
  unfold Machine.recvBody
  refine .bind .opndB fun _ _ => .bind .need fun _ _ => .ite (.error h.waitNoted) (.bind .acquireCheck fun _ _ =>
      State.memOk.done (.setVD ?_))
  split
  · exact h
  · exact h.modSlot.ite h.modSlot.learn

theorem State.memOk.matchBody (h : s.memOk) : Ends Stop.memOk Out.memOk (matchBody f s) := by
  unfold Machine.matchBody
  refine .bind .freeOnly fun _ _ => .bind .dataOpnd fun _ _ => .bind .need fun _ _ => .bind .capCheck fun _ _ => h.locate.bind fun _ _ =>
      h.setD.done.ite ?_
  split
  · exact h.setD.done
  · exact h.modSlot.setD.done

theorem State.memOk.unmatchBody (h : s.memOk) : Ends Stop.memOk Out.memOk (unmatchBody f s) := by
  unfold Machine.unmatchBody
  refine .bind .freeOnly fun _ _ => .bind .opndB fun _ _ => ?_
  dsimp only
  split
  · exact h.setD.done
  · exact h.modSlot.setD.done

theorem State.memOk.deliver {key sender : Nat} {e : REntry} (h : s.memOk) : (s.deliver key sender e).memOk := by
  unfold State.deliver
  split
  · dsimp only
    split
    · exact trivial
    · exact h.modSlot
  · dsimp only
    split
    · exact trivial
    · exact h.putInbox
  · dsimp only
    split
    · exact trivial
    · split
      · exact trivial
      · exact h.storeBytes.modSlot.putInbox

theorem State.memOk.receive {lid vcore sender : Nat} {e : REntry} (h : s.memOk) : (s.receive lid vcore sender e).memOk := by
  unfold State.receive
  extract_lets
  split
  · exact trivial
  · split
    · exact trivial
    · split
      · exact trivial
      · split
        · exact trivial
        · split
          · exact trivial
          · exact h.deliver

theorem State.memOk.setRentry {core slot entry : Nat} {e : REntry} (h : s.memOk) : (s.setRentry core slot entry e).memOk := h.modSlot

theorem State.memOk.dropRentry {core slot entry : Nat} (h : s.memOk) : (s.dropRentry core slot entry).memOk := h.modSlot

theorem State.memOk.farArrival {m : FarMsg} (h : s.memOk) : (s.farArrival m).memOk := by
  unfold State.farArrival
  refine h.ite ?_
  split
  · exact h
  · dsimp only
    split
    next e1 => exact h.receive.of_done e1
    · exact h

theorem State.memOk.messageArrivalStep {core slot entry : Nat} {far : Option FarMsg} (h : s.memOk) :
    (messageArrivalStep core slot entry far s).memOk := by
  unfold Machine.messageArrivalStep
  split
  · exact h.farArrival
  · refine h.ite (h.setRentry.ite (h.ite ?_))
    split
    · exact h
    · exact h.setRentry
    next e1 => exact .setRentry (h.receive.of_done e1)
  · exact h

theorem State.memOk.sendAckStep {core slot entry : Nat} (h : s.memOk) : (sendAckStep core slot entry s).memOk := by
  unfold Machine.sendAckStep
  split
  · exact h.dropRentry.ite h
  · exact h

theorem State.memOk.undeliverable {core slot entry reason : Nat} {e : REntry} (h : s.memOk) :
    (s.undeliverable core slot entry reason e).memOk :=
  h.dropRentry.ite h.dropRentry.owe

theorem State.memOk.sendNackStep {core slot entry reason : Nat} (h : s.memOk) : (sendNackStep core slot entry reason s).memOk := by
  unfold Machine.sendNackStep
  split
  · exact h.ite (h.undeliverable.ite h.setRentry)
  · exact h

theorem State.memOk.sendRetryStep {core slot entry : Nat} (h : s.memOk) : (sendRetryStep core slot entry s).memOk := by
  unfold Machine.sendRetryStep
  split
  · exact h.setRentry.ite h
  · exact h

theorem State.memOk.noPortUpTimeoutStep {core slot : Nat} {posted : Bool} {entry : Nat} (h : s.memOk) :
    (noPortUpTimeoutStep core slot posted entry s).memOk := by
  unfold Machine.noPortUpTimeoutStep
  split
  · exact h.undeliverable.ite h
  · exact h

/-! ### The transposing exchange -/

theorem State.memOk.mapldBody (h : s.memOk) : Ends Stop.memOk Out.memOk (mapldBody f s) :=
  .bind .need fun _ _ => .bind .capCheck fun _ _ => .bind (h.plainLines h) fun _ h3 =>
    .ite (.ok h3.setD) (.ite (.ok h3.setD) (.ok h3.modDrover.setD))

theorem Ends.a2Open {field : Nat} {o : Opnd} : Ends Stop.memOk (fun _ => True) (a2Open s field o) := .bind .need fun _ _ => .need

theorem Ends.a2Right {o : Opnd} {st : Bool} : Ends Stop.memOk (fun _ => True) (a2Right s o st) := .need

theorem Ends.a2Fits {k : Nat} {o : Opnd} {size el : Nat} : Ends Stop.memOk (fun _ => True) (a2Fits s k o size el) :=
  .bind .need fun _ _ => .bind .need fun _ _ => .bind .need fun _ _ => .value

theorem State.memOk.a2atBody (h : s.memOk) : Ends Stop.memOk Out.memOk (a2atBody f s) :=
  .bind .a2Open fun _ _ => .bind .a2Open fun _ _ => .bind .a2Right fun _ _ => .bind .a2Right fun _ _ => .bind .a2Fits fun _ _ =>
    .bind .a2Fits fun _ _ => h.setD.done.ite (h.setD.done.ite (h.setD.done.ite (.bind .intervalCheck fun _ _ =>
    h.releaseWait.bind fun _ _ => .ite (.error h) h.modCore.modSlot.bump.modDrover.setD.done)))

theorem State.memOk.exPlace {x : ExInst} {v : Nat} {e : ExPart} {space a n : Nat} {st : Bool} (h : s.memOk) :
    Ends EStop.memOk (fun r => r.1.memOk) (exPlace s x v e space a n st) := by
  unfold Machine.exPlace
  refine .ite (.ok h) ?_
  split
  next e1 => exact .error (h.engTranslate.of_error e1)
  · refine .ite (.error trivial) (.ite ?_ (.ok h.engCount))
    dsimp only
    split
    next e2 => exact .ok (h.engCount.raceRange.of_ok e2)
    · exact .error trivial
    · exact .error trivial

theorem State.memOk.moveElement {x : ExInst} {v : Nat} {e : ExPart} {el j : Nat} (h : s.memOk) :
    Ends (fun r => r.2.memOk) State.memOk (Machine.moveElement x v e el j s) := by
  unfold Machine.moveElement
  split
  next e1 => exact .error (h.exPlace.of_error e1)
  next e1 =>
    have h1 := h.exPlace.of_ok e1
    refine .ite (.error trivial) ?_
    split
    next e2 => exact .error ((State.memOk.exPlace h1).of_error e2)
    next e2 => exact .ok (.storeBytes ((State.memOk.exPlace h1).of_ok e2))

theorem State.memOk.moveElements {x : ExInst} {v : Nat} {e : ExPart} {el : Nat} {x1 : List Nat} (h : s.memOk) :
    Ends (fun r => r.2.memOk) State.memOk (moveElements x v e el x1 s) := by
  induction x1 generalizing s with
  | nil =>
    unfold Machine.moveElements
    exact .ok h
  | cons _ _ ih =>
    unfold Machine.moveElements
    split
    next e1 => exact .error (h.moveElement.of_error e1)
    next e1 => exact ih (h.moveElement.of_ok e1)

theorem State.memOk.putExchange {p : Nat} {x y : ExInst} (h : s.memOk) : (s.putExchange p x y).memOk := h.modDrover

theorem State.memOk.exchangeBlockStep {ctx entry part : Nat} (h : s.memOk) : (exchangeBlockStep ctx entry part s).memOk := by
  unfold Machine.exchangeBlockStep
  split
  · refine h.ite ?_
    dsimp only
    split
    · exact h.keepMisses
    · exact h
    · exact h.putExchange
    · exact h.freezeEngine.putExchange
    next e1 => exact .putExchange (.foldl (h.moveElements.of_ok e1) fun _ _ h1 => h1.dropEngMisses)
  · exact h

theorem State.memOk.exchangeDeliveryStep {ctx entry part : Nat} (h : s.memOk) : (exchangeDeliveryStep ctx entry part s).memOk := by
  unfold Machine.exchangeDeliveryStep
  split
  · split
    · exact h.ite (h.releaseRanges.putInbox.modSlot.modDrover.ite h.releaseRanges.putInbox.modSlot.putExchange)
    · exact h
  · exact h

theorem State.memOk.exchangeDeadline {p lid v : Nat} (h : s.memOk) : (s.exchangeDeadline p lid v).memOk := by
  unfold State.exchangeDeadline
  refine h.foldl fun _ _ h1 => h1.ite (.ite (h1.putExchange.ite h1) ?_)
  split
  · exact h1.putExchange.modEngine
  · exact h1.putExchange.releaseRanges.modVcore

theorem State.memOk.moveExchanges {lid v key : Nat} (h : s.memOk) : (s.moveExchanges lid v key).memOk :=
  h.foldl fun _ _ h1 => h1.ite h1.releaseRanges.modCore.putExchange

theorem State.memOk.exchangesOver {p lid : Nat} (h : s.memOk) : (s.exchangesOver p lid).memOk :=
  .modDrover (h.foldl fun _ _ h1 => h1.foldl fun _ _ h2 => h2.releaseRanges)

/-! ### The relaxation cycle and the weight update -/

theorem State.memOk.setCycle {p cy : Nat} {c : Cycle} (h : s.memOk) : (s.setCycle p cy c).memOk := h

theorem State.memOk.answerAll {lid : Nat} {vs : List Nat} {op which a : Nat} {clock : Sparse Nat} (h : s.memOk) :
    (s.answerAll lid vs op which a clock).memOk :=
  h.foldl fun _ _ h1 => h1.answer

theorem State.memOk.arriveCycle {k p cy op : Nat} {g : Cycle → Cycle} (h : s.memOk) : (s.arriveCycle k p cy op g).memOk :=
  h.setCycle.bump.pend

theorem State.memOk.freeCycle {p cy : Nat} {prev : Option CyclePrev} (h : s.memOk) : (s.freeCycle p cy prev).memOk := h.setCycle

theorem State.memOk.endCycle {p cy status : Nat} (h : s.memOk) : (s.endCycle p cy status).memOk := h.setCycle.answerAll

theorem State.memOk.cyclePlace {p key mode space a : Nat} {st : Bool} (h : s.memOk) :
    Ends (Gives State.memOk) (fun _ => True) (s.cyclePlace p key mode space a st) := by
  unfold State.cyclePlace
  refine .ite ?_ (.ite .value .value)
  split
  · exact .ite .value (.error .none)
  · exact .ite .value (.error .none)
  · split
    · exact .ite (.error (.some h)) (.error .none)
    · exact .error (.some h.modCore)

theorem State.memOk.cyclePlaces {p key mode space a n : Nat} {st : Bool} (h : s.memOk) :
    Ends (Gives State.memOk) (fun _ => True) (s.cyclePlaces p key mode space a n st) :=
  .mapM fun _ => h.cyclePlace.bind fun _ _ => .ite (.error .none) .value

theorem State.memOk.putPieces {x : List (Nat × Nat)} {x1 : List Byte} (h : s.memOk) : (putPieces x x1 s).memOk := by
  induction x generalizing x1 s with
  | nil =>
    unfold Machine.putPieces
    exact h
  | cons _ _ ih =>
    unfold Machine.putPieces
    exact ih h.storeBytes

theorem State.memOk.warmPieces {p : Nat} {x y : WarmEnd} {x1 : List (Nat × Nat × Nat)} (h : s.memOk) :
    Ends (Gives State.memOk) State.memOk (warmPieces p x y x1 s) := by
  induction x1 generalizing s with
  | nil =>
    unfold Machine.warmPieces
    exact .ok h
  | cons _ _ ih =>
    unfold Machine.warmPieces
    exact h.cyclePlaces.bind fun _ _ => h.cyclePlaces.bind fun _ _ => ih h.putPieces

theorem State.memOk.warmTensor {p lid src dst bank : Nat} {a b : Tensor} (h : s.memOk) :
    Ends (Gives State.memOk) State.memOk (s.warmTensor p lid src dst bank a b) :=
  h.warmPieces.bind fun _ h1 => .ite (.ok h1) h1.warmPieces

theorem State.memOk.warmCopies {p lid : Nat} {d : BitVec 512} {r : CyclePrev} {x : List (Nat × Nat)} (h : s.memOk) :
    Ends State.memOk (fun r => r.1.memOk) (warmCopies p lid d r x s) := by
  induction x generalizing s with
  | nil => exact .ok h
  | cons _ _ ih =>
    unfold Machine.warmCopies
    dsimp only
    split
    · exact .ok h
    next e => exact .error (h.warmTensor.of_error e _ rfl)
    next e => exact ih (h.warmTensor.of_ok e)

theorem State.memOk.warmStart {p lid : Nat} {d : BitVec 512} {prev : Option CyclePrev} (h : s.memOk) :
    Ends State.memOk (fun r => r.1.memOk) (s.warmStart p lid d prev) := by
  unfold State.warmStart
  refine .ite (.ok h) ?_
  split
  · exact .ok h
  · exact h.warmCopies.ite (.ok h)

theorem State.memOk.dropWarmMisses {lid : Nat} {d : BitVec 512} (h : s.memOk) : (s.dropWarmMisses lid d).memOk :=
  h.foldl fun _ _ h1 => h1.ite h1.modCore

theorem State.memOk.openFails {p cy status : Nat} (h : s.memOk) : (s.openFails p cy status).memOk := h.freeCycle.answerAll

theorem State.memOk.openCycle {p cy : Nat} (h : s.memOk) : (s.openCycle p cy).memOk := by
  unfold State.openCycle
  refine h.openFails.ite ?_
  split
  · exact h.keepMisses
  next e => exact .openFails (.dropWarmMisses (h.warmStart.of_ok e))
  next e => exact .answerAll (.setCycle (.dropWarmMisses (h.warmStart.of_ok e)))

theorem State.memOk.offerOpen {k p cy : Nat} {d : BitVec 512} (h : s.memOk) : (s.offerOpen k p cy d).1.memOk := by
  unfold State.offerOpen
  refine h.ite_fst (h.ite_fst (h.ite_fst ?_))
  exact .ite_fst (.fst h.arriveCycle.openFails) (.ite_fst (.fst h.arriveCycle.openCycle) (.fst h.arriveCycle))

theorem State.memOk.retryOpen {p cy : Nat} (h : s.memOk) : (s.retryOpen p cy).memOk := h.openCycle.ite h

theorem State.memOk.cyopenBody (h : s.memOk) : Ends Stop.memOk Out.memOk (cyopenBody f s) := by
  unfold Machine.cyopenBody
  refine (State.memOk.ite h.retryOpen h).collective (fun _ h1 => ?_) fun _ _ h1 => h1.setD
  refine .bind .intervalCheck fun _ _ => h1.memAccess.bind fun _ h2 => h1.releaseWait.bind fun _ _ => .ok ?_
  exact State.memOk.offerOpen h2.noteAccess.loadEnd

theorem Ends.needPart {op : Nat} {k p cy : Nat} : Ends Stop.memOk (fun _ => True) (needPart op s k p cy) := .need

theorem State.memOk.cyresBody (h : s.memOk) : Ends Stop.memOk Out.memOk (cyresBody f s) :=
  .bind .dataOpnd fun _ _ => .bind .needPart fun _ _ => h.done.ite h.setCycle.modCtx.done

theorem State.memOk.stepCycle {p cy : Nat} (h : s.memOk) : (s.stepCycle p cy).memOk := h.setCycle.answerAll

theorem State.memOk.cystepBody (h : s.memOk) : Ends Stop.memOk Out.memOk (cystepBody f s) := by
  unfold Machine.cystepBody
  exact h.collective (fun _ h1 => .bind .needPart fun _ _ => .ite (.ok h1) (.bind .intervalCheck fun _ _ => h1.releaseWait.bind fun _ _ =>
      .ok (h1.arriveCycle.stepCycle.ite h1.arriveCycle))) fun _ _ h1 => h1.setGuardD

theorem State.memOk.cystatBody (h : s.memOk) : Ends Stop.memOk Out.memOk (cystatBody f s) := h.setD.done

theorem State.memOk.maybeClose {p cy : Nat} (h : s.memOk) : (s.maybeClose p cy).memOk := h.freeCycle.answerAll.ite h

theorem State.memOk.cycloseBody (h : s.memOk) : Ends Stop.memOk Out.memOk (cycloseBody f s) := by
  unfold Machine.cycloseBody
  exact h.collective (fun _ h1 => .ite (.ok h1) (.bind .needPart fun _ _ => .ite (.ok h1) (.bind .intervalCheck fun _ _ =>
      h1.releaseWait.bind fun _ _ => .ok (.maybeClose (.arriveCycle (h1.endCycle.ite h1)))))) fun _ _ h1 => h1.setD

theorem State.memOk.cycleGone {p lid v : Nat} (h : s.memOk) : (s.cycleGone p lid v).memOk :=
  h.foldl fun _ _ h1 => h1.ite (h1.openFails.ite (.maybeClose (.setCycle (h1.endCycle.ite h1))))

theorem State.memOk.cyclesOver {lid : Nat} (h : s.memOk) : (s.cyclesOver lid).memOk := h

theorem State.memOk.exitLive {key pc : Nat} (h : s.memOk) : (s.exitLive key pc).memOk :=
  .ite (.modCtx (.modSlot (.dropMisses (.haltRunning (h.modSlot.foldl fun _ _ h1 => h1.cancelUnstarted))))) (.modSlot (.haltRunning
    (h.modSlot.foldl fun _ _ h1 => h1.cancelUnstarted)))

theorem State.memOk.sendExit {s0 : State} {p lid v pc : Nat} (h : s0.memOk) : (s0.sendExit p lid v pc).memOk := by
  unfold State.sendExit
  dsimp only
  split
  · exact h.exchangeDeadline.modSlot.ite (h.exchangeDeadline.exitLive.ite h.exchangeDeadline.modSlot)
  · exact h.exchangeDeadline.modVcore

theorem State.memOk.cycleHardDeadlineStep {ctx cycle : Nat} (h : s.memOk) : (cycleHardDeadlineStep ctx cycle s).memOk :=
  .ite (h.setCycle.foldl fun _ _ h1 => h1.ite h1.sendExit) h

theorem State.memOk.wupdPlace {k space : Nat} {a n : Nat} (h : s.memOk) : Ends Stop.memOk (fun r => r.1.memOk) (wupdPlace k space s a n) :=
  .ite (h.translate.bind fun _ _ => .ite (.error h.violates) (h.raceCheck.bind fun _ h2 => .ok h2)) (.ite (.error h) (.ok h))

theorem State.memOk.wupdPlaces {k space : Nat} {x : List (Nat × Nat)} {s1 : State} (h : s.memOk) (hs1 : s1.memOk) :
    Ends Stop.memOk (fun r => r.1.memOk) (wupdPlaces k space s x s1) := by
  induction x generalizing s1 with
  | nil =>
    unfold Machine.wupdPlaces
    exact .ok hs1
  | cons _ _ ih =>
    unfold Machine.wupdPlaces
    split
    · exact .error trivial
    · split
      next e2 => exact .error (h.wupdPlace.of_error e2)
      · exact .error h
    next e => exact .bind (ih (hs1.wupdPlace.of_ok e)) fun _ h1 => .ok h1

theorem State.memOk.putRow {x : List (Loc × Nat)} {x1 : List Byte} (h : s.memOk) : (putRow x x1 s).memOk := by
  induction x generalizing x1 s with
  | nil =>
    unfold Machine.putRow
    exact h
  | cons _ _ ih =>
    unfold Machine.putRow
    exact ih h.noteAccess.storeBytes

theorem State.memOk.wupdBody (h : s.memOk) : Ends Stop.memOk Out.memOk (Machine.wupdBody f s) := by
  unfold Machine.wupdBody
  extract_lets
  refine .bind .opndB fun _ _ => .bind .need fun _ _ => .bind .need fun _ _ => .ite .operandTrap (h.setD.setOwnGuard.done.ite
      (h.demitScales.bind fun (_, sl, _) h4 => ?_))
  refine .bind (h.wupdPlaces h4) fun (_, _) h5 => ?_
  dsimp -zeta only
  extract_lets o
  have ho : o.memOk := Out.memOk.foldl h5 fun _ _ h6 => h6.loads
  split
  · exact .ok (.setOwnGuard (.setD (.putRow ho)))
  · exact .ok ho

/-! ### Kernel images and measurement -/

theorem State.memOk.logMeasure {p : Nat} {m : BitVec 256} (h : s.memOk) : (s.logMeasure p m).memOk := h.modDrover

theorem State.memOk.measured {p va : Nat} (h : s.memOk) : (s.measured p va).1.memOk := by
  unfold State.measured
  refine h.ite_fst ?_
  split
  · exact h
  · exact h.logMeasure

/-! ### Launches -/

theorem State.memOk.setHead {p q : Nat} {h1 : QHead} (h : s.memOk) : (s.setHead p q h1).memOk := h.modDrover

theorem State.memOk.modHead {p q : Nat} {g : QHead → QHead} (h : s.memOk) : (s.modHead p q g).memOk := h.setHead

theorem State.memOk.dropHead {p q : Nat} (h : s.memOk) : (s.dropHead p q).memOk := h.modDrover

theorem State.memOk.modQueue {p q : Nat} {g : Queue → Queue} (h : s.memOk) : (s.modQueue p q g).memOk := h.modDrover

theorem State.memOk.dberr {p q : Nat} (h : s.memOk) : (s.dberr p q).memOk := h.modDrover

theorem State.memOk.putDesc {p q off n x : Nat} (h : s.memOk) : (s.putDesc p q off n x).memOk := h.walkWrite.getD h

theorem State.memOk.putLevel {p q level trace : Nat} (h : s.memOk) : (s.putLevel p q level trace).memOk := by
  unfold State.putLevel
  split
  · exact h.putDesc.putDesc
  · exact h

theorem State.memOk.putHeld {p q : Nat} (h : s.memOk) : (s.putHeld p q).memOk := by
  unfold State.putHeld
  split
  · exact h.putDesc
  · exact h

theorem State.memOk.queueLearns {p q : Nat} {c : Sparse Nat} (h : s.memOk) : (s.queueLearns p q c).memOk := h.modQueue

theorem State.memOk.droverRelease {p q va x : Nat} (h : s.memOk) : Gives State.memOk (s.droverRelease p q va x) := by
  unfold State.droverRelease
  split
  next e1 => exact .some (.of_mem (h.walkWrite _ e1) (by dsimp only))
  · exact .none

theorem State.memOk.dropBells {p q : Nat} (h : s.memOk) : (s.dropBells p q).memOk := by
  unfold State.dropBells
  split
  · exact h.modQueue
  · exact h

theorem State.memOk.loadHead {p q : Nat} (h : s.memOk) : (s.loadHead p q).memOk := by
  unfold State.loadHead
  refine h.ite ?_
  split
  · exact h
  · refine h.ite ?_
    dsimp only
    split
    · exact h.queueLearns.queueLearns.setHead
    · exact h.dberr

theorem State.memOk.complete {s0 : State} {p q status : Nat} (h : s0.memOk) : (s0.complete p q status).memOk := by
  unfold State.complete
  dsimp only
  split
  · exact h.modQueue.dropHead.dberr
  · exact .loadHead (.dropBells (.dropHead (.ite (.raiseMsix (.putDesc (h.modQueue.droverRelease.getD h.modQueue))) (.putDesc
        (h.modQueue.droverRelease.getD h.modQueue)))))

theorem State.memOk.setPipe {k : Nat} {x : Pipe} (h : s.memOk) : (s.setPipe k x).memOk := h

theorem State.memOk.traceEvent {lid : Nat} {e : TraceEvent} (h : s.memOk) : (s.traceEvent lid e).memOk := by
  unfold State.traceEvent
  refine .ite (h.ite (h.setGang.ite ?_)) (h.setGang.ite h)
  split
  next e1 => exact .setGang (h.walkWrite _ e1)
  · exact h.setGang

theorem State.memOk.enterItem {key wid : Nat} (h : s.memOk) : (s.enterItem key wid).memOk := h.modSlot.modCtx

theorem State.memOk.startDueItem {key : Nat} (h : s.memOk) : (s.startDueItem key).memOk :=
  .ite (.enterItem (.traceEvent (h.modSlot.ite h))) h

theorem State.memOk.startItems {core : Nat} (h : s.memOk) : (s.startItems core).memOk :=
  h.foldl fun _ _ h1 => h1.foldl fun _ _ h2 => h2.startDueItem

theorem State.memOk.zeroBytes {a n : Nat} (h : s.memOk) : (s.zeroBytes a n).memOk := by
  unfold State.zeroBytes
  exact .of_filter h rfl

theorem State.memOk.clearShares {key : Nat} (h : s.memOk) : (s.clearShares key).memOk := h.foldl fun _ _ h1 => h1.zeroBytes

theorem State.memOk.prepareAreas {key : Nat} {g : Prog} {dataAt dataLen : Nat} {tensors : List (Nat × BitVec 256)} (h : s.memOk) :
    (s.prepareAreas key g dataAt dataLen tensors).memOk := by
  unfold State.prepareAreas
  refine .modSlot ?_
  split
  · exact .ite (h.foldl fun _ _ h1 => h1.zeroBytes) (.storeBytes (h.foldl fun _ _ h1 => h1.zeroBytes))
  · exact h.foldl fun _ _ h1 => h1.zeroBytes

theorem State.memOk.placeVcore {key lid v : Nat} {g : Gang} {pr : Prog} {resident : Bool} {clock : Sparse Nat} (h : s.memOk) :
    (s.placeVcore key lid v g pr resident clock).memOk :=
  h.modSlot.modCtx

theorem State.memOk.placeGang {lid : Nat} {places : List (Nat × Nat)} {clock : Sparse Nat}
    {run : Nat → Prog × Nat × Nat × List (Nat × BitVec 256)} (h : s.memOk) : (s.placeGang lid places clock run).memOk :=
  h.foldl fun _ _ h1 => h1.placeVcore.clearShares.prepareAreas

theorem State.memOk.startLaunch {p q level : Nat} {h1 : BitVec 384} {i : Image} {ps : List (Nat × Nat)} {x : Trace} (h : s.memOk) :
    (s.startLaunch p q level h1 i ps x).memOk :=
  .foldl (.modHead (.placeGang (.setGang (.of_mem h rfl)))) fun _ _ h2 => h2.startItems

theorem State.memOk.tryLaunch {p q level : Nat} {h1 : BitVec 384} (h : s.memOk) :
    Ends (fun r => r.2.memOk) State.memOk (s.tryLaunch p q level h1) := by
  unfold State.tryLaunch
  split
  next e =>
    split
    · exact .error (h.measured.of_fst e)
    · split
      · exact .error (h.measured.of_fst e)
      · exact .ok (.startLaunch (h.measured.of_fst e))

theorem State.memOk.vacate {key : Nat} (h : s.memOk) : (s.vacate key).memOk := h.dropMisses.modSlot.modCtx

theorem State.memOk.freeSlot {key : Nat} (h : s.memOk) : (s.freeSlot key).memOk := h.vacate.modSlot

theorem State.memOk.closeTrace {lid stages : Nat} (h : s.memOk) : (s.closeTrace lid stages).memOk := by
  unfold State.closeTrace
  extract_lets g t next wd s1
  refine h.ite ?_
  have h1 : s1.memOk := by
    refine h.ite (h.setGang.ite ?_)
    split
    next e => exact h.walkWrite _ e
    · exact h.setGang
  split
  · exact h1.putLevel
  · exact h1

theorem State.memOk.releaseStopper {p q : Nat} (h : s.memOk) : (s.releaseStopper p q).memOk := by
  unfold State.releaseStopper
  split
  · exact h.modHead.complete
  · exact h

theorem State.memOk.stopEnds {p q status : Nat} (h : s.memOk) : (s.stopEnds p q status).memOk := h.releaseStopper.complete

theorem State.memOk.gangEnd {lid : Nat} {early : Option Nat} (h : s.memOk) : (s.gangEnd lid early).memOk := by
  unfold State.gangEnd
  dsimp only
  split
  · exact .foldl (.stopEnds (.of_mem h.modHead.closeTrace.cyclesOver.exchangesOver rfl)) fun _ _ h1 => h1.complete
  · exact .stopEnds (.setHead (.of_mem h.modHead.closeTrace.cyclesOver.exchangesOver rfl))
  · exact .ite (.stopEnds (.of_mem h.modHead.closeTrace.cyclesOver.exchangesOver rfl)) (.modHead (.releaseStopper
        (.of_mem h.modHead.closeTrace.cyclesOver.exchangesOver rfl)))
  · exact .ite (.releaseStopper (.setHead (.of_mem h.modHead.closeTrace.cyclesOver.exchangesOver rfl))) (.stopEnds (.setHead
        (.of_mem h.modHead.closeTrace.cyclesOver.exchangesOver rfl)))

theorem State.memOk.leave {key : Nat} (h : s.memOk) : (s.leave key).memOk :=
  h.freeSlot.modGang.settleHurdles.cycleGone.ite (h.freeSlot.modGang.settleHurdles.modHead.gangEnd.ite h.freeSlot.modGang.settleHurdles.gangEnd)

theorem State.memOk.retire {key : Nat} (h : s.memOk) : (s.retire key).memOk := h.leave.ite h

theorem State.memOk.settleRetired {p : Nat} (h : s.memOk) : (s.settleRetired p).memOk := h.foldl fun _ _ h1 => h1.retire

theorem State.memOk.nextItem {key : Nat} (h : s.memOk) : (s.nextItem key).memOk :=
  .ite (.settleHurdles (.startItems (.modSlot (.modCtx (h.modGang.ite h.modGang.traceEvent))))) (.retire (.settleHurdles (.startItems
    (.modSlot (.modCtx (h.modGang.ite h.modGang.traceEvent))))))

theorem State.memOk.endItemBody {x : Fields} (h : s.memOk) : Ends Stop.memOk Out.memOk (endItemBody x s) :=
  .ite (.error h) (.bind .need fun _ _ => .ite (.ok h.nextItem) (.error h))

theorem State.memOk.spanAccess {k : Nat} {rq : Req} {r : CReg} {off : Int} (h : s.memOk) :
    Ends Stop.memOk (fun r => r.1.memOk) (spanAccess k rq r off s) :=
  .bind .capCheck fun _ _ => .ite (h.memAccess.bind fun _ h2 => .ok h2) (h.memAccess.bind fun _ h2 => h2.memAccess.bind fun _ h3 => .ok h3)

theorem Out.memOk.spans {k : Nat} {o : Out} {ls : List (Loc × Nat)} (h : o.memOk) : (Out.spans k o ls).memOk :=
  h.foldl fun _ _ h1 => .loads h1.noteAccess

theorem State.memOk.tailBody (h : s.memOk) : Ends Stop.memOk Out.memOk (tailBody f s) := by
  unfold Machine.tailBody
  refine h.spanAccess.bind fun _ h1 => ?_
  split
  · dsimp only
    split
    · exact State.memOk.done (.setOwnGuard (.setD (.ite (.modHead (Out.memOk.spans h1)) (Out.memOk.spans h1))))
    · exact .ok (.spans h1)

theorem State.memOk.dropEngineWork {core slot : Nat} (h : s.memOk) : (s.dropEngineWork core slot).memOk :=
  .foldl (.foldl (h.foldl fun _ _ h1 => h1.foldl fun _ _ h2 => h2.dropMisses.modCtx.ite h2) fun _ _ h1 => h1.modEngine) fun _ _ h1 =>
    h1.foldl fun _ _ h2 => h2.ite (h2.modEngine.modCore.dropEngMisses.ite h2.modEngine.modCore)

theorem State.memOk.endKilled {lid status : Nat} (h : s.memOk) : (s.endKilled lid status).memOk :=
  .gangEnd (h.modHead.foldl fun _ _ h1 => h1.dropEngineWork.freeSlot)

/-! ### Combining reductions -/

theorem State.memOk.redcBody (h : s.memOk) : Ends Stop.memOk Out.memOk (redcBody f s) :=
  .bind .dataOpnd fun _ _ => .bind .need fun _ _ => .ite .operandTrap (h.memAccess.bind fun _ h3 => .bind .need fun _ _ =>
    h3.modFold.modSlot.done)

theorem State.memOk.countUp {fold off : Nat} (h : s.memOk) : (s.countUp fold off).memOk := h.modFold

theorem State.memOk.sendDown {fold header cset : Nat} {elems : List Nat} (h : s.memOk) : (s.sendDown fold header cset elems).memOk :=
  h.modFold

theorem State.memOk.conclude {fold header cset : Nat} {elems : List Nat} (h : s.memOk) : (s.conclude fold header cset elems).memOk :=
  h.sendDown.ite h.sendDown

theorem State.memOk.entryDone {fold : Nat} {e : CombEntry} (h : s.memOk) : (s.entryDone fold e).memOk := by
  unfold State.entryDone
  split
  · split
    · exact h.modFold.conclude
    · exact h.modFold.modFold
    · split
      · exact h.modFold.modFold
      · exact h.modFold

theorem State.memOk.takePacket {fold : Nat} {p : RedPacket} (h : s.memOk) : Gives State.memOk (s.takePacket fold p) := by
  unfold State.takePacket
  refine .ite (.ite (.some h.countUp) (.some h.countUp.modFold)) ?_
  split
  · exact .ite (.some h.countUp) (.ite (.some h.entryDone) (.some h.modFold))
  · exact .ite (.some h.countUp) (.ite .none (.ite (.some h.entryDone) (.some h.modFold)))

theorem State.memOk.takeFirst {fold : Nat} {before x : List RedPacket} (h : s.memOk) : (takeFirst s fold before x).memOk := by
  induction x generalizing before with
  | nil =>
    unfold Machine.takeFirst
    exact h
  | cons _ _ ih =>
    unfold Machine.takeFirst
    split
    · exact ih
    · dsimp only
      split
      next e1 => exact h.modFold.takePacket _ e1
      · exact ih

theorem State.memOk.reductionPacketArrivalStep {fold : Nat} (h : s.memOk) : (reductionPacketArrivalStep fold s).memOk := h.takeFirst

theorem State.memOk.reductionEntryTimeoutStep {fold tree group seq : Nat} (h : s.memOk) :
    (reductionEntryTimeoutStep fold tree group seq s).memOk := by
  unfold Machine.reductionEntryTimeoutStep
  split
  · exact h.countUp.entryDone.ite h
  · exact h

theorem State.memOk.deliverResult {core : Nat} {p : RedPacket} {gone : State → State} (h : s.memOk)
    (hgone : ∀ (t : State), t.memOk → (gone t).memOk) : Gives State.memOk (s.deliverResult core p gone) := by
  unfold State.deliverResult
  extract_lets hit
  split
  · extract_lets t u
    have ht : t.memOk := h.foldl fun _ _ h1 => h1.storeBytes
    have hu : u.memOk := ht.modSlot.putInbox
    exact .ite (.some (hu.ite (hgone _ hu))) (.some ht.modSlot)
  · exact .ite .none (.some (hgone _ h))

theorem State.memOk.takeResult {fold : Nat} {p : RedPacket} (h : s.memOk) : Gives State.memOk (s.takeResult fold p) := by
  unfold State.takeResult
  refine .ite (.some (h.modFold.foldl fun _ _ h1 => h1.modFold.ite ?_)) (.ite (.ite (.some (Gives.getD
      (h.modDrover.deliverResult fun _ h1 => h1.modFold) h.modDrover)) (h.deliverResult fun _ h1 =>
      h1.modFold)) (h.deliverResult fun _ h1 => h1.modFold))
  split
  · exact h1.modFold
  · exact h1

theorem State.memOk.reductionResultArrivalStep {fold : Nat} (h : s.memOk) : (reductionResultArrivalStep fold s).memOk :=
  Gives.getD (.findSome? fun _ => h.takeResult) h

theorem State.memOk.dropPushed {fold : Nat} {x : PushSent} (h : s.memOk) : (s.dropPushed fold x).memOk := h.modFold

theorem State.memOk.pushModeReturnStep {fold : Nat} {gaddr header cset : Word64} {payload : BitVec 512} (h : s.memOk) :
    (pushModeReturnStep fold gaddr header cset payload s).memOk := by
  unfold Machine.pushModeReturnStep
  dsimp only
  split
  · exact h.ite h.dropPushed.sendDown
  · exact h.countUp

theorem State.memOk.pushModeTimeoutStep {fold tree group seq : Nat} (h : s.memOk) : (pushModeTimeoutStep fold tree group seq s).memOk := by
  unfold Machine.pushModeTimeoutStep
  split
  · exact h.dropPushed.sendDown.ite h
  · exact h

/-! ### The queues of a Drover -/

theorem State.memOk.pollWaitv {p q : Nat} (h : s.memOk) : (s.pollWaitv p q).memOk := by
  unfold State.pollWaitv
  extract_lets
  refine h.ite ?_
  split
  · exact h.queueLearns.modHead.ite h
  · exact h.modHead

theorem State.memOk.pollAll {p : Nat} (h : s.memOk) : (s.pollAll p).memOk := h.foldl fun _ _ h1 => h1.pollWaitv

theorem State.memOk.signalStop {p q : Nat} {stopper : Option Nat} {hold : Bool} (h : s.memOk) : (s.signalStop p q stopper hold).memOk :=
  .modHead (.of_mem h rfl)

theorem State.memOk.killGang {lid status : Nat} (h : s.memOk) : (s.killGang lid status).memOk :=
  .ite (h.modHead.modGang.modHead.ite h.modHead.modGang.endKilled) (h.modHead.modGang.ite h.modHead.modGang.signalStop)

theorem State.memOk.abortWStep {ctx : Nat} {value : Word64} (h : s.memOk) : (abortWStep ctx value s).memOk := h.killGang.ite h

theorem State.memOk.applyPriority {p : Nat} (h : s.memOk) : (s.applyPriority p).memOk :=
  h.ite (h.foldl fun _ _ h1 => .ite (h1.foldl fun _ _ h2 => h2.signalStop.ite h2) h1)

theorem State.memOk.noteReady {p : Nat} (h : s.memOk) : (s.noteReady p).memOk := h.foldl fun _ _ h1 => h1.modHead.ite h1

theorem State.memOk.takeDecision {p : Nat} (h : s.memOk) : (s.takeDecision p).memOk := by
  unfold State.takeDecision
  refine h.ite ?_
  dsimp only
  split
  · exact h
  · exact h.modDrover.setHead.ite (h.modDrover.setHead.ite h.modDrover.complete)

theorem State.memOk.doorbellStep {ctx queue : Nat} {value : BitVec 32} (h : s.memOk) : (doorbellStep ctx queue value s).memOk := by
  unfold Machine.doorbellStep
  refine h.ite ?_
  dsimp only
  split
  · exact h.modDrover.dberr
  · exact h.modDrover.modQueue.ite (h.modDrover.modQueue.dropBells.modQueue.putDesc.loadHead.pollWaitv.ite h.modDrover.modQueue.dberr)

theorem State.memOk.qerrClearStep {ctx : Nat} {value : Word64} (h : s.memOk) : (qerrClearStep ctx value s).memOk :=
  h.ite (h.modDrover.foldl fun _ _ h1 => h1.loadHead)

theorem State.memOk.lotseedStep {ctx : Nat} {value : Word64} (h : s.memOk) : (lotseedStep ctx value s).memOk := h.ite h.modDrover

theorem State.memOk.reservingStep {ctx queue : Nat} (h : s.memOk) : (reservingStep ctx queue s).memOk := by
  unfold Machine.reservingStep
  dsimp only
  split
  · exact h.setHead.ite h
  · exact h

theorem State.memOk.waitsAgain {p q : Nat} (h : s.memOk) : (s.waitsAgain p q).memOk := h.modHead

theorem State.memOk.launchStep {ctx queue : Nat} (h : s.memOk) : (launchStep ctx queue s).memOk := by
  unfold Machine.launchStep
  refine .ite ?_ ?_
  · refine h.waitsAgain.ite ?_
    split
    next e => exact h.tryLaunch.of_ok e
    next e => exact .complete (h.tryLaunch.of_error e)
  · split
    · refine .ite ?_ h
      split
      next e1 => exact .modHead (h.tryLaunch.of_ok e1)
      next e1 => exact .complete (.modHead (h.tryLaunch.of_error e1))
    · exact h

theorem State.memOk.detlevelStep {ctx queue : Nat} (h : s.memOk) : (detlevelStep ctx queue s).memOk := h.ite h.putLevel.modQueue.complete

theorem State.memOk.fencePacketStep {ctx queue : Nat} (h : s.memOk) : (fencePacketStep ctx queue s).memOk :=
  .ite (.complete (h.modQueue.ite h)) h

theorem State.memOk.signal {p q : Nat} {add : Bool} (h : s.memOk) : (s.signal p q add).memOk := by
  unfold State.signal
  extract_lets
  split
  · exact h.complete
  · split
    next e => exact .complete (.pollAll (h.droverRelease _ e))
    · exact h.complete

theorem State.memOk.signalStoreStep {ctx queue : Nat} (h : s.memOk) : (signalStoreStep ctx queue s).memOk := h.signal.ite h

theorem State.memOk.signalAddStep {ctx queue : Nat} (h : s.memOk) : (signalAddStep ctx queue s).memOk := h.signal.ite h

theorem State.memOk.waitvStep {ctx queue : Nat} (h : s.memOk) : (waitvStep ctx queue s).memOk := h.complete.ite h

theorem State.memOk.waitvPollStep {ctx queue : Nat} (h : s.memOk) : (waitvPollStep ctx queue s).memOk := h.pollWaitv.ite h

theorem State.memOk.waitTimeoutStep {ctx queue : Nat} (h : s.memOk) : (waitTimeoutStep ctx queue s).memOk := h.setHead.ite h

theorem State.memOk.preemptStep {ctx queue : Nat} (h : s.memOk) : (preemptStep ctx queue s).memOk :=
  h.ite (h.complete.ite (.ite (h.ite h.modHead.modHead) (h.complete.ite (h.complete.ite h.signalStop.modHead))))

theorem State.memOk.collSend {p q c : Nat} (h : s.memOk) : (s.collSend p q c).memOk := by
  unfold State.collSend
  refine h.complete.ite (.modHead (.foldl (h.foldl fun _ _ h1 => h1.queueLearns) fun _ _ h1 => ?_))
  split
  · exact h1.modFold
  · exact h1

theorem State.memOk.collStep {ctx queue : Nat} (h : s.memOk) : (collStep ctx queue s).memOk := by
  unfold Machine.collStep
  refine h.collSend.ite ?_
  split
  · refine h.ite ?_
    split
    · dsimp only
      split
      · exact h.complete
      next e2 => exact .collSend (.modHead (h.walkWrite _ e2))
    · dsimp only
      split
      · exact h.complete
      next e2 => exact .complete (.modHead (h.walkWrite _ e2))
  · exact h

theorem State.memOk.qclearStep {fold : Nat} {value : Word64} (h : s.memOk) : (qclearStep fold value s).memOk :=
  h.ite (h.foldl fun _ _ h1 => h1.modCore.ite h1)

theorem State.memOk.coreRepairStep {core offer : Nat} (h : s.memOk) : (coreRepairStep core offer s).memOk := h.modCore.ite h

/-! ### Pipelines and splices -/

theorem State.memOk.modPipe {k : Nat} {g : Pipe → Pipe} (h : s.memOk) : (s.modPipe k g).memOk := h.setPipe

theorem State.memOk.walkPut {x : Nat} {x1 x2 : Nat} {x3 : List Byte} (h : s.memOk) : (State.walkPut x s x1 x2 x3).memOk := by
  induction x generalizing s x1 x2 x3 with
  | zero =>
    unfold State.walkPut
    exact h
  | succ _ ih =>
    unfold State.walkPut
    exact h.ite (ih (h.walkWrite.getD h))

theorem State.memOk.modStage {k id : Nat} {g : Stage → Stage} (h : s.memOk) : (s.modStage k id g).memOk := h.modPipe

theorem State.memOk.modRec {k n : Nat} {g : PRec → PRec} (h : s.memOk) : (s.modRec k n g).memOk := h.modPipe

theorem State.memOk.modWork {k v : Nat} {g : Worker → Worker} (h : s.memOk) : (s.modWork k v g).memOk := h.modVcore

theorem State.memOk.initState {k slot : Nat} {i : Image} {d : BitVec 256} (h : s.memOk) : (s.initState k slot i d).memOk :=
  h.modPipe.walkPut

theorem State.memOk.bindWorker {k key : Nat} (h : s.memOk) : (s.bindWorker k key).memOk := by
  unfold State.bindWorker
  dsimp only
  split
  · exact h
  · exact h.prepareAreas.modSlot.enterItem.learn

theorem State.memOk.restartNow {k v : Nat} (h : s.memOk) : (s.restartNow k v).memOk := by
  unfold State.restartNow
  dsimp only
  split
  · exact h.modVcore.modCtx.ite h.modVcore
  · exact h.modVcore

theorem State.memOk.startBindings {k : Nat} (h : s.memOk) : (s.startBindings k).memOk := h.foldl fun _ _ h1 => h1.bindWorker.ite h1

theorem State.memOk.renumber {k : Nat} (h : s.memOk) : (s.renumber k).memOk := h.foldl fun _ _ h1 => h1.modVcore

theorem State.memOk.outcome {k seq status : Nat} {sp : Splice} (h : s.memOk) : (s.outcome k seq status sp).memOk := by
  unfold State.outcome
  split
  · exact h.complete
  · exact h.modPipe
  · exact h

theorem State.memOk.deliverOutcomes {k : Nat} (h : s.memOk) : (s.deliverOutcomes k).memOk := by
  unfold State.deliverOutcomes
  refine h.foldl fun _ _ h1 => ?_
  split
  · exact h1.putInbox.modPipe.ite h1
  · exact h1.modPipe.ite h1

theorem State.memOk.spliceFails {k id seq reason : Nat} {sp : Splice} (h : s.memOk) : (s.spliceFails k id seq reason sp).memOk :=
  h.modStage.modRec.outcome

theorem State.memOk.takeWorkers {k x : Nat} {x1 : List (Nat × Nat)} (h : s.memOk) : Gives (fun r => r.1.memOk) (s.takeWorkers k x x1) := by
  induction x generalizing s x1 with
  | zero =>
    unfold State.takeWorkers
    exact .some h
  | succ _ ih =>
    unfold State.takeWorkers
    split
    · exact .none
    · split
      · exact .none
      · exact ih h.modStage

theorem State.memOk.absorb {k : Nat} {stages : List Stage} {x : List Nat} (h : s.memOk) : Gives State.memOk (s.absorb k stages x) := by
  induction x generalizing s with
  | nil =>
    unfold State.absorb
    exact .some h
  | cons _ _ ih =>
    unfold State.absorb
    split
    · exact .none
    · exact ih h.modStage.modWork

theorem State.memOk.spliceImage {k : Nat} {d : BitVec 256} (h : s.memOk) : (s.spliceImage k d).1.memOk := by
  unfold State.spliceImage
  split
  · dsimp only
    split <;> exact h.measured
  · dsimp only
    split <;> exact h.measured

theorem State.memOk.checkRemove {k : Nat} {y : Stage} {r : PRec} {sp : Splice} (h : s.memOk) : (s.checkRemove k y r sp).memOk := by
  unfold State.checkRemove
  dsimp only
  split
  · exact h.spliceFails
  next e =>
    refine .renumber (.outcome (.modRec ?_))
    split
    · exact .modPipe (h.modStage.absorb _ e)
    · exact .modPipe (h.modStage.absorb _ e)
    · exact h.modStage.absorb _ e

theorem State.memOk.checkRebind {k : Nat} {y : Stage} {r : PRec} {sp : Splice} (h : s.memOk) : (s.checkRebind k y r sp).memOk := by
  unfold State.checkRebind
  extract_lets
  split
  next e => exact .spliceFails (h.spliceImage.of_fst e)
  next e =>
    have h1 := h.spliceImage.of_fst e
    refine h1.spliceFails.ite ?_
    split
    · exact h1.spliceFails
    · extract_lets slot s3 s4
      have h4 : s4.memOk := .modStage (h1.initState.ite h1)
      split
      · exact h4.modWork.restartNow
      · exact h4

theorem State.memOk.checkInsert {k : Nat} {y : Stage} {r : PRec} {sp : Splice} (h : s.memOk) : (s.checkInsert k y r sp).memOk := by
  unfold State.checkInsert
  extract_lets
  split
  next e => exact .spliceFails (h.spliceImage.of_fst e)
  next e =>
    have h1 := h.spliceImage.of_fst e
    refine h1.spliceFails.ite ?_
    split
    · exact h1.spliceFails
    next e2 =>
      have h2 := h1.takeWorkers _ e2
      split
      · exact h1.spliceFails
      · split
        · exact h1.spliceFails
        · extract_lets s5 z s6 s7
          have h5 : s5.memOk := h2.initState.ite h2
          have h7 : s7.memOk := h5.modStage.modPipe.renumber
          split
          · exact h7.modWork.restartNow
          · exact h7

theorem State.memOk.checkSplice {k : Nat} {y : Stage} {r : PRec} {sp : Splice} (h : s.memOk) : (s.checkSplice k y r sp).memOk := by
  unfold State.checkSplice
  refine h.spliceFails.ite ?_
  split
  · exact h.checkInsert
  · exact h.checkRemove
  · exact h.checkRebind

theorem State.memOk.probePass {k v : Nat} (h : s.memOk) : (s.probePass k v).memOk := by
  unfold State.probePass
  dsimp only
  split
  · exact h
  · split
    · exact h
    · refine .outcome (.modRec (.modWork (.foldl ?_ fun _ _ h1 => h1.modWork)))
      split
      · exact h.modStage.modStage.ite h.modStage.modStage.modPipe
      · exact h.modStage.modStage

theorem State.memOk.probeFail {k v : Nat} (h : s.memOk) : (s.probeFail k v).memOk := by
  unfold State.probeFail
  extract_lets x free
  split
  · exact h
  · split
    · exact h
    · extract_lets s1 s2
      have hfree (o keep) {t : State} (ht : t.memOk) : (free o keep t).memOk := by
        unfold free
        split
        · exact ht.ite ht.modPipe
        · exact ht
      have h1 : s1.memOk := by
        unfold s1
        split
        · exact hfree _ _ h.modStage
        · exact hfree _ _ (.modPipe (h.foldl fun _ _ ht => ht.modStage))
      exact h1.spliceFails.modWork.restartNow.renumber

theorem State.memOk.forward {k : Nat} {y : Stage} {r : PRec} (h : s.memOk) : Gives State.memOk (s.forward k y r) :=
  .map .any fun _ _ => h.walkPut.modRec.modStage

theorem State.memOk.pumpStage {k id : Nat} (h : s.memOk) : Gives State.memOk (s.pumpStage k id) := by
  unfold State.pumpStage
  dsimp only
  split
  · exact .none
  · refine .ite .none ?_
    split
    · exact .none
    · exact .ite .none (.ite (.some h.modStage) (.ite .none (.ite (.ite (.some h.modStage) (.ite (.map .any fun _ _ =>
          h.checkSplice) .none)) (.ite .none h.forward))))

theorem State.memOk.sweep {k : Nat} (h : s.memOk) : Gives State.memOk (s.sweep k) := by
  unfold State.sweep
  dsimp only
  split <;> exact .ite (.some h.modPipe) .none

theorem State.memOk.pump {k x : Nat} (h : s.memOk) : (State.pump k x s).memOk := by
  induction x generalizing s with
  | zero =>
    unfold State.pump
    exact h
  | succ _ ih =>
    unfold State.pump
    split
    next e => exact ih ((Gives.or (.findSome? fun _ => h.pumpStage) h.sweep) _ e)
    · exact h

theorem State.memOk.failProbes {k : Nat} (h : s.memOk) : (s.failProbes k).memOk := h.foldl fun _ _ h1 => h1.probeFail

theorem State.memOk.sweepAll {k x : Nat} (h : s.memOk) : (State.sweepAll k x s).memOk := by
  induction x generalizing s with
  | zero =>
    unfold State.sweepAll
    exact h
  | succ _ ih =>
    unfold State.sweepAll
    split
    next e => exact ih (h.sweep _ e)
    · exact h

theorem State.memOk.settlePipe {k : Nat} (h : s.memOk) : (s.settlePipe k).memOk :=
  h.ite (h.sweepAll.ite h.failProbes.pump.startBindings.deliverOutcomes)

theorem State.memOk.acceptSplice {k : Nat} {sp : Splice} (h : s.memOk) : (s.acceptSplice k sp).1.memOk :=
  h.ite_fst (h.ite_fst (h.ite_fst (h.ite_fst (h.ite_fst h.modPipe))))

theorem State.memOk.enterRecord {k : Nat} {r : PRec} {payload : List Byte} (h : s.memOk) : Gives State.memOk (s.enterRecord k r payload) :=
  .map .any fun _ _ => h.walkPut.modPipe

theorem State.memOk.letIn {k : Nat} (h : s.memOk) : Gives State.memOk (s.letIn k) := by
  unfold State.letIn
  refine .ite .none ?_
  split
  · exact h.enterRecord.map fun _ h1 => h1.modPipe
  · refine .ite ?_ (h.enterRecord.map fun _ h1 => h1.modPipe)
    dsimp only
    split
    · exact .none
    · exact h.enterRecord.map fun _ h1 => h1.modPipe

theorem State.memOk.sourceAdmitStep {ctx pipe : Nat} (h : s.memOk) : (sourceAdmitStep ctx pipe s).memOk := by
  unfold Machine.sourceAdmitStep
  refine .ite ?_ h
  split
  next e => exact .settlePipe (h.letIn _ e)
  · exact h

theorem State.memOk.sinkDone {k : Nat} (h : s.memOk) : (s.sinkDone k).memOk := h.modPipe.ite (.complete (.of_mem h.modPipe (by dsimp only)))

theorem State.memOk.sinkWriteStep {ctx pipe : Nat} (h : s.memOk) : (sinkWriteStep ctx pipe s).memOk := by
  unfold Machine.sinkWriteStep
  refine h.ite ?_
  split
  · exact h.ite (.ite (.sinkDone (.modPipe (h.walkPut.queueLearns.droverRelease.getD h.walkPut.queueLearns))) (.settlePipe (.modPipe
        (h.walkPut.queueLearns.droverRelease.getD h.walkPut.queueLearns))))
  · exact h

theorem State.memOk.handOut {k key : Nat} {y : Stage} {r : PRec} {o : Nat} (h : s.memOk) : (s.handOut k key y r o).memOk :=
  h.modRec.modStage.modSlot.learn.traceEvent

theorem State.memOk.ppopBody {s0 : State} (h : s0.memOk) : Ends Stop.memOk Out.memOk (Machine.ppopBody f s0) := by
  unfold Machine.ppopBody
  extract_lets c key k v s w t
  have hs : s.memOk := h.probePass.settlePipe.ite h
  refine .bind .need fun _ _ => .ite (.ite (.ok hs.bindWorker) (.error hs.waitNoted)) ?_
  split
  · exact .error hs.waitNoted
  · refine .ite (State.memOk.done (.setD hs.modSlot)) ?_
    have ht : t.memOk := hs.waitNoted
    split
    · exact .ite (.ite (.bind .intervalCheck fun _ _ => ht.handOut.setD.settlePipe.done) (.error ht)) (.error ht)
    · exact .error ht

theorem State.memOk.ppushBody (h : s.memOk) : Ends Stop.memOk Out.memOk (ppushBody f s) := .bind .need fun _ _ => h.modSlot.setD.done

theorem State.memOk.pendBody (h : s.memOk) : Ends Stop.memOk Out.memOk (pendBody f s) := by
  unfold Machine.pendBody
  dsimp only
  split
  · exact .bind .opndB fun _ _ => .bind .need fun _ _ => .bind .intervalCheck fun _ _ => h.releaseWait.bind fun _ _ =>
        .ite (.error h) (.ok (.settlePipe (.modCtx (.traceEvent (.modSlot (.bump (.modStage (.modRec (h.walkPut.ite h)))))))))
  · exact .trap

theorem State.memOk.pstateBody (h : s.memOk) : Ends Stop.memOk Out.memOk (pstateBody f s) := by
  unfold Machine.pstateBody
  dsimp only
  split
  · split
    · exact h.setD.done.ite h.setD.done
    · exact h.setD.done
  · exact h.setD.done

theorem State.memOk.pspliceBody (h : s.memOk) : Ends Stop.memOk Out.memOk (pspliceBody f s) := by
  unfold Machine.pspliceBody
  refine h.spanAccess.bind fun r h1 => .bind .need fun _ _ => ?_
  have h2 : (Out.spans s.cur ⟨r.1, .seq⟩ r.2).memOk := .spans h1
  split
  next e =>
    split
    · exact .ok (.setD (State.memOk.of_fst (State.memOk.acceptSplice h2) e))
    · exact .ok h2

theorem State.memOk.measureStages {p : Nat} {x : List (BitVec 256)} (h : s.memOk) : (s.measureStages p x).1.memOk := by
  induction x generalizing s with
  | nil =>
    unfold State.measureStages
    exact h
  | cons _ _ ih =>
    unfold State.measureStages
    split
    next e => exact (h.ite_fst h.measured).of_fst e
    next e => exact ih ((h.ite_fst h.measured).of_fst e)

theorem State.memOk.startStages {p : Nat} {i : Image} {ds : List (BitVec 256)} (h : s.memOk) : (s.startStages p i ds).1.memOk :=
  h.measureStages

theorem State.memOk.startPipe {p q k level : Nat} {i : Image} {b : BitVec 512} {d : PipeDecl} {js : List Image} {ps : List (Nat × Nat)}
    {x : Trace} (h : s.memOk) : (s.startPipe p q k level i b d js ps x).memOk := by
  unfold State.startPipe
  refine .modHead (.foldl (.foldl (.foldl (.setPipe (.setGang (.of_mem h rfl))) fun _ _ h1 => h1.placeVcore.clearShares) fun _ _ h1 =>
      ?_) fun _ _ h1 => h1.bindWorker)
  split
  · exact h1.initState
  · exact h1

theorem State.memOk.pipeStartStep {ctx queue : Nat} (h : s.memOk) : (Machine.pipeStartStep ctx queue s).memOk := by
  unfold Machine.pipeStartStep
  extract_lets
  refine h.ite (h.waitsAgain.ite ?_)
  split
  next e =>
    have h1 := h.measured.of_fst e
    split
    · exact h1.complete
    · extract_lets s2
      have h2 : s2.memOk := by
        unfold s2
        split
        · exact h1.queueLearns
        · exact h1
      split
      next e3 => exact .complete (h2.startStages.of_fst e3)
      next e3 =>
        have h3 := h2.startStages.of_fst e3
        split
        · exact h3.complete
        · exact h3.startPipe

theorem State.memOk.pipeSpliceStep {ctx queue : Nat} (h : s.memOk) : (pipeSpliceStep ctx queue s).memOk := by
  unfold Machine.pipeSpliceStep
  refine h.ite (h.complete.ite (h.complete.ite (h.complete.ite ?_)))
  split
  next e => exact .settlePipe (.modHead (h.acceptSplice.of_fst e))
  next e1 => exact .complete (h.acceptSplice.of_fst e1)

theorem State.memOk.moveWorker {k v from_ to_ : Nat} (h : s.memOk) : (s.moveWorker k v from_ to_).memOk := h.modStage.modStage.modWork

theorem State.memOk.shepherdSampleStep {ctx pipe : Nat} (h : s.memOk) : (shepherdSampleStep ctx pipe s).memOk := by
  unfold Machine.shepherdSampleStep
  refine h.ite ?_
  refine .ite ?_ ?_
  · refine h.modPipe.foldl fun _ _ h1 => ?_
    split
    · exact h1.moveWorker.traceEvent
    · exact h1
  · split
    · exact h.modPipe.moveWorker.traceEvent
    · exact h.modPipe

/-! ### Translation -/

theorem State.memOk.renameLocks {core : Nat} {g : List Nat → List Nat} (h : s.memOk) : (s.renameLocks core g).memOk :=
  h.foldl fun _ _ h1 => h1.ite h1.modSlot

theorem State.memOk.installValid {core img : Nat} (h : s.memOk) : (s.installValid core img).memOk := by
  unfold State.installValid
  exact h.setCore.renameLocks

theorem State.memOk.evict {core : Nat} {gone : Nat → Bool} (h : s.memOk) : (s.evict core gone).memOk := h.setCore.renameLocks

theorem State.memOk.install {core img : Nat} (h : s.memOk) : (s.install core img).memOk := by
  unfold State.install
  exact h.installValid.ite h.evict

theorem State.memOk.tlockBody (h : s.memOk) : Ends Stop.memOk Out.memOk (tlockBody f s) := by
  unfold Machine.tlockBody
  refine .bind .need fun _ _ => .bind .need fun _ _ => .bind .need fun _ _ => h.setD.done.ite ?_
  split
  · exact .ite (.error h) (.error h.lockMiss)
  · exact h.setD.done.ite h.modSlot.setD.done

theorem State.memOk.tunlockBody (h : s.memOk) : Ends Stop.memOk Out.memOk (tunlockBody f s) :=
  .bind .opndB fun _ _ => h.modSlot.setD.done.ite h.setD.done

theorem State.memOk.tprobeBody (h : s.memOk) : Ends Stop.memOk Out.memOk (tprobeBody f s) := h.setD.done

theorem Ends.tinvCores : Ends Stop.memOk (fun _ => True) (s.tinvCores f) := .ite (.bind .opndB fun _ _ => .value) .value

theorem State.memOk.forgetTables {gone : Nat → Bool} (h : s.memOk) : (s.forgetTables gone).memOk := .ite (.of_mem h rfl) h

theorem State.memOk.invalidate {cs : List Nat} {gone ofPage : Nat → Bool} (h : s.memOk) :
    Ends Stop.memOk Out.memOk (s.invalidate cs gone ofPage) :=
  .ite (.error h) (State.memOk.done (.ite (h.foldl fun _ _ h1 => h1.evict) (.forgetTables (h.foldl fun _ _ h1 => h1.evict))))

theorem State.memOk.tinvBody (h : s.memOk) : Ends Stop.memOk Out.memOk (tinvBody f s) := .bind .tinvCores fun _ _ => h.invalidate

theorem State.memOk.tinvAllBody (h : s.memOk) : Ends Stop.memOk Out.memOk (tinvAllBody f s) := .bind .tinvCores fun _ _ => h.invalidate

theorem State.memOk.serveQueue {fold img : Nat} (h : s.memOk) : (s.serveQueue fold img).memOk :=
  h.modFold.foldl fun _ _ h1 => h1.ite h1.modCore

theorem State.memOk.noteTables {p img : Nat} {present : Bool} (h : s.memOk) : (s.noteTables p img present).memOk := h

theorem State.memOk.failMisses {core img kind : Nat} (h : s.memOk) : (s.failMisses core img kind).memOk := h.modCore

theorem State.memOk.raiseFaults {fold img : Nat} {cores : List Nat} (h : s.memOk) : (s.raiseFaults fold img cores).memOk :=
  h.foldl fun _ _ h1 => h1.modFold.addHeld.ite h1.modFold

theorem State.memOk.tfillBody (h : s.memOk) : Ends Stop.memOk Out.memOk (tfillBody f s) :=
  .bind .need fun _ _ => .bind .opndB fun _ _ => h.setD.done.ite (.ite (h.setD.done.ite (State.memOk.done (.setD (.noteTables
    (h.raiseFaults.serveQueue.foldl fun _ _ h3 => h3.failMisses))))) (h.setD.done.ite (State.memOk.done (.setD (.noteTables (.serveQueue
    (h.foldl fun _ _ h3 => h3.install)))))))

theorem State.memOk.reportMiss {core : Nat} {m : Miss} (h : s.memOk) : (s.reportMiss core m).memOk :=
  h.modFold.modCore.ite (h.modFold.modCore.ite h.modCore)

theorem State.memOk.missReportStep {core slot : Nat} (h : s.memOk) : (missReportStep core slot s).memOk := by
  unfold Machine.missReportStep
  split
  · exact h.reportMiss
  · exact h

theorem State.memOk.missReportRepeatStep {core slot : Nat} (h : s.memOk) : (missReportRepeatStep core slot s).memOk := by
  unfold Machine.missReportRepeatStep
  split
  · exact h.reportMiss
  · exact h

theorem State.memOk.translationNoticeStep {fold entry : Nat} {failed : Bool} (h : s.memOk) :
    (translationNoticeStep fold entry failed s).memOk := by
  unfold Machine.translationNoticeStep
  refine h.ite ?_
  split
  · exact h
  · exact h.ite h.modFold.putInbox

theorem State.memOk.setPageReg {p off x : Nat} (h : s.memOk) : (s.setPageReg p off x).memOk := h.modDrover

theorem State.memOk.migrationNotice {fold page : Nat} (h : s.memOk) : (s.migrationNotice fold page).memOk := by
  unfold State.migrationNotice
  refine h.modFold.ite (h.setPageReg.modFold.ite ?_)
  dsimp only
  split
  · exact .ite (.modSlot (.modFold (.setPageReg (h.walkWrite.getD h)))) (.modFold (.setPageReg (h.walkWrite.getD h)))
  · exact .modFold (.setPageReg (h.walkWrite.getD h))

theorem State.memOk.migrationCountReportStep {fold page : Nat} (h : s.memOk) : (migrationCountReportStep fold page s).memOk := by
  unfold Machine.migrationCountReportStep
  split
  · exact h
  · exact h.modCore.ite (h.modCore.migrationNotice.ite h.modCore.modFold)

theorem State.memOk.unqueue {p at_ : Nat} (h : s.memOk) : (s.unqueue p at_).memOk := by
  unfold State.unqueue
  split
  · exact h
  · exact h.modFold

theorem State.memOk.mqtailWriteStep {j : Nat} {value : Word64} (h : s.memOk) : (mqtailWriteStep j value s).memOk :=
  h.ite (.setPageReg (h.foldl fun _ _ h1 => h1.unqueue))

/-! ### Context records, swapping and suspension -/

theorem State.memOk.takeDone {key : Nat} (h : s.memOk) : (s.takeDone key).memOk :=
  h.foldl fun _ _ h1 => h1.modEngine.foldl fun _ _ h2 => h2.releaseRanges.modSlot

theorem State.memOk.takeWork {key : Nat} (h : s.memOk) : (s.takeWork key).memOk :=
  h.takeDone.foldl fun _ _ h1 => .modSlot (.modEngine (.withdraw (.foldl (h1.ite h1.modEngine.dropEngMisses) fun _ _ h2 =>
    h2.releaseRanges)))

theorem State.memOk.repush {core : Nat} {e : Engine} {c : Cmd} (h : s.memOk) : (s.repush core e c).memOk := by
  unfold State.repush
  dsimp only
  split
  next e1 => exact h.accept _ e1
  · split <;> exact h.nameCmd.enqueue

theorem State.memOk.relock {key : Nat} (h : s.memOk) : (s.relock key).memOk := h.modSlot

theorem State.memOk.takeExit {key pc : Nat} (h : s.memOk) : (s.takeExit key pc).memOk := by
  unfold State.takeExit
  exact .modCtx (.modSlot (.foldl (h.foldl fun _ _ h1 => h1.modEngine) fun _ _ h1 => h1.modEngine.cancelUnstarted))

theorem State.memOk.giveWork {key : Nat} (h : s.memOk) : (s.giveWork key).memOk := by
  unfold State.giveWork
  refine .modSlot (.foldl (h.foldl fun _ _ h1 => ?_) fun _ _ h1 => h1.modEngine.ite h1)
  split
  · exact h1.repush
  · exact h1

theorem State.memOk.saveRecord {key : Nat} (h : s.memOk) : (s.saveRecord key).memOk := h.walkPut

theorem State.memOk.seat {key : Nat} {l : Slot} {c : Ctx} (h : s.memOk) : (s.seat key l c).memOk := by
  unfold State.seat
  refine .ite ?_ ?_
  · refine .takeAllOwed (.moveExchanges (.modSlot (.relock ?_)))
    split
    · exact h.setSlot.setCtx.giveWork.ite h.setSlot.setCtx.takeExit
    · exact h.setSlot.setCtx.giveWork
  · refine .saveRecord (.moveExchanges (.modSlot (.relock ?_)))
    split
    · exact h.setSlot.setCtx.giveWork.ite h.setSlot.setCtx.takeExit
    · exact h.setSlot.setCtx.giveWork

theorem Ends.ctxSlot {op : Nat} : Ends Stop.memOk (fun _ => True) (ctxSlot op f s) :=
  .bind .dataOpnd fun _ _ => .bind .need fun _ _ => .value

theorem State.memOk.recordAccess {op : Nat} {st : Bool} (h : s.memOk) : Ends Stop.memOk (fun r => r.1.memOk) (recordAccess op f st s) :=
  h.spanAccess

theorem State.memOk.storePlaces {x : List (Loc × Nat)} {x1 : List Byte} (h : s.memOk) : (s.storeAt x x1).memOk := by
  induction x generalizing s x1 with
  | nil =>
    unfold State.storeAt
    exact h
  | cons _ _ ih =>
    unfold State.storeAt
    exact ih h.storeBytes

theorem State.memOk.detach {key : Nat} (h : s.memOk) : (s.detach key).memOk := by
  unfold State.detach
  exact h.takeWork.dropMisses.modSlot.modCtx

theorem State.memOk.ctxsaveBody (h : s.memOk) : Ends Stop.memOk Out.memOk (ctxsaveBody f s) := by
  unfold Machine.ctxsaveBody
  exact .bind .ctxSlot fun _ _ => h.recordAccess.bind fun _ h2 => h.setD.done.ite (h.setD.done.ite (.ite (.error h.modSlot)
      (h.releaseWait.bind fun _ _ => State.memOk.done (.setD (h2.modSlot.takeDone.storePlaces.detach.foldl fun _ _ h4 =>
      h4.noteAccess.published)))))

theorem State.memOk.unseat {from? : Option Nat} {l : Slot} {key : Nat} (h : s.memOk) : (s.unseat from? l key).memOk := by
  unfold State.unseat
  split
  · exact h.ite h.vacate
  · exact .of_mem h rfl

theorem State.memOk.ctxloadBody (h : s.memOk) : Ends Stop.memOk Out.memOk (ctxloadBody f s) := by
  unfold Machine.ctxloadBody
  refine .bind .ctxSlot fun _ _ => h.recordAccess.bind fun _ h2 => ?_
  split
  · dsimp only
    split
    · exact .ok (.setD (Out.memOk.spans h2))
    · exact .ite (.ok (.setD (.modVcore (.acquired (Out.memOk.spans h2))))) (.ite (.ok (.setD (Out.memOk.spans h2))) (.ok (.setD (.seat
          (.unseat (.acquired (Out.memOk.spans h2)))))))

theorem State.memOk.parkVcore {p q key : Nat} (h : s.memOk) : (s.parkVcore p q key).memOk := .vacate (.withParked h.takeWork.walkPut)

theorem State.memOk.raisePreempt {p q : Nat} (h : s.memOk) : (s.raisePreempt p q).memOk := by
  unfold State.raisePreempt
  dsimp only
  split
  · exact h.modSlot.ite h
  · exact h

theorem State.memOk.crookSaveStep {ctx queue : Nat} (h : s.memOk) : (crookSaveStep ctx queue s).memOk := by
  unfold Machine.crookSaveStep
  refine h.ite ?_
  split
  · exact h.ite h.endKilled
  · exact .raisePreempt (.releaseStopper (.ite (.modQueue (.putHeld (.modHead (.modGang (h.foldl fun _ _ h1 =>
        h1.parkVcore))))) (.modHead (.modGang (h.foldl fun _ _ h1 => h1.parkVcore)))))

theorem State.memOk.restoreVcore {p lid : Nat} {x : Saved} (h : s.memOk) : (s.restoreVcore p lid x).memOk := by
  unfold State.restoreVcore
  split
  · exact h
  · exact .seat (.of_mem (h.foldl fun _ _ h1 => h1.ite h1.storeBytes) (by dsimp only))

theorem State.memOk.gangResumeStep {ctx queue : Nat} (h : s.memOk) : (gangResumeStep ctx queue s).memOk := by
  unfold Machine.gangResumeStep
  refine h.ite ?_
  dsimp only
  split
  · exact h.killGang
  · exact h.modHead
  · split
    · exact .settlePipe (.modHead (.modGang (h.foldl fun _ _ h1 => h1.restoreVcore)))
    · exact .modHead (.modGang (h.foldl fun _ _ h1 => h1.restoreVcore))

theorem State.memOk.swapOut {key : Nat} (h : s.memOk) : (s.swapOut key).memOk := by
  unfold State.swapOut
  exact h.saveRecord.traceEvent.modSlot.modCtx

theorem State.memOk.swapIn {key : Nat} (h : s.memOk) : (s.swapIn key).memOk := by
  rw [State.swapIn]
  split
  refine .takeAllOwed (.traceEvent (.modCore ?_))
  split
  · exact h.setSlot.setCtx.modSlot.modCtx
  · exact h.setSlot.setCtx

theorem State.memOk.swapFor {core : Nat} {victims : List Nat} (h : s.memOk) : (s.swapFor core victims).memOk := by
  unfold State.swapFor
  refine .ite ?_ ?_
  · split
    · exact h.swapIn
    · exact h
  · dsimp only
    split
    · exact .swapIn (.swapOut (.of_mem h rfl))
    · exact h

theorem State.memOk.slotSwapStep {core : Nat} (h : s.memOk) : (slotSwapStep core s).memOk := h.ite h.swapFor

theorem State.memOk.swapQuantumExpiryStep {core : Nat} (h : s.memOk) : (swapQuantumExpiryStep core s).memOk := h.ite (h.ite h.swapFor)

theorem State.memOk.endDiverged {p : Nat} (h : s.memOk) : (s.endDiverged p).memOk := h.foldl fun _ _ h1 => h1.killGang

theorem State.memOk.refitOne {p : Nat} {x : Slot} (h : s.memOk) : (s.refitOne p x).memOk := by
  unfold State.refitOne
  split
  · exact h
  · split
    · refine .seat (.unseat ?_)
      split
      · exact h.foldl fun _ _ h1 => h1.ite h1.storeBytes
      · exact h
    · exact h

theorem State.memOk.refitAll {p : Nat} (h : s.memOk) : (s.refitAll p).memOk := h.foldl fun _ _ h1 => h1.refitOne

theorem State.memOk.dispatchStep {ctx : Nat} (h : s.memOk) : (dispatchStep ctx s).memOk :=
  h.ite (.takeDecision (.noteReady (.applyPriority (.foldl (.endDiverged (h.settleRetired.refitAll.foldl fun _ _ h1 =>
    h1.settlePipe)) fun _ _ h1 => h1.loadHead))))

/-! ### Byvon -/

theorem State.memOk.byvonEnds {code : Nat} (h : s.memOk) : (s.byvonEnds code).memOk := h

theorem State.memOk.reportStep (h : s.memOk) : (reportStep s).memOk := by
  unfold Machine.reportStep
  refine h.ite ?_
  split
  · refine h.byvonEnds.ite ?_
    split
    · exact h.byvonEnds
    · exact .ite (.of_mem h rfl) h.byvonEnds
  · exact .byvonEnds (.of_mem h.storeBytes (by dsimp only))

theorem State.memOk.enclaveModes {ps : List Nat} (h : s.memOk) : (s.enclaveModes ps).memOk := by
  unfold State.enclaveModes
  exact .of_mem (h.foldl fun _ _ h1 => h1.ite h1.modDrover) (by dsimp only)

theorem State.memOk.setLink {p x : Nat} (h : s.memOk) : (s.setLink p x).memOk := h.ite (.raiseMsix (.of_mem h rfl))

theorem State.memOk.unkeyPorts (h : s.memOk) : s.unkeyPorts.memOk := h.foldl fun _ _ h1 => h1.setLink.ite h1

theorem State.memOk.joinFlock {d : Config.EnclaveDesc} {ranges : List (Nat × Nat × Nat)} (h : s.memOk) : (s.joinFlock d ranges).memOk := by
  unfold State.joinFlock
  exact .of_mem (h.enclaveModes (ps := d.paddocks)) (by dsimp only)

theorem State.memOk.joinStep (h : s.memOk) : (joinStep s).memOk := by
  unfold Machine.joinStep
  refine h.ite ?_
  split
  · exact h.byvonEnds
  · refine h.ite ?_
    split
    · exact h.byvonEnds
    · exact h.byvonEnds.ite (h.byvonEnds.ite h.joinFlock.unkeyPorts.byvonEnds)

theorem State.memOk.joinKeyStep (h : s.memOk) : (joinKeyStep s).memOk := by
  unfold Machine.joinKeyStep
  refine h.ite ?_
  split
  · exact h
  · refine h.ite ?_
    split
    · exact h.byvonEnds
    · exact h.byvonEnds.ite (.byvonEnds (.of_mem h rfl))

theorem State.memOk.endsRevoked {fold header cset : Nat} (h : s.memOk) : (s.endsRevoked fold header cset).memOk := h.sendDown

theorem State.memOk.endToward {devs : List Nat} (h : s.memOk) : (s.endToward devs).memOk :=
  h.foldl fun _ _ h1 => .foldl (h1.foldl fun _ _ h2 => h2.modFold.endsRevoked) fun _ _ h2 => h2.dropPushed.endsRevoked

theorem State.memOk.freezeEnclave (h : s.memOk) : s.freezeEnclave.memOk :=
  .foldl (h.foldl fun _ _ h1 => h1.freeze) fun _ _ h1 => .reportFreeze (.of_mem h1 rfl)

theorem State.memOk.applyRevocation {f : Flock} {r epoch : Nat} (h : s.memOk) : (s.applyRevocation f r epoch).memOk :=
  .unkeyPorts (.endToward (.ite (.freezeEnclave (.of_mem h rfl)) (.of_mem h rfl)))

theorem State.memOk.revokeStep (h : s.memOk) : (revokeStep s).memOk := by
  unfold Machine.revokeStep
  refine h.ite ?_
  split
  · split
    · exact h.byvonEnds
    · exact h.byvonEnds.ite (h.byvonEnds.ite (h.byvonEnds.ite (h.byvonEnds.ite h.applyRevocation.byvonEnds)))
  · exact h.byvonEnds

theorem State.memOk.thawMaster {m : Config.MasterName} (h : s.memOk) : (s.thawMaster m).memOk := by
  unfold State.thawMaster
  split
  · split
    · exact h.modEngine
    · exact h
  · exact .of_mem h rfl
  · exact .setLink (.of_mem h rfl)
  · refine .ite ?_ ?_
    · dsimp only
      split
      · exact h.modCtx.exitLive.ite h.modCtx
      · exact h.modCtx
    · split
      · exact .of_mem h rfl
      · exact h

theorem State.memOk.zeroRange {a n : Nat} (h : s.memOk) : (s.zeroRange a n).memOk := by
  unfold State.zeroRange
  exact .of_filter h rfl

theorem State.memOk.scrubSlot {key : Nat} (h : s.memOk) : (s.scrubSlot key).memOk :=
  .setCtx (.setSlot (.ite (.leave (.dropEngineWork (h.walkPut.foldl fun _ _ h1 => h1.zeroRange))) (.freeSlot (.dropEngineWork
    (h.walkPut.foldl fun _ _ h1 => h1.zeroRange)))))

theorem State.memOk.scrubParked {i : Nat} {x : Parked} (h : s.memOk) : (s.scrubParked i x).memOk :=
  .ite (.gangEnd (.modGang (.of_mem h.walkPut rfl))) (.cycleGone (.modGang (.of_mem h.walkPut rfl)))

theorem State.memOk.scrubEngine {core : Nat} {e : Engine} (h : s.memOk) : (s.scrubEngine core e).memOk := h.modEngine.modCore

theorem State.memOk.scrubMaster {m : Config.MasterName} (h : s.memOk) : (s.scrubMaster m).memOk := by
  unfold State.scrubMaster
  split
  · split
    · exact h.scrubSlot.ite h.scrubParked
    · exact h.scrubSlot
  · exact h.endHandler.setCtx
  · split
    · exact h.scrubEngine
    · exact h
  · exact .of_mem h rfl
  · exact .setLink (.of_mem h rfl)

theorem State.memOk.thawStep (h : s.memOk) : (thawStep s).memOk := by
  unfold Machine.thawStep
  refine h.ite ?_
  split
  · exact h.byvonEnds
  · exact h.thawMaster.byvonEnds

theorem State.memOk.scrubStep (h : s.memOk) : (scrubStep s).memOk := by
  unfold Machine.scrubStep
  refine h.ite ?_
  split
  · exact h.byvonEnds
  · exact h.scrubMaster.byvonEnds

theorem State.memOk.badOpStep (h : s.memOk) : (badOpStep s).memOk := h.byvonEnds.ite h

/-! ### Capabilities -/

theorem Ends.capOperands {op : Nat} {signed open_ : Bool} : Ends Stop.memOk (fun _ => True) (capOperands op f signed open_ s) :=
  .bind .need fun _ _ => .bind .need fun _ _ => .bind .opndB fun _ _ => .value

theorem State.memOk.cbndBody (h : s.memOk) : Ends Stop.memOk Out.memOk (cbndBody f s) := by
  unfold Machine.cbndBody
  refine .bind .capOperands fun _ _ => .bind .need fun _ _ => ?_
  split
  · exact .trap
  · exact h.setD.done

theorem State.memOk.csoffBody (h : s.memOk) : Ends Stop.memOk Out.memOk (csoffBody f s) :=
  .bind .capOperands fun _ _ => .bind .need fun _ _ => h.setD.done

theorem State.memOk.cincBody (h : s.memOk) : Ends Stop.memOk Out.memOk (cincBody f s) :=
  .bind .capOperands fun _ _ => .bind .need fun _ _ => h.setD.done

theorem State.memOk.cpermBody (h : s.memOk) : Ends Stop.memOk Out.memOk (cpermBody f s) := .bind .capOperands fun _ _ => h.setD.done

theorem State.memOk.cfldBody (h : s.memOk) : Ends Stop.memOk Out.memOk (cfldBody f s) := h.setD.done

theorem State.memOk.ctagBody (h : s.memOk) : Ends Stop.memOk Out.memOk (ctagBody f s) := h.setGuardD.done

theorem State.memOk.csealBody (h : s.memOk) : Ends Stop.memOk Out.memOk (csealBody f s) :=
  .bind .capOperands fun _ _ => .bind .need fun _ _ => .bind .need fun _ _ => h.setD.done

theorem State.memOk.cunsealBody (h : s.memOk) : Ends Stop.memOk Out.memOk (cunsealBody f s) :=
  .bind .capOperands fun _ _ => .bind .need fun _ _ => .bind .need fun _ _ => .bind .need fun _ _ => h.setD.done

theorem State.memOk.cclrBody (h : s.memOk) : Ends Stop.memOk Out.memOk (cclrBody f s) := h.setD.done

/-! ### The device page and bring-up -/

theorem State.memOk.repartition {n : Nat} (h : s.memOk) : (s.repartition n).memOk := h

theorem State.memOk.partitionChangeStep {value : Word64} (h : s.memOk) : (partitionChangeStep value s).memOk :=
  h.ite (.ite (.of_mem h rfl) (.ite (.repartition (.of_mem h rfl)) (.of_mem h rfl)))

theorem State.memOk.linkStateChangeStep {port state : Nat} (h : s.memOk) : (linkStateChangeStep port state s).memOk :=
  h.ite (h.ite (.setLink (.of_mem h rfl)))

theorem State.memOk.linkAuthFailureStep {port : Nat} (h : s.memOk) : (linkAuthFailureStep port s).memOk :=
  h.ite (.ite (.of_mem h rfl) (.reportFreeze (.setLink (.of_mem h rfl))))

theorem State.memOk.timeSyncStep {value : Word64} (h : s.memOk) : (timeSyncStep value s).memOk := .ite (.of_mem h rfl) h

theorem State.memOk.setDevState {x : Nat} (h : s.memOk) : (s.setDevState x).memOk := h.ite (.raiseMsix (.of_mem h rfl))

theorem State.memOk.powerUp (h : s.memOk) : s.powerUp.memOk := by
  unfold State.powerUp
  exact .of_filter h rfl

theorem State.memOk.powerGoodStep {badImage : Option Nat} (h : s.memOk) : (powerGoodStep badImage s).memOk := by
  unfold Machine.powerGoodStep
  refine h.ite ?_
  split
  · split
    · exact .setDevState (.of_mem h.powerUp rfl)
    · exact .of_mem h.powerUp rfl
  · split
    · exact .setDevState (.of_mem h rfl)
    · exact .of_mem h rfl

theorem State.memOk.reducedStep (h : s.memOk) : (reducedStep s).memOk := h.setDevState.ite h

theorem State.memOk.fullStep (h : s.memOk) : (fullStep s).memOk := h.setDevState.ite h

theorem State.memOk.sensed {watts tjmax : Nat} (h : s.memOk) : (s.sensed watts tjmax).memOk := .throttle (.of_mem h rfl)

theorem State.memOk.throttledStep {watts tjmax : Nat} (h : s.memOk) : (throttledStep watts tjmax s).memOk := h.ite h.sensed

theorem State.memOk.clockRestoreStep {watts tjmax : Nat} (h : s.memOk) : (clockRestoreStep watts tjmax s).memOk :=
  h.ite (h.sensed.ite h.sensed.setThrottled)

theorem State.memOk.powerOff (h : s.memOk) : s.powerOff.memOk := by
  unfold State.powerOff
  exact .of_mem h.powerUp rfl

theorem State.memOk.overtempPowerOffStep {tjmax : Nat} (h : s.memOk) : (overtempPowerOffStep tjmax s).memOk := h.powerOff.ite h

theorem State.memOk.powerLossStep (h : s.memOk) : (powerLossStep s).memOk := h.ite h.powerOff

theorem State.memOk.hostCxlAccessStep {write : Bool} {address : Nat} {bytes : List Byte} (h : s.memOk) :
    (hostCxlAccessStep write address bytes s).memOk :=
  .ite (h.storeBytes.ite h) (h.ite (.ite (.reportFreeze (.of_mem h rfl)) (h.storeBytes.ite h)))

theorem State.memOk.hostPortTrainingStep {port : Nat} {trained : Bool} (h : s.memOk) : (hostPortTrainingStep port trained s).memOk :=
  h.ite (.of_mem h rfl)

/-! ### Random streams -/

theorem State.memOk.rngseedBody (h : s.memOk) : Ends Stop.memOk Out.memOk (rngseedBody f s) := .bind .opndB fun _ _ => h.setD.done

theorem State.memOk.rngBody (h : s.memOk) : Ends Stop.memOk Out.memOk (rngBody f s) :=
  .bind .dataOpnd fun _ _ => .ite (.ok h.setD.setD.modSlot) h.setD.setD.done

/-! ### The turn -/

theorem State.memOk.begin (h : s.memOk) : s.begin.memOk := by
  unfold State.begin
  exact .of_mem h.upsetWord rfl

/-! ### Every instruction and event, and the step -/

theorem State.memOk.runScalar {body : State → Exec Out} (h : s.memOk) (hbody : ∀ t, t.memOk → Ends Stop.memOk Out.memOk (body t)) :
    Result.memOk (runScalar f body s) := .next (h.stepScalar hbody)

theorem State.memOk.runVector {body : State → Exec Out} (h : s.memOk) (hbody : ∀ t, t.memOk → Ends Stop.memOk Out.memOk (body t)) :
    Result.memOk (runVector f body s) := .next (h.stepVector hbody)

theorem State.memOk.execIssueChoice {core : Nat} (h : s.memOk) : Result.memOk (execIssueChoice core s) := by
  unfold Machine.execIssueChoice
  split
  · exact .next h
  · split
    · exact .next h.coreCycle
    · exact .next h.issueFrom

/-- The meaning of every instruction and of every event keeps the canonical form. -/
theorem State.memOk.exec (i : Instr) (h : s.memOk) : Result.memOk (exec i s) := by
  cases i with
  | add => exact h.runScalar fun _ h => h.intBinary
  | sub => exact h.runScalar fun _ h => h.intBinary
  | mul => exact h.runScalar fun _ h => h.intBinary
  | mulh => exact h.runScalar fun _ h => h.intBinary
  | mulhn => exact h.runScalar fun _ h => h.intBinary
  | div => exact h.runScalar fun _ h => h.intBinary
  | divn => exact h.runScalar fun _ h => h.intBinary
  | rem => exact h.runScalar fun _ h => h.intBinary
  | remn => exact h.runScalar fun _ h => h.intBinary
  | mad => exact h.runScalar fun _ h => h.madBody
  | andI => exact h.runScalar fun _ h => h.bitBinary
  | orI => exact h.runScalar fun _ h => h.bitBinary
  | xorI => exact h.runScalar fun _ h => h.bitBinary
  | andn => exact h.runScalar fun _ h => h.bitBinary
  | shl => exact h.runScalar fun _ h => h.shiftOp
  | shr => exact h.runScalar fun _ h => h.shiftOp
  | sar => exact h.runScalar fun _ h => h.shiftOp
  | rol => exact h.runScalar fun _ h => h.shiftOp
  | clz => exact h.runScalar fun _ h => h.bitUnary
  | ctz => exact h.runScalar fun _ h => h.bitUnary
  | popc => exact h.runScalar fun _ h => h.bitUnary
  | brev => exact h.runScalar fun _ h => h.bitUnary
  | clmul => exact h.runScalar fun _ h => h.bitBinary
  | clmulh => exact h.runScalar fun _ h => h.bitBinary
  | min => exact h.runScalar fun _ h => h.intBinary
  | max => exact h.runScalar fun _ h => h.intBinary
  | minn => exact h.runScalar fun _ h => h.intBinary
  | maxn => exact h.runScalar fun _ h => h.intBinary
  | sel => exact h.runScalar fun _ h => h.selBody
  | mov => exact h.runScalar fun _ h => h.movBody
  | movImm => exact h.runScalar fun _ h => h.movImmBody
  | movh => exact h.runScalar fun _ h => h.movhBody
  | bfx => exact h.runScalar fun _ h => h.bfxBody
  | bfi => exact h.runScalar fun _ h => h.bfiBody
  | cmp => exact h.runScalar fun _ h => h.cmpBody
  | gop => exact h.runScalar fun _ h => h.gopBody
  | cbnd => exact h.runScalar fun _ h => h.cbndBody
  | csoff => exact h.runScalar fun _ h => h.csoffBody
  | cinc => exact h.runScalar fun _ h => h.cincBody
  | cperm => exact h.runScalar fun _ h => h.cpermBody
  | cfld => exact h.runScalar fun _ h => h.cfldBody
  | ctag => exact h.runScalar fun _ h => h.ctagBody
  | cseal => exact h.runScalar fun _ h => h.csealBody
  | cunseal => exact h.runScalar fun _ h => h.cunsealBody
  | cclr => exact h.runScalar fun _ h => h.cclrBody
  | fadd => exact h.runScalar fun _ h => h.fpBinary
  | fsub => exact h.runScalar fun _ h => h.fpBinary
  | fmul => exact h.runScalar fun _ h => h.fpBinary
  | ffma => exact h.runScalar fun _ h => h.ffmaBody
  | fdiv => exact h.runScalar fun _ h => h.fpBinary
  | fsqrt => exact h.runScalar fun _ h => h.fsqrtBody
  | fmin => exact h.runScalar fun _ h => h.fpBinary
  | fmax => exact h.runScalar fun _ h => h.fpBinary
  | fcmp => exact h.runScalar fun _ h => h.fcmpBody
  | fcvt => exact h.runScalar fun _ h => h.fcvtBody
  | fclass => exact h.runScalar fun _ h => h.fclassBody
  | bra => exact h.runScalar fun _ h => h.braBody
  | jmp => exact h.runScalar fun _ h => h.jmpBody
  | call => exact h.runScalar fun _ h => h.callBody
  | callInd => exact h.runScalar fun _ h => h.callIndBody
  | ret => exact h.runScalar fun _ h => h.retBody
  | repI => exact h.runVector fun _ h => h.repBody
  | yield => exact h.runScalar fun _ h1 => .ok h1
  | endItem => exact h.runScalar fun _ h => h.endItemBody
  | nop => exact h.runScalar fun _ h => h.done
  | tail => exact h.runScalar fun _ h => h.tailBody
  | rng => exact h.runScalar fun _ h => h.rngBody
  | rngseed => exact h.runScalar fun _ h => h.rngseedBody
  | vadd => exact h.runVector fun _ h => h.vaddBody
  | vsub => exact h.runVector fun _ h => h.vsubBody
  | vmul => exact h.runVector fun _ h => h.vmulBody
  | vfma => exact h.runVector fun _ h => h.vfmaBody
  | vfms => exact h.runVector fun _ h => h.vfmsBody
  | vmin => exact h.runVector fun _ h => h.vminBody
  | vmax => exact h.runVector fun _ h => h.vmaxBody
  | vabs => exact h.runVector fun _ h => h.vabsBody
  | vneg => exact h.runVector fun _ h => h.vnegBody
  | vrcp => exact h.runVector fun _ h => h.vrcpBody
  | vrsq => exact h.runVector fun _ h => h.vrsqBody
  | vexp2 => exact h.runVector fun _ h => h.vexp2Body
  | vlog2 => exact h.runVector fun _ h => h.vlog2Body
  | vand => exact h.runVector fun _ h => h.vandBody
  | vor => exact h.runVector fun _ h => h.vorBody
  | vxor => exact h.runVector fun _ h => h.vxorBody
  | vandn => exact h.runVector fun _ h => h.vandnBody
  | vshl => exact h.runVector fun _ h => h.vshlBody
  | vshr => exact h.runVector fun _ h => h.vshrBody
  | vsar => exact h.runVector fun _ h => h.vsarBody
  | vpopc => exact h.runVector fun _ h => h.vpopcBody
  | vclz => exact h.runVector fun _ h => h.vclzBody
  | vclmul => exact h.runVector fun _ h => h.vclmulBody
  | vcmp => exact h.runVector fun _ h => h.vcmpBody
  | vsel => exact h.runVector fun _ h => h.vselBody
  | vcvt => exact h.runVector fun _ h => h.vcvtBody
  | vbcast => exact h.runVector fun _ h => h.vbcastBody
  | vperm => exact h.runVector fun _ h => h.vpermBody
  | vslide => exact h.runVector fun _ h => h.vslideBody
  | vcompress => exact h.runVector fun _ h => h.vcompressBody
  | viota => exact h.runVector fun _ h => h.viotaBody
  | vmovc => exact h.runVector fun _ h => h.vmovcBody
  | vins => exact h.runScalar fun _ h => h.vinsBody
  | vred => exact h.runVector fun _ h => h.vredBody
  | vscan => exact h.runVector fun _ h => h.vscanBody
  | vdot => exact h.runVector fun _ h => h.vdotBody
  | ld => exact h.runScalar fun _ h => h.ldBody
  | st => exact h.runScalar fun _ h => h.stBody
  | ldc => exact h.runScalar fun _ h => h.ldcBody
  | stc => exact h.runScalar fun _ h => h.stcBody
  | ldv => exact h.runScalar fun _ h => h.ldvBody
  | stv => exact h.runScalar fun _ h => h.stvBody
  | gath => exact h.runVector fun _ h => h.gathBody
  | scat => exact h.runVector fun _ h => h.scatBody
  | pst => exact h.runScalar fun _ h => h.pstBody
  | pstV => exact h.runScalar fun _ h => h.pstVBody
  | pfetch => exact h.runScalar fun _ h => h.pfetchBody
  | qbind => exact h.runScalar fun _ h => h.qbindBody
  | qrel => exact h.runScalar fun _ h => h.qrelBody
  | tlock => exact h.runScalar fun _ h => h.tlockBody
  | tunlock => exact h.runScalar fun _ h => h.tunlockBody
  | tprobe => exact h.runScalar fun _ h => h.tprobeBody
  | tinv => exact h.runScalar fun _ h => h.tinvBody
  | tinvAll => exact h.runScalar fun _ h => h.tinvAllBody
  | tfill => exact h.runScalar fun _ h => h.tfillBody
  | lda => exact h.runScalar fun _ h => h.ldaBody
  | stl => exact h.runScalar fun _ h => h.stlBody
  | amo => exact h.runScalar fun _ h => h.amoBody
  | cas => exact h.runScalar fun _ h => h.casBody
  | casw => exact h.runScalar fun _ h => h.caswBody
  | fence => exact h.runScalar fun _ h => h.fenceBody
  | waitm => exact h.runScalar fun _ h => h.waitmBody
  | waitmPoll => exact .next h.waitmPollStep
  | hurdle => exact h.runScalar fun _ h => h.hurdleBody
  | arrive => exact h.runScalar fun _ h => h.arriveBody
  | arriveOne => exact h.runScalar fun _ h => h.arriveOneBody
  | cwait => exact h.runScalar fun _ h => h.cwaitBody
  | cwaitPoll => exact .next h.cwaitPollStep
  | cwaitSb => exact h.runScalar fun _ h => h.cwaitSbBody
  | cyopen => exact h.runScalar fun _ h => h.cyopenBody
  | cyres => exact h.runScalar fun _ h => h.cyresBody
  | cystep => exact h.runScalar fun _ h => h.cystepBody
  | cystat => exact h.runScalar fun _ h => h.cystatBody
  | cyclose => exact h.runScalar fun _ h => h.cycloseBody
  | wupd => exact h.runScalar fun _ h => h.wupdBody
  | fork => exact h.runScalar fun _ h => h.forkBody
  | rdv => exact h.runScalar fun _ h => h.rdvBody
  | inrecv => exact h.runScalar fun _ h => h.inrecvBody
  | inpeek => exact h.runScalar fun _ h => h.inpeekBody
  | inwait => exact h.runScalar fun _ h => h.inwaitBody
  | inwaitTimeout => exact .next h.inwaitTimeoutStep
  | sendChan => exact h.runScalar fun _ h => h.sendChanBody
  | sendTg => exact h.runScalar fun _ h => h.sendTgBody
  | sendIn => exact h.runScalar fun _ h => h.sendInBody
  | recv => exact h.runScalar fun _ h => h.recvBody
  | matchI => exact h.runScalar fun _ h => h.matchBody
  | unmatch => exact h.runScalar fun _ h => h.unmatchBody
  | redc => exact h.runScalar fun _ h => h.redcBody
  | a2at => exact h.runScalar fun _ h => h.a2atBody
  | mapld => exact h.runScalar fun _ h => h.mapldBody
  | ppop => exact h.runScalar fun _ h => h.ppopBody
  | ppush => exact h.runScalar fun _ h => h.ppushBody
  | psplice => exact h.runScalar fun _ h => h.pspliceBody
  | pstate => exact h.runScalar fun _ h => h.pstateBody
  | pend => exact h.runScalar fun _ h => h.pendBody
  | demit => exact h.runScalar fun _ h => h.demitBody
  | ddrop => exact h.runScalar fun _ h => h.ddropBody
  | dstat => exact h.runScalar fun _ h => h.dstatBody
  | tidld => exact h.runScalar fun _ h => h.tidldBody
  | tidst => exact h.runScalar fun _ h => h.tidstBody
  | tidinv => exact h.runScalar fun _ h => h.tidinvBody
  | trapI => exact h.runScalar fun _ h => h.trapBody
  | eret => exact h.runScalar fun _ h => h.eretBody
  | upret => exact h.runScalar fun _ h => h.upretBody
  | upretLeave => exact h.runScalar fun _ h => h.upretLeaveBody
  | sysrd => exact h.runScalar fun _ h => h.sysrdBody
  | syswr => exact h.runScalar fun _ h => h.syswrBody
  | wfi => exact h.runScalar fun _ h => h.wfiBody
  | wfiTimeout => exact .next h.wfiTimeoutStep
  | ctxsave => exact h.runScalar fun _ h => h.ctxsaveBody
  | ctxload => exact h.runScalar fun _ h => h.ctxloadBody
  | bkpt => exact h.runScalar fun _ _ => .bkptBody
  | preq => exact h.runScalar fun _ h => h.preqBody
  | issueChoice => exact h.execIssueChoice
  | takePending => exact .next h.takePendingStep
  | timer => exact .next h.timerStep
  | fbfree => exact .next h.fbfreeStep
  | qerrClear => exact .next h.qerrClearStep
  | lotseed => exact .next h.lotseedStep
  | abortW => exact .next h.abortWStep
  | qclear => exact .next h.qclearStep
  | partitionChange => exact .next h.partitionChangeStep
  | registerWrite => exact .next h.registerWriteStep
  | copy => exact .next h.copyStep
  | deal => exact .next h.dealStep
  | cmark => exact .next h.cmarkStep
  | cmarkCancel => exact .next h.cmarkCancelStep
  | qscale => exact .next h.qscaleStep
  | qpack => exact .next h.qpackStep
  | qunpack => exact .next h.qunpackStep
  | mma => exact .next h.mmaStep
  | mzero => exact .next h.mzeroStep
  | mmark => exact .next h.mmarkStep
  | forkSequenceRead => exact .next h.forkSequenceReadStep
  | mmaCheck => exact .next h.mmaCheckStep
  | drainRowHandoff => exact .next h.drainRowHandoffStep
  | engineCompletion => exact .next h.engineCompletionStep
  | cxlAccessTimeout => exact .next h.cxlAccessTimeoutStep
  | missReport => exact .next h.missReportStep
  | missReportRepeat => exact .next h.missReportRepeatStep
  | translationNotice => exact .next h.translationNoticeStep
  | migrationCountReport => exact .next h.migrationCountReportStep
  | mqtailWrite => exact .next h.mqtailWriteStep
  | pstArrival => exact .next h.pstArrivalStep
  | pstAck => exact .next h.pstAckStep
  | pstNack => exact .next h.pstNackStep
  | pstRetry => exact .next h.pstRetryStep
  | pstParkedTimeout => exact .next h.pstParkedTimeoutStep
  | remoteAccessArrival => exact .next h.remoteAccessArrivalStep
  | messageArrival => exact .next h.messageArrivalStep
  | sendAck => exact .next h.sendAckStep
  | sendNack => exact .next h.sendNackStep
  | sendRetry => exact .next h.sendRetryStep
  | reductionPacketArrival => exact .next h.reductionPacketArrivalStep
  | reductionEntryTimeout => exact .next h.reductionEntryTimeoutStep
  | reductionResultArrival => exact .next h.reductionResultArrivalStep
  | pushModeReturn => exact .next h.pushModeReturnStep
  | pushModeTimeout => exact .next h.pushModeTimeoutStep
  | exchangeBlock => exact .next h.exchangeBlockStep
  | exchangeDelivery => exact .next h.exchangeDeliveryStep
  | cycleHardDeadline => exact .next h.cycleHardDeadlineStep
  | doorbell => exact .next h.doorbellStep
  | dispatch => exact .next h.dispatchStep
  | launch => exact .next h.launchStep
  | pipeStart => exact .next h.pipeStartStep
  | pipeSplice => exact .next h.pipeSpliceStep
  | coll => exact .next h.collStep
  | detlevel => exact .next h.detlevelStep
  | fencePacket => exact .next h.fencePacketStep
  | signalStore => exact .next h.signalStoreStep
  | signalAdd => exact .next h.signalAddStep
  | waitv => exact .next h.waitvStep
  | waitvPoll => exact .next h.waitvPollStep
  | waitTimeout => exact .next h.waitTimeoutStep
  | preempt => exact .next h.preemptStep
  | reserving => exact .next h.reservingStep
  | slotSwap => exact .next h.slotSwapStep
  | swapQuantumExpiry => exact .next h.swapQuantumExpiryStep
  | crookSave => exact .next h.crookSaveStep
  | gangResume => exact .next h.gangResumeStep
  | sourceAdmit => exact .next h.sourceAdmitStep
  | sinkWrite => exact .next h.sinkWriteStep
  | shepherdSample => exact .next h.shepherdSampleStep
  | report => exact .next h.reportStep
  | join => exact .next h.joinStep
  | joinKey => exact .next h.joinKeyStep
  | revoke => exact .next h.revokeStep
  | thaw => exact .next h.thawStep
  | scrub => exact .next h.scrubStep
  | badOp => exact .next h.badOpStep
  | linkAuthFailure => exact .next h.linkAuthFailureStep
  | powerGood => exact .next h.powerGoodStep
  | reduced => exact .next h.reducedStep
  | full => exact .next h.fullStep
  | throttled => exact .next h.throttledStep
  | overtempPowerOff => exact .next h.overtempPowerOffStep
  | timeSync => exact .next h.timeSyncStep
  | linkStateChange => exact .next h.linkStateChangeStep
  | hostCxlAccess => exact .next h.hostCxlAccessStep
  | notbeforeReached => exact .next h.notbeforeReachedStep
  | noPortUpTimeout => exact .next h.noPortUpTimeoutStep
  | powerLoss => exact .next h.powerLossStep
  | clockRestore => exact .next h.clockRestoreStep
  | hostPortTraining => exact .next h.hostPortTrainingStep
  | coreRepair => exact .next h.coreRepairStep

theorem State.memOk.settle {event : Bool} (h : s.memOk) : Result.memOk (settle event s) := by
  unfold Machine.settle
  split
  · exact State.memOk.exec _ (.of_mem h rfl)
  · exact .next (.ite (.of_mem h rfl) h)

theorem State.memOk.step (h : s.memOk) : Result.memOk (step s) := by
  have he := h.begin.exec s.nextTurn.what
  unfold Machine.step
  generalize Machine.exec s.nextTurn.what s.begin = r at he ⊢
  split
  · exact .next h.begin
  · cases r with
    | next t => exact State.memOk.settle he
    | fault => exact trivial
    | refused => exact trivial

end

/-- Settles O60: it holds of the step because it holds of each function of the model, from the stores up. -/
theorem memoryStaysCanonical : Obligations.MemoryStaysCanonical := by
  unfold Obligations.MemoryStaysCanonical
  exact fun _ _ h e => h.step.of_next e

end Sys2Proof.Machine
end

section
/-! # A guard that is off, and the constant registers (O6)

Every scalar instruction means `runScalar` of some body, and `runScalar` runs the body only under bit 0 of the guard, so one
lemma about `stepScalar` speaks of all of them. The claims' writes of D are the model's `Ctx.setC` and `Ctx.setG`, whose reads
after a write are known. -/

namespace Sys2Proof.Machine

open Sys2Proof.Claims

/-! ### Scalar instructions -/

/-- The instruction means a body that runs under bit 0 of the guard of `f`, and nothing but its hints when that bit is 0 (R20). -/
def GuardedBy (f : Fields) (i : Instr) : Prop := ∃ body : State → Exec Out, ∀ s, exec i s = runScalar f body s

theorem guardedBy_of_mem_scalars {f : Fields} : ∀ i ∈ scalars f, GuardedBy f i := by
  simp only [scalars, List.forall_mem_cons, List.not_mem_nil, false_imp_iff, implies_true, and_true]
  and_intros
  all_goals exact ⟨_, fun _ => rfl⟩

theorem GuardedBy.does_id {f : Fields} {i : Instr} {s : State} (hi : GuardedBy f i) (hg : s.guardBit f 0 = false) : does i s id := by
  obtain ⟨body, hbody⟩ := hi
  exact ⟨stepScalar f body s, hbody s, stepScalar_off f body s hg⟩

/-! ### The c and g registers (R86, R101) -/

@[simp] theorem Ctx.getC_zero (c : Ctx) : c.getC 0 = ⟨false, 0⟩ := rfl
@[simp] theorem Ctx.getG_zero (c : Ctx) : c.getG 0 = BitVec.allOnes 64 := rfl

theorem Ctx.getC_setC_self {n : BitVec 6} (c : Ctx) (r : CReg) (hn : n ≠ 0) : (c.setC n r).getC n = r := by
  rw [Ctx.getC_setC, if_neg hn, if_pos rfl]

theorem Ctx.getG_setG_self {n : BitVec 4} (c : Ctx) (x : Word64) (hn : n ≠ 0) : (c.setG n x).getG n = x := by
  rw [Ctx.getG_setG, if_neg hn, if_pos rfl]

theorem Ctx.getC_setC_of_ne {n m : BitVec 6} (c : Ctx) (r : CReg) (hm : m ≠ n) : (c.setC n r).getC m = c.getC m := by
  rw [Ctx.getC_setC, if_neg hm]
  split
  case isTrue h0 => subst h0; rfl
  case isFalse => rfl

theorem Ctx.getG_setG_of_ne {n m : BitVec 4} (c : Ctx) (x : Word64) (hm : m ≠ n) : (c.setG n x).getG m = c.getG m := by
  rw [Ctx.getG_setG, if_neg hm]
  split
  case isTrue h0 => subst h0; rfl
  case isFalse => rfl

/-- The claims' write of D is the model's write of a register. -/
theorem putC_c (n : BitVec 6) (r : CReg) (c : Ctx) : putC (.c n) r c = c.setC n r := rfl
theorem putG_g (n : BitVec 4) (x : Word64) (c : Ctx) : putG (.g n) x c = c.setG n x := rfl

/-- Settles O6: the first part because a scalar instruction is guarded by its fields, the second by the reads after a write. -/
theorem guardOffAndConstants : Obligations.GuardOffAndConstants := by
  unfold Obligations.GuardOffAndConstants
  refine ⟨fun f s hg i hi => (guardedBy_of_mem_scalars i hi).does_id hg, fun c n m r g h x => ?_⟩
  simp only [putC_c, putG_g]
  exact ⟨c.getC_zero, c.getG_zero, c.setC_zero r, c.setG_zero x,
    c.getC_setC_self r, c.getC_setC_of_ne r, c.getG_setG_self x, c.getG_setG_of_ne x⟩

end Sys2Proof.Machine
end

section
/-! # NaN, invalid operations and division by zero (O13)

A pattern is a NaN exactly where its value is, so an operation on values decides every case: the exact sum, product or quotient
of the values, and the signalling flag of the patterns. -/

namespace Sys2Proof.Machine

/-! ### NaN patterns -/

theorem fval_eq_nan_iff (fb x : Nat) : fval fb x = .nan ↔ isNaN fb x = true := by
  unfold fval isNaN
  split
  case isTrue he =>
    split
    case isTrue hf => simp [hf]
    case isFalse hf => simp [he, hf]
  case isFalse he =>
    split
    case isTrue => simp [he]
    case isFalse => simp [he]

/-- R37: only a NaN signals. -/
theorem isSignalling_eq_false {fb x : Nat} (h : fval fb x ≠ .nan) : isSignalling fb x = false := by
  have hn : isNaN fb x = false := by simpa [fval_eq_nan_iff] using h
  simp [isSignalling, hn]

theorem snanFlag_pair (fb a b : Nat) : snanFlag fb [a, b] = if isSignalling fb a || isSignalling fb b then 16 else 0 := by
  simp [snanFlag, flagInvalid]

theorem snanFlag_pair_eq_zero {fb a b : Nat} (ha : fval fb a ≠ .nan) (hb : fval fb b ≠ .nan) : snanFlag fb [a, b] = 0 := by
  simp [snanFlag_pair, isSignalling_eq_false ha, isSignalling_eq_false hb]

/-! ### NaN values -/

@[simp] theorem FVal.neg_eq_nan_iff (v : FVal) : v.neg = .nan ↔ v = .nan := by
  cases v with
  | nan => simp [FVal.neg]
  | inf n => simp [FVal.neg]
  | fin n m e => simp [FVal.neg]

theorem FVal.add_of_nan (rm : Nat) {v w : FVal} (h : v = .nan ∨ w = .nan) : FVal.add rm v w = (.nan, 0) := by
  obtain rfl | rfl := h
  · rfl
  · cases v with
    | nan => rfl
    | inf n => rfl
    | fin n m e => rfl

theorem FVal.mul_of_nan {v w : FVal} (h : v = .nan ∨ w = .nan) : FVal.mul v w = (.nan, 0) := by
  obtain rfl | rfl := h
  · rfl
  · cases v with
    | nan => rfl
    | inf n => rfl
    | fin n m e => rfl

theorem divVal_of_nan (fb : Nat) {v w : FVal} (h : v = .nan ∨ w = .nan) : divVal fb v w = (canonNaN fb, 0) := by
  obtain rfl | rfl := h
  · rfl
  · cases v with
    | nan => rfl
    | inf n => rfl
    | fin n m e => rfl

/-! ### The operations on patterns -/

section
variable (rm : Nat) {fb a b : Nat}

/-! A sum, difference or product whose exact value is no number is the canonical NaN, with the flag that the value raised. -/

theorem fAdd_of_nan {fl : Nat} (h : FVal.add rm (fval fb a) (fval fb b) = (.nan, fl)) :
    fAdd fb rm a b = (canonNaN fb, fl ||| snanFlag fb [a, b]) := by
  simp [fAdd, h, roundVal]

theorem fSub_of_nan {fl : Nat} (h : FVal.add 0 (fval fb a) (fval fb b).neg = (.nan, fl)) :
    fSub fb a b = (canonNaN fb, fl ||| snanFlag fb [a, b]) := by
  simp [fSub, h, roundVal]

theorem fMul_of_nan {fl : Nat} (h : FVal.mul (fval fb a) (fval fb b) = (.nan, fl)) :
    fMul fb rm a b = (canonNaN fb, fl ||| snanFlag fb [a, b]) := by
  simp [fMul, h, roundVal]

theorem fDiv_of_divVal {p fl : Nat} (h : divVal fb (fval fb a) (fval fb b) = (p, fl)) :
    fDiv fb a b = (p, fl ||| snanFlag fb [a, b]) := by
  simp [fDiv, h]

/-- R39: the sum of opposite infinities. -/
theorem fAdd_inf_inf {x : Bool} (ha : fval fb a = .inf x) (hb : fval fb b = .inf (!x)) : fAdd fb rm a b = (canonNaN fb, 16) := by
  have hv : FVal.add rm (fval fb a) (fval fb b) = (.nan, 16) := by
    rw [ha, hb]
    simp [FVal.add, flagInvalid]
  rw [fAdd_of_nan rm hv, snanFlag_pair_eq_zero (by simp [ha]) (by simp [hb]), Nat.or_zero]

/-- A product of two numbers or infinities that is no number is invalid. -/
theorem fMul_of_invalid (hv : FVal.mul (fval fb a) (fval fb b) = (.nan, 16)) (ha : fval fb a ≠ .nan) (hb : fval fb b ≠ .nan) :
    fMul fb rm a b = (canonNaN fb, 16) := by
  rw [fMul_of_nan rm hv, snanFlag_pair_eq_zero ha hb, Nat.or_zero]

/-- R39: an infinity times zero, in either order. -/
theorem fMul_inf_zero {x y : Bool} {e : Int} (ha : fval fb a = .inf x) (hb : fval fb b = .fin y 0 e) :
    fMul fb rm a b = (canonNaN fb, 16) ∧ fMul fb rm b a = (canonNaN fb, 16) := by
  have hna : fval fb a ≠ .nan := by simp [ha]
  have hnb : fval fb b ≠ .nan := by simp [hb]
  exact ⟨fMul_of_invalid rm (by rw [ha, hb]; rfl) hna hnb, fMul_of_invalid rm (by rw [ha, hb]; rfl) hnb hna⟩

/-- R39, and R40 for the sign: a finite number other than zero over zero. -/
theorem fDiv_by_zero {x y : Bool} {m : Nat} {e e' : Int} (hm : m ≠ 0) (ha : fval fb a = .fin x m e) (hb : fval fb b = .fin y 0 e') :
    fDiv fb a b = (infOf fb (x != y), 8) := by
  have hv : divVal fb (fval fb a) (fval fb b) = (infOf fb (x != y), 8) := by
    rw [ha, hb]
    simp [divVal, hm, flagDivzero]
  rw [fDiv_of_divVal hv, snanFlag_pair_eq_zero (by simp [ha]) (by simp [hb]), Nat.or_zero]

/-- R39: the square root of a number below zero. -/
theorem fSqrt_negative {m : Nat} {e : Int} (hm : m ≠ 0) (ha : fval fb a = .fin true m e) : fSqrt fb a = (canonNaN fb, 16) := by
  simp [fSqrt, ha, hm, flagInvalid]

/-- R37: an operand that is a NaN. -/
theorem arith_of_isNaN (h : isNaN fb a = true ∨ isNaN fb b = true) :
    let r := (canonNaN fb, if isSignalling fb a || isSignalling fb b then 16 else 0)
    fAdd fb rm a b = r ∧ fSub fb a b = r ∧ fMul fb rm a b = r ∧ fDiv fb a b = r := by
  have hv := h.imp (fval_eq_nan_iff fb a).2 (fval_eq_nan_iff fb b).2
  have hneg : fval fb a = .nan ∨ (fval fb b).neg = .nan := by rwa [FVal.neg_eq_nan_iff]
  simp only [fAdd_of_nan rm (FVal.add_of_nan rm hv), fSub_of_nan (FVal.add_of_nan 0 hneg), fMul_of_nan rm (FVal.mul_of_nan hv),
    fDiv_of_divVal (divVal_of_nan fb hv), Nat.zero_or, snanFlag_pair, and_self]

end

/-- Settles O13: the NaN cases together, then one lemma for each invalid operation and for the division by zero. -/
theorem floatSpecialCases : Obligations.FloatSpecialCases := by
  unfold Obligations.FloatSpecialCases
  intro fb a b rm _
  exact ⟨arith_of_isNaN rm, fun _ ha hb => fAdd_inf_inf rm ha hb,
    fun _ _ _ ha hb => fMul_inf_zero rm ha hb,
    fun _ _ _ _ _ hm ha hb => fDiv_by_zero hm ha hb, fun _ _ hm ha => fSqrt_negative hm ha⟩

end Sys2Proof.Machine
end

section
/-! # Rounding to a multiple of a unit (O14)

A unit of the result is `d = 2^(q − e)` units of the exact value, so a rounded multiple `r` of `m / d` is off by `r × d − m` of
the latter: by `−(m % d)` where the quotient stands, and by `d − m % d` where it goes up. Each clause of the claim is first a fact
about that integer, and then, multiplied by `2^e`, the fact about the values. -/

namespace Sys2Proof.Machine

/-! ### The rounded quotient -/

/-- Whether a mode of R38 takes the next integer above `m / d`. -/
def roundsUp (rm : Nat) (neg : Bool) (m d : Nat) : Bool :=
  match rm with
  | 0 => decide (d < m % d * 2) || (m % d * 2 == d && m / d % 2 == 1)
  | 1 => false
  | 2 => m % d != 0 && !neg
  | _ => m % d != 0 && neg

/-- `m / d` rounded to an integer under a mode of R38. -/
def roundQuo (rm : Nat) (neg : Bool) (m d : Nat) : Nat := if roundsUp rm neg m d then m / d + 1 else m / d

/-- How far the rounded quotient is off, in parts of `d`. -/
def roundErr (rm : Nat) (neg : Bool) (m d : Nat) : Int := (roundQuo rm neg m d : Int) * d - m

section
variable (rm : Nat) (neg : Bool) (m : Nat)

theorem roundsUp_eq_false_of_dvd {d : Nat} (hd : 0 < d) (h : m % d = 0) : roundsUp rm neg m d = false := by
  have hne : ¬ 0 = d := by omega
  unfold roundsUp
  split
  all_goals simp [h, hne]

/-- The model rounds an exact value to the rounded quotient, and says whether there is a remainder. -/
theorem roundAt_eq_roundQuo {e q : Int} (h : e ≤ q) :
    roundAt rm neg m e false q = (roundQuo rm neg m (2 ^ (q - e).toNat), m % 2 ^ (q - e).toNat != 0) := by
  unfold roundAt
  split
  case isTrue hq =>
    obtain rfl : e = q := by omega
    simp [roundQuo, roundsUp_eq_false_of_dvd rm neg m Nat.one_pos (Nat.mod_one m), Nat.mod_one]
  case isFalse =>
    simp only [Bool.or_false, Bool.false_or]
    rfl

variable {d : Nat}

theorem roundErr_eq : roundErr rm neg m d = (if roundsUp rm neg m d then (d : Int) else 0) - (m % d : Nat) := by
  have hm : (m : Int) = (m / d : Nat) * d + (m % d : Nat) := by exact_mod_cast (Nat.div_add_mod' m d).symm
  unfold roundErr roundQuo
  split
  · push_cast at hm ⊢; linarith
  · push_cast at hm ⊢; linarith

/-! ### What each mode does to the error -/

theorem abs_roundErr_lt (hd : 0 < d) : |roundErr rm neg m d| < d := by
  have hlt := Nat.mod_lt m hd
  have hz := roundsUp_eq_false_of_dvd rm neg m hd
  rw [roundErr_eq, abs_lt]
  cases hup : roundsUp rm neg m d with
  | true =>
    have hne : m % d ≠ 0 := fun h => by simp [hz h] at hup
    simp only [if_true]
    omega
  | false =>
    simp only [Bool.false_eq_true, if_false]
    omega

theorem roundErr_eq_zero_iff (hd : 0 < d) : roundErr rm neg m d = 0 ↔ m % d = 0 := by
  have hlt := Nat.mod_lt m hd
  have hz := roundsUp_eq_false_of_dvd rm neg m hd
  rw [roundErr_eq]
  cases hup : roundsUp rm neg m d with
  | true =>
    have hne : m % d ≠ 0 := fun h => by simp [hz h] at hup
    simp only [if_true]
    omega
  | false =>
    simp only [Bool.false_eq_true, if_false]
    omega

theorem roundsUp_nearest_iff : roundsUp 0 neg m d = true ↔ d < m % d * 2 ∨ (m % d * 2 = d ∧ m / d % 2 = 1) := by
  simp [roundsUp]

/-- To nearest: at most half a unit. -/
theorem abs_roundErr_nearest_le (hd : 0 < d) : |roundErr 0 neg m d| * 2 ≤ d := by
  have hlt := Nat.mod_lt m hd
  rw [roundErr_eq]
  split
  case isTrue hu =>
    rw [roundsUp_nearest_iff] at hu
    rw [abs_of_nonneg (by omega)]
    omega
  case isFalse hu =>
    rw [roundsUp_nearest_iff] at hu
    rw [abs_of_nonpos (by omega)]
    omega

/-- To nearest: an exact half goes to the even multiple. -/
theorem roundQuo_even_of_tie (hd : 0 < d) (h : |roundErr 0 neg m d| * 2 = d) : roundQuo 0 neg m d % 2 = 0 := by
  have hlt := Nat.mod_lt m hd
  rw [roundErr_eq] at h
  unfold roundQuo
  split at h
  case isTrue hu =>
    rw [if_pos hu]
    rw [roundsUp_nearest_iff] at hu
    rw [abs_of_nonneg (by omega)] at h
    omega
  case isFalse hu =>
    rw [if_neg hu]
    rw [roundsUp_nearest_iff] at hu
    rw [abs_of_nonpos (by omega)] at h
    omega

theorem roundErr_nonpos_of_down (h : roundsUp rm neg m d = false) : roundErr rm neg m d ≤ 0 := by
  rw [roundErr_eq, h]
  simp only [Bool.false_eq_true, if_false]
  omega

theorem roundErr_nonneg_of_up (hd : 0 < d) (h : roundsUp rm neg m d = (m % d != 0)) : 0 ≤ roundErr rm neg m d := by
  have hlt := Nat.mod_lt m hd
  rw [roundErr_eq, h]
  split
  case isTrue => omega
  case isFalse h0 => simp at h0; omega

theorem roundErr_towardZero_nonpos : roundErr 1 neg m d ≤ 0 := roundErr_nonpos_of_down 1 neg m rfl
theorem roundErr_upward_nonneg (hd : 0 < d) : 0 ≤ roundErr 2 false m d := roundErr_nonneg_of_up 2 false m hd (by simp [roundsUp])
theorem roundErr_upward_nonpos : roundErr 2 true m d ≤ 0 := roundErr_nonpos_of_down 2 true m (by simp [roundsUp])
theorem roundErr_downward_nonpos : roundErr 3 false m d ≤ 0 := roundErr_nonpos_of_down 3 false m (by simp [roundsUp])
theorem roundErr_downward_nonneg (hd : 0 < d) : 0 ≤ roundErr 3 true m d := roundErr_nonneg_of_up 3 true m hd (by simp [roundsUp])

end

/-! ### From the error to the values -/

/-- A value `± m × u`, as the claim writes it. -/
def signedVal (neg : Bool) (m u : ℚ) : ℚ := (if neg then -1 else 1) * m * u

theorem abs_signedVal (neg : Bool) (m : ℚ) {u : ℚ} (hu : 0 < u) : |signedVal neg m u| = |m| * u := by
  unfold signedVal
  rw [abs_mul, abs_mul, abs_of_pos hu]
  cases neg with
  | true => simp
  | false => simp

/-- The rounded value is off by the error, in the unit of the exact value. -/
theorem signed_roundQuo (rm : Nat) (neg : Bool) (m d : Nat) (u : ℚ) :
    signedVal neg (roundQuo rm neg m d) (d * u) = signedVal neg m u + signedVal neg (roundErr rm neg m d : ℤ) u := by
  unfold signedVal roundErr
  push_cast
  ring

section
variable (rm : Nat) (neg : Bool) (m : Nat) {d : Nat} {u : ℚ}

theorem abs_signed_roundQuo_sub (hu : 0 < u) :
    |signedVal neg (roundQuo rm neg m d) (d * u) - signedVal neg m u| = (|roundErr rm neg m d| : ℤ) * u := by
  rw [signed_roundQuo, add_sub_cancel_left, abs_signedVal _ _ hu, Int.cast_abs]

theorem abs_signed_nearest_sub_le (hd : 0 < d) (hu : 0 < u) :
    |signedVal neg (roundQuo 0 neg m d) (d * u) - signedVal neg m u| * 2 ≤ d * u := by
  have h : ((|roundErr 0 neg m d| : ℤ) : ℚ) * 2 ≤ d := by exact_mod_cast abs_roundErr_nearest_le neg m hd
  rw [abs_signed_roundQuo_sub _ _ _ hu, mul_right_comm]
  exact mul_le_mul_of_nonneg_right h hu.le

theorem roundQuo_even_of_signed_tie (hd : 0 < d) (hu : 0 < u)
    (h : |signedVal neg (roundQuo 0 neg m d) (d * u) - signedVal neg m u| * 2 = d * u) : roundQuo 0 neg m d % 2 = 0 := by
  rw [abs_signed_roundQuo_sub _ _ _ hu, mul_right_comm, mul_left_inj' hu.ne'] at h
  exact roundQuo_even_of_tie neg m hd (by exact_mod_cast h)

theorem abs_signed_towardZero_le (hu : 0 < u) : |signedVal neg (roundQuo 1 neg m d) (d * u)| ≤ |signedVal neg m u| := by
  have h : (roundQuo 1 neg m d : ℤ) * d ≤ m := by simpa [roundErr] using roundErr_towardZero_nonpos neg m (d := d)
  have h' : (roundQuo 1 neg m d : ℚ) * d ≤ m := by exact_mod_cast h
  rw [show signedVal neg (roundQuo 1 neg m d) (d * u) = signedVal neg ((roundQuo 1 neg m d : ℚ) * d) u by unfold signedVal; ring,
    abs_signedVal _ _ hu, abs_signedVal _ _ hu, abs_of_nonneg (by positivity), abs_of_nonneg (by positivity)]
  exact mul_le_mul_of_nonneg_right h' hu.le

theorem signedVal_nonneg {x : ℤ} (hu : 0 < u) (h : if neg then x ≤ 0 else 0 ≤ x) : 0 ≤ signedVal neg x u := by
  cases neg with
  | true =>
    have hx : (x : ℚ) ≤ 0 := by exact_mod_cast h
    simpa [signedVal] using mul_nonpos_of_nonpos_of_nonneg hx hu.le
  | false =>
    have hx : (0 : ℚ) ≤ x := by exact_mod_cast h
    simpa [signedVal] using mul_nonneg hx hu.le

theorem signed_le_upward (hd : 0 < d) (hu : 0 < u) : signedVal neg m u ≤ signedVal neg (roundQuo 2 neg m d) (d * u) := by
  rw [signed_roundQuo, le_add_iff_nonneg_right]
  refine signedVal_nonneg neg hu ?_
  cases neg with
  | true => exact roundErr_upward_nonpos m
  | false => exact roundErr_upward_nonneg m hd

theorem signed_downward_le (hd : 0 < d) (hu : 0 < u) : signedVal neg (roundQuo 3 neg m d) (d * u) ≤ signedVal neg m u := by
  rw [signed_roundQuo, add_le_iff_nonpos_right, ← neg_nonneg,
    show -signedVal neg (roundErr 3 neg m d : ℤ) u = signedVal neg (-roundErr 3 neg m d : ℤ) u by unfold signedVal; push_cast; ring]
  refine signedVal_nonneg neg hu ?_
  cases neg with
  | true => exact neg_nonpos.2 (roundErr_downward_nonneg m hd)
  | false => exact neg_nonneg.2 (roundErr_downward_nonpos m)

theorem abs_signed_sub_lt (hd : 0 < d) (hu : 0 < u) : |signedVal neg (roundQuo rm neg m d) (d * u) - signedVal neg m u| < d * u := by
  have h : ((|roundErr rm neg m d| : ℤ) : ℚ) < d := by exact_mod_cast abs_roundErr_lt rm neg m hd
  rw [abs_signed_roundQuo_sub _ _ _ hu]
  exact mul_lt_mul_of_pos_right h hu

theorem signed_roundQuo_eq_iff (hd : 0 < d) (hu : 0 < u) :
    signedVal neg (roundQuo rm neg m d) (d * u) = signedVal neg m u ↔ m % d = 0 := by
  rw [← sub_eq_zero, ← abs_eq_zero, abs_signed_roundQuo_sub _ _ _ hu, mul_eq_zero_iff_right hu.ne', Int.cast_eq_zero, abs_eq_zero]
  exact roundErr_eq_zero_iff rm neg m hd

end

/-- A unit of the result holds `2^(q − e)` units of the exact value. -/
theorem zpow_eq_natPow_mul_zpow {e q : Int} (h : e ≤ q) : (2 : ℚ) ^ q = ((2 ^ (q - e).toNat : Nat) : ℚ) * (2 : ℚ) ^ e := by
  push_cast
  rw [← zpow_natCast, ← zpow_add₀ two_ne_zero]
  congr 1
  omega

/-- Settles O14: each clause is what the error of the rounded quotient satisfies, times the unit of the exact value. -/
theorem roundingDirections : Obligations.RoundingDirections := by
  unfold Obligations.RoundingDirections
  intro neg m e q h
  have hd : 0 < 2 ^ (q - e).toNat := Nat.two_pow_pos _
  have hu : (0 : ℚ) < 2 ^ e := zpow_pos two_pos e
  simp only [roundAt_eq_roundQuo _ neg m h, zpow_eq_natPow_mul_zpow h]
  refine ⟨abs_signed_nearest_sub_le neg m hd hu, roundQuo_even_of_signed_tie neg m hd hu, abs_signed_towardZero_le neg m hu,
    signed_le_upward neg m hd hu, signed_downward_le neg m hd hu, fun rm _ => abs_signed_sub_lt rm neg m hd hu, fun rm _ => ?_⟩
  rw [bne_iff_ne]
  exact (signed_roundQuo_eq_iff rm neg m hd hu).symm.not

end Sys2Proof.Machine
end

section
/-! # A TIDST may change its slot (O45)

R238 lets an access that lies in a range of bytes of which alone its context has acquired join that acquisition into what the context
knows. A hart context keeps what it knows in its slot, so a TIDST into a checked page can change its slot, and the clause of
the claim that every slot is as before is false. The table of tensor identifiers is another field of the slot. -/

namespace Sys2Proof.Machine

open Sys2Proof.Claims

/-- TIDST of identifier 0 to the address in c1. -/
def tidstFields : Fields := ⟨⟨0, 0, 0⟩, false, 0, .c 1, .c 0, .c 0, 0, 0⟩

/-- The image of a page of 512 KiB at virtual and physical 0, readable and writable by User, of which accesses are checked (R181). -/
def checkedPage : BitVec 128 := BitVec.ofNat 128 (2 ^ 16 + 2 ^ 7 + 2 ^ 5 + 2 ^ 3 + 2 ^ 2)

/-- A vcore of launch 1, with a capability of the first 64 bytes of a checked page in c1. It has acquired, of these bytes alone, what
vcore 1 did before turn 5. The shadow of its paddock stands at 0x40000 (R255). -/
def acquiredInPart : State :=
  { ctxs := [(0, { live := true, c := [(1, mkCap 0 3 0 64)] })]
    slots := [(0, { live := true, lid := 1, known := { partials := [(0, 64, [(clockKey 1 1, 5)])] } })]
    cores := [(0, { tlb := [(0, checkedPage)] })]
    drovers := [(0, { regs := [(0x2A0, 0x40000)] })]
    tables := [(0, checkedPage)]
    device := { state := 2 } }

theorem exists_eq_ok_of_isOk {ε α β : Type} {x : Except ε (α × β)} (h : x.isOk = true) : ∃ a b, x = .ok (a, b) := by
  cases x with
  | error e => cases h
  | ok p => exact ⟨p.1, p.2, rfl⟩

/-- The access of the TIDST passes the checks of R165. -/
theorem access_tidst_acquiredInPart : ∃ u l, access acquiredInPart
    { op := 0x361, field := 1, opnd := .c 1, n := 32, al := 32, ld := false, st := true, spaces := [0, 1, 2, 3, 4, 5] }
    (.c 1) (offs tidstFields) false false u l :=
  exists_eq_ok_of_isOk (by decide +kernel)

/-- After it the acquisition is part of all that the vcore knows, and of no range any more. -/
theorem partials_tidst_acquiredInPart :
    ((stepScalar tidstFields (tidstBody tidstFields) acquiredInPart).slot 0).known.partials = [] := by decide +kernel

/-- Refutes O45: the last clause of TIDST says that no slot changes, and this one has linked what it had acquired of the bytes stored. -/
theorem not_tensorIdentifiers : ¬ Obligations.TensorIdentifiers := by
  unfold Obligations.TensorIdentifiers
  intro h
  obtain ⟨u, l, hacc⟩ := access_tidst_acquiredInPart
  have hacts : acts acquiredInPart tidstFields := by
    unfold acts
    decide +kernel
  obtain ⟨-, hsmall⟩ := h tidstFields acquiredInPart 0 hacts rfl
  obtain ⟨-, -, -, -, htidst⟩ := hsmall (Nat.zero_le 63)
  obtain ⟨t, ht, -, hslots⟩ := htidst u l hacc
  obtain rfl : stepScalar tidstFields (tidstBody tidstFields) acquiredInPart = t := Host.Outcome.next.inj ht
  have hslot := congrArg (fun m => (Sparse.get ({} : Slot) m 0).known.partials) hslots
  exact List.cons_ne_nil _ _ (hslot.symm.trans partials_tidst_acquiredInPart)

end Sys2Proof.Machine
end

section
/-! # The state after reset (O57)

Every table of the reset state lists nothing, so each of its elements is the default of its table. -/

namespace Sys2Proof.Machine

theorem Ctx.getC_default (n : BitVec 6) : ({} : Ctx).getC n = ⟨false, 0⟩ := by
  unfold Ctx.getC
  split <;> rfl

theorem Ctx.getG_default {n : BitVec 4} (hn : n ≠ 0) : ({} : Ctx).getG n = 0 := if_neg hn

theorem State.safe_reset : State.reset.safe := ⟨rfl, fun _ => by show ({} : Ctx).mode ≠ 3; decide⟩

/-- Settles O57. -/
theorem resetState : Obligations.ResetState := by
  unfold Obligations.ResetState
  refine ⟨State.safe_reset, rfl, fun _ => ?ctx, fun _ => ?slot, fun _ => ⟨rfl, rfl⟩, fun _ => ?drover, fun _ => ⟨rfl, fun _ => rfl⟩, ?device⟩
  case ctx => exact ⟨rfl, rfl, rfl, rfl, rfl, rfl, Ctx.getC_default, fun _ => Ctx.getG_default⟩
  case slot => exact ⟨rfl, rfl, rfl, rfl, rfl, rfl, rfl, rfl, rfl, rfl, rfl⟩
  case drover => exact ⟨rfl, rfl, rfl, rfl, rfl, fun _ => rfl⟩
  case device => exact ⟨rfl, rfl, rfl, rfl, rfl, rfl, rfl, rfl, rfl, rfl, fun _ => rfl⟩

end Sys2Proof.Machine
end

section
/-! # The Drover's heads, queues and descriptors: what each operation of a Drover reads and leaves -/

namespace Sys2Proof

/-! ### Fields and bits -/

@[simp] theorem fld_zero (x w : Nat) : fld x 0 w = x % 2 ^ w := by
  unfold fld
  rw [Nat.pow_zero, Nat.div_one]

theorem bitAt_eq_testBit (x i : Nat) : bitAt x i = x.testBit i := by
  unfold bitAt fld
  rw [Nat.testBit_eq_decide_div_mod_eq, Nat.pow_one]
  rfl

theorem bitAt_toNat {w : Nat} (x : BitVec w) (i : Nat) : bitAt x.toNat i = x.getLsbD i := by
  rw [bitAt_eq_testBit, BitVec.testBit_toNat]

end Sys2Proof

namespace Sys2Proof.Machine

variable {α : Type} {s t u : State}

/-! ### Folds over a state -/

theorem foldl_of_fixed {f : State → α → State} {l : List α} (h : ∀ x ∈ l, f s x = s) : l.foldl f s = s := by
  induction l with
  | nil => rfl
  | cons x l ih =>
    rw [List.foldl_cons, h x List.mem_cons_self]
    exact ih fun y hy => h y (List.mem_cons_of_mem x hy)

/-- Only one element of the list has an effect, and it has it once. -/
theorem foldl_of_once {f : State → α → State} {j : α} {l : List α} (hj : j ∈ l) (h1 : ∀ x ∈ l, x ≠ j → f s x = s)
    (h2 : ∀ x ∈ l, f (f s j) x = f s j) : l.foldl f s = f s j := by
  induction l with
  | nil => cases hj
  | cons x l ih =>
    rw [List.foldl_cons]
    by_cases hx : x = j
    · subst hx
      exact foldl_of_fixed fun y hy => h2 y (List.mem_cons_of_mem x hy)
    · rw [h1 x List.mem_cons_self hx]
      exact ih ((List.mem_cons.1 hj).resolve_left (Ne.symm hx)) (fun y hy => h1 y (List.mem_cons_of_mem x hy))
        fun y hy => h2 y (List.mem_cons_of_mem x hy)

/-- The first element has an effect, and no later one. -/
theorem foldl_of_first {f : State → α → State} {l : List α} (hl : l ≠ []) (h1 : ∀ x ∈ l, f s x = t) (h2 : ∀ x ∈ l, f t x = t) :
    l.foldl f s = t := by
  obtain ⟨x, l, rfl⟩ := List.exists_cons_of_ne_nil hl
  rw [List.foldl_cons, h1 x List.mem_cons_self]
  exact foldl_of_fixed fun y hy => h2 y (List.mem_cons_of_mem x hy)

/-! ### Heads and queues: a read after a write -/

@[simp] theorem State.head_setHead (s : State) (p q p' q' : Nat) (h : QHead) :
    (s.setHead p q h).head p' q' = if p' = p ∧ q' = q then h else s.head p' q' := by
  unfold State.head State.setHead
  rw [State.drover_modDrover]
  by_cases hp : p' = p
  · subst hp
    rw [if_pos rfl, Sparse.get_put]
    exact if_congr (and_iff_right rfl).symm rfl rfl
  · rw [if_neg hp, if_neg (hp ·.1)]

@[simp] theorem State.head_modHead (s : State) (p q p' q' : Nat) (g : QHead → QHead) :
    (s.modHead p q g).head p' q' = if p' = p ∧ q' = q then g (s.head p q) else s.head p' q' := State.head_setHead _ _ _ _ _ _

@[simp] theorem State.head_dropHead (s : State) (p q p' q' : Nat) :
    (s.dropHead p q).head p' q' = if p' = p ∧ q' = q then {} else s.head p' q' := by
  unfold State.head State.dropHead
  rw [State.drover_modDrover]
  by_cases hp : p' = p
  · subst hp
    rw [if_pos rfl, Sparse.get_drop]
    exact if_congr (and_iff_right rfl).symm rfl rfl
  · rw [if_neg hp, if_neg (hp ·.1)]

/-- An update of a Drover that leaves its heads leaves every head. -/
theorem State.head_modDrover (s : State) (p p' q' : Nat) (f : Drover → Drover) (hf : ∀ d, (f d).heads = d.heads) :
    (s.modDrover p f).head p' q' = s.head p' q' := by
  unfold State.head
  rw [State.drover_modDrover]
  split
  · subst_vars
    rw [hf]
  · rfl

@[simp] theorem State.head_modQueue (s : State) (p q p' q' : Nat) (g : Queue → Queue) : (s.modQueue p q g).head p' q' = s.head p' q' :=
  s.head_modDrover _ _ _ _ fun _ => rfl
@[simp] theorem State.head_queueLearns (s : State) (p q p' q' : Nat) (c : Sparse Nat) : (s.queueLearns p q c).head p' q' = s.head p' q' :=
  s.head_modQueue _ _ _ _ _
@[simp] theorem State.head_dberr (s : State) (p q p' q' : Nat) : (s.dberr p q).head p' q' = s.head p' q' := s.head_modDrover _ _ _ _ fun _ => rfl

@[simp] theorem State.queue_modQueue (s : State) (p q : Nat) (g : Queue → Queue) : (s.modQueue p q g).queue p q = g (s.queue p q) := by
  unfold State.queue State.modQueue
  simp [Sparse.get_put]

/-! ### Updates of the Drovers' tables alone -/

/-- `t` is `s` in all but the tables of the Drovers. -/
def State.DroversOnly (s t : State) : Prop := t = { s with drovers := t.drovers }

namespace State.DroversOnly

theorem refl : s.DroversOnly s := rfl
theorem modDrover {p : Nat} {f : Drover → Drover} : s.DroversOnly (s.modDrover p f) := rfl
theorem trans (h1 : s.DroversOnly t) (h2 : t.DroversOnly u) : s.DroversOnly u := by
  unfold State.DroversOnly at *
  rw [h2, h1]

theorem mem (h : s.DroversOnly t) : t.mem = s.mem := by rw [h]
theorem tables (h : s.DroversOnly t) : t.tables = s.tables := by rw [h]
theorem device (h : s.DroversOnly t) : t.device = s.device := by rw [h]
theorem gangs (h : s.DroversOnly t) : t.gangs = s.gangs := by rw [h]
theorem slots (h : s.DroversOnly t) : t.slots = s.slots := by rw [h]

end State.DroversOnly

/-- `t` is `s` after a Drover has looked at its queues: at most heads, what is kept of queues but for HELD, and QERR have changed. -/
structure State.Looked (s t : State) : Prop where
  droversOnly : s.DroversOnly t
  drover : ∀ j, t.drover j =
    { s.drover j with heads := (t.drover j).heads, queues := (t.drover j).queues, qerr := (t.drover j).qerr }
  held : ∀ p q, (t.queue p q).held = (s.queue p q).held

namespace State.Looked

theorem refl : s.Looked s := ⟨rfl, fun _ => rfl, fun _ _ => rfl⟩
theorem trans (h1 : s.Looked t) (h2 : t.Looked u) : s.Looked u :=
  ⟨h1.droversOnly.trans h2.droversOnly, fun j => by rw [h2.drover j, h1.drover j], fun p q => (h2.held p q).trans (h1.held p q)⟩
theorem ite {c : Prop} [Decidable c] (h1 : s.Looked t) (h2 : s.Looked u) : s.Looked (if c then t else u) := by
  split
  · exact h1
  · exact h2
theorem foldl {f : State → α → State} {l : List α} (h : ∀ (t : State) x, t.Looked (f t x)) : s.Looked (l.foldl f s) :=
  List.foldlRecOn l f refl fun t ht x _ => ht.trans (h t x)

/-- An update of one Drover within these bounds. -/
theorem modDrover {p : Nat} {f : Drover → Drover}
    (hf : f (s.drover p) = { s.drover p with
      heads := (f (s.drover p)).heads, queues := (f (s.drover p)).queues, qerr := (f (s.drover p)).qerr })
    (hh : ∀ q, (Sparse.get {} (f (s.drover p)).queues q).held = (Sparse.get {} (s.drover p).queues q).held) : s.Looked (s.modDrover p f) := by
  refine ⟨.modDrover, fun j => ?_, fun j q => ?_⟩
  · rw [State.drover_modDrover]
    split
    · subst_vars
      exact hf
    · rfl
  · unfold State.queue
    rw [State.drover_modDrover]
    split
    · subst_vars
      exact hh q
    · rfl

theorem setHead {p q : Nat} {x : QHead} : s.Looked (s.setHead p q x) := modDrover rfl fun _ => rfl
theorem modHead {p q : Nat} {g : QHead → QHead} : s.Looked (s.modHead p q g) := setHead
theorem dropHead {p q : Nat} : s.Looked (s.dropHead p q) := modDrover rfl fun _ => rfl
theorem dberr {p q : Nat} : s.Looked (s.dberr p q) := modDrover rfl fun _ => rfl

theorem modQueue {p q : Nat} {g : Queue → Queue} (hg : ∀ x, (g x).held = x.held) : s.Looked (s.modQueue p q g) := by
  refine modDrover rfl fun q' => ?_
  dsimp only
  rw [Sparse.get_put]
  split
  · subst_vars
    exact hg _
  · rfl

theorem queueLearns {p q : Nat} {c : Sparse Nat} : s.Looked (s.queueLearns p q c) := modQueue fun _ => rfl

theorem dropBells {p q : Nat} : s.Looked (s.dropBells p q) := by
  unfold State.dropBells
  split
  · exact modQueue fun _ => rfl
  · exact refl

theorem loadHead {p q : Nat} : s.Looked (s.loadHead p q) := by
  unfold State.loadHead
  refine .ite refl ?_
  split
  · exact refl
  · refine .ite refl ?_
    dsimp only
    split
    · exact (queueLearns.trans queueLearns).trans setHead
    · exact dberr

theorem pollWaitv {p q : Nat} : s.Looked (s.pollWaitv p q) := by
  unfold State.pollWaitv
  extract_lets
  refine .ite refl ?_
  split
  · exact .ite (queueLearns.trans modHead) refl
  · exact modHead

theorem pollAll {p : Nat} : s.Looked (s.pollAll p) := foldl fun _ _ => pollWaitv

theorem mem (h : s.Looked t) : t.mem = s.mem := h.droversOnly.mem
theorem pageReg (h : s.Looked t) (p off : Nat) : t.pageReg p off = s.pageReg p off := by
  unfold State.pageReg
  rw [h.drover p]
theorem doorbells (h : s.Looked t) (p : Nat) : (t.drover p).doorbells = (s.drover p).doorbells := by rw [h.drover p]

end State.Looked

/-! ### The pages that a Drover walks -/

/-- The same address spaces, with the same bytes. -/
structure State.SamePages (s t : State) : Prop where
  mem : t.mem = s.mem
  tables : t.tables = s.tables
  device : t.device = s.device

theorem State.DroversOnly.samePages (h : s.DroversOnly t) : s.SamePages t := ⟨h.mem, h.tables, h.device⟩
theorem State.Looked.samePages (h : s.Looked t) : s.SamePages t := h.droversOnly.samePages

namespace State.SamePages

theorem walkTo (h : s.SamePages t) (p va : Nat) (store : Bool) : t.walkTo p va store = s.walkTo p va store := by
  unfold State.walkTo State.walk State.mappedYet
  rw [h.tables, h.device]

theorem walkRead (h : s.SamePages t) (p va n : Nat) : t.walkRead p va n = s.walkRead p va n := by
  unfold State.walkRead State.byte
  simp only [h.walkTo, h.mem]

theorem walkNat (h : s.SamePages t) (p va n : Nat) : t.walkNat p va n = s.walkNat p va n := by
  unfold State.walkNat
  rw [h.walkRead]

theorem qdesc (h : s.SamePages t) {p : Nat} (hr : t.pageReg p 0x200 = s.pageReg p 0x200) (q : Nat) : t.qdesc p q = s.qdesc p q := by
  unfold State.qdesc State.qdescAt
  rw [h.walkNat, hr]

/-- The same bytes are written. -/
theorem walkWrite_mem (h : s.SamePages t) (p va : Nat) (bs : List Byte) :
    (t.walkWrite p va bs).map State.mem = (s.walkWrite p va bs).map State.mem := by
  unfold State.walkWrite
  simp only [h.walkTo]
  split
  · rfl
  · split
    · simp only [Option.map_some, State.storeBytes, h.mem]
    · rfl

theorem putDesc_mem (h : s.SamePages t) {p : Nat} (hr : t.pageReg p 0x200 = s.pageReg p 0x200) (q off n x : Nat) :
    (t.putDesc p q off n x).mem = (s.putDesc p q off n x).mem := by
  unfold State.putDesc State.qdescAt
  rw [hr, ← Option.getD_map State.mem, ← Option.getD_map State.mem, h.walkWrite_mem, h.mem]

end State.SamePages

theorem State.Looked.qdesc (h : s.Looked t) (p q : Nat) : t.qdesc p q = s.qdesc p q := h.samePages.qdesc (h.pageReg p 0x200) q

/-! ### What a Drover writes -/

/-- `t` is `s` with bytes written, and what goes with them: tags, errors and releases. -/
def State.Wrote (s t : State) : Prop := t = { s with mem := t.mem, tags := t.tags, poison := t.poison, syncs := t.syncs }

namespace State.Wrote

theorem refl : s.Wrote s := rfl
theorem trans (h1 : s.Wrote t) (h2 : t.Wrote u) : s.Wrote u := by
  unfold State.Wrote at *
  rw [h2, h1]
theorem storeBytes {a : Nat} {bs : List Byte} : s.Wrote (s.storeBytes a bs) := rfl

theorem tables (h : s.Wrote t) : t.tables = s.tables := by rw [h]
theorem device (h : s.Wrote t) : t.device = s.device := by rw [h]
theorem drovers (h : s.Wrote t) : t.drovers = s.drovers := by rw [h]
theorem gangs (h : s.Wrote t) : t.gangs = s.gangs := by rw [h]
theorem drover (h : s.Wrote t) (p : Nat) : t.drover p = s.drover p := by
  unfold State.drover
  rw [h.drovers]
theorem pageReg (h : s.Wrote t) (p off : Nat) : t.pageReg p off = s.pageReg p off := by
  unfold State.pageReg
  rw [h.drover]

theorem queue (h : s.Wrote t) (p q : Nat) : t.queue p q = s.queue p q := by
  unfold State.queue
  rw [h.drover]

theorem walkWrite {p va : Nat} {bs : List Byte} (h : s.walkWrite p va bs = some t) : s.Wrote t := by
  unfold State.walkWrite at h
  split at h
  · cases h
  · split at h
    · cases h
      exact storeBytes
    · cases h

theorem droverRelease {p q va x : Nat} (h : s.droverRelease p q va x = some t) : s.Wrote t := by
  unfold State.droverRelease at h
  split at h
  next e =>
    cases h
    rw [walkWrite e]
    rfl
  · cases h

theorem getD {o : Option State} (h : ∀ t, o = some t → s.Wrote t) : s.Wrote (o.getD s) := by
  cases o with
  | none => exact refl
  | some t => exact h t rfl

theorem putDesc {p q off n x : Nat} : s.Wrote (s.putDesc p q off n x) := getD fun _ => walkWrite

end State.Wrote

/-- A release is a write of eight bytes, and so writes the same in the same address space. -/
theorem State.droverRelease_mem (s : State) (p q va x : Nat) :
    (s.droverRelease p q va x).map State.mem = (s.walkWrite p va (natToBytes 8 x)).map State.mem := by
  unfold State.droverRelease
  unfold State.walkWrite
  cases s.walkTo p va true with
  | none => rfl
  | some pa =>
    dsimp only
    split <;> simp_all

theorem State.SamePages.droverRelease {p q va x : Nat} {m : State} (h : s.SamePages t) (hm : s.droverRelease p q va x = some m) :
    ∃ m', t.droverRelease p q va x = some m' ∧ m'.mem = m.mem := by
  have e : (t.droverRelease p q va x).map State.mem = some m.mem := by
    rw [State.droverRelease_mem, h.walkWrite_mem, ← s.droverRelease_mem p q, hm]
    rfl
  exact Option.map_eq_some_iff.1 e

end Sys2Proof.Machine
end

section
/-! # The completion of a head (R63)

A completion writes the completion word and RDIDX, raises the interrupt, and then only looks at the queue again. -/

namespace Sys2Proof.Machine

variable {s t : State}

/-! ### The completion of a head (R63) -/

/-- R63, R371: what the completed packet's queue releases to later packets. -/
def State.effectsJoined (s : State) (p q : Nat) : State :=
  s.modQueue p q (fun x => { x with effects := joinClock x.effects (s.head p q).effects })

/-- The completion word of a head that completes with a status. -/
def State.completionWord (s : State) (p q status : Nat) : Nat :=
  s.time % 2 ^ 32 * 2 ^ 32 + 2 ^ 24 + min (s.head p q).ntail 255 * 2 ^ 16 + (s.head p q).tstatus % 2 ^ 8 * 2 ^ 8 + status % 2 ^ 8

/-- The completion word and RDIDX of a queue with a descriptor are written. -/
def State.wordWritten (s : State) (p q status : Nat) (d : QDesc) : State :=
  (((s.effectsJoined p q).droverRelease p q ((d.ring + 64 * (d.rdidx % 2 ^ d.logn) + 8) % 2 ^ 56) (s.completionWord p q status)).getD
    (s.effectsJoined p q)).putDesc p q 8 4 ((d.rdidx + 1) % 2 ^ 32)

/-- Then the interrupt is raised, if the packet asks for it. -/
def State.completionSaid (s : State) (p q status : Nat) (d : QDesc) : State :=
  if bitAt (s.head p q).packet.toNat 8 then (s.wordWritten p q status d).raiseMsix (s.bellPort p q) d.msix else s.wordWritten p q status d

theorem State.looked_effectsJoined {p q : Nat} : s.Looked (s.effectsJoined p q) := .modQueue fun _ => rfl

theorem State.complete_of_qdesc {p q : Nat} {d : QDesc} (h : s.qdesc p q = some d) (status : Nat) :
    s.complete p q status = (((s.completionSaid p q status d).dropHead p q).dropBells p q).loadHead p q := by
  have hd : (s.effectsJoined p q).qdesc p q = some d := (State.looked_effectsJoined.qdesc p q).trans h
  unfold State.complete
  dsimp only
  unfold State.effectsJoined at hd
  rw [hd]
  rfl

theorem State.complete_of_no_qdesc {p q : Nat} (h : s.qdesc p q = none) (status : Nat) :
    s.complete p q status = ((s.effectsJoined p q).dropHead p q).dberr p q := by
  have hd : (s.effectsJoined p q).qdesc p q = none := (State.looked_effectsJoined.qdesc p q).trans h
  unfold State.complete
  dsimp only
  unfold State.effectsJoined at hd
  rw [hd]
  rfl

theorem State.wrote_wordWritten {p q status : Nat} {d : QDesc} : (s.effectsJoined p q).Wrote (s.wordWritten p q status d) :=
  (State.Wrote.getD fun _ => State.Wrote.droverRelease).trans .putDesc

/-- What follows the write of the completion word touches the Drover alone. -/
theorem State.looked_complete {p q : Nat} {d : QDesc} (h : s.qdesc p q = some d) (status : Nat) :
    (s.completionSaid p q status d).Looked (s.complete p q status) := by
  rw [State.complete_of_qdesc h]
  exact (State.Looked.dropHead.trans .dropBells).trans .loadHead

@[simp] theorem State.raiseMsix_mem (s : State) (port vec : Nat) : (s.raiseMsix port vec).mem = s.mem := by
  unfold State.raiseMsix
  split <;> rfl

@[simp] theorem State.raiseMsix_gangs (s : State) (port vec : Nat) : (s.raiseMsix port vec).gangs = s.gangs := by
  unfold State.raiseMsix
  split <;> rfl

/-- One more message on the vector, if there is such a vector. -/
theorem State.raiseMsix_count (s : State) (port vec : Nat) :
    Sparse.get 0 (s.raiseMsix port vec).device.msix (port * 2048 + vec) =
      Sparse.get 0 s.device.msix (port * 2048 + vec) + if vec ≤ 2047 then 1 else 0 := by
  unfold State.raiseMsix
  split
  · rw [if_neg (by omega)]
    rfl
  · rw [if_pos (by omega)]
    dsimp only
    rw [Sparse.get_put, if_pos rfl]

theorem State.completionSaid_mem (s : State) (p q status : Nat) (d : QDesc) :
    (s.completionSaid p q status d).mem = (s.wordWritten p q status d).mem := by
  unfold State.completionSaid
  split
  · exact State.raiseMsix_mem _ _ _
  · rfl

theorem State.completionSaid_gangs (s : State) (p q status : Nat) (d : QDesc) : (s.completionSaid p q status d).gangs = s.gangs := by
  have h : (s.wordWritten p q status d).gangs = s.gangs := State.wrote_wordWritten.gangs.trans State.looked_effectsJoined.droversOnly.gangs
  unfold State.completionSaid
  split
  · exact (State.raiseMsix_gangs _ _ _).trans h
  · exact h

theorem State.complete_gangs (s : State) (p q status : Nat) : (s.complete p q status).gangs = s.gangs := by
  cases h : s.qdesc p q with
  | none =>
    rw [State.complete_of_no_qdesc h]
    exact State.DroversOnly.gangs ((State.looked_effectsJoined.trans .dropHead).trans .dberr).droversOnly
  | some d => exact (State.looked_complete h status).droversOnly.gangs.trans (s.completionSaid_gangs p q status d)

theorem State.complete_mem {p q status : Nat} {d : QDesc} {m : State} (h : s.qdesc p q = some d)
    (hm : s.droverRelease p q ((d.ring + 64 * (d.rdidx % 2 ^ d.logn) + 8) % 2 ^ 56) (s.completionWord p q status) = some m) :
    (s.complete p q status).mem = (m.putDesc p q 8 4 ((d.rdidx + 1) % 2 ^ 32)).mem := by
  have he : s.Looked (s.effectsJoined p q) := State.looked_effectsJoined
  obtain ⟨m', hm', hmem⟩ := he.samePages.droverRelease hm
  have hw := State.Wrote.droverRelease hm
  have hw' := State.Wrote.droverRelease hm'
  have hpages : m.SamePages m' :=
    ⟨hmem, hw'.tables.trans (he.samePages.tables.trans hw.tables.symm), hw'.device.trans (he.samePages.device.trans hw.device.symm)⟩
  have hreg : m'.pageReg p 0x200 = m.pageReg p 0x200 := (hw'.pageReg p _).trans ((he.pageReg p _).trans (hw.pageReg p _).symm)
  rw [(State.looked_complete h status).mem, State.completionSaid_mem, State.wordWritten, hm', Option.getD_some]
  exact hpages.putDesc_mem hreg _ _ _ _

/-- The head that a queue has after it has read its packet is the one before, or one that waits with a packet just read. -/
theorem State.head_loadHead (s : State) (p q : Nat) :
    (s.loadHead p q).head p q = s.head p q ∨ ∃ x, (s.loadHead p q).head p q = { loaded := true, packet := x, since := s.time } := by
  unfold State.loadHead
  split
  · exact .inl rfl
  · split
    · exact .inl rfl
    · split
      · exact .inl rfl
      · dsimp only
        split
        · exact .inr ⟨_, by rw [State.head_setHead, if_pos ⟨rfl, rfl⟩]⟩
        · exact .inl (State.head_dberr _ _ _ _ _)

@[simp] theorem State.head_dropBells (s : State) (p q p' q' : Nat) : (s.dropBells p q).head p' q' = s.head p' q' := by
  unfold State.dropBells
  split
  · exact State.head_modQueue _ _ _ _ _ _
  · rfl

/-- R63: the next packet is the head: it waits, and runs nothing. -/
theorem State.head_complete {p q : Nat} {d : QDesc} (h : s.qdesc p q = some d) (status : Nat) :
    ((s.complete p q status).head p q).phase = 0 ∧ ((s.complete p q status).head p q).lid = 0 := by
  have hd : (((s.completionSaid p q status d).dropHead p q).dropBells p q).head p q = {} := by
    rw [State.head_dropBells, State.head_dropHead, if_pos ⟨rfl, rfl⟩]
  rw [State.complete_of_qdesc h]
  obtain e | ⟨x, e⟩ := State.head_loadHead (((s.completionSaid p q status d).dropHead p q).dropBells p q) p q
  · rw [e, hd]
    exact ⟨rfl, rfl⟩
  · rw [e]
    exact ⟨rfl, rfl⟩

/-- R63: the interrupt. -/
theorem State.complete_msix {p q : Nat} {d : QDesc} (h : s.qdesc p q = some d) (status : Nat) :
    Sparse.get 0 (s.complete p q status).device.msix (s.bellPort p q * 2048 + d.msix) =
      Sparse.get 0 s.device.msix (s.bellPort p q * 2048 + d.msix) + if (s.head p q).packet.getLsbD 8 ∧ d.msix ≤ 2047 then 1 else 0 := by
  have hdev : (s.wordWritten p q status d).device = s.device :=
    State.wrote_wordWritten.device.trans State.looked_effectsJoined.droversOnly.device
  rw [(State.looked_complete h status).droversOnly.device, State.completionSaid, bitAt_toNat, ← hdev]
  cases (s.head p q).packet.getLsbD 8 with
  | false => simp only [Bool.false_eq_true, if_false, false_and, Nat.add_zero]
  | true => simp only [if_true, true_and, State.raiseMsix_count]

end Sys2Proof.Machine
end

section
/-! # The queues of a Drover (O54)

Each event is described by one equation, or by what it can change; the obligation's clauses read fields off these. -/

namespace Sys2Proof.Machine

variable {s t : State}

/-! ### Doorbells (R60) -/

/-- The state in which a doorbell has been written, and nothing has come of it. -/
def State.rang (s : State) (p q : Nat) (value : BitVec 32) : State :=
  s.modDrover p (fun d => { d with doorbells := d.doorbells.put q value })

/-- The write of a doorbell has noticed HELD. -/
def State.noticed (s : State) (p q : Nat) (value : BitVec 32) (held : Bool) : State :=
  (s.rang p q value).modQueue p q (fun x => { x with held := held })

/-- The doorbell waits for the head to follow it (R371). -/
def State.belled (s : State) (p q : Nat) (value : BitVec 32) (held : Bool) : State :=
  ((s.noticed p q value held).dropBells p q).modQueue p q (fun x => { x with bells := x.bells ++ [(s.qdescAt p q, value.toNat, s.turn)] })

theorem State.pageReg_rang (s : State) (p q off : Nat) (value : BitVec 32) : (s.rang p q value).pageReg p off = s.pageReg p off := by
  unfold State.pageReg State.rang
  rw [State.drover_modDrover, if_pos rfl]

theorem State.pageReg_noticed (s : State) (p q off : Nat) (value : BitVec 32) (held : Bool) :
    (s.noticed p q value held).pageReg p off = s.pageReg p off := by
  unfold State.noticed State.modQueue
  rw [← s.pageReg_rang p q off value]
  unfold State.pageReg
  rw [State.drover_modDrover, if_pos rfl]

theorem State.qdesc_rang (s : State) (p q : Nat) (value : BitVec 32) : (s.rang p q value).qdesc p q = s.qdesc p q :=
  State.DroversOnly.modDrover.samePages.qdesc (s.pageReg_rang p q _ value) q

theorem State.looked_belled (s : State) (p q : Nat) (value : BitVec 32) (held : Bool) :
    (s.noticed p q value held).Looked (s.belled p q value held) :=
  State.Looked.dropBells.trans (.modQueue fun _ => rfl)

theorem State.droversOnly_noticed (s : State) (p q : Nat) (value : BitVec 32) (held : Bool) : s.DroversOnly (s.noticed p q value held) :=
  State.DroversOnly.trans (t := s.rang p q value) rfl rfl

theorem State.droversOnly_belled (s : State) (p q : Nat) (value : BitVec 32) (held : Bool) : s.DroversOnly (s.belled p q value held) :=
  (s.droversOnly_noticed p q value held).trans (s.looked_belled p q value held).droversOnly

theorem State.pageReg_belled (s : State) (p q off : Nat) (value : BitVec 32) (held : Bool) :
    (s.belled p q value held).pageReg p off = s.pageReg p off :=
  ((s.looked_belled p q value held).pageReg p off).trans (s.pageReg_noticed p q off value held)

/-! What a write of a doorbell of a context that serves does, by the descriptor of its queue. -/

theorem doorbellStep_ignored {p q : Nat} {value : BitVec 32} (h : s.serving = false ∨ s.ctxActive p = false ∨ 64 ≤ q) :
    doorbellStep p q value s = s := by
  unfold doorbellStep
  rw [if_pos]
  obtain h | h | h := h <;> simp [h]

theorem doorbellStep_of_no_qdesc {p q : Nat} {value : BitVec 32} (h : s.serving = true ∧ s.ctxActive p = true ∧ q < 64)
    (hd : s.qdesc p q = none) : doorbellStep p q value s = (s.rang p q value).dberr p q := by
  rw [← s.qdesc_rang p q value, State.rang] at hd
  unfold doorbellStep
  rw [if_neg (by simp [h])]
  dsimp only
  rw [hd]
  rfl

theorem doorbellStep_of_qdesc {p q : Nat} {value : BitVec 32} {d : QDesc} (h : s.serving = true ∧ s.ctxActive p = true ∧ q < 64)
    (hd : s.qdesc p q = some d) :
    doorbellStep p q value s =
      if value.toNat = d.wridx then s.noticed p q value d.held
      else if d.en && d.ok && rung d value.toNat then
        (((s.belled p q value d.held).putDesc p q 12 4 value.toNat).loadHead p q).pollWaitv p q
      else (s.noticed p q value d.held).dberr p q := by
  rw [← s.qdesc_rang p q value, State.rang] at hd
  unfold doorbellStep
  rw [if_neg (by simp [h])]
  dsimp only
  rw [hd]
  rfl

theorem State.drover_rang (s : State) (p q : Nat) (value : BitVec 32) :
    (s.rang p q value).drover p = { s.drover p with doorbells := (s.drover p).doorbells.put q value } := by
  unfold State.rang
  rw [State.drover_modDrover, if_pos rfl]

theorem State.drover_noticed (s : State) (p q : Nat) (value : BitVec 32) (held : Bool) :
    (s.noticed p q value held).drover p =
      { (s.rang p q value).drover p with
        queues := ((s.rang p q value).drover p).queues.put q { (s.rang p q value).queue p q with held := held } } := by
  unfold State.noticed State.modQueue
  rw [State.drover_modDrover, if_pos rfl]
  rfl

theorem State.doorbell_rang (s : State) (p q : Nat) (value : BitVec 32) :
    Sparse.get 0 ((s.rang p q value).drover p).doorbells q = value := by
  rw [State.drover_rang, Sparse.get_put, if_pos rfl]

theorem State.doorbell_noticed (s : State) (p q : Nat) (value : BitVec 32) (held : Bool) :
    Sparse.get 0 ((s.noticed p q value held).drover p).doorbells q = value := by
  rw [State.drover_noticed]
  exact s.doorbell_rang p q value

theorem State.held_noticed (s : State) (p q : Nat) (value : BitVec 32) (held : Bool) : ((s.noticed p q value held).queue p q).held = held := by
  unfold State.noticed
  rw [State.queue_modQueue]

theorem State.qerr_rang (s : State) (p q : Nat) (value : BitVec 32) : ((s.rang p q value).drover p).qerr = (s.drover p).qerr := by
  rw [State.drover_rang]

theorem State.qerr_noticed (s : State) (p q : Nat) (value : BitVec 32) (held : Bool) :
    ((s.noticed p q value held).drover p).qerr = (s.drover p).qerr := by
  rw [State.drover_noticed]
  exact s.qerr_rang p q value

theorem State.qerr_dberr (s : State) (p q : Nat) : ((s.dberr p q).drover p).qerr = (s.drover p).qerr ||| BitVec.ofNat 64 (2 ^ q) := by
  unfold State.dberr
  rw [State.drover_modDrover, if_pos rfl]

theorem rung_iff (d : QDesc) (w : Nat) :
    rung d w = true ↔ 1 ≤ (w + 2 ^ 32 - d.rdidx) % 2 ^ 32 ∧ (w + 2 ^ 32 - d.rdidx) % 2 ^ 32 ≤ 2 ^ d.logn := by
  unfold rung
  rw [Bool.and_eq_true, decide_eq_true_iff, decide_eq_true_iff]

/-- R60: a doorbell that breaks the rules leaves all but the written value and DBERR. -/
theorem State.wrong_dberr {t : State} {p q : Nat} {value : BitVec 32} (h : s.DroversOnly t)
    (hb : Sparse.get 0 (t.drover p).doorbells q = value) (he : (t.drover p).qerr = (s.drover p).qerr) :
    Sparse.get 0 ((t.dberr p q).drover p).doorbells q = value ∧ (t.dberr p q).mem = s.mem ∧
      ((t.dberr p q).drover p).qerr = (s.drover p).qerr ||| BitVec.ofNat 64 (2 ^ q) := by
  have hl : t.Looked (t.dberr p q) := .dberr
  rw [hl.doorbells, State.qerr_dberr, he, hl.mem]
  exact ⟨hb, h.mem, rfl⟩

/-- R60: a doorbell that keeps the rules gives WRIDX. -/
theorem State.right_doorbell (s : State) (p q : Nat) (value : BitVec 32) (held : Bool) :
    let t := (((s.belled p q value held).putDesc p q 12 4 value.toNat).loadHead p q).pollWaitv p q
    Sparse.get 0 (t.drover p).doorbells q = value ∧ t.mem = (s.putDesc p q 12 4 value.toNat).mem ∧ (t.queue p q).held = held := by
  have hbell := s.looked_belled p q value held
  have hput : (s.belled p q value held).Wrote ((s.belled p q value held).putDesc p q 12 4 value.toNat) := .putDesc
  have hl : ((s.belled p q value held).putDesc p q 12 4 value.toNat).Looked
      ((((s.belled p q value held).putDesc p q 12 4 value.toNat).loadHead p q).pollWaitv p q) := State.Looked.loadHead.trans .pollWaitv
  dsimp only
  refine ⟨?_, ?_, ?_⟩
  · rw [hl.doorbells, hput.drover, hbell.doorbells]
    exact s.doorbell_noticed p q value held
  · rw [hl.mem]
    exact (s.droversOnly_belled p q value held).samePages.putDesc_mem (s.pageReg_belled p q _ value held) _ _ _ _
  · rw [hl.held, hput.queue, hbell.held]
    exact s.held_noticed p q value held

/-! ### The lottery and the decision (R68) -/

/-- R68: the lottery's state is a word of 32 bits, and its steps are shifts of that word. -/
theorem xorshift_eq {lot : Nat} (h : lot < 2 ^ 32) :
    let x := BitVec.ofNat 32 lot
    let a := x ^^^ (x <<< 13)
    let b := a ^^^ (a >>> 17)
    xorshift lot = (b ^^^ (b <<< 5)).toNat := by
  simp only [xorshift, BitVec.toNat_xor, BitVec.toNat_shiftLeft, BitVec.toNat_ushiftRight, BitVec.toNat_ofNat, Nat.mod_eq_of_lt h,
    Nat.shiftLeft_eq, Nat.shiftRight_eq_div_pow]

theorem drawQueue_pair (lot q1 t1 q2 t2 : Nat) (h : t1 + t2 ≠ 0) :
    drawQueue lot [(q1, t1), (q2, t2)] = (if xorshift lot % (t1 + t2) < t1 then some q1 else some q2, xorshift lot) := by
  have hlt : xorshift lot % (t1 + t2) < t1 + t2 := Nat.mod_lt _ (Nat.pos_of_ne_zero h)
  simp only [drawQueue, List.map_cons, List.map_nil, List.foldl_cons, List.foldl_nil, Nat.zero_add, if_neg h, pickTicket, if_pos hlt]

theorem drawQueue_single (lot q t : Nat) : drawQueue lot [(q, t)] = (some q, if t = 0 then lot else xorshift lot) := by
  by_cases h : t = 0
  · simp [drawQueue, h]
  · have hlt : xorshift lot % t < t := Nat.mod_lt _ (Nat.pos_of_ne_zero h)
    simp only [drawQueue, List.map_cons, List.map_nil, List.foldl_cons, List.foldl_nil, Nat.zero_add, if_neg h, pickTicket, if_pos hlt]

theorem dispatchStep_idle {ctx : Nat} (h : s.serving = false ∨ s.ctxActive ctx = false) : dispatchStep ctx s = s := by
  unfold dispatchStep
  rw [if_pos]
  obtain h | h := h <;> simp [h]

theorem State.settleRetired_of_no_slots (h : s.slots = []) (p : Nat) : s.settleRetired p = s := by
  unfold State.settleRetired
  rw [h]
  rfl

theorem State.refitAll_of_none (hs : s.slots = []) (hp : s.parked = []) (p : Nat) : s.refitAll p = s := by
  unfold State.refitAll
  rw [hs, hp]
  rfl

theorem State.settlePipe_of_no_pipes (h : s.pipes = []) (k : Nat) : s.settlePipe k = s := by
  have hlive : (s.pipe k).live = false := by
    unfold State.pipe
    rw [h]
    rfl
  unfold State.settlePipe
  rw [if_pos (by simp [hlive])]

theorem State.endDiverged_of_no_gangs (h : s.gangs = []) (p : Nat) : s.endDiverged p = s := by
  unfold State.endDiverged
  rw [h]
  rfl

theorem State.applyPriority_of_off {p : Nat} (h : (s.drover p).prepol = 0) : s.applyPriority p = s := by
  unfold State.applyPriority
  rw [if_pos (by simp [h])]

theorem State.loadHead_of_loaded {p q : Nat} (h : (s.head p q).loaded = true) : s.loadHead p q = s := by
  unfold State.loadHead
  rw [if_pos (by simp [h])]

theorem State.loadHead_of_no_qdesc {p q : Nat} (h : s.qdesc p q = none) : s.loadHead p q = s := by
  unfold State.loadHead
  rw [h]
  exact ite_self _

/-- Nothing is read where a queue is off or empty, or has no descriptor. -/
theorem State.loadHead_of_idle {p q : Nat} (h : (s.qdesc p q).all (fun d => !d.en || d.wridx == d.rdidx) = true) : s.loadHead p q = s := by
  cases hd : s.qdesc p q with
  | none => exact State.loadHead_of_no_qdesc hd
  | some d =>
    rw [hd, Option.all_some] at h
    unfold State.loadHead
    rw [hd]
    dsimp only
    rw [h, Bool.true_or, if_pos rfl, ite_self]

/-- A context whose only head is `h`, of queue `q`. -/
theorem State.head_of_single {p q : Nat} {h : QHead} (hh : (s.drover p).heads = [(q, h)]) (j : Nat) :
    s.head p j = if j = q then h else {} := by
  unfold State.head
  rw [hh]
  rfl

/-- A head of another kind than LAUNCH and PIPE places nothing while it waits. -/
theorem QHead.places_of_kind {h : QHead} (hp : h.phase = 0) (h1 : pkKind h.packet ≠ 1) (h2 : pkKind h.packet ≠ 2) : h.places = false := by
  simp [QHead.places, hp, h1, h2]

theorem State.needsSlots_of_not_places {p : Nat} {h : QHead} (hp : h.places = false) : s.needsSlots p h = false := by
  rw [State.needsSlots, hp, Bool.false_and]

theorem State.noteReady_of_single {p q : Nat} {h : QHead} (hh : (s.drover p).heads = [(q, h)]) (hp : h.places = false) : s.noteReady p = s := by
  unfold State.noteReady
  rw [hh, List.foldl_cons, List.foldl_nil, hp]
  exact if_neg (by simp)

theorem State.starting_of_single {p q : Nat} {h : QHead} (hh : (s.drover p).heads = [(q, h)]) (hp : h.phase = 0) : s.starting p = false := by
  simp [State.starting, hh, hp]

/-- A FENCE that waits for its own queue alone is ready as soon as its queue dispatches (R62). -/
theorem State.queueReady_fence {p q : Nat} (hl : (s.head p q).loaded = true) (hp : (s.head p q).phase = 0)
    (hk : pkKind (s.head p q).packet = 5) (hb : bitAt (s.head p q).packet.toNat 32 = false) (ho : s.queueOpen p q = true) :
    s.queueReady p q = true := by
  have hn : s.needsSlots p (s.head p q) = false :=
    State.needsSlots_of_not_places (QHead.places_of_kind hp (by simp [hk]) (by simp [hk]))
  simp [State.queueReady, hl, hp, hk, hb, ho, hn]

theorem State.queueReady_of_not_loaded {p q : Nat} (h : (s.head p q).loaded = false) : s.queueReady p q = false := by
  simp [State.queueReady, h]

theorem filter_range_eq_single {f : Nat → Bool} {n q : Nat} (hq : q < n) (h : ∀ j < n, f j = true ↔ j = q) :
    (List.range n).filter f = [q] := by
  rw [List.filter_congr (q := fun j => j == q) fun j hj => by rw [Bool.eq_iff_iff, h j (List.mem_range.1 hj), beq_iff_eq]]
  rw [List.filter_beq, List.count_eq_one_of_mem List.nodup_range (List.mem_range.2 hq)]
  rfl

/-- The lottery has a new state. -/
def State.withLot (s : State) (p lot : Nat) : State := s.modDrover p (fun d => { d with lotstate := lot })

@[simp] theorem State.head_withLot (s : State) (p lot p' q' : Nat) : (s.withLot p lot).head p' q' = s.head p' q' :=
  s.head_modDrover _ _ _ _ fun _ => rfl

/-- Only one queue is ready: it has the turn, and the lottery moves where it has tickets. -/
theorem State.takeDecision_of_single {p q : Nat} {d : QDesc} (hst : s.starting p = false)
    (hr : (List.range 64).filter (s.queueReady p) = [q]) (hd : s.qdesc p q = some d) (hp : (s.head p q).phase = 0)
    (hok : packetOk (s.foldsOf p).length (s.head p q).packet = true) :
    s.takeDecision p = (s.withLot p (if d.tickets = 0 then (s.drover p).lotstate else xorshift (s.drover p).lotstate)).setHead p q
      { s.head p q with phase := 1 } := by
  have hh := s.head_withLot p (if d.tickets = 0 then (s.drover p).lotstate else xorshift (s.drover p).lotstate) p q
  unfold State.takeDecision
  rw [hst, hr, List.map_singleton, hd, Option.map_some, Option.getD_some, if_neg Bool.false_ne_true]
  dsimp only
  rw [drawQueue_single]
  dsimp only
  unfold State.withLot at hh ⊢
  rw [hh, hp, hok, if_neg (by decide), if_pos rfl]

/-- The Drover finds nothing to do before its decision. -/
theorem dispatchStep_eq_takeDecision {ctx q : Nat} {h : QHead} (hs : s.serving = true) (hc : s.ctxActive ctx = true) (hslots : s.slots = [])
    (hparked : s.parked = []) (hpipes : s.pipes = []) (hgangs : s.gangs = []) (hpre : (s.drover ctx).prepol = 0)
    (hheads : (s.drover ctx).heads = [(q, h)]) (hload : h.loaded = true) (hplaces : h.places = false)
    (hidle : ∀ j < 64, j ≠ q → (s.qdesc ctx j).all (fun d => !d.en || d.wridx == d.rdidx) = true) :
    dispatchStep ctx s = s.takeDecision ctx := by
  have hpipe : (List.range 4).foldl (fun (s : State) i => s.settlePipe (ctx * 4 + i)) s = s :=
    foldl_of_fixed fun i _ => State.settlePipe_of_no_pipes hpipes _
  have hloads : (List.range 64).foldl (fun (s : State) q => s.loadHead ctx q) s = s := by
    refine foldl_of_fixed fun j hj => ?_
    by_cases hjq : j = q
    · exact State.loadHead_of_loaded (by rw [State.head_of_single hheads, if_pos hjq, hload])
    · exact State.loadHead_of_idle (hidle j (List.mem_range.1 hj) hjq)
  unfold dispatchStep
  rw [if_neg (by simp [hs, hc])]
  dsimp only
  rw [State.settleRetired_of_no_slots hslots, State.refitAll_of_none hslots hparked, hpipe, State.endDiverged_of_no_gangs hgangs, hloads,
    State.applyPriority_of_off hpre, State.noteReady_of_single hheads hplaces]

theorem dispatchStep_of_fence {ctx q : Nat} {h : QHead} {d : QDesc} (hs : s.serving = true) (hc : s.ctxActive ctx = true) (hq : q < 64)
    (hslots : s.slots = []) (hparked : s.parked = []) (hpipes : s.pipes = []) (hgangs : s.gangs = []) (hpre : (s.drover ctx).prepol = 0)
    (hheads : (s.drover ctx).heads = [(q, h)]) (hd : s.qdesc ctx q = some d)
    (hidle : ∀ j < 64, j ≠ q → (s.qdesc ctx j).all (fun d => !d.en || d.wridx == d.rdidx) = true)
    (hload : h.loaded = true) (hphase : h.phase = 0) (hkind : h.packet.toNat % 2 ^ 8 = 5) (hbit : h.packet.getLsbD 32 = false)
    (hok : packetOk (s.foldsOf ctx).length h.packet = true) (hopen : s.queueOpen ctx q = true) :
    dispatchStep ctx s =
      (s.withLot ctx (if d.tickets = 0 then (s.drover ctx).lotstate else xorshift (s.drover ctx).lotstate)).setHead ctx q
        { h with phase := 1 } := by
  have hk : pkKind h.packet = 5 := (fld_zero _ _).trans hkind
  have hplaces : h.places = false := QHead.places_of_kind hphase (by simp [hk]) (by simp [hk])
  have hhead : s.head ctx q = h := by rw [State.head_of_single hheads, if_pos rfl]
  have hready : (List.range 64).filter (s.queueReady ctx) = [q] := by
    refine filter_range_eq_single hq fun j _ => ⟨fun hj => ?_, fun hj => ?_⟩
    · by_contra hne
      rw [State.queueReady_of_not_loaded (by rw [State.head_of_single hheads, if_neg hne])] at hj
      cases hj
    · subst hj
      exact State.queueReady_fence (by rw [hhead, hload]) (by rw [hhead, hphase]) (by rw [hhead, hk]) (by rw [hhead, bitAt_toNat, hbit]) hopen
  rw [dispatchStep_eq_takeDecision hs hc hslots hparked hpipes hgangs hpre hheads hload hplaces hidle,
    State.takeDecision_of_single (State.starting_of_single hheads hphase) hready hd (by rw [hhead, hphase]) (by rw [hhead, hok]), hhead]

/-! ### Stopping a gang (R366, R388, R389) -/

@[simp] theorem State.gang_signalStop (s : State) (p q lid : Nat) (stopper : Option Nat) (hold : Bool) :
    (s.signalStop p q stopper hold).gang lid = s.gang lid := rfl

/-- R366: a slot of the gang that is stopped. -/
def Slot.stoppedWith (lid : Nat) (l : Slot) : Slot := if l.live && l.lid == lid then { l with stopping := true } else l

theorem Slot.stopping_stoppedWith (lid : Nat) (l : Slot) : (l.stoppedWith lid).stopping = (l.stopping || (l.live && l.lid == lid)) := by
  unfold Slot.stoppedWith
  split
  next h => rw [h, Bool.or_true]
  next h => rw [Bool.eq_false_iff.2 h, Bool.or_false]

/-- The slots of the gang that runs from the queue stop, and no other slot changes. -/
theorem State.slot_signalStop (s : State) (p q key : Nat) (stopper : Option Nat) (hold : Bool) :
    (s.signalStop p q stopper hold).slot key = (s.slot key).stoppedWith (s.head p q).lid :=
  Sparse.get_map ({} : Slot) (fun _ => Slot.stoppedWith (s.head p q).lid) (fun _ => rfl) s.slots key

theorem State.stopping_signalStop (s : State) (p q key : Nat) (stopper : Option Nat) (hold : Bool) :
    ((s.signalStop p q stopper hold).slot key).stopping =
      ((s.slot key).stopping || ((s.slot key).live && (s.slot key).lid == (s.head p q).lid)) := by
  rw [State.slot_signalStop, Slot.stopping_stoppedWith]

theorem State.head_signalStop (s : State) (p q p' q' : Nat) (stopper : Option Nat) (hold : Bool) :
    (s.signalStop p q stopper hold).head p' q' =
      if p' = p ∧ q' = q then { s.head p q with phase := 4, stopper := stopper, holding := hold } else s.head p' q' := by
  unfold State.signalStop
  dsimp only
  rw [State.head_modHead]
  rfl

theorem State.releaseStopper_gangs (s : State) (p q : Nat) : (s.releaseStopper p q).gangs = s.gangs := by
  unfold State.releaseStopper
  split
  · exact State.complete_gangs _ _ _ _
  · rfl

theorem State.stopEnds_gangs (s : State) (p q status : Nat) : (s.stopEnds p q status).gangs = s.gangs :=
  (State.complete_gangs _ _ _ _).trans (State.releaseStopper_gangs _ _ _)

theorem State.complete_foldl_gangs (s : State) (p status : Nat) (l : List Nat) :
    (l.foldl (fun (s : State) w => s.complete p w status) s).gangs = s.gangs :=
  List.foldlRecOn (motive := fun (t : State) => t.gangs = s.gangs) l _ rfl fun _ h _ _ => (State.complete_gangs _ _ _ _).trans h

theorem State.gang_of_dropped {m : Sparse Gang} {lid : Nat} (h : s.gangs = Sparse.drop m lid) : s.gang lid = {} := by
  unfold State.gang
  rw [h, Sparse.get_drop, if_pos rfl]

/-- R388: a gang that has been stopped for good is over. -/
theorem State.gang_gangEnd_early (s : State) (lid e : Nat) : (s.gangEnd lid (some e)).gang lid = {} := by
  unfold State.gangEnd
  dsimp only
  split
  · exact State.gang_of_dropped ((State.complete_foldl_gangs _ _ _ _).trans (State.stopEnds_gangs _ _ _ _))
  · exact State.gang_of_dropped (State.stopEnds_gangs _ _ _ _)
  next h _ => cases h
  next h _ => cases h

theorem State.gang_endKilled (s : State) (lid status : Nat) : (s.endKilled lid status).gang lid = {} := State.gang_gangEnd_early _ _ _

/-- A gang is to end with a status, and its tail request is dropped. -/
def State.condemned (s : State) (lid status : Nat) : State :=
  (s.modHead (s.gang lid).ctx (s.gang lid).queue (fun h => { h with tail := none })).modGang lid (fun g => { g with endWith := some status })

theorem State.gang_condemned (s : State) (lid status : Nat) : (s.condemned lid status).gang lid = { s.gang lid with endWith := some status } := by
  unfold State.condemned
  rw [State.gang_modGang, if_pos rfl]
  rfl

theorem State.head_condemned (s : State) (lid status : Nat) :
    (s.condemned lid status).head (s.gang lid).ctx (s.gang lid).queue = { s.head (s.gang lid).ctx (s.gang lid).queue with tail := none } := by
  have h : (s.condemned lid status).head (s.gang lid).ctx (s.gang lid).queue =
      (s.modHead (s.gang lid).ctx (s.gang lid).queue (fun h => { h with tail := none })).head (s.gang lid).ctx (s.gang lid).queue := rfl
  rw [h, State.head_modHead, if_pos ⟨rfl, rfl⟩]

theorem State.slot_condemned (s : State) (lid status key : Nat) : (s.condemned lid status).slot key = s.slot key := rfl

theorem State.killGang_eq (s : State) (lid status : Nat) :
    s.killGang lid status =
      if (s.gang lid).suspended then
        (if s.owesEntries lid then
          (s.condemned lid status).modHead (s.gang lid).ctx (s.gang lid).queue (fun h => { h with phase := 4, reserving := none })
         else (s.condemned lid status).endKilled lid status)
      else if (s.head (s.gang lid).ctx (s.gang lid).queue).phase = 4 then s.condemned lid status
      else (s.condemned lid status).signalStop (s.gang lid).ctx (s.gang lid).queue none false := rfl

/-- R389: a suspended gang that owes nothing is over. -/
theorem State.gang_killGang_suspended {lid status : Nat} (hs : (s.gang lid).suspended = true) (ho : s.owesEntries lid = false) :
    (s.killGang lid status).gang lid = {} := by
  rw [State.killGang_eq, if_pos hs, ho, if_neg Bool.false_ne_true]
  exact State.gang_endKilled _ _ _

/-- R389: one that owes entries waits for them. -/
theorem State.killGang_owing {lid status : Nat} (hs : (s.gang lid).suspended = true) (ho : s.owesEntries lid = true) :
    (s.killGang lid status).gang lid = { s.gang lid with endWith := some status } ∧
      ((s.killGang lid status).head (s.gang lid).ctx (s.gang lid).queue).phase = 4 := by
  rw [State.killGang_eq, if_pos hs, ho, if_pos rfl]
  exact ⟨s.gang_condemned lid status, by rw [State.head_modHead, if_pos ⟨rfl, rfl⟩]⟩

/-- R389: one that runs is signalled to stop, unless it is being stopped already. -/
theorem State.killGang_running {lid status : Nat} (hs : (s.gang lid).suspended = false) :
    let p := (s.gang lid).ctx
    let q := (s.gang lid).queue
    let t := s.killGang lid status
    (t.gang lid).endWith = some status ∧ t.mem = s.mem ∧ (t.head p q).tail = none ∧ (t.head p q).phase = 4 ∧
      ((s.head p q).phase ≠ 4 → ∀ key, (t.slot key).stopping =
        ((s.slot key).stopping || ((s.slot key).live && (s.slot key).lid == (s.head p q).lid))) := by
  have hhead := s.head_condemned lid status
  dsimp only
  rw [State.killGang_eq, hs, if_neg Bool.false_ne_true]
  split
  next h4 =>
    rw [s.gang_condemned, hhead]
    exact ⟨rfl, rfl, rfl, h4, fun hne => absurd h4 hne⟩
  next h4 =>
    rw [State.gang_signalStop, s.gang_condemned, State.head_signalStop, if_pos ⟨rfl, rfl⟩, hhead]
    refine ⟨rfl, rfl, rfl, rfl, fun _ key => ?_⟩
    rw [State.stopping_signalStop, s.slot_condemned, hhead]

/-! ### QERR, LOTSEED, RESERVING, QCLEAR (R58, R60, R69, R369) -/

/-- R60: a queue without a readable descriptor has nothing to read when its error is cleared. -/
theorem qerrClearStep_of_no_qdesc {ctx q : Nat} (hs : s.serving = true) (hq : q < 64) (hd : s.qdesc ctx q = none) :
    qerrClearStep ctx (BitVec.ofNat 64 (2 ^ q)) s = s.modDrover ctx (fun d => { d with qerr := d.qerr &&& ~~~(BitVec.ofNat 64 (2 ^ q)) }) := by
  have hpow : 2 ^ q < 2 ^ 64 := Nat.pow_lt_pow_right (by decide) hq
  have hbits : (List.range 64).filter (bitAt (BitVec.ofNat 64 (2 ^ q)).toNat) = [q] := by
    refine filter_range_eq_single hq fun j _ => ?_
    rw [bitAt_eq_testBit, BitVec.toNat_ofNat, Nat.mod_eq_of_lt hpow, Nat.testBit_two_pow, decide_eq_true_iff]
    exact eq_comm
  have hd' : (s.modDrover ctx (fun d => { d with qerr := d.qerr &&& ~~~(BitVec.ofNat 64 (2 ^ q)) })).qdesc ctx q = none :=
    (State.Looked.qdesc (.modDrover rfl fun _ => rfl) ctx q).trans hd
  unfold qerrClearStep
  rw [hs, if_neg (by decide), hbits]
  exact State.loadHead_of_no_qdesc hd'

theorem lotseedStep_of_serving {ctx : Nat} {value : Word64} (hs : s.serving = true) :
    lotseedStep ctx value s =
      s.modDrover ctx (fun d => { d with lotstate := if value.toNat % 2 ^ 32 = 0 then 0x2545F491 else value.toNat % 2 ^ 32 }) := by
  unfold lotseedStep
  rw [hs, fld_zero]
  rfl

/-- R69: a head that has waited 100 µs is reserving from then on. -/
theorem reservingStep_eq (ctx queue : Nat) (s : State) : let h := s.head ctx queue
    reservingStep ctx queue s = match h.notReady with
      | some t => if h.loaded = true ∧ (h.phase = 0 ∨ h.phase = 7) ∧ h.places = true ∧ h.reserving = none ∧ t + 100000 ≤ s.time then
          s.setHead ctx queue { h with reserving := some (t + 100000) } else s
      | none => s := by
  dsimp only
  unfold reservingStep
  dsimp only
  cases (s.head ctx queue).notReady with
  | none => rfl
  | some t =>
    refine if_congr ?_ rfl rfl
    simp only [Bool.and_eq_true, Bool.or_eq_true, beq_iff_eq, Option.isNone_iff_eq_none, decide_eq_true_iff, and_assoc]

/-- R369: what QCLEAR does to a core whose bit is set or not. -/
def Core.qcleared (bit : Bool) (c : Core) : Core :=
  if bit && c.quarantined && c.matrix.unretired.isEmpty then { c with quarantined := false } else c

theorem Core.qcleared_qcleared (bit : Bool) (c : Core) : (c.qcleared bit).qcleared bit = c.qcleared bit := by
  unfold Core.qcleared
  split <;> simp_all

theorem Core.quarantined_qcleared (bit : Bool) (c : Core) :
    (c.qcleared bit).quarantined = (c.quarantined && !(bit && c.matrix.unretired.isEmpty)) := by
  unfold Core.qcleared
  split
  next h =>
    obtain ⟨⟨hb, -⟩, he⟩ : (bit = true ∧ c.quarantined = true) ∧ c.matrix.unretired.isEmpty = true := by simpa using h
    rw [hb, he, Bool.and_true, Bool.not_true, Bool.and_false]
  next h =>
    cases hq : c.quarantined with
    | false => rfl
    | true =>
      rw [hq, Bool.and_true] at h
      rw [Bool.eq_false_iff.2 h]
      rfl

/-- QCLEAR's part for one core of the Fold. -/
def State.qclearOne (fold : Nat) (value : Word64) (s : State) (i : Nat) : State :=
  if bitAt value.toNat i && (s.core (fold * 16 + i)).quarantined && (s.engine (fold * 16 + i) .matrix).unretired.isEmpty then
    s.modCore (fold * 16 + i) (fun x => { x with quarantined := false })
  else s

theorem qclearStep_of_serving {fold : Nat} {value : Word64} (hs : s.serving = true) :
    qclearStep fold value s = (List.range 16).foldl (State.qclearOne fold value) s := by
  unfold qclearStep
  rw [hs]
  rfl

theorem State.core_qclearOne (fold : Nat) (value : Word64) (s : State) (i j : Nat) :
    (s.qclearOne fold value i).core (fold * 16 + j) =
      if j = i then (s.core (fold * 16 + j)).qcleared (value.getLsbD j) else s.core (fold * 16 + j) := by
  unfold State.qclearOne Core.qcleared
  rw [bitAt_toNat]
  by_cases hj : j = i
  · subst hj
    rw [if_pos rfl]
    split
    next h => exact (State.core_modCore _ _ _ _).trans ((if_pos rfl).trans (if_pos h).symm)
    next h => exact (if_neg h).symm
  · rw [if_neg hj]
    split
    · rw [State.core_modCore, if_neg (by omega)]
    · rfl

theorem State.core_foldl_qclearOne (fold : Nat) (value : Word64) (l : List Nat) (s : State) (j : Nat) :
    (l.foldl (State.qclearOne fold value) s).core (fold * 16 + j) =
      if j ∈ l then (s.core (fold * 16 + j)).qcleared (value.getLsbD j) else s.core (fold * 16 + j) := by
  induction l generalizing s with
  | nil => rfl
  | cons i l ih =>
    rw [List.foldl_cons, ih, State.core_qclearOne]
    by_cases hi : j = i
    · simp [hi, Core.qcleared_qcleared]
    · simp [hi]

theorem State.mem_foldl_qclearOne (fold : Nat) (value : Word64) (l : List Nat) (s : State) :
    (l.foldl (State.qclearOne fold value) s).mem = s.mem := by
  refine List.foldlRecOn (motive := fun (t : State) => t.mem = s.mem) l _ rfl fun t h i _ => ?_
  unfold State.qclearOne
  split
  · exact h
  · exact h

/-! ### Register writes (R58, R296, R378, R396) -/

theorem registerWriteStep_byvon {off : Nat} {value : Word64} (h : s.device.off = false) (ho : off < 0x1000) :
    registerWriteStep (0x80000 + off) value s = s.byvonWrite off value.toNat := by
  unfold registerWriteStep
  dsimp only
  rw [if_pos (by omega), h, Nat.add_sub_cancel_left]
  rfl

theorem registerWriteStep_device {off : Nat} {value : Word64} (h : s.serving = true) (ho : off < 0x1000) :
    registerWriteStep off value s = s.deviceWrite off value.toNat := by
  unfold registerWriteStep
  dsimp only
  rw [if_neg (by omega), h, if_neg (by decide), if_pos ho]

theorem registerWriteStep_drover {j off : Nat} {value : Word64} (h : s.serving = true) (hj : j < 8) (ho : off < 0x1000) :
    registerWriteStep (0x100000 + 0x1000 * j + off) value s = s.droverWrite j off value.toNat := by
  unfold registerWriteStep
  dsimp only
  rw [if_neg (by omega), h, if_neg (by decide), if_neg (by omega), if_pos (by omega), show (0x100000 + 0x1000 * j + off - 0x100000) / 0x1000 = j by omega,
    show (0x100000 + 0x1000 * j + off) % 0x1000 = off by omega]

theorem registerWriteStep_fold {f off : Nat} {value : Word64} (h : s.serving = true) (hf : f < 128) (ho : off < 0x1000) :
    registerWriteStep (0x200000 + 0x1000 * f + off) value s = s.foldWrite f off value.toNat := by
  unfold registerWriteStep
  dsimp only
  rw [if_neg (by omega), h, if_neg (by decide), if_neg (by omega), if_neg (by omega), if_pos (by omega),
    show (0x200000 + 0x1000 * f + off - 0x200000) / 0x1000 = f by omega, show (0x200000 + 0x1000 * f + off) % 0x1000 = off by omega]

/-- A register of a Drover page holds what is stored in it. -/
theorem State.pageReg_set (s : State) (j off v : Nat) :
    (s.modDrover j (fun d => { d with regs := Sparse.set 0 d.regs off (BitVec.ofNat 64 v) })).pageReg j off = v % 2 ^ 64 := by
  unfold State.pageReg
  rw [State.drover_modDrover, if_pos rfl, Sparse.get_set, if_pos rfl, BitVec.toNat_ofNat]

/-- The write of a plain register without a rule of its own stores the bits of its mask. -/
theorem State.droverWrite_plain {j off x : Nat} (h : off ∉ [0x218, 0x298, 0x258, 0x290, 0x2C8]) (hm : droverMask off ≠ 0) :
    s.droverWrite j off x =
      s.modDrover j (fun d => { d with regs := Sparse.set 0 d.regs off (BitVec.ofNat 64 (x &&& droverMask off)) }) := by
  simp only [List.mem_cons, List.not_mem_nil, or_false, not_or] at h
  obtain ⟨h1, h2, h3, h4, h5⟩ := h
  unfold State.droverWrite
  dsimp only
  rw [if_neg h1, if_neg h2, if_neg h3, if_neg (by simp [h4, h5]), if_neg hm]

theorem State.droverWrite_plain_spec {j off x : Nat} (h : off ∉ [0x218, 0x298, 0x258, 0x290, 0x2C8]) (hm : droverMask off ≠ 0) (hx : x < 2 ^ 64) :
    (s.droverWrite j off x).mem = s.mem ∧ (s.droverWrite j off x).pageReg j off = x &&& droverMask off := by
  rw [State.droverWrite_plain h hm, State.pageReg_set, Nat.mod_eq_of_lt (Nat.and_le_left.trans_lt hx)]
  exact ⟨rfl, rfl⟩

/-- The registers that hold an address of 56 bits. -/
theorem droverMask_address : ∀ off ∈ [0x200, 0x220, 0x240, 0x268, 0x2A0, 0x2A8, 0x2E8, 0x2F0, 0x300, 0x4F8],
    off ∉ [0x218, 0x298, 0x258, 0x290, 0x2C8] ∧ droverMask off = 2 ^ 56 - 1 ∧ off < 0x1000 := by decide

/-- TVEC of a page: its two low bits are 0. -/
theorem and_mask_56_4 (x : Nat) : x &&& (2 ^ 56 - 4) = x % 2 ^ 56 / 4 * 4 := by
  have hmask : 2 ^ 56 - 4 = (2 ^ 54 - 1) <<< 2 := by decide
  have hshift : x % 2 ^ 56 / 4 * 4 = ((x % 2 ^ 56) >>> 2) <<< 2 := by rw [Nat.shiftLeft_eq, Nat.shiftRight_eq_div_pow]
  rw [hmask, hshift]
  refine Nat.eq_of_testBit_eq fun i => ?_
  rw [Nat.testBit_and, Nat.testBit_shiftLeft, Nat.testBit_shiftLeft, Nat.testBit_shiftRight, Nat.testBit_two_pow_sub_one, Nat.testBit_mod_two_pow]
  by_cases h : 2 ≤ i
  · rw [Nat.add_sub_cancel' h, decide_eq_true h, Bool.true_and, Bool.true_and, Bool.and_comm]
    exact congrArg (· && _) (decide_eq_decide.2 (by omega))
  · rw [decide_eq_false h, Bool.false_and, Bool.false_and, Bool.and_false]

theorem State.setThrottled_spec (s : State) (on : Bool) :
    (s.setThrottled on).mem = s.mem ∧ (s.setThrottled on).device.pwrcap = s.device.pwrcap := by
  unfold State.setThrottled State.raiseMsix
  split
  · exact ⟨rfl, rfl⟩
  · split
    · exact ⟨rfl, rfl⟩
    · exact ⟨rfl, rfl⟩

theorem State.throttle_spec (s : State) : s.throttle.mem = s.mem ∧ s.throttle.device.pwrcap = s.device.pwrcap := by
  unfold State.throttle
  split
  · exact s.setThrottled_spec true
  · exact ⟨rfl, rfl⟩

/-- R396: CAP takes 600 to 1,500 W. -/
theorem State.deviceWrite_cap (s : State) (x : Nat) :
    (s.deviceWrite 0x020 x).mem = s.mem ∧
      (s.deviceWrite 0x020 x).device.pwrcap = if 600 ≤ x % 2 ^ 16 ∧ x % 2 ^ 16 ≤ 1500 then x % 2 ^ 16 else s.device.pwrcap := by
  have e : s.deviceWrite 0x020 x = if 600 ≤ fld x 0 16 ∧ fld x 0 16 ≤ 1500 then
      ({ s with device := { s.device with pwrcap := fld x 0 16 } } : State).throttle else s := rfl
  rw [e, fld_zero]
  by_cases h : 600 ≤ x % 2 ^ 16 ∧ x % 2 ^ 16 ≤ 1500
  · rw [if_pos h, if_pos h]
    exact State.throttle_spec _
  · rw [if_neg h, if_neg h]
    exact ⟨rfl, rfl⟩

/-- R378: a command enters an idle mailbox, and else BUSY is noted. -/
theorem State.byvonWrite_command (s : State) (value : Word64) : let x := value.toNat; let t := s.byvonWrite 0 x
    t.mem = s.mem ∧ (s.byvon.done = true → t.byvon.done = false ∧ t.byvon.op = x % 2 ^ 8 ∧ t.byvon.arg = x / 2 ^ 8) ∧
      (s.byvon.done = false → t.byvon = { s.byvon with busy := true }) := by
  have harg : fld value.toNat 8 56 = value.toNat / 2 ^ 8 := Nat.mod_eq_of_lt (by have := value.isLt; omega)
  dsimp only
  unfold State.byvonWrite
  dsimp only
  refine ⟨rfl, fun h => ?_, fun h => ?_⟩
  · rw [if_pos h]
    exact ⟨rfl, fld_zero _ _, harg⟩
  · rw [h]
    rfl

/-- R82: PREPOL takes 0 and 1. -/
theorem State.droverWrite_prepol (s : State) (j x : Nat) :
    (s.droverWrite j 0x218 x).mem = s.mem ∧ ((s.droverWrite j 0x218 x).drover j).prepol = if x % 4 ≤ 1 then x % 4 else (s.drover j).prepol := by
  unfold State.droverWrite
  dsimp only
  rw [if_pos rfl, fld_zero]
  split
  next h => exact ⟨rfl, by rw [State.drover_modDrover, if_pos rfl]; exact (if_pos h).symm⟩
  next h => exact ⟨rfl, (if_neg h).symm⟩

/-- R299: RTIMEOUT takes no 0. -/
theorem State.foldWrite_rtimeout (s : State) (f x : Nat) :
    (s.foldWrite f 0x100 x).mem = s.mem ∧ ((s.foldWrite f 0x100 x).fold f).rtimeout = if x % 2 ^ 16 = 0 then (s.fold f).rtimeout else x % 2 ^ 16 := by
  unfold State.foldWrite
  dsimp only
  rw [if_neg (by decide), if_neg (by decide), if_pos rfl, fld_zero]
  split
  · exact ⟨rfl, rfl⟩
  · exact ⟨rfl, by rw [State.fold_modFold, if_pos rfl]⟩

/-- R389: ABORT acts on the live gang of the queue that it names. -/
theorem abortWStep_of_serving (ctx : Nat) (value : Word64) (hs : s.serving = true) :
    let q := value.toNat % 2 ^ 6
    let lid := (s.head ctx q).lid
    abortWStep ctx value s =
      if s.ctxActive ctx = true ∧ value.getLsbD 6 = true ∧ (s.gang lid).live = true ∧ (s.gang lid).queue = q ∧ (s.gang lid).ctx = ctx then
        s.killGang lid ABORTED
      else s := by
  dsimp only
  unfold abortWStep
  rw [fld_zero, bitAt_toNat, hs]
  refine if_congr ?_ rfl rfl
  simp only [Bool.and_eq_true, beq_iff_eq, and_assoc, true_and]

/-- Settles O54: each clause reads its fields off the equation of its event. -/
theorem droverQueues : Obligations.DroverQueues := by
  unfold Obligations.DroverQueues
  refine ⟨?completion, ?doorbell, ?lottery, ?dispatch, ?dispatchIdle, ?qerr, ?lotseedAbort, ?reserving, ?qclear, ?registers⟩
  case completion =>
    intro p q st d m s hd h hm
    obtain ⟨hphase, hlid⟩ := State.head_complete hd st
    exact ⟨State.complete_mem hd hm, hphase, hlid, State.complete_msix hd st⟩
  case doorbell =>
    refine fun ctx queue value s => ⟨fun h => congrArg Host.Outcome.next (doorbellStep_ignored h), fun hs hp hq => ⟨fun hd => ?_, fun d hd => ?_⟩⟩
    · obtain ⟨hb, hm, he⟩ := State.wrong_dberr .modDrover (s.doorbell_rang ctx queue value) (s.qerr_rang ctx queue value)
      exact ⟨_, ⟨congrArg Host.Outcome.next (doorbellStep_of_no_qdesc ⟨hs, hp, hq⟩ hd), hb⟩, hm, he⟩
    · have hstep := doorbellStep_of_qdesc (value := value) ⟨hs, hp, hq⟩ hd
      refine ⟨fun hw _ _ => ?_, fun hw hbad => ?_, fun hw hgood => ?_⟩
      · rw [if_pos hw] at hstep
        exact ⟨_, ⟨congrArg Host.Outcome.next hstep, s.doorbell_noticed _ _ _ _⟩, (s.droversOnly_noticed _ _ _ _).mem, s.qerr_noticed _ _ _ _,
          s.held_noticed _ _ _ _⟩
      · rw [if_neg hw, if_neg (by rwa [Bool.and_eq_true, Bool.and_eq_true, rung_iff, and_assoc])] at hstep
        obtain ⟨hb, hm, he⟩ := State.wrong_dberr (s.droversOnly_noticed ctx queue value d.held) (s.doorbell_noticed ctx queue value d.held)
          (s.qerr_noticed ctx queue value d.held)
        exact ⟨_, ⟨congrArg Host.Outcome.next hstep, hb⟩, hm, he⟩
      · rw [if_neg hw, if_pos (by rwa [Bool.and_eq_true, Bool.and_eq_true, rung_iff, and_assoc])] at hstep
        obtain ⟨hb, hm, hheld⟩ := s.right_doorbell ctx queue value d.held
        exact ⟨_, ⟨congrArg Host.Outcome.next hstep, hb⟩, hm, hheld⟩
  case lottery =>
    intro lot q1 t1 q2 t2 x a b n hlot ht
    rw [drawQueue_pair _ _ _ _ _ ht, xorshift_eq hlot]
  case dispatch =>
    intro ctx q h d s hs hc hq hslots hparked hpipes hgangs hpre hheads hd hidle hload hphase hkind hbit hok hopen
    refine ⟨_, congrArg Host.Outcome.next
      (dispatchStep_of_fence hs hc hq hslots hparked hpipes hgangs hpre hheads hd hidle hload hphase hkind hbit hok hopen), ?_, rfl, fun ht => ?_⟩
    · rw [State.head_setHead, if_pos ⟨rfl, rfl⟩]
    · rw [if_pos ht, State.setHead, State.withLot]
      simp only [State.drover_modDrover, if_true]
  case dispatchIdle => exact fun ctx s h => congrArg Host.Outcome.next (dispatchStep_idle h)
  case qerr =>
    refine fun ctx q s hs hq hd => ⟨_, congrArg Host.Outcome.next (qerrClearStep_of_no_qdesc hs hq hd), rfl, ?_⟩
    rw [State.drover_modDrover, if_pos rfl]
  case lotseedAbort =>
    intro ctx value s hs
    refine ⟨congrArg Host.Outcome.next (lotseedStep_of_serving hs), fun haims => ?_, fun haims => ?_⟩
    · exact congrArg Host.Outcome.next ((abortWStep_of_serving ctx value hs).trans (if_neg haims))
    · have hstep := (abortWStep_of_serving ctx value hs).trans (if_pos haims)
      obtain ⟨-, -, hlive, hqueue, hctx⟩ := haims
      refine ⟨_, congrArg Host.Outcome.next hstep, fun hsusp ho => ?_, fun hsusp ho => ?_, fun hrun => ?_⟩
      · rw [State.gang_killGang_suspended hsusp ho]
      · have h := State.killGang_owing (status := ABORTED) hsusp ho
        rw [hqueue, hctx] at h
        obtain ⟨hg, hphase⟩ := h
        rw [hg]
        exact ⟨hlive, rfl, hphase⟩
      · have h := State.killGang_running (status := ABORTED) hrun
        rw [hqueue, hctx] at h
        exact h
  case reserving => exact fun ctx queue s => congrArg Host.Outcome.next (reservingStep_eq ctx queue s)
  case qclear =>
    refine fun fold value s hs => ⟨_, congrArg Host.Outcome.next (qclearStep_of_serving hs), State.mem_foldl_qclearOne _ _ _ _, fun i hi => ?_⟩
    rw [State.core_foldl_qclearOne, if_pos (List.mem_range.2 hi), Core.quarantined_qcleared]
    rfl
  case registers =>
    intro j value s hs ho x writes
    refine ⟨⟨_, congrArg Host.Outcome.next (registerWriteStep_device hs (by decide)), s.deviceWrite_cap _⟩,
      ⟨_, congrArg Host.Outcome.next (registerWriteStep_device hs (by decide)), rfl, fld_zero _ _, rfl⟩,
      ⟨_, congrArg Host.Outcome.next (registerWriteStep_byvon (off := 0x018) ho (by decide)), rfl, fld_zero _ _⟩,
      ⟨_, congrArg Host.Outcome.next (registerWriteStep_byvon (off := 0x000) ho (by decide)), s.byvonWrite_command value⟩,
      fun hj off hoff => ?_, fun hj => ?_, fun hj => ?_, fun hj => ?_⟩
    · obtain ⟨hplain, hmask, hlt⟩ := droverMask_address off hoff
      obtain ⟨hm, hr⟩ := State.droverWrite_plain_spec (s := s) (j := j) hplain (by rw [hmask]; decide) value.isLt
      rw [hmask, Nat.and_two_pow_sub_one_eq_mod] at hr
      exact ⟨_, congrArg Host.Outcome.next (registerWriteStep_drover hs hj hlt), hm, hr⟩
    · obtain ⟨hm, hr⟩ := State.droverWrite_plain_spec (s := s) (j := j) (off := 0x2E0) (by decide) (by decide) value.isLt
      exact ⟨_, congrArg Host.Outcome.next (registerWriteStep_drover hs hj (by decide)), hm, hr.trans (and_mask_56_4 _)⟩
    · exact ⟨_, congrArg Host.Outcome.next (registerWriteStep_drover hs hj (by decide)), s.droverWrite_prepol j _⟩
    · exact ⟨_, congrArg Host.Outcome.next (registerWriteStep_fold hs hj (by decide)), s.foldWrite_rtimeout j _⟩

end Sys2Proof.Machine
end

section
/-! # The kinds of packets (O55)

What placing a gang leaves unchanged, then what the vcore of a gang of one starts with, and then one equation per kind of packet. -/

namespace Sys2Proof.Machine

variable {s t : State}

/-! ### The start of a launch (R28 to R31, R70) -/

/-- `t` is `s` with vcores placed and items started: no Drover changes, and of a gang at most its trace. -/
structure State.Started (s t : State) : Prop where
  drovers : t.drovers = s.drovers
  nextLid : t.nextLid = s.nextLid
  gang : ∀ k, t.gang k = { s.gang k with trace := (t.gang k).trace }

namespace State.Started

variable {α : Type} {u : State}

theorem refl : s.Started s := ⟨rfl, rfl, fun _ => rfl⟩
theorem trans (h1 : s.Started t) (h2 : t.Started u) : s.Started u :=
  ⟨h2.drovers.trans h1.drovers, h2.nextLid.trans h1.nextLid, fun k => by rw [h2.gang k, h1.gang k]⟩
theorem foldl {f : State → α → State} {l : List α} (h : ∀ (t : State) x, t.Started (f t x)) : s.Started (l.foldl f s) :=
  List.foldlRecOn l f refl fun t ht x _ => ht.trans (h t x)
theorem modSlot {k : Nat} {f : Slot → Slot} : s.Started (s.modSlot k f) := ⟨rfl, rfl, fun _ => rfl⟩
theorem modCtx {k : Nat} {f : Ctx → Ctx} : s.Started (s.modCtx k f) := ⟨rfl, rfl, fun _ => rfl⟩
theorem head (h : s.Started t) (p q : Nat) : t.head p q = s.head p q := by
  unfold State.head State.drover
  rw [h.drovers]

theorem wrote (h : s.Wrote t) : s.Started t := by
  have hn : t.nextLid = s.nextLid := by rw [h]
  refine ⟨h.drovers, hn, fun k => ?_⟩
  unfold State.gang
  rw [h.gangs]

/-- Only the trace of a gang is set. -/
theorem setTrace {lid : Nat} {x : Trace} : s.Started (s.setGang lid { s.gang lid with trace := x }) := by
  refine ⟨rfl, rfl, fun k => ?_⟩
  rw [State.gang_setGang]
  split
  · subst_vars
    rfl
  · rfl

theorem traceEvent {lid : Nat} {e : TraceEvent} : s.Started (s.traceEvent lid e) := by
  unfold State.traceEvent
  dsimp only
  split
  · split
    · exact refl
    · split
      · exact setTrace
      · split
        next h =>
          have hw := State.Wrote.walkWrite h
          have hg : ∀ u : State, s.Wrote u → u.gang lid = s.gang lid := fun u hu => by unfold State.gang; rw [hu.gangs]
          rw [← hg _ hw]
          exact (wrote hw).trans setTrace
        · exact setTrace
  · split
    · exact setTrace
    · exact refl

theorem enterItem {key wid : Nat} : s.Started (s.enterItem key wid) := ⟨rfl, rfl, fun _ => rfl⟩

theorem startDueItem {key : Nat} : s.Started (s.startDueItem key) := by
  unfold State.startDueItem
  dsimp only
  split
  · refine .trans ?_ (traceEvent.trans enterItem)
    split
    · exact modSlot
    · exact refl
  · exact refl

theorem startItems {core : Nat} : s.Started (s.startItems core) := foldl fun _ _ => foldl fun _ _ => startDueItem

end State.Started

/-! ### The areas of a slot (R31, R70) -/

theorem State.Wrote.zeroBytes {a n : Nat} : s.Wrote (s.zeroBytes a n) := rfl

theorem State.Wrote.foldl {α : Type} {f : State → α → State} {l : List α} (h : ∀ (t : State) x, t.Wrote (f t x)) : s.Wrote (l.foldl f s) :=
  List.foldlRecOn l f refl fun t ht x _ => ht.trans (h t x)

theorem State.Wrote.clearShares {key : Nat} : s.Wrote (s.clearShares key) := foldl fun _ _ => zeroBytes

/-- Areas are written in memory, and the slot takes its tensor table. -/
theorem State.prepareAreas_eq (s : State) (key : Nat) (g : Prog) (dataAt dataLen : Nat) (tensors : List (Nat × BitVec 256)) :
    ∃ u ts, s.Wrote u ∧ s.prepareAreas key g dataAt dataLen tensors = u.modSlot key (fun l => { l with tensors := ts }) := by
  unfold State.prepareAreas
  dsimp only
  refine ⟨_, _, ?_, rfl⟩
  split
  · split
    · exact .foldl fun _ _ => .zeroBytes
    · exact (State.Wrote.foldl fun _ _ => .zeroBytes).trans .storeBytes
  · exact .foldl fun _ _ => .zeroBytes

theorem State.Wrote.slot {k : Nat} (h : s.Wrote t) : t.slot k = s.slot k := by
  unfold State.slot
  rw [h]
theorem State.Wrote.ctx {k : Nat} (h : s.Wrote t) : t.ctx k = s.ctx k := by
  unfold State.ctx
  rw [h]

/-- One vcore of a launch is placed. -/
def State.placeOne (s : State) (lid : Nat) (g : Gang) (clock : Sparse Nat) (key v : Nat) (r : Prog × Nat × Nat × List (Nat × BitVec 256)) : State :=
  ((s.placeVcore key lid v g r.1 (s.residentAt key) clock).clearShares key).prepareAreas key r.1 r.2.1 r.2.2.1 r.2.2.2

/-- R31: placing a vcore is its placement in the slot, its hart context and memory, but for the tensor table. -/
theorem State.placeOne_eq (s : State) (lid : Nat) (g : Gang) (clock : Sparse Nat) (key v : Nat) (r : Prog × Nat × Nat × List (Nat × BitVec 256)) :
    ∃ u ts, (s.placeVcore key lid v g r.1 (s.residentAt key) clock).Wrote u ∧
      s.placeOne lid g clock key v r = u.modSlot key (fun l => { l with tensors := ts }) := by
  obtain ⟨u, ts, hu, e⟩ := State.prepareAreas_eq ((s.placeVcore key lid v g r.1 (s.residentAt key) clock).clearShares key) key r.1 r.2.1 r.2.2.1 r.2.2.2
  exact ⟨u, ts, State.Wrote.clearShares.trans hu, e⟩

theorem State.Started.placeOne {lid : Nat} {g : Gang} {clock : Sparse Nat} {key v : Nat} {r : Prog × Nat × Nat × List (Nat × BitVec 256)} :
    s.Started (s.placeOne lid g clock key v r) := by
  obtain ⟨u, ts, hu, e⟩ := s.placeOne_eq lid g clock key v r
  rw [e]
  exact ((modSlot.trans modCtx).trans (wrote hu)).trans modSlot

theorem State.placeGang_eq (s : State) (lid : Nat) (places : List (Nat × Nat)) (clock : Sparse Nat)
    (run : Nat → Prog × Nat × Nat × List (Nat × BitVec 256)) :
    s.placeGang lid places clock run =
      (places.zipIdx).foldl (fun (t : State) x => t.placeOne lid (s.gang lid) clock (slotKey x.1.1 x.1.2) x.2 (run x.2)) s := rfl

theorem State.Started.placeGang {lid : Nat} {places : List (Nat × Nat)} {clock : Sparse Nat}
    {run : Nat → Prog × Nat × Nat × List (Nat × BitVec 256)} : s.Started (s.placeGang lid places clock run) := by
  rw [State.placeGang_eq]
  exact foldl fun _ _ => placeOne

/-! ### Items that are due (R30, R81) -/

theorem State.startDueItem_of_not_due {key : Nat} (h : (s.slot key).startDue = false) : s.startDueItem key = s := by
  unfold State.startDueItem
  dsimp only
  rw [h]
  rfl

theorem State.traceEvent_of_level_zero {lid : Nat} (h : (s.gang lid).level = 0) (e : TraceEvent) : s.traceEvent lid e = s := by
  unfold State.traceEvent
  dsimp only
  rw [h]
  rfl

/-- R30: a hart context as an item of a program enters it, with its first registers. -/
def Ctx.entered (c : Ctx) (g : Prog) (regs : Sparse CReg) : Ctx :=
  { c with live := true, pc := BitVec.ofNat 56 g.entry, regBase := BitVec.ofNat 56 g.text
           regLimit := BitVec.ofNat 57 (g.text + 12 * g.textN), allot := g.allot, c := regs, v := [], g := [], sb := []
           q := [], rep := none, hold := 0, yielding := [], blocked := none, waitFrom := none, yielded := false }

theorem State.ctx_enterItem (s : State) (key wid : Nat) :
    (s.enterItem key wid).ctx (hartOfSlot key) =
      (s.ctx (hartOfSlot key)).entered (s.slot key).prog (s.entryRegs (key % 16) (s.slot key).prog) := by
  unfold State.enterItem
  dsimp only
  rw [State.ctx_modCtx, if_pos rfl]
  rfl

/-- What the slot that holds an item keeps when the item starts. -/
structure Slot.SameVcore (l l' : Slot) : Prop where
  live : l'.live = l.live
  lid : l'.lid = l.lid
  vcore : l'.vcore = l.vcore
  prog : l'.prog = l.prog

theorem State.slot_enterItem (s : State) (key wid k : Nat) :
    (k ≠ key → (s.enterItem key wid).slot k = s.slot k) ∧
      (s.slot key).SameVcore ((s.enterItem key wid).slot key) ∧ ((s.enterItem key wid).slot key).startDue = false := by
  unfold State.enterItem
  dsimp only
  rw [State.slot_modCtx, State.slot_modSlot, State.slot_modCtx, State.slot_modSlot, if_pos rfl]
  exact ⟨fun h => if_neg h, ⟨rfl, rfl, rfl, rfl⟩, rfl⟩

/-- R81: at level 0 no trace holds an item that is due back. -/
theorem State.startDueItem_of_due {key : Nat} (hdue : (s.slot key).startDue = true) (hworker : (s.slot key).worker = false)
    (hfrozen : (s.ctx (hartOfSlot key)).frozen = false) (hlevel : (s.gang (s.slot key).lid).level = 0) :
    ∃ (u : State) (wid : Nat), s.startDueItem key = u.enterItem key wid ∧ (∀ k, u.ctx k = s.ctx k) ∧ (∀ k, k ≠ key → u.slot k = s.slot k) ∧
      (s.slot key).SameVcore (u.slot key) := by
  have hmay : (s.gang (s.slot key).lid).mayHave (s.itemEvent key 0) = true := by
    unfold Gang.mayHave
    rw [hlevel]
    rfl
  unfold State.startDueItem
  dsimp only
  rw [hdue, hworker, hfrozen, hmay]
  by_cases hfirst : (s.gang (s.slot key).lid).itemOf (s.slot key).wid.toNat = 0
  · rw [if_pos hfirst, State.traceEvent_of_level_zero (s := s.modSlot key _) hlevel]
    refine ⟨_, _, rfl, fun _ => rfl, fun k hk => ?_, ?_⟩
    · rw [State.slot_modSlot, if_neg hk]
    · rw [State.slot_modSlot, if_pos rfl]
      exact ⟨rfl, rfl, rfl, rfl⟩
  · rw [if_neg hfirst, State.traceEvent_of_level_zero hlevel]
    exact ⟨s, _, rfl, fun _ => rfl, fun _ _ => rfl, ⟨rfl, rfl, rfl, rfl⟩⟩

/-- Where only one slot of a core has an item due, and it can start, the items of the core start with that one. -/
theorem State.startItems_of_single {core j : Nat} (hj : j < 16) (hothers : ∀ n, n ≠ j → (s.slot (slotKey core n)).startDue = false)
    (hkept : ∀ n, n ≠ j → (s.startDueItem (slotKey core j)).slot (slotKey core n) = s.slot (slotKey core n))
    (hstarted : ((s.startDueItem (slotKey core j)).slot (slotKey core j)).startDue = false) :
    s.startItems core = s.startDueItem (slotKey core j) := by
  have hrest : ∀ n ∈ List.range 16, (s.startDueItem (slotKey core j)).startDueItem (slotKey core n) = s.startDueItem (slotKey core j) := by
    intro n _
    refine State.startDueItem_of_not_due ?_
    by_cases hn : n = j
    · rw [hn, hstarted]
    · rw [hkept n hn, hothers n hn]
  have hround : (List.range 16).foldl (fun (s : State) j => s.startDueItem (slotKey core j)) s = s.startDueItem (slotKey core j) :=
    foldl_of_once (f := fun (s : State) j => s.startDueItem (slotKey core j)) (List.mem_range.2 hj)
      (fun n _ hn => State.startDueItem_of_not_due (hothers n hn)) hrest
  have hlater : (List.range 16).foldl (fun (s : State) j => s.startDueItem (slotKey core j)) (s.startDueItem (slotKey core j)) =
      s.startDueItem (slotKey core j) := foldl_of_fixed hrest
  exact foldl_of_first (by decide) (fun _ _ => hround) fun _ _ => hlater

/-! ### LAUNCH (R67, R70) -/

/-- What the vcore of a placed slot is, and that its first item is due (R30, R111). -/
structure State.Due (s : State) (key lid v : Nat) (pr : Prog) (status : Word64) : Prop where
  live : (s.slot key).live = true
  lid : (s.slot key).lid = lid
  vcore : (s.slot key).vcore = v
  prog : (s.slot key).prog = pr
  startDue : (s.slot key).startDue = true
  worker : (s.slot key).worker = false
  frozen : (s.ctx (hartOfSlot key)).frozen = false
  status : (s.ctx (hartOfSlot key)).status = status

/-- STATUS of a vcore that is placed for a gang (R111). -/
def Gang.statusWord (g : Gang) : Word64 := BitVec.ofNat 64 (0x40 + (if g.encl then 2 ^ 27 else 0) + g.level % 4 * 2 ^ 28)

/-- Out of enclave mode, at level 0, only IE is set. -/
theorem Gang.statusWord_plain {g : Gang} (he : g.encl = false) (hl : g.level = 0) : g.statusWord = 0x40 := by
  unfold Gang.statusWord
  rw [he, hl]
  decide

/-- The slot in which a vcore is placed (R388). -/
def State.placedSlot (s : State) (lid v : Nat) (g : Gang) (pr : Prog) (resident : Bool) (clock : Sparse Nat) (l : Slot) : Slot :=
  { l.released with
    live := true, resident := resident, residentSince := s.time, lid := lid, vcore := v, wid := BitVec.ofNat 64 (g.itemWid v 0)
    engcap := BitVec.ofNat 64 s.engPolicy, prog := pr, startDue := true, known := { clock := clock } }

/-- Its hart context. -/
def Gang.placedCtx (g : Gang) (c : Ctx) : Ctx := { c.released with status := g.statusWord }

theorem State.placeVcore_eq (s : State) (key lid v : Nat) (g : Gang) (pr : Prog) (resident : Bool) (clock : Sparse Nat) :
    s.placeVcore key lid v g pr resident clock =
      (s.modSlot key (s.placedSlot lid v g pr resident clock)).modCtx (hartOfSlot key) g.placedCtx := rfl

theorem State.slot_placeVcore (s : State) (key lid v k : Nat) (g : Gang) (pr : Prog) (resident : Bool) (clock : Sparse Nat) :
    (s.placeVcore key lid v g pr resident clock).slot k =
      if k = key then s.placedSlot lid v g pr resident clock (s.slot key) else s.slot k := by
  rw [State.placeVcore_eq, State.slot_modCtx, State.slot_modSlot]

theorem State.ctx_placeVcore (s : State) (key lid v : Nat) (g : Gang) (pr : Prog) (resident : Bool) (clock : Sparse Nat) :
    (s.placeVcore key lid v g pr resident clock).ctx (hartOfSlot key) = g.placedCtx (s.ctx (hartOfSlot key)) := by
  rw [State.placeVcore_eq, State.ctx_modCtx, if_pos rfl, State.ctx_modSlot]

/-- A vcore that has been placed is due, and no other slot has changed. -/
theorem State.placeOne_due (s : State) (lid : Nat) (g : Gang) (clock : Sparse Nat) (key v : Nat) (r : Prog × Nat × Nat × List (Nat × BitVec 256)) :
    (s.placeOne lid g clock key v r).Due key lid v r.1 g.statusWord ∧
      ∀ k, k ≠ key → (s.placeOne lid g clock key v r).slot k = s.slot k := by
  obtain ⟨u, ts, hu, e⟩ := s.placeOne_eq lid g clock key v r
  have hslot (k : Nat) : u.slot k = _ := hu.slot.trans (s.slot_placeVcore key lid v k g r.1 _ clock)
  have hkey : (s.placeOne lid g clock key v r).slot key = { s.placedSlot lid v g r.1 (s.residentAt key) clock (s.slot key) with tensors := ts } := by
    rw [e, State.slot_modSlot, if_pos rfl, hslot, if_pos rfl]
  have hctx : (s.placeOne lid g clock key v r).ctx (hartOfSlot key) = g.placedCtx (s.ctx (hartOfSlot key)) := by
    rw [e, State.ctx_modSlot, hu.ctx, State.ctx_placeVcore]
  refine ⟨⟨congrArg Slot.live hkey, congrArg Slot.lid hkey, congrArg Slot.vcore hkey, congrArg Slot.prog hkey, congrArg Slot.startDue hkey,
    congrArg Slot.worker hkey, congrArg Ctx.frozen hctx, congrArg Ctx.status hctx⟩, fun k hk => ?_⟩
  rw [e, State.slot_modSlot, if_neg hk, hslot, if_neg hk]

/-- R28, R70: the gang of a launch. -/
def State.launchGang (s : State) (p q level : Nat) (h : BitVec 384) (i : Image) (tr : Trace) : Gang :=
  { live := true, ctx := p, queue := q, prog := i.prog (lhEntry h) (lhArgs h) (lhArglen h), span := lhSpan h, stride := lhStride h
    widths := lhWidths h, extents := lhExtents h, vcores := lhGang h
    job := if (s.drover p).enclave then (Sparse.get 0 (s.drover p).regs 0x2D0).toNat else 0, level := level, encl := (s.drover p).enclave
    trace := tr }

/-- The launch has its identity, and its gang is there. -/
def State.launchNamed (s : State) (p q level : Nat) (h : BitVec 384) (i : Image) (tr : Trace) : State :=
  ({ s with nextLid := s.nextLid + 1 }).setGang s.nextLid (s.launchGang p q level h i tr)

theorem State.gang_launchNamed (s : State) (p q level : Nat) (h : BitVec 384) (i : Image) (tr : Trace) :
    (s.launchNamed p q level h i tr).gang s.nextLid = s.launchGang p q level h i tr := (State.gang_setGang _ _ _ _).trans (if_pos rfl)

/-- Its vcores are placed, and their first items are due. -/
def State.launchManned (s : State) (p q level : Nat) (h : BitVec 384) (i : Image) (ps : List (Nat × Nat)) (tr : Trace) : State :=
  (s.launchNamed p q level h i tr).placeGang s.nextLid ps (joinClock (s.queue p q).clock (s.head p q).effects)
    (fun _ => (i.prog (lhEntry h) (lhArgs h) (lhArglen h), (i.at_ + i.dataOff) % 2 ^ 56, i.dataLen, i.tensors))

theorem State.started_launchManned (s : State) (p q level : Nat) (h : BitVec 384) (i : Image) (ps : List (Nat × Nat)) (tr : Trace) :
    (s.launchNamed p q level h i tr).Started (s.launchManned p q level h i ps tr) := .placeGang

/-- Its head runs it. -/
def State.launchPlaced (s : State) (p q level : Nat) (h : BitVec 384) (i : Image) (ps : List (Nat × Nat)) (tr : Trace) : State :=
  (s.launchManned p q level h i ps tr).modHead p q
    (fun x => { x with phase := 2, lid := s.nextLid, level := level, notReady := none, reserving := none })

theorem State.startLaunch_eq (s : State) (p q level : Nat) (h : BitVec 384) (i : Image) (ps : List (Nat × Nat)) (tr : Trace) :
    s.startLaunch p q level h i ps tr =
      (ps.map (·.1)).dedup.foldl (fun (s : State) c => s.startItems c) (s.launchPlaced p q level h i ps tr) := rfl

/-- The gang of a launch whose vcores are placed, but for its trace. -/
theorem State.gang_launchPlaced (s : State) (p q level : Nat) (h : BitVec 384) (i : Image) (ps : List (Nat × Nat)) (tr : Trace) :
    (s.launchPlaced p q level h i ps tr).gang s.nextLid =
      { s.launchGang p q level h i tr with trace := ((s.launchPlaced p q level h i ps tr).gang s.nextLid).trace } := by
  rw [← s.gang_launchNamed p q level h i tr]
  exact (s.started_launchManned p q level h i ps tr).gang s.nextLid

theorem State.level_launchPlaced (s : State) (p q level : Nat) (h : BitVec 384) (i : Image) (ps : List (Nat × Nat)) (tr : Trace) :
    ((s.launchPlaced p q level h i ps tr).gang s.nextLid).level = level := by
  rw [s.gang_launchPlaced]
  rfl

/-- The identity, the gang and the head of a launch that has started. -/
theorem State.startLaunch_spec (s : State) (p q level : Nat) (h : BitVec 384) (i : Image) (ps : List (Nat × Nat)) (tr : Trace) :
    let t := s.startLaunch p q level h i ps tr
    t.nextLid = s.nextLid + 1 ∧ t.gang s.nextLid = { s.launchGang p q level h i tr with trace := (t.gang s.nextLid).trace } ∧
      (t.head p q).phase = 2 ∧ (t.head p q).lid = s.nextLid := by
  have ht : (s.launchPlaced p q level h i ps tr).Started (s.startLaunch p q level h i ps tr) := by
    rw [State.startLaunch_eq]
    exact .foldl fun _ _ => .startItems
  have hhead : (s.launchPlaced p q level h i ps tr).head p q = _ := (State.head_modHead _ _ _ _ _ _).trans (if_pos ⟨rfl, rfl⟩)
  dsimp only
  refine ⟨ht.nextLid.trans (s.started_launchManned p q level h i ps tr).nextLid, ?_, ?_, ?_⟩
  · rw [ht.gang, s.gang_launchPlaced]
  · rw [ht.head, hhead]
  · rw [ht.head, hhead]

theorem hartOfSlot_slotKey {c j : Nat} (hj : j < 16) : hartOfSlot (slotKey c j) = hartKey c j ∧ slotKey c j % 16 = j := by
  unfold hartOfSlot slotKey hartKey
  omega

theorem slotKey_inj {c n j : Nat} (h : slotKey c n = slotKey c j) : n = j := by
  unfold slotKey at h
  omega

/-- A launch of one vcore has placed it, due to start, in its slot, and no other slot has changed. -/
theorem State.launchPlaced_single (s : State) (p q level : Nat) (h : BitVec 384) (i : Image) (c j : Nat) (tr : Trace) :
    (s.launchPlaced p q level h i [(c, j)] tr).Due (slotKey c j) s.nextLid 0 (i.prog (lhEntry h) (lhArgs h) (lhArglen h))
        (s.launchGang p q level h i tr).statusWord ∧
      ∀ k, k ≠ slotKey c j → (s.launchPlaced p q level h i [(c, j)] tr).slot k = s.slot k := by
  rw [← s.gang_launchNamed]
  obtain ⟨hdue, hothers⟩ := State.placeOne_due (s.launchNamed p q level h i tr) s.nextLid ((s.launchNamed p q level h i tr).gang s.nextLid)
    (joinClock (s.queue p q).clock (s.head p q).effects) (slotKey c j) 0
    (i.prog (lhEntry h) (lhArgs h) (lhArglen h), (i.at_ + i.dataOff) % 2 ^ 56, i.dataLen, i.tensors)
  exact ⟨⟨hdue.live, hdue.lid, hdue.vcore, hdue.prog, hdue.startDue, hdue.worker, hdue.frozen, hdue.status⟩, hothers⟩

/-- A vcore that is due at level 0, and alone on its core, starts its first item (R30, R111). -/
theorem State.Due.startItems {c j lid v : Nat} {pr : Prog} {status : Word64} (h : s.Due (slotKey c j) lid v pr status) (hj : j < 16)
    (hlevel : (s.gang lid).level = 0) (hothers : ∀ n, n ≠ j → (s.slot (slotKey c n)).startDue = false) :
    let t := s.startItems c
    let x := t.slot (slotKey c j)
    let y := t.ctx (hartKey c j)
    x.live = true ∧ x.lid = lid ∧ x.vcore = v ∧ x.startDue = false ∧
      ∃ (u : State) (c0 : Ctx), c0.status = status ∧ y = c0.entered pr (u.entryRegs j pr) := by
  obtain ⟨hhart, hmod⟩ := hartOfSlot_slotKey (c := c) hj
  rw [← h.lid] at hlevel
  obtain ⟨u, wid, hstart, huctx, huslot, hsame⟩ := State.startDueItem_of_due h.startDue h.worker h.frozen hlevel
  have hentered := fun k => u.slot_enterItem (slotKey c j) wid k
  obtain ⟨-, hkept, hstarted⟩ := hentered 0
  have hitems : s.startItems c = u.enterItem (slotKey c j) wid := by
    rw [← hstart]
    refine State.startItems_of_single hj hothers (fun n hn => ?_) ?_
    · have hne : slotKey c n ≠ slotKey c j := fun e => hn (slotKey_inj e)
      rw [hstart, (hentered _).1 hne, huslot _ hne]
    · rw [hstart, hstarted]
  dsimp only
  rw [hitems, ← hhart, State.ctx_enterItem, hsame.prog, h.prog, hmod]
  exact ⟨hkept.live.trans (hsame.live.trans h.live), hkept.lid.trans (hsame.lid.trans h.lid), hkept.vcore.trans (hsame.vcore.trans h.vcore), hstarted,
    u, _, (congrArg Ctx.status (huctx _)).trans h.status, rfl⟩

/-- The launch of one vcore at level 0, onto a core on which no other item is due, has started that vcore's first item. -/
theorem State.startLaunch_single (s : State) (p q : Nat) (h : BitVec 384) (i : Image) (c j : Nat) (tr : Trace) (hj : j < 16)
    (hencl : (s.drover p).enclave = false) (hdue : ∀ n, (s.slot (slotKey c n)).startDue = false) :
    let t := s.startLaunch p q 0 h i [(c, j)] tr
    let pr := i.prog (lhEntry h) (lhArgs h) (lhArglen h)
    let x := t.slot (slotKey c j)
    let y := t.ctx (hartKey c j)
    x.live = true ∧ x.lid = s.nextLid ∧ x.vcore = 0 ∧ x.startDue = false ∧ y.live = true ∧ y.pc = BitVec.ofNat 56 pr.entry ∧
      y.regBase = BitVec.ofNat 56 pr.text ∧ y.status = 0x40 ∧ y.allot = i.allot ∧ y.getC 8 = mkCap 0 1 (lhArgs h) (lhArglen h) ∧
      y.getV 0 = 0 ∧ y.getG 1 = 0 := by
  obtain ⟨hplaced, hothers⟩ := s.launchPlaced_single p q 0 h i c j tr
  have hlevel := s.level_launchPlaced p q 0 h i [(c, j)] tr
  have hnone : ∀ n, n ≠ j → ((s.launchPlaced p q 0 h i [(c, j)] tr).slot (slotKey c n)).startDue = false := fun n hn => by
    rw [hothers _ fun e => hn (slotKey_inj e), hdue]
  have hstatus : (s.launchGang p q 0 h i tr).statusWord = 0x40 := Gang.statusWord_plain hencl rfl
  obtain ⟨hlive, hlid, hvcore, hstarted, u, c0, hc0, hy⟩ := hplaced.startItems hj hlevel hnone
  have hone : s.startLaunch p q 0 h i [(c, j)] tr = (s.launchPlaced p q 0 h i [(c, j)] tr).startItems c := by
    rw [State.startLaunch_eq, List.map_singleton, (List.nodup_singleton c).dedup, List.foldl_cons, List.foldl_nil]
  dsimp only
  rw [hone, hy]
  exact ⟨hlive, hlid, hvcore, hstarted, rfl, rfl, rfl, hc0.trans hstatus, rfl, rfl, rfl, rfl⟩

/-! ### The kinds of packets (R64 to R67, R302, R367) -/

theorem launchStep_of_begun {p q : Nat} (h : s.begun p q 1 = true) :
    launchStep p q s =
      if !(s.holders p (s.head p q)).isEmpty then s.waitsAgain p q
      else
        match s.tryLaunch p q (((s.qdesc p q).map (·.level)).getD 0) (packetHeader (s.head p q).packet) with
        | .ok t => t
        | .error (st, t) => t.complete p q st := by
  unfold launchStep
  exact if_pos h

/-- Out of enclave mode nothing is measured (R379). -/
theorem State.tryLaunch_plain {p q level : Nat} {h : BitVec 384} (he : (s.drover p).enclave = false) :
    s.tryLaunch p q level h =
      match s.launchChecks p q level h with
      | .error e => .error (e, s)
      | .ok (i, ps, tr) => .ok (s.startLaunch p q level h i ps tr) := by
  unfold State.tryLaunch State.measured
  rw [he]
  rfl

theorem State.launchChecks_of_bad_form {p q level : Nat} {h : BitVec 384} (hf : lhImage h % 64 ≠ 0 ∨ 6 < lhSpan h ∨ 11 < lhStride h) :
    s.launchChecks p q level h = .error HEADER_FORM := by
  have hbad : (fld h.toNat 63 1 == 0 && fld h.toNat 126 2 == 0 && fld h.toNat 180 12 == 0 && lhImage h % 64 == 0 && representable (lhArglen h) &&
      decide (lhSpan h ≤ 6) && decide (lhStride h ≤ 11)) = false := by
    rw [Bool.eq_false_iff]
    intro hall
    simp only [Bool.and_eq_true, beq_iff_eq, decide_eq_true_iff] at hall
    obtain ⟨⟨⟨⟨_, himage⟩, _⟩, hspan⟩, hstride⟩ := hall
    omega
  unfold State.launchChecks
  rw [hbad]
  rfl

/-- A LAUNCH whose slots are free is refused with the status of its first failed check. -/
theorem launchStep_refused {p q st : Nat} (hb : s.begun p q 1 = true) (he : (s.drover p).enclave = false) (hh : s.holders p (s.head p q) = [])
    (hc : s.launchChecks p q (((s.qdesc p q).map (·.level)).getD 0) (packetHeader (s.head p q).packet) = .error st) :
    launchStep p q s = s.complete p q st := by
  rw [launchStep_of_begun hb, hh, State.tryLaunch_plain he, hc]
  rfl

/-- One that passes them starts. -/
theorem launchStep_started {p q : Nat} {i : Image} {ps : List (Nat × Nat)} {tr : Trace} (hb : s.begun p q 1 = true)
    (he : (s.drover p).enclave = false) (hh : s.holders p (s.head p q) = [])
    (hc : s.launchChecks p q (((s.qdesc p q).map (·.level)).getD 0) (packetHeader (s.head p q).packet) = .ok (i, ps, tr)) :
    launchStep p q s = s.startLaunch p q (((s.qdesc p q).map (·.level)).getD 0) (packetHeader (s.head p q).packet) i ps tr := by
  rw [launchStep_of_begun hb, hh, State.tryLaunch_plain he, hc]
  rfl

theorem launchStep_held {p q : Nat} (hb : s.begun p q 1 = true) (hh : s.holders p (s.head p q) ≠ []) :
    launchStep p q s = s.waitsAgain p q := by
  rw [launchStep_of_begun hb, if_pos (by simp [hh])]

/-! DETLEVEL and FENCE -/

theorem pkKarg_mod (x : BitVec 512) (n : Nat) (hn : n ∣ 2 ^ 32) : pkKarg x % n = x.toNat / 2 ^ 32 % n := Nat.mod_mod_of_dvd _ hn

/-- DETLEVEL has set the level, the trace and the end of the trace area of its queue. -/
def State.levelSet (s : State) (p q : Nat) : State :=
  let x := (s.head p q).packet
  (s.putLevel p q (pkKarg x % 4) (dw x 2)).modQueue p q (fun w => { w with traceEnd := dw x 2 + dw x 3 })

theorem detlevelStep_of_begun {p q : Nat} (h : s.begun p q 4 = true) : detlevelStep p q s = (s.levelSet p q).complete p q 0 := by
  unfold detlevelStep
  rw [h]
  rfl

theorem State.Wrote.putLevel {p q level trace : Nat} : s.Wrote (s.putLevel p q level trace) := by
  unfold State.putLevel
  split
  · exact State.Wrote.putDesc.trans .putDesc
  · exact .refl

theorem State.Wrote.head (h : s.Wrote t) (p q : Nat) : t.head p q = s.head p q := by
  unfold State.head
  rw [h.drover]

/-- A FENCE that waits for other queues takes what their packets have done along. -/
def State.fenced (s : State) (p q : Nat) : State :=
  let all := (s.drover p).queues.foldl (fun c x => joinClock (joinClock c x.2.clock) x.2.effects) []
  if bitAt (s.head p q).packet.toNat 32 then s.modQueue p q (fun x => { x with effects := joinClock x.effects all }) else s

theorem fencePacketStep_of_begun {p q : Nat} (h : s.begun p q 5 = true) : fencePacketStep p q s = (s.fenced p q).complete p q 0 := by
  unfold fencePacketStep
  rw [h]
  rfl

theorem State.fenced_spec (s : State) (p q : Nat) : (s.fenced p q).mem = s.mem ∧ (s.fenced p q).head p q = s.head p q ∧
    ((s.head p q).packet.getLsbD 32 = false → s.fenced p q = s) := by
  unfold State.fenced
  rw [bitAt_toNat]
  dsimp only
  split
  next h => exact ⟨rfl, State.head_modQueue _ _ _ _ _ _, fun h' => absurd h (by rw [h']; decide)⟩
  · exact ⟨rfl, rfl, fun _ => rfl⟩

/-! SIGNAL -/

/-- R66: an event that is a SIGNAL of the head's packet writes its value with a release, or completes with ADDRESS. -/
theorem exec_of_signal {p q : Nat} {add : Bool} {i : Instr} {y : Nat → Nat} {x : BitVec 512} (hx : (s.head p q).packet = x)
    (hy : ∀ m, (if add then m + dw x 3 else dw x 3) = y m) (hi : exec i s = .next (s.signal p q add)) :
    (s.walkNat p (dw x 2) 8 = none → exec i s = .next (s.complete p q 0x30)) ∧
      ∀ m, s.walkNat p (dw x 2) 8 = some m →
        (s.droverRelease p q (dw x 2) (y m % 2 ^ 64) = none → exec i s = .next (s.complete p q 0x30)) ∧
        ∀ t, s.droverRelease p q (dw x 2) (y m % 2 ^ 64) = some t → ∃ z : State, exec i s = .next (z.complete p q 0) ∧ z.mem = t.mem := by
  unfold State.signal at hi
  dsimp only at hi
  rw [hx] at hi
  refine ⟨fun h => ?_, fun m h => ⟨fun hr => ?_, fun t hr => ?_⟩⟩
  · rw [hi, h]
    rfl
  all_goals
    rw [h] at hi
    dsimp only at hi
    rw [hy, hr] at hi
  · exact hi
  · exact ⟨_, hi, State.Looked.pollAll.mem⟩

theorem exec_signalStore_of_begun {p q : Nat} (h : s.begun p q 6 = true) (hb : (s.head p q).packet.getLsbD 32 = false) :
    exec (.signalStore p q) s = .next (s.signal p q false) := by
  have hstep : signalStoreStep p q s = s.signal p q false := by
    unfold signalStoreStep
    rw [h, bitAt_toNat, hb]
    rfl
  exact congrArg Host.Outcome.next hstep

theorem exec_signalAdd_of_begun {p q : Nat} (h : s.begun p q 6 = true) (hb : (s.head p q).packet.getLsbD 32 = true) :
    exec (.signalAdd p q) s = .next (s.signal p q true) := by
  have hstep : signalAddStep p q s = s.signal p q true := by
    unfold signalAddStep
    rw [h, bitAt_toNat, hb]
    rfl
  exact congrArg Host.Outcome.next hstep

/-! WAITV -/

theorem waitvStep_of_begun {p q : Nat} (h : s.begun p q 7 = true) :
    waitvStep p q s = s.complete p q (if (s.head p q).cond = 1 then 0 else if (s.head p q).cond = 2 then 0x30 else 0x2F) := by
  unfold waitvStep
  rw [h, if_pos rfl]
  congr 1
  split
  next h1 => rw [h1]; rfl
  next h2 => rw [h2]; rfl
  next h1 h2 => rw [if_neg h1, if_neg h2]; rfl

/-- A WAITV waits at the head, and its condition has not been decided. -/
def State.waiting (s : State) (p q : Nat) : Prop :=
  (s.head p q).loaded = true ∧ (s.head p q).phase = 0 ∧ pkKind (s.head p q).packet = 7 ∧
    packetOk (s.foldsOf p).length (s.head p q).packet = true ∧ (s.head p q).cond = 0

/-- The comparison of R66, for its four codes. -/
def waitMet (cond m ref mask : Nat) : Bool :=
  match cond with
  | 0 => m &&& mask == ref &&& mask
  | 1 => m &&& mask != ref &&& mask
  | 2 => decide (ref &&& mask ≤ m &&& mask)
  | _ => decide (m &&& mask < ref &&& mask)

theorem State.pollWaitv_of_waiting {p q : Nat} (h : s.waiting p q) :
    let x := (s.head p q).packet
    s.pollWaitv p q =
      match s.walkNat p (dw x 2) 8, s.walkTo p (dw x 2) false with
      | some m, some pa =>
        if waitMet (fld x.toNat 32 3) m (dw x 3) (dw x 4) then
          (s.queueLearns p q (s.droverAcquires pa 8)).modHead p q (fun h => { h with cond := 1 }) else s
      | _, _ => s.modHead p q (fun h => { h with cond := 2 }) := by
  obtain ⟨hl, hp, hk, hok, hc⟩ := h
  dsimp only
  unfold State.pollWaitv
  rw [if_neg (by simp [hl, hp, hk, hok, hc])]
  rfl

/-- The numbers that are compared have 64 bits, whatever is read. -/
theorem and_dw_toNat (m : Nat) (x : BitVec 512) (i : Nat) :
    (BitVec.ofNat 64 m &&& BitVec.ofNat 64 (dw x i)).toNat = m &&& dw x i := by
  have hlt : dw x i < 2 ^ 64 := Nat.mod_lt _ (by decide)
  rw [BitVec.toNat_and, BitVec.toNat_ofNat, BitVec.toNat_ofNat, ← Nat.and_two_pow_sub_one_eq_mod m, Nat.mod_eq_of_lt hlt, Nat.and_assoc,
    Nat.and_comm (2 ^ 64 - 1), Nat.and_two_pow_sub_one_eq_mod, Nat.mod_eq_of_lt hlt]

/-- R64: the condition code of a WAITV that keeps its layout is below 4. -/
theorem waitv_code_lt {folds : Nat} {x : BitVec 512} (hk : pkKind x = 7) (hok : packetOk folds x = true) : x.toNat / 2 ^ 32 % 8 < 4 := by
  unfold packetOk at hok
  rw [hk] at hok
  simp only [Bool.and_eq_true, beq_iff_eq] at hok
  obtain ⟨-, ⟨⟨hzero, -⟩, -⟩, -⟩ := hok
  unfold fld at hzero
  omega

/-- What WAITV waits for, as R66 says it of words. -/
theorem waitMet_iff {code m : Nat} (x : BitVec 512) (hcode : code < 4) :
    let a := BitVec.ofNat 64 m &&& BitVec.ofNat 64 (dw x 4)
    let b := BitVec.ofNat 64 (dw x 3) &&& BitVec.ofNat 64 (dw x 4)
    waitMet code m (dw x 3) (dw x 4) = true ↔ (code = 0 ∧ a = b) ∨ (code = 1 ∧ a ≠ b) ∨ (code = 2 ∧ b ≤ a) ∨ (code = 3 ∧ a < b) := by
  have ha := and_dw_toNat m x 4
  have hb := and_dw_toNat (dw x 3) x 4
  dsimp only
  rw [Ne, ← BitVec.toNat_inj, BitVec.le_def, BitVec.lt_def, ha, hb]
  obtain rfl | rfl | rfl | rfl : code = 0 ∨ code = 1 ∨ code = 2 ∨ code = 3 := by omega
  · simp [waitMet]
  · simp [waitMet]
  · simp [waitMet]
  · simp [waitMet]

theorem waitTimeoutStep_of_waiting {p q : Nat} (h : s.waiting p q) :
    waitTimeoutStep p q s =
      if dw (s.head p q).packet 5 ≠ 0 ∧ (s.head p q).since + dw (s.head p q).packet 5 ≤ s.time then
        s.setHead p q { s.head p q with cond := 3 } else s := by
  obtain ⟨hl, hp, hk, hok, hc⟩ := h
  unfold waitTimeoutStep
  refine if_congr ?_ rfl rfl
  simp [hl, hp, hk, hok, hc]

theorem waitvPollStep_of_serving {p q : Nat} (h : s.serving = true) : waitvPollStep p q s = s.pollWaitv p q := if_pos h

/-! PREEMPT -/

theorem State.runsGang_iff {p q : Nat} :
    s.runsGang p q = true ↔ (s.head p q).phase = 2 ∧ (s.head p q).lid ≠ 0 ∧ (s.gang (s.head p q).lid).live = true := by
  unfold State.runsGang
  rw [Bool.and_eq_true, Bool.and_eq_true, beq_iff_eq, bne_iff_ne, and_assoc]

theorem State.areaSuffices_iff {p q : Nat} :
    s.areaSuffices p q = true ↔ s.pageReg p (0x300 + 8 * q) ≠ 0 ∧ s.recordBytes (s.head p q).lid ≤ s.pageReg p 0x2C0 % 2 ^ 32 := by
  unfold State.areaSuffices
  rw [Bool.and_eq_true, bne_iff_ne, decide_eq_true_iff, fld_zero]

theorem preemptStep_no_target {p q : Nat} (h : s.begun p q 8 = true)
    (ht : let t := pkTarget (s.head p q).packet; t = q ∨ (¬s.runsGang p t = true ∧ (s.head p t).phase ≠ 4)) :
    preemptStep p q s = s.complete p q NO_TARGET := by
  unfold preemptStep
  rw [h, if_neg (by decide)]
  dsimp only at ht ⊢
  obtain ht | ⟨hr, h4⟩ := ht
  · rw [if_pos ht]
  · rw [if_neg h4, Bool.eq_false_iff.2 hr]
    exact ite_self _

/-- The PREEMPT of a queue has signalled the stop of the gang of queue `t`, and waits for it. -/
def State.preempting (s : State) (p q t : Nat) (hold : Bool) : State :=
  (s.signalStop p t (some q) hold).modHead p q (fun h => { h with phase := 2, target := t })

theorem State.preempting_spec (s : State) (p : Nat) {q t : Nat} (hold : Bool) (ht : t ≠ q) :
    let u := s.preempting p q t hold
    (u.head p t).phase = 4 ∧ (u.head p t).stopper = some q ∧ (u.head p t).holding = hold ∧ (u.head p q).phase = 2 ∧ (u.head p q).target = t ∧
      u.mem = s.mem ∧
      ∀ key, (u.slot key).stopping = ((s.slot key).stopping || ((s.slot key).live && (s.slot key).lid == (s.head p t).lid)) := by
  dsimp only
  unfold State.preempting
  rw [State.head_modHead, if_neg fun e => ht e.2, State.head_signalStop, if_pos ⟨rfl, rfl⟩, State.head_modHead, if_pos ⟨rfl, rfl⟩]
  exact ⟨rfl, rfl, rfl, rfl, rfl, rfl, fun key => s.stopping_signalStop p t key (some q) hold⟩

theorem preemptStep_of_runs {p q : Nat} (h : s.begun p q 8 = true) (hq : pkTarget (s.head p q).packet ≠ q)
    (hr : s.runsGang p (pkTarget (s.head p q).packet) = true) :
    preemptStep p q s =
      let t := pkTarget (s.head p q).packet
      if s.areaSuffices p t then s.preempting p q t ((s.head p q).packet.getLsbD 38) else s.complete p q PX_SPACE := by
  obtain ⟨h2, -⟩ := State.runsGang_iff.1 hr
  rw [← bitAt_toNat]
  unfold preemptStep
  rw [h, if_neg (by decide)]
  dsimp only
  rw [if_neg hq, if_neg (by rw [h2]; decide), hr, if_neg (by decide)]
  cases s.areaSuffices p (pkTarget (s.head p q).packet) with
  | false => rfl
  | true => rfl

/-! COLL -/

/-- The contributions of a chunk, one for each participant; none where an input cannot be read. -/
def State.collInputs (s : State) (p q c : Nat) : List (Option RedPacket) :=
  (List.range (fld (dw (s.head p q).packet 6) 32 6 + 1)).map (s.collInput p (s.head p q).packet c)

/-- The head's queue has learned what the reads of a chunk acquire. -/
def State.collLearned (s : State) (p q c : Nat) : State :=
  (List.range (fld (dw (s.head p q).packet 6) 32 6 + 1)).foldl (fun (t : State) i =>
    t.queueLearns p q (s.collLearns p (s.head p q).packet c i)) s

/-- A contribution has gone to its Fold. -/
def State.collContribute (s : State) (p : Nat) (e : Option RedPacket × Nat) : State :=
  match e.1 with
  | some r => s.modFold ((s.foldsOf p).getD e.2 0) (fun F => { F with arriving := F.arriving ++ [r] })
  | none => s

theorem State.collSend_refused {p q c : Nat} (h : none ∈ s.collInputs p q c) : s.collSend p q c = s.complete p q ADDRESS := by
  have hany : (s.collInputs p q c).any (·.isNone) = true := List.any_eq_true.2 ⟨none, h, rfl⟩
  unfold State.collSend
  dsimp only
  unfold State.collInputs at hany
  rw [if_pos hany]

theorem State.collSend_sent {p q c : Nat} (h : none ∉ s.collInputs p q c) :
    s.collSend p q c = ((s.collInputs p q c).zipIdx.foldl (fun (t : State) e => t.collContribute p e) (s.collLearned p q c)).modHead p q
      (fun h => { h with phase := 2, chunk := c, waitsChunk := true, chunkGot := none, stamp := s.turn }) := by
  have hany : ¬(s.collInputs p q c).any (·.isNone) = true := by
    rw [List.any_eq_true]
    rintro ⟨o, ho, hnone⟩
    rw [Option.isNone_iff_eq_none] at hnone
    exact h (hnone ▸ ho)
  unfold State.collSend
  dsimp only
  unfold State.collInputs at hany
  rw [if_neg hany]
  rfl

theorem State.looked_collLearned (s : State) (p q c : Nat) : s.Looked (s.collLearned p q c) := .foldl fun _ _ => .queueLearns

theorem State.collContribute_mem (s : State) (p : Nat) (e : Option RedPacket × Nat) : (s.collContribute p e).mem = s.mem := by
  unfold State.collContribute
  split
  · rfl
  · rfl

theorem State.collContribute_foldl_mem (s : State) (p : Nat) (l : List (Option RedPacket × Nat)) :
    (l.foldl (fun (t : State) e => t.collContribute p e) s).mem = s.mem :=
  List.foldlRecOn (motive := fun (t : State) => t.mem = s.mem) l _ rfl fun t h e _ => (t.collContribute_mem p e).trans h

theorem State.collInput_shape {p i : Nat} {x : BitVec 512} {c : Nat} {r : RedPacket} (h : s.collInput p x c i = some r) :
    r.input = 16 ∧ r.cset = 2 ^ i := by
  unfold State.collInput at h
  obtain ⟨bs, -, rfl⟩ := Option.map_eq_some_iff.1 h
  exact ⟨rfl, rfl⟩

theorem collStep_of_begun {p q : Nat} (h : s.begun p q 3 = true) : collStep p q s = s.collSend p q 0 := by
  unfold collStep
  rw [h]
  rfl

theorem collStatus_collRank (st : Nat) : collStatus (collRank st) = if st = 0 then 0 else if st = 2 then 0x32 else if st = 0x1C then 0x31 else 0x33 := by
  unfold collRank
  split
  · rfl
  · rfl
  · rfl
  next h0 h1 h2 => rw [if_neg h0, if_neg h1, if_neg h2]; rfl

/-- R302: the result of the last chunk is written, and the packet completes with the worst status. -/
theorem collStep_last {p q st : Nat} {payload : BitVec 512} {m : State} (hp : (s.head p q).phase = 2) (hw : (s.head p q).waitsChunk = true)
    (hg : (s.head p q).chunkGot = some (st, payload))
    (hm : s.walkWrite p ((fld (dw (s.head p q).packet 3) 0 56 + 64 * (s.head p q).chunk) % 2 ^ 56) (natToBytes 64 payload.toNat) = some m)
    (hlast : (s.head p q).chunk + 1 = collChunks (s.head p q).packet) :
    collStep p q s =
      (m.modHead p q (fun x => { x with status := max (s.head p q).status (collRank st) })).complete p q
        (collStatus (max (s.head p q).status (collRank st))) := by
  have hbegun : s.begun p q 3 = false := by
    unfold State.begun
    rw [hp]
    rfl
  unfold collStep
  dsimp only
  rw [hbegun, if_neg Bool.false_ne_true, hg]
  dsimp only
  rw [hp, hw, hm]
  dsimp only
  rw [hlast, if_neg (Nat.lt_irrefl _)]
  rfl

/-- The participants of a COLL are one, and its input can be read: its contribution goes to the first local Fold. -/
theorem State.fold_collSend_single {p q c : Nat} {r : RedPacket} (h : s.collInputs p q c = [some r]) :
    ((s.collSend p q c).fold ((s.foldsOf p).getD 0 0)).arriving = (s.fold ((s.foldsOf p).getD 0 0)).arriving ++ [r] := by
  have hl := s.looked_collLearned p q c
  have hfolds : (s.collLearned p q c).foldsOf p = s.foldsOf p := by
    rw [hl.droversOnly]
    rfl
  have hfold (k : Nat) : (s.collLearned p q c).fold k = s.fold k := by
    rw [hl.droversOnly]
    rfl
  rw [State.collSend_sent (by rw [h]; simp), h]
  show ((((s.collLearned p q c).collContribute p (some r, 0)).fold ((s.foldsOf p).getD 0 0)).arriving) = _
  rw [State.collContribute]
  dsimp only
  rw [hfolds, State.fold_modFold, if_pos rfl, hfold]

theorem State.collSend_spec {p q c : Nat} (h : none ∉ s.collInputs p q c) :
    (s.collSend p q c).mem = s.mem ∧ ((s.collSend p q c).head p q).phase = 2 ∧ ((s.collSend p q c).head p q).waitsChunk = true ∧
      ((s.collSend p q c).head p q).chunk = c := by
  rw [State.collSend_sent h, State.head_modHead, if_pos ⟨rfl, rfl⟩]
  exact ⟨(State.collContribute_foldl_mem _ _ _).trans (s.looked_collLearned p q c).mem, rfl, rfl, rfl⟩

/-- R302: the contribution of a single participant is its first. -/
theorem State.collInputs_single {p q : Nat} {r : RedPacket} (h : s.collInputs p q 0 = [some r]) : r.input = 16 ∧ r.cset = 1 := by
  unfold State.collInputs at h
  have h0 : s.collInput p (s.head p q).packet 0 0 = some r := by
    have := congrArg (·[0]?) h
    simpa using this
  exact State.collInput_shape h0

/-- Settles O55: from its decision, each kind of packet is the step that its equation gives. -/
theorem packets : Obligations.Packets := by
  unfold Obligations.Packets
  refine ⟨?launch, ?levelFence, ?signal, ?waitv, ?preempt, ?coll⟩
  case launch =>
    intro ctx queue s hb he
    refine ⟨fun hh => congrArg Host.Outcome.next (launchStep_held hb hh), fun hh => ⟨fun hf => ?_, fun st hc => ?_, fun i ps tr hc => ?_⟩⟩
    · exact congrArg Host.Outcome.next (launchStep_refused hb he hh (State.launchChecks_of_bad_form hf))
    · exact congrArg Host.Outcome.next (launchStep_refused hb he hh hc)
    · have hstep := launchStep_started hb he hh hc
      obtain ⟨hnext, hgang, hphase, hlid⟩ := s.startLaunch_spec ctx queue _ _ i ps tr
      refine ⟨_, congrArg Host.Outcome.next hstep, hnext, by rw [hgang]; rfl, by rw [hgang]; rfl, by rw [hgang]; rfl, by rw [hgang]; rfl,
        by rw [hgang]; rfl, hphase, hlid, ?_⟩
      rintro c j rfl hj hlevel hdue
      rw [hlevel]
      exact s.startLaunch_single ctx queue _ i c j tr hj he hdue
  case levelFence =>
    refine fun ctx queue s => ⟨fun hb => ⟨_, congrArg Host.Outcome.next (detlevelStep_of_begun hb), ?_, ?_, ?_⟩,
      fun hb => ⟨_, congrArg Host.Outcome.next (fencePacketStep_of_begun hb), s.fenced_spec ctx queue⟩⟩
    · rw [State.levelSet, State.queue_modQueue]
    · rw [← pkKarg_mod _ _ (by decide)]
      rfl
    · rw [State.levelSet, State.head_modQueue, State.Wrote.putLevel.head]
  case signal =>
    intro ctx queue s hb x old signals
    exact ⟨fun hbit => exec_of_signal (x := x) rfl (fun _ => if_neg Bool.false_ne_true) (exec_signalStore_of_begun hb hbit),
      fun hbit => exec_of_signal (x := x) rfl (fun _ => if_pos rfl) (exec_signalAdd_of_begun hb hbit)⟩
  case waitv =>
    intro ctx queue s h x
    refine ⟨fun hb => congrArg Host.Outcome.next (waitvStep_of_begun hb), fun hs hl hp hk hok hc => ?_⟩
    have hk' : pkKind x = 7 := (fld_zero _ _).trans hk
    have hw : s.waiting ctx queue := ⟨hl, hp, hk', hok, hc⟩
    have hpoll := (waitvPollStep_of_serving hs).trans (State.pollWaitv_of_waiting hw)
    refine ⟨fun hm => ?_, fun m hm => ⟨fun hmet hpa => ?_, fun hmet hpa => ?_⟩, congrArg Host.Outcome.next (waitTimeoutStep_of_waiting hw)⟩
    · rw [hm] at hpoll
      exact ⟨_, congrArg Host.Outcome.next hpoll, by rw [State.head_modHead, if_pos ⟨rfl, rfl⟩]⟩
    · obtain ⟨pa, hpa⟩ := Option.isSome_iff_exists.1 hpa
      rw [hm, hpa] at hpoll
      have hmet' := (waitMet_iff x (waitv_code_lt hk' hok)).2 hmet
      refine ⟨_, congrArg Host.Outcome.next (hpoll.trans (if_pos hmet')), ?_⟩
      rw [State.head_modHead, if_pos ⟨rfl, rfl⟩, State.head_queueLearns]
    · obtain ⟨pa, hpa⟩ := Option.isSome_iff_exists.1 hpa
      rw [hm, hpa] at hpoll
      exact congrArg Host.Outcome.next (hpoll.trans (if_neg fun hmet' => hmet ((waitMet_iff x (waitv_code_lt hk' hok)).1 hmet')))
  case preempt =>
    intro ctx queue s hb x q lid runs room
    have hruns : s.runsGang ctx q = true ↔ runs := State.runsGang_iff
    have hroom : s.areaSuffices ctx q = true ↔ room := State.areaSuffices_iff
    rw [← hruns, ← hroom]
    exact ⟨fun h => congrArg Host.Outcome.next (preemptStep_no_target hb h),
      fun hq hr ha => congrArg Host.Outcome.next ((preemptStep_of_runs hb hq hr).trans (if_neg ha)),
      fun hq hr ha => ⟨_, congrArg Host.Outcome.next ((preemptStep_of_runs hb hq hr).trans (if_pos ha)), s.preempting_spec ctx _ hq⟩⟩
  case coll =>
    intro ctx queue s h x
    refine ⟨fun hb => ⟨fun hnone => ?_, fun hall => ?_⟩, fun st payload m hp hw hg hs hm hlast => ?_⟩
    · exact congrArg Host.Outcome.next ((collStep_of_begun hb).trans (State.collSend_refused hnone))
    · obtain ⟨hmem, hphase, hwaits, hchunk⟩ := State.collSend_spec (s := s) (p := ctx) (q := queue) (c := 0) hall
      refine ⟨_, congrArg Host.Outcome.next (collStep_of_begun hb), hmem, hphase, hwaits, hchunk, fun r hr => ?_⟩
      obtain ⟨hinput, hcset⟩ := State.collInputs_single hr
      exact ⟨hinput, hcset, State.fold_collSend_single hr⟩
    · have hstep := collStep_last hp hw hg (by rwa [fld_zero]) (by rw [hlast, collChunks, fld_zero, collBf, bitAt_eq_testBit])
      rw [show (s.head ctx queue).status = 0 from hs, Nat.zero_max, collStatus_collRank] at hstep
      exact ⟨_, State.Looked.modHead.mem, congrArg Host.Outcome.next hstep⟩

end Sys2Proof.Machine
end

section
/-! # The encoding of an instruction word (O59)

A word is an OP and fields: `packWord` and the pair of `opOf` and `Fields.ofWord` undo each other, because each specifier and each field
keeps all of its bits. The opcode map names for an OP and fields an instruction that has them, and for the OP and fields of an instruction
that passes the checks of MOD that instruction: where rows share an OP, the bits that select the row are among those checks. -/

namespace Sys2Proof

/-! ### Specifiers (R85) -/

theorem Opnd.ofCode_code (o : Opnd) : Opnd.ofCode o.code = o := by
  cases o with
  | c n => revert n; decide
  | v n => revert n; decide
  | g n => revert n; decide
  | q n => revert n; decide
  | wid => decide
  | vcid => decide
  | slot => decide
  | rsv k => revert k; decide

theorem Opnd.code_ofCode (x : BitVec 7) : (Opnd.ofCode x).code = x := by
  revert x
  decide

/-! ### The fields of a word (R83) -/

/-- The bits of a word above its OP, of the width that the fields add up to. -/
def Fields.bits (f : Fields) :=
  f.imm ++ f.md ++ f.hint.waitmask ++ f.hint.sbset ++ f.hint.pace ++ (if f.neg then 1#1 else 0#1) ++ f.gidx ++ f.b.code ++ f.a.code ++ f.d.code

theorem packWord_eq (op : Nat) (f : Fields) : packWord op f = f.bits ++ BitVec.ofNat 10 op := rfl

theorem opOf_packWord {op : Nat} (f : Fields) (h : op < 1024) : opOf (packWord op f) = op := by
  have hlow : (packWord op f).extractLsb' 0 10 = BitVec.ofNat 10 op := BitVec.extractLsb'_append_eq_right
  rw [opOf, hlow, BitVec.toNat_ofNat, Nat.mod_eq_of_lt h]

theorem extractLsb'_packWord (op : Nat) (f : Fields) {k n : Nat} (h : 10 ≤ k) :
    (packWord op f).extractLsb' k n = f.bits.extractLsb' (k - 10) n := BitVec.extractLsb'_append_eq_of_le h

theorem bit_beq_one (b : Bool) : ((if b then 1#1 else 0#1) == 1#1) = b := by
  revert b
  decide

/-- The fields of a word that was packed: each lies where R83 has it, below those before it and above those behind it. -/
theorem Fields.ofWord_packWord (op : Nat) (f : Fields) : Fields.ofWord (packWord op f) = f := by
  simp (disch := decide) only [Fields.ofWord, extractLsb'_packWord, Fields.bits, BitVec.extractLsb'_append_eq_of_add_le,
    BitVec.extractLsb'_append_eq_of_le]
  simp only [Nat.reduceSub, BitVec.extractLsb'_eq_self, Opnd.ofCode_code, bit_beq_one]

theorem Fields.neg_ofWord_bit (w : BitVec 96) : (if (Fields.ofWord w).neg then 1#1 else 0#1) = w.extractLsb' 35 1 := by
  show (if w.extractLsb' 35 1 == 1#1 then 1#1 else 0#1) = w.extractLsb' 35 1
  generalize w.extractLsb' 35 1 = x
  revert x
  decide

/-- The fields of a word leave out none of its bits above OP: they lie side by side. -/
theorem Fields.bits_ofWord (w : BitVec 96) : (Fields.ofWord w).bits = w.extractLsb' 10 86 := by
  rw [Fields.bits, Fields.neg_ofWord_bit]
  simp only [Fields.ofWord, Opnd.code_ofCode, BitVec.extractLsb'_append_extractLsb'_eq_extractLsb']

theorem packWord_ofWord (w : BitVec 96) : packWord (opOf w) (Fields.ofWord w) = w := by
  rw [packWord_eq, Fields.bits_ofWord, opOf, BitVec.ofNat_toNat, BitVec.setWidth_eq]
  exact BitVec.extractLsb'_append_extractLsb' (w := 86) (len := 10)

/-! ### The checks of MOD (R93 row 3) -/

theorem bad_eq_none {c : Bool} {k : Nat} : bad c k = none ↔ c = false := by
  cases c <;> simp [bad]

theorem ite_some_eq_none {α : Type} {c : Prop} [Decidable c] {a : α} {x : Option α} :
    (if c then some a else x) = none ↔ ¬c ∧ x = none := by
  by_cases hc : c <;> simp [hc]

/-- What a word has whose MOD passes: no reserved value in a field of the row's own, and LIT as the row has it. -/
theorem Form.checkMod_eq_none {F : Form} {f : Fields} (h : F.checkMod f = none) :
    F.own = none ∧ (F.lit = .no → f.lit = false) ∧ ∀ k, F.lit = .must k → f.lit = true := by
  rw [Form.checkMod, ite_some_eq_none, ite_some_eq_none, ite_some_eq_none] at h
  obtain ⟨-, hlit, -, h⟩ := h
  split at h
  · cases h
  split at h
  · cases h
  next hmust =>
    rw [ite_some_eq_none, Option.map_eq_none_iff] at h
    refine ⟨h.2, fun hno => ?_, fun k hk => ?_⟩
    · simpa [hno] using hlit
    · simpa using hmust k hk

theorem Instr.checkIn_eq_none {e : DecodeEnv} {body : Bool} {i : Instr} (h : i.checkIn e body = none) :
    ∃ F f, i.form? e = some (F, f) ∧ F.checkMod f = none := by
  unfold Instr.checkIn at h
  split at h
  · cases h
  next F f hform =>
    simp only [Option.or_eq_none_iff] at h
    obtain ⟨-, hmod, -⟩ := h
    exact ⟨F, f, hform, hmod⟩

/-! ### The opcode map (R92) -/

theorem Fields.mod_one_of_ne_zero {f : Fields} {k : Nat} (h : f.mod k 1 ≠ 0) : f.mod k 1 = 1 := by
  have hlt : f.mod k 1 < 2 := Nat.mod_lt _ (by decide)
  omega

/-- The map gives an instruction back at its own OP and fields. Rows that share an OP are told apart by MOD bits that each row's checks fix. -/
theorem instrOfOp_of_form {e : DecodeEnv} {i : Instr} {F : Form} {f : Fields} (h : i.form? e = some (F, f)) (hm : F.checkMod f = none) :
    instrOfOp F.op f = some i := by
  obtain ⟨hown, hno, hmust⟩ := Form.checkMod_eq_none hm
  cases i
  all_goals cases h
  case mov => exact congrArg some (if_neg (by simp [hno rfl]))
  case movImm => exact congrArg some (if_pos (hmust 6 rfl))
  case call | pst | tinv | arrive | cwait | upret => exact congrArg some (if_neg (by simp_all [bad_eq_none]))
  case callInd | pstV | tinvAll | arriveOne | cwaitSb | upretLeave =>
    exact congrArg some (if_pos (Fields.mod_one_of_ne_zero (by simp_all [bad_eq_none])))
  case sendIn => exact congrArg some (if_pos (by simp_all [bad_eq_none]))
  case sendTg =>
    have hmode : f.mod 8 2 = 2 := by simp_all [bad_eq_none]
    exact congrArg some ((if_neg (by simp [hmode])).trans (if_pos hmode))
  case sendChan =>
    have hmode : f.mod 8 2 = 0 := by simp_all [bad_eq_none]
    exact congrArg some ((if_neg (by simp [hmode])).trans (if_neg (by simp [hmode])))
  all_goals rfl

/-- What the map names has the OP and the fields that it was named by, whichever of the rows of a shared OP it is. -/
theorem opFields_of_instrOfOp {op : Nat} {f : Fields} {i : Instr} (h : instrOfOp op f = some i) :
    op < 1024 ∧ i.opFields = some (op, f) := by
  revert h
  fun_cases instrOfOp op f
  all_goals rintro ⟨⟩
  all_goals
    refine ⟨by decide, ?_⟩
    repeat' split
  all_goals rfl

/-! ### The round trip -/

theorem encode_of_opFields {i : Instr} {op : Nat} {f : Fields} (h : i.opFields = some (op, f)) : encode i = packWord op f := by
  rw [encode, h]

theorem readWord_encode {e : DecodeEnv} {body : Bool} {i : Instr} (h : i.checkIn e body = none) : readWord (encode i) = some i := by
  obtain ⟨F, f, hform, hmod⟩ := Instr.checkIn_eq_none h
  have hmap : instrOfOp F.op f = some i := instrOfOp_of_form hform hmod
  obtain ⟨hop, hfields⟩ := opFields_of_instrOfOp hmap
  rw [readWord, encode_of_opFields hfields, opOf_packWord f hop, Fields.ofWord_packWord, hmap]

theorem encode_of_readWord {w : BitVec 96} {i : Instr} (h : readWord w = some i) : encode i = w := by
  rw [encode_of_opFields (opFields_of_instrOfOp h).2, packWord_ofWord]

theorem decodeIn_eq_ok {e : DecodeEnv} {body : Bool} {w : BitVec 96} {i : Instr} :
    decodeIn e body w = .ok i ↔ readWord w = some i ∧ i.checkIn e body = none := by
  unfold decodeIn
  split
  next hw => simp [hw]
  next j hw =>
    rw [hw, Option.some.injEq]
    split
    next t ht =>
      refine iff_of_false nofun ?_
      rintro ⟨rfl, hi⟩
      exact nomatch ht.symm.trans hi
    next hj =>
      rw [Except.ok.injEq]
      exact ⟨fun h => ⟨h, h ▸ hj⟩, And.left⟩

/-- Settles O59: the map names the instruction at its own OP and fields, and what a word names has the word's. -/
theorem encodeDecodeRoundTrip : Obligations.EncodeDecodeRoundTrip := by
  intro e i h
  exact ⟨decodeIn_eq_ok.2 ⟨readWord_encode h, h⟩, fun w hw => (encode_of_readWord (decodeIn_eq_ok.1 hw).1).symm⟩

end Sys2Proof
end

section
/-! # NOP, YIELD and PACE (O16)

The hold and the yield of a context are set by `State.issued` alone: from the PACE that acts, whatever the instruction did. -/

namespace Sys2Proof.Machine

open Sys2Proof.Claims

/-! ### What an issue sets (R90) -/

/-- PACE: its low three bits are the cycles of the hold, its top bit the yield. -/
theorem State.pace_issued (s before : State) (k pace : Nat) :
    ((s.issued before k pace).ctx k).hold = pace % 8 ∧
      ((s.issued before k pace).ctx k).yielding = if 8 ≤ pace then before.othersReady k else [] := by
  have hctx (t : State) (n : Nat) : ({ t with epoch := n } : State).ctx k = t.ctx k := rfl
  simp only [State.issued, hctx, State.ctx_modCtx, if_true, and_self]

/-- The state in which the instruction in hand has gone on with the next in sequence, with this PACE. -/
def State.passedOn (s : State) (pace : Nat) : State :=
  (((s.dropMisses s.cur).modCtx s.cur (fun c => { c with waitFrom := none })).modCtx s.cur Ctx.advance).issued s s.cur pace

/-- It is the state before but for its issue, whatever PACE is. -/
theorem State.passedOn_did (s : State) (pace : Nat) : s.Did (s.passedOn pace) id := by
  have key := State.issue_goesOn s s s.cur pace (s.ctx s.cur).advance
  simp only [State.passedOn, State.modCtx_eq, State.setCtx_setCtx, State.ctx_setCtx, if_pos, State.ctx_dropMisses]
  rw [Ctx.advance_waitFrom]
  exact key

theorem State.passedOn_pace (s : State) (pace : Nat) : ((s.passedOn pace).ctx s.cur).hold = pace % 8 ∧
    ((s.passedOn pace).ctx s.cur).yielding = if 8 ≤ pace then s.othersReady s.cur else [] := State.pace_issued _ _ _ _

/-! ### NOP and YIELD (R133) -/

theorem Ctx.paceNow_of_no_rep {c : Ctx} (f : Fields) (h : c.rep = none) : c.paceNow f = f.hint.pace.toNat := by
  rw [Ctx.paceNow, h]

/-- The PACE of YIELD: its own, with the top bit set. -/
def yieldPace (p : Nat) : Nat := if p < 8 then p + 8 else p

theorem le_yieldPace (p : Nat) : 8 ≤ yieldPace p := by
  unfold yieldPace
  split <;> omega

theorem yieldPace_mod (p : Nat) : yieldPace p % 8 = p % 8 := by
  unfold yieldPace
  split <;> omega

theorem exec_nop {f : Fields} {s : State} (h : acts s f) (hr : (s.ctx s.cur).rep = none) :
    exec (.nop f) s = .next (s.passedOn f.hint.pace.toNat) := by
  show Host.Outcome.next (stepScalar f done s) = _
  rw [stepScalar_on f done s h, stepVector_ok f done s ⟨s, .seq⟩ rfl, ← Ctx.paceNow_of_no_rep f hr]
  rfl

theorem exec_yield {f : Fields} {s : State} (h : acts s f) (hr : (s.ctx s.cur).rep = none) :
    exec (.yield f) s = .next ((s.passedOn (yieldPace f.hint.pace.toNat)).modCtx s.cur (fun c => { c with yielded := true })) := by
  show Host.Outcome.next (stepScalar f (fun s => .ok ⟨s, .yield⟩) s) = _
  rw [stepScalar_on _ _ _ h, stepVector_ok f (fun s => .ok ⟨s, .yield⟩) s ⟨s, .yield⟩ rfl, ← Ctx.paceNow_of_no_rep f hr]
  rfl

/-! ### Contexts that are held or yield (R90, R110) -/

theorem State.not_ready_of_held {s : State} {k : Nat} (h : (s.ctx k).hold ≠ 0 ∨ ∃ j ∈ (s.ctx k).yielding, s.inPlay j = true) :
    s.ready k = false := by
  have hmay : s.mayIssue k = false := by
    rw [State.mayIssue, Bool.and_eq_false_iff, Bool.and_eq_false_iff]
    obtain hheld | ⟨j, hj, hplay⟩ := h
    · exact .inl (.inr (beq_false_of_ne hheld))
    · exact .inr (List.all_eq_false.2 ⟨j, hj, by simp [hplay]⟩)
  rw [State.ready, hmay, Bool.false_and]

/-- Settles O16: NOP goes on with its PACE, YIELD with that of a yield and the mark of a waiting slot. -/
theorem nopYieldAndPace : Obligations.NopYieldAndPace := by
  intro f s hacts hrep p
  have hnop := s.passedOn_pace p
  have hyield := s.passedOn_pace (yieldPace p)
  rw [yieldPace_mod, if_pos (le_yieldPace p)] at hyield
  refine ⟨⟨_, exec_nop hacts hrep, s.passedOn_did p, hnop⟩, ⟨_, _, exec_yield hacts hrep, s.passedOn_did (yieldPace p), rfl, ?_⟩,
    fun k => State.not_ready_of_held⟩
  rw [State.ctx_modCtx, if_pos rfl]
  exact hyield

end Sys2Proof.Machine
end

section
/-! # A step runs the word at the program counter (O58)

The turn of a core lets the context that the core chooses meet the instruction at its PC: the fetch and the checks decide what, `issueFrom`
latches it or takes the trap, and `step` runs what is latched. -/

namespace Sys2Proof.Machine

open Sys2Proof.Claims

/-! ### The fetch (R84, R131) -/

theorem bytesToNat_map (g : Nat → Byte) (l : List Nat) :
    bytesToNat (l.map g) = l.foldr (fun i acc => (g i).toNat + 256 * acc) 0 := by
  induction l with
  | nil => rfl
  | cons i l ih => rw [List.map_cons, bytesToNat, ih, List.foldr_cons]

/-- The word of twelve bytes of memory is the number that they hold, the lowest address first. -/
theorem bytesWord_bytesAt (s : State) (a : Nat) : bytesWord (s.bytesAt a 12) = BitVec.ofNat 96 (le s a 12) :=
  congrArg (BitVec.ofNat 96) (bytesToNat_map _ _)

/-- R182: a page of the core's TLB covers the address, and the context may fetch from it. -/
theorem State.translate_fetch {s : State} {k pc n img : Nat} (hs : isService (coreOf k) = false)
    (ht : tlbFind (s.core (coreOf k)) pc = some (n, img)) (ha : imgAdmits img (s.ctx k).mode .fetch = true) :
    s.translate k pc .fetch = .ok (imgMap img pc, img) := by
  simp only [State.translate, hs, Bool.false_eq_true, if_false, ht, ha, if_true]

theorem State.fetchBytes_of_page {s : State} {k pc pa img : Nat} (hs : isService (coreOf k) = false)
    (ht : s.translate k pc .fetch = .ok (pa, img)) (hroom : pc % 2 ^ pageShift (imgSize img) + 12 ≤ 2 ^ pageShift (imgSize img))
    (hc : s.crosses (coreOf k) pa 12 = false) : s.fetchBytes k pc = .ok (s.bytesAt pa 12) := by
  have hfits : 12 ≤ 2 ^ pageShift (imgSize img) - pc % 2 ^ pageShift (imgSize img) := by omega
  simp only [State.fetchBytes, ht, Bind.bind, Except.bind, hs, Bool.false_eq_true, if_false, if_pos hfits, State.fetchPart, hc]

theorem need_true (cause tval : Nat) : need true cause tval = .ok () := rfl

theorem State.fetchWord_of_bytes {s : State} {k pc : Nat} {bs : List Byte} (h4 : pc % 4 = 0) (hlo : (s.ctx k).regBase.toNat ≤ pc)
    (hhi : pc + 12 ≤ (s.ctx k).regLimit.toNat) (h : s.fetchBytes k pc = .ok bs) : s.fetchWord k pc = .ok (bytesWord bs) := by
  simp only [State.fetchWord, h4, hlo, hhi, h, beq_self_eq_true, decide_true, Bool.and_self, need_true, Bind.bind, Except.bind]

/-! ### The instruction at the PC (R93, R94) -/

theorem State.nextInstr_ok {s : State} {k : Nat} {w : BitVec 96} {i : Instr} (hr : (s.ctx k).rep = none)
    (hw : s.fetchWord k (s.ctx k).pc.toNat = .ok w) (hd : decodeWord (s.decodeEnv k) w = .ok i) (hb : s.bodyChecked k i = .ok ()) :
    s.nextInstr k = .ok i := by
  have hdec : decodeIn (s.decodeEnv k) (none : Option Nat).isSome w = .ok i := hd
  simp only [State.nextInstr, hr, hw, State.decodeAt, hdec, hb, Bind.bind, Except.bind]

theorem State.nextInstr_error {s : State} {k : Nat} {w : BitVec 96} {t : DecodeTrap} (hr : (s.ctx k).rep = none)
    (hw : s.fetchWord k (s.ctx k).pc.toNat = .ok w) (hd : decodeWord (s.decodeEnv k) w = .error t) :
    s.nextInstr k = .error (.trap t.cause (t.tval w none)) := by
  have hdec : decodeIn (s.decodeEnv k) (none : Option Nat).isSome w = .error t := hd
  simp only [State.nextInstr, hr, hw, State.decodeAt, hdec, trap, Bind.bind, Except.bind]

theorem State.bodyChecked_of_not_rep (s : State) (k : Nat) {i : Instr} (h : ∀ f, i ≠ .repI f) : s.bodyChecked k i = .ok () := by
  unfold State.bodyChecked
  split
  next f => exact absurd rfl (h f)
  next => rfl

/-- R94: TVAL of a word outside a body. -/
theorem DecodeTrap.tval_none (t : DecodeTrap) (w : BitVec 96) : t.tval w none =
    t.reason * 2 ^ 60 + t.field * 2 ^ 53 + t.spec * 2 ^ 46 + (w.extractLsb' 52 12).toNat * 2 ^ 34 + (w.extractLsb' 36 16).toNat * 2 ^ 10 +
      (w.extractLsb' 0 10).toNat := by
  simp only [DecodeTrap.tval, opOf, Nat.add_zero]

/-! ### The turn of a core (R110) -/

theorem relocks_done {l : Slot} {k : Nat} (h : l.relocks = none ∨ isDrain k = true) : (l.relocks.isSome && !isDrain k) = false := by
  obtain h | h := h <;> simp [h]

section

variable {s : State} {k : Nat} (hp : s.takesPending k = false) (hl : (s.slotOf k).relocks = none ∨ isDrain k = true)

include hp hl

/-- A context with no pending item and no locks to take again meets the instruction at its PC. -/
theorem issueFrom_ok {i : Instr} (h : ({ s with cur := k } : State).nextInstr k = .ok i) :
    issueFrom k s = { s with cur := k, latch := some i } := by
  have hpending : ({ s with cur := k } : State).takesPending k = false := hp
  have hlocks : ((({ s with cur := k } : State).slotOf k).relocks.isSome && !isDrain k) = false := relocks_done hl
  simp only [issueFrom, hpending, hlocks, h, Bool.false_eq_true, if_false, Bool.not_true]

theorem issueFrom_error {e : Stop} (h : ({ s with cur := k } : State).nextInstr k = .error e) :
    issueFrom k s = ({ s with cur := k } : State).stopped e := by
  have hpending : ({ s with cur := k } : State).takesPending k = false := hp
  have hlocks : ((({ s with cur := k } : State).slotOf k).relocks.isSome && !isDrain k) = false := relocks_done hl
  simp only [issueFrom, hpending, hlocks, h, Bool.false_eq_true, if_false, Bool.not_true]

end

theorem step_issueChoice {s : State} {turn : Turn} {rest : List Turn} {core k : Nat} (ha : s.agenda = turn :: rest)
    (hw : turn.what = .issueChoice core) (hs : s.begin.serving = true) (hc : s.begin.choose core = some k) :
    step s = settle false (issueFrom k s.begin) := by
  have hnext : s.nextTurn.what = .issueChoice core := by rw [State.nextTurn, ha, List.headD_cons, hw]
  have hexec : exec (.issueChoice core) s.begin = .next (issueFrom k s.begin) := by
    show execIssueChoice core s.begin = _
    simp only [execIssueChoice, hs, hc, Bool.not_true, Bool.false_eq_true, if_false]
  unfold step
  rw [hnext, hexec]
  rfl

theorem settle_of_no_latch {s : State} (h : s.latch = none) : settle false s = .next s := by
  rw [settle, h]
  rfl

theorem State.GoesOn.latch_eq {s t : State} {k : Nat} {c : Ctx} (h : s.GoesOn t k c) : t.latch = s.latch := by
  obtain ⟨h, -⟩ := h
  rw [h]

/-- Settles O58: the fetch gives the twelve bytes, and the step runs what they decode to, or takes the trap of the check that fails. -/
theorem stepRunsDecoded : Obligations.StepRunsDecoded := by
  refine ⟨?turn, ?tidld, ?tidldIndexed, ?add, ?nop, ?bra, ?zeros⟩
  case turn =>
    intro s turn core k n img rest hagenda hwhat b u c pc hserving hchoose hpending hservice hrep hrelocks halign hbase hlimit htlb hfetch hroom
      hcross w
    have hstep : step s = settle false (issueFrom k b) := step_issueChoice hagenda hwhat hserving hchoose
    have hword : u.fetchWord k pc = .ok w := by
      rw [State.fetchWord_of_bytes halign hbase hlimit
        (State.fetchBytes_of_page hservice (State.translate_fetch hservice htlb hfetch) hroom hcross), bytesWord_bytesAt]
    refine ⟨fun i hd hb => ?_, fun i => u.bodyChecked_of_not_rep k, fun t hd henters => ?_⟩
    · rw [hstep, issueFrom_ok hpending hrelocks (State.nextInstr_ok hrep hword hd hb)]
      rfl
    · rw [hstep, issueFrom_error hpending hrelocks (State.nextInstr_error hrep hword hd)]
      have htrap : u.GoesOn (u.stopped (.trap t.cause (t.tval w none))) k ((u.enterTrap k 0 t.cause (t.tval w none)).ctx k) :=
        u.stopped_trap t.cause (t.tval w none) henters
      have hlatch : (u.stopped (.trap t.cause (t.tval w none))).latch = none := htrap.latch_eq
      rw [← DecodeTrap.tval_none]
      exact ⟨_, settle_of_no_latch hlatch, htrap⟩
  case tidld => exact ⟨_, decodeIn_eq_ok.2 ⟨rfl, by decide⟩, by decide⟩
  case tidldIndexed => exact ⟨_, decodeIn_eq_ok.2 ⟨rfl, by decide⟩, by decide⟩
  case add => exact ⟨_, decodeIn_eq_ok.2 ⟨rfl, by decide⟩, by decide⟩
  case nop => exact ⟨_, decodeIn_eq_ok.2 ⟨rfl, by decide⟩⟩
  case bra => exact ⟨_, decodeIn_eq_ok.2 ⟨rfl, by decide⟩, by decide⟩
  case zeros => rfl

end Sys2Proof.Machine
end

section
/-! # The repetition (O17)

REP passes its body, fills the buffer, or traps: one lemma for each way that its checks can end. `Ctx.advance` then walks the buffer word by
word and pass by pass, and `stepInstr` moves on the register numbers that are named. -/

namespace Sys2Proof.Machine

open Sys2Proof.Claims

/-! ### The checks of REP (R106) -/

section

variable {e : DecodeEnv} {stride step count : Nat} {body : List Instr}

theorem repChecks_ok (hc : count ≤ 16777215) (hb : body.any barredInBody = false) (hf : firstFault e stride step count 0 body = none) :
    repChecks e stride step count body = .ok () := by
  simp only [repChecks, hc, hb, hf, decide_true, Bool.not_false, need_true, Bind.bind, Except.bind]

theorem repChecks_range (hc : 16777215 < count) :
    repChecks e stride step count body = .error (.trap REP_RANGE (repTval 0 0 0 0 count)) := by
  simp only [repChecks, decide_eq_false (Nat.not_le.2 hc), need, trap, Bind.bind, Except.bind, Bool.false_eq_true, if_false]

theorem repTval_count (hc : count < 2 ^ 32) : repTval 0 0 0 0 count = count := by
  simp only [repTval, Nat.zero_mul, Nat.zero_mod, Nat.zero_add, Nat.mod_eq_of_lt hc]

end

/-! ### What REP does (R105, R106) -/

section

variable {s : State} {f : Fields} {body : List Instr}

theorem Fields.mod_zero_three (f : Fields) : f.mod 0 3 = f.md.toNat % 8 := fld_zero f.md.toNat 3

/-- The address behind the body. -/
def repPast (s : State) (f : Fields) : BitVec 56 := BitVec.ofNat 56 ((s.ctx s.cur).pc.toNat + 12 * (f.mod 0 3 + 2))

/-- The buffer at its first word and first pass. -/
def repStart (f : Fields) (count : Nat) (body : List Instr) : RepState :=
  ⟨f.mod 6 4, f.mod 3 3, f.mod 0 3, count, 0, 0, body, chargeOf f.hint, f.hint.pace.toNat⟩

/-- The context with the buffer filled, and the counter of its hint charged. -/
def repFilled (f : Fields) (count : Nat) (body : List Instr) (c : Ctx) : Ctx :=
  { c.chargeSb (chargeOf f.hint) with rep := some (repStart f count body) }

theorem repBody_off (hbody : s.fetchBody s.cur (s.ctx s.cur).pc.toNat (f.mod 0 3 + 1) 0 = .ok body) (hg : s.guardBit f 0 = false) :
    repBody f s = .ok ⟨s, .jump (((s.ctx s.cur).pc.toNat + 12 * (f.mod 0 3 + 2)) % 2 ^ 56)⟩ := by
  simp only [repBody, hbody, hg, Bind.bind, Except.bind, Bool.not_false, if_true]

theorem repBody_on {b : Nat} (hbody : s.fetchBody s.cur (s.ctx s.cur).pc.toNat (f.mod 0 3 + 1) 0 = .ok body) (hg : acts s f)
    (hb : holdsB s f false b) : repBody f s = (repChecks (s.decodeEnv s.cur) (f.mod 6 4) (f.mod 3 3) (b % 2 ^ 32) body).bind fun _ =>
      if b % 2 ^ 32 = 0 then .ok ⟨s, .jump (((s.ctx s.cur).pc.toNat + 12 * (f.mod 0 3 + 2)) % 2 ^ 56)⟩
      else .ok ⟨s.modCtx s.cur (repFilled f (b % 2 ^ 32) body), .held⟩ := by
  have hguard : s.guardBit f 0 = true := hg
  simp only [repBody, hbody, hguard, hb 0x0C4, Bind.bind, Except.bind, Bool.not_true, Bool.false_eq_true, if_false]
  rfl

/-- The body is passed: the context goes on behind it. -/
theorem exec_rep_passed (hrep : (s.ctx s.cur).rep = none)
    (h : repBody f s = .ok ⟨s, .jump (((s.ctx s.cur).pc.toNat + 12 * (f.mod 0 3 + 2)) % 2 ^ 56)⟩) :
    ∃ t, exec (.repI f) s = .next t ∧ s.GoesOn t s.cur { s.ctx s.cur with pc := repPast s f } := by
  have hpc : BitVec.ofNat 56 (((s.ctx s.cur).pc.toNat + 12 * (f.mod 0 3 + 2)) % 2 ^ 56) = repPast s f :=
    BitVec.eq_of_toNat_eq (by simp [repPast])
  have key := s.finish_jump s f (((s.ctx s.cur).pc.toNat + 12 * (f.mod 0 3 + 2)) % 2 ^ 56)
  rw [hpc, ← hrep] at key
  exact ⟨_, congrArg Host.Outcome.next (stepVector_ok f (repBody f) s _ h), key⟩

/-- The buffer is filled, and the PC stays. -/
theorem exec_rep_filled {count : Nat} (h : repBody f s = .ok ⟨s.modCtx s.cur (repFilled f count body), .held⟩) :
    ∃ t, exec (.repI f) s = .next t ∧ s.GoesOn t s.cur (repFilled f count body (s.ctx s.cur)) := by
  have key := s.finish_held (s.modCtx s.cur (repFilled f count body)) f
  rw [State.ctx_modCtx_self] at key
  exact ⟨_, congrArg Host.Outcome.next (stepVector_ok f (repBody f) s _ h), key.of_modCtx⟩

theorem traps_rep {cause tval : Nat} (h : repBody f s = .error (.trap cause tval)) (he : s.entersTraps) : traps (.repI f) s cause tval :=
  ⟨_, congrArg Host.Outcome.next (stepVector_error f (repBody f) s _ h), s.stopped_trap cause tval he⟩

end

/-! ### The passes (R106) -/

section

variable {c : Ctx} {r : RepState}

theorem Ctx.advance_next_word (h : c.rep = some r) (hi : r.ix < r.len) : c.advance = { c with rep := some { r with ix := r.ix + 1 } } := by
  rw [Ctx.advance, h]
  exact if_pos hi

theorem Ctx.advance_next_pass (h : c.rep = some r) (hi : r.len ≤ r.ix) (hp : r.pass + 1 < r.count) :
    c.advance = { c with rep := some { r with ix := 0, pass := r.pass + 1 } } := by
  rw [Ctx.advance, h]
  exact (if_neg (Nat.not_lt.2 hi)).trans (if_pos hp)

theorem Ctx.advance_last (h : c.rep = some r) (hi : r.len ≤ r.ix) (hp : r.count ≤ r.pass + 1) :
    c.advance = ({ c with rep := none, pc := c.pc + BitVec.ofNat 56 (12 * (r.len + 2)) } : Ctx).releaseSb r.charge := by
  rw [Ctx.advance, h]
  exact (if_neg (Nat.not_lt.2 hi)).trans (if_neg (Nat.not_lt.2 hp))

/-- The fields of a body word in a pass. -/
def steppedFields (r : RepState) (f : Fields) : Fields :=
  { f with
    d := if bitAt r.step 0 then stepOpnd (r.pass * r.stride) f.d else f.d
    a := if bitAt r.step 1 then stepOpnd (r.pass * r.stride) f.a else f.a
    b := if bitAt r.step 2 then stepOpnd (r.pass * r.stride) f.b else f.b }

theorem State.nextInstr_rep {s : State} {k : Nat} (h : (s.ctx k).rep = some r) :
    s.nextInstr k = .ok (stepInstr r (r.body.getD r.ix default)) := by
  rw [State.nextInstr, h]

theorem stepInstr_add (r : RepState) (f : Fields) : stepInstr r (.add f) = .add (steppedFields r f) := rfl

/-- A c register that is named moves on by the stride each pass, and another stays. -/
theorem stepOpnd_c {o : Opnd} {n : BitVec 6} (x i k : Nat) (h : o = .c n) :
    (if bitAt x i then stepOpnd k o else o) = .c (if x.testBit i then n + BitVec.ofNat 6 k else n) := by
  subst h
  rw [bitAt_eq_testBit]
  split <;> rfl

end

/-- Settles O17: the ends of REP's checks, then the walk through the buffer and the word of a pass. -/
theorem repetition : Obligations.Repetition := by
  refine ⟨?rep, ?passes⟩
  case rep =>
    intro f s body b
    dsimp only
    rw [← Fields.mod_zero_three]
    intro hbody hb hrep
    refine ⟨fun hpass => exec_rep_passed hrep ?_, fun hacts hpos hmax hbar hfault => exec_rep_filled ?_,
      fun hacts hmax henters => traps_rep ?_ henters⟩
    · cases hguard : s.guardBit f 0 with
      | false => exact repBody_off hbody hguard
      | true =>
        obtain ⟨hzero, hbar, hfault⟩ := hpass.resolve_left (by simp [hguard])
        rw [repBody_on hbody hguard hb, hzero, repChecks_ok (Nat.zero_le _) hbar hfault]
        rfl
    · rw [repBody_on hbody hacts hb, repChecks_ok hmax hbar hfault]
      exact if_neg hpos.ne'
    · rw [repBody_on hbody hacts hb, repChecks_range hmax, repTval_count (Nat.mod_lt _ (by decide))]
      rfl
  case passes =>
    intro s k c r hr
    refine ⟨Ctx.advance_next_word hr, Ctx.advance_next_pass hr, fun hi hp => ?_, fun hk f hf => ?_⟩
    · rw [Ctx.advance_last hr hi hp, Ctx.releaseSb_rep, Ctx.releaseSb_pc]
      exact ⟨rfl, rfl⟩
    · refine ⟨steppedFields r f, ?_, rfl, rfl, fun n => stepOpnd_c r.step 0 _, fun n => stepOpnd_c r.step 1 _, fun n => stepOpnd_c r.step 2 _⟩
      rw [State.nextInstr_rep (hk ▸ hr), hf, stepInstr_add]

end Sys2Proof.Machine
end

section
/-! # The bodies of scalar instructions, and tagged data operands (O5)

A scalar instruction is `runScalar` of its body, so what it does is what the body answers: a write of D, or a trap. The bodies of the
integer, guard and floating-point instructions read A first, then B, and pass on what a read raises. -/

namespace Sys2Proof.Machine

open Sys2Proof.Claims

/-! ### From the answer of a body to what the instruction does -/

section

variable {i : Instr} {f : Fields} {body : State → Exec Out} {s : State} (hi : exec i s = runScalar f body s) (hg : acts s f)

include hi hg

theorem exec_of_body {o : Out} (hb : body s = .ok o) : exec i s = .next (s.finish f o) := by
  rw [hi, runScalar, stepScalar_on _ _ _ hg, stepVector_ok _ _ _ _ hb]

theorem exec_of_body_error {e : Stop} (hb : body s = .error e) : exec i s = .next (s.stopped e) := by
  rw [hi, runScalar, stepScalar_on _ _ _ hg, stepVector_error _ _ _ _ hb]

theorem traps_of_body {cause tval : Nat} (hb : body s = .error (.trap cause tval)) (ht : s.entersTraps) : traps i s cause tval :=
  ⟨_, exec_of_body_error hi hg hb, s.stopped_trap cause tval ht⟩

theorem does_id_of_body (hb : body s = done s) : does i s id := ⟨_, exec_of_body hi hg hb, s.finish_seq s f⟩

theorem does_of_body {u : Ctx → Ctx} (hb : body s = done (s.modCtx s.cur u)) : does i s u :=
  ⟨_, exec_of_body hi hg hb, s.finish_did f u⟩

/-- A body that writes D does what the claims call the write of D. -/
theorem does_putC_of_body {o : Opnd} {r : CReg} (hb : body s = done (s.setD o r)) : does i s (putC o r) := by
  cases o with
  | c n => exact does_of_body hi hg hb
  | _ => exact does_id_of_body hi hg hb

theorem does_putG_of_body {o : Opnd} {x : Word64} (hb : body s = done (s.setGuardD o x)) : does i s (putG o x) := by
  cases o with
  | g n => exact does_of_body hi hg hb
  | _ => exact does_id_of_body hi hg hb

end

/-! ### Operands (R86, R87, R95) -/

theorem State.opndB_register {f : Fields} (s : State) (op : Nat) (signed : Bool) (h : f.lit = false) :
    s.opndB op f signed = s.dataOpnd op 3 f.b := by
  rw [State.opndB, h]
  rfl

/-- A tagged register is no data, and TVAL names the field that read it (R95, R349). -/
theorem State.dataOpnd_tagged {s : State} {n : BitVec 6} (h : ((s.ctx s.cur).getC n).tag = true) (op field : Nat) :
    s.dataOpnd op field (.c n) = .error (.trap TAG (field * 2 ^ 53 + n.toNat * 2 ^ 46 + op)) := if_pos h

/-- The body reads A before all else. -/
def ReadsA (op : Nat) (f : Fields) (body : State → Exec Out) : Prop :=
  ∀ (s : State) (e : Stop), s.dataOpnd op 2 f.a = .error e → body s = .error e

/-- The body reads A, and then the register B. -/
def ReadsAB (op : Nat) (f : Fields) (body : State → Exec Out) : Prop :=
  ReadsA op f body ∧ ∀ (s : State) (a : Nat) (e : Stop), s.dataOpnd op 2 f.a = .ok a → f.lit = false → s.dataOpnd op 3 f.b = .error e →
    body s = .error e

/-- The body reads D first, then A, and then the register B. -/
def ReadsDAB (op : Nat) (f : Fields) (body : State → Exec Out) : Prop :=
  (∀ (s : State) (e : Stop), s.dataOpnd op 1 f.d = .error e → body s = .error e) ∧
    ∀ (s : State) (d : Nat), s.dataOpnd op 1 f.d = .ok d →
      (∀ e, s.dataOpnd op 2 f.a = .error e → body s = .error e) ∧
        ∀ (a : Nat) (e : Stop), s.dataOpnd op 2 f.a = .ok a → f.lit = false → s.dataOpnd op 3 f.b = .error e → body s = .error e

section

variable {op : Nat} {f : Fields}

/-- A body that binds A, and B by its extension, reads them in that order. -/
theorem readsAB_of_bind (signed : Bool) (k : State → Nat → Nat → Exec Out) :
    ReadsAB op f (fun s => s.dataOpnd op 2 f.a >>= fun a => s.opndB op f signed >>= k s a) := by
  refine ⟨fun s e ha => by simp only [ha, bind, Except.bind], fun s a e ha hl hb => ?_⟩
  simp only [s.opndB_register op signed hl, ha, hb, bind, Except.bind]

/-- The same of floating-point operands, whose low bits count. -/
theorem readsAB_of_fp (k : State → Nat → Nat → Exec Out) :
    ReadsAB op f (fun s => s.fpOpnd op 2 f.ty f.a >>= fun a => s.fpB op f >>= k s a) := by
  refine ⟨fun s e ha => by simp only [State.fpOpnd, ha, bind, Except.bind], fun s a e ha hl hb => ?_⟩
  simp only [State.fpOpnd, State.fpB, hl, ha, hb, bind, Except.bind, Bool.false_eq_true, if_false]

theorem readsA_of_fp (ty : Nat) (k : State → Nat → Exec Out) : ReadsA op f (fun s => s.fpOpnd op 2 ty f.a >>= k s) := by
  intro s e ha
  simp only [State.fpOpnd, ha, bind, Except.bind]

theorem readsA_bitUnary (g : Nat → Nat → Nat) : ReadsA op f (bitUnary op f g) := by
  intro s e ha
  simp only [bitUnary, ha, bind, Except.bind]

/-- A body that reads D, and goes on with one that reads A and B. -/
theorem readsDAB_of_bind {k : Nat → State → Exec Out} (hk : ∀ d, ReadsAB op f (k d)) :
    ReadsDAB op f (fun s => s.dataOpnd op 1 f.d >>= fun d => k d s) := by
  refine ⟨fun s e hd => by simp only [hd, bind, Except.bind], fun s d hd => ?_⟩
  simp only [hd, bind, Except.bind]
  exact ⟨(hk d).1 s, (hk d).2 s⟩

theorem readsDAB_madBody : ReadsDAB 0x00A f (madBody f) := readsDAB_of_bind fun _ => readsAB_of_bind _ _
theorem readsDAB_bfiBody : ReadsDAB 0x028 f (bfiBody f) := readsDAB_of_bind fun _ => readsAB_of_bind _ _

theorem readsDAB_ffmaBody : ReadsDAB 0x083 f (ffmaBody f) := by
  have h := readsDAB_of_bind (op := 0x083) (f := f)
    fun d => readsAB_of_fp fun s a b => s.fpDone f (fFma (fbOf f.ty) (rmOf f) false a b (d % 2 ^ tyWidth f.ty))
  have e : ffmaBody f = _ := funext fun s => (bind_assoc (s.dataOpnd 0x083 1 f.d) _ _)
  rw [e]
  exact h

end

/-! ### The instructions of each list -/

/-- The instruction is scalar, and its body, which names its operands by its OP, has the property. -/
def RunsBody (f : Fields) (P : Nat → (State → Exec Out) → Prop) (p : Nat × Instr) : Prop :=
  ∃ body, (∀ s, exec p.2 s = runScalar f body s) ∧ P p.1 body

section

variable {f : Fields} {P : Nat → (State → Exec Out) → Prop}

/-- What holds of every form of body that reads A alone holds of the bodies of the list. -/
theorem runsBody_readsA (unary : ∀ op g, P op (bitUnary op f g)) (fsqrt : P 0x085 (fsqrtBody f)) (fcvt : P 0x089 (fcvtBody f))
    (fclass : P 0x08A (fclassBody f)) : ∀ p ∈ readsA f, RunsBody f P p := by
  simp only [readsA, List.forall_mem_cons, List.not_mem_nil, false_imp_iff, implies_true, and_true]
  exact ⟨⟨_, fun _ => rfl, unary _ _⟩, ⟨_, fun _ => rfl, unary _ _⟩, ⟨_, fun _ => rfl, unary _ _⟩, ⟨_, fun _ => rfl, unary _ _⟩,
    ⟨_, fun _ => rfl, fsqrt⟩, ⟨_, fun _ => rfl, fcvt⟩, ⟨_, fun _ => rfl, fclass⟩⟩

theorem runsBody_readsAB (int : ∀ op sat g, P op (intBinary op f sat g)) (bit : ∀ op g, P op (bitBinary op f g))
    (shift : ∀ op g, P op (shiftOp op f g)) (float : ∀ op g, P op (fpBinary op f g)) (bfx : P 0x027 (bfxBody f)) (cmp : P 0x029 (cmpBody f))
    (gop : P 0x02A (gopBody f)) (fcmp : P 0x088 (fcmpBody f)) : ∀ p ∈ readsAB f, RunsBody f P p := by
  simp only [readsAB, List.forall_mem_cons, List.not_mem_nil, false_imp_iff, implies_true, and_true]
  refine ⟨?add, ?sub, ?mul, ?mulh, ?mulhn, ?div, ?divn, ?rem, ?remn, ?andI, ?orI, ?xorI, ?andn, ?shl, ?shr, ?sar, ?rol, ?clmul, ?clmulh,
    ?min, ?max, ?minn, ?maxn, ⟨_, fun _ => rfl, bfx⟩, ⟨_, fun _ => rfl, cmp⟩, ⟨_, fun _ => rfl, gop⟩, ?fadd, ?fsub, ?fmul, ?fdiv, ?fmin, ?fmax,
    ⟨_, fun _ => rfl, fcmp⟩⟩
  case add | sub | mul | mulh | mulhn | div | divn | rem | remn | min | max | minn | maxn => exact ⟨_, fun _ => rfl, int _ _ _⟩
  case andI | orI | xorI | andn | clmul | clmulh => exact ⟨_, fun _ => rfl, bit _ _⟩
  case shl | shr | sar | rol => exact ⟨_, fun _ => rfl, shift _ _⟩
  case fadd | fsub | fmul | fdiv | fmin | fmax => exact ⟨_, fun _ => rfl, float _ _⟩

theorem runsBody_readsDAB (mad : P 0x00A (madBody f)) (bfi : P 0x028 (bfiBody f)) (ffma : P 0x083 (ffmaBody f)) :
    ∀ p ∈ readsDAB f, RunsBody f P p := by
  simp only [readsDAB, List.forall_mem_cons, List.not_mem_nil, false_imp_iff, implies_true, and_true]
  exact ⟨⟨_, fun _ => rfl, mad⟩, ⟨_, fun _ => rfl, bfi⟩, ⟨_, fun _ => rfl, ffma⟩⟩

end

section

variable (f : Fields)

theorem readsA_of_mem : ∀ p ∈ readsA f, RunsBody f (fun op => ReadsA op f) p :=
  runsBody_readsA (fun _ => readsA_bitUnary) (readsA_of_fp _ _) (readsA_of_fp _ _) (readsA_of_fp _ _)

theorem readsAB_of_mem : ∀ p ∈ readsAB f, RunsBody f (fun op => ReadsAB op f) p :=
  runsBody_readsAB (fun _ _ _ => readsAB_of_bind _ _) (fun _ _ => readsAB_of_bind _ _) (fun _ _ => readsAB_of_bind _ _) (fun _ _ => readsAB_of_fp _)
    (readsAB_of_bind _ _) (readsAB_of_bind _ _) (readsAB_of_bind _ _) (readsAB_of_fp _)

theorem readsDAB_of_mem : ∀ p ∈ readsDAB f, RunsBody f (fun op => ReadsDAB op f) p :=
  runsBody_readsDAB readsDAB_madBody readsDAB_bfiBody readsDAB_ffmaBody

end

/-! ### TAG (R95) -/

section

variable {f : Fields} {s : State} {n : BitVec 6} (hg : acts s f) (ht : s.entersTraps) (htag : ((s.ctx s.cur).getC n).tag = true)

include hg ht htag

theorem traps_tagged_A {p : Nat × Instr} (h : RunsBody f (fun op => ReadsA op f) p) (ha : f.a = .c n) :
    traps p.2 s 0x05 (2 * 2 ^ 53 + n.toNat * 2 ^ 46 + p.1) := by
  obtain ⟨body, hi, hreads⟩ := h
  exact traps_of_body (hi s) hg (hreads s _ (ha ▸ State.dataOpnd_tagged htag p.1 2)) ht

theorem traps_tagged_B {p : Nat × Instr} {a : Nat} (h : RunsBody f (fun op => ReadsAB op f) p) (ha : holds s f.a a) (hl : f.lit = false) (hb : f.b = .c n) :
    traps p.2 s 0x05 (3 * 2 ^ 53 + n.toNat * 2 ^ 46 + p.1) := by
  obtain ⟨body, hi, -, hreads⟩ := h
  exact traps_of_body (hi s) hg (hreads s a _ (ha p.1 2) hl (hb ▸ State.dataOpnd_tagged htag p.1 3)) ht

/-- The first tagged operand in the order D, A, B is the one that TVAL names (log 118). -/
theorem traps_tagged_DAB {p : Nat × Instr} (h : RunsBody f (fun op => ReadsDAB op f) p) :
    (f.d = .c n → traps p.2 s 0x05 (1 * 2 ^ 53 + n.toNat * 2 ^ 46 + p.1)) ∧
      ∀ d, holds s f.d d → (f.a = .c n → traps p.2 s 0x05 (2 * 2 ^ 53 + n.toNat * 2 ^ 46 + p.1)) ∧
        ∀ a, holds s f.a a → f.lit = false → f.b = .c n → traps p.2 s 0x05 (3 * 2 ^ 53 + n.toNat * 2 ^ 46 + p.1) := by
  obtain ⟨body, hi, hD, hAB⟩ := h
  refine ⟨fun hd => traps_of_body (hi s) hg (hD s _ (hd ▸ State.dataOpnd_tagged htag p.1 1)) ht, fun d hd => ?_⟩
  obtain ⟨hA, hB⟩ := hAB s d (hd p.1 1)
  exact ⟨fun ha => traps_of_body (hi s) hg (hA _ (ha ▸ State.dataOpnd_tagged htag p.1 2)) ht,
    fun a ha hl hb => traps_of_body (hi s) hg (hB a _ (ha p.1 2) hl (hb ▸ State.dataOpnd_tagged htag p.1 3)) ht⟩

theorem traps_movh_tagged (hd : f.d = .c n) : traps (.movh f) s 0x05 (1 * 2 ^ 53 + n.toNat * 2 ^ 46 + 0x026) := by
  refine traps_of_body (body := movhBody f) rfl hg ?_ ht
  simp only [movhBody, hd, State.dataOpnd_tagged htag, TAG, bind, Except.bind]

/-- A guard takes data, where a c register would take the capability (R122). -/
theorem traps_mov_tagged {g : BitVec 4} (ha : f.a = .c n) (hd : f.d = .g g) : traps (.mov f) s 0x05 (2 * 2 ^ 53 + n.toNat * 2 ^ 46 + 0x025) := by
  refine traps_of_body (body := movBody f) rfl hg ?_ ht
  simp only [movBody, ha, hd, State.dataOpnd_tagged htag, TAG, bind, Except.bind]

end

/-- Settles O5: each list's instructions read their operands in its order, and the first tagged one traps. -/
theorem taggedDataTraps : Obligations.TaggedDataTraps := by
  intro f s n hg ht htag tval
  refine ⟨fun ha => ⟨fun p hp => ?A, fun g => traps_mov_tagged hg ht htag ha, fun d hd p hp => ?DA⟩, fun hl hb a ha => ⟨fun p hp => ?B, fun d hd p hp => ?DB⟩,
    fun hd => List.forall_mem_cons.2 ⟨traps_movh_tagged hg ht htag hd, fun p hp => ?D⟩⟩
  case A =>
    obtain hp | hp := List.mem_append.1 hp
    · exact traps_tagged_A hg ht htag (readsA_of_mem f p hp) ha
    · obtain ⟨body, hi, hA, -⟩ := readsAB_of_mem f p hp
      exact traps_tagged_A hg ht htag ⟨body, hi, hA⟩ ha
  case DA => exact ((traps_tagged_DAB hg ht htag (readsDAB_of_mem f p hp)).2 d hd).1 ha
  case B => exact traps_tagged_B hg ht htag (readsAB_of_mem f p hp) ha hl hb
  case DB => exact ((traps_tagged_DAB hg ht htag (readsDAB_of_mem f p hp)).2 d hd).2 a ha hl hb
  case D => exact (traps_tagged_DAB hg ht htag (readsDAB_of_mem f p hp)).1 hd

end Sys2Proof.Machine
end

section
/-! # No instruction on registers makes authority (O10)

What a body leaves in the c registers of its context is judged by `Ctx.GrantsNoMore`: each tagged register lies within one that was tagged
before. One lemma for each way to write D says that it keeps this; how an instruction ends, or stops, changes no c register. -/

namespace Sys2Proof

/-! ### A field replaced (R18) -/

/-- The parts of the number in the field, above and below it. -/
theorem setFld_eq (x lo w y : Nat) : setFld x lo w y = 2 ^ lo * (2 ^ w * (x / 2 ^ lo / 2 ^ w) + y % 2 ^ w) + x % 2 ^ lo := by
  have hlow : 2 ^ lo * (x / 2 ^ lo) + x % 2 ^ lo = x := Nat.div_add_mod x (2 ^ lo)
  have hhigh : 2 ^ w * (x / 2 ^ lo / 2 ^ w) + x / 2 ^ lo % 2 ^ w = x / 2 ^ lo := Nat.div_add_mod _ (2 ^ w)
  have hx : x = 2 ^ lo * (2 ^ w * (x / 2 ^ lo / 2 ^ w)) + x / 2 ^ lo % 2 ^ w * 2 ^ lo + x % 2 ^ lo := by
    rw [Nat.mul_comm (_ % _), ← Nat.mul_add, hhigh, hlow]
  rw [setFld, fld, Nat.mul_add, Nat.mul_comm (2 ^ lo) (y % 2 ^ w)]
  omega

theorem testBit_setFld (x lo w y i : Nat) :
    (setFld x lo w y).testBit i = if lo ≤ i ∧ i < lo + w then y.testBit (i - lo) else x.testBit i := by
  rw [setFld_eq, Nat.testBit_two_pow_mul_add _ (Nat.mod_lt _ (Nat.two_pow_pos lo)), Nat.testBit_two_pow_mul_add _ (Nat.mod_lt _ (Nat.two_pow_pos w))]
  simp only [Nat.testBit_mod_two_pow, Nat.testBit_div_two_pow]
  by_cases hlo : i < lo
  · rw [if_pos hlo, if_neg (by omega), decide_eq_true hlo, Bool.true_and]
  · rw [if_neg hlo]
    by_cases hw : i - lo < w
    · rw [if_pos hw, if_pos (by omega), decide_eq_true hw, Bool.true_and]
    · rw [if_neg hw, if_neg (by omega)]
      congr 1
      omega

theorem setFld_lt {x lo w y n : Nat} (hx : x < 2 ^ n) (h : lo + w ≤ n) : setFld x lo w y < 2 ^ n := by
  refine Nat.lt_pow_two_of_testBit _ fun i hi => ?_
  rw [testBit_setFld, if_neg (by omega)]
  exact Nat.testBit_lt_two_pow (hx.trans_le (Nat.pow_le_pow_right (by decide) hi))

end Sys2Proof

namespace Sys2Proof.Machine

open Sys2Proof.Claims

/-! ### Capabilities as registers hold them (R96) -/

/-- Every field fits its bits. -/
def Cap.Fits (c : Cap) : Prop :=
  c.base < 2 ^ 56 ∧ c.off < 2 ^ 40 ∧ c.lenM < 2 ^ 10 ∧ c.lenE < 2 ^ 6 ∧ c.perm < 2 ^ 8 ∧ c.space < 2 ^ 4 ∧ c.otype < 2 ^ 4

theorem fld_lt (x lo w : Nat) : fld x lo w < 2 ^ w := Nat.mod_lt _ (Nat.two_pow_pos w)

theorem CReg.cap_fits (r : CReg) : r.cap.Fits :=
  ⟨fld_lt _ _ _, fld_lt _ _ _, fld_lt _ _ _, fld_lt _ _ _, fld_lt _ _ _, fld_lt _ _ _, fld_lt _ _ _⟩

/-- A capability is what its register holds. -/
theorem Cap.cap_reg {c : Cap} (h : c.Fits) : c.reg.cap = c := by
  obtain ⟨hbase, hoff, hm, he, hperm, hspace, hotype⟩ := h
  cases c
  simp only [Cap.reg, CReg.cap, fld, BitVec.toNat_ofNat, Cap.mk.injEq] at *
  refine ⟨?_, ?_, ?_, ?_, ?_, ?_, ?_⟩ <;> omega

theorem lenEncode_eq_some {n m e : Nat} (h : lenEncode n = some (m, e)) : n = m * 2 ^ e ∧ m ≤ 1023 ∧ e < 64 := by
  unfold lenEncode at h
  obtain ⟨e', he', hp⟩ := Option.map_eq_some_iff.1 h
  have hmem := List.mem_of_find?_eq_some he'
  have hok := List.find?_some he'
  simp only [Bool.and_eq_true, beq_iff_eq, decide_eq_true_eq, Prod.mk.injEq] at hok hp
  obtain ⟨rfl, rfl⟩ := hp
  exact ⟨(Nat.div_mul_cancel (Nat.dvd_of_mod_eq_zero hok.1)).symm, hok.2, List.mem_range.1 hmem⟩

/-! ### Authority (R96) -/

theorem within_refl (x : Cap) : within x x := ⟨rfl, fun i hi => ⟨i, hi, rfl⟩, fun _ _ _ h => h⟩

/-- The same bytes, with permissions of the other. -/
theorem within_of_perm {x y : Cap} (hspace : x.space = y.space) (hbase : x.base = y.base) (hlen : x.len = y.len)
    (hperm : ∀ p < 8, p ≠ 6 → x.perm.testBit p = true → y.perm.testBit p = true) : within x y :=
  ⟨hspace, fun i hi => ⟨i, hlen ▸ hi, by rw [hbase]⟩, hperm⟩

/-- Bytes from the cursor of the other, within its length. -/
theorem within_of_cursor {x y : Cap} (hspace : x.space = y.space) (hbase : x.base = (y.base + y.off) % 2 ^ 56) (hlen : y.off + x.len ≤ y.len)
    (hperm : x.perm = y.perm) : within x y := by
  refine ⟨hspace, fun i hi => ⟨y.off + i, by omega, ?_⟩, fun p _ _ h => hperm ▸ h⟩
  rw [hbase, Nat.mod_add_mod, Nat.add_assoc]

/-- What the tagged c registers of `d` grant, tagged c registers of `c` grant. -/
def Ctx.GrantsNoMore (c d : Ctx) : Prop :=
  ∀ n : BitVec 6, (d.getC n).tag = true → ∃ m, (c.getC m).tag = true ∧ within (d.getC n).cap (c.getC m).cap

/-- The register holds no capability, or one within a tagged register of `c`. -/
def Ctx.Grants (c : Ctx) (r : CReg) : Prop := r.tag = true → ∃ m, (c.getC m).tag = true ∧ within r.cap (c.getC m).cap

theorem Ctx.grants_of_untagged {c : Ctx} {r : CReg} (h : r.tag = false) : c.Grants r := fun ht => absurd (h ▸ ht) Bool.false_ne_true

theorem Ctx.grants_getC (c : Ctx) (n : BitVec 6) : c.Grants (c.getC n) := fun h => ⟨n, h, within_refl _⟩

theorem Ctx.getC_of_c {c d : Ctx} (h : d.c = c.c) (n : BitVec 6) : d.getC n = c.getC n := by
  unfold Ctx.getC
  rw [h]

namespace Ctx.GrantsNoMore

variable {c d e : Ctx}

theorem of_c (h : d.c = c.c) : c.GrantsNoMore d := fun n ht => by
  rw [Ctx.getC_of_c h] at ht ⊢
  exact c.grants_getC n ht

theorem refl : c.GrantsNoMore c := of_c rfl

theorem trans_c (h : c.GrantsNoMore d) (he : e.c = d.c) : c.GrantsNoMore e := fun n => by
  rw [Ctx.getC_of_c he]
  exact h n

theorem setC {n : BitVec 6} {r : CReg} (h : c.GrantsNoMore d) (hr : c.Grants r) : c.GrantsNoMore (d.setC n r) := by
  intro m
  rw [Ctx.getC_setC]
  split
  · exact fun ht => absurd ht Bool.false_ne_true
  · split
    · exact hr
    · exact h m

end Ctx.GrantsNoMore

/-! ### The c registers of a context through the operations of a body -/

/-- The c registers of context `k` are as they were. -/
def State.SameC (s t : State) (k : Nat) : Prop := (t.ctx k).c = (s.ctx k).c

section

variable {s t u : State} {k : Nat}

theorem State.SameC.refl : s.SameC s k := rfl
theorem State.SameC.trans (h1 : s.SameC t k) (h2 : t.SameC u k) : s.SameC u k := Eq.trans h2 h1

theorem State.sameC_modCtx (s : State) (k j : Nat) {f : Ctx → Ctx} (hf : ∀ c, (f c).c = c.c) : s.SameC (s.modCtx j f) k := by
  unfold State.SameC
  rw [State.ctx_modCtx]
  split
  next h => rw [hf, h]
  next => rfl

theorem State.sameC_dropMisses (s : State) (k j : Nat) : s.SameC (s.dropMisses j) k := congrArg Ctx.c (s.ctx_dropMisses j k)

theorem State.sameC_issued (s before : State) (k pace : Nat) : s.SameC (s.issued before k pace) k := by
  obtain ⟨-, -, -, h⟩ := s.issued_goesOn before k pace
  unfold State.SameC
  rw [h]

theorem State.sameC_freeze (s : State) (k j cause addr : Nat) : s.SameC (s.freeze j cause addr) k := by
  have hraise (t : State) (port vec : Nat) : (t.raiseMsix port vec).ctx k = t.ctx k := by
    unfold State.raiseMsix
    split <;> rfl
  have hfreeze : (s.freeze j cause addr).ctx k = (s.modCtx j (fun x => { x with frozen := true })).ctx k := hraise _ _ _
  exact (congrArg Ctx.c hfreeze).trans (s.sameC_modCtx k j fun _ => rfl)

theorem State.sameC_takeTrap (s : State) (k j flags cause tval : Nat) : s.SameC (s.takeTrap j flags cause tval) k := by
  unfold State.takeTrap
  split
  · exact State.sameC_modCtx _ k j fun _ => rfl
  · split
    · exact s.sameC_freeze k j _ _
    · exact s.sameC_modCtx k j fun _ => rfl

theorem Ctx.advance_c (c : Ctx) : c.advance.c = c.c := by
  unfold Ctx.advance
  split
  · rfl
  · split
    · rfl
    · split
      · rfl
      · exact Ctx.releaseSb_c _ _

/-- However an instruction ends, the c registers are those that its body left. -/
theorem State.sameC_finish (s : State) (f : Fields) (o : Out) : o.s.SameC (s.finish f o) s.cur := by
  have hstart : o.s.SameC ((o.s.dropMisses s.cur).modCtx s.cur (fun c => { c with waitFrom := none })) s.cur :=
    (State.sameC_dropMisses _ _ _).trans (State.sameC_modCtx _ _ _ fun _ => rfl)
  have hadvance (t : State) : t.SameC (t.modCtx s.cur Ctx.advance) s.cur := t.sameC_modCtx _ _ Ctx.advance_c
  have hissued (t : State) (pace : Nat) : t.SameC (t.issued s s.cur pace) s.cur := t.sameC_issued s s.cur pace
  unfold State.finish
  split
  case h_1 => exact (hstart.trans (hadvance _)).trans (hissued _ _)
  case h_2 => exact (hstart.trans (State.sameC_modCtx _ _ _ fun _ => by rfl)).trans (hissued _ _)
  case h_3 => exact ((hstart.trans (hadvance _)).trans (State.sameC_takeTrap _ _ _ _ _ _)).trans (hissued _ _)
  case h_4 => exact ((hstart.trans (hadvance _)).trans (hissued _ _)).trans (State.sameC_modCtx _ _ _ fun _ => by rfl)
  all_goals exact hstart.trans (hissued _ _)

theorem State.ctx_leaveYields (s : State) (k j : Nat) : ∃ y, (s.leaveYields k).ctx j = { s.ctx j with yielding := y } := by
  have key := Sparse.get_map ({} : Ctx) (fun _ c => if c.yielding.contains k then { c with yielding := c.yielding.erase k } else c)
    (fun _ => rfl) s.ctxs j
  have e : (s.leaveYields k).ctxs = s.ctxs.map
      (fun e => (e.1, if e.2.yielding.contains k then { e.2 with yielding := e.2.yielding.erase k } else e.2)) := by
    refine List.map_congr_left fun x _ => ?_
    split <;> rfl
  unfold State.ctx
  rw [e, key]
  split
  · exact ⟨_, rfl⟩
  · exact ⟨_, rfl⟩

theorem State.sameC_leaveYields (s : State) (k j : Nat) : s.SameC (s.leaveYields j) k := by
  obtain ⟨y, h⟩ := s.ctx_leaveYields j k
  unfold State.SameC
  rw [h]

end

/-! ### What the body of an instruction answers -/

/-- What stops an instruction short leaves the c registers of its context. -/
def Stop.SameC (s : State) : Stop → Prop
  | .trap _ _ => True
  | .stay t => s.SameC t s.cur
  | .fin t => s.SameC t s.cur

/-- A computation of an instruction of `s` answers what has `P`, or stops short and leaves the c registers. -/
abbrev Leaves {α : Type} (s : State) (P : α → Prop) (x : Exec α) : Prop := Ends (Stop.SameC s) P x

/-- The state makes no authority that the context in hand of `s` did not hold. -/
def State.NoMore (s t : State) : Prop := (s.ctx s.cur).GrantsNoMore (t.ctx s.cur)

/-- The body makes no authority, in whatever state it runs. -/
def MakesNone (body : State → Exec Out) : Prop := ∀ s, Leaves s (fun o => s.NoMore o.s) (body s)

section

variable {α : Type} {s t u : State} {P : α → Prop}

theorem State.NoMore.refl : s.NoMore s := Ctx.GrantsNoMore.refl
theorem State.NoMore.trans_sameC (h : s.NoMore t) (hu : t.SameC u s.cur) : s.NoMore u := Ctx.GrantsNoMore.trans_c h hu
theorem State.SameC.noMore (h : s.SameC t s.cur) : s.NoMore t := .of_c h

theorem State.NoMore.setD {o : Opnd} {r : CReg} (h : s.NoMore t) (hr : (s.ctx s.cur).Grants r) : s.NoMore (t.setD o r) := by
  cases o with
  | c n =>
    unfold State.NoMore State.setD
    rw [State.ctx_modCtx]
    split
    next hk => exact (hk ▸ h : (s.ctx s.cur).GrantsNoMore (t.ctx t.cur)).setC hr
    next => exact h
  | _ => exact h

theorem State.NoMore.setGuardD {o : Opnd} {x : Word64} (h : s.NoMore t) : s.NoMore (t.setGuardD o x) := by
  cases o with
  | g n => exact h.trans_sameC (State.sameC_modCtx _ _ _ fun _ => Ctx.setG_c _ _ _)
  | _ => exact h

theorem State.NoMore.modCtx {k : Nat} {f : Ctx → Ctx} (h : s.NoMore t) (hf : ∀ c, (f c).c = c.c) : s.NoMore (t.modCtx k f) :=
  h.trans_sameC (State.sameC_modCtx _ _ _ hf)

theorem State.NoMore.orFlags {k fl : Nat} (h : s.NoMore t) : s.NoMore (t.modCtx k (fun c => c.orFlags fl)) :=
  h.modCtx fun _ => Ctx.orFlags_c _ _

theorem Leaves.trap {cause tval : Nat} : Leaves s P (trap cause tval) := trivial

/-- What follows a check may rely on it. -/
theorem Leaves.need {ok : Bool} {cause tval : Nat} : Leaves s (fun _ => ok = true) (need ok cause tval) := by
  cases ok with
  | false => exact trivial
  | true => exact rfl

theorem Leaves.dataOpnd {op field : Nat} {o : Opnd} : Leaves s (fun _ => True) (s.dataOpnd op field o) := by
  unfold State.dataOpnd
  split
  · exact .ite trivial trivial
  all_goals exact trivial

theorem Leaves.opndB {op : Nat} {f : Fields} {signed : Bool} : Leaves s (fun _ => True) (s.opndB op f signed) := .ite trivial Leaves.dataOpnd

theorem Leaves.fpOpnd {op field ty : Nat} {o : Opnd} : Leaves s (fun _ => True) (s.fpOpnd op field ty o) := Leaves.dataOpnd.bind fun _ _ => trivial

theorem Leaves.fpB {op : Nat} {f : Fields} : Leaves s (fun _ => True) (s.fpB op f) := .ite trivial Leaves.fpOpnd

theorem State.NoMore.word {o : Opnd} {x : Nat} (h : s.NoMore t) : s.NoMore (t.setD o (CReg.word x)) := h.setD (Ctx.grants_of_untagged rfl)

theorem CReg.tag_ofTy (ty : Nat) (x : Int) : (CReg.ofTy ty x).tag = false := by
  unfold CReg.ofTy
  split <;> rfl

theorem State.NoMore.ofTy {o : Opnd} {ty : Nat} {x : Int} (h : s.NoMore t) : s.NoMore (t.setD o (CReg.ofTy ty x)) :=
  h.setD (Ctx.grants_of_untagged (CReg.tag_ofTy _ _))

end

/-! ### Integer, guard and floating-point instructions: data -/

section

variable {f : Fields}

theorem makesNone_bitUnary (op : Nat) (g : Nat → Nat → Nat) : MakesNone (bitUnary op f g) :=
  fun _ => Leaves.dataOpnd.bind fun _ _ => .ok (.word .refl)

theorem makesNone_intBinary (op : Nat) (sat : Bool) (g : Int → Int → Int) : MakesNone (intBinary op f sat g) :=
  fun _ => Leaves.dataOpnd.bind fun _ _ => Leaves.opndB.bind fun _ _ => .ok (.ofTy .refl)

theorem makesNone_bitBinary (op : Nat) (g : Nat → Nat → Nat → Nat) : MakesNone (bitBinary op f g) :=
  fun _ => Leaves.dataOpnd.bind fun _ _ => Leaves.opndB.bind fun _ _ => .ok (.ofTy .refl)

theorem makesNone_shiftOp (op : Nat) (g : Nat → Nat → Nat → Nat) : MakesNone (shiftOp op f g) :=
  fun _ => Leaves.dataOpnd.bind fun _ _ => Leaves.opndB.bind fun _ _ => .ok (.ofTy .refl)

theorem Leaves.fpDone {s : State} {r : Flagged} : Leaves s (fun o => s.NoMore o.s) (s.fpDone f r) := .ok (.orFlags (.word .refl))

theorem makesNone_fpBinary (op : Nat) (g : Nat → Nat → Nat → Flagged) : MakesNone (fpBinary op f g) :=
  fun _ => Leaves.fpOpnd.bind fun _ _ => Leaves.fpB.bind fun _ _ => Leaves.fpDone

theorem makesNone_fsqrtBody : MakesNone (fsqrtBody f) := fun _ => Leaves.fpOpnd.bind fun _ _ => Leaves.fpDone

theorem tag_convert (dst src rm x : Nat) : (convert dst src rm x).1.tag = false := by
  unfold convert
  split
  · rfl
  · exact CReg.tag_ofTy _ _

theorem makesNone_fcvtBody : MakesNone (fcvtBody f) :=
  fun _ => Leaves.fpOpnd.bind fun _ _ => .ok (.orFlags (.setD .refl (Ctx.grants_of_untagged (tag_convert _ _ _ _))))

theorem makesNone_fclassBody : MakesNone (fclassBody f) := fun _ => Leaves.fpOpnd.bind fun _ _ => .ok (.word .refl)

theorem makesNone_fcmpBody : MakesNone (fcmpBody f) :=
  fun _ => Leaves.fpOpnd.bind fun _ _ => Leaves.fpB.bind fun _ _ => .ok (.orFlags (.setGuardD .refl))

theorem makesNone_ffmaBody : MakesNone (ffmaBody f) := fun s => Leaves.fpOpnd.bind fun _ _ => makesNone_fpBinary _ _ s

theorem makesNone_madBody : MakesNone (madBody f) := fun s => Leaves.dataOpnd.bind fun _ _ => makesNone_intBinary _ _ _ s

theorem makesNone_bfxBody : MakesNone (bfxBody f) :=
  fun _ => Leaves.dataOpnd.bind fun _ _ => Leaves.opndB.bind fun _ _ => .ok (.word .refl)

theorem makesNone_bfiBody : MakesNone (bfiBody f) :=
  fun _ => Leaves.dataOpnd.bind fun _ _ => Leaves.dataOpnd.bind fun _ _ => Leaves.opndB.bind fun _ _ => .ok (.word .refl)

theorem makesNone_cmpBody : MakesNone (cmpBody f) :=
  fun _ => Leaves.dataOpnd.bind fun _ _ => Leaves.opndB.bind fun _ _ => .ok (.setGuardD .refl)

theorem makesNone_gopBody : MakesNone (gopBody f) :=
  fun _ => Leaves.dataOpnd.bind fun _ _ => Leaves.opndB.bind fun _ _ => .ok (.setGuardD .refl)

theorem makesNone_of_mem_lists : ∀ p ∈ readsA f ++ readsAB f ++ readsDAB f, RunsBody f (fun _ => MakesNone) p := by
  rw [List.forall_mem_append, List.forall_mem_append]
  exact ⟨⟨runsBody_readsA makesNone_bitUnary makesNone_fsqrtBody makesNone_fcvtBody makesNone_fclassBody,
    runsBody_readsAB makesNone_intBinary makesNone_bitBinary makesNone_shiftOp makesNone_fpBinary makesNone_bfxBody makesNone_cmpBody makesNone_gopBody
      makesNone_fcmpBody⟩, runsBody_readsDAB makesNone_madBody makesNone_bfiBody makesNone_ffmaBody⟩

end

/-! ### Capabilities (R124, R126) -/

/-- The capability is what a tagged register of the context in hand holds. -/
def State.Holds (s : State) (c : Cap) : Prop := ∃ m, ((s.ctx s.cur).getC m).tag = true ∧ c = ((s.ctx s.cur).getC m).cap

section

variable {f : Fields} {s : State} {c x : Cap}

theorem State.Holds.fits (h : s.Holds c) : c.Fits := by
  obtain ⟨m, -, rfl⟩ := h
  exact CReg.cap_fits _

/-- A capability that fits its register and lies within one that is held. -/
theorem State.Holds.grants (h : s.Holds c) (hx : x.Fits) (hw : within x c) : (s.ctx s.cur).Grants x.reg := by
  obtain ⟨m, hm, rfl⟩ := h
  exact fun _ => ⟨m, hm, (Cap.cap_reg hx).symm ▸ hw⟩

/-- An offset changes nothing of what a capability grants. -/
theorem State.Holds.grants_offset (h : s.Holds c) {o : Nat} (ho : o < 2 ^ 40) : (s.ctx s.cur).Grants ({ c with off := o } : Cap).reg := by
  obtain ⟨hbase, -, hrest⟩ := h.fits
  exact h.grants ⟨hbase, ho, hrest⟩ (within_of_perm rfl rfl rfl fun _ _ _ h => h)

/-- Nor do permissions that it has, but for the seal, and an object type. -/
theorem State.Holds.grants_perm (h : s.Holds c) {p o : Nat} (hp : p < 2 ^ 8) (ho : o < 2 ^ 4)
    (hsub : ∀ i < 8, i ≠ 6 → p.testBit i = true → c.perm.testBit i = true) : (s.ctx s.cur).Grants ({ c with perm := p, otype := o } : Cap).reg := by
  obtain ⟨hbase, hoff, hm, he, -, hspace, -⟩ := h.fits
  exact h.grants ⟨hbase, hoff, hm, he, hp, hspace, ho⟩ (within_of_perm rfl rfl rfl hsub)

/-- The bytes from the cursor on, within the length, are bytes of the capability. -/
theorem State.Holds.grants_part (h : s.Holds c) {l m e : Nat} (hl : c.off + l ≤ c.len) (hle : lenEncode l = some (m, e)) :
    (s.ctx s.cur).Grants ({ c with base := c.cursor, off := 0, lenM := m, lenE := e } : Cap).reg := by
  obtain ⟨-, -, -, -, hperm, hspace, hotype⟩ := h.fits
  obtain ⟨rfl, hm, he⟩ := lenEncode_eq_some hle
  exact h.grants ⟨Nat.mod_lt _ (Nat.two_pow_pos 56), Nat.two_pow_pos 40, Nat.lt_succ_of_le hm, he, hperm, hspace, hotype⟩ (within_of_cursor rfl rfl hl rfl)

theorem State.capOpnd_holds {o : Opnd} (h : (s.capOpnd o).tag = true) : s.Holds (s.capOpnd o).cap := by
  cases o with
  | c n => exact ⟨n, h, rfl⟩
  | _ => exact absurd h Bool.false_ne_true

theorem Leaves.capOperands (op : Nat) (signed open_ : Bool) : Leaves s (fun r => s.Holds r.1) (capOperands op f signed open_ s) :=
  Leaves.need.bind fun _ htag => Leaves.need.bind fun _ _ => Leaves.opndB.bind fun _ _ => .ok (State.capOpnd_holds htag)

theorem makesNone_cbndBody : MakesNone (cbndBody f) := by
  refine fun s => (Leaves.capOperands 0x040 false true).bind fun (c, l) hc => Leaves.need.bind fun _ hl => ?_
  split
  · exact trivial
  next m e he => exact .ok (.setD .refl (hc.grants_part (of_decide_eq_true hl) he))

theorem makesNone_csoffBody : MakesNone (csoffBody f) :=
  fun _ => (Leaves.capOperands 0x041 false true).bind fun (_, _) hc => Leaves.need.bind fun _ hb => .ok (.setD .refl (hc.grants_offset (of_decide_eq_true hb)))

theorem makesNone_cincBody : MakesNone (cincBody f) := by
  refine fun s => (Leaves.capOperands 0x042 true true).bind fun (c, b) hc => Leaves.need.bind fun _ ho => .ok (.setD .refl (hc.grants_offset ?_))
  simp only [Bool.and_eq_true, decide_eq_true_eq] at ho
  omega

theorem makesNone_cpermBody : MakesNone (cpermBody f) := by
  refine fun s => (Leaves.capOperands 0x043 false true).bind fun (c, b) hc => .ok (.setD .refl ?_)
  obtain ⟨-, -, -, -, hperm, -, hotype⟩ := hc.fits
  refine hc.grants_perm (setFld_lt hperm (by decide)) hotype fun i _ _ hi => ?_
  rw [testBit_setFld] at hi
  split at hi
  · exact ((Bool.and_eq_true _ _).mp ((Nat.testBit_and c.perm b i) ▸ hi)).1
  · exact hi

theorem makesNone_csealBody : MakesNone (csealBody f) := by
  refine fun s => (Leaves.capOperands 0x046 false true).bind fun (c, t) hc => Leaves.need.bind fun _ ht => Leaves.need.bind fun _ _ => .ok (.setD .refl ?_)
  obtain ⟨-, -, -, -, hperm, -, -⟩ := hc.fits
  simp only [Bool.and_eq_true, decide_eq_true_eq] at ht
  refine hc.grants_perm (Nat.or_lt_two_pow hperm (by decide)) (by omega) fun i _ hne hi => ?_
  rw [Nat.testBit_or, permS, Nat.testBit_two_pow_of_ne (Ne.symm hne), Bool.or_false] at hi
  exact hi

theorem makesNone_cunsealBody : MakesNone (cunsealBody f) := by
  refine fun s => (Leaves.capOperands 0x047 false false).bind fun (c, t) hc => Leaves.need.bind fun _ _ => Leaves.need.bind fun _ _ =>
    Leaves.need.bind fun _ _ => .ok (.setD .refl ?_)
  obtain ⟨-, -, -, -, hperm, -, -⟩ := hc.fits
  refine hc.grants_perm (setFld_lt hperm (by decide)) (by decide) fun i _ hne hi => ?_
  rw [testBit_setFld, if_neg (by rw [permS]; omega)] at hi
  exact hi

theorem makesNone_cfldBody : MakesNone (cfldBody f) := fun _ => .ok (.word .refl)
theorem makesNone_ctagBody : MakesNone (ctagBody f) := fun _ => .ok (.setGuardD .refl)
theorem makesNone_cclrBody : MakesNone (cclrBody f) := fun _ => .ok (.setD .refl (Ctx.grants_of_untagged rfl))

/-! ### Moves, calls and random numbers (R122, R131, R136, R137) -/

/-- A copy of a whole register. -/
theorem State.grants_wholeOpnd (s : State) (o : Opnd) : (s.ctx s.cur).Grants (s.wholeOpnd o) := by
  cases o with
  | c n => exact (s.ctx s.cur).grants_getC n
  | _ => exact Ctx.grants_of_untagged rfl

theorem makesNone_movBody : MakesNone (movBody f) := by
  intro s
  unfold movBody
  split
  · exact Leaves.dataOpnd.bind fun _ _ => .ok (.setGuardD .refl)
  · exact .ok (.setD .refl (s.grants_wholeOpnd _))

theorem makesNone_movImmBody : MakesNone (movImmBody f) := by
  intro s
  unfold movImmBody
  dsimp only
  split
  · exact .ok (.setGuardD .refl)
  · exact .ok (.word .refl)

theorem makesNone_selBody : MakesNone (selBody f) := by
  refine fun s => .ok (.setD .refl ?_)
  split
  · exact s.grants_wholeOpnd _
  · split
    · exact Ctx.grants_of_untagged rfl
    · exact s.grants_wholeOpnd _

theorem makesNone_movhBody : MakesNone (movhBody f) := fun _ => Leaves.dataOpnd.bind fun _ _ => .ok (.word .refl)

theorem Leaves.relTarget : Leaves s (fun _ => True) (relTarget f s) := Leaves.need.bind fun _ _ => trivial

theorem Leaves.capCheck {rq : Req} {r : CReg} {off : Int} : Leaves s (fun _ => True) (capCheck s s.cur rq r off) :=
  Leaves.need.bind fun _ _ => Leaves.need.bind fun _ _ => Leaves.need.bind fun _ _ => Leaves.need.bind fun _ _ => Leaves.need.bind fun _ _ =>
    Leaves.need.bind fun _ _ => Leaves.need.bind fun _ _ => Leaves.need.bind fun _ _ => Leaves.need.bind fun _ _ => Leaves.need.bind fun _ _ => trivial

theorem Leaves.regTarget {op : Nat} : Leaves s (fun _ => True) (regTarget op f s) :=
  .ite (Leaves.capCheck.bind fun _ _ => Leaves.need.bind fun _ _ => trivial) (Leaves.need.bind fun _ _ => trivial)

theorem makesNone_callBody : MakesNone (callBody f) := fun _ => Leaves.relTarget.bind fun _ _ => .ok (.word .refl)

theorem makesNone_callIndBody : MakesNone (callIndBody f) :=
  fun _ => Leaves.regTarget.bind fun _ _ => .ok (.modCtx (.word .refl) fun _ => rfl)

theorem makesNone_rngseedBody : MakesNone (rngseedBody f) := fun _ => Leaves.opndB.bind fun _ _ => .ok (.word .refl)

theorem makesNone_rngBody : MakesNone (rngBody f) := by
  refine fun s => Leaves.dataOpnd.bind fun w _ => ?_
  dsimp only
  split
  · exact .ok (State.NoMore.trans_sameC (.word (.word .refl)) rfl)
  · exact .ok (.word (.word .refl))

end

/-! ### Vector instructions with a scalar destination (R109, R143, R148, R152, R153) -/

section

variable {f : Fields} {s t : State}

theorem State.sameC_learn (s : State) (k j : Nat) (c : Sparse Nat) : s.SameC (s.learn j c) k := by
  have hknown (t : State) (g : Known → Known) : t.SameC (t.modKnown j g) k := by
    unfold State.modKnown
    split
    · exact t.sameC_modCtx k j fun _ => rfl
    · rfl
  exact (hknown s _).trans rfl

theorem State.sameC_popQueue (s : State) (k j queue : Nat) : s.SameC (s.popQueue j queue).1 k := by
  unfold State.popQueue
  split
  · rfl
  · dsimp only
    split
    · rfl
    · exact State.sameC_learn _ k j _

theorem State.sameC_popQueues (k j : Nat) (qs : List Nat) (acc : State × List VReg) (h : s.SameC acc.1 k) :
    s.SameC (qs.foldl (fun (acc : State × List VReg) q => ((acc.1.popQueue j q).1, acc.2 ++ [(acc.1.popQueue j q).2])) acc).1 k := by
  induction qs generalizing acc with
  | nil => exact h
  | cons q qs ih => exact ih _ (h.trans (State.sameC_popQueue _ k j q))

theorem Leaves.acquireCheck {op n : Nat} : Leaves s (fun _ => True) (acquireCheck op n s) :=
  .ite trivial (.ite trivial trivial)

theorem Leaves.popStreams {op : Nat} {os : List Opnd} : Leaves s (fun r => s.SameC r.1 s.cur) (popStreams op s os) :=
  .ite (Leaves.acquireCheck.bind fun _ _ => .ok (State.sameC_popQueues _ _ _ _ rfl)) rfl

theorem Leaves.boundCheck {op : Nat} {x : List (Nat × Opnd)} : Leaves s (fun _ => True) (boundCheck s op f x) := by
  fun_induction Machine.boundCheck s op f x with
  | case1 => exact trivial
  | case2 _ _ _ _ ih => exact ih
  | case3 => exact trivial
  | case4 _ _ _ ih => exact ih

theorem Leaves.vecA {op : Nat} : Leaves s (fun r => s.SameC r.1 s.cur) (vecA op f s) := by
  refine Leaves.boundCheck.bind fun _ _ => Leaves.popStreams.bind fun (t, ps) ht => ?_
  dsimp only
  split <;> exact ht

theorem Leaves.vecOperands {op w lit : Nat} : Leaves s (fun r => s.SameC r.1 s.cur) (vecOperands op f w lit s) := by
  have popped (os : List Opnd) (k : State × List VReg → Exec (State × VReg × VReg)) (hk : ∀ t ps, ∃ x, k (t, ps) = .ok (t, x)) :
      Leaves s (fun r => s.SameC r.1 s.cur) (Machine.popStreams op s os >>= k) :=
    Leaves.popStreams.bind fun (t, ps) ht => by
      obtain ⟨x, hx⟩ := hk t ps
      rw [hx]
      exact ht
  have last (b : VReg) (os : List Opnd) : Leaves s (fun r => s.SameC r.1 s.cur) (do
      let (t, ps) ← Machine.popStreams op s os
      match f.a, f.b with
      | .q _, .q _ => .ok (t, ps.getD 0 0, if f.lit then b else ps.getD 1 0)
      | .q _, _ => .ok (t, ps.getD 0 0, b)
      | a, .q _ => .ok (t, s.vReg a, if f.lit then b else ps.getD 0 0)
      | a, _ => .ok (t, s.vReg a, b)) := by
    refine popped _ _ fun t ps => ?_
    dsimp only
    split <;> exact ⟨_, rfl⟩
  refine Leaves.boundCheck.bind fun _ _ => ?_
  refine .ite (last _ _) ?_
  split
  · exact Leaves.dataOpnd.bind fun _ _ => last _ _
  · exact last _ _
  · exact last _ _

theorem makesNone_vmovcBody : MakesNone (vmovcBody f) :=
  fun _ => .ite (Leaves.boundCheck.bind fun _ _ => Leaves.opndB.bind fun _ _ => Leaves.vecA.bind fun (_, _) ht => .ok (.ofTy ht.noMore))
    (Leaves.vecA.bind fun (_, _) ht => .ok ht.noMore)

theorem makesNone_vredBody : MakesNone (vredBody f) :=
  fun _ => Leaves.vecA.bind fun (_, _) ht => .ite (.ok ht.noMore) (.ite (.ok (.orFlags (.word ht.noMore))) (.ok (.ofTy ht.noMore)))

theorem makesNone_vcmpBody : MakesNone (vcmpBody f) :=
  fun _ => Leaves.vecOperands.bind fun (_, _, _) ht => .ite (.ok ht.noMore) (.ok (.orFlags (.setGuardD ht.noMore)))

end

/-! ### System registers (R112) -/

/-- Every system register but GCAP and WCAP is data. -/
theorem State.tag_sysReg (s : State) (k : Nat) {n : Nat} (hg : n ≠ 0x060) (hw : n ≠ 0x061) : (s.sysReg k n).tag = false := by
  unfold State.sysReg
  split
  case h_19 => exact absurd rfl hg
  case h_20 => exact absurd rfl hw
  all_goals rfl

/-! ### The whole instruction -/

section

variable {f : Fields} {body : State → Exec Out} {s : State}

theorem State.NoMore.stepVector (h : Leaves s (fun o => s.NoMore o.s) (body s)) : s.NoMore (stepVector f body s) := by
  unfold Machine.stepVector
  split
  next o e => exact State.NoMore.trans_sameC (h.of_ok e) (s.sameC_finish f o)
  next e he =>
    have hstop : Stop.SameC s e := h.of_error he
    have hissued (t : State) : t.SameC (t.issued s s.cur 0) s.cur := t.sameC_issued s s.cur 0
    refine State.SameC.noMore ?_
    cases e with
    | trap cause tval => exact ((s.sameC_dropMisses _ _).trans (State.sameC_takeTrap _ _ _ _ _ _)).trans (hissued _)
    | fin t => exact (hstop.trans (t.sameC_dropMisses _ _)).trans (hissued _)
    | stay t => exact (hstop.trans (t.sameC_leaveYields _ _)).trans (State.sameC_modCtx _ _ _ fun _ => by rfl)

theorem State.NoMore.stepScalar (h : Leaves s (fun o => s.NoMore o.s) (body s)) : s.NoMore (stepScalar f body s) := by
  unfold Machine.stepScalar
  split
  · exact .stepVector h
  · exact (s.sameC_finish f { s := s }).noMore

end

/-- What the instruction answers makes no authority. -/
def NeverForges (i : Instr) : Prop := ∀ s t, exec i s = .next t → grantsNoMore s t

section

variable {f : Fields} {i : Instr} {body : State → Exec Out}

theorem MakesNone.scalar (h : MakesNone body) (hi : ∀ s, exec i s = runScalar f body s) : NeverForges i := by
  intro s t ht
  rw [hi, runScalar, Host.Outcome.next.injEq] at ht
  exact ht ▸ State.NoMore.stepScalar (h s)

theorem MakesNone.vector (h : MakesNone body) (hi : ∀ s, exec i s = runVector f body s) : NeverForges i := by
  intro s t ht
  rw [hi, runVector, Host.Outcome.next.injEq] at ht
  exact ht ▸ State.NoMore.stepVector (h s)

theorem neverForges_registerWriters : ∀ i ∈ registerWriters f, NeverForges i := by
  simp only [registerWriters, List.forall_mem_append, List.forall_mem_cons, List.forall_mem_map]
  refine ⟨⟨makesNone_cbndBody.scalar fun _ => rfl, makesNone_csoffBody.scalar fun _ => rfl, makesNone_cincBody.scalar fun _ => rfl,
    makesNone_cpermBody.scalar fun _ => rfl, makesNone_cfldBody.scalar fun _ => rfl, makesNone_ctagBody.scalar fun _ => rfl,
    makesNone_cclrBody.scalar fun _ => rfl, makesNone_csealBody.scalar fun _ => rfl, makesNone_cunsealBody.scalar fun _ => rfl,
    makesNone_movBody.scalar fun _ => rfl, makesNone_movImmBody.scalar fun _ => rfl, makesNone_selBody.scalar fun _ => rfl,
    makesNone_movhBody.scalar fun _ => rfl, makesNone_bfxBody.scalar fun _ => rfl, makesNone_bfiBody.scalar fun _ => rfl,
    makesNone_callBody.scalar fun _ => rfl, makesNone_callIndBody.scalar fun _ => rfl, makesNone_rngBody.scalar fun _ => rfl,
    makesNone_rngseedBody.scalar fun _ => rfl, makesNone_vmovcBody.vector fun _ => rfl, makesNone_vredBody.vector fun _ => rfl,
    makesNone_vcmpBody.vector fun _ => rfl, fun _ h => absurd h List.not_mem_nil⟩, ?_⟩
  have hlists := makesNone_of_mem_lists (f := f)
  simp only [List.forall_mem_append] at hlists
  obtain ⟨⟨hA, hAB⟩, hDAB⟩ := hlists
  exact ⟨⟨fun p hp => (hA p hp).elim fun _ h => h.2.scalar h.1, fun p hp => (hAB p hp).elim fun _ h => h.2.scalar h.1⟩,
    fun p hp => (hDAB p hp).elim fun _ h => h.2.scalar h.1⟩

theorem forges_sysrd {s t : State} (hg : f.imm.toNat % 2 ^ 12 ≠ 0x060) (hw : f.imm.toNat % 2 ^ 12 ≠ 0x061) (h : exec (.sysrd f) s = .next t) :
    grantsNoMore s t := by
  rw [show exec (.sysrd f) s = .next (stepScalar f (sysrdBody f) s) from rfl, Host.Outcome.next.injEq] at h
  rw [← fld_zero] at hg hw
  exact h ▸ State.NoMore.stepScalar (.ok (.setD .refl (Ctx.grants_of_untagged (s.tag_sysReg s.cur hg hw))))

end

/-- Settles O10: no body on the list leaves authority that no tagged register held, and the end of an instruction changes no c register. -/
theorem noForgedCapability : Obligations.NoForgedCapability :=
  fun _ s t => ⟨fun i hi => neverForges_registerWriters i hi s t, forges_sysrd⟩

end Sys2Proof.Machine
end

section
/-! # Capabilities computed in registers (O7)

On a capability that is tagged and not sealed the operands of the capability group read what they name; each body then writes D. -/

namespace Sys2Proof

/-- A number read with the sign of its low `n` bits (R19). -/
theorem sx_eq_toInt (x : Nat) {n : Nat} (hn : 0 < n) : sx x n = (BitVec.ofNat n x).toInt := by
  rw [BitVec.toInt_eq_msb_cond, BitVec.msb_eq_getLsbD_last, BitVec.getLsbD_ofNat, BitVec.toNat_ofNat, sx, bitAt_eq_testBit, fld_zero,
    decide_eq_true (by omega : n - 1 < n), Bool.true_and, Nat.cast_pow]
  rfl

theorem lenEncode_shortest {l m e : Nat} (h : Claims.shortest l m e) : lenEncode l = some (m, e) := by
  obtain ⟨rfl, hm, he, hmin⟩ := h
  have hpow : 0 < 2 ^ e := Nat.two_pow_pos e
  have hfind : (List.range 64).find? (fun i => m * 2 ^ e % 2 ^ i == 0 && m * 2 ^ e / 2 ^ i ≤ 1023) = some e := by
    refine List.find?_range_eq_some.2 ⟨?_, List.mem_range.2 he, fun i hi => ?_⟩
    · rw [Nat.mul_mod_left, Nat.mul_div_cancel _ hpow, decide_eq_true hm]
      rfl
    · rw [Bool.not_eq_true', Bool.eq_false_iff]
      intro hp
      rw [Bool.and_eq_true, beq_iff_eq, decide_eq_true_eq] at hp
      exact absurd (hmin _ i (Nat.div_mul_cancel (Nat.dvd_of_mod_eq_zero hp.1)).symm hp.2) (Nat.not_le.2 hi)
  rw [lenEncode, hfind, Option.map_some, Nat.mul_div_cancel _ hpow]

namespace Machine

open Sys2Proof.Claims

/-- Data in a c register is 64 bits and their sign (R95). -/
theorem CReg.word_eq (x : Nat) : CReg.word x = Claims.word x := by
  rw [CReg.word, sx_eq_toInt x (by decide)]
  rfl

theorem CReg.word_mod (x : Nat) : CReg.word (x % 2 ^ 64) = Claims.word x := by
  have h : BitVec.ofNat 64 (x % 2 ^ 64) = BitVec.ofNat 64 x := BitVec.eq_of_toNat_eq (by simp only [BitVec.toNat_ofNat, Nat.mod_mod])
  rw [CReg.word_eq, Claims.word, h, Claims.word]

/-! ### Checks that pass, and checks that do not -/

section

variable {α : Type} {ok : Bool} {cause tval : Nat} {k : Unit → Exec α}

theorem need_bind_pass (h : ok = true) : (need ok cause tval >>= k) = k () := by
  rw [h, need_true]
  rfl

theorem need_bind_trap (h : ok = false) : (need ok cause tval >>= k) = .error (.trap cause tval) := by
  rw [h]
  rfl

end

/-- What follows a computation that answers goes on with its answer. -/
theorem Exec.bind_of_ok {α β : Type} {x : Exec α} {a : α} {k : α → Exec β} (h : x = .ok a) : (x >>= k) = k a := by
  rw [h]
  rfl

theorem Cap.has_eq_testBit (c : Cap) (p : Nat) : c.has p = c.perm.testBit p := bitAt_eq_testBit _ _

section

variable {f : Fields} {s : State} {n : BitVec 6}

theorem State.capOpnd_c (ha : f.a = .c n) : s.capOpnd f.a = (s.ctx s.cur).getC n := by
  rw [ha]
  rfl

variable (hg : acts s f) (ha : f.a = .c n)

include ha

theorem capOperands_unsealed {op b : Nat} {signed open_ : Bool} (htag : ((s.ctx s.cur).getC n).tag = true)
    (hs : ((s.ctx s.cur).getC n).cap.perm.testBit 6 = false) (hb : holdsB s f signed b) :
    capOperands op f signed open_ s = .ok (((s.ctx s.cur).getC n).cap, b) := by
  rw [capOperands, State.capOpnd_c ha, htag, Cap.has_eq_testBit, permS, hs, hb op]
  cases open_ <;> rfl

theorem cfldBody_eq : cfldBody f s =
    done (s.setD f.d (Claims.word (if ((s.ctx s.cur).getC n).tag then ((s.ctx s.cur).getC n).cap.field (f.md.toNat % 8) else 0))) := by
  rw [cfldBody, State.capOpnd_c ha, Fields.mod_zero_three, ← CReg.word_mod]
  split <;> rfl

end

/-- The fields of a capability lie in its register as R96 has them. -/
theorem CReg.cap_field (r : CReg) (k : Nat) : r.cap.field k =
    match k with
    | 0 => r.val.toNat % 2 ^ 56
    | 1 => r.val.toNat / 2 ^ 56 % 2 ^ 40
    | 2 => r.val.toNat / 2 ^ 96 % 2 ^ 10 * 2 ^ (r.val.toNat / 2 ^ 106 % 2 ^ 6)
    | 3 => r.val.toNat / 2 ^ 112 % 2 ^ 8
    | 4 => r.val.toNat / 2 ^ 120 % 2 ^ 4
    | 5 => r.val.toNat / 2 ^ 124
    | _ => (r.val.toNat % 2 ^ 56 + r.val.toNat / 2 ^ 56 % 2 ^ 40) % 2 ^ 56 := by
  have hbase : r.cap.base = r.val.toNat % 2 ^ 56 := fld_zero _ _
  have hotype : r.cap.otype = r.val.toNat / 2 ^ 124 := Nat.mod_eq_of_lt (Nat.div_lt_of_lt_mul r.val.isLt)
  match k with
  | 0 => exact hbase
  | 1 | 2 | 3 | 4 => rfl
  | 5 => exact hotype
  | _ + 6 => exact congrArg (fun x => (x + r.cap.off) % 2 ^ 56) hbase

/-- PERM[5:0] masked, and the bits above as they were (R124). -/
theorem testBit_maskedPerm (p b i : Nat) : (setFld p 0 6 (p &&& b)).testBit i = (p.testBit i && (decide (6 ≤ i) || b.testBit i)) := by
  rw [testBit_setFld]
  by_cases hi : 6 ≤ i
  · rw [if_neg (by omega), decide_eq_true hi, Bool.true_or, Bool.and_true]
  · rw [if_pos (by omega), decide_eq_false hi, Bool.false_or, Nat.sub_zero, Nat.testBit_and]

/-- Settles O7: the operands read, and each body answers a write of D. -/
theorem capabilityResults : Obligations.CapabilityResults := by
  unfold Obligations.CapabilityResults
  dsimp only
  refine ⟨fun f s n b hg ha htag hs => ⟨fun hb hl m e hme => ?cbnd, fun hb hl => ?csoff, fun hb o ho hsum => ?cinc,
    fun hb => ⟨_, ?cperm, fun i _ => testBit_maskedPerm _ b i⟩⟩, fun f s n hg ha => ⟨?cclr, ?ctag, ?cfld⟩⟩
  case cbnd =>
    refine does_putC_of_body (body := cbndBody f) rfl hg ?_
    rw [cbndBody, capOperands_unsealed ha htag hs hb]
    refine (need_bind_pass (decide_eq_true hl)).trans ?_
    rw [lenEncode_shortest hme, Cap.cursor]
  case csoff =>
    refine does_putC_of_body (body := csoffBody f) rfl hg ?_
    rw [csoffBody, capOperands_unsealed ha htag hs hb]
    exact need_bind_pass (decide_eq_true hl)
  case cinc =>
    refine does_putC_of_body (body := cincBody f) rfl hg ?_
    have hoff : (((s.ctx s.cur).getC n).cap.off : Int) + sx b 64 = (o : Int) := by rw [sx_eq_toInt b (by decide), hsum]
    rw [cincBody, capOperands_unsealed ha htag hs hb]
    refine (need_bind_pass ?_).trans ?_
    · rw [hoff, decide_eq_true (Int.natCast_nonneg o), decide_eq_true (by exact_mod_cast ho), Bool.true_and]
    · rw [hoff, Int.toNat_natCast]
  case cperm =>
    refine does_putC_of_body (body := cpermBody f) rfl hg ?_
    rw [cpermBody, capOperands_unsealed ha htag hs hb]
    rfl
  case cclr => exact does_putC_of_body (body := cclrBody f) rfl hg (by rw [cclrBody, State.capOpnd_c ha])
  case ctag => exact does_putG_of_body (body := ctagBody f) rfl hg (by rw [ctagBody, State.capOpnd_c ha]; rfl)
  case cfld =>
    refine does_putC_of_body (body := cfldBody f) rfl hg ?_
    exact (cfldBody_eq ha).trans (congrArg (fun x => done (s.setD f.d (Claims.word (if ((s.ctx s.cur).getC n).tag then x else 0)))) (CReg.cap_field _ _))

end Machine
end Sys2Proof
end

section
/-! # The checks of an access (O24, O25)

The checks on the capability are one list of conditions: the first that fails names the trap, and an access that passes them all comes to its
place. The buffers and the TLB then answer it. -/

namespace Sys2Proof.Machine

open Sys2Proof.Claims

theorem addr56_of_nonneg {x : Int} (hx : 0 ≤ x) : addr56 x = x.toNat % 2 ^ 56 := by
  unfold addr56 wrapN
  omega

/-- The literal of a load or a store is a signed number of 32 bits (R13). -/
theorem offsetOf_eq (f : Fields) : offsetOf f = offs f := by
  rw [offsetOf, sx_eq_toInt _ (by decide), BitVec.ofNat_toNat, BitVec.setWidth_eq]
  rfl

/-! ### The checks on the capability (R165, R100) -/

section

variable {s : State} {k : Nat} {rq : Req} {r : CReg} {off : Int}

/-- The checks that follow those of the cursor: the seal, the rights, the length, the alignment and the space. -/
def capRights (s : State) (k : Nat) (rq : Req) (c : Cap) (o a : Nat) : Exec (Cap × Nat) := do
  need (!(c.has permS)) PERM a
  need ((!rq.ld || c.has permR) && (!rq.st || rq.noW || c.has permW) && (!rq.cp || c.has permC) && (!rq.ex || c.has permX)) PERM a
  need (!(c.space == 6 && (rq.st || rq.cp || rq.ex) && !(c.has permQ))) PERM a
  need (decide (o + rq.n ≤ c.len)) BOUNDS a
  need (c.space == 6 || a % rq.al == 0) ALIGN a
  need (!(c.space == 5) || (decide (fld a 44 12 < Config.cores) && s.paddockOf (fld a 44 12) == s.paddockOf (coreOf k))) PERM a
  need (rq.spaces.contains c.space) PERM a
  .ok (c, a)

theorem capCheck_untagged (h : r.tag = false) : capCheck s k rq r off = .error (.trap TAG (tagTval rq.op rq.field rq.opnd)) := need_bind_trap h

/-- Where the register holds a capability that is of no I stack, and the offset is one of 40 bits, the rights are checked at the cursor. -/
theorem capCheck_eq_capRights (htag : r.tag = true) (hspace : r.cap.space < 7) (hI : r.cap.perm.testBit 7 = false)
    (hlo : 0 ≤ (r.cap.off : Int) + off) (hhi : (r.cap.off : Int) + off < 2 ^ 40) :
    capCheck s k rq r off =
      capRights s k rq r.cap ((r.cap.off : Int) + off).toNat (((r.cap.base : Int) + (r.cap.off : Int) + off).toNat % 2 ^ 56) := by
  have ha : addr56 ((r.cap.base : Int) + ((r.cap.off : Int) + off)) = ((r.cap.base : Int) + (r.cap.off : Int) + off).toNat % 2 ^ 56 := by
    rw [← Int.add_assoc]
    exact addr56_of_nonneg (by omega)
  refine (need_bind_pass htag).trans ((need_bind_pass ?space).trans ((need_bind_pass ?offset).trans ?_))
  case space => rw [Cap.has_eq_testBit, permI, hI, decide_eq_true hspace]; rfl
  case offset => rw [decide_eq_true hlo, decide_eq_true hhi]; rfl
  rw [ha]
  rfl

variable {c : Cap} {o a : Nat}

theorem capRights_sealed (hS : c.perm.testBit 6 = true) : capRights s k rq c o a = .error (.trap PERM a) :=
  need_bind_trap (by rw [Cap.has_eq_testBit, permS, hS]; rfl)

/-- The rights that a request needs of a capability (R164). -/
def Cap.Allows (c : Cap) (rq : Req) : Prop :=
  (rq.ld = true → c.perm.testBit 0 = true) ∧ (rq.st = true → rq.noW = true ∨ c.perm.testBit 1 = true) ∧ (rq.cp = true → c.perm.testBit 3 = true) ∧
    (rq.ex = true → c.perm.testBit 2 = true)

theorem Cap.allows_iff : c.Allows rq ↔
    ((!rq.ld || c.has permR) && (!rq.st || rq.noW || c.has permW) && (!rq.cp || c.has permC) && (!rq.ex || c.has permX)) = true := by
  have himp (b : Bool) (p : Prop) : (b = true → p) ↔ b = false ∨ p := by rw [imp_iff_not_or, Bool.not_eq_true]
  simp only [Cap.Allows, Cap.has_eq_testBit, permR, permW, permC, permX, Bool.and_eq_true, Bool.or_eq_true, Bool.not_eq_true', himp, and_assoc, or_assoc]

variable (hS : c.perm.testBit 6 = false)

include hS

theorem capRights_notAllowed (h : ¬c.Allows rq) : capRights s k rq c o a = .error (.trap PERM a) :=
  (need_bind_pass (by rw [Cap.has_eq_testBit, permS, hS]; rfl)).trans (need_bind_trap (Bool.eq_false_iff.2 fun hb => h (Cap.allows_iff.2 hb)))

variable (hrights : c.Allows rq) (h6 : c.space ≠ 6)

include hrights h6

/-- What remains where no right is missing, outside SPACE 6. -/
theorem capRights_allowed : capRights s k rq c o a = (do
    need (decide (o + rq.n ≤ c.len)) BOUNDS a
    need (c.space == 6 || a % rq.al == 0) ALIGN a
    need (!(c.space == 5) || (decide (fld a 44 12 < Config.cores) && s.paddockOf (fld a 44 12) == s.paddockOf (coreOf k))) PERM a
    need (rq.spaces.contains c.space) PERM a
    .ok (c, a)) :=
  (need_bind_pass (by rw [Cap.has_eq_testBit, permS, hS]; rfl)).trans ((need_bind_pass (Cap.allows_iff.1 hrights)).trans
    (need_bind_pass (by rw [beq_eq_false_iff_ne.2 h6]; rfl)))

theorem capRights_beyond (h : c.len < o + rq.n) : capRights s k rq c o a = .error (.trap BOUNDS a) :=
  (capRights_allowed hS hrights h6).trans (need_bind_trap (decide_eq_false (Nat.not_le.2 h)))

variable (hlen : o + rq.n ≤ c.len)

include hlen

theorem capRights_misaligned (h : a % rq.al ≠ 0) : capRights s k rq c o a = .error (.trap ALIGN a) :=
  (capRights_allowed hS hrights h6).trans ((need_bind_pass (decide_eq_true hlen)).trans
    (need_bind_trap (by rw [beq_eq_false_iff_ne.2 h6, beq_eq_false_iff_ne.2 h]; rfl)))

theorem capRights_ok (h : a % rq.al = 0) (h5 : c.space ≠ 5) (hin : c.space ∈ rq.spaces) : capRights s k rq c o a = .ok (c, a) :=
  (capRights_allowed hS hrights h6).trans ((need_bind_pass (decide_eq_true hlen)).trans ((need_bind_pass (by rw [h, beq_self_eq_true, Bool.or_true])).trans
    ((need_bind_pass (by rw [beq_eq_false_iff_ne.2 h5]; rfl)).trans (need_bind_pass (List.contains_iff_mem.2 hin)))))

end

/-! ### A store whose capability is refused (O25) -/

section

variable {f : Fields} {s : State} {x : Nat}

/-- What the checks on the capability raise ends a store outside SPACE 6 with no effect. -/
theorem stBody_of_refused {e : Stop} (ha : holds s f.a x) (h6 : (s.capOpnd f.d).cap.space ≠ 6)
    (he : capCheck s s.cur (storeReq 0x201 f (tyBytes f.ty) false) (s.capOpnd f.d) (offsetOf f) = .error e) : stBody f s = .error e := by
  rw [stBody, ha]
  refine (if_neg h6).trans ?_
  rw [storeAt, memAccess, memAccessIf, he]
  rfl

end

/-- Settles O25: each check that fails is the first that does, and its trap is the store's. -/
theorem accessChecksTrap : Obligations.AccessChecksTrap := by
  intro f s n m x hg ht _ _ hd ha
  dsimp only
  have hopnd : s.capOpnd f.d = (s.ctx s.cur).getC m := by rw [hd]; rfl
  have refuses {cause tval : Nat} (h6 : ((s.ctx s.cur).getC m).cap.space ≠ 6)
      (he : capCheck s s.cur (storeReq 0x201 f (tyBytes f.ty) false) ((s.ctx s.cur).getC m) (offs f) = .error (.trap cause tval)) :
      traps (.st f) s cause tval :=
    traps_of_body (body := stBody f) rfl hg (stBody_of_refused ha (by rwa [hopnd]) (by rwa [hopnd, offsetOf_eq])) ht
  refine ⟨fun htag h6 => refuses h6 ?untagged, fun htag hspace hI hlo hhi => ?tagged⟩
  case untagged =>
    rw [capCheck_untagged htag, storeReq, hd]
    rfl
  have h6 : ((s.ctx s.cur).getC m).cap.space ≠ 6 := Nat.ne_of_lt hspace
  have rights {cause tval : Nat} := fun he => refuses (cause := cause) (tval := tval) h6 ((capCheck_eq_capRights htag (by omega) hI hlo hhi).trans he)
  have hallows (hW : ((s.ctx s.cur).getC m).cap.perm.testBit 1 = true) : ((s.ctx s.cur).getC m).cap.Allows (storeReq 0x201 f (tyBytes f.ty) false) :=
    ⟨fun h => absurd h Bool.false_ne_true, fun _ => .inr hW, fun h => absurd h Bool.false_ne_true, fun h => absurd h Bool.false_ne_true⟩
  refine ⟨fun hS => rights (capRights_sealed hS), fun hS hW => rights (capRights_notAllowed hS fun h => ?_),
    fun hS hW hlen => rights (capRights_beyond hS (hallows hW) h6 ?_), fun hS hW hlen hal => rights (capRights_misaligned hS (hallows hW) h6 ?_ hal)⟩
  · obtain ⟨-, hst, -, -⟩ := h
    exact Bool.false_ne_true (hW.symm.trans ((hst rfl).resolve_left Bool.false_ne_true))
  · show _ < _ + tyWidth f.ty / 8
    omega
  · show _ + tyWidth f.ty / 8 ≤ _
    omega

/-! ### An access that is admitted (O24) -/

section

variable {s : State} {k : Nat} {rq : Req} {r : CReg} {off : Int} {permG : Bool} {c : Cap} {a : Nat} {l : Loc}

/-- An untagged access that passes every check records nothing where its page is not checked for races. -/
theorem memAccess_eq_ok (hc : capCheck s k rq r off = .ok (c, a)) (hl : locate s k rq c a = .ok l) (hw : weightCheck s k rq c a = .ok ())
    (hchk : l.chk = false) (hwait : accessWaits s k rq l = .ok ()) : memAccess s k rq r off false permG = .ok (s, l) := by
  have hrace : s.raceCheck k rq l rq.n rq.st = .ok s := by rw [State.raceCheck, hchk]; rfl
  simp only [memAccess, memAccessIf, hc, hl, hw, hrace, hwait, Bool.not_false, Bool.true_or, need_true, bind, Except.bind]

theorem weightCheck_eq_ok (h : rq.st = true → (s.slotOf k).weightHit (coreOf k) c.space a rq.n = none) : weightCheck s k rq c a = .ok () := by
  unfold weightCheck
  split
  · rfl
  next hst =>
    rw [Bool.or_eq_true, Bool.not_eq_true', not_or, Bool.not_eq_false] at hst
    rw [h hst.1]

/-- A local buffer other than the windows: the bytes lie in it, and a store goes to L or A (R157, R165). -/
theorem locate_buffer (h0 : c.space ≠ 0) (h5 : c.space ≠ 5) (hfit : a + rq.n ≤ bufferSize (coreOf k) c.space)
    (hst : rq.st = true → c.space = 1 ∨ c.space = 3) : locate s k rq c a =
      .ok { key := placeKey c.space (coreOf k) a, space := c.space, core := coreOf k, addr := a, va := a, tags := c.space == 1 } := by
  have hkind : (!rq.st || c.space == 1 || c.space == 3) = true := by
    rw [Bool.or_assoc, Bool.or_eq_true, Bool.or_eq_true, beq_iff_eq, beq_iff_eq, Bool.not_eq_true']
    cases h : rq.st with
    | false => exact .inl rfl
    | true => exact .inr (hst h)
  rw [locate]
  exact (if_neg h0).trans ((if_neg h5).trans ((need_bind_pass (decide_eq_true hfit)).trans (need_bind_pass hkind)))

theorem bufferSize_of_lt {core space : Nat} (hcore : core < 2048) : 1 ≤ space → space ≤ 4 →
    bufferSize core space = match space with | 2 => 768 * 1024 | 3 => 1024 * 1024 | _ => 256 * 1024 := by
  intro hlo hhi
  have hservice : isService core = false := decide_eq_false (Nat.not_le.2 hcore)
  unfold bufferSize
  rw [hservice]
  obtain rfl | rfl | rfl | rfl : space = 1 ∨ space = 2 ∨ space = 3 ∨ space = 4 := by omega
  all_goals rfl

/-- A page of the TLB gives the physical place (R182). -/
theorem locate_global {i img : Nat} (hcore : coreOf k < 2048) (h0 : c.space = 0) (hfind : tlbFind (s.core (coreOf k)) a = some (i, img))
    (hadmits : imgAdmits img (s.ctx k).mode (if rq.st then .store else .load) = true) (hchk : imgCHK img = false) (hfirewall : s.firewall = []) :
    ∃ l, locate s k rq c a = .ok l ∧ l.key = imgMap img a ∧ l.space = 0 ∧ l.chk = false := by
  have hservice : isService (coreOf k) = false := decide_eq_false (Nat.not_le.2 hcore)
  have htranslate : s.translate k a (if rq.st then .store else .load) = .ok (imgMap img a, img) := by
    rw [State.translate, hservice, hfind]
    exact if_pos hadmits
  have hcrosses : s.crosses (coreOf k) (imgMap img a) rq.n = false := by
    rw [State.crosses, hfirewall, List.any_nil]
  have hplace : locate s k rq c a =
      .ok { key := imgMap img a, space := 0, core := coreOf k, addr := imgMap img a, va := a, chk := imgCHK img && decide (imgMap img a < 2 ^ 51),
            cnt := imgCNT img, tags := imgTAG img && decide (imgMap img a < 2 ^ 39), page := imgVA img + imgSize img } := by
    rw [locate]
    refine (if_pos h0).trans ?_
    rw [htranslate]
    exact if_neg (by rw [hcrosses]; exact Bool.false_ne_true)
  exact ⟨_, hplace, rfl, rfl, by rw [hchk, Bool.false_and]⟩

end

/-- Settles O24: the capability passes its checks, the place is found, and nothing makes the access wait. -/
theorem accessAdmitted : Obligations.AccessAdmitted := by
  intro s rq r off hcore
  dsimp only
  intro _ hex hposted hnoW hin htag hI hS hR hW hC hlo hhi hlen hal hweight
  have checked (h6 : r.cap.space < 5) : capCheck s s.cur rq r off = .ok (r.cap, ((r.cap.base : Int) + (r.cap.off : Int) + off).toNat % 2 ^ 56) :=
    (capCheck_eq_capRights htag (by omega) hI hlo hhi).trans (capRights_ok hS
      ⟨hR, fun h => .inr (hW h), hC, fun h => absurd (hex.symm.trans h) Bool.false_ne_true⟩ (by omega) (by omega) hal (by omega) hin)
  refine ⟨fun ⟨h1, h4⟩ hst hfit hrange hpst => ?buffer, fun h0 i img hfind hadmits hchk hfirewall => ?global⟩
  case buffer =>
    refine memAccess_eq_ok (checked (by omega)) (locate_buffer (by omega) (by omega) ?_ hst) (weightCheck_eq_ok hweight) rfl ?_
    · exact (bufferSize_of_lt hcore h1 h4).symm ▸ hfit
    · rw [accessWaits]
      refine if_neg ?_
      have hwaits : s.bufferWaits s.cur (s.cur / 32) r.cap.space (((r.cap.base : Int) + (r.cap.off : Int) + off).toNat % 2 ^ 56) rq.n rq.st = false := by
        rw [State.bufferWaits, hrange, hpst]
        rfl
      dsimp only
      rw [if_neg (by omega : r.cap.space ≠ 5)]
      simp only [hwaits, Bool.and_false, Bool.false_eq_true, not_false_eq_true]
  case global =>
    obtain ⟨l, hl, hkey, hspace, hchk⟩ := locate_global (rq := rq) hcore h0 hfind hadmits hchk hfirewall
    exact ⟨l, memAccess_eq_ok (checked (by omega)) hl (weightCheck_eq_ok hweight) hchk (by rw [accessWaits, hspace]; rfl), hkey, hspace, hchk⟩

end Sys2Proof.Machine
end

section
/-! # What an access notes

The race detector, the page counts and the sampling ring take note of an access: memory, the clocks, and counters of cores and Drovers change.
The context in hand, the heads of queues, and all but the clocks of contexts and slots stay. -/

namespace Sys2Proof.Machine

open Sys2Proof.Claims

/-- `t` keeps of `s` what accesses do not note in. -/
structure State.Noted (s t : State) : Prop where
  cur : t.cur = s.cur
  heads : ∀ p, (t.drover p).heads = (s.drover p).heads
  ctx : ∀ k, ∃ x, t.ctx k = { s.ctx k with known := x }
  slot : ∀ j, ∃ x, t.slot j = { s.slot j with known := x }
  drainSlot : ∀ n, (t.core n).drainSlot = (s.core n).drainSlot

namespace State.Noted

variable {s t u : State}

theorem refl : s.Noted s := ⟨rfl, fun _ => rfl, fun _ => ⟨_, rfl⟩, fun _ => ⟨_, rfl⟩, fun _ => rfl⟩

theorem trans (h : s.Noted t) (h' : t.Noted u) : s.Noted u where
  cur := h'.cur.trans h.cur
  heads p := (h'.heads p).trans (h.heads p)
  ctx k := by
    obtain ⟨x, hx⟩ := h'.ctx k
    obtain ⟨y, hy⟩ := h.ctx k
    exact ⟨x, by rw [hx, hy]⟩
  slot j := by
    obtain ⟨x, hx⟩ := h'.slot j
    obtain ⟨y, hy⟩ := h.slot j
    exact ⟨x, by rw [hx, hy]⟩
  drainSlot n := (h'.drainSlot n).trans (h.drainSlot n)

theorem modKnown {k : Nat} {g : Known → Known} : s.Noted (s.modKnown k g) := by
  unfold State.modKnown
  split
  · refine ⟨rfl, fun _ => rfl, fun j => ?_, fun _ => ⟨_, rfl⟩, fun _ => rfl⟩
    rw [State.ctx_modCtx]
    split
    next h =>
      subst h
      exact ⟨_, rfl⟩
    next => exact ⟨_, rfl⟩
  · refine ⟨rfl, fun _ => rfl, fun _ => ⟨_, rfl⟩, fun j => ?_, fun _ => rfl⟩
    rw [State.slot_modSlot]
    split
    next h =>
      subst h
      exact ⟨_, rfl⟩
    next => exact ⟨_, rfl⟩

theorem modCore {n : Nat} {g : Core → Core} (hg : ∀ c, (g c).drainSlot = c.drainSlot) : s.Noted (s.modCore n g) := by
  refine ⟨rfl, fun _ => rfl, fun _ => ⟨_, rfl⟩, fun _ => ⟨_, rfl⟩, fun m => ?_⟩
  rw [State.core_modCore]
  split
  next h => rw [hg, h]
  next => rfl

theorem modDrover {p : Nat} {g : Drover → Drover} (hg : ∀ d, (g d).heads = d.heads) : s.Noted (s.modDrover p g) := by
  refine ⟨rfl, fun q => ?_, fun _ => ⟨_, rfl⟩, fun _ => ⟨_, rfl⟩, fun _ => rfl⟩
  rw [State.drover_modDrover]
  split
  next h => rw [hg, h]
  next => rfl

theorem storeBytes {a : Nat} {bs : List Byte} : s.Noted (s.storeBytes a bs) := ⟨rfl, fun _ => rfl, fun _ => ⟨_, rfl⟩, fun _ => ⟨_, rfl⟩, fun _ => rfl⟩

theorem ite {c : Prop} [Decidable c] {t u : State} (ht : s.Noted t) (hu : s.Noted u) : s.Noted (if c then t else u) := by
  split
  · exact ht
  · exact hu

/-- What lies within one context, slot or table of heads is read alike. -/
theorem slotOf (h : s.Noted t) (k : Nat) : ∃ x, t.slotOf k = { s.slotOf k with known := x } := by
  have hno : t.slotKeyOf k = s.slotKeyOf k := by
    unfold State.slotKeyOf State.slotNo
    rw [h.drainSlot]
  unfold State.slotOf
  rw [hno]
  exact h.slot _

theorem head (h : s.Noted t) (p q : Nat) : t.head p q = s.head p q := by
  unfold State.head
  rw [h.heads]

theorem getC (h : s.Noted t) (k : Nat) : (t.ctx k).c = (s.ctx k).c := by
  obtain ⟨x, hx⟩ := h.ctx k
  rw [hx]

theorem getG (h : s.Noted t) (k : Nat) : (t.ctx k).g = (s.ctx k).g := by
  obtain ⟨x, hx⟩ := h.ctx k
  rw [hx]

/-- A trap is taken in the state that an access leaves as in the state before. -/
theorem entersTraps (h : s.Noted t) (hs : s.entersTraps) :
    (t.slotOf s.cur).tvec ≠ 0 ∧ (t.ctx s.cur).inTrap = false ∧ (t.slotOf s.cur).work.probing = false := by
  obtain ⟨htvec, hin, hprobing⟩ := hs
  obtain ⟨x, hx⟩ := h.ctx s.cur
  obtain ⟨y, hy⟩ := h.slotOf s.cur
  rw [hx, hy]
  exact ⟨htvec, hin, hprobing⟩

end State.Noted

/-! ### The race detector (R254, R255) -/

/-- The computation, where it answers a value, answers one that has the property. -/
abbrev Answers {ε α : Type} (P : α → Prop) (x : Except ε α) : Prop := Ends (fun _ => True) P x

section

variable {ε α : Type} {s t : State}

theorem Answers.any (x : Except ε α) : Answers (fun _ => True) x := by
  cases x with
  | ok _ => exact trivial
  | error _ => exact trivial

theorem State.Noted.walkWrite {p va : Nat} {bs : List Byte} (h : s.walkWrite p va bs = some t) : s.Noted t := by
  unfold State.walkWrite at h
  split at h
  · cases h
  · split at h
    · cases h
      exact storeBytes
    · cases h

theorem Answers.shadowWrite {p : Nat} {ws : List (Nat × Nat)} (h : s.Noted t) : Answers s.Noted (State.shadowWrite p ws t) := by
  induction ws generalizing t with
  | nil => exact h
  | cons w ws ih =>
    unfold State.shadowWrite
    split
    next u hu => exact ih (h.trans (.walkWrite hu))
    next => exact trivial

/-- What the detector leaves, if it leaves a state, keeps what accesses do not note in. -/
def RaceOut.Noted (s : State) : RaceOut → Prop
  | .ok t => s.Noted t
  | _ => True

variable {p : Nat} {r : Racer} {store : Bool}

/-- The shadow written, and the marks and the read sets brought up to date. -/
theorem State.Noted.shadowed {ws : List (Nat × Nat)} {f : Drover → Drover} {m : Sparse RaceMark} (h : State.shadowWrite p ws s = .ok t)
    (hf : ∀ d, (f d).heads = d.heads) : s.Noted { t.modDrover p f with raceMarks := m } := by
  have hw : s.Noted t := (Answers.shadowWrite .refl).of_ok h
  have hd : t.Noted (t.modDrover p f) := .modDrover hf
  exact hw.trans ⟨hd.cur, hd.heads, hd.ctx, hd.slot, hd.drainSlot⟩

theorem RaceOut.noted_recordRead {va w g : Nat} {chain : List Nat} {marks es : List AccessMark} :
    RaceOut.Noted s (s.recordRead p va w chain g marks es) := by
  unfold State.recordRead
  extract_lets
  split
  · exact trivial
  · split
    · exact trivial
    next ht => exact State.Noted.shadowed ht fun _ => by rfl

theorem RaceOut.noted_raceGranule {g : Nat} : RaceOut.Noted s (s.raceGranule p r store g) := by
  unfold State.raceGranule
  extract_lets
  split
  · exact trivial
  · split
    · exact trivial
    · extract_lets
      split
      · exact trivial
      · split
        · split
          · exact trivial
          next ht => exact State.Noted.shadowed ht fun _ => by rfl
        · split
          · exact trivial
          · exact noted_recordRead

theorem RaceOut.noted_raceRange {gs : List Nat} (h : s.Noted t) : RaceOut.Noted s (t.raceRange p r store gs) := by
  induction gs generalizing t with
  | nil => exact h
  | cons g gs ih =>
    have hg : RaceOut.Noted t (t.raceGranule p r store g) := noted_raceGranule
    unfold State.raceRange
    split
    next e => exact ih (h.trans (by rw [e] at hg; exact hg))
    next hx =>
      cases hr : t.raceGranule p r store g with
      | ok u => exact absurd hr (hx u)
      | _ => exact trivial

theorem State.Noted.linkPartials {k lo n : Nat} : s.Noted (s.linkPartials k lo n) := by
  unfold State.linkPartials
  dsimp only
  split
  · exact modKnown
  · exact refl

theorem Answers.raceCheck {k n : Nat} {rq : Req} {l : Loc} : Answers s.Noted (s.raceCheck k rq l n store) := by
  unfold State.raceCheck
  split
  · exact State.Noted.refl
  · have hr : RaceOut.Noted s (s.raceRange (s.paddockOf (coreOf k)) (s.racerOf k rq.sync l.key n) store (granulesOf l.key n)) :=
      RaceOut.noted_raceRange .refl
    extract_lets
    split
    next e => exact State.Noted.trans (by rw [e] at hr; exact hr) .linkPartials
    all_goals exact trivial

/-! ### Counts, samples and errors (R160, R194, R195) -/

theorem State.Noted.noteAccess {k kind : Nat} {l : Loc} : s.Noted (s.noteAccess k l kind) := by
  have counted : s.Noted (if l.cnt then s.countPage (coreOf k) l.page else s) := .ite (.modCore fun _ => by rfl) .refl
  have written (t : State) (q va : Nat) (bs : List Byte) : t.Noted ((t.walkWrite q va bs).getD t) := by
    cases ht : t.walkWrite q va bs with
    | none => exact refl
    | some u => exact walkWrite ht
  unfold State.noteAccess
  refine .ite .refl (.ite counted ?_)
  refine counted.trans (State.Noted.trans (modCore (n := coreOf k) (g := fun c => { c with sampled := c.sampled + 1 }) fun _ => rfl) ?_)
  exact .ite .refl (.ite (modDrover fun _ => by rfl) ((written _ _ _ _).trans (modDrover fun _ => by rfl)))

theorem State.Noted.loadEnd {l : Loc} {n : Nat} : s.Noted (loadEnd s l n).s := by
  unfold Machine.loadEnd
  split
  · exact modCore (g := fun c => { c with quarantined := true }) fun _ => rfl
  · exact refl

theorem State.Noted.loads {o : Out} {l : Loc} {n : Nat} (h : s.Noted o.s) : s.Noted (o.loads l n).s := by
  unfold Out.loads
  split
  · exact h.trans loadEnd
  · exact h

theorem State.Noted.spans {o : Out} {k : Nat} {ps : List (Loc × Nat)} (h : s.Noted o.s) : s.Noted (Out.spans k o ps).s :=
  List.foldlRecOn (motive := fun o : Out => s.Noted o.s) ps _ h fun _ ho _ _ => loads (ho.trans noteAccess)

/-! ### Accesses (R165, R228, R282) -/

theorem Answers.memAccess {k : Nat} {rq : Req} {c : CReg} {off : Int} {tagged permG : Bool} :
    Answers (fun r => s.Noted r.1) (memAccess s k rq c off tagged permG) :=
  (Answers.any _).bind fun _ _ => (Answers.any _).bind fun _ _ => (Answers.any _).bind fun _ _ => (Answers.any _).bind fun _ _ =>
    Answers.raceCheck.bind fun _ h => (Answers.any _).bind fun _ _ => h

theorem Answers.spanAccess {k : Nat} {rq : Req} {c : CReg} {off : Int} : Answers (fun r => s.Noted r.1) (spanAccess k rq c off s) :=
  (Answers.any _).bind fun _ _ => .ite (Answers.memAccess.bind fun _ h => h)
    (Answers.memAccess.bind fun _ h => Answers.memAccess.bind fun _ h' => h.trans h')

theorem Answers.scaleLoads {k op n : Nat} {ls : List Loc} (h : s.Noted t) : Answers s.Noted (State.scaleLoads k op n ls t) := by
  induction ls generalizing t with
  | nil => exact h
  | cons l ls ih => exact Answers.raceCheck.bind fun u hu => ih ((h.trans hu).trans .noteAccess)

theorem Answers.demitScales {k op bank row : Nat} {x : Tensor} {on : Bool} : Answers (fun r => s.Noted r.1) (s.demitScales k op x bank row on) :=
  .ite .refl ((Answers.any _).bind fun _ _ => (Answers.scaleLoads .refl).bind fun _ h => h)

theorem Answers.wupdPlace {k space a n : Nat} : Answers (fun r => s.Noted r.1) (wupdPlace k space s a n) :=
  .ite ((Answers.any _).bind fun _ _ => .ite trivial (Answers.raceCheck.bind fun _ h => h)) (.ite trivial .refl)

theorem Answers.wupdPlaces {k space : Nat} {xs : List (Nat × Nat)} {z : State} (h : s.Noted t) :
    Answers (fun r => s.Noted r.1) (wupdPlaces k space z xs t) := by
  induction xs generalizing t with
  | nil => exact h
  | cons x xs ih =>
    unfold Machine.wupdPlaces
    split
    · exact trivial
    · split
      · exact trivial
      · exact trivial
    next u l hu => exact (ih (h.trans (Answers.wupdPlace.of_ok hu))).bind fun _ h => h

theorem State.Noted.putRow {ps : List (Loc × Nat)} {bs : List Byte} (h : s.Noted t) : s.Noted (putRow ps bs t) := by
  induction ps generalizing t bs with
  | nil => exact h
  | cons x ps ih => exact ih ((h.trans noteAccess).trans storeBytes)

end

end Sys2Proof.Machine
end

section
/-! # System registers, WFI and PREQ (O52)

What a system register holds is read and written in one place each; the bits that a write may change are a mask. -/

namespace Sys2Proof.Machine

open Sys2Proof.Claims

/-! ### What an instruction that goes on leaves -/

section

variable {s t : State} {k : Nat} {c : Ctx} (h : s.GoesOn t k c)

include h

theorem State.GoesOn.slots_eq : t.slots = s.slots := by
  obtain ⟨h1, -⟩ := h
  rw [h1]

theorem State.GoesOn.drovers_eq : t.drovers = s.drovers := by
  obtain ⟨h1, -⟩ := h
  rw [h1]

theorem State.GoesOn.time_eq : t.time = s.time := by
  obtain ⟨h1, -⟩ := h
  rw [h1]

theorem State.GoesOn.slot_eq (j : Nat) : t.slot j = s.slot j := by
  unfold State.slot
  rw [h.slots_eq]

theorem State.GoesOn.drover_eq (p : Nat) : t.drover p = s.drover p := by
  unfold State.drover
  rw [h.drovers_eq]

theorem State.GoesOn.head_eq (p q : Nat) : t.head p q = s.head p q := by
  unfold State.head
  rw [h.drover_eq]

theorem State.GoesOn.slotOf_eq (j : Nat) : t.slotOf j = s.slotOf j := by
  have ⟨_, _, hcore, _, _⟩ := h
  have hkey : t.slotKeyOf j = s.slotKeyOf j := by
    unfold State.slotKeyOf State.slotNo
    rw [hcore]
  unfold State.slotOf
  rw [hkey]
  exact h.slot_eq _

theorem State.GoesOn.ctx_pc : (t.ctx k).pc = c.pc := by
  obtain ⟨-, -, -, -, hctx⟩ := h
  rw [hctx]

theorem State.GoesOn.ctx_c : (t.ctx k).c = c.c := by
  obtain ⟨-, -, -, -, hctx⟩ := h
  rw [hctx]

theorem State.GoesOn.ctx_g : (t.ctx k).g = c.g := by
  obtain ⟨-, -, -, -, hctx⟩ := h
  rw [hctx]

end

theorem Ctx.getG_of_g {c d : Ctx} (h : d.g = c.g) (n : BitVec 4) : d.getG n = c.getG n := by
  unfold Ctx.getG
  rw [h]

theorem Ctx.advance_g (c : Ctx) : c.advance.g = c.g := by
  unfold Ctx.advance
  split
  · rfl
  · split
    · rfl
    · split
      · rfl
      · exact Ctx.releaseSb_g _ _

/-- Where an instruction goes on depends on the PC and the repetition alone. -/
theorem Ctx.advance_pc_of {c d : Ctx} (hpc : d.pc = c.pc) (hrep : d.rep = c.rep) : d.advance.pc = c.advance.pc := by
  unfold Ctx.advance
  rw [hpc, hrep]
  split
  · rfl
  · split
    · rfl
    · split
      · rfl
      · rw [Ctx.releaseSb_pc, Ctx.releaseSb_pc]

/-! ### The bits that a write may change (R111, R113) -/

/-- `w` with the bits of a mask taken from `x`. -/
def masked (m w x : Word64) : Word64 := (w &&& ~~~m) ||| (x &&& m)

theorem maskTo_eq (m x : Nat) : maskTo m x = BitVec.ofNat 64 x &&& BitVec.ofNat 64 m := BitVec.ofNat_and

/-- The mask of a field of `w` bits. -/
def fieldMask (lo w : Nat) : Word64 := BitVec.ofNat 64 ((2 ^ w - 1) * 2 ^ lo)

theorem getLsbD_fieldMask {lo w i : Nat} (hi : i < 64) : (fieldMask lo w).getLsbD i = decide (lo ≤ i ∧ i < lo + w) := by
  rw [fieldMask, BitVec.getLsbD_ofNat, decide_eq_true hi, Bool.true_and, Nat.testBit_mul_two_pow, Nat.testBit_two_pow_sub_one, ← Bool.decide_and]
  exact decide_eq_decide.2 (by omega)

theorem getLsbD_masked {m a x : Word64} {i : Nat} (hi : i < 64) :
    (masked m a x).getLsbD i = if m.getLsbD i = true then x.getLsbD i else a.getLsbD i := by
  rw [masked, BitVec.getLsbD_or, BitVec.getLsbD_and, BitVec.getLsbD_and, BitVec.getLsbD_not, decide_eq_true hi, Bool.true_and]
  cases m.getLsbD i with
  | false => simp
  | true => simp

/-- A field taken from the same place of another word is what its mask lets through. -/
theorem setField64_eq_masked (a : Word64) (lo w x : Nat) : setField64 a lo w (fld x lo w) = masked (fieldMask lo w) a (BitVec.ofNat 64 x) := by
  refine BitVec.eq_of_getLsbD_eq fun i hi => ?_
  rw [getLsbD_masked hi, getLsbD_fieldMask hi, setField64, BitVec.getLsbD_ofNat, BitVec.getLsbD_ofNat, decide_eq_true hi, Bool.true_and, Bool.true_and,
    testBit_setFld]
  by_cases h : lo ≤ i ∧ i < lo + w
  · rw [if_pos h, if_pos (decide_eq_true h), fld, Nat.testBit_mod_two_pow, Nat.testBit_div_two_pow, decide_eq_true (by omega : i - lo < w), Bool.true_and,
      Nat.sub_add_cancel h.1]
  · rw [if_neg h, if_neg (mt of_decide_eq_true h), BitVec.testBit_toNat]

theorem masked_masked (m n a x : Word64) : masked n (masked m a x) x = masked (m ||| n) a x := by
  refine BitVec.eq_of_getLsbD_eq fun i hi => ?_
  rw [getLsbD_masked hi, getLsbD_masked hi, getLsbD_masked hi, BitVec.getLsbD_or]
  by_cases h : n.getLsbD i = true
  · rw [if_pos h, if_pos (by rw [h, Bool.or_true])]
  · rw [if_neg h, Bool.eq_false_iff.2 h, Bool.or_false]

/-- STATUS after a write of a hart context: User changes FFLAGS, and the other levels IE, PIE and, but for 3, PMODE (R113). -/
theorem Ctx.writeStatus_eq (c : Ctx) (x : Nat) : c.writeStatus false x = { c with
    status := masked (BitVec.ofNat 64 (0x3E00000 + (if c.mode = 0 then 0 else 0xC0 + (if x / 4 % 4 = 3 then 0 else 0xC)))) c.status (BitVec.ofNat 64 x)
    inTrap := if c.mode ≠ 0 ∧ x.testBit 6 = true then false else c.inTrap } := by
  have hset (d : Ctx) (lo w : Nat) : d.setStatus lo w (fld x lo w) = { d with status := masked (fieldMask lo w) d.status (BitVec.ofNat 64 x) } := by
    rw [Ctx.setStatus, setField64_eq_masked]
  have hpmode : fld x 2 2 = x / 4 % 4 := rfl
  unfold Ctx.writeStatus
  simp only [hset, masked_masked, bitAt_eq_testBit, Bool.not_false, Bool.and_true, Bool.false_eq_true, if_false]
  rw [hpmode]
  by_cases hmode : c.mode = 0
  · rw [if_pos hmode, if_pos hmode, if_neg fun h => h.1 hmode]
    rfl
  · rw [if_neg hmode, if_neg hmode, if_congr (and_iff_right hmode) rfl rfl]
    by_cases h3 : x / 4 % 4 = 3
    · rw [if_pos h3, if_pos h3]
      split
      · rfl
      · rfl
    · rw [if_neg h3, if_neg h3]
      split
      · rfl
      · rfl

/-- The bits of SAMPCFG but its shift: the low bit, and bits 17:16. -/
theorem and_sampcfgMask (x : Nat) : x &&& 0x30001 = 2 ^ 16 * (x / 2 ^ 16 % 4) + x % 2 := by
  have hlow : x % 2 < 2 ^ 16 := (Nat.mod_lt x (by decide)).trans (by decide)
  have hmask : (0x30001 : Nat) = 2 ^ 16 * 3 + 1 := rfl
  refine Nat.eq_of_testBit_eq fun i => ?_
  rw [Nat.testBit_and, hmask, Nat.testBit_two_pow_mul_add _ (by decide), Nat.testBit_two_pow_mul_add _ hlow]
  split
  · rw [← Nat.testBit_and, ← Nat.and_one_is_mod]
  next h =>
    rw [← Nat.and_two_pow_sub_one_eq_mod (x / 2 ^ 16) 2, Nat.testBit_and, Nat.testBit_div_two_pow, Nat.sub_add_cancel (Nat.le_of_not_lt h)]

/-! ### SYSRD and SYSWR (R111, R112, R358) -/

section

variable {f : Fields} {s : State} {r : Nat} (hg : acts s f) (hn : f.imm.toNat % 2 ^ 12 = r)

include hn

/-- The body of SYSWR writes the register that IMM names. -/
theorem syswrBody_eq {x : Nat} (ha : holds s f.a x) : syswrBody f s = done (s.writeSys s.cur r x) := by
  rw [syswrBody, ha, Fields.im, fld_zero, hn]
  rfl

include hg

theorem does_sysrd : does (.sysrd f) s (putC f.d (s.sysReg s.cur r)) := by
  refine does_putC_of_body (body := sysrdBody f) rfl hg ?_
  rw [sysrdBody, Fields.im, fld_zero, hn]

theorem does_sysrd_word {x : Nat} (hr : s.sysReg s.cur r = CReg.word x) : does (.sysrd f) s (putC f.d (Claims.word x)) := by
  rw [← CReg.word_eq, ← hr]
  exact does_sysrd hg hn

variable {x : Nat} (ha : holds s f.a x)

include ha

theorem does_syswr_ctx {u : Ctx → Ctx} (hw : s.writeSys s.cur r x = s.modCtx s.cur u) : does (.syswr f) s u :=
  does_of_body (body := syswrBody f) rfl hg ((syswrBody_eq hn ha).trans (congrArg done hw))

/-- A write to a register elsewhere: the context goes on. -/
theorem syswr_goesOn {t : State} (hw : s.writeSys s.cur r x = t) : ∃ u, exec (.syswr f) s = .next u ∧ t.GoesOn u s.cur (t.ctx s.cur).advance :=
  ⟨_, exec_of_body (body := syswrBody f) rfl hg ((syswrBody_eq hn ha).trans (congrArg done hw)), s.finish_seq t f⟩

theorem syswr_slot {g : Slot → Slot} (hw : s.writeSys s.cur r x = s.modSlot (s.slotKeyOf s.cur) g) :
    ∃ t : State, exec (.syswr f) s = .next t ∧ t.slotOf s.cur = g (s.slotOf s.cur) ∧ t.mem = s.mem ∧ (t.ctx s.cur).pc = (s.ctx s.cur).advance.pc ∧
      (t.ctx s.cur).c = (s.ctx s.cur).c := by
  obtain ⟨t, ht, hgo⟩ := syswr_goesOn hg hn ha hw
  refine ⟨t, ht, ?_, hgo.mem_eq, hgo.ctx_pc, hgo.ctx_c.trans (Ctx.advance_c _)⟩
  rw [hgo.slotOf_eq]
  show (s.modSlot (s.slotKeyOf s.cur) g).slot (s.slotKeyOf s.cur) = _
  rw [State.slot_modSlot, if_pos rfl]
  rfl

end

/-- ENGCAP: the bits that it has, where the policy allows them or they are set (R116, log 24). -/
theorem State.writeSys_engcap (s : State) (k x : Nat) : s.writeSys k 0x010 x = s.modSlot (s.slotKeyOf k) (fun l => { l with
    engcap := BitVec.ofNat 64 x &&& BitVec.ofNat 64 0x00077F7F &&& (BitVec.ofNat 64 (if s.device.state = 1 then 0x00013F3F else 0x00073F3F) ||| l.engcap) }) := by
  have hbits (l : Slot) : maskTo 0x00077F7F (x &&& (s.engPolicy ||| l.engcap.toNat)) =
      BitVec.ofNat 64 x &&& BitVec.ofNat 64 0x00077F7F &&& (BitVec.ofNat 64 (if s.device.state = 1 then 0x00013F3F else 0x00073F3F) ||| l.engcap) := by
    rw [maskTo_eq, BitVec.ofNat_and, BitVec.ofNat_or, BitVec.ofNat_toNat, BitVec.setWidth_eq, BitVec.and_assoc, BitVec.and_assoc,
      BitVec.and_comm (BitVec.ofNat 64 0x00077F7F)]
    rfl
  show s.modSlot (s.slotKeyOf k) (fun l => { l with engcap := maskTo 0x00077F7F (x &&& (s.engPolicy ||| l.engcap.toNat)) }) = _
  simp only [hbits]

/-- RNGCTL: a 1 written to RNGWRAP while it is 0 leaves it 0 (R137, log 97). -/
theorem State.writeSys_rngctl (s : State) (k x : Nat) : s.writeSys k 0x041 x = s.modSlot (s.slotKeyOf k) (fun l => { l with
    rngctl := BitVec.ofNat 64 x &&& (2 ||| (l.rngctl &&& 1)) }) := by
  have hbits (w : Word64) : BitVec.ofNat 64 (x &&& (2 + fld w.toNat 0 1)) = BitVec.ofNat 64 x &&& (2 ||| (w &&& 1)) := by
    have hor : 2 + w.toNat % 2 = 2 ||| (w.toNat &&& 1) := by
      rw [Nat.and_one_is_mod]
      exact Nat.two_pow_add_eq_or_of_lt (i := 1) (Nat.mod_lt _ (by decide)) 1
    rw [fld_zero, Nat.pow_one, hor, BitVec.ofNat_and, BitVec.ofNat_or, BitVec.ofNat_and, BitVec.ofNat_toNat, BitVec.setWidth_eq]
    rfl
  show s.modSlot (s.slotKeyOf k) (fun l => { l with rngctl := BitVec.ofNat 64 (x &&& (2 + fld l.rngctl.toNat 0 1)) }) = _
  simp only [hbits]

/-- What SAMPCFG holds after a write: a shift, and the other bits that may be written. -/
theorem toNat_sampcfg (x shift : Nat) :
    (BitVec.ofNat 64 (setFld (x &&& 0x00030001) 8 5 shift)).toNat = x / 2 ^ 16 % 4 * 2 ^ 16 + shift % 2 ^ 5 * 2 ^ 8 + x % 2 := by
  rw [BitVec.toNat_ofNat, setFld_eq, and_sampcfgMask]
  omega

section

variable {f : Fields} {s : State} (hg : acts s f)

include hg

/-- GCAP and WCAP are capabilities of all of SPACE 0 and of SPACE 6 (R112). -/
theorem does_sysrd_cap {r : Nat} {c : Cap} (hn : f.imm.toNat % 2 ^ 12 = r) (hr : s.sysReg s.cur r = c.reg) (hc : c.Fits) :
    ∃ g : CReg, does (.sysrd f) s (putC f.d g) ∧ g.tag = true ∧ g.cap = c :=
  ⟨c.reg, hr ▸ does_sysrd hg hn, rfl, Cap.cap_reg hc⟩

variable {x : Nat} (ha : holds s f.a x)

include ha

/-- TIME goes forward only (R112). -/
theorem syswr_time (hn : f.imm.toNat % 2 ^ 12 = 0x020) : ∃ t : State, exec (.syswr f) s = .next t ∧ t.time = max s.time x ∧ t.mem = s.mem := by
  have hw : s.writeSys s.cur 0x020 x = { s with time := max s.time x } := by
    show (if x < s.time then s else { s with time := x }) = _
    split
    next h => rw [max_eq_left (Nat.le_of_lt h)]
    next h => rw [max_eq_right (Nat.le_of_not_lt h)]
  obtain ⟨t, ht, hgo⟩ := syswr_goesOn hg hn ha hw
  exact ⟨t, ht, hgo.time_eq, hgo.mem_eq⟩

/-- SAMPCFG: the enable bit, the kinds, and the shift where it is one of 6 to 20 (R117). -/
theorem syswr_sampcfg (hn : f.imm.toNat % 2 ^ 12 = 0x050) : ∃ t : State, exec (.syswr f) s = .next t ∧ t.mem = s.mem ∧ t.slots = s.slots ∧
    let d := (t.drover (s.paddockOf (coreOf s.cur))).sampcfg.toNat
    let shift := x / 2 ^ 8 % 2 ^ 5
    d = d / 2 ^ 16 % 4 * 2 ^ 16 + d / 2 ^ 8 % 2 ^ 5 * 2 ^ 8 + d % 2 ∧ d / 2 ^ 16 % 4 = x / 2 ^ 16 % 4 ∧ d % 2 = x % 2 ∧
      d / 2 ^ 8 % 2 ^ 5 = if 6 ≤ shift ∧ shift ≤ 20 then shift else (s.drover (s.paddockOf (coreOf s.cur))).sampcfg.toNat / 2 ^ 8 % 2 ^ 5 := by
  obtain ⟨t, ht, hgo⟩ := syswr_goesOn hg hn ha rfl
  refine ⟨t, ht, hgo.mem_eq, hgo.slots_eq, ?_⟩
  have hold : fld (s.drover (s.paddockOf (coreOf s.cur))).sampcfg.toNat 8 5 < 2 ^ 5 := fld_lt _ _ _
  have hnew : fld x 8 5 < 2 ^ 5 := fld_lt _ _ _
  have hd : (t.drover (s.paddockOf (coreOf s.cur))).sampcfg = BitVec.ofNat 64 (setFld (x &&& 0x00030001) 8 5
      (if 6 ≤ fld x 8 5 ∧ fld x 8 5 ≤ 20 then fld x 8 5 else fld (s.drover (s.paddockOf (coreOf s.cur))).sampcfg.toNat 8 5)) := by
    rw [hgo.drover_eq]
    show ((s.modDrover _ _).drover _).sampcfg = _
    rw [State.drover_modDrover, if_pos rfl]
  rw [hd, toNat_sampcfg]
  dsimp only
  unfold fld at hold hnew ⊢
  split
  · omega
  · omega

end

/-! ### Destinations written -/

section

variable (s : State) (o : Opnd)

theorem State.setD_eq (r : CReg) : s.setD o r = { s with ctxs := (s.setD o r).ctxs } := by cases o <;> rfl
theorem State.setGuardD_eq (x : Word64) : s.setGuardD o x = { s with ctxs := (s.setGuardD o x).ctxs } := by cases o <;> rfl

theorem State.ctx_setD (r : CReg) : (s.setD o r).ctx s.cur = putC o r (s.ctx s.cur) := by
  cases o with
  | c n => exact s.ctx_modCtx_self _ _
  | _ => rfl

theorem State.ctx_setGuardD (x : Word64) : (s.setGuardD o x).ctx s.cur = putG o x (s.ctx s.cur) := by
  cases o with
  | g n => exact s.ctx_modCtx_self _ _
  | _ => rfl

end

/-- The write of D, and of the guard of D, leaves where the context goes on. -/
theorem putC_advance_pc (o : Opnd) (r : CReg) (c : Ctx) : (putC o r c).advance.pc = c.advance.pc := by
  cases o with
  | c n => exact Ctx.advance_pc_of (Ctx.setC_pc c n r) (Ctx.setC_rep c n r)
  | _ => rfl

theorem putG_advance_pc (o : Opnd) (x : Word64) (c : Ctx) : (putG o x c).advance.pc = c.advance.pc := by
  cases o with
  | g n => exact Ctx.advance_pc_of (Ctx.setG_pc c n x) (Ctx.setG_rep c n x)
  | _ => rfl

/-- An instruction that answers a word in D, and its success in its own guard, and goes on. -/
theorem exec_answers {i : Instr} {f : Fields} {body : State → Exec Out} {s z : State} {x : Nat} {b : Bool} (hi : exec i s = runScalar f body s)
    (hg : acts s f) (hcur : z.cur = s.cur) (hb : body s = done ((z.setD f.d (CReg.word x)).setOwnGuard f b)) :
    ∃ t : State, exec i s = .next t ∧ t.mem = z.mem ∧ gives t s.cur f.d (Claims.word x) ∧ (t.ctx s.cur).pc = (z.ctx s.cur).advance.pc ∧
      (f.gidx ≠ 0 → (t.ctx s.cur).getG f.gidx = guardOf b) ∧ ∀ p q, t.head p q = z.head p q := by
  have hzcur : (z.setD f.d (CReg.word x)).cur = s.cur := by
    rw [State.setD_eq]
    exact hcur
  have hctx : ((z.setD f.d (CReg.word x)).setOwnGuard f b).ctx s.cur = (putC f.d (CReg.word x) (z.ctx s.cur)).setG f.gidx (guardOf b) := by
    rw [State.setOwnGuard, hzcur, State.ctx_modCtx_self, ← hcur, State.ctx_setD]
  have hgo := s.finish_seq ((z.setD f.d (CReg.word x)).setOwnGuard f b) f
  rw [hctx] at hgo
  refine ⟨_, exec_of_body hi hg hb, hgo.mem_eq.trans ?_, fun n hd hn => ?_, hgo.ctx_pc.trans ?_, fun hn => ?_, fun p q => (hgo.head_eq p q).trans ?_⟩
  · show (z.setD f.d (CReg.word x)).mem = z.mem
    rw [State.setD_eq]
  · rw [Ctx.getC_of_c (hgo.ctx_c.trans ((Ctx.advance_c _).trans (Ctx.setG_c _ _ _))), hd, putC_c, Ctx.getC_setC_self _ _ hn, CReg.word_eq]
  · rw [Ctx.advance_pc_of (Ctx.setG_pc _ _ _) (Ctx.setG_rep _ _ _), putC_advance_pc]
  · rw [Ctx.getG_of_g (hgo.ctx_g.trans (Ctx.advance_g _)), Ctx.getG_setG_self _ _ hn]
  · show (z.setD f.d (CReg.word x)).head p q = z.head p q
    rw [State.setD_eq]
    rfl

/-! ### WFI and PREQ (R359, R360) -/

section

variable {f : Fields} {s : State}

/-- An instruction that waits stays where it stands, in the state that it noted (R110). -/
theorem State.stopped_stay (s t : State) :
    (s.stopped (.stay t)).mem = t.mem ∧ (s.stopped (.stay t)).slots = t.slots ∧
      ∃ y, (s.stopped (.stay t)).ctx s.cur = { t.ctx s.cur with yielding := y, blocked := some t.epoch } := by
  obtain ⟨y, hy⟩ := t.ctx_leaveYields s.cur s.cur
  refine ⟨rfl, rfl, y, ?_⟩
  show ((t.leaveYields s.cur).modCtx s.cur _).ctx s.cur = _
  rw [State.ctx_modCtx_self, hy]

theorem Slot.anyPending_of_quiet {l : Slot} (h : quiet l) : l.anyPending = false := by
  obtain ⟨hpending, hpreempt, htimer, hinbox, hmigrate⟩ := h
  rw [Slot.anyPending, hpending, hpreempt, htimer, hinbox, hmigrate]
  rfl

theorem State.waitedFor_of_some {b t0 : Nat} (h : (s.ctx s.cur).waitFrom = some t0) : s.waitedFor b = decide (t0 + b ≤ s.time) := by
  rw [State.waitedFor, h]

variable {b : Nat} (hb : holdsB s f false b)

include hb

theorem wfiBody_done (h : (s.slotOf s.cur).anyPending = true ∨ (b ≠ 0 ∧ ∃ t0, (s.ctx s.cur).waitFrom = some t0 ∧ t0 + b ≤ s.time)) :
    wfiBody f s = done s := by
  rw [wfiBody, hb]
  refine if_pos ?_
  rw [Bool.or_eq_true]
  refine h.imp_right fun ⟨hne, t0, hfrom, hle⟩ => ?_
  rw [State.waitedFor_of_some hfrom, decide_eq_true hle, Bool.and_true]
  exact bne_iff_ne.2 hne

theorem wfiBody_waits (hq : quiet (s.slotOf s.cur)) (h : b = 0 ∨ (∀ t0, (s.ctx s.cur).waitFrom = some t0 → s.time < t0 + b) ∧ b ≠ 0) :
    wfiBody f s = .error (.stay s.waitNoted) := by
  rw [wfiBody, hb]
  refine if_neg ?_
  rw [Slot.anyPending_of_quiet hq, Bool.false_or, Bool.and_eq_true, bne_iff_ne]
  rintro ⟨hne, hwaited⟩
  obtain ⟨hbefore, -⟩ := h.resolve_left hne
  unfold State.waitedFor at hwaited
  split at hwaited
  next t0 hfrom => exact absurd (of_decide_eq_true hwaited) (Nat.not_le.2 (hbefore t0 hfrom))
  next => exact hne (of_decide_eq_true hwaited)

theorem wfi_waits (hg : acts s f) (hq : quiet (s.slotOf s.cur))
    (h : b = 0 ∨ (∀ t0, (s.ctx s.cur).waitFrom = some t0 → s.time < t0 + b) ∧ b ≠ 0) :
    ∃ t : State, exec (.wfi f) s = .next t ∧ waits s t ∧ (t.ctx s.cur).waitFrom = some ((s.ctx s.cur).waitFrom.getD s.time) := by
  obtain ⟨hmem, -, y, hctx⟩ := s.stopped_stay s.waitNoted
  have hnoted : s.waitNoted.ctx s.cur = { s.ctx s.cur with waitFrom := some ((s.ctx s.cur).waitFrom.getD s.time) } := s.ctx_modCtx_self _ _
  rw [hnoted] at hctx
  refine ⟨_, exec_of_body_error (body := wfiBody f) rfl hg (wfiBody_waits hb hq h), ⟨?_, ?_, hmem⟩, ?_⟩
  all_goals rw [hctx]
  rfl

/-- The time of a WFI that waits has passed, or it goes on waiting (R359). -/
theorem wfiTimeout_eq {core slot : Nat} (hcur : s.cur = hartKey core slot) (hat : s.waitingAt s.cur = some (.wfi f)) :
    exec (.wfiTimeout core slot) s = .next (if b != 0 && s.waitedFor b then s.finish f { s := s } else s) := by
  show Host.Outcome.next (wfiTimeoutStep core slot s) = _
  rw [wfiTimeoutStep]
  dsimp only
  rw [← hcur, hat]
  dsimp only
  rw [hb]

end

theorem preq_resumed {f : Fields} {s : State} (hg : acts s f) :
    ∃ t : State, exec (.preq f) s = .next t ∧ (t.slotOf s.cur).resumed = false ∧ t.mem = s.mem ∧ (t.ctx s.cur).pc = (s.ctx s.cur).advance.pc ∧
      ∀ n, f.d = .g n → n ≠ 0 → (t.ctx s.cur).getG n = if (s.slotOf s.cur).resumed then BitVec.allOnes 64 else 0 := by
  let u : State := s.setGuardD f.d (guardOf (s.slotOf s.cur).resumed)
  have hu : u = { s with ctxs := u.ctxs } := s.setGuardD_eq _ _
  have hgo := s.finish_seq (u.modSlot (s.slotKeyOf s.cur) fun l => { l with resumed := false }) f
  have hctx : (u.modSlot (s.slotKeyOf s.cur) fun l => { l with resumed := false }).ctx s.cur = putG f.d (guardOf (s.slotOf s.cur).resumed) (s.ctx s.cur) :=
    s.ctx_setGuardD _ _
  rw [hctx] at hgo
  refine ⟨_, exec_of_body (body := preqBody f) rfl hg rfl, ?_, hgo.mem_eq.trans ?_, hgo.ctx_pc.trans (putG_advance_pc _ _ _), fun n hd hn => ?_⟩
  · rw [hgo.slotOf_eq, hu]
    show ((({ s with ctxs := u.ctxs } : State).modSlot (s.slotKeyOf s.cur) _).slot (s.slotKeyOf s.cur)).resumed = false
    rw [State.slot_modSlot, if_pos rfl]
  · rw [hu]
    rfl
  · rw [Ctx.getG_of_g (hgo.ctx_g.trans (Ctx.advance_g _)), hd, putG_g, Ctx.getG_setG_self _ _ hn]
    rfl

end Sys2Proof.Machine
end

section
/-! # The ends of items (O52)

END of a hart context at level 0: the next item of its vcore starts in the slot, or the vcore ends and stays until its engine commands retire. -/

namespace Sys2Proof.Machine

open Sys2Proof.Claims

section

variable {s : State} {key lid core : Nat}

theorem slotKey_div_mod (key : Nat) : slotKey (key / 16) (key % 16) = key := by
  unfold slotKey
  omega

theorem Gang.mayHave_of_level_zero {g : Gang} (h : g.level = 0) (e : TraceEvent) : g.mayHave e = true := by
  unfold Gang.mayHave
  rw [h]
  rfl

theorem State.settleHurdles_of_none (h : (s.gang lid).hurdles = []) : s.settleHurdles lid = s := by
  unfold State.settleHurdles
  dsimp only
  rw [h]
  rfl

theorem State.startItems_of_none (h : ∀ j, (s.slot (slotKey core j)).startDue = false) : s.startItems core = s :=
  foldl_of_fixed fun _ _ => foldl_of_fixed fun j _ => State.startDueItem_of_not_due (h j)

/-! ### The next item starts (R30, R81) -/

/-- At level 0 an item that is due starts at once. -/
theorem State.startDueItem_eq (hdue : (s.slot key).startDue = true) (hworker : (s.slot key).worker = false)
    (hfrozen : (s.ctx (hartOfSlot key)).frozen = false) (hlevel : (s.gang (s.slot key).lid).level = 0) :
    s.startDueItem key = (if (s.gang (s.slot key).lid).itemOf (s.slot key).wid.toNat = 0 then s.modSlot key (s.pageRegs (s.paddockOf (key / 16))) else s).enterItem
      key (s.slot key).wid.toNat := by
  unfold State.startDueItem
  dsimp only
  rw [hdue, hworker, hfrozen, Gang.mayHave_of_level_zero hlevel]
  refine (if_pos rfl).trans ?_
  rw [State.traceEvent_of_level_zero]
  split
  · exact hlevel
  · exact hlevel

/-- What an item that has started holds, and what it leaves. -/
structure State.ItemStarted (s t : State) (key : Nat) : Prop where
  mem : t.mem = s.mem
  gang : ∀ lid, t.gang lid = s.gang lid
  others : ∀ j, j ≠ key → t.slot j = s.slot j
  startDue : (t.slot key).startDue = false
  wid : (t.slot key).wid = (s.slot key).wid
  pc : (t.ctx (hartOfSlot key)).pc = BitVec.ofNat 56 (s.slot key).prog.entry
  live : (t.ctx (hartOfSlot key)).live = true
  v : (t.ctx (hartOfSlot key)).v = []
  g : (t.ctx (hartOfSlot key)).g = []

theorem State.itemStarted_enterItem (s : State) (key : Nat) : s.ItemStarted (s.enterItem key (s.slot key).wid.toNat) key := by
  have hctx := s.ctx_enterItem key (s.slot key).wid.toNat
  obtain ⟨hothers, -, hdue⟩ := s.slot_enterItem key (s.slot key).wid.toNat key
  refine ⟨rfl, fun _ => rfl, fun j => (s.slot_enterItem key _ j).1, hdue, ?_, ?_, ?_, ?_, ?_⟩
  · unfold State.enterItem
    dsimp only
    rw [State.slot_modCtx, State.slot_modSlot, if_pos rfl]
    exact BitVec.ofNat_toNat _ _ |>.trans (BitVec.setWidth_eq _)
  all_goals rw [hctx]; rfl

theorem State.itemStarted_startDueItem (hdue : (s.slot key).startDue = true) (hworker : (s.slot key).worker = false)
    (hfrozen : (s.ctx (hartOfSlot key)).frozen = false) (hlevel : (s.gang (s.slot key).lid).level = 0) : s.ItemStarted (s.startDueItem key) key := by
  rw [State.startDueItem_eq hdue hworker hfrozen hlevel]
  split
  · let u : State := s.modSlot key (s.pageRegs (s.paddockOf (key / 16)))
    have hself : u.slot key = s.pageRegs (s.paddockOf (key / 16)) (s.slot key) := by rw [State.slot_modSlot, if_pos rfl]
    have hothers (j : Nat) (hj : j ≠ key) : u.slot j = s.slot j := by rw [State.slot_modSlot, if_neg hj]
    have hwid : (s.slot key).wid = (u.slot key).wid := by rw [hself]; rfl
    have hprog : (s.slot key).prog = (u.slot key).prog := by rw [hself]; rfl
    have h := u.itemStarted_enterItem key
    rw [hwid]
    exact ⟨h.mem, h.gang, fun j hj => (h.others j hj).trans (hothers j hj), h.startDue, h.wid.trans hwid.symm, hprog ▸ h.pc, h.live, h.v, h.g⟩
  · exact s.itemStarted_enterItem key

/-- Where only this slot of its core has an item due, starting the items of the core starts that one. -/
theorem State.itemStarted_startItems (hothers : ∀ n, n ≠ key % 16 → (s.slot (slotKey (key / 16) n)).startDue = false)
    (h : s.ItemStarted (s.startDueItem key) key) : s.ItemStarted (s.startItems (key / 16)) key := by
  have hkey : slotKey (key / 16) (key % 16) = key := slotKey_div_mod key
  have hstart : s.startItems (key / 16) = s.startDueItem key := by
    have hsingle := State.startItems_of_single (s := s) (core := key / 16) (j := key % 16) (Nat.mod_lt _ (by decide)) hothers
    rw [hkey] at hsingle
    exact hsingle (fun n hn => h.others _ fun e => hn (slotKey_inj (e.trans hkey.symm))) h.startDue
  rw [hstart]
  exact h

/-! ### An item ends (R29, R133) -/

/-- The item of a slot is over, and its context has left it; the next is not yet due. -/
def State.itemOver (s : State) (key : Nat) : State :=
  (s.modGang (s.slot key).lid (fun g => { g with ends := g.ends ++ [((s.slot key).wid.toNat, s.releaseClock (hartOfSlot key))] })).modCtx (hartOfSlot key)
    (fun c => { c with live := false, waitFrom := none })

theorem State.gang_itemOver (s : State) (key lid : Nat) :
    ((s.itemOver key).gang lid).level = (s.gang lid).level ∧ ((s.itemOver key).gang lid).hurdles = (s.gang lid).hurdles := by
  unfold State.itemOver
  rw [State.gang_modCtx, State.gang_modGang]
  split
  next h =>
    subst h
    exact ⟨rfl, rfl⟩
  next => exact ⟨rfl, rfl⟩

theorem State.ctx_itemOver (s : State) (key : Nat) :
    (s.itemOver key).ctx (hartOfSlot key) = { s.ctx (hartOfSlot key) with live := false, waitFrom := none } := State.ctx_modCtx_self _ _ _

/-- The slot of a vcore of `g` with the item after the one in hand due. -/
def Slot.dueNext (l : Slot) (g : Gang) : Slot :=
  { l with wid := BitVec.ofNat 64 (g.itemWid l.vcore (g.itemOf l.wid.toNat + 1)), startDue := true }

/-- The slot of a vcore that has ended its last item (R31). -/
def Slot.afterLast (l : Slot) : Slot := { l with ended := true }

section

variable (hworker : (s.slot key).worker = false) (hlevel : (s.gang (s.slot key).lid).level = 0)

include hworker hlevel

/-- What END does at level 0, where no trace is kept. -/
theorem State.nextItem_eq : s.nextItem key =
    if (s.gang (s.slot key).lid).itemOf (s.slot key).wid.toNat + 1 < (s.gang (s.slot key).lid).items then
      (((s.itemOver key).setSlot key ((s.slot key).dueNext (s.gang (s.slot key).lid))).startItems (key / 16)).settleHurdles (s.slot key).lid
    else ((((s.itemOver key).setSlot key (s.slot key).afterLast).startItems (key / 16)).settleHurdles (s.slot key).lid).retire key := by
  unfold State.nextItem
  dsimp only
  have htrace := State.traceEvent_of_level_zero
    (s := s.modGang (s.slot key).lid fun g => { g with ends := g.ends ++ [((s.slot key).wid.toNat, s.releaseClock (hartOfSlot key))] })
    (lid := (s.slot key).lid) (by rw [State.gang_modGang, if_pos rfl]; exact hlevel) (s.itemEvent key 1)
  rw [hworker, htrace]
  simp only [Bool.false_eq_true, if_false, Bool.not_false, Bool.true_and, decide_eq_true_eq, State.itemOver, Slot.dueNext, Slot.afterLast, State.modSlot,
    State.slot_modCtx, State.slot_modGang]

variable (hhurdles : (s.gang (s.slot key).lid).hurdles = []) (hquiet : ∀ j, (s.slot (slotKey (key / 16) j)).startDue = false)

include hhurdles hquiet

theorem State.itemStarted_nextItem (hfrozen : (s.ctx (hartOfSlot key)).frozen = false)
    (hmore : (s.gang (s.slot key).lid).itemOf (s.slot key).wid.toNat + 1 < (s.gang (s.slot key).lid).items) :
    ((s.itemOver key).setSlot key ((s.slot key).dueNext (s.gang (s.slot key).lid))).ItemStarted (s.nextItem key) key := by
  let z : State := (s.itemOver key).setSlot key ((s.slot key).dueNext (s.gang (s.slot key).lid))
  have hself : z.slot key = (s.slot key).dueNext (s.gang (s.slot key).lid) := by rw [State.slot_setSlot, if_pos rfl]
  have hothers (j : Nat) (hj : j ≠ key) : z.slot j = s.slot j := by
    rw [State.slot_setSlot, if_neg hj]
    rfl
  have hctx : (z.ctx (hartOfSlot key)).frozen = false := by
    show ((s.itemOver key).ctx (hartOfSlot key)).frozen = false
    rw [State.ctx_itemOver]
    exact hfrozen
  obtain ⟨hlevel', hhurdles'⟩ := s.gang_itemOver key (s.slot key).lid
  have hlid : (z.slot key).lid = (s.slot key).lid := by rw [hself]; rfl
  have hstart : z.ItemStarted (z.startItems (key / 16)) key := by
    refine State.itemStarted_startItems (fun n hn => ?_) (State.itemStarted_startDueItem (by rw [hself]; rfl) (by rw [hself]; exact hworker) hctx ?_)
    · rw [hothers _ fun e => hn (slotKey_inj (e.trans (slotKey_div_mod key).symm))]
      exact hquiet n
    · rw [hlid]
      exact hlevel'.trans hlevel
  rw [State.nextItem_eq hworker hlevel, if_pos hmore, State.settleHurdles_of_none]
  · exact hstart
  · rw [hstart.gang]
    exact hhurdles'.trans hhurdles

theorem State.nextItem_last (hlast : (s.gang (s.slot key).lid).items ≤ (s.gang (s.slot key).lid).itemOf (s.slot key).wid.toNat + 1)
    (hbusy : s.engineIdle (key / 16) (key % 16) = false) : s.nextItem key = (s.itemOver key).setSlot key (s.slot key).afterLast := by
  let z : State := (s.itemOver key).setSlot key (s.slot key).afterLast
  have hslot (j : Nat) : (z.slot j).startDue = (s.slot j).startDue ∧ (z.slot j).forks = (s.slot j).forks := by
    rw [State.slot_setSlot]
    split
    next h =>
      subst h
      exact ⟨rfl, rfl⟩
    next => exact ⟨rfl, rfl⟩
  have hstart : z.startItems (key / 16) = z := State.startItems_of_none fun j => (hslot _).1.trans (hquiet j)
  have hsettle : z.settleHurdles (s.slot key).lid = z := State.settleHurdles_of_none ((s.gang_itemOver key _).2.trans hhurdles)
  have hidle : z.engineIdle (key / 16) (key % 16) = false := by
    unfold State.engineIdle at hbusy ⊢
    rw [(hslot _).2]
    exact hbusy
  have hretire : z.retire key = z := by
    refine if_neg ?_
    rw [State.canRetire, hidle, Bool.and_false, Bool.false_and, Bool.false_and, Bool.and_false]
    exact Bool.false_ne_true
  rw [State.nextItem_eq hworker hlevel, if_neg (Nat.not_lt.2 hlast)]
  exact ((congrArg (fun u : State => (u.settleHurdles (s.slot key).lid).retire key) hstart).trans (congrArg (State.retire · key) hsettle)).trans hretire

end

end

/-! ### END -/

section

variable {f : Fields} {s : State}

theorem endItemBody_drained (hsb : ∀ e ∈ (s.ctx s.cur).sb, e.2 = 0) : endItemBody f s = (do
    need (!(s.slotOf s.cur).worker || (s.slotOf s.cur).work.lastZero) PERM 0
    if (s.gang (s.slotOf s.cur).lid).mayHave (s.itemEvent (s.slotKeyOf s.cur) 1) || (s.slotOf s.cur).worker then
      .ok { s := s.nextItem (s.slotKeyOf s.cur), next := .gone }
    else .error (.stay s)) := by
  refine if_neg fun hany => ?_
  obtain ⟨e, he, hne⟩ := List.any_eq_true.1 hany
  exact bne_iff_ne.1 hne (hsb e he)

variable (hg : acts s f)

include hg

theorem end_waits (h : ∃ e ∈ (s.ctx s.cur).sb, e.2 ≠ 0) : ∃ t : State, exec (.endItem f) s = .next t ∧ waits s t ∧ t.slots = s.slots := by
  have hany : (s.ctx s.cur).sb.any (fun x => x.2 != 0) = true := by
    obtain ⟨e, he, hne⟩ := h
    exact List.any_eq_true.2 ⟨e, he, bne_iff_ne.2 hne⟩
  obtain ⟨hmem, hslots, y, hctx⟩ := s.stopped_stay s
  refine ⟨_, exec_of_body_error (body := endItemBody f) rfl hg (e := .stay s) (if_pos hany), ⟨?_, ?_, hmem⟩, hslots⟩
  all_goals rw [hctx]

variable (hsb : ∀ e ∈ (s.ctx s.cur).sb, e.2 = 0)

include hsb

theorem end_traps (hworker : (s.slotOf s.cur).worker = true) (hzero : (s.slotOf s.cur).work.lastZero = false) (ht : s.entersTraps) :
    traps (.endItem f) s PERM 0 :=
  traps_of_body (body := endItemBody f) rfl hg ((endItemBody_drained hsb).trans (need_bind_trap (by rw [hworker, hzero]; rfl))) ht

/-- Where the item may end, the context leaves it, in the state that the end of the item makes. -/
theorem end_goesOn (hworker : (s.slotOf s.cur).worker = false) (hlevel : (s.gang (s.slotOf s.cur).lid).level = 0) :
    ∃ t : State, exec (.endItem f) s = .next t ∧ (s.nextItem (s.slotKeyOf s.cur)).GoesOn t s.cur ((s.nextItem (s.slotKeyOf s.cur)).ctx s.cur) := by
  refine ⟨_, exec_of_body (body := endItemBody f) rfl hg ?_, s.finish_gone _ f⟩
  rw [endItemBody_drained hsb]
  refine (need_bind_pass (by rw [hworker]; rfl)).trans (if_pos ?_)
  rw [Gang.mayHave_of_level_zero hlevel]
  rfl

end

/-- The next item of a vcore starts in its slot (R29, R30). -/
theorem end_next {f : Fields} {s : State} (hg : acts s f) (hsb : ∀ e ∈ (s.ctx s.cur).sb, e.2 = 0) (hworker : (s.slotOf s.cur).worker = false)
    (hlevel : (s.gang (s.slotOf s.cur).lid).level = 0) (hhurdles : (s.gang (s.slotOf s.cur).lid).hurdles = [])
    (hhart : hartOfSlot (s.slotKeyOf s.cur) = s.cur) (hfrozen : (s.ctx s.cur).frozen = false)
    (hmore : (s.gang (s.slotOf s.cur).lid).itemOf (s.slotOf s.cur).wid.toNat + 1 < (s.gang (s.slotOf s.cur).lid).items)
    (hquiet : ∀ j, (s.slot (slotKey (s.slotKeyOf s.cur / 16) j)).startDue = false) :
    ∃ t : State, exec (.endItem f) s = .next t ∧ (t.slot (s.slotKeyOf s.cur)).wid = ((s.slotOf s.cur).dueNext (s.gang (s.slotOf s.cur).lid)).wid ∧
      (t.slot (s.slotKeyOf s.cur)).startDue = false ∧ (t.ctx s.cur).pc = BitVec.ofNat 56 (s.slotOf s.cur).prog.entry ∧ (t.ctx s.cur).live = true ∧
      (t.ctx s.cur).v = [] ∧ (t.ctx s.cur).g = [] ∧ t.mem = s.mem := by
  obtain ⟨t, ht, hgo⟩ := end_goesOn hg hsb hworker hlevel
  have hitem := State.itemStarted_nextItem hworker hlevel hhurdles hquiet (hhart.symm ▸ hfrozen) hmore
  have hslot : ((s.itemOver (s.slotKeyOf s.cur)).setSlot (s.slotKeyOf s.cur) ((s.slotOf s.cur).dueNext (s.gang (s.slotOf s.cur).lid))).slot
      (s.slotKeyOf s.cur) = (s.slotOf s.cur).dueNext (s.gang (s.slotOf s.cur).lid) := by rw [State.slot_setSlot, if_pos rfl]
  obtain ⟨hmem, -, -, hdue, hwid, hpc, hlive, hv, hgs⟩ := hitem
  rw [hhart] at hpc hlive hv hgs
  have ⟨_, _, _, _, hctx⟩ := hgo
  refine ⟨t, ht, ?_, ?_, ?_, ?_, ?_, ?_, hgo.mem_eq.trans hmem⟩
  · rw [hgo.slot_eq, hwid]
    exact congrArg Slot.wid hslot
  · rw [hgo.slot_eq, hdue]
  · have hentry := congrArg (fun l : Slot => BitVec.ofNat 56 l.prog.entry) hslot
    rw [hctx]
    exact hpc.trans hentry
  all_goals rw [hctx]
  · exact hlive
  · exact hv
  · exact hgs

/-- The vcore has ended, and stays in its slot while its engine commands have not retired (R31). -/
theorem end_last {f : Fields} {s : State} (hg : acts s f) (hsb : ∀ e ∈ (s.ctx s.cur).sb, e.2 = 0) (hworker : (s.slotOf s.cur).worker = false)
    (hlevel : (s.gang (s.slotOf s.cur).lid).level = 0) (hhurdles : (s.gang (s.slotOf s.cur).lid).hurdles = [])
    (hhart : hartOfSlot (s.slotKeyOf s.cur) = s.cur)
    (hlast : (s.gang (s.slotOf s.cur).lid).items ≤ (s.gang (s.slotOf s.cur).lid).itemOf (s.slotOf s.cur).wid.toNat + 1)
    (hquiet : ∀ j, (s.slot (slotKey (s.slotKeyOf s.cur / 16) j)).startDue = false)
    (hbusy : s.engineIdle (s.slotKeyOf s.cur / 16) (s.slotKeyOf s.cur % 16) = false) :
    ∃ t : State, exec (.endItem f) s = .next t ∧ (t.slot (s.slotKeyOf s.cur)).ended = true ∧ (t.ctx s.cur).live = false ∧
      (t.slot (s.slotKeyOf s.cur)).live = (s.slotOf s.cur).live ∧ t.mem = s.mem := by
  obtain ⟨t, ht, hgo⟩ := end_goesOn hg hsb hworker hlevel
  rw [State.nextItem_last hworker hlevel hhurdles hquiet hlast hbusy] at hgo
  have hctx : ((s.itemOver (s.slotKeyOf s.cur)).ctx s.cur).live = false := by
    have hover := s.ctx_itemOver (s.slotKeyOf s.cur)
    rw [hhart] at hover
    rw [hover]
  have ⟨_, _, _, _, hlive⟩ := hgo
  refine ⟨t, ht, ?_, ?_, ?_, hgo.mem_eq⟩
  · rw [hgo.slot_eq, State.slot_setSlot, if_pos rfl]
    rfl
  · rw [hlive]
    exact hctx
  · rw [hgo.slot_eq, State.slot_setSlot, if_pos rfl]
    rfl

end Sys2Proof.Machine
end

section
/-! # TAIL (O52)

A read that does not end in sequence leaves the heads of queues; one that does is answered by the Drover, with the child registered where it may be. -/

namespace Sys2Proof.Machine

open Sys2Proof.Claims

/-! ### The end of an instruction leaves the tables of the Drovers -/

section

variable (s : State) (k : Nat)

theorem State.drovers_dropMisses : (s.dropMisses k).drovers = s.drovers := by
  unfold State.dropMisses
  split <;> rfl

theorem State.drovers_issued (before : State) (pace : Nat) : (s.issued before k pace).drovers = s.drovers := by
  obtain ⟨h, -⟩ := s.issued_goesOn before k pace
  rw [h]

theorem State.drovers_freeze (cause addr : Nat) : (s.freeze k cause addr).drovers = s.drovers := by
  have hraise (t : State) (port vec : Nat) : (t.raiseMsix port vec).drovers = t.drovers := by
    unfold State.raiseMsix
    split <;> rfl
  exact hraise _ _ _

theorem State.drovers_takeTrap (flags cause tval : Nat) : (s.takeTrap k flags cause tval).drovers = s.drovers := by
  unfold State.takeTrap
  split
  · rfl
  · split
    · exact s.drovers_freeze k _ _
    · rfl

end

theorem State.drovers_finish (s : State) (f : Fields) (o : Out) : (s.finish f o).drovers = o.s.drovers := by
  have hstart : (o.s.dropMisses s.cur).drovers = o.s.drovers := o.s.drovers_dropMisses s.cur
  unfold State.finish
  split
  case h_3 => exact (State.drovers_issued _ _ _ _).trans ((State.drovers_takeTrap _ _ _ _ _).trans hstart)
  case h_4 =>
    have hyields (t : State) (pace : Nat) (u : Ctx → Ctx) : ((t.issued s s.cur pace).modCtx s.cur u).drovers = t.drovers :=
      t.drovers_issued s.cur s pace
    exact (hyields _ _ _).trans hstart
  all_goals exact (State.drovers_issued _ _ _ _).trans hstart

theorem State.head_finish (s : State) (f : Fields) (o : Out) (p q : Nat) : (s.finish f o).head p q = o.s.head p q := by
  unfold State.head State.drover
  rw [State.drovers_finish]

/-! ### The read, and the answer (R34, R134) -/

/-- The Drover's answer by the rules of R34. -/
theorem State.tailStatus_worker {s : State} {l : Slot} (h : l.worker = true) : s.tailStatus l = 3 := if_pos h

section

variable {s : State} {l : Slot} (hworker : l.worker = false)

include hworker

theorem State.tailStatus_notLeader (hlevel : (s.gang l.lid).level ≠ 0) (hvcore : l.vcore ≠ 0) : s.tailStatus l = 2 := by
  unfold State.tailStatus
  dsimp only
  rw [hworker, bne_iff_ne.2 hvcore, decide_eq_true hlevel]
  rfl

theorem State.tailStatus_leader (hleader : (s.gang l.lid).level = 0 ∨ l.vcore = 0) :
    s.tailStatus l = if (s.head (s.gang l.lid).ctx (s.gang l.lid).queue).tail.isSome = true then 1 else 0 := by
  have hmay : ¬(decide ((s.gang l.lid).level ≠ 0) && l.vcore != 0) = true := by
    rw [Bool.and_eq_true, decide_eq_true_eq, bne_iff_ne]
    exact fun h => hleader.elim h.1 h.2
  unfold State.tailStatus
  dsimp only
  rw [hworker]
  exact (if_neg Bool.false_ne_true).trans (if_neg hmay)

end

/-- What TAIL asks of memory. -/
def tailReq (f : Fields) : Req := { op := 0x0C8, field := 2, opnd := f.a, n := 48, al := 16, ld := true, st := false, spaces := [0, 1, 5] }

section

variable {f : Fields} {s u v : State} {ps : List (Loc × Nat)}
  (hspan : spanAccess s.cur (tailReq f) (s.capOpnd f.a) (offs f) s = .ok (u, ps))

include hspan

theorem tailBody_cut (h : (Out.spans s.cur { s := u } ps).next ≠ .seq) : tailBody f s = .ok (Out.spans s.cur { s := u } ps) := by
  rw [← offsetOf_eq] at hspan
  rw [tailBody]
  refine (Exec.bind_of_ok hspan).trans ?_
  show (match (Out.spans s.cur { s := u } ps).next with | .seq => _ | _ => _) = _
  split
  next hn => exact absurd hn h
  next => rfl

/-- The state in which a tail request has been answered with a status. -/
def tailAnswered (s v : State) (ps : List (Loc × Nat)) (st : Nat) : State :=
  if st = 0 then
    v.modHead (s.gang (s.slotOf s.cur).lid).ctx (s.gang (s.slotOf s.cur).lid).queue
      (fun h => { h with tail := some (BitVec.ofNat 384 (bytesToNat (s.spanBytes ps))) })
  else v

theorem tailBody_answers (hv : Out.spans s.cur { s := u } ps = { s := v, next := .seq }) {st : Nat} (hst : s.tailStatus (s.slotOf s.cur) = st) :
    tailBody f s = done (((tailAnswered s v ps st).setD f.d (CReg.word st)).setOwnGuard f (st == 0)) := by
  rw [← offsetOf_eq] at hspan
  rw [tailBody]
  refine (Exec.bind_of_ok hspan).trans ?_
  show (match (Out.spans s.cur { s := u } ps).next with | .seq => _ | _ => _) = _
  rw [hv, ← hst]
  rfl

variable (hg : acts s f)

include hg

theorem tail_cut (h : (Out.spans s.cur { s := u } ps).next ≠ .seq) :
    ∃ t : State, exec (.tail f) s = .next t ∧ ∀ p q, t.head p q = s.head p q := by
  have hnoted : s.Noted (Out.spans s.cur { s := u } ps).s := .spans (Answers.spanAccess.of_ok hspan)
  exact ⟨_, exec_of_body (body := tailBody f) rfl hg (tailBody_cut hspan h), fun p q => (State.head_finish _ _ _ p q).trans (hnoted.head p q)⟩

theorem tail_answers (hv : Out.spans s.cur { s := u } ps = { s := v, next := .seq }) {st : Nat} (hst : s.tailStatus (s.slotOf s.cur) = st) :
    let g := s.gang (s.slotOf s.cur).lid
    ∃ t : State, exec (.tail f) s = .next t ∧ t.mem = v.mem ∧ gives t s.cur f.d (Claims.word st) ∧ (t.ctx s.cur).pc = (v.ctx s.cur).advance.pc ∧
      (f.gidx ≠ 0 → (t.ctx s.cur).getG f.gidx = if st = 0 then BitVec.allOnes 64 else 0) ∧
      ((t.head g.ctx g.queue).tail = if st = 0 then some (BitVec.ofNat 384 (bytesToNat (s.spanBytes ps))) else (v.head g.ctx g.queue).tail) := by
  have hnoted : s.Noted (Out.spans s.cur { s := u } ps).s := .spans (Answers.spanAccess.of_ok hspan)
  rw [hv] at hnoted
  have hcur : (tailAnswered s v ps st).cur = s.cur := by
    unfold tailAnswered
    split
    · exact hnoted.cur
    · exact hnoted.cur
  have hmem : (tailAnswered s v ps st).mem = v.mem := by
    unfold tailAnswered
    split <;> rfl
  have hctx : (tailAnswered s v ps st).ctx s.cur = v.ctx s.cur := by
    unfold tailAnswered
    split <;> rfl
  obtain ⟨t, ht, htmem, hgives, hpc, hguard, hhead⟩ := exec_answers (i := .tail f) (body := tailBody f) rfl hg hcur (tailBody_answers hspan hv hst)
  refine ⟨t, ht, htmem.trans hmem, hgives, by rw [hpc, hctx], fun hn => (hguard hn).trans ?_, ?_⟩
  · exact if_congr beq_iff_eq rfl rfl
  · rw [hhead]
    unfold tailAnswered
    split
    · rw [State.head_modHead, if_pos ⟨rfl, rfl⟩]
    · rfl

end

end Sys2Proof.Machine
end

section
/-! # WUPD (O52)

The checks come in their order; a row that is locked is answered 1, and another is written when its scales are sound. -/

namespace Sys2Proof.Machine

open Sys2Proof.Claims

/-! ### Loads that meet an error (R160) -/

section

variable {u : State} {n : Nat} {ls : List Loc}

theorem Out.foldl_loads_of_sound (h : ∀ l ∈ ls, u.poisoned l n = false) : ls.foldl (fun (o : Out) l => o.loads l n) { s := u } = { s := u } := by
  induction ls with
  | nil => rfl
  | cons l ls ih =>
    have hload : Out.loads { s := u } l n = { s := u } := by
      show loadEnd u l n = _
      rw [loadEnd, h l List.mem_cons_self]
      rfl
    rw [List.foldl_cons, hload]
    exact ih fun x hx => h x (List.mem_cons_of_mem l hx)

theorem Out.foldl_loads_of_after {cause tval : Nat} :
    ls.foldl (fun (o : Out) l => o.loads l n) { s := u, next := .after cause tval } = { s := u, next := .after cause tval } := by
  induction ls with
  | nil => rfl
  | cons l ls ih => exact ih

/-- The first error ends the loads with MATRIX_CHECK, and its core is quarantined. -/
theorem Out.foldl_loads_of_poisoned (h : ∃ l ∈ ls, u.poisoned l n = true) : ∃ c tval,
    ls.foldl (fun (o : Out) l => o.loads l n) { s := u } =
      { s := u.modCore c (fun x => { x with quarantined := true }), next := .after MATRIX_CHECK tval } := by
  induction ls with
  | nil =>
    obtain ⟨l, hl, -⟩ := h
    cases hl
  | cons l ls ih =>
    by_cases hl : u.poisoned l n = true
    · refine ⟨l.core, 2 ^ 63 + l.space % 8 * 2 ^ 60 + l.va % 2 ^ 56, ?_⟩
      rw [List.foldl_cons]
      exact (congrArg (fun o => ls.foldl (fun (o : Out) l => o.loads l n) o) (if_pos hl)).trans Out.foldl_loads_of_after
    · have hload : Out.loads { s := u } l n = { s := u } := if_neg hl
      rw [List.foldl_cons, hload]
      refine ih ?_
      obtain ⟨x, hx, hp⟩ := h
      obtain rfl | hx := List.mem_cons.1 hx
      · exact absurd hp hl
      · exact ⟨x, hx, hp⟩

end

/-! ### Trap entry after an effect -/

theorem State.ctx_enterTrap (s : State) (k flags cause tval : Nat) : ((s.enterTrap k flags cause tval).ctx k).c = (s.ctx k).c ∧
    ((s.enterTrap k flags cause tval).ctx k).g = (s.ctx k).g ∧ ((s.enterTrap k flags cause tval).ctx k).cause = BitVec.ofNat 64 (flags * 2 ^ 62 + cause) := by
  unfold State.enterTrap
  dsimp only
  rw [State.ctx_modCtx_self]
  exact ⟨rfl, rfl, rfl⟩

/-- A trap after the effect of an instruction whose accesses alone have left anything: memory and the registers are as the accesses left them. -/
theorem exec_traps_after {i : Instr} {f : Fields} {body : State → Exec Out} {s u : State} {cause tval : Nat} (hi : exec i s = runScalar f body s)
    (hg : acts s f) (ht : s.entersTraps) (hu : s.Noted u) (hb : body s = .ok { s := u, next := .after cause tval }) :
    ∃ z : State, exec i s = .next z ∧ z.mem = u.mem ∧ (z.ctx s.cur).c = (s.ctx s.cur).c ∧ (z.ctx s.cur).g = (s.ctx s.cur).g ∧
      (z.ctx s.cur).cause = BitVec.ofNat 64 cause := by
  obtain ⟨htvec, hin, hprobing⟩ := hu.entersTraps ht
  have hgo := s.finish_after u f cause tval htvec hin hprobing
  obtain ⟨hc, hg', hcause⟩ := (u.modCtx s.cur Ctx.advance).ctx_enterTrap s.cur 0 cause tval
  rw [State.ctx_modCtx_self] at hc hg'
  refine ⟨_, exec_of_body hi hg hb, hgo.mem_eq, ?_, ?_, ?_⟩
  · rw [hgo.ctx_c, hc, Ctx.advance_c, hu.getC]
  · rw [hgo.ctx_g, hg', Ctx.advance_g, hu.getG]
  · obtain ⟨-, -, -, -, hctx⟩ := hgo
    rw [hctx]
    exact hcause.trans (by rw [Nat.zero_mul, Nat.zero_add])

/-! ### The checks of WUPD (R282) -/

/-- The tensor that WUPD names. -/
def wupdTensor (f : Fields) (s : State) : Tensor := (s.slotOf s.cur).tensor (f.md.toNat % 64)

/-- A tensor that WUPD may write. -/
def Tensor.Updatable (t : Tensor) : Prop := t.kind ≠ 0 ∧ t.weight = true ∧ (t.space = 0 ∨ t.space = 2)

theorem Tensor.updatable_iff (t : Tensor) : t.Updatable ↔ (t.kind != 0 && t.weight && (t.space == 0 || t.space == 2)) = true := by
  rw [Tensor.Updatable, Bool.and_eq_true, Bool.and_eq_true, Bool.or_eq_true, bne_iff_ne, beq_iff_eq, beq_iff_eq, and_assoc]

/-- The row lies in a region that a cycle holds locked. -/
def rowLocked (s : State) (t : Tensor) (row : Nat) : Prop :=
  ∃ w ∈ rowStores t 0 row (List.replicate t.cols 0), ∃ h ∈ s.heldLocks (s.paddockOf (coreOf s.cur)),
    regionKey t.space (coreOf s.cur) w.1 < h.hi ∧ h.lo < regionKey t.space (coreOf s.cur) w.1 + w.2.length

theorem rowLocked_iff (s : State) (t : Tensor) (row : Nat) : rowLocked s t row ↔
    (((rowStores t 0 row (List.replicate t.cols 0)).map (fun w => (regionKey t.space (coreOf s.cur) w.1, w.2.length))).any (fun r =>
      (s.heldLocks (s.paddockOf (coreOf s.cur))).any (fun h => decide (r.1 < h.hi) && decide (h.lo < r.1 + r.2)))) = true := by
  simp only [rowLocked, List.any_map, List.any_eq_true, Function.comp_apply, Bool.and_eq_true, decide_eq_true_eq]

section

variable {f : Fields} {s : State} {row : Nat} (hrow : holdsB s f false row)

include hrow

theorem wupdBody_notUpdatable (h : ¬(wupdTensor f s).Updatable) : wupdBody f s = .error (.trap PERM (f.md.toNat % 64)) := by
  have hidx : f.mod 0 6 = f.md.toNat % 64 := fld_zero _ _
  rw [Tensor.updatable_iff, wupdTensor] at h
  rw [wupdBody, hrow, hidx]
  exact need_bind_trap (Bool.eq_false_iff.2 h)

variable (hmay : (wupdTensor f s).Updatable)

include hmay

theorem wupdBody_beyond (h : (wupdTensor f s).rows ≤ row) : wupdBody f s = .error (.trap BOUNDS row) := by
  have hidx : f.mod 0 6 = f.md.toNat % 64 := fld_zero _ _
  rw [Tensor.updatable_iff, wupdTensor] at hmay
  rw [wupdTensor] at h
  rw [wupdBody, hrow, hidx]
  exact (need_bind_pass hmay).trans (need_bind_trap (decide_eq_false (Nat.not_lt.2 h)))

variable (hlt : row < (wupdTensor f s).rows) (hfit : opndNum f.a + ((wupdTensor f s).cols + 15) / 16 ≤ 32)

include hlt hfit

theorem wupdBody_locked (h : rowLocked s (wupdTensor f s) row) : wupdBody f s = done ((s.setD f.d (CReg.word 1)).setOwnGuard f false) := by
  have hidx : f.mod 0 6 = f.md.toNat % 64 := fld_zero _ _
  rw [Tensor.updatable_iff] at hmay
  rw [rowLocked_iff] at h
  rw [wupdBody, hrow, hidx]
  exact (need_bind_pass hmay).trans ((need_bind_pass (decide_eq_true hlt)).trans ((if_neg (Nat.not_lt.2 hfit)).trans (if_pos h)))

/-- The elements of the row: the lanes of A, as binary32 or as integers, divided by their scales. -/
def wupdElems (f : Fields) (s : State) (ss : List FVal) : List (Nat × Bool × Bool) :=
  List.zipWith (fun x y => demitConv (wupdTensor f s) (if f.md.toNat / 2 ^ 7 % 16 = 8 then fval 23 x else intVal (BitVec.ofNat 32 x).toInt) y)
    ((s.ctx s.cur).lanes32 (opndNum f.a) (wupdTensor f s).cols) ss

/-- The stores that write them. -/
def wupdStores (f : Fields) (s : State) (row : Nat) (ss : List FVal) : List (Nat × List Byte) :=
  rowStores (wupdTensor f s) 0 row ((wupdElems f s ss).map (·.1))

theorem wupdBody_unlocked (h : ¬rowLocked s (wupdTensor f s) row) {s0 u : State} {sl : List Loc} {ss : List FVal} {ls : List (Loc × Nat)}
    (hscales : s.demitScales s.cur 0x2A0 (wupdTensor f s) 0 row (f.md.getLsbD 6) = .ok (s0, sl, ss))
    (hplaces : wupdPlaces s.cur (wupdTensor f s).space s ((wupdStores f s row ss).flatMap (fun w => linePieces w.1 w.2.length)) s0 = .ok (u, ls)) :
    wupdBody f s = (let o := sl.foldl (fun (o : Out) l => o.loads l (wupdTensor f s).scaleBytes) { s := u }
      match o.next with
      | .seq => .ok { o with s := ((putRow ls ((wupdStores f s row ss).flatMap (·.2)) o.s).setD f.d (CReg.word 0)).setOwnGuard f true }
      | _ => .ok o) := by
  have hidx : f.mod 0 6 = f.md.toNat % 64 := fld_zero _ _
  have hsx (x : Nat) : sx x 32 = (BitVec.ofNat 32 x).toInt := sx_eq_toInt x (by decide)
  rw [Tensor.updatable_iff] at hmay
  rw [rowLocked_iff] at h
  rw [wupdBody, hrow, hidx]
  refine (need_bind_pass hmay).trans ((need_bind_pass (decide_eq_true hlt)).trans ((if_neg (Nat.not_lt.2 hfit)).trans ((if_neg h).trans ?_)))
  simp only [hsx, bitAt_toNat]
  exact (Exec.bind_of_ok hscales).trans (Exec.bind_of_ok hplaces)

variable (hg : acts s f)

include hg

theorem wupd_locked (h : rowLocked s (wupdTensor f s) row) :
    ∃ u : State, exec (.wupd f) s = .next u ∧ u.mem = s.mem ∧ gives u s.cur f.d (Claims.word 1) ∧ (f.gidx ≠ 0 → (u.ctx s.cur).getG f.gidx = 0) ∧
      (u.ctx s.cur).pc = (s.ctx s.cur).advance.pc := by
  obtain ⟨u, hu, hmem, hgives, hpc, hguard, -⟩ :=
    exec_answers (i := .wupd f) (body := wupdBody f) rfl hg rfl (wupdBody_locked hrow hmay hlt hfit h)
  exact ⟨u, hu, hmem, hgives, hguard, hpc⟩

variable (hfree : ¬rowLocked s (wupdTensor f s) row) {s0 u : State} {sl : List Loc} {ss : List FVal} {ls : List (Loc × Nat)}
  (hscales : s.demitScales s.cur 0x2A0 (wupdTensor f s) 0 row (f.md.getLsbD 6) = .ok (s0, sl, ss))
  (hplaces : wupdPlaces s.cur (wupdTensor f s).space s ((wupdStores f s row ss).flatMap (fun w => linePieces w.1 w.2.length)) s0 = .ok (u, ls))

include hfree hscales hplaces

theorem wupd_checked (hpoison : ∃ x ∈ sl, u.poisoned x (wupdTensor f s).scaleBytes = true) (ht : s.entersTraps) :
    ∃ z : State, exec (.wupd f) s = .next z ∧ z.mem = u.mem ∧ (z.ctx s.cur).c = (s.ctx s.cur).c ∧ (z.ctx s.cur).g = (s.ctx s.cur).g ∧
      (z.ctx s.cur).cause = 0x12 := by
  obtain ⟨c, tval, hloads⟩ := Out.foldl_loads_of_poisoned hpoison
  have hu : s.Noted u := (Answers.wupdPlaces (Answers.demitScales.of_ok hscales)).of_ok hplaces
  have hquarantined : s.Noted (u.modCore c fun x => { x with quarantined := true }) := hu.trans (.modCore fun _ => by rfl)
  refine exec_traps_after (i := .wupd f) (body := wupdBody f) (u := u.modCore c fun x => { x with quarantined := true }) (tval := tval) rfl hg ht
    hquarantined ?_
  rw [wupdBody_unlocked hrow hmay hlt hfit hfree hscales hplaces, hloads]
  rfl

theorem wupd_written (hsound : ∀ x ∈ sl, u.poisoned x (wupdTensor f s).scaleBytes = false) :
    ∃ z : State, exec (.wupd f) s = .next z ∧ z.mem = (putRow ls ((wupdStores f s row ss).flatMap (·.2)) u).mem ∧ gives z s.cur f.d (Claims.word 0) ∧
      (f.gidx ≠ 0 → (z.ctx s.cur).getG f.gidx = BitVec.allOnes 64) := by
  have hu : s.Noted u := (Answers.wupdPlaces (Answers.demitScales.of_ok hscales)).of_ok hplaces
  have hbody : wupdBody f s = done (((putRow ls ((wupdStores f s row ss).flatMap (·.2)) u).setD f.d (CReg.word 0)).setOwnGuard f true) := by
    rw [wupdBody_unlocked hrow hmay hlt hfit hfree hscales hplaces, Out.foldl_loads_of_sound hsound]
    rfl
  obtain ⟨z, hz, hmem, hgives, -, hguard, -⟩ := exec_answers (i := .wupd f) (body := wupdBody f) rfl hg hu.putRow.cur hbody
  exact ⟨z, hz, hmem, hgives, hguard⟩

end

/-! ### The statement -/

/-- Settles O52: each instruction by the lemmas on its body. -/
theorem systemRegistersAndEnds : Obligations.SystemRegistersAndEnds := by
  refine ⟨?sysrd, ?syswr, ?waiting, ?timeout, ?endItem, ?tail, ?wupd⟩
  case sysrd =>
    intro f s hg
    have gets {r x : Nat} (hr : s.sysReg s.cur r = CReg.word x) (hn : f.imm.toNat % 2 ^ 12 = r) := does_sysrd_word hg hn hr
    refine ⟨gets rfl, gets rfl, gets rfl, gets rfl, gets rfl, gets rfl, gets rfl, gets rfl, gets rfl, gets rfl, gets rfl, gets rfl, gets rfl, gets rfl,
      gets rfl, gets rfl, gets rfl, fun hn => does_sysrd_cap hg hn rfl ?_, fun hn => does_sysrd_cap hg hn rfl ?_, fun hdrain => gets ?_⟩
    · exact ⟨by decide, by decide, by decide, by decide, by decide, by decide, by decide⟩
    · exact ⟨by decide, by decide, by decide, by decide, by decide, by decide, by decide⟩
    · show CReg.word (s.slotNo s.cur % 2 ^ 4) = _
      rw [State.slotNo, hdrain]
      rfl
  case syswr =>
    intro f s x hg ha _
    dsimp only
    refine ⟨fun hn hdrain => does_syswr_ctx hg hn ha ?status, fun hn => does_syswr_ctx hg hn ha ?cause, fun hn => does_syswr_ctx hg hn ha ?epc,
      fun hn => does_syswr_ctx hg hn ha rfl, fun hn => does_syswr_ctx hg hn ha ?repst,
      ⟨fun hn => syswr_slot (g := fun l => { l with uvec := BitVec.ofNat 64 x &&& BitVec.ofNat 64 (2 ^ 56 - 4) }) hg hn ha ?uvec,
        fun hn => syswr_slot (g := fun l => { l with tvec := BitVec.ofNat 64 x &&& BitVec.ofNat 64 (2 ^ 56 - 4) }) hg hn ha ?tvec,
        fun hn => syswr_slot hg hn ha (s.writeSys_engcap s.cur x),
        fun hn => syswr_slot (g := fun l => { l with tbase := BitVec.ofNat 64 x &&& BitVec.ofNat 64 (2 ^ 56 - 1) }) hg hn ha ?tbase,
        fun hn => syswr_slot (g := fun l => { l with tlimit := BitVec.ofNat 64 x &&& BitVec.ofNat 64 (2 ^ 56 - 1) }) hg hn ha ?tlimit,
        fun hn => syswr_slot (g := fun l => { l with seed := BitVec.ofNat 64 x }) hg hn ha rfl,
        fun hn => syswr_slot hg hn ha (s.writeSys_rngctl s.cur x),
        fun hn => syswr_slot (g := fun l => { l with sealmask := BitVec.ofNat 64 x &&& BitVec.ofNat 64 0xFFFEFFFE }) hg hn ha ?sealmask⟩,
      syswr_time hg ha, syswr_sampcfg hg ha⟩
    case status =>
      show s.modCtx s.cur (fun c => c.writeStatus (isDrain s.cur) x) = _
      simp only [hdrain, Ctx.writeStatus_eq, masked]
    case cause | epc | repst | uvec | tvec | tbase | tlimit | sealmask =>
      rw [← maskTo_eq]
      rfl
  case waiting =>
    intro f s hg
    exact ⟨fun b hb h => does_id_of_body (body := wfiBody f) rfl hg (wfiBody_done hb h), fun b hb hq h => wfi_waits hb hg hq h, preq_resumed hg⟩
  case timeout =>
    intro core slot f s b t0 _ hcur hat hb hb0 hfrom
    have hwaited : (b != 0 && s.waitedFor b) = decide (t0 + b ≤ s.time) := by
      rw [bne_iff_ne.2 hb0, Bool.true_and, State.waitedFor_of_some hfrom]
    rw [wfiTimeout_eq hb hcur hat, hwaited]
    refine ⟨fun hle => ⟨_, rfl, ?_⟩, fun hlt => ?_⟩
    · rw [if_pos (decide_eq_true hle)]
      exact s.finish_seq s f
    · rw [if_neg (mt of_decide_eq_true (Nat.not_le.2 hlt))]
  case endItem =>
    intro f s hg
    exact ⟨end_waits hg, fun hsb hworker hzero ht => end_traps hg hsb hworker hzero ht,
      fun hsb hworker hlevel hhurdles hhart hfrozen hmore hquiet => end_next hg hsb hworker hlevel hhurdles hhart hfrozen hmore hquiet,
      fun hsb hworker hlevel hhurdles hhart hlast hquiet hbusy => end_last hg hsb hworker hlevel hhurdles hhart hlast hquiet hbusy⟩
  case tail =>
    intro f s u ps hg
    dsimp only
    intro hspan
    refine ⟨fun h => ?cut, fun v hv => ⟨fun hworker => ?worker, fun hworker hlevel hvcore => ?notLeader, fun hworker hleader htail => ?second,
      fun hworker hleader htail => ?first⟩⟩
    case cut =>
      obtain ⟨t, ht, hheads⟩ := tail_cut hspan hg h
      exact ⟨t, ht, congrArg QHead.tail (hheads _ _)⟩
    case worker => exact tail_answers hspan hg hv (State.tailStatus_worker hworker)
    case notLeader => exact tail_answers hspan hg hv (State.tailStatus_notLeader hworker hlevel hvcore)
    case second => exact tail_answers hspan hg hv ((State.tailStatus_leader hworker hleader).trans (if_pos htail))
    case first =>
      refine tail_answers hspan hg hv ((State.tailStatus_leader hworker hleader).trans (if_neg ?_))
      rw [htail]
      exact Bool.false_ne_true
  case wupd =>
    intro f s row hg hrow
    refine ⟨fun hmay ht => ?_, fun hmay h ht => ?_, fun hmay hlt hfit h => wupd_locked hrow hmay hlt hfit hg h,
      fun hmay hlt hfit hfree s0 sl ss u ls hscales hplaces => ⟨fun hp ht => ?_, fun hp => ?_⟩⟩
    · exact traps_of_body (body := wupdBody f) rfl hg (wupdBody_notUpdatable hrow hmay) ht
    · exact traps_of_body (body := wupdBody f) rfl hg (wupdBody_beyond hrow hmay h) ht
    · exact wupd_checked hrow hmay hlt hfit hg hfree hscales hplaces hp ht
    · exact wupd_written hrow hmay hlt hfit hg hfree hscales hplaces hp

end Sys2Proof.Machine
end

section
/-! # Integer results (O1)

The bodies of the integer instructions read A, then B, and write what a function of the two numbers gives. So there is one lemma per form of
body, and per instruction the fact that the model's arithmetic on numbers is the arithmetic that R119 and R120 name. -/

namespace Sys2Proof.Machine

open Sys2Proof.Claims

/-! ### Types, and what a register holds of a result (R88, R95, R118) -/

theorem tyWidth_mem {ty : Nat} (h : ty < 8) : tyWidth ty = 8 ∨ tyWidth ty = 16 ∨ tyWidth ty = 32 ∨ tyWidth ty = 64 := by
  revert ty
  decide

theorem tyWidth_pos {ty : Nat} (h : ty < 8) : 0 < tyWidth ty := by
  have := tyWidth_mem h
  omega

theorem tyWidth_le {ty : Nat} (h : ty < 8) : tyWidth ty ≤ 64 := by
  have := tyWidth_mem h
  omega

theorem ofNat_mod_two_pow (n x : Nat) : BitVec.ofNat n (x % 2 ^ n) = BitVec.ofNat n x :=
  BitVec.eq_of_toNat_eq (by simp only [BitVec.toNat_ofNat, Nat.mod_mod])

/-- An operand read by its type is its value. -/
theorem tyVal_eq_val {ty : Nat} (h : ty < 8) (x : Nat) : tyVal ty x = val ty x := by
  rw [tyVal, val, tySigned, sx_eq_toInt x (tyWidth_pos h), zx, fld_zero, BitVec.toNat_ofNat]
  simp only [decide_eq_true_eq]

theorem val_mod_two_pow (ty x : Nat) : val ty (x % 2 ^ tyWidth ty) = val ty x := by rw [val, ofNat_mod_two_pow, val]

theorem wrapN_eq_toNat (n : Nat) (x : Int) : wrapN n x = (BitVec.ofInt n x).toNat := by
  rw [BitVec.toNat_ofInt, Nat.cast_pow]
  rfl

theorem ofNat_wrapN (n : Nat) (x : Int) : BitVec.ofNat n (wrapN n x) = BitVec.ofInt n x := by
  rw [wrapN_eq_toNat, BitVec.ofNat_toNat, BitVec.setWidth_eq]

/-- The low bits of an integer result, by the type and its sign (R95). -/
theorem CReg.ofTy_eq_reg {ty : Nat} (h : ty < 8) (x : Int) : CReg.ofTy ty x = reg ty x := by
  rw [CReg.ofTy, reg, tySigned]
  by_cases hs : ty < 4
  · rw [decide_eq_true hs, if_pos rfl, if_pos hs, sx_eq_toInt _ (tyWidth_pos h), ofNat_wrapN, BitVec.signExtend.eq_1 128,
      BitVec.toInt_signExtend_of_le (tyWidth_le h)]
  · rw [decide_eq_false hs, if_neg Bool.false_ne_true, if_neg hs, CReg.word_eq, Claims.word, wrapN_eq_toNat, BitVec.ofNat_toNat]

theorem satTo_eq {lo hi : Int} (x : Int) (h : lo ≤ hi) : satTo x lo hi = max lo (min x hi) := by
  unfold satTo
  split
  · omega
  · split <;> omega

theorem Fields.mod_one (f : Fields) (k : Nat) : (f.mod k 1 == 1) = f.md.getLsbD k := bitAt_toNat f.md k

/-- A result that is clamped under SAT, or wraps (R47, R95). -/
theorem intResult_eq {ty : Nat} (h : ty < 8) (sat : Bool) (x : Int) : intResult ty sat x = reg ty (if sat then clamp ty x else x) := by
  have hpow (n : Nat) : (1 : Int) ≤ 2 ^ n := one_le_pow₀ (by decide)
  rw [intResult, CReg.ofTy_eq_reg h]
  refine congrArg (reg ty) (if_congr Iff.rfl ?_ rfl)
  rw [clamp, tySigned]
  simp only [decide_eq_true_eq]
  refine if_congr Iff.rfl (satTo_eq x ?_) (satTo_eq x ?_)
  · have := hpow (tyWidth ty - 1)
    omega
  · have := hpow (tyWidth ty)
    omega

/-! ### What the forms of body do -/

section

variable {i : Instr} {op : Nat} {f : Fields} {s : State} {a b : Nat} (hg : acts s f) (hty : f.ty < 8) (ha : holds s f.a a)

include hg hty ha

theorem does_intBinary {sat : Bool} {g : Int → Int → Int} {x : Int} (hi : exec i s = runScalar f (intBinary op f sat g) s)
    (hb : holdsB s f (f.ty < 4) b) (hx : (if sat then clamp f.ty (g (val f.ty a) (val f.ty b)) else g (val f.ty a) (val f.ty b)) = x) :
    does i s (putC f.d (reg f.ty x)) := by
  refine does_putC_of_body hi hg ?_
  rw [← hx, ← intResult_eq hty, ← tyVal_eq_val hty, ← tyVal_eq_val hty, intBinary]
  exact (Exec.bind_of_ok (ha op 2)).trans (Exec.bind_of_ok (hb op))

theorem does_bitBinary {g : Nat → Nat → Nat → Nat} {n y : Nat} (hi : exec i s = runScalar f (bitBinary op f g) s) (hb : holdsB s f (f.ty < 4) b)
    (hn : n = tyWidth f.ty) (hy : g n (BitVec.ofNat n a).toNat (BitVec.ofNat n b).toNat = y) : does i s (putC f.d (reg f.ty y)) := by
  refine does_putC_of_body hi hg ?_
  subst hn
  rw [← hy, ← CReg.ofTy_eq_reg hty, bitBinary, BitVec.toNat_ofNat, BitVec.toNat_ofNat]
  exact (Exec.bind_of_ok (ha op 2)).trans (Exec.bind_of_ok (hb op))

theorem does_shiftOp {g : Nat → Nat → Nat → Nat} {n y : Nat} (hi : exec i s = runScalar f (shiftOp op f g) s) (hb : holdsB s f false b)
    (hn : n = tyWidth f.ty) (hy : g n (BitVec.ofNat n a).toNat (b % n) = y) : does i s (putC f.d (reg f.ty y)) := by
  refine does_putC_of_body hi hg ?_
  subst hn
  rw [← hy, ← CReg.ofTy_eq_reg hty, shiftOp, BitVec.toNat_ofNat]
  exact (Exec.bind_of_ok (ha op 2)).trans (Exec.bind_of_ok (hb op))

/-- MAD reads D before A and B (R119). -/
theorem does_mad {d : Nat} (hd : holds s f.d d) (hb : holdsB s f (f.ty < 4) b) : does (.mad f) s (putC f.d (reg f.ty
    (if f.md.getLsbD 6 then clamp f.ty (val f.ty d + val f.ty a * val f.ty b) else val f.ty d + val f.ty a * val f.ty b))) := by
  refine does_putC_of_body (body := madBody f) rfl hg ?_
  rw [← Fields.mod_one, ← intResult_eq hty, ← tyVal_eq_val hty, ← tyVal_eq_val hty, ← tyVal_eq_val hty, madBody]
  exact (Exec.bind_of_ok (hd 0x00A 1)).trans ((Exec.bind_of_ok (ha 0x00A 2)).trans (Exec.bind_of_ok (hb 0x00A)))

end

/-! ### The model's arithmetic on bits -/

section

variable {n : Nat}

theorem toNat_andNot (x y : BitVec n) : x.toNat &&& (2 ^ n - 1 - y.toNat) = (x &&& ~~~y).toNat := by
  rw [BitVec.toNat_and, BitVec.toNat_not]

theorem wrapN_toInt (x : BitVec n) : wrapN n x.toInt = x.toNat := by rw [wrapN_eq_toNat, BitVec.ofInt_toInt]

theorem shlBits_eq (x : BitVec n) (k : Nat) : shlBits n x.toNat k = (x <<< k).toNat := by
  rw [shlBits, BitVec.toNat_shiftLeft, Nat.shiftLeft_eq]

theorem shrBits_eq (x : BitVec n) (k : Nat) : shrBits n x.toNat k = (x >>> k).toNat := by
  rw [shrBits, BitVec.toNat_ushiftRight, Nat.shiftRight_eq_div_pow]

theorem sarBits_eq (x : BitVec n) (k : Nat) (hn : 0 < n) : sarBits n x.toNat k = (x.sshiftRight k).toNat := by
  rw [sarBits, sx_eq_toInt _ hn, BitVec.ofNat_toNat, BitVec.setWidth_eq, ← wrapN_toInt, BitVec.toInt_sshiftRight, Int.shiftRight_eq_div_pow]
  norm_cast

theorem rolBits_eq (x : BitVec n) {k : Nat} (hk : k < n) : rolBits n x.toNat k = (x.rotateLeft k).toNat := by
  have hdiv : x.toNat / 2 ^ (n - k) < 2 ^ k := by
    rw [Nat.div_lt_iff_lt_mul (Nat.two_pow_pos _), ← Nat.pow_add, Nat.add_sub_cancel' hk.le]
    exact x.isLt
  have hmul : x.toNat * 2 ^ k % 2 ^ n = 2 ^ k * (x.toNat % 2 ^ (n - k)) := by
    rw [Nat.mul_comm, ← Nat.mul_mod_mul_left, ← Nat.pow_add, Nat.add_sub_cancel' hk.le]
  rw [rolBits, BitVec.toNat_rotateLeft, Nat.mod_eq_of_lt hk, Nat.shiftLeft_eq, Nat.shiftRight_eq_div_pow, hmul, Nat.two_pow_add_eq_or_of_lt hdiv]

end

theorem ite_lt_eq_min (a b : Int) : (if b < a then b else a) = min a b := by
  rw [min_comm, min_def_lt]

theorem ite_lt_eq_max (a b : Int) : (if a < b then b else a) = max a b := (max_def_lt a b).symm

/-- Settles O1: each instruction is of one of the forms, and its function is the one that the rule names. -/
theorem integerResults : Obligations.IntegerResults := by
  unfold Obligations.IntegerResults
  refine ⟨fun f s a b hg hty ha hb => ⟨?_, fun d hd => does_mad hg hty ha hd hb⟩, fun f s a b hg hty ha => ?_⟩
  · simp only [intTable, List.forall_mem_cons, List.not_mem_nil, false_imp_iff, implies_true, and_true]
    refine ⟨?add, ?sub, ?mul, ?mulh, ?mulhn, ?div, ?rem, ?divn, ?remn, ?min, ?max, ?minn, ?maxn⟩
    case add | sub => exact does_intBinary hg hty ha rfl hb (by rw [Fields.mod_one])
    case mulh | mulhn => exact does_intBinary hg hty ha rfl hb (Int.shiftRight_eq_div_pow _ _).symm
    case min | minn => exact does_intBinary hg hty ha rfl hb (ite_lt_eq_min _ _)
    case max | maxn => exact does_intBinary hg hty ha rfl hb (ite_lt_eq_max _ _)
    case mul | div | rem | divn | remn => exact does_intBinary hg hty ha rfl hb rfl
  · have hn := tyWidth_pos hty
    have hk : b % tyWidth f.ty < tyWidth f.ty := Nat.mod_lt _ hn
    refine ⟨fun hb => ?bits, fun hb => ?shifts⟩
    case bits =>
      simp only [bitTable, List.forall_mem_cons, List.not_mem_nil, false_imp_iff, implies_true, and_true]
      exact ⟨does_bitBinary hg hty ha rfl hb rfl (BitVec.toNat_and _ _).symm, does_bitBinary hg hty ha rfl hb rfl (BitVec.toNat_or _ _).symm,
        does_bitBinary hg hty ha rfl hb rfl (BitVec.toNat_xor _ _).symm, does_bitBinary hg hty ha rfl hb rfl (toNat_andNot _ _)⟩
    case shifts =>
      simp only [shiftTable, List.forall_mem_cons, List.not_mem_nil, false_imp_iff, implies_true, and_true]
      exact ⟨does_shiftOp hg hty ha rfl hb rfl (shlBits_eq _ _), does_shiftOp hg hty ha rfl hb rfl (shrBits_eq _ _),
        does_shiftOp hg hty ha rfl hb rfl (sarBits_eq _ _ hn), does_shiftOp hg hty ha rfl hb rfl (rolBits_eq _ hk)⟩

end Sys2Proof.Machine
end

section
/-! # Counts, reversal and carry-less products of bits (O2)

Each count or pattern is a fold, or a search, over the places of a number; what it gives is said bit by bit. -/

namespace Sys2Proof.Machine

open Sys2Proof.Claims

/-! ### Small numbers as data -/

/-- A number below `2^63` has no sign to extend. -/
theorem word_of_lt {k : Nat} (h : k < 2 ^ 63) : Claims.word k = ⟨false, BitVec.ofNat 128 k⟩ := by
  have hmsb : (BitVec.ofNat 64 k).msb = false := by
    rw [BitVec.msb_eq_getLsbD_last, BitVec.getLsbD_ofNat, Nat.testBit_lt_two_pow h, Bool.and_false]
  rw [Claims.word, BitVec.signExtend_eq_setWidth_of_msb_false hmsb, BitVec.setWidth_ofNat_of_le_of_lt (by decide) (by omega)]

/-- A pattern is data whatever its width. -/
theorem reg_seven (x : Nat) : reg 7 x = Claims.word x := by
  rw [reg, Claims.word]
  rfl

/-- A result is held by its low bits. -/
theorem reg_toNat_ofNat (ty x : Nat) : reg ty (BitVec.ofNat (tyWidth ty) x).toNat = reg ty x := by
  simp only [reg, BitVec.ofInt_natCast, BitVec.ofNat_toNat, BitVec.setWidth_eq]

section

variable {i : Instr} {op : Nat} {f : Fields} {s : State} {a : Nat} (hg : acts s f) (ha : holds s f.a a)

include hg ha

theorem does_bitUnary {g : Nat → Nat → Nat} {n y : Nat} (hi : exec i s = runScalar f (bitUnary op f g) s) (hn : n = tyWidth f.ty)
    (hy : g n (BitVec.ofNat n a).toNat = y) : does i s (putC f.d (Claims.word y)) := by
  refine does_putC_of_body hi hg ?_
  subst hn
  rw [← hy, ← CReg.word_eq, bitUnary, BitVec.toNat_ofNat]
  exact Exec.bind_of_ok (ha op 2)

theorem does_count {g : Nat → Nat → Nat} {n k : Nat} (hi : exec i s = runScalar f (bitUnary op f g) s) (hn : n = tyWidth f.ty)
    (hk : g n (BitVec.ofNat n a).toNat = k) (hlt : k < 2 ^ 63) : does i s (putC f.d ⟨false, BitVec.ofNat 128 k⟩) :=
  word_of_lt hlt ▸ does_bitUnary hg ha hi hn hk

end

/-! ### Leading and trailing zeros, and ones (R119) -/

section

variable {n : Nat} (x : BitVec n)

theorem lt_two_pow_bitLen (m : Nat) : m < 2 ^ bitLen m := by
  unfold bitLen
  split
  next h => rw [h]; decide
  · exact Nat.lt_log2_self

theorem testBit_bitLen_pred {m : Nat} (h : 0 < bitLen m) : m.testBit (bitLen m - 1) = true := by
  unfold bitLen at h ⊢
  split at h
  · exact absurd h (by decide)
  next h0 => rw [if_neg h0]; exact Nat.testBit_log2 h0

theorem bitLen_le {m : Nat} (h : m < 2 ^ n) : bitLen m ≤ n := by
  unfold bitLen
  split
  · exact Nat.zero_le n
  next h0 => exact (Nat.log2_lt h0).2 h

theorem clzBits_spec : clzBits n x.toNat ≤ n ∧ (∀ i < clzBits n x.toNat, x.getLsbD (n - 1 - i) = false) ∧
    (clzBits n x.toNat < n → x.getLsbD (n - 1 - clzBits n x.toNat) = true) := by
  have hle := bitLen_le x.isLt
  rw [clzBits]
  refine ⟨Nat.sub_le _ _, fun i hi => ?_, fun h => ?_⟩
  · exact Nat.testBit_lt_two_pow ((lt_two_pow_bitLen _).trans_le (Nat.pow_le_pow_right (by decide) (by omega)))
  · rw [BitVec.getLsbD, (by omega : n - 1 - (n - bitLen x.toNat) = bitLen x.toNat - 1)]
    exact testBit_bitLen_pred (by omega)

theorem ctzBits_spec : ctzBits n x.toNat ≤ n ∧ (∀ i < ctzBits n x.toNat, x.getLsbD i = false) ∧
    (ctzBits n x.toNat < n → x.getLsbD (ctzBits n x.toNat) = true) := by
  unfold ctzBits
  simp only [bitAt_toNat]
  cases h : (List.range n).find? (fun i => x.getLsbD i) with
  | none =>
    rw [List.find?_range_eq_none] at h
    exact ⟨le_rfl, fun i hi => by simpa using h i hi, fun hn => absurd hn (lt_irrefl n)⟩
  | some k =>
    obtain ⟨hk, hmem, hbelow⟩ := List.find?_range_eq_some.1 h
    exact ⟨(List.mem_range.1 hmem).le, fun i hi => by simpa using hbelow i hi, fun _ => hk⟩

theorem popcBits_eq : popcBits n x.toNat = (List.range n).countP (fun i => x.getLsbD i) := by
  simp only [popcBits, bitAt_toNat]

theorem popcBits_le (n a : Nat) : popcBits n a ≤ n := List.countP_le_length.trans_eq List.length_range

/-! ### The reversal of bits -/

/-- The first `m` bits of `a`, lowest first, read as a number whose highest bit they begin with. -/
def brevPrefix (a m : Nat) : Nat := (List.range m).foldl (fun acc i => acc * 2 + fld a i 1) 0

theorem brevPrefix_succ (a m : Nat) : brevPrefix a (m + 1) = Nat.bit (a.testBit m) (brevPrefix a m) := by
  have hbit : fld a m 1 = (a.testBit m).toNat := (Nat.toNat_testBit a m).symm
  rw [brevPrefix, List.range_succ, List.foldl_append, List.foldl_cons, List.foldl_nil, hbit, Nat.mul_comm, Nat.bit_val, brevPrefix]

theorem testBit_brevPrefix (a m j : Nat) : (brevPrefix a m).testBit j = (decide (j < m) && a.testBit (m - 1 - j)) := by
  induction m generalizing j with
  | zero => exact Nat.zero_testBit j
  | succ m ih =>
    rw [brevPrefix_succ, Nat.add_sub_cancel]
    cases j with
    | zero => rw [Nat.testBit_bit_zero, Nat.sub_zero, decide_eq_true (Nat.succ_pos m), Bool.true_and]
    | succ j => rw [Nat.testBit_bit_succ, ih, Nat.sub_sub, Nat.add_comm 1 j, decide_eq_decide.2 Nat.succ_lt_succ_iff]

theorem brevBits_eq : brevBits n x.toNat = (x.reverse).toNat := by
  refine Nat.eq_of_testBit_eq fun i => ?_
  have h : (brevBits n x.toNat).testBit i = (decide (i < n) && x.getLsbD (n - 1 - i)) := testBit_brevPrefix _ _ _
  rw [h, ← BitVec.getMsbD, ← BitVec.getLsbD_reverse]
  rfl

/-! ### The carry-less product -/

/-- The sum without carries of the multiples of `a` by the first `m` bits of `b`. -/
def clPrefix (a b m : Nat) : Nat := (List.range m).foldl (fun acc i => if bitAt b i then acc ^^^ (a * 2 ^ i) else acc) 0

theorem parity_add_one_if (c : Nat) (p : Bool) : ((c + if p then 1 else 0) % 2 == 1) = ((c % 2 == 1) ^^ p) := by
  cases p with
  | false => exact (Bool.xor_false _).symm
  | true =>
    rw [Bool.xor_true, Bool.eq_iff_iff, Bool.not_eq_true', beq_iff_eq, beq_eq_false_iff_ne, if_pos rfl]
    omega

theorem testBit_clPrefix (a b m k : Nat) :
    (clPrefix a b m).testBit k = ((List.range m).countP (fun i => b.testBit i && decide (i ≤ k) && a.testBit (k - i)) % 2 == 1) := by
  induction m with
  | zero => exact Nat.zero_testBit k
  | succ m ih =>
    have hstep : clPrefix a b (m + 1) = if b.testBit m then clPrefix a b m ^^^ (a * 2 ^ m) else clPrefix a b m := by
      rw [clPrefix, List.range_succ, List.foldl_append, List.foldl_cons, List.foldl_nil, bitAt_eq_testBit]
      rfl
    rw [hstep, List.range_succ, List.countP_append, List.countP_singleton, parity_add_one_if, ← ih]
    cases b.testBit m with
    | true => rw [if_pos rfl, Nat.testBit_xor, Nat.testBit_mul_two_pow, Bool.true_and]
    | false => rw [if_neg Bool.false_ne_true, Bool.false_and, Bool.false_and, Bool.xor_false]

theorem countP_range_add {p : Nat → Bool} {m : Nat} (hp : ∀ i, m ≤ i → p i = false) (d : Nat) :
    (List.range (m + d)).countP p = (List.range m).countP p := by
  have hrest : ((List.range d).map (m + ·)).countP p = 0 := by
    refine List.countP_eq_zero.2 fun i hi => ?_
    obtain ⟨j, -, rfl⟩ := List.mem_map.1 hi
    rw [hp _ (Nat.le_add_right m j)]
    exact Bool.false_ne_true
  rw [List.range_add, List.countP_append, hrest, Nat.add_zero]

theorem reverse_range_succ (k : Nat) : (List.range (k + 1)).reverse = (List.range (k + 1)).map (k - ·) := by
  rw [List.range_eq_range', List.reverse_range', ← List.range_eq_range', Nat.zero_add, Nat.add_sub_cancel]

/-- The pairs of places that sum to `k`, from either number's side. -/
theorem countP_pairs (x y : BitVec n) (k : Nat) :
    (List.range n).countP (fun i => y.getLsbD i && decide (i ≤ k) && x.getLsbD (k - i)) =
      (List.range (k + 1)).countP (fun i => x.getLsbD i && y.getLsbD (k - i)) := by
  have hwide := countP_range_add (p := fun i => y.getLsbD i && decide (i ≤ k) && x.getLsbD (k - i)) (m := n)
    (fun i hi => by rw [BitVec.getLsbD_of_ge y i hi, Bool.false_and, Bool.false_and]) (k + 1)
  have hlow := countP_range_add (p := fun i => y.getLsbD i && decide (i ≤ k) && x.getLsbD (k - i)) (m := k + 1)
    (fun i hi => by rw [decide_eq_false (Nat.not_le.2 hi), Bool.and_false, Bool.false_and]) n
  rw [← hwide, Nat.add_comm, hlow, ← List.countP_reverse, reverse_range_succ, List.countP_map]
  refine List.countP_congr fun i hi => ?_
  have hik : i ≤ k := Nat.lt_succ_iff.1 (List.mem_range.1 hi)
  rw [Function.comp_apply, decide_eq_true (Nat.sub_le k i), Nat.sub_sub_self hik, Bool.and_true, Bool.and_comm]

theorem testBit_clmulBits (x y : BitVec n) (k : Nat) : (clmulBits n x.toNat y.toNat).testBit k = clBit n x y k := by
  rw [clBit, ← countP_pairs]
  exact testBit_clPrefix _ _ n k

end

/-- Settles O2: each body writes the count or the pattern, and its bits are those that the rule names. -/
theorem bitCounts : Obligations.BitCounts := by
  intro f s a hg hty ha
  dsimp only
  have hn := tyWidth_le hty
  have small {k : Nat} (h : k ≤ tyWidth f.ty) : k < 2 ^ 63 := (h.trans hn).trans_lt (by decide)
  let x := BitVec.ofNat (tyWidth f.ty) a
  refine ⟨⟨_, (clzBits_spec _).1, does_count hg ha rfl rfl rfl (small (clzBits_spec _).1), (clzBits_spec _).2⟩,
    ⟨_, (ctzBits_spec _).1, does_count hg ha rfl rfl rfl (small (ctzBits_spec _).1), (ctzBits_spec _).2⟩,
    does_count hg ha rfl rfl (popcBits_eq _) (small (popcBits_eq x ▸ popcBits_le _ _)), ⟨x.reverse, ?brev, ?brevBit⟩, fun b hb _ => ?product⟩
  case brev =>
    rw [reg_seven]
    exact does_bitUnary hg ha rfl rfl (brevBits_eq x)
  case brevBit =>
    intro i hi
    rw [BitVec.getLsbD_reverse, BitVec.getMsbD, decide_eq_true hi, Bool.true_and]
  case product =>
    let y := BitVec.ofNat (tyWidth f.ty) b
    refine ⟨⟨BitVec.ofNat _ (clmulBits (tyWidth f.ty) x.toNat y.toNat), ?low, fun i hi => ?lowBit⟩,
      ⟨BitVec.ofNat _ (clmulBits (tyWidth f.ty) x.toNat y.toNat / 2 ^ tyWidth f.ty), ?high, fun i hi => ?highBit⟩⟩
    case low => exact does_bitBinary hg hty ha rfl hb rfl (BitVec.toNat_ofNat _ _).symm
    case high =>
      rw [reg_toNat_ofNat]
      exact does_bitBinary hg hty ha rfl hb rfl rfl
    case lowBit => rw [BitVec.getLsbD_ofNat, decide_eq_true hi, Bool.true_and, testBit_clmulBits]
    case highBit => rw [BitVec.getLsbD_ofNat, decide_eq_true hi, Bool.true_and, Nat.testBit_div_two_pow, testBit_clmulBits, Nat.add_comm]

end Sys2Proof.Machine
end

section
/-! # Moves and bit fields (O3)

A move copies a whole register or a literal as 64 bits, so one lemma says what each of these is. A field is taken out, or put in, bit by
bit. -/

namespace Sys2Proof.Machine

open Sys2Proof.Claims

/-! ### Data, whole registers and literals (R87, R95, R122) -/

section

variable {s : State} {o : Opnd}

theorem State.dataOpnd_untagged {n : BitVec 6} (h : ((s.ctx s.cur).getC n).tag = false) (op field : Nat) :
    s.dataOpnd op field (.c n) = .ok (((s.ctx s.cur).getC n).val.toNat % 2 ^ 64) := if_neg (by rw [h]; exact Bool.false_ne_true)

/-- What reads as data is a number of 64 bits. -/
theorem holds_lt {x : Nat} (h : holds s o x) : x < 2 ^ 64 := by
  have h0 := h 0 0
  cases o with
  | c n =>
    cases htag : ((s.ctx s.cur).getC n).tag with
    | true => cases (State.dataOpnd_tagged htag 0 0).symm.trans h0
    | false =>
      cases (State.dataOpnd_untagged htag 0 0).symm.trans h0
      exact Nat.mod_lt _ (Nat.two_pow_pos 64)
  | g n => cases h0; exact BitVec.isLt _
  | wid => cases h0; exact BitVec.isLt _
  | vcid => cases h0; exact (Nat.mod_lt _ (Nat.two_pow_pos 12)).trans (by decide)
  | slot => cases h0; exact (Nat.mod_lt _ (Nat.two_pow_pos 4)).trans (by decide)
  | _ => cases h0; exact Nat.two_pow_pos 64

/-- A whole register is a c register, or the data that another reads as. -/
theorem wholeOpnd_of_wholeIs {r : CReg} (h : wholeIs s o r) : s.wholeOpnd o = r := by
  obtain ⟨n, rfl, rfl⟩ | ⟨hc, x, hx, rfl⟩ := h
  · rfl
  have hx0 := hx 0 0
  cases o with
  | c n => exact absurd rfl (hc n)
  | g n => cases hx0; exact CReg.word_eq _
  | wid => cases hx0; exact CReg.word_eq _
  | vcid => cases hx0; exact CReg.word_eq _
  | slot => cases hx0; exact CReg.word_eq _
  | _ => cases hx0; rfl

end

/-- A sign is extended in one go or in two. -/
theorem signExtend_signExtend (x : BitVec 32) : (x.signExtend 64).signExtend 128 = x.signExtend 128 := by
  rw [BitVec.signExtend.eq_1 128, BitVec.toInt_signExtend_of_le (by decide), ← BitVec.signExtend.eq_1]

section

variable (f : Fields)

theorem ofNat_litVal (signed : Bool) : BitVec.ofNat 64 (litVal f signed) = if signed then f.imm.signExtend 64 else f.imm.setWidth 64 := by
  cases signed with
  | true =>
    show BitVec.ofNat 64 (wrapN 64 (sx f.imm.toNat 32)) = f.imm.signExtend 64
    rw [ofNat_wrapN, sx_eq_toInt _ (by decide), BitVec.ofNat_toNat, BitVec.setWidth_eq, BitVec.signExtend]
  | false => exact BitVec.ofNat_toNat _ _

theorem word_litVal_signed : CReg.word (litVal f true) = ⟨false, f.imm.signExtend 128⟩ := by
  rw [CReg.word_eq, Claims.word, ofNat_litVal, if_pos rfl, signExtend_signExtend]

end

/-! ### SEL, MOV and MOVH (R122) -/

section

variable {f : Fields} {s : State} {x y : CReg} (hg : acts s f)

/-- Whether SEL picks A: bit 0 of its guard, inverted by MOD[4]. -/
def selPicks (f : Fields) (s : State) : Bool := ((s.ctx s.cur).getG (BitVec.ofNat 4 (f.md.toNat % 16))).getLsbD 0 != f.md.getLsbD 4

theorem selBody_eq : selBody f s = done (s.setD f.d
    (if selPicks f s then s.wholeOpnd f.a else if f.lit then CReg.word (litVal f true) else s.wholeOpnd f.b)) := by
  rw [selBody, Fields.mod_one, Fields.mod, fld_zero]
  rfl

include hg

theorem does_sel_register (hx : wholeIs s f.a x) (hl : f.lit = false) (hy : wholeIs s f.b y) :
    does (.sel f) s (putC f.d (if selPicks f s then x else y)) := by
  refine does_putC_of_body (body := selBody f) rfl hg ?_
  rw [selBody_eq, hl, wholeOpnd_of_wholeIs hx, wholeOpnd_of_wholeIs hy, if_neg Bool.false_ne_true]

theorem does_sel_literal (hx : wholeIs s f.a x) (hl : f.lit = true) :
    does (.sel f) s (putC f.d (if selPicks f s then x else ⟨false, f.imm.signExtend 128⟩)) := by
  refine does_putC_of_body (body := selBody f) rfl hg ?_
  rw [selBody_eq, hl, wholeOpnd_of_wholeIs hx, if_pos rfl, word_litVal_signed]

theorem does_mov_c (hx : wholeIs s f.a x) {n : BitVec 6} (hd : f.d = .c n) : does (.mov f) s (putC f.d x) := by
  refine does_putC_of_body (body := movBody f) rfl hg ?_
  rw [movBody, hd, wholeOpnd_of_wholeIs hx]

theorem does_mov_g {n : BitVec 4} {z : Nat} (hd : f.d = .g n) (ha : holds s f.a z) : does (.mov f) s (putG f.d (BitVec.ofNat 64 z)) := by
  refine does_putG_of_body (body := movBody f) rfl hg ?_
  rw [movBody, hd]
  exact Exec.bind_of_ok (ha 0x025 2)

theorem does_movh {z : Nat} (hd : holds s f.d z) : does (.movh f) s (putC f.d ⟨false, (f.imm ++ BitVec.ofNat 32 z).signExtend 128⟩) := by
  have hword : BitVec.ofNat 64 (f.imm.toNat * 2 ^ 32 + z % 2 ^ 32) = f.imm ++ BitVec.ofNat 32 z := by
    refine BitVec.eq_of_toNat_eq ?_
    have hlt : z % 2 ^ 32 < 2 ^ 32 := Nat.mod_lt _ (Nat.two_pow_pos 32)
    have himm := f.imm.isLt
    rw [BitVec.toNat_append, BitVec.toNat_ofNat, BitVec.toNat_ofNat, Nat.mod_eq_of_lt (by omega), ← Nat.shiftLeft_add_eq_or_of_lt hlt, Nat.shiftLeft_eq]
  refine does_putC_of_body (body := movhBody f) rfl hg ?_
  rw [← hword]
  exact (Exec.bind_of_ok (hd 0x026 1)).trans (congrArg (fun r => done (s.setD f.d r)) (CReg.word_eq _))

theorem does_movImm_c {n : BitVec 6} (hd : f.d = .c n) : does (.movImm f) s (putC f.d
    ⟨false, (if f.ty < 4 then f.imm.signExtend 64 else f.imm.setWidth 64).signExtend 128⟩) := by
  refine does_putC_of_body (body := movImmBody f) rfl hg ?_
  have h := ofNat_litVal f (tySigned f.ty)
  simp only [tySigned, decide_eq_true_eq] at h
  rw [movImmBody, hd, ← h, CReg.word_eq]
  rfl

theorem does_movImm_g {n : BitVec 4} (hd : f.d = .g n) : does (.movImm f) s (putG f.d
    (if f.ty < 4 then f.imm.signExtend 64 else f.imm.setWidth 64)) := by
  refine does_putG_of_body (body := movImmBody f) rfl hg ?_
  have h := ofNat_litVal f (tySigned f.ty)
  simp only [tySigned, decide_eq_true_eq] at h
  rw [movImmBody, hd, ← h]
  rfl

end

/-! ### Fields of bits (R123) -/

theorem fieldPos_eq (b : Nat) : fieldPos b = b % 64 := fld_zero b 6
theorem fieldWidth_eq (b : Nat) : fieldWidth b = min (b / 64 % 128) 64 := rfl

/-- The field of `width` bits of `a` at `pos`, with its sign where it is read with one. -/
def fieldBits (a pos width : Nat) (signed : Bool) : BitVec 64 :=
  if signed && width != 0 then (BitVec.ofNat width (a / 2 ^ pos)).signExtend 64 else BitVec.ofNat 64 (a / 2 ^ pos % 2 ^ width)

theorem ofNat_getLsbD_of_lt {a n : Nat} (h : a < 2 ^ n) (i : Nat) : (BitVec.ofNat n a).getLsbD i = a.testBit i := by
  rw [BitVec.getLsbD_ofNat, ← Nat.testBit_mod_two_pow, Nat.mod_eq_of_lt h]

theorem getLsbD_fieldBits {a pos width i : Nat} {signed : Bool} (ha : a < 2 ^ 64) (hi : i < 64) : (fieldBits a pos width signed).getLsbD i =
    if i < width then (BitVec.ofNat 64 a).getLsbD (pos + i) else signed && width != 0 && (BitVec.ofNat 64 a).getLsbD (pos + width - 1) := by
  have hbit (w j : Nat) : (BitVec.ofNat w (a / 2 ^ pos)).getLsbD j = (decide (j < w) && a.testBit (pos + j)) := by
    rw [BitVec.getLsbD_ofNat, Nat.testBit_div_two_pow, Nat.add_comm]
  rw [ofNat_getLsbD_of_lt ha, ofNat_getLsbD_of_lt ha, fieldBits]
  cases hs : signed && width != 0 with
  | true =>
    have hw : 0 < width := Nat.pos_of_ne_zero (bne_iff_ne.1 ((Bool.and_eq_true _ _).mp hs).2)
    rw [if_pos rfl, BitVec.getLsbD_signExtend, decide_eq_true hi, Bool.true_and, BitVec.msb_eq_getLsbD_last, hbit, hbit,
      decide_eq_true (Nat.sub_lt hw Nat.one_pos), Bool.true_and, Bool.true_and, Nat.add_sub_assoc hw]
    split
    next h => rw [decide_eq_true h, Bool.true_and]
    · rfl
  | false =>
    rw [if_neg Bool.false_ne_true, BitVec.getLsbD_ofNat, decide_eq_true hi, Bool.true_and, Nat.testBit_mod_two_pow,
      Nat.testBit_div_two_pow, Nat.add_comm, Bool.false_and]
    split
    next h => rw [decide_eq_true h, Bool.true_and]
    next h => rw [decide_eq_false h, Bool.false_and]

section

variable {f : Fields} {s : State} {a b : Nat} (hg : acts s f) (ha : holds s f.a a) (hb : holdsB s f false b)

include hg ha hb

theorem does_bfx : does (.bfx f) s (putC f.d ⟨false, (fieldBits a (b % 64) (min (b / 64 % 128) 64) (f.ty == 3)).signExtend 128⟩) := by
  refine does_putC_of_body (body := bfxBody f) rfl hg ?_
  have hfield (pos width : Nat) : CReg.word (if f.ty == 3 && width != 0 then wrapN 64 (sx (a / 2 ^ pos % 2 ^ width) width) else a / 2 ^ pos % 2 ^ width) =
      ⟨false, (fieldBits a pos width (f.ty == 3)).signExtend 128⟩ := by
    rw [CReg.word_eq, Claims.word, fieldBits, apply_ite (BitVec.ofNat 64)]
    cases hs : f.ty == 3 && width != 0 with
    | true =>
      have hw : 0 < width := Nat.pos_of_ne_zero (bne_iff_ne.1 ((Bool.and_eq_true _ _).mp hs).2)
      rw [if_pos rfl, if_pos rfl, ofNat_wrapN, sx_eq_toInt _ hw, ofNat_mod_two_pow, ← BitVec.signExtend]
    | false => rfl
  rw [← fieldPos_eq, ← fieldWidth_eq, ← hfield]
  exact (Exec.bind_of_ok (ha 0x027 2)).trans (Exec.bind_of_ok (hb 0x027))

theorem does_bfi {d : Nat} (hd : holds s f.d d) :
    does (.bfi f) s (putC f.d ⟨false, (BitVec.ofNat 64 (setFld d (b % 64) (min (b / 64 % 128) 64) a)).signExtend 128⟩) := by
  refine does_putC_of_body (body := bfiBody f) rfl hg ?_
  rw [← fieldPos_eq, ← fieldWidth_eq, ← Claims.word, ← CReg.word_mod]
  exact (Exec.bind_of_ok (hd 0x028 1)).trans ((Exec.bind_of_ok (ha 0x028 2)).trans (Exec.bind_of_ok (hb 0x028)))

end

/-- Settles O3: the moves by what they copy, the fields by their bits. -/
theorem movesAndFields : Obligations.MovesAndFields := by
  unfold Obligations.MovesAndFields
  have signed_iff {ty : Nat} (h : ty = 3 ∨ ty = 7) : ty < 4 ↔ ty = 3 := by omega
  dsimp only
  refine ⟨fun f s x y hg hx => ⟨does_sel_register hg hx, does_sel_literal hg hx, fun n => does_mov_c hg hx, fun n z => does_mov_g hg,
      fun z => does_movh hg⟩,
    fun f s hg hty => ⟨fun n hd => ?immC, fun n hd => ?immG⟩, fun f s a b hg ha hb => ⟨⟨_, does_bfx hg ha hb, fun i hi => getLsbD_fieldBits (holds_lt ha) hi⟩,
      fun d hd => ⟨_, does_bfi hg ha hb hd, fun i hi => ?bfi⟩⟩⟩
  case immC =>
    rw [← if_congr (signed_iff hty) rfl rfl]
    exact does_movImm_c hg hd
  case immG =>
    rw [← if_congr (signed_iff hty) rfl rfl]
    exact does_movImm_g hg hd
  case bfi =>
    rw [ofNat_getLsbD_of_lt (holds_lt ha), ofNat_getLsbD_of_lt (holds_lt hd), BitVec.getLsbD_ofNat, decide_eq_true hi, Bool.true_and, testBit_setFld]

end Sys2Proof.Machine
end

section
/-! # Comparisons and masks of guards (O4)

CMP and GOP write a guard with a function of their operands. What their words may hold is what the checks of MOD and of the specifiers leave
(R93). -/

namespace Sys2Proof.Machine

open Sys2Proof.Claims

/-! ### CMP and GOP (R121) -/

/-- The comparison that COND names. -/
def compares (cond : Nat) (x y : Int) : Prop :=
  match cond with
  | 0 => x = y
  | 1 => x ≠ y
  | 2 => x < y
  | 3 => x ≤ y
  | 4 => x > y
  | _ => x ≥ y

theorem intCompare_iff (cond : Nat) (x y : Int) : intCompare cond x y = true ↔ compares cond x y := by
  match cond with
  | 0 | 1 | 2 | 3 | 4 | _ + 5 => simp only [intCompare, compares, decide_eq_true_eq, gt_iff_lt, ge_iff_le]

section

variable {f : Fields} {s : State} {a b : Nat} (hg : acts s f) (ha : holds s f.a a)

include hg ha

theorem does_cmp (hty : f.ty < 8) (hb : holdsB s f (f.ty < 4) b) :
    does (.cmp f) s (putG f.d (guardOf (intCompare (f.md.toNat % 8) (val f.ty a) (val f.ty b)))) := by
  refine does_putG_of_body (body := cmpBody f) rfl hg ?_
  rw [← Fields.mod_zero_three, ← tyVal_eq_val hty, ← tyVal_eq_val hty, cmpBody]
  exact (Exec.bind_of_ok (ha 0x029 2)).trans (Exec.bind_of_ok (hb 0x029))

theorem does_gop (hb : holdsB s f true b) :
    does (.gop f) s (putG f.d (guardOp (f.md.toNat % 8) (BitVec.ofNat 64 a) (BitVec.ofNat 64 b))) := by
  refine does_putG_of_body (body := gopBody f) rfl hg ?_
  rw [← Fields.mod_zero_three, gopBody]
  exact (Exec.bind_of_ok (ha 0x02A 2)).trans (Exec.bind_of_ok (hb 0x02A))

end

/-! ### The words of CMP and GOP (R93) -/

section

variable {F : Form} {f : Fields} {e : DecodeEnv}

/-- The bits of MOD below LIT that a row does not name are 0. -/
theorem Form.mod_masked (h : F.checkMod f = none) : f.md.toNat % 2 ^ 11 &&& F.mmask = f.md.toNat % 2 ^ 11 := by
  rw [Form.checkMod, ite_some_eq_none, fld_zero, not_not] at h
  exact h.1

theorem Form.check_b_of_checkSpecs (h : F.checkSpecs e f = none) (hl : f.lit = false) : f.b.check e F.b 3 false = none := by
  rw [Form.checkSpecs, hl, Bool.false_and, if_neg Bool.false_ne_true] at h
  simp only [Option.or_eq_none_iff] at h
  exact h.2.2.2

theorem Instr.checks_of_checkIn {i : Instr} {body : Bool} (h : i.checkIn e body = none) (hform : i.form? e = some (F, f)) :
    F.checkMod f = none ∧ F.checkSpecs e f = none := by
  unfold Instr.checkIn at h
  rw [hform] at h
  simp only [Option.or_eq_none_iff] at h
  exact ⟨h.2.1, h.2.2.2.1⟩

/-- A field that a row leaves out names c0. -/
theorem Opnd.eq_c_zero_of_check {kinds : List Kind} {k : Nat} {ro : Bool} {o : Opnd} (hk : kinds = []) (h : o.check e kinds k ro = none) : o = .c 0 := by
  subst hk
  have h0 : o.checkZero e k 10 ro = none := h
  unfold Opnd.checkZero at h0
  split at h0
  · cases h0
  · rw [ite_some_eq_none] at h0
    obtain ⟨-, h0⟩ := h0
    split at h0
    next n _ =>
      rw [ite_some_eq_none] at h0
      obtain ⟨-, h0⟩ := h0
      split at h0
      next hn => rw [hn]
      · cases h0
    · split at h0 <;> cases h0
    · cases h0

theorem cmp_cond_lt {w : BitVec 96} (h : decodeWord e w = .ok (.cmp f)) : f.md.toNat % 8 < 6 := by
  have hmod := (Instr.checks_of_checkIn (decodeIn_eq_ok.1 h).2 rfl).1
  have hown : bad (decide (5 < f.mod 0 3)) 6 = none := (Form.checkMod_eq_none hmod).1
  rw [bad_eq_none, decide_eq_false_iff_not, Fields.mod_zero_three] at hown
  omega

theorem gop_fields {w : BitVec 96} (h : decodeWord e w = .ok (.gop f)) : f.md.toNat % 8 < 5 ∧ f.md.toNat / 8 % 2 ^ 8 = 0 ∧
    (f.md.toNat % 8 = 4 → f.lit = false ∧ f.b = .c 0) := by
  have hcheck := (decodeIn_eq_ok.1 h).2
  obtain ⟨hmod, hspecs⟩ := Instr.checks_of_checkIn hcheck rfl
  obtain ⟨hown, hlit, -⟩ := Form.checkMod_eq_none hmod
  have hown : bad (decide (4 < f.mod 0 3)) 6 = none := hown
  rw [bad_eq_none, decide_eq_false_iff_not, Fields.mod_zero_three] at hown
  have hmask : f.md.toNat % 2 ^ 11 &&& 2 ^ 3 - 1 = f.md.toNat % 2 ^ 11 := Form.mod_masked hmod
  rw [Nat.and_two_pow_sub_one_eq_mod] at hmask
  refine ⟨by omega, by omega, fun hnot => ?_⟩
  have hnot : (f.mod 0 3 == 4) = true := by rw [Fields.mod_zero_three, hnot]; rfl
  have hl : f.lit = false := hlit (if_pos hnot)
  exact ⟨hl, Opnd.eq_c_zero_of_check (if_pos hnot) (Form.check_b_of_checkSpecs hspecs hl)⟩

end

/-- Settles O4: the guard that each writes, and what the checks leave of their words. -/
theorem guardLogic : Obligations.GuardLogic := by
  intro f s a b hg ha
  dsimp only
  refine ⟨fun hty _ hb => ⟨fun hr => ?holds, fun hr => ?fails⟩, fun hc hb => ?gop, fun e w => cmp_cond_lt, fun e w => gop_fields,
    ⟨_, rfl, rfl, rfl, rfl, rfl, rfl, rfl⟩⟩
  case holds =>
    have h := does_cmp hg ha hty hb
    rwa [(intCompare_iff _ _ _).2 hr] at h
  case fails =>
    have h := does_cmp hg ha hty hb
    rwa [Bool.eq_false_iff.2 (mt (intCompare_iff _ _ _).1 hr)] at h
  case gop => exact does_gop hg ha hb

end Sys2Proof.Machine
end

section
/-! # The checks of the capability instructions, and seals (O8, O9)

The operands are checked first, in one order for the whole group: the tag, and the seal where the instruction takes no sealed capability. What
follows are the checks of each body. -/

namespace Sys2Proof.Machine

open Sys2Proof.Claims

section

variable {i : Instr} {op : Nat} {f : Fields} {s : State} {n : BitVec 6} {signed open_ : Bool}

/-! ### The checks of the operands (R124) -/

theorem capOperands_untagged (ha : f.a = .c n) (htag : ((s.ctx s.cur).getC n).tag = false) :
    capOperands op f signed open_ s = .error (.trap TAG (2 * 2 ^ 53 + n.toNat * 2 ^ 46 + op)) := by
  rw [capOperands, State.capOpnd_c ha, ha]
  exact need_bind_trap htag

theorem capOperands_sealed (ha : f.a = .c n) (htag : ((s.ctx s.cur).getC n).tag = true) (hS : ((s.ctx s.cur).getC n).cap.perm.testBit 6 = true) :
    capOperands op f signed true s = .error (.trap PERM ((s.ctx s.cur).getC n).cap.cursor) := by
  rw [capOperands, State.capOpnd_c ha]
  exact (need_bind_pass htag).trans (need_bind_trap (by rw [Cap.has_eq_testBit, permS, hS]; rfl))

/-- Where a sealed capability is taken, the tag alone is checked. -/
theorem capOperands_any {b : Nat} (ha : f.a = .c n) (htag : ((s.ctx s.cur).getC n).tag = true) (hb : holdsB s f signed b) :
    capOperands op f signed false s = .ok (((s.ctx s.cur).getC n).cap, b) := by
  rw [capOperands, State.capOpnd_c ha]
  exact (need_bind_pass htag).trans ((need_bind_pass rfl).trans (Exec.bind_of_ok (hb op)))

variable (hg : acts s f) (ht : s.entersTraps)

include hg ht

/-- What the operands raise is what the instruction raises. -/
theorem traps_of_capOperands {k : Cap × Nat → Exec Out} {cause tval : Nat}
    (hi : exec i s = runScalar f (fun s => capOperands op f signed open_ s >>= k) s) (h : capOperands op f signed open_ s = .error (.trap cause tval)) :
    traps i s cause tval :=
  traps_of_body hi hg (by rw [h]; rfl) ht

end

/-! ### CBND and CSOFF (R124) -/

section

variable {f : Fields} {s : State} {n : BitVec 6} {b : Nat} (ha : f.a = .c n) (hb : holdsB s f false b) (htag : ((s.ctx s.cur).getC n).tag = true)
  (hS : ((s.ctx s.cur).getC n).cap.perm.testBit 6 = false)

include ha hb htag hS

theorem cbndBody_beyond (h : ((s.ctx s.cur).getC n).cap.len < ((s.ctx s.cur).getC n).cap.off + b) :
    cbndBody f s = .error (.trap BOUNDS ((s.ctx s.cur).getC n).cap.cursor) := by
  rw [cbndBody, capOperands_unsealed ha htag hS hb]
  exact need_bind_trap (decide_eq_false (Nat.not_le.2 h))

theorem csoffBody_beyond (h : 2 ^ 40 ≤ b) : csoffBody f s = .error (.trap BOUNDS ((s.ctx s.cur).getC n).cap.cursor) := by
  rw [csoffBody, capOperands_unsealed ha htag hS hb]
  exact need_bind_trap (decide_eq_false (Nat.not_lt.2 h))

end

/-- Settles O9: the checks on the operands trap for the whole group, those on the bounds for CBND and CSOFF. -/
theorem capabilityChecksTrap : Obligations.CapabilityChecksTrap := by
  intro f s n b hg ht ha hb
  dsimp only
  refine ⟨fun htag => ?untagged, fun htag hS => ?sealed, fun htag hS hlen => traps_of_body (body := cbndBody f) rfl hg (cbndBody_beyond ha hb htag hS hlen) ht,
    fun htag hS hoff => traps_of_body (body := csoffBody f) rfl hg (csoffBody_beyond ha hb htag hS hoff) ht⟩
  case untagged =>
    simp only [List.forall_mem_cons, List.not_mem_nil, false_imp_iff, implies_true, and_true]
    and_intros
    all_goals exact traps_of_capOperands hg ht rfl (capOperands_untagged ha htag)
  case sealed =>
    simp only [List.forall_mem_cons, List.not_mem_nil, false_imp_iff, implies_true, and_true]
    and_intros
    all_goals exact traps_of_capOperands hg ht rfl (capOperands_sealed ha htag hS)

/-! ### CSEAL and CUNSEAL (R126) -/

section

variable {f : Fields} {s : State} {n : BitVec 6} {t : Nat} (ha : f.a = .c n) (hb : holdsB s f false t) (htag : ((s.ctx s.cur).getC n).tag = true)
  (hlo : 1 ≤ t) (hhi : t ≤ 15)

include ha hb htag hlo hhi

theorem csealBody_eq (hS : ((s.ctx s.cur).getC n).cap.perm.testBit 6 = false) : csealBody f s = (do
    need ((s.slotOf s.cur).sealmask.getLsbD t) PERM ((s.ctx s.cur).getC n).cap.cursor
    done (s.setD f.d ({ ((s.ctx s.cur).getC n).cap with perm := ((s.ctx s.cur).getC n).cap.perm ||| 2 ^ permS, otype := t } : Cap).reg)) := by
  rw [csealBody, capOperands_unsealed ha htag hS hb, ← bitAt_toNat]
  exact need_bind_pass (by rw [decide_eq_true hlo, decide_eq_true hhi]; rfl)

theorem cunsealBody_eq (hS : ((s.ctx s.cur).getC n).cap.perm.testBit 6 = true) : cunsealBody f s = (do
    need ((s.slotOf s.cur).sealmask.getLsbD (16 + t) && ((s.ctx s.cur).getC n).cap.otype == t) PERM ((s.ctx s.cur).getC n).cap.cursor
    done (s.setD f.d ({ ((s.ctx s.cur).getC n).cap with perm := setFld ((s.ctx s.cur).getC n).cap.perm permS 1 0, otype := 0 } : Cap).reg)) := by
  rw [cunsealBody, capOperands_any ha htag hb, ← bitAt_toNat]
  exact (need_bind_pass (by rw [Cap.has_eq_testBit, permS, hS])).trans (need_bind_pass (by rw [decide_eq_true hlo, decide_eq_true hhi]; rfl))

end

theorem testBit_sealed (p i : Nat) : (p ||| 2 ^ permS).testBit i = (p.testBit i || i == 6) := by
  rw [Nat.testBit_or, Nat.testBit_two_pow, permS]
  exact congrArg _ (decide_eq_decide.2 eq_comm)

theorem testBit_unsealed (p i : Nat) : (setFld p permS 1 0).testBit i = (p.testBit i && i != 6) := by
  rw [testBit_setFld, permS]
  by_cases hi : i = 6
  · rw [if_pos (by omega), Nat.zero_testBit, hi, bne_self_eq_false, Bool.and_false]
  · rw [if_neg (by omega), bne_iff_ne.2 hi, Bool.and_true]

/-- Settles O8: with the grant each body writes D, and without it the last check traps. -/
theorem sealAndUnseal : Obligations.SealAndUnseal := by
  intro f s n t hg ha htag hb hlo hhi
  dsimp only
  refine ⟨fun hS hgrant => ⟨_, does_putC_of_body (body := csealBody f) rfl hg ?granted, fun i _ => testBit_sealed _ i⟩,
    fun hS hgrant ht => traps_of_body (body := csealBody f) rfl hg ?notGranted ht,
    fun hS hgrant htype => ⟨_, does_putC_of_body (body := cunsealBody f) rfl hg ?taken, fun i _ => testBit_unsealed _ i⟩,
    fun hS hgrant ht => traps_of_body (body := cunsealBody f) rfl hg ?notTaken ht⟩
  case granted => exact (csealBody_eq ha hb htag hlo hhi hS).trans (need_bind_pass hgrant)
  case notGranted => exact (csealBody_eq ha hb htag hlo hhi hS).trans (need_bind_trap hgrant)
  case taken => exact (cunsealBody_eq ha hb htag hlo hhi hS).trans (need_bind_pass (by rw [hgrant, htype, beq_self_eq_true]; rfl))
  case notTaken =>
    refine (cunsealBody_eq ha hb htag hlo hhi hS).trans (need_bind_trap ?_)
    rw [Bool.and_eq_false_iff, beq_eq_false_iff_ne]
    exact hgrant

end Sys2Proof.Machine
end

section
/-! # Floating-point instructions: results, comparisons, conversions and classes (O11, O12)

A floating-point body reads patterns, writes D and adds flags to STATUS; the pattern and the flags are those of the operation. -/

namespace Sys2Proof.Machine

open Sys2Proof.Claims

/-! ### The sticky flags (R39) -/

theorem testBit_mod_thirty_two (x i : Nat) : (x % 32).testBit i = (decide (i < 5) && x.testBit i) := Nat.testBit_mod_two_pow x 5 i

theorem testBit_fld (x lo w i : Nat) : (fld x lo w).testBit i = (decide (i < w) && x.testBit (lo + i)) := by
  rw [fld, Nat.testBit_mod_two_pow, Nat.testBit_div_two_pow, Nat.add_comm]

/-- The model writes back FFLAGS with the flags added; no other bit of STATUS changes, and none is cleared. -/
theorem Ctx.orFlags_eq_addFlags (c : Ctx) (fl : Nat) : c.orFlags fl = addFlags fl c := by
  have hstatus : setField64 c.status 21 5 (fld c.status.toNat 21 5 ||| fl) = c.status ||| BitVec.ofNat 64 (fl % 32 * 2 ^ 21) := by
    refine BitVec.eq_of_getLsbD_eq fun i hi => ?_
    rw [setField64, BitVec.getLsbD_or, BitVec.getLsbD_ofNat, BitVec.getLsbD_ofNat, decide_eq_true hi, Bool.true_and, Bool.true_and, testBit_setFld,
      Nat.testBit_or, testBit_fld, Nat.testBit_mul_two_pow, testBit_mod_thirty_two, ← BitVec.testBit_toNat]
    by_cases hlo : 21 ≤ i
    · by_cases hw : i - 21 < 5
      · rw [if_pos (by omega), decide_eq_true hw, decide_eq_true hlo, Nat.add_sub_cancel' hlo]
        rfl
      · rw [if_neg (by omega), decide_eq_false hw, Bool.false_and, Bool.and_false, Bool.or_false]
    · rw [if_neg (by omega), decide_eq_false hlo, Bool.false_and, Bool.or_false]
  rw [addFlags, ← hstatus]
  rfl

theorem State.modCtx_modCtx (s : State) (k : Nat) (u v : Ctx → Ctx) : (s.modCtx k u).modCtx k v = s.modCtx k (fun c => v (u c)) := by
  rw [State.modCtx_eq, State.ctx_modCtx_self, State.modCtx_eq, State.setCtx_setCtx, State.modCtx_eq]

section

variable {i : Instr} {f : Fields} {body : State → Exec Out} {s : State} (hi : exec i s = runScalar f body s) (hg : acts s f) {o : Opnd} {fl : Nat}

include hi hg

theorem does_putC_flags_of_body {r : CReg} (hb : body s = done ((s.setD o r).modCtx s.cur (fun c => c.orFlags fl))) :
    does i s (fun c => addFlags fl (putC o r c)) := by
  simp only [Ctx.orFlags_eq_addFlags] at hb
  cases o with
  | c n => exact does_of_body hi hg (hb.trans (congrArg done (s.modCtx_modCtx _ _ _)))
  | _ => exact does_of_body hi hg hb

theorem does_putG_flags_of_body {x : Word64} (hb : body s = done ((s.setGuardD o x).modCtx s.cur (fun c => c.orFlags fl))) :
    does i s (fun c => addFlags fl (putG o x c)) := by
  simp only [Ctx.orFlags_eq_addFlags] at hb
  cases o with
  | g n => exact does_of_body hi hg (hb.trans (congrArg done (s.modCtx_modCtx _ _ _)))
  | _ => exact does_of_body hi hg hb

end

/-! ### Patterns as operands (R87, R127) -/

section

variable {i : Instr} {op : Nat} {f : Fields} {s : State} {a b : Nat}

theorem fpOpnd_of_holds {o : Opnd} {x : Nat} (h : holds s o x) (field ty : Nat) : s.fpOpnd op field ty o = .ok (x % 2 ^ tyWidth ty) :=
  Exec.bind_of_ok (h op field)

theorem fpOpnd_of_fpA (h : fpA s f a) : s.fpOpnd op 2 f.ty f.a = .ok a := by
  obtain ⟨y, hy, rfl⟩ := h
  exact fpOpnd_of_holds hy 2 f.ty

theorem fpB_of_fpB (h : Claims.fpB s f b) : s.fpB op f = .ok b := by
  rw [State.fpB]
  obtain ⟨hl, rfl⟩ | ⟨hl, y, hy, rfl⟩ := h
  · exact if_pos hl
  · rw [hl]
    exact fpOpnd_of_holds hy 3 f.ty

theorem rmOf_eq (f : Fields) : rmOf f = f.md.toNat % 4 := fld_zero f.md.toNat 2

/-! ### Arithmetic (R127) -/

variable (hg : acts s f) (ha : fpA s f a)

include hg

theorem does_fpDone {body : State → Exec Out} {r : Flagged} (hi : exec i s = runScalar f body s) (hb : body s = s.fpDone f r) :
    does i s (fun c => addFlags r.2 (putC f.d (Claims.word r.1) c)) := by
  rw [State.fpDone, CReg.word_eq] at hb
  exact does_putC_flags_of_body hi hg hb

include ha

theorem does_fpBinary {g : Nat → Nat → Nat → Flagged} {r : Flagged} (hi : exec i s = runScalar f (fpBinary op f g) s) (hb : Claims.fpB s f b)
    (hr : g (frac f.ty) a b = r) : does i s (fun c => addFlags r.2 (putC f.d (Claims.word r.1) c)) := by
  refine does_fpDone hg hi ?_
  rw [← hr]
  exact (Exec.bind_of_ok (fpOpnd_of_fpA ha)).trans (Exec.bind_of_ok (fpB_of_fpB hb))

end

/-- Settles O11: the body of each is one operation on the patterns. -/
theorem floatArithmetic : Obligations.FloatArithmetic := by
  intro f s a b hg _ ha hb
  dsimp only
  refine ⟨does_fpBinary hg ha rfl hb ?add, does_fpBinary hg ha rfl hb rfl, does_fpBinary hg ha rfl hb ?mul, does_fpBinary hg ha rfl hb rfl,
    does_fpDone hg (body := fsqrtBody f) rfl ?sqrt, does_fpBinary hg ha rfl hb rfl, does_fpBinary hg ha rfl hb rfl,
    fun d hd => does_fpDone hg (body := ffmaBody f) rfl ?ffma⟩
  case add | mul => rw [rmOf_eq]
  case sqrt => exact Exec.bind_of_ok (fpOpnd_of_fpA ha)
  case ffma =>
    rw [← rmOf_eq]
    exact (Exec.bind_of_ok (fpOpnd_of_holds hd 1 f.ty)).trans ((Exec.bind_of_ok (fpOpnd_of_fpA ha)).trans (Exec.bind_of_ok (fpB_of_fpB hb)))

/-! ### FCMP and FCLASS (R128, R130) -/

/-- The class of a pattern is one of ten. -/
theorem fClass_eq_two_pow (fb x : Nat) : ∃ k < 10, fClass fb x = 2 ^ k := by
  unfold fClass
  dsimp only
  repeat' split
  all_goals exact ⟨_, by decide, rfl⟩

section

variable {f : Fields} {s : State} {a b x : Nat} (hg : acts s f)

include hg

theorem does_fcmp (ha : fpA s f a) (hb : Claims.fpB s f b) : does (.fcmp f) s (fun c => addFlags (fCompare (frac f.ty) (f.md.toNat % 8) a b).2
    (putG f.d (guardOf (fCompare (frac f.ty) (f.md.toNat % 8) a b).1) c)) := by
  refine does_putG_flags_of_body (body := fcmpBody f) rfl hg ?_
  rw [← Fields.mod_zero_three]
  exact (Exec.bind_of_ok (fpOpnd_of_fpA ha)).trans (Exec.bind_of_ok (fpB_of_fpB hb))

theorem does_fclass (ha : fpA s f a) : does (.fclass f) s (putC f.d (Claims.word (fClass (frac f.ty) a))) := by
  refine does_putC_of_body (body := fclassBody f) rfl hg ?_
  rw [← CReg.word_eq]
  exact Exec.bind_of_ok (fpOpnd_of_fpA ha)

/-! ### FCVT (R129) -/

theorem does_fcvt {src : Nat} {r : CReg × Nat} (hsrc : src = f.md.toNat / 8 % 16) (hx : holds s f.a x)
    (hr : convert f.ty src (f.md.toNat % 4) (x % 2 ^ tyWidth src) = r) : does (.fcvt f) s (fun c => addFlags r.2 (putC f.d r.1 c)) := by
  refine does_putC_flags_of_body (body := fcvtBody f) rfl hg ?_
  subst hsrc
  rw [← hr, ← rmOf_eq]
  exact Exec.bind_of_ok (fpOpnd_of_holds hx 2 _)

end

section

variable {dst src : Nat} (rm x : Nat)

theorem tyFloat_of_lt {ty : Nat} (h : ty < 8) : tyFloat ty = false := by
  revert ty
  decide

theorem tyFloat_of_float {ty : Nat} (h : ty = 8 ∨ ty = 9) : tyFloat ty = true := by
  obtain rfl | rfl := h
  all_goals rfl

theorem snanFlag_one (fb x : Nat) : snanFlag fb [x] = if isSignalling fb x then 16 else 0 := by
  rw [snanFlag, List.any_cons, List.any_nil, Bool.or_false, flagInvalid]

theorem convert_to_int (h : dst < 8) : convert dst src rm x =
    (reg dst (cvtInt (tyWidth dst) (dst < 4) rm (fval (frac src) x)).1,
      (cvtInt (tyWidth dst) (dst < 4) rm (fval (frac src) x)).2 ||| if isSignalling (frac src) x then 16 else 0) := by
  rw [convert, tyFloat_of_lt h, if_neg Bool.false_ne_true, ← CReg.ofTy_eq_reg h, ← snanFlag_one]
  rfl

theorem convert_from_int (h : dst = 8 ∨ dst = 9) (hs : src < 8) : convert dst src rm (x % 2 ^ tyWidth src) =
    (Claims.word (cvtFromInt (frac dst) rm (val src x)).1, (cvtFromInt (frac dst) rm (val src x)).2) := by
  rw [convert, tyFloat_of_float h, if_pos rfl, tyFloat_of_lt hs, if_neg Bool.false_ne_true, tyVal_eq_val hs, val_mod_two_pow, ← CReg.word_eq]
  rfl

theorem convert_float (h : dst = 8 ∨ dst = 9) (hs : src = 8 ∨ src = 9) : convert dst src rm x =
    (Claims.word (cvtFloat (frac dst) (frac src) rm x).1, (cvtFloat (frac dst) (frac src) rm x).2) := by
  rw [convert, tyFloat_of_float h, if_pos rfl, tyFloat_of_float hs, if_pos rfl, ← CReg.word_eq]
  rfl

end

/-- Settles O12: FCMP and FCLASS by their operation, FCVT by the kind of its two types. -/
theorem floatCompareConvertClass : Obligations.FloatCompareConvertClass := by
  unfold Obligations.FloatCompareConvertClass
  dsimp only
  refine ⟨fun f s a b hg _ ha hb => does_fcmp hg ha hb, fun f s a hg _ ha => ?fclass,
    fun f s x src hg hty _ hsrc hx => does_fcvt hg hsrc hx (convert_to_int _ _ hty),
    fun f s x src hg hty hs hsrc hx => does_fcvt hg hsrc hx (convert_from_int _ _ hty hs),
    fun f s x src hg hty hs hsrc hx => does_fcvt hg hsrc hx (convert_float _ _ hty hs)⟩
  obtain ⟨k, hk, hclass⟩ := fClass_eq_two_pow (frac f.ty) a
  exact ⟨k, hk, hclass, hclass ▸ does_fclass hg ha⟩

end Sys2Proof.Machine
end

section
/-! # Jumps, calls and returns (O15)

A transfer answers its target, or the trap of a target that is refused; the context then goes on there. A target is relative to the program
counter, or read from a register, in which case it may bring a code region of its own. -/

namespace Sys2Proof.Machine

open Sys2Proof.Claims

/-! ### Targets relative to the program counter (R131, R132) -/

theorem Ctx.inRegion_iff (c : Ctx) (t : Nat) : c.inRegion t = true ↔ inside c t := by
  rw [Ctx.inRegion, Bool.and_eq_true, decide_eq_true_eq, decide_eq_true_eq]
  rfl

/-- PC + 12 × IMM. -/
def relPc (f : Fields) (c : Ctx) : BitVec 56 := c.pc + (12 : BitVec 56) * f.imm.signExtend 56

theorem addr56_eq_relPc (f : Fields) (c : Ctx) : addr56 ((c.pc.toNat : Int) + 12 * offsetOf f) = (relPc f c).toNat := by
  rw [addr56, wrapN_eq_toNat, offsetOf_eq, offs, BitVec.ofInt_add, BitVec.ofInt_mul, BitVec.ofInt_natCast, BitVec.ofNat_toNat, BitVec.setWidth_eq]
  rfl

section

variable {f : Fields} {s : State}

theorem relTarget_inside (h : inside (s.ctx s.cur) (relPc f (s.ctx s.cur)).toNat) : relTarget f s = .ok (relPc f (s.ctx s.cur)).toNat := by
  rw [relTarget, addr56_eq_relPc]
  exact need_bind_pass ((Ctx.inRegion_iff _ _).2 h)

theorem relTarget_outside (h : ¬inside (s.ctx s.cur) (relPc f (s.ctx s.cur)).toNat) :
    relTarget f s = .error (.trap BOUNDS (relPc f (s.ctx s.cur)).toNat) := by
  rw [relTarget, addr56_eq_relPc]
  exact need_bind_trap (Bool.eq_false_iff.2 (mt (Ctx.inRegion_iff _ _).1 h))

end

/-! ### Targets in registers (R132) -/

section

variable {op : Nat} {f : Fields} {s : State} {n : BitVec 6} (ha : f.a = .c n)

include ha

theorem regTarget_address (htag : ((s.ctx s.cur).getC n).tag = false) (h : inside (s.ctx s.cur) (((s.ctx s.cur).getC n).val.toNat % 2 ^ 56)) :
    regTarget op f s = .ok (((s.ctx s.cur).getC n).val.toNat % 2 ^ 56, (s.ctx s.cur).regBase, (s.ctx s.cur).regLimit) := by
  rw [regTarget, State.capOpnd_c ha]
  refine (if_neg (by rw [htag]; exact Bool.false_ne_true)).trans ?_
  exact need_bind_pass ((Ctx.inRegion_iff _ _).2 h)

theorem regTarget_capability (htag : ((s.ctx s.cur).getC n).tag = true) (h : canJump ((s.ctx s.cur).getC n).cap) :
    regTarget op f s = .ok ((((s.ctx s.cur).getC n).cap.base + ((s.ctx s.cur).getC n).cap.off) % 2 ^ 56, BitVec.ofNat 56 ((s.ctx s.cur).getC n).cap.base,
      BitVec.ofNat 57 (min (((s.ctx s.cur).getC n).cap.base + ((s.ctx s.cur).getC n).cap.len) (2 ^ 56))) := by
  obtain ⟨hspace, hI, hS, hX, hlen, hal⟩ := h
  obtain ⟨-, hoff, -⟩ := CReg.cap_fits ((s.ctx s.cur).getC n)
  have hsum : ((((s.ctx s.cur).getC n).cap.base : Int) + (((s.ctx s.cur).getC n).cap.off : Int) + 0).toNat =
    ((s.ctx s.cur).getC n).cap.base + ((s.ctx s.cur).getC n).cap.off := by omega
  have hcheck : capCheck s s.cur { op := op, field := 2, opnd := f.a, n := 12, al := 4, ld := false, st := false, ex := true } ((s.ctx s.cur).getC n) 0 =
      .ok (((s.ctx s.cur).getC n).cap, (((s.ctx s.cur).getC n).cap.base + ((s.ctx s.cur).getC n).cap.off) % 2 ^ 56) := by
    refine (capCheck_eq_capRights htag (by omega) hI (by omega) (by omega)).trans ?_
    rw [hsum]
    refine capRights_ok hS ⟨nofun, nofun, nofun, fun _ => hX⟩ (by omega) ?_ hal (by omega) ?_
    · show _ + 12 ≤ _
      omega
    · rw [hspace]
      exact List.mem_cons_self
  rw [regTarget, State.capOpnd_c ha]
  refine (if_pos htag).trans ((Exec.bind_of_ok hcheck).trans (need_bind_pass ?_))
  rw [hspace]
  rfl

end

/-! ### Where the context goes on -/

/-- A write of a c register changes the context in hand alone. -/
theorem State.GoesOn.of_setD {s t : State} {c : Ctx} {o : Opnd} {r : CReg} (h : (s.setD o r).GoesOn t s.cur c) : s.GoesOn t s.cur c := by
  cases o with
  | c n => exact h.of_modCtx
  | _ => exact h

/-- The context after a transfer through a register. -/
def Ctx.transfer (c : Ctx) (t : Nat × BitVec 56 × BitVec 57) : Ctx :=
  { c with pc := BitVec.ofNat 56 t.1, regBase := t.2.1, regLimit := t.2.2, rep := none }

/-- The return address, in D (R132). -/
def linked (f : Fields) (c : Ctx) : Ctx := putC f.d (Claims.word ((c.pc.toNat + 12) % 2 ^ 56)) c

theorem State.cur_linkD (s : State) (f : Fields) : (s.linkD f).cur = s.cur := by
  rw [State.linkD, State.setD_eq]

theorem State.ctx_linkD (s : State) (f : Fields) : (s.linkD f).ctx s.cur = linked f (s.ctx s.cur) := by
  rw [State.linkD, State.ctx_setD, CReg.word_eq, linked]

theorem linked_regBase (f : Fields) (c : Ctx) : (linked f c).regBase = c.regBase := by
  unfold linked
  cases f.d with
  | c n => exact Ctx.setC_regBase _ _ _
  | _ => rfl

theorem linked_regLimit (f : Fields) (c : Ctx) : (linked f c).regLimit = c.regLimit := by
  unfold linked
  cases f.d with
  | c n => exact Ctx.setC_regLimit _ _ _
  | _ => rfl

/-- An address gives the program counter, and the code region stays. -/
theorem Ctx.transfer_address (c : Ctx) (x : BitVec 128) :
    c.transfer (x.toNat % 2 ^ 56, c.regBase, c.regLimit) = { c with pc := x.setWidth 56, rep := none } := by
  have hpc : BitVec.ofNat 56 (x.toNat % 2 ^ 56) = x.setWidth 56 := by rw [ofNat_mod_two_pow, BitVec.ofNat_toNat]
  rw [Ctx.transfer, hpc]

/-- A capability gives its cursor. -/
theorem Ctx.transfer_cursor (c : Ctx) (x : Nat) (base : BitVec 56) (limit : BitVec 57) :
    c.transfer (x % 2 ^ 56, base, limit) = { c with pc := BitVec.ofNat 56 x, regBase := base, regLimit := limit, rep := none } := by
  rw [Ctx.transfer, ofNat_mod_two_pow]

section

variable {i : Instr} {f : Fields} {s : State} {body : State → Exec Out} (hi : exec i s = runScalar f body s) (hg : acts s f)

include hi hg

theorem exec_jumps {a : Nat} (hb : body s = .ok ⟨s, .jump a⟩) :
    ∃ u, exec i s = .next u ∧ s.GoesOn u s.cur { s.ctx s.cur with pc := BitVec.ofNat 56 a, rep := none } :=
  ⟨_, exec_of_body hi hg hb, s.finish_jump s f a⟩

theorem exec_calls {a : Nat} (hb : body s = .ok ⟨s.linkD f, .jump a⟩) :
    ∃ u, exec i s = .next u ∧ s.GoesOn u s.cur { linked f (s.ctx s.cur) with pc := BitVec.ofNat 56 a, rep := none } := by
  have hgo := s.finish_jump (s.linkD f) f a
  rw [State.ctx_linkD] at hgo
  exact ⟨_, exec_of_body hi hg hb, hgo.of_setD⟩

theorem exec_transfers {t : Nat × BitVec 56 × BitVec 57} (hb : body s = takeTarget s t) :
    ∃ u, exec i s = .next u ∧ s.GoesOn u s.cur ((s.ctx s.cur).transfer t) := by
  have hgo := s.finish_jump (s.modCtx s.cur (fun c => { c with regBase := t.2.1, regLimit := t.2.2 })) f t.1
  rw [State.ctx_modCtx_self] at hgo
  exact ⟨_, exec_of_body hi hg hb, hgo.of_modCtx⟩

theorem exec_transfers_linked {t : Nat × BitVec 56 × BitVec 57} (hb : body s = takeTarget (s.linkD f) t) :
    ∃ u, exec i s = .next u ∧ s.GoesOn u s.cur ((linked f (s.ctx s.cur)).transfer t) := by
  have htake : takeTarget (s.linkD f) t =
      .ok ⟨(s.linkD f).modCtx s.cur (fun c => { c with regBase := t.2.1, regLimit := t.2.2 }), .jump t.1⟩ := by rw [takeTarget, s.cur_linkD]
  have hgo := s.finish_jump ((s.linkD f).modCtx s.cur (fun c => { c with regBase := t.2.1, regLimit := t.2.2 })) f t.1
  rw [State.ctx_modCtx_self, State.ctx_linkD] at hgo
  exact ⟨_, exec_of_body hi hg (hb.trans htake), hgo.of_modCtx.of_setD⟩

end

/-- Settles O15: the target of each transfer, and the context that goes on there. -/
theorem jumps : Obligations.Jumps := by
  unfold Obligations.Jumps
  dsimp only
  refine ⟨fun f s hg => ⟨fun hin => ⟨?bra, ?call⟩, fun hout ht => ⟨?braOut, ?callOut⟩⟩, fun f s n hg ha => ⟨fun htag hin => ⟨?address, ?addressLinked⟩,
    fun htag hjump => ⟨?capability, ?capabilityLinked⟩⟩⟩
  case bra =>
    have h := exec_jumps (i := .bra f) (body := braBody f) rfl hg (Exec.bind_of_ok (relTarget_inside hin))
    rwa [BitVec.ofNat_toNat, BitVec.setWidth_eq] at h
  case call =>
    have h := exec_calls (i := .call f) (body := callBody f) rfl hg (Exec.bind_of_ok (relTarget_inside hin))
    rwa [BitVec.ofNat_toNat, BitVec.setWidth_eq] at h
  case braOut => exact traps_of_body (body := braBody f) rfl hg (by rw [braBody, relTarget_outside hout]; rfl) ht
  case callOut => exact traps_of_body (body := callBody f) rfl hg (by rw [callBody, relTarget_outside hout]; rfl) ht
  case address =>
    simp only [List.forall_mem_cons, List.not_mem_nil, false_imp_iff, implies_true, and_true, ← Ctx.transfer_address]
    exact ⟨exec_transfers (body := jmpBody f) rfl hg (Exec.bind_of_ok (regTarget_address ha htag hin)),
      exec_transfers (body := retBody f) rfl hg (Exec.bind_of_ok (regTarget_address ha htag hin))⟩
  case addressLinked =>
    have h := exec_transfers_linked (i := .callInd f) (body := callIndBody f) rfl hg (Exec.bind_of_ok (regTarget_address ha htag hin))
    rwa [← linked_regBase f, ← linked_regLimit f, Ctx.transfer_address] at h
  case capability =>
    simp only [List.forall_mem_cons, List.not_mem_nil, false_imp_iff, implies_true, and_true, ← Ctx.transfer_cursor]
    exact ⟨exec_transfers (body := jmpBody f) rfl hg (Exec.bind_of_ok (regTarget_capability ha htag hjump)),
      exec_transfers (body := retBody f) rfl hg (Exec.bind_of_ok (regTarget_capability ha htag hjump))⟩
  case capabilityLinked =>
    have h := exec_transfers_linked (i := .callInd f) (body := callIndBody f) rfl hg (Exec.bind_of_ok (regTarget_capability ha htag hjump))
    rwa [Ctx.transfer_cursor] at h

end Sys2Proof.Machine
end

section
/-! # Random streams (O18, O19)

The finaliser is made of steps that each can be undone: a number exclusive-or its own shift, and a multiplication by an odd constant. The
counter values of two streams are different numbers below `2^64`, and an odd multiple keeps them apart. -/

namespace Sys2Proof.Machine

open Sys2Proof.Claims

/-! ### The finaliser is a bijection (R138) -/

theorem xor_exchange {a b c d : Bool} (h : (a ^^ b) = (c ^^ d)) : (a ^^ c) = (b ^^ d) := by
  revert a b c d
  decide

/-- A number is known from the exclusive or with its own shift: the difference of two that agree is its own shift, and so 0. -/
theorem xor_ushiftRight_injective {w k : Nat} (hk : 0 < k) : Function.Injective (fun x : BitVec w => x ^^^ (x >>> k)) := by
  intro x y h
  have hshift : x ^^^ y = (x ^^^ y) >>> k := by
    refine BitVec.eq_of_getLsbD_eq fun i _ => ?_
    have hbit := congrArg (BitVec.getLsbD · i) h
    simp only [BitVec.getLsbD_xor, BitVec.getLsbD_ushiftRight] at hbit ⊢
    exact xor_exchange hbit
  have hzero : (x ^^^ y).toNat = 0 := by
    have hdiv := congrArg BitVec.toNat hshift
    rw [BitVec.toNat_ushiftRight, Nat.shiftRight_eq_div_pow] at hdiv
    by_contra hne
    exact absurd hdiv (Nat.div_lt_self (Nat.pos_of_ne_zero hne) (Nat.one_lt_two_pow hk.ne')).ne'
  exact BitVec.xor_eq_zero_iff.1 (BitVec.eq_of_toNat_eq hzero)

theorem mul_injective {w : Nat} {c d : BitVec w} (h : c * d = 1) : Function.Injective (fun x : BitVec w => x * c) :=
  Function.LeftInverse.injective (g := (· * d)) fun x => by
    show x * c * d = x
    rw [BitVec.mul_assoc, h]
    exact mul_one x

theorem mix_injective : Function.Injective mix := by
  have h1 := mul_injective (c := 0xBF58476D1CE4E5B9#64) (d := 0x96DE1B173F119089#64) (by decide)
  have h2 := mul_injective (c := 0x94D049BB133111EB#64) (d := 0x319642B2D24D8EC3#64) (by decide)
  exact (xor_ushiftRight_injective (k := 31) (by decide)).comp (h2.comp ((xor_ushiftRight_injective (k := 27) (by decide)).comp
    (h1.comp (xor_ushiftRight_injective (k := 30) (by decide)))))

theorem mix_bijective : Function.Bijective mix := Finite.injective_iff_bijective.1 mix_injective

theorem toNat_xor_ushiftRight {w : Nat} (x : BitVec w) (k : Nat) : (x ^^^ (x >>> k)).toNat = x.toNat ^^^ (x.toNat / 2 ^ k) := by
  rw [BitVec.toNat_xor, BitVec.toNat_ushiftRight, Nat.shiftRight_eq_div_pow]

/-- The model's mixing of numbers is the finaliser's of words of 64 bits (R137). -/
theorem rngMix_eq (key idx ctr : Nat) :
    rngMix key idx ctr = (mix (BitVec.ofNat 64 (key + (idx * 2 ^ 40 + ctr + 1) * 0x9E3779B97F4A7C15))).toNat := by
  have hc : (0xBF58476D1CE4E5B9#64).toNat = 0xBF58476D1CE4E5B9 := by decide
  have hd : (0x94D049BB133111EB#64).toNat = 0x94D049BB133111EB := by decide
  rw [mix, toNat_xor_ushiftRight, BitVec.toNat_mul, toNat_xor_ushiftRight, BitVec.toNat_mul, toNat_xor_ushiftRight, BitVec.toNat_ofNat, hc, hd, rngMix]

/-- A counter that wraps stands at the start of its segment (R135). -/
theorem streamWord_wrapped (vc n : Nat) : streamWord vc n (2 ^ 40 - 1 + 1) = streamWord vc n 0 := by
  rw [streamWord, Nat.sub_add_cancel (Nat.one_le_two_pow), Nat.mod_self, streamWord, Nat.zero_mod]

/-- An odd multiple keeps numbers of `w` bits apart, from whatever key it counts. -/
theorem ofNat_add_mul_injective {w c m n : Nat} (key : Nat) (hc : Nat.Coprime (2 ^ w) c) (hm : m < 2 ^ w) (hn : n < 2 ^ w)
    (h : BitVec.ofNat w (key + (m + 1) * c) = BitVec.ofNat w (key + (n + 1) * c)) : m = n := by
  have hword := congrArg BitVec.toNat h
  rw [BitVec.toNat_ofNat, BitVec.toNat_ofNat] at hword
  have hmul : (m + 1) * c ≡ (n + 1) * c [MOD 2 ^ w] := Nat.ModEq.add_left_cancel' key hword
  exact Nat.ModEq.eq_of_lt_of_lt (Nat.ModEq.add_right_cancel' 1 (Nat.ModEq.cancel_right_of_coprime hc hmul)) hm hn

/-- Positions of two streams are different numbers of 64 bits (R138). -/
theorem rngMix_ne {idx idx' ctr ctr' : Nat} (key : Nat) (hidx : idx < 2 ^ 24) (hidx' : idx' < 2 ^ 24) (hctr : ctr < 2 ^ 40) (hctr' : ctr' < 2 ^ 40)
    (hne : idx ≠ idx') : rngMix key idx ctr ≠ rngMix key idx' ctr' := by
  rw [rngMix_eq, rngMix_eq]
  intro h
  have hodd : Nat.Coprime (2 ^ 64) 0x9E3779B97F4A7C15 := Nat.Coprime.pow_left 64 (by decide)
  have hpos := ofNat_add_mul_injective key hodd (by omega) (by omega) (mix_injective (BitVec.eq_of_toNat_eq h))
  omega

/-- Settles O19: the finaliser by its steps, and the streams by their positions. -/
theorem streamsNeverMeet : Obligations.StreamsNeverMeet :=
  ⟨mix_bijective, rngMix_eq, fun key _ _ _ _ => rngMix_ne key, streamWord_wrapped⟩

/-! ### RNGSEED and RNG (R135 to R137) -/

section

variable {f : Fields} {s : State}

theorem does_rngseed {b : Nat} (hg : acts s f) (hb : holdsB s f false b) :
    does (.rngseed f) s (putC f.d (Claims.word ((s.slotOf s.cur).vcore % 2 ^ 12 * 2 ^ 52 + b % 2 ^ 12 * 2 ^ 40))) := by
  have hword : streamWord (s.slotOf s.cur).vcore b 0 = (s.slotOf s.cur).vcore % 2 ^ 12 * 2 ^ 52 + b % 2 ^ 12 * 2 ^ 40 := by
    rw [streamWord, Nat.zero_mod, Nat.add_zero]
  refine does_putC_of_body (body := rngseedBody f) rfl hg ?_
  rw [← hword, ← CReg.word_eq]
  exact Exec.bind_of_ok (hb 0x0F1)

/-- The value of the stream word `w`, and the next word (R137). -/
def rngValue (s : State) (w : Nat) : BitVec 64 := mix (BitVec.ofNat 64 ((s.slotOf s.cur).seed.toNat +
  (((s.slotOf s.cur).vcore % 2 ^ 12 * 2 ^ 12 + w / 2 ^ 40 % 2 ^ 12) * 2 ^ 40 + w % 2 ^ 40 + 1) * 0x9E3779B97F4A7C15))
def rngNext (s : State) (w : Nat) : Nat := (s.slotOf s.cur).vcore % 2 ^ 12 * 2 ^ 52 + w / 2 ^ 40 % 2 ^ 12 * 2 ^ 40 + (w % 2 ^ 40 + 1) % 2 ^ 40

/-- RNG writes D and then A. -/
def rngWrites (f : Fields) (s z : State) (w : Nat) : State :=
  (z.setD f.d (Claims.word (rngValue s w).toNat)).setD f.a (Claims.word (rngNext s w))

def rngWrapped (s : State) : State := s.modSlot (s.slotKeyOf s.cur) (fun l => { l with rngctl := l.rngctl ||| 1 })

theorem State.setD_modSlot (s : State) (o : Opnd) (r : CReg) (k : Nat) (g : Slot → Slot) : (s.setD o r).modSlot k g = (s.modSlot k g).setD o r := by
  cases o <;> rfl

theorem State.cur_setD (s : State) (o : Opnd) (r : CReg) : (s.setD o r).cur = s.cur := by rw [State.setD_eq]

theorem State.ctx_setD_of_cur {s : State} {k : Nat} {o : Opnd} {r : CReg} (h : s.cur = k) : (s.setD o r).ctx k = putC o r (s.ctx k) := h ▸ s.ctx_setD o r

theorem State.GoesOn.of_setD_of_cur {s t : State} {k : Nat} {c : Ctx} {o : Opnd} {r : CReg} (hgo : (s.setD o r).GoesOn t k c) (h : s.cur = k) :
    s.GoesOn t k c := by
  subst h
  exact hgo.of_setD

theorem rngBody_eq {w : Nat} (ha : holds s f.a w) : rngBody f s = if (w % 2 ^ 40 + 1) % 2 ^ 40 = 0 then
    .ok ⟨rngWrites f s (rngWrapped s) w, if (s.slotOf s.cur).rngctl.getLsbD 1 then .after RNG_WRAP (rngNext s w) else .seq⟩
    else done (rngWrites f s s w) := by
  have hnext : streamWord ((s.slotOf s.cur).vcore % 2 ^ 12) (fld w 40 12) ((fld w 0 40 + 1) % 2 ^ 40) = rngNext s w := by
    rw [streamWord, Nat.mod_mod, Nat.mod_mod, fld_zero, fld, Nat.mod_mod, rngNext]
  have hvalue : rngMix (s.slotOf s.cur).seed.toNat ((s.slotOf s.cur).vcore % 2 ^ 12 * 2 ^ 12 + fld w 40 12) (fld w 0 40) = (rngValue s w).toNat := by
    rw [rngMix_eq, fld_zero, fld, rngValue]
  rw [rngBody]
  refine (Exec.bind_of_ok (ha 0x0F0 2)).trans ?_
  dsimp only
  rw [hnext, hvalue, CReg.word_eq, CReg.word_eq, State.setD_modSlot, State.setD_modSlot, bitAt_toNat, fld_zero]
  rfl

/-- However the slot stands, the two writes are all that RNG does to its context. -/
theorem finish_rngWrites {z : State} (hcur : z.cur = s.cur) (w : Nat) : z.GoesOn (s.finish f ⟨rngWrites f s z w, .seq⟩) s.cur
    (putC f.a (Claims.word (rngNext s w)) (putC f.d (Claims.word (rngValue s w).toNat) (z.ctx s.cur))).advance := by
  have hgo := s.finish_seq (rngWrites f s z w) f
  have hmid : (z.setD f.d (Claims.word (rngValue s w).toNat)).cur = s.cur := (z.cur_setD _ _).trans hcur
  rw [rngWrites, State.ctx_setD_of_cur hmid, State.ctx_setD_of_cur hcur] at hgo
  exact (hgo.of_setD_of_cur hmid).of_setD_of_cur hcur

end

/-- Settles O18: RNGSEED writes a word, RNG two, and at the wrap a bit of the slot too. -/
theorem randomStreams : Obligations.RandomStreams := by
  intro f s b w hg
  dsimp only
  have hgo {z : State} (hcur : z.cur = s.cur) := finish_rngWrites (f := f) hcur w
  rw [rngValue, rngNext] at hgo
  refine ⟨does_rngseed hg, fun ha _ => ⟨fun hlt => ?next, fun hwrap hctl => ?wrap⟩⟩
  case next =>
    refine ⟨_, exec_of_body (body := rngBody f) rfl hg ((rngBody_eq ha).trans (if_neg ?_)), hgo rfl⟩
    omega
  case wrap =>
    refine ⟨_, exec_of_body (body := rngBody f) rfl hg ((rngBody_eq ha).trans ((if_pos ?_).trans ?_)), hgo (z := rngWrapped s) rfl⟩
    · rw [hwrap, Nat.mod_self]
    · rw [hctl]
      rfl

end Sys2Proof.Machine
end

section
/-! # Vector instructions: lanes, operands, and the state that they leave

A vector register is its lanes, and a vector result is written lane by lane. The pops of an instruction change no register and no other
context, so what its body answers is the state after them with D and FFLAGS written. -/

namespace Sys2Proof.Machine

open Sys2Proof.Claims

/-! ### Lanes (R139, R141) -/

section

variable {n i j : Nat} {x : VReg} {l : List Nat} {g : Nat → Flagged}

theorem laneOf_eq_lane (x : VReg) (n i : Nat) : laneOf x n i = lane x n i := rfl

theorem lane_lt (x : VReg) (n i : Nat) : lane x n i < 2 ^ n := Nat.mod_lt _ (Nat.two_pow_pos n)

theorem testBit_lane (x : VReg) (n i k : Nat) : (lane x n i).testBit k = (decide (k < n) && x.toNat.testBit (n * i + k)) :=
  testBit_fld x.toNat (n * i) n k

/-- A lane ends within the register. -/
theorem lane_end_le (h : i < 512 / n) : n * i + n ≤ 512 :=
  calc n * i + n = n * (i + 1) := (Nat.mul_succ n i).symm
    _ ≤ n * (512 / n) := Nat.mul_le_mul_left n h
    _ ≤ 512 := Nat.mul_div_le 512 n

/-- A bit of lane `j` lies among the bits of lane `i` where the two are one. -/
theorem bit_in_lane_iff {k : Nat} (hk : k < n) : n * i ≤ n * j + k ∧ n * j + k < n * i + n ↔ j = i := by
  refine ⟨fun ⟨hlo, hhi⟩ => ?_, fun h => by subst h; omega⟩
  have hij : i < j + 1 := Nat.lt_of_mul_lt_mul_left (a := n) (by rw [Nat.mul_succ]; omega)
  have hji : j < i + 1 := Nat.lt_of_mul_lt_mul_left (a := n) (by rw [Nat.mul_succ]; omega)
  omega

theorem toNat_ofNat_setFld {w lo k : Nat} (x : BitVec w) (y : Nat) (h : lo + k ≤ w) :
    (BitVec.ofNat w (setFld x.toNat lo k y)).toNat = setFld x.toNat lo k y := by
  rw [BitVec.toNat_ofNat, Nat.mod_eq_of_lt (setFld_lt x.isLt h)]

theorem lane_setLane (x : VReg) (hi : i < 512 / n) (y j : Nat) : lane (setLane x n i y) n j = if j = i then y % 2 ^ n else lane x n j := by
  have hnat : (setLane x n i y).toNat = setFld x.toNat (n * i) n y := toNat_ofNat_setFld x y (lane_end_le hi)
  refine Nat.eq_of_testBit_eq fun k => ?_
  rw [testBit_lane, hnat, testBit_setFld, apply_ite (Nat.testBit · k), Nat.testBit_mod_two_pow, testBit_lane]
  by_cases hk : k < n
  · rw [if_congr (bit_in_lane_iff hk) rfl rfl, decide_eq_true hk, Bool.true_and, Bool.true_and, Bool.true_and]
    refine ite_congr rfl (fun h => ?_) fun _ => rfl
    rw [h, Nat.add_sub_cancel_left]
  · rw [decide_eq_false hk, Bool.false_and, Bool.false_and, Bool.false_and, ite_self]

theorem writeLanes_concat (n : Nat) (x : VReg) (l : List Nat) (i : Nat) (g : Nat → Flagged) :
    writeLanes n x (l ++ [i]) g = (setLane (writeLanes n x l g).1 n i (g i).1, (writeLanes n x l g).2 ||| (g i).2) := by
  rw [writeLanes, List.foldl_concat, ← writeLanes]

/-- Each lane on the list is written with its result, and the others stay. -/
theorem lane_writeLanes (hl : ∀ i ∈ l, i < 512 / n) (x : VReg) (g : Nat → Flagged) (j : Nat) :
    lane (writeLanes n x l g).1 n j = if j ∈ l then (g j).1 % 2 ^ n else lane x n j := by
  induction l using List.reverseRecOn with
  | nil => exact (if_neg List.not_mem_nil).symm
  | append_singleton l i ih =>
    rw [List.forall_mem_append, List.forall_mem_singleton] at hl
    rw [writeLanes_concat, lane_setLane _ hl.2, ih hl.1]
    by_cases hji : j = i
    · simp [hji]
    · simp [hji]

/-- The flags are those of the lanes on the list. -/
theorem testBit_flags_writeLanes (n : Nat) (x : VReg) (l : List Nat) (g : Nat → Flagged) (k : Nat) :
    (writeLanes n x l g).2.testBit k = true ↔ ∃ i ∈ l, (g i).2.testBit k = true := by
  induction l using List.reverseRecOn with
  | nil => simp [writeLanes]
  | append_singleton l i ih => simp [writeLanes_concat, or_and_right, exists_or, ih]

theorem mem_activeLanes {s : State} {f : Fields} : i ∈ s.activeLanes f n ↔ i < 512 / n ∧ s.guardBit f i = true := by
  rw [State.activeLanes, List.mem_filter, List.mem_range]

theorem activeLanes_nonempty {s : State} {f : Fields} (h : ∃ j < 512 / n, s.guardBit f j = true) : (s.activeLanes f n).isEmpty = false := by
  obtain ⟨j, hj⟩ := h
  exact List.isEmpty_eq_false_iff_exists_mem.2 ⟨j, mem_activeLanes.2 hj⟩

end

/-! ### Pops (R109, R143) -/

section

variable {s u : State} {f : Fields} {a b : VReg}

theorem State.cur_learn (s : State) (k : Nat) (c : Sparse Nat) : (s.learn k c).cur = s.cur := by
  unfold State.learn State.modKnown
  split <;> rfl

theorem State.cur_popQueue (s : State) (k queue : Nat) : (s.popQueue k queue).1.cur = s.cur := by
  unfold State.popQueue
  split
  · rfl
  · dsimp only
    split
    · rfl
    · exact State.cur_learn _ k _

/-- The context in hand is the same after a computation that answers a state first. -/
abbrev KeepsCur {α : Type} (s : State) (x : Exec (State × α)) : Prop := Ends (fun _ => True) (fun r => r.1.cur = s.cur) x

theorem keepsCur_popStreams (op : Nat) (s : State) (os : List Opnd) : KeepsCur s (popStreams op s os) := by
  unfold popStreams
  refine .ite (.bind (P := fun _ => True) ?_ fun _ _ => .ok ?_) trivial
  · unfold acquireCheck intervalCheck need
    exact .ite trivial (.ite trivial trivial)
  · exact List.foldlRecOn (motive := fun acc : State × List VReg => acc.1.cur = s.cur) _ _ rfl
      fun acc h q _ => (State.cur_popQueue acc.1 s.cur q).trans h

theorem ends_boundCheck (s : State) (op : Nat) (f : Fields) (l : List (Nat × Opnd)) : Ends (fun _ => True) (fun _ => True) (boundCheck s op f l) := by
  cases boundCheck s op f l <;> trivial

theorem ends_dataOpnd (s : State) (op field : Nat) (o : Opnd) : Ends (fun _ => True) (fun _ => True) (s.dataOpnd op field o) := by
  cases s.dataOpnd op field o <;> trivial

theorem keepsCur_vecA (op : Nat) (f : Fields) (s : State) : KeepsCur s (vecA op f s) := by
  refine .bind (ends_boundCheck s op f _) fun _ _ => .bind (keepsCur_popStreams op s _) fun r hr => ?_
  dsimp only
  split <;> exact hr

theorem keepsCur_vecOperands (op : Nat) (f : Fields) (w lit : Nat) (s : State) : KeepsCur s (vecOperands op f w lit s) := by
  unfold vecOperands
  refine .bind (ends_boundCheck s op f _) fun _ _ => ?_
  extract_lets last
  have hlast (x : VReg) : KeepsCur s (last x) := .bind (keepsCur_popStreams op s _) fun r hr => by
    dsimp only
    split <;> exact hr
  refine .ite (hlast _) ?_
  split
  · exact .bind (ends_dataOpnd s op 3 _) fun _ _ => hlast _
  · exact hlast _
  · exact hlast _

theorem cur_of_vecInA (h : vecInA s f u a) : u.cur = s.cur := (keepsCur_vecA 0 f s).of_ok (h 0)

theorem cur_of_vecIn {n lit : Nat} (h : vecIn s f n lit u a b) : u.cur = s.cur := (keepsCur_vecOperands 0 f n lit s).of_ok (h 0)

end

/-! ### From the answer of a body to what the instruction does -/

section

variable {i : Instr} {f : Fields} {body : State → Exec Out} {s t u : State}

theorem State.setVD_v (h : u.cur = s.cur) (d : BitVec 5) (x : VReg) : u.setVD (.v d) x = u.modCtx s.cur (fun c => c.setV d.toNat x) := by
  rw [← h]
  rfl

theorem State.setGuardD_g (h : u.cur = s.cur) (n : BitVec 4) (x : Word64) : u.setGuardD (.g n) x = u.modCtx s.cur (putG (.g n) x) := by
  rw [← h]
  rfl

variable (hi : exec i s = runVector f body s)

include hi

theorem exec_of_vecBody (hb : body s = done t) : ∃ t', exec i s = .next t' ∧ t.GoesOn t' s.cur (t.ctx s.cur).advance :=
  ⟨_, by rw [hi, runVector, stepVector_ok _ _ _ _ hb], s.finish_seq t f⟩

theorem exec_of_vecBody_modCtx {v : Ctx → Ctx} (hb : body s = done (u.modCtx s.cur v)) :
    ∃ t, exec i s = .next t ∧ u.GoesOn t s.cur (v (u.ctx s.cur)).advance := by
  obtain ⟨t, ht, hgo⟩ := exec_of_vecBody hi hb
  rw [State.ctx_modCtx_self] at hgo
  exact ⟨t, ht, hgo.of_modCtx⟩

theorem exec_of_vecBody_putC {o : Opnd} {r : CReg} (hcur : u.cur = s.cur) (hb : body s = done (u.setD o r)) :
    ∃ t, exec i s = .next t ∧ u.GoesOn t s.cur (putC o r (u.ctx s.cur)).advance := by
  obtain ⟨t, ht, hgo⟩ := exec_of_vecBody hi hb
  rw [State.ctx_setD_of_cur hcur] at hgo
  exact ⟨t, ht, hgo.of_setD_of_cur hcur⟩

theorem exec_of_vecBody_putC_flags {o : Opnd} {r : CReg} {fl : Nat} (hcur : u.cur = s.cur)
    (hb : body s = done ((u.setD o r).modCtx s.cur (fun c => c.orFlags fl))) :
    ∃ t, exec i s = .next t ∧ u.GoesOn t s.cur (addFlags fl (putC o r (u.ctx s.cur))).advance := by
  obtain ⟨t, ht, hgo⟩ := exec_of_vecBody_modCtx hi hb
  rw [Ctx.orFlags_eq_addFlags, State.ctx_setD_of_cur hcur] at hgo
  exact ⟨t, ht, hgo.of_setD_of_cur hcur⟩

/-- D is written with `r`, and flags are added. -/
theorem exec_of_vecBody_setV {d : BitVec 5} {r : VReg} {fl : Nat} (hcur : u.cur = s.cur)
    (hb : body s = done ((u.setVD (.v d) r).modCtx s.cur (fun c => c.orFlags fl))) : ∃ t, exec i s = .next t ∧
      u.GoesOn t s.cur (addFlags fl { u.ctx s.cur with v := (u.ctx s.cur).v.put d.toNat r }).advance := by
  rw [State.setVD_v hcur, State.modCtx_modCtx] at hb
  obtain ⟨t, ht, hgo⟩ := exec_of_vecBody_modCtx hi hb
  rw [Ctx.orFlags_eq_addFlags] at hgo
  exact ⟨t, ht, hgo⟩

theorem exec_of_vecBody_putG {n : BitVec 4} {x : Word64} {fl : Nat} (hcur : u.cur = s.cur)
    (hb : body s = done ((u.setGuardD (.g n) x).modCtx s.cur (fun c => c.orFlags fl))) : ∃ t, exec i s = .next t ∧
      u.GoesOn t s.cur (addFlags fl (putG (.g n) x (u.ctx s.cur))).advance := by
  rw [State.setGuardD_g hcur, State.modCtx_modCtx] at hb
  obtain ⟨t, ht, hgo⟩ := exec_of_vecBody_modCtx hi hb
  rw [Ctx.orFlags_eq_addFlags] at hgo
  exact ⟨t, ht, hgo⟩

variable {d : BitVec 5} {n : Nat} {g : Nat → Flagged} (hd : f.d = .v d)

include hd

/-- A vector result: the lanes that the guard selects, over the old contents of D (R141). -/
theorem writesLanes_of_vecDone (hcur : u.cur = s.cur) (hb : body s = u.vecDone s f n g) : writesLanes i s u f n g := by
  have hold : s.vReg f.d = (s.ctx s.cur).getV d.toNat := by
    rw [hd]
    rfl
  rw [State.vecDone, hold, hd] at hb
  obtain ⟨t, ht, hgo⟩ := exec_of_vecBody_setV hi hcur hb
  refine ⟨t, _, _, d, hd, ht, fun j hj => ?lanes, fun k => ?flags, hgo⟩
  case lanes =>
    rw [lane_writeLanes fun i hi => (mem_activeLanes.1 hi).1]
    exact if_congr (mem_activeLanes.trans (and_iff_right hj)) rfl rfl
  case flags =>
    rw [testBit_flags_writeLanes]
    simp only [mem_activeLanes, and_assoc]

end

/-! ### Two vector operands (R140) -/

/-- A literal broadcast to lanes of the type (R140). -/
theorem laneLit_eq_litLane (f : Fields) : laneLit f = litLane f := by
  have hs : wrapN 64 (sx f.imm.toNat 32) = (f.imm.signExtend 64).toNat := by
    rw [wrapN_eq_toNat, sx_eq_toInt _ (by decide), BitVec.ofNat_toNat, BitVec.setWidth_eq, BitVec.signExtend]
  rw [laneLit, litLane, litVal, hs, tySigned]
  simp only [decide_eq_true_eq]

section

variable {i : Instr} {op : Nat} {f : Fields} {s u : State} {a b : VReg}
  (hin : vecIn s f (tyWidth f.ty) (litLane f) u a b)

include hin

theorem vecOperands_of_vecIn (op : Nat) : vecOperands op f (tyWidth f.ty) (laneLit f) s = .ok (u, a, b) := laneLit_eq_litLane f ▸ hin op

variable {d : BitVec 5} (hd : f.d = .v d)

include hd

/-- Lane by lane: a function of the lanes of A and B and of the old lane of D. -/
theorem writesLanes_vecBinary {g' g : Nat → Nat → Nat → Flagged} (hi : exec i s = runVector f (vecBinary op f g') s)
    (hg : ∀ x y z, x < 2 ^ tyWidth f.ty → y < 2 ^ tyWidth f.ty → g' x y z = g x y z) : writesLanes i s u f (tyWidth f.ty)
      (fun j => g (lane a (tyWidth f.ty) j) (lane b (tyWidth f.ty) j) (lane ((s.ctx s.cur).getV d.toNat) (tyWidth f.ty) j)) := by
  refine writesLanes_of_vecDone hi hd (cur_of_vecIn hin) ?_
  refine (Exec.bind_of_ok (vecOperands_of_vecIn hin op)).trans (congrArg (u.vecDone s f _) (funext fun j => ?_))
  rw [hd]
  exact hg _ _ _ (lane_lt _ _ _) (lane_lt _ _ _)

theorem writesLanes_vecUnary {g : Nat → Flagged} (hi : exec i s = runVector f (vecUnary op f g) s) :
    writesLanes i s u f (tyWidth f.ty) (fun j => g (lane a (tyWidth f.ty) j)) :=
  writesLanes_vecBinary hin hd (g' := fun x _ _ => g x) (g := fun x _ _ => g x) hi fun _ _ _ _ _ => rfl

/-- The same of the bits of the lanes of A and B, with no flag. -/
theorem writesLanes_vecBits {g : Nat → Nat → Nat → Nat} {y : Nat → Nat} (hi : exec i s = runVector f (vecBits op f g) s)
    (hy : ∀ j, g (tyWidth f.ty) (BitVec.ofNat (tyWidth f.ty) (lane a (tyWidth f.ty) j)).toNat
      (BitVec.ofNat (tyWidth f.ty) (lane b (tyWidth f.ty) j)).toNat = y j) : writesLanes i s u f (tyWidth f.ty) (fun j => (y j, 0)) := by
  have hbits (x : VReg) (j : Nat) : (BitVec.ofNat (tyWidth f.ty) (lane x (tyWidth f.ty) j)).toNat = lane x (tyWidth f.ty) j := by
    rw [BitVec.toNat_ofNat, Nat.mod_eq_of_lt (lane_lt _ _ _)]
  obtain rfl : (fun j => g (tyWidth f.ty) (lane a (tyWidth f.ty) j) (lane b (tyWidth f.ty) j)) = y :=
    funext fun j => by rw [← hy j, hbits, hbits]
  exact writesLanes_vecBinary hin hd (g := fun x y _ => (g (tyWidth f.ty) x y, 0)) hi fun _ _ _ _ _ => rfl

end

end Sys2Proof.Machine
end

section
/-! # Vector arithmetic, bitwise, shift, count and carry-less instructions (O20)

Every one of them is lane by lane a function of the lanes of A and B, and of D where it accumulates; so per instruction there is the fact that
the model's function of a lane is the one that R145 or R147 names. -/

namespace Sys2Proof.Machine

open Sys2Proof.Claims

/-! ### Lanes as integers and as patterns (R144, R145) -/

section

variable {f : Fields}

theorem ite_tyFloat {α : Type} {ty : Nat} (h : ty ≤ 9) (x y : α) : (if tyFloat ty then x else y) = if ty < 8 then y else x := by
  by_cases hlt : ty < 8
  · rw [tyFloat_of_lt hlt, if_neg Bool.false_ne_true, if_pos hlt]
  · rw [tyFloat_of_float (by omega), if_pos rfl, if_neg hlt]

/-- SAT clamps to the values of the type, signed or not (R47). -/
theorem sat_eq_clamp (ty : Nat) (x : Int) : (if tySigned ty then satI x (tyWidth ty) else satN x (tyWidth ty)) = clamp ty x := by
  have hpow (n : Nat) : (1 : Int) ≤ 2 ^ n := one_le_pow₀ (by decide)
  rw [clamp, tySigned]
  simp only [decide_eq_true_eq]
  refine if_congr Iff.rfl (satTo_eq x ?_) (satTo_eq x ?_)
  · have := hpow (tyWidth ty - 1)
    omega
  · have := hpow (tyWidth ty)
    omega

theorem laneNarrow_eq (ty : Nat) (sat : Bool) (x : Int) :
    laneNarrow ty sat x = (BitVec.ofInt (tyWidth ty) (if sat then clamp ty x else x)).toNat := by
  rw [laneNarrow, sat_eq_clamp, wrapN_eq_toNat]

theorem satOf_eq (f : Fields) : satOf f = f.md.getLsbD 6 := Fields.mod_one f 6

theorem laneNarrow_eq_narrow (f : Fields) (x : Int) : laneNarrow f.ty (satOf f) x = narrow f x := by
  rw [laneNarrow_eq, satOf_eq, narrow]

theorem arith_eq (h : f.ty ≤ 9) (gi : Int → Int → Int → Int) (gf : Nat → Nat → Nat → Nat → Flagged) (a b d : Nat) :
    arith f gi gf a b d = if f.ty < 8 then (narrow f (gi (val f.ty a) (val f.ty b) (val f.ty d)), 0) else gf (frac f.ty) a b d := by
  rw [arith, ite_tyFloat h]
  refine ite_congr rfl (fun hlt => ?_) fun _ => rfl
  rw [laneNarrow_eq_narrow, tyVal_eq_val hlt, tyVal_eq_val hlt, tyVal_eq_val hlt]

/-! ### The sign of a pattern -/

section

variable {fb a : Nat}

theorem tyWidth_of_float {ty : Nat} (h : ty ≤ 9) (hf : ¬ty < 8) : tyWidth ty = frac ty + 9 := by
  obtain rfl | rfl : ty = 8 ∨ ty = 9 := by omega
  · rfl
  · rfl

theorem setFld_sign_zero (h : a < 2 ^ (fb + 9)) : setFld a (fb + 8) 1 0 = a % 2 ^ (fb + 8) := by
  refine Nat.eq_of_testBit_eq fun i => ?_
  rw [testBit_setFld, Nat.testBit_mod_two_pow, Nat.zero_testBit]
  obtain hi | rfl | hi : i < fb + 8 ∨ i = fb + 8 ∨ fb + 9 ≤ i := by omega
  · rw [if_neg (by omega), decide_eq_true hi, Bool.true_and]
  · rw [if_pos (by omega), decide_eq_false (lt_irrefl _), Bool.false_and]
  · rw [if_neg (by omega), Nat.testBit_lt_two_pow (h.trans_le (Nat.pow_le_pow_right (by decide) hi)), Bool.and_false]

theorem setFld_sign_flip (fb a : Nat) : setFld a (fb + 8) 1 (1 - fld a (fb + 8) 1) = a ^^^ 2 ^ (fb + 8) := by
  refine Nat.eq_of_testBit_eq fun i => ?_
  rw [testBit_setFld, Nat.testBit_xor, Nat.testBit_two_pow]
  by_cases hi : i = fb + 8
  · subst hi
    have hbit : fld a (fb + 8) 1 = (a.testBit (fb + 8)).toNat := (Nat.toNat_testBit a _).symm
    rw [if_pos (by omega), Nat.sub_self, hbit, decide_eq_true rfl, Bool.xor_true]
    cases a.testBit (fb + 8) <;> rfl
  · rw [if_neg (by omega), decide_eq_false (Ne.symm hi), Bool.xor_false]

/-- VABS and VNEG of a floating-point lane (R145): a NaN becomes canonical. -/
theorem signLane_abs (h : a < 2 ^ (fb + 9)) : signLane fb a (fun _ => 0) =
    if isNaN fb a then (canonNaN fb, if isSignalling fb a then 16 else 0) else (a % 2 ^ (fb + 8), 0) := by
  rw [signLane, snanFlag_one, setFld_sign_zero h]

theorem signLane_neg (fb a : Nat) : signLane fb a (fun b => 1 - b) =
    if isNaN fb a then (canonNaN fb, if isSignalling fb a then 16 else 0) else (a ^^^ 2 ^ (fb + 8), 0) := by
  rw [signLane, snanFlag_one, setFld_sign_flip]

end

/-! ### The two tables (R145, R147) -/

/-- The instruction is lane by lane the function of its row. -/
def ByLane (f : Fields) (p : Instr × (Nat → Nat → Nat → Flagged)) : Prop :=
  ∃ op g, (∀ s, exec p.1 s = runVector f (vecBinary op f g) s) ∧
    ∀ x y z, x < 2 ^ tyWidth f.ty → y < 2 ^ tyWidth f.ty → g x y z = p.2 x y z

theorem byLane_of_unary {op : Nat} {g : Nat → Flagged} {p : Instr × (Nat → Nat → Nat → Flagged)} (hi : ∀ s, exec p.1 s = runVector f (vecUnary op f g) s)
    (hg : ∀ x y z, x < 2 ^ tyWidth f.ty → g x = p.2 x y z) : ByLane f p :=
  ⟨op, fun x _ _ => g x, hi, fun x y z hx _ => hg x y z hx⟩

theorem byLane_of_mem_vecTable (h : f.ty ≤ 9) : ∀ p ∈ vecTable f, ByLane f p := by
  simp only [vecTable, List.forall_mem_cons, List.not_mem_nil, false_imp_iff, implies_true, and_true]
  refine ⟨⟨_, _, fun _ => rfl, ?add⟩, ⟨_, _, fun _ => rfl, ?sub⟩, ⟨_, _, fun _ => rfl, ?mul⟩, ⟨_, _, fun _ => rfl, ?fma⟩, ⟨_, _, fun _ => rfl, ?fms⟩,
    ⟨_, _, fun _ => rfl, ?min⟩, ⟨_, _, fun _ => rfl, ?max⟩, byLane_of_unary (fun _ => rfl) ?abs,
    byLane_of_unary (fun _ => rfl) ?neg⟩
  case add | sub | mul | fma | fms => exact fun x y z _ _ => arith_eq h _ _ x y z
  case min | max =>
    intro x y z _ _
    rw [ite_tyFloat h]
    refine ite_congr rfl (fun hlt => ?_) fun _ => rfl
    rw [tyVal_eq_val hlt, tyVal_eq_val hlt]
  case abs =>
    intro x y z hx
    rw [ite_tyFloat h]
    refine ite_congr rfl (fun hlt => ?_) fun hf => ?_
    · rw [tyVal_eq_val hlt, laneNarrow_eq_narrow, Int.natCast_natAbs]
    · rw [tyWidth_of_float h hf] at hx
      exact signLane_abs hx
  case neg =>
    intro x y z _
    rw [ite_tyFloat h]
    refine ite_congr rfl (fun hlt => ?_) fun _ => signLane_neg _ _
    rw [tyVal_eq_val hlt, laneNarrow_eq_narrow]

theorem popcBits_eq_toNat {n : Nat} (x : BitVec n) : popcBits n x.toNat = (BitVec.ofNat n ((List.range n).countP (fun i => x.getLsbD i))).toNat := by
  rw [← popcBits_eq, BitVec.toNat_ofNat, Nat.mod_eq_of_lt ((popcBits_le _ _).trans_lt Nat.lt_two_pow_self)]

/-- The instruction is on the bits of each lane the function of its row. -/
def ByBits (f : Fields) (p : Instr × (BitVec (tyWidth f.ty) → BitVec (tyWidth f.ty) → BitVec (tyWidth f.ty))) : Prop :=
  ∃ op g, (∀ s, exec p.1 s = runVector f (vecBits op f g) s) ∧
    ∀ x y : BitVec (tyWidth f.ty), g (tyWidth f.ty) x.toNat y.toNat = (p.2 x y).toNat

theorem byBits_of_mem_vecBitTable (h : f.ty < 8) : ∀ p ∈ vecBitTable f (tyWidth f.ty), ByBits f p := by
  simp only [vecBitTable, List.forall_mem_cons, List.not_mem_nil, false_imp_iff, implies_true, and_true]
  refine ⟨⟨_, _, fun _ => rfl, fun x y => (BitVec.toNat_and x y).symm⟩, ⟨_, _, fun _ => rfl, fun x y => (BitVec.toNat_or x y).symm⟩,
    ⟨_, _, fun _ => rfl, fun x y => (BitVec.toNat_xor x y).symm⟩, ⟨_, _, fun _ => rfl, fun x y => toNat_andNot x y⟩,
    ⟨_, _, fun _ => rfl, fun x y => shlBits_eq x _⟩, ⟨_, _, fun _ => rfl, fun x y => shrBits_eq x _⟩,
    ⟨_, _, fun _ => rfl, fun x y => sarBits_eq x _ (tyWidth_pos h)⟩, ⟨_, _, fun _ => rfl, fun x _ => popcBits_eq_toNat x⟩⟩

end

/-! ### The carry-less product (R147) -/

/-- The half of the product of two lanes that MOD[0] picks. -/
def clmulHalf (n : Nat) (high : Bool) (x y : BitVec n) : BitVec n :=
  BitVec.ofNat n (if high then clmulBits n x.toNat y.toNat / 2 ^ n else clmulBits n x.toNat y.toNat)

theorem clmulBits_lt {n : Nat} (x y : BitVec n) : clmulBits n x.toNat y.toNat < 2 ^ (n + n) := by
  refine Nat.lt_pow_two_of_testBit _ fun k hk => ?_
  rw [testBit_clmulBits, clBit, List.countP_eq_zero.2]
  · rfl
  intro i _
  by_cases hi : i < n
  · rw [BitVec.getLsbD_of_ge y _ (by omega), Bool.and_false]
    exact Bool.false_ne_true
  · rw [BitVec.getLsbD_of_ge x _ (by omega), Bool.false_and]
    exact Bool.false_ne_true

theorem toNat_clmulHalf {n : Nat} (high : Bool) (x y : BitVec n) : (clmulHalf n high x y).toNat =
    if high then clmulBits n x.toNat y.toNat / 2 ^ n else clmulBits n x.toNat y.toNat % 2 ^ n := by
  rw [clmulHalf, BitVec.toNat_ofNat]
  cases high with
  | false => rfl
  | true => exact Nat.mod_eq_of_lt (Nat.div_lt_of_lt_mul ((clmulBits_lt x y).trans_eq (Nat.pow_add 2 n n)))

theorem getLsbD_clmulHalf {n j : Nat} (high : Bool) (x y : BitVec n) (hj : j < n) :
    (clmulHalf n high x y).getLsbD j = clBit n x y (if high then n + j else j) := by
  rw [clmulHalf, BitVec.getLsbD_ofNat, decide_eq_true hj, Bool.true_and]
  cases high with
  | false => exact testBit_clmulBits x y j
  | true =>
    rw [if_pos rfl, if_pos rfl, Nat.testBit_div_two_pow, Nat.add_comm]
    exact testBit_clmulBits x y _

/-- Settles O20: each row of the two tables is its instruction's function of a lane; VCLZ and VCLMUL by the bits of what they write. -/
theorem vectorLanes : Obligations.VectorLanes := by
  refine ⟨fun f s u a b d hd hty => ?arith, fun f s u a b d hd hty => ?bits⟩
  case arith =>
    intro n hin p hp
    obtain ⟨op, g, hi, hg⟩ := byLane_of_mem_vecTable hty p hp
    exact writesLanes_vecBinary hin hd (hi s) hg
  case bits =>
    intro n hin
    refine ⟨fun p hp => ?table, ⟨_, writesLanes_vecBits hin hd (g := fun n a _ => clzBits n a) rfl fun _ => rfl, fun i _ => clzBits_spec _⟩,
      ⟨fun j => clmulHalf n (f.md.getLsbD 0) (BitVec.ofNat n (lane a n j)) (BitVec.ofNat n (lane b n j)), ?clmul,
        fun i _ j hj => getLsbD_clmulHalf _ _ _ hj⟩⟩
    case table =>
      obtain ⟨op, g, hi, hg⟩ := byBits_of_mem_vecBitTable hty p hp
      exact writesLanes_vecBits hin hd (hi s) fun _ => hg _ _
    case clmul =>
      refine writesLanes_vecBits hin hd (op := 0x129) rfl fun j => ?_
      rw [toNat_clmulHalf, ← Fields.mod_one]
      simp only [beq_iff_eq]
      rfl

end Sys2Proof.Machine
end

section
/-! # Reciprocals, roots, exponentials and logarithms of lanes (O21)

Each instruction applies its function to every lane. At a power of two the exact result is a power of two again, and a power of two rounds to
itself: so it is enough to follow its exponent. -/

namespace Sys2Proof.Machine

open Sys2Proof.Claims

/-! ### Powers of two as patterns (R36) -/

/-- The pattern of `2^e`, for an exponent in the range of normal numbers. -/
def powPat (fb : Nat) (e : Int) : Nat := (127 + e).toNat * 2 ^ fb

section

variable {fb : Nat} {e : Int}

theorem fval_powPat (hlo : -126 ≤ e) (hhi : e ≤ 127) : fval fb (powPat fb e) = .fin false (2 ^ fb) (e - fb) := by
  have hpos : 0 < 2 ^ fb := Nat.two_pow_pos fb
  have hexp : expOf fb (powPat fb e) = (127 + e).toNat := by
    rw [expOf, fld, powPat, Nat.mul_div_cancel _ hpos, Nat.mod_eq_of_lt (by omega)]
  have hfrac : fracOf fb (powPat fb e) = 0 := by rw [fracOf, fld_zero, powPat, Nat.mul_mod_left]
  have hlt : powPat fb e < 2 ^ (fb + 8) := by
    rw [powPat, Nat.pow_add, Nat.mul_comm]
    exact Nat.mul_lt_mul_of_pos_left (by omega) hpos
  have hsign : signOf fb (powPat fb e) = false := by rw [signOf, bitAt_eq_testBit, Nat.testBit_lt_two_pow hlt]
  rw [fval, hexp, hfrac, hsign, if_neg (by omega), if_neg (by omega), Nat.zero_add, qMin]
  congr 1
  omega

theorem snanFlag_powPat (hlo : -126 ≤ e) (hhi : e ≤ 127) : snanFlag fb [powPat fb e] = 0 := by
  rw [snanFlag_one, isSignalling_eq_false (by rw [fval_powPat hlo hhi]; nofun), if_neg Bool.false_ne_true]

theorem bitLen_two_pow (k : Nat) : bitLen (2 ^ k) = k + 1 := by
  rw [bitLen, if_neg (Nat.two_pow_pos k).ne', Nat.log2_two_pow]

/-- A power of two is a multiple of the unit below it by `fb` places, so nothing is lost. -/
theorem roundAt_two_pow (k : Nat) (e : Int) : roundAt 0 false (2 ^ k) e false (e + k - fb) = (2 ^ fb, false) := by
  rw [roundAt]
  split
  case isTrue h =>
    rw [← Nat.pow_add]
    congr 2
    omega
  case isFalse h =>
    obtain ⟨j, rfl⟩ : ∃ j, k = fb + j := ⟨k - fb, by omega⟩
    have hj : (e + ((fb + j : Nat) : Int) - fb - e).toNat = j := by omega
    simp only [hj, Nat.pow_add, Nat.mul_mod_left, Nat.mul_div_cancel _ (Nat.two_pow_pos j)]
    have := Nat.two_pow_pos j
    simp [this.ne]

theorem roundFin_two_pow {k : Nat} (hlo : -126 ≤ e + k) (hhi : e + k ≤ 127) : roundFin fb 0 false (2 ^ k) e false = (powPat fb (e + k), 0) := by
  have hpos := Nat.two_pow_pos fb
  have hunit : e + (bitLen (2 ^ k) : Int) - (fb + 1 : Int) = e + k - fb := by
    rw [bitLen_two_pow]
    omega
  have hq : max (e + k - (fb : Int)) (qMin fb) = e + k - fb := max_eq_left (by rw [qMin]; omega)
  have hpack : packFloat fb 0 false (2 ^ fb) (e + k - fb) = (powPat fb (e + k), 0) := by
    have hne : 2 ^ fb ≠ 2 ^ (fb + 1) := (Nat.pow_lt_pow_right (by decide) (Nat.lt_succ_self fb)).ne
    have hfield : (e + k - fb - qMin fb).toNat + 1 = (127 + (e + k)).toNat := by
      rw [qMin]
      omega
    rw [packFloat, if_neg hpos.ne']
    simp only [if_neg hne, if_neg (lt_irrefl _), hfield, Nat.mod_self, powPat]
    rw [if_neg (by omega)]
    simp
  rw [roundFin, hunit]
  dsimp only
  rw [hq, roundAt_two_pow]
  simp [hpack]

/-! ### The functions at powers of two (R146) -/

/-- VRCP: the quotient is a power of two, with as many places behind the point as the divisor needs. -/
theorem fRcp_powPat (hlo : -126 ≤ e) (hhi : e ≤ 126) : fRcp fb (powPat fb e) = (powPat fb (-e), 0) := by
  have hpos := Nat.two_pow_pos fb
  have hk : fb + 4 + bitLen (2 ^ fb) = fb + (fb + 5) := by
    rw [bitLen_two_pow]
    omega
  have hround : roundFin fb 0 false (2 ^ (fb + 5)) (0 - (e - fb) - (fb + (fb + 5) : Nat)) false = (powPat fb (-e), 0) := by
    have hexp : 0 - (e - fb) - ((fb + (fb + 5) : Nat) : Int) + ((fb + 5 : Nat) : Int) = -e := by omega
    rw [roundFin_two_pow (by omega) (by omega), hexp]
  have hdiv : divVal fb (.fin false 1 0) (.fin false (2 ^ fb) (e - fb)) = (powPat fb (-e), 0) := by
    rw [divVal, if_neg hpos.ne', if_neg Nat.one_ne_zero]
    dsimp only
    rw [hk, Nat.one_mul, Nat.pow_add, Nat.mul_div_cancel_left _ hpos, Nat.mul_mod_right]
    exact hround
  rw [fRcp, fval_powPat hlo (by omega), hdiv, snanFlag_powPat hlo (by omega)]
  rfl

/-- The bits below `2^k` of the integer square root, found from the top: what stands is no more than it, and `2^k` more is. -/
theorem isqrt_eq_sqrt {n k r : Nat} (hlo : r * r ≤ n) (hhi : n < (r + 2 ^ k) * (r + 2 ^ k)) : isqrt n k r = Nat.sqrt n := by
  induction k generalizing r with
  | zero => exact Nat.eq_sqrt.2 ⟨hlo, hhi⟩
  | succ k ih =>
    rw [isqrt]
    have htwo : r + 2 ^ k + 2 ^ k = r + 2 ^ (k + 1) := by
      rw [Nat.pow_succ]
      omega
    split
    next h => exact ih h (htwo ▸ hhi)
    next h => exact ih hlo (Nat.lt_of_not_le h)

/-- VRSQ: the root of a power of four is a power of two. A fraction has an odd number of bits, so the pattern's exponent is odd. -/
theorem fRsq_powPat {c : Nat} (hfb : fb = 2 * c + 1) (hlo : -63 ≤ e) (hhi : e ≤ 63) : fRsq fb (powPat fb (2 * e)) = (powPat fb (-e), 0) := by
  have hm : 2 * 2 ^ fb = 2 ^ (c + 1) * 2 ^ (c + 1) := by
    rw [← Nat.pow_succ', ← Nat.pow_add]
    congr 1
    omega
  have hk : 2 ^ (2 * (fb + 40)) = 2 ^ (c + 1) * 2 ^ (c + 1) * (2 ^ (c + 40) * 2 ^ (c + 40)) := by
    rw [← Nat.pow_add, ← Nat.pow_add, ← Nat.pow_add]
    congr 1
    omega
  have hroot : isqrt (2 ^ (c + 40) * 2 ^ (c + 40)) (fb + 40 + 1) 0 = 2 ^ (c + 40) := by
    have hlt : 2 ^ (c + 40) < 2 ^ (fb + 40 + 1) := Nat.pow_lt_pow_right (by decide) (by omega)
    rw [isqrt_eq_sqrt (Nat.zero_le _) (by rw [Nat.zero_add]; exact Nat.mul_self_lt_mul_self hlt), Nat.sqrt_eq]
  have hhalf : (2 * e - fb - 1) / 2 = e - (c + 1 : Nat) := by omega
  have hexp : -(e - (c + 1 : Nat)) - (fb + 40 : Nat) + (c + 40 : Nat) = -e := by omega
  rw [fRsq, fval_powPat (by omega) (by omega)]
  dsimp only
  rw [if_neg (Nat.two_pow_pos fb).ne', if_neg Bool.false_ne_true, if_neg (by omega), if_neg (by omega), hm, hk,
    Nat.mul_div_cancel_left _ (by positivity), hroot, hhalf, Nat.mul_assoc (_ * _), bne_self_eq_false, roundFin_two_pow (by omega) (by omega), hexp]

theorem cvtFromInt_zero (fb : Nat) : cvtFromInt fb 0 0 = (0, 0) := rfl
theorem cvtFromInt_one (fb : Nat) : cvtFromInt fb 0 1 = (powPat fb 0, 0) := roundFin_two_pow (k := 0) (e := 0) (by decide) (by decide)

/-- VEXP2 of an integer is a power of two. -/
theorem fExp2_zero : fExp2 fb 0 = (powPat fb 0, 0) := by
  have hzero : fval fb 0 = .fin false 0 (qMin fb) := by simp [fval, expOf, fracOf, signOf, bitAt, fld]
  rw [fExp2, hzero]
  exact roundFin_two_pow (k := 0) (e := 0) (by decide) (by decide)

theorem fExp2_one (hfb : 0 < fb) : fExp2 fb (powPat fb 0) = (powPat fb 1, 0) := by
  have hpos := Nat.two_pow_pos fb
  have hneg : (-(0 - (fb : Int))).toNat = fb := by omega
  have hnonneg : (0 - (fb : Int)).toNat = 0 := by omega
  have hquo : ((2 ^ fb : Nat) : Int) / 2 ^ fb = 1 := by
    rw [Nat.cast_pow]
    exact Int.ediv_self (by positivity)
  have hrem : (((2 ^ fb : Nat) : Int) % 2 ^ fb).toNat = 0 := by
    rw [Nat.cast_pow]
    exact congrArg Int.toNat Int.emod_self
  rw [fExp2, fval_powPat (by decide) (by decide)]
  simp only [hneg, hnonneg, hquo, hrem, Bool.false_eq_true, if_false, if_true]
  rw [if_neg hpos.ne', if_neg (by omega), if_neg (by omega)]
  exact roundFin_two_pow (k := 0) (e := 1) (by decide) (by decide)

/-- VLOG2 of a power of two is its exponent. -/
theorem fLog2_powPat (hlo : -126 ≤ e) (hhi : e ≤ 127) : fLog2 fb (powPat fb e) = cvtFromInt fb 0 e := by
  rw [fLog2, fval_powPat hlo hhi]
  dsimp only
  rw [if_neg (Nat.two_pow_pos fb).ne', if_neg Bool.false_ne_true, bitLen_two_pow, Nat.add_sub_cancel, if_pos rfl, Int.sub_add_cancel]

theorem powPat_natCast (fb e : Nat) : powPat fb e = (127 + e) * 2 ^ fb := rfl

theorem powPat_neg_natCast (fb e : Nat) : powPat fb (-e) = (127 - e) * 2 ^ fb := by
  rw [powPat]
  congr 1
  omega

end

/-- Settles O21: each instruction is its function of a lane, and the functions are followed through the exponents of powers of two. -/
theorem vectorFunctions : Obligations.VectorFunctions := by
  refine ⟨fun f s u a b d hd hty => ?lanes, fun fb hfb => ?exact⟩
  case lanes =>
    intro n fb hin
    exact ⟨writesLanes_vecUnary hin hd rfl, writesLanes_vecUnary hin hd rfl, writesLanes_vecUnary hin hd rfl, writesLanes_vecUnary hin hd rfl⟩
  case exact =>
    obtain ⟨c, hc⟩ : ∃ c, fb = 2 * c + 1 := by
      obtain rfl | rfl := hfb
      · exact ⟨11, rfl⟩
      · exact ⟨3, rfl⟩
    dsimp only
    simp only [← powPat_natCast, ← powPat_neg_natCast]
    refine ⟨fun e he => fRcp_powPat (by omega) (by omega), fun e he => ?root, fExp2_zero, ?logOne, fExp2_one (by omega), ?logTwo⟩
    case root =>
      rw [Nat.cast_mul]
      exact fRsq_powPat hc (by omega) (by omega)
    case logOne => exact (fLog2_powPat (by decide) (by decide)).trans (cvtFromInt_zero fb)
    case logTwo => exact (fLog2_powPat (by decide) (by decide)).trans (cvtFromInt_one fb)

end Sys2Proof.Machine
end

section
/-! # Vector comparison, selection, conversion and the moves of lanes (O22)

Most of these instructions are a vector result whose lane is read off another place. VCMP gathers the lanes' answers in the bits of a guard,
and VCVT writes, of the wider and the narrower register, the part that the literal names. -/

namespace Sys2Proof.Machine

open Sys2Proof.Claims

/-! ### Widths of lanes (R88, R139) -/

section

variable {ty src : Nat}

theorem tyWidth_mem_of_le (h : ty ≤ 9) : tyWidth ty = 8 ∨ tyWidth ty = 16 ∨ tyWidth ty = 32 ∨ tyWidth ty = 64 := by
  revert ty
  decide

theorem tyWidth_pos_of_le (h : ty ≤ 9) : 0 < tyWidth ty := by
  have := tyWidth_mem_of_le h
  omega

theorem lanes_pos (h : ty ≤ 9) : 0 < 512 / tyWidth ty := by
  obtain hw | hw | hw | hw := tyWidth_mem_of_le h
  all_goals rw [hw]; decide

/-- Of two widths, the smaller divides the larger. -/
theorem tyWidth_dvd (h : ty ≤ 9) (hs : src ≤ 9) (hle : tyWidth ty ≤ tyWidth src) : tyWidth ty ∣ tyWidth src := by
  have hall : ∀ t ≤ 9, ∀ w ≤ 9, tyWidth t ≤ tyWidth w → tyWidth t ∣ tyWidth w := by decide
  exact hall ty h src hs hle

/-- The bits of a value are those of its pattern. -/
theorem ofInt_val (ty x : Nat) : BitVec.ofInt (tyWidth ty) (val ty x) = BitVec.ofNat (tyWidth ty) x := by
  rw [val]
  split
  · exact BitVec.ofInt_toInt
  · rw [BitVec.ofInt_natCast, BitVec.ofNat_toNat, BitVec.setWidth_eq]

/-- A c register that receives a lane holds the lane's value (R95, R152). -/
theorem ofTy_eq_reg_val (h : ty ≤ 9) (x : Nat) : CReg.ofTy ty x = reg ty (val ty x) := by
  rw [reg, ofInt_val, ← BitVec.ofInt_natCast]
  by_cases hlt : ty < 8
  · exact CReg.ofTy_eq_reg hlt x
  · have hs : ¬ty < 4 := by omega
    rw [CReg.ofTy, tySigned, decide_eq_false hs, if_neg Bool.false_ne_true, if_neg hs, CReg.word_eq, Claims.word, wrapN_eq_toNat, BitVec.ofNat_toNat]

end

/-! ### Selection and moves (R149, R151, R152) -/

section

variable {f : Fields} {s u : State} {a b : VReg} {d : BitVec 5}

section

variable (hin : vecIn s f (tyWidth f.ty) (litLane f) u a b) (hd : f.d = .v d)

include hin hd

theorem writesLanes_vsel : writesLanes (.vsel f) s u f (tyWidth f.ty) (fun i =>
    (if ((s.ctx s.cur).getG (BitVec.ofNat 4 (f.md.toNat % 16))).getLsbD i != f.md.getLsbD 4 then lane a (tyWidth f.ty) i
      else lane b (tyWidth f.ty) i, 0)) := by
  have hguard : f.mod 0 4 = f.md.toNat % 16 := fld_zero _ 4
  refine writesLanes_of_vecDone (body := vselBody f) rfl hd (cur_of_vecIn hin) ?_
  rw [← hguard, ← Fields.mod_one]
  exact Exec.bind_of_ok (vecOperands_of_vecIn hin 0x131)

theorem writesLanes_vperm : writesLanes (.vperm f) s u f (tyWidth f.ty) (fun i =>
    (lane a (tyWidth f.ty) (lane b (tyWidth f.ty) i % (512 / tyWidth f.ty)), 0)) :=
  writesLanes_of_vecDone (body := vpermBody f) rfl hd (cur_of_vecIn hin) (Exec.bind_of_ok (vecOperands_of_vecIn hin 0x141))

end

theorem writesLanes_vbcast {x : Nat} (hd : f.d = .v d) (hx : if f.lit then x = litLane f else holds s f.a x) :
    writesLanes (.vbcast f) s s f (tyWidth f.ty) (fun _ => (x % 2 ^ tyWidth f.ty, 0)) := by
  refine writesLanes_of_vecDone (body := vbcastBody f) rfl hd rfl ?_
  unfold vbcastBody
  split at hx
  next hl =>
    rw [if_pos hl, hx, ← laneLit_eq_litLane]
    rfl
  next hl =>
    rw [if_neg hl]
    exact Exec.bind_of_ok (hx 0x140 2)

section

variable (ha : vecInA s f u a)

include ha

theorem writesLanes_vslide {x : Nat} (hd : f.d = .v d) (hb : holdsB s f true x) (hbound : boundCheck s 0x142 f [(2, f.a)] = .ok ()) :
    writesLanes (.vslide f) s u f (tyWidth f.ty) (fun i => (if 0 ≤ (i : Int) + (BitVec.ofNat 64 x).toInt ∧
      (i : Int) + (BitVec.ofNat 64 x).toInt < (512 / tyWidth f.ty : Nat) then
        lane a (tyWidth f.ty) ((i : Int) + (BitVec.ofNat 64 x).toInt).toNat else 0, 0)) := by
  refine writesLanes_of_vecDone (body := vslideBody f) rfl hd (cur_of_vecInA ha) ?_
  rw [← sx_eq_toInt x (by decide)]
  exact (Exec.bind_of_ok hbound).trans ((Exec.bind_of_ok (hb 0x142)).trans (Exec.bind_of_ok (ha 0x142)))

/-- The lanes that a mask selects, in their order. -/
def maskedLanes (g : Word64) (m : Nat) : List Nat := (List.range m).filter (fun j => g.getLsbD j)

theorem writesLanes_vcompress {g : BitVec 4} (hd : f.d = .v d) (hb : f.b = .g g) : writesLanes (.vcompress f) s u f (tyWidth f.ty) (fun i =>
    (match (maskedLanes ((s.ctx s.cur).getG g) (512 / tyWidth f.ty))[i]? with
      | some j => lane a (tyWidth f.ty) j
      | none => 0, 0)) := by
  have hg : BitVec.ofNat 4 (opndNum f.b) = g := by
    rw [hb]
    exact BitVec.ofNat_toNat 4 g
  refine writesLanes_of_vecDone (body := vcompressBody f) rfl hd (cur_of_vecInA ha) ?_
  rw [← hg]
  exact Exec.bind_of_ok (ha 0x143)

theorem exec_vmovc {x : Nat} (hg : acts s f) (hty : f.ty ≤ 9) (hb : holdsB s f false x) (hbound : boundCheck s 0x145 f [(2, f.a)] = .ok ()) :
    ∃ t, exec (.vmovc f) s = .next t ∧ u.GoesOn t s.cur
      (putC f.d (reg f.ty (val f.ty (lane a (tyWidth f.ty) (x % (512 / tyWidth f.ty))))) (u.ctx s.cur)).advance := by
  refine exec_of_vecBody_putC (body := vmovcBody f) rfl (cur_of_vecInA ha) ?_
  rw [← ofTy_eq_reg_val hty, vmovcBody]
  exact (if_pos hg).trans ((Exec.bind_of_ok hbound).trans ((Exec.bind_of_ok (hb 0x145)).trans (Exec.bind_of_ok (ha 0x145))))

end

theorem writesLanes_viota {g : BitVec 4} (hd : f.d = .v d) (ha : f.a = .g g) : writesLanes (.viota f) s s f (tyWidth f.ty) (fun i =>
    ((List.range i).countP (fun j => ((s.ctx s.cur).getG g).getLsbD j), 0)) := by
  have hg : BitVec.ofNat 4 (opndNum f.a) = g := by
    rw [ha]
    exact BitVec.ofNat_toNat 4 g
  refine writesLanes_of_vecDone (body := viotaBody f) rfl hd rfl ?_
  rw [← hg]
  rfl

/-- VINS replaces one lane of D (R152). -/
theorem does_vins {x y : Nat} (hd : f.d = .v d) (hg : acts s f) (ha : holds s f.a x) (hb : holdsB s f false y) : does (.vins f) s (fun c =>
    c.setV d.toNat (setLane ((s.ctx s.cur).getV d.toNat) (tyWidth f.ty) (y % (512 / tyWidth f.ty)) (x % 2 ^ tyWidth f.ty))) := by
  refine does_of_body (body := vinsBody f) rfl hg ?_
  rw [← State.setVD_v rfl]
  unfold vinsBody
  rw [hd]
  exact (Exec.bind_of_ok (ha 0x146 2)).trans (Exec.bind_of_ok (hb 0x146))

end

/-! ### Comparison (R148) -/

section

variable {p : Nat → Bool} {c : Nat → Bool × Nat}

/-- The answers of the lanes below `m` that are selected, as the bits of a number, and the flags of those lanes. -/
def compareLanes (p : Nat → Bool) (c : Nat → Bool × Nat) (m : Nat) : Nat × Nat :=
  ((List.range m).filter p).foldl (fun acc i => (if (c i).1 then acc.1 + 2 ^ i else acc.1, acc.2 ||| (c i).2)) (0, 0)

theorem compareLanes_succ (p : Nat → Bool) (c : Nat → Bool × Nat) (m : Nat) : compareLanes p c (m + 1) =
    if p m then (if (c m).1 then (compareLanes p c m).1 + 2 ^ m else (compareLanes p c m).1, (compareLanes p c m).2 ||| (c m).2)
    else compareLanes p c m := by
  rw [compareLanes, List.range_succ, List.filter_append, List.foldl_append, ← compareLanes, List.filter_singleton]
  cases p m with
  | true => rfl
  | false => rfl

theorem testBit_mask_compareLanes (m j : Nat) : (compareLanes p c m).1.testBit j = (decide (j < m) && p j && (c j).1) := by
  induction m generalizing j with
  | zero => exact Nat.zero_testBit j
  | succ m ih =>
    have hlt : (compareLanes p c m).1 < 2 ^ m := Nat.lt_pow_two_of_testBit _ fun i hi => by
      rw [ih, decide_eq_false (Nat.not_lt.2 hi), Bool.false_and, Bool.false_and]
    have hadd : ((compareLanes p c m).1 + 2 ^ m).testBit j = (decide (m = j) || (compareLanes p c m).1.testBit j) := by
      have hor := Nat.two_pow_add_eq_or_of_lt hlt 1
      rw [Nat.mul_one] at hor
      rw [Nat.add_comm, hor, Nat.testBit_or, Nat.testBit_two_pow]
    have hstep : (compareLanes p c (m + 1)).1.testBit j = (decide (m = j) && p m && (c m).1 || (compareLanes p c m).1.testBit j) := by
      rw [compareLanes_succ]
      cases p m with
      | false => simp
      | true =>
        cases (c m).1 with
        | false => simp
        | true => simp [hadd]
    rw [hstep, ih]
    by_cases hj : m = j
    · subst hj
      simp
    · have hsucc : decide (j < m + 1) = decide (j < m) := decide_eq_decide.2 (by omega)
      rw [decide_eq_false hj, hsucc, Bool.false_and, Bool.false_and, Bool.false_or]

theorem testBit_flags_compareLanes (m k : Nat) :
    (compareLanes p c m).2.testBit k = true ↔ ∃ j < m, p j = true ∧ (c j).2.testBit k = true := by
  induction m with
  | zero => simp [compareLanes]
  | succ m ih =>
    rw [compareLanes_succ]
    simp only [Nat.lt_succ_iff_lt_or_eq, or_and_right, exists_or, exists_eq_left, ← ih]
    cases hp : p m <;> simp

end

section

variable {f : Fields} {s u : State} {a b : VReg}

theorem laneCompare_eq (h : f.ty ≤ 9) (x y : Nat) : laneCompare f x y =
    if f.ty < 8 then (intCompare (f.md.toNat % 8) (val f.ty x) (val f.ty y), 0) else fCompare (frac f.ty) (f.md.toNat % 8) x y := by
  rw [laneCompare, ite_tyFloat h, ← Fields.mod_zero_three]
  refine ite_congr rfl (fun hlt => ?_) fun _ => rfl
  rw [tyVal_eq_val hlt, tyVal_eq_val hlt]

/-- The lanes' answers and flags, of all lanes that the guard selects. -/
def vcmpLanes (f : Fields) (s : State) (a b : VReg) : Nat × Nat :=
  compareLanes (s.guardBit f) (fun j => laneCompare f (lane a (tyWidth f.ty) j) (lane b (tyWidth f.ty) j)) (512 / tyWidth f.ty)

theorem exec_vcmp {g : BitVec 4} (hd : f.d = .g g) (hin : vecIn s f (tyWidth f.ty) (litLane f) u a b)
    (hact : ∃ j < 512 / tyWidth f.ty, s.guardBit f j = true) : ∃ t, exec (.vcmp f) s = .next t ∧
      u.GoesOn t s.cur (addFlags (vcmpLanes f s a b).2 (putG f.d (BitVec.ofNat 64 (vcmpLanes f s a b).1) (u.ctx s.cur))).advance := by
  rw [hd]
  refine exec_of_vecBody_putG (body := vcmpBody f) rfl (cur_of_vecIn hin) ?_
  unfold vcmpBody
  refine (Exec.bind_of_ok (vecOperands_of_vecIn hin 0x130)).trans ?_
  dsimp only
  rw [activeLanes_nonempty hact, hd]
  rfl

end

/-! ### Conversion (R150) -/

section

/-- Of `m` lanes, each in the narrower register at its place in the part that is named: the lane of D, of `wd` bits, that the `j`th is, and
the lane of A, of `ws` bits, that lane `i` of D comes from. -/
def cvtDest (ws wd part m j : Nat) : Nat := if wd < ws then part * m + j else j
def cvtSource (ws wd part m i : Nat) : Nat := if wd < ws then i - part * m else part * m + i

variable {ws wd part m i : Nat}

theorem cvtSource_cvtDest (ws wd part m j : Nat) :
    (cvtSource ws wd part m (cvtDest ws wd part m j), cvtDest ws wd part m j) = if wd < ws then (j, part * m + j) else (part * m + j, j) := by
  unfold cvtSource cvtDest
  split
  · rw [Nat.add_sub_cancel_left]
  · rfl

/-- The lanes of D that a conversion writes. -/
def cvtLanes (ws wd part m : Nat) : List Nat := (List.range m).map (cvtDest ws wd part m)

theorem mem_cvtLanes : i ∈ cvtLanes ws wd part m ↔ (wd < ws → part * m ≤ i ∧ i < part * m + m) ∧ (i < m ∨ wd < ws) := by
  unfold cvtLanes cvtDest
  rw [List.mem_map]
  simp only [List.mem_range]
  split
  next h =>
    simp only [h, or_true, and_true, true_imp_iff]
    exact ⟨fun ⟨j, hj, he⟩ => by omega, fun hi => ⟨i - part * m, by omega, by omega⟩⟩
  next h =>
    simp only [h, or_false, false_imp_iff, true_and]
    exact ⟨fun ⟨j, hj, he⟩ => he ▸ hj, fun hi => ⟨i, hi, rfl⟩⟩

/-- Where the part lies in the narrower register, so do the lanes that are written. -/
theorem lt_of_mem_cvtLanes (hd : 0 < wd) (hdvd : wd ≤ ws → wd ∣ ws) (hpart : part * min ws wd < max ws wd)
    (h : i ∈ cvtLanes ws wd part (512 / max ws wd)) : i < 512 / wd := by
  rw [mem_cvtLanes] at h
  by_cases hlt : wd < ws
  · obtain ⟨c, rfl⟩ := hdvd hlt.le
    rw [max_eq_left hlt.le] at h hpart
    rw [min_eq_right hlt.le, Nat.mul_comm part, Nat.mul_lt_mul_left hd] at hpart
    refine (h.1 hlt).2.trans_le ?_
    rw [← Nat.succ_mul, ← Nat.div_div_eq_div_mul]
    exact (Nat.mul_le_mul_right _ hpart).trans (Nat.mul_div_le _ _)
  · rw [max_eq_right (Nat.not_lt.1 hlt)] at h
    exact h.2.resolve_right hlt

end

section

variable {f : Fields} {s : State} {d : BitVec 5}

/-- Conv of the lane of A that lane `i` of D comes from. -/
def vcvtLane (f : Fields) (s : State) (src i : Nat) : Flagged :=
  convLane f.ty src (f.md.toNat % 4) (lane ((s.ctx s.cur).getV (opndNum f.a)) (tyWidth src)
    (cvtSource (tyWidth src) (tyWidth f.ty) (f.imm.toNat % 8) (512 / max (tyWidth src) (tyWidth f.ty)) i))

/-- The lanes of D that VCVT writes. -/
def vcvtLanes (f : Fields) (s : State) (src : Nat) : List Nat :=
  (cvtLanes (tyWidth src) (tyWidth f.ty) (f.imm.toNat % 8) (512 / max (tyWidth src) (tyWidth f.ty))).filter (s.guardBit f)

theorem mem_vcvtLanes {src i : Nat} : i ∈ vcvtLanes f s src ↔ s.guardBit f i = true ∧
    (tyWidth f.ty < tyWidth src → f.imm.toNat % 8 * (512 / max (tyWidth src) (tyWidth f.ty)) ≤ i ∧
      i < f.imm.toNat % 8 * (512 / max (tyWidth src) (tyWidth f.ty)) + 512 / max (tyWidth src) (tyWidth f.ty)) ∧
    (i < 512 / max (tyWidth src) (tyWidth f.ty) ∨ tyWidth f.ty < tyWidth src) := by
  rw [vcvtLanes, List.mem_filter, mem_cvtLanes, and_comm]

/-- D with these lanes written, and their flags. -/
def vcvtResult (f : Fields) (s : State) (src : Nat) : VReg × Nat :=
  writeLanes (tyWidth f.ty) (s.vReg f.d) (vcvtLanes f s src) (vcvtLane f s src)

theorem vcvtBody_eq {src : Nat} (hsrc : src = f.md.toNat / 8 % 16) : vcvtBody f s =
    done ((s.setVD f.d (vcvtResult f s src).1).modCtx s.cur (fun c => c.orFlags (vcvtResult f s src).2)) := by
  have hpart : f.im 0 3 = f.imm.toNat % 8 := fld_zero _ 3
  have hrm : f.mod 0 2 = f.md.toNat % 4 := fld_zero _ 2
  have hmod : f.mod 3 4 = src := hsrc.symm
  unfold vcvtBody
  rw [hpart, hrm, hmod, vcvtResult, vcvtLanes, cvtLanes, writeLanes, List.foldl_filter, List.foldl_map]
  simp only [← cvtSource_cvtDest]
  rfl

theorem exec_vcvt {src : Nat} (hd : f.d = .v d) (hsrc : src = f.md.toNat / 8 % 16) : ∃ t, exec (.vcvt f) s = .next t ∧
    s.GoesOn t s.cur (addFlags (vcvtResult f s src).2 ((s.ctx s.cur).setV d.toNat (vcvtResult f s src).1)).advance := by
  have hbody : vcvtBody f s = done ((s.setVD (.v d) (vcvtResult f s src).1).modCtx s.cur (fun c => c.orFlags (vcvtResult f s src).2)) :=
    hd ▸ vcvtBody_eq hsrc
  exact exec_of_vecBody_setV (body := vcvtBody f) rfl rfl hbody

end

/-- Settles O22: the moves by the places that their lanes are read from, VCMP by its mask, VCVT by the lanes that it writes. -/
theorem vectorMoves : Obligations.VectorMoves := by
  intro f s u a b hty
  dsimp only
  refine ⟨fun d hd hin => ⟨writesLanes_vsel hin hd, writesLanes_vperm hin hd⟩, fun d x hd hx => writesLanes_vbcast hd hx,
    fun d x hd ha hb hbound => writesLanes_vslide ha hd hb hbound, fun d g hd hb ha => writesLanes_vcompress ha hd hb,
    fun d g hd ha => writesLanes_viota hd ha, fun x hg ha hb hbound => exec_vmovc ha hg hty hb hbound,
    fun d x y hd hg ha hb => ⟨_, does_vins hd hg ha hb, fun j hj => ?vins⟩, fun g hd hin hact => ?vcmp, fun d src hd hsrc hle hpart => ?vcvt⟩
  case vins => rw [lane_setLane _ (Nat.mod_lt _ (lanes_pos hty)), Nat.mod_mod]
  case vcmp =>
    obtain ⟨t, ht, hgo⟩ := exec_vcmp hd hin hact
    refine ⟨t, _, _, ht, hgo, fun j hj => ?_, fun k => ?_⟩
    · rw [BitVec.getLsbD_ofNat, decide_eq_true hj, Bool.true_and, vcmpLanes, testBit_mask_compareLanes, laneCompare_eq hty]
    · rw [vcmpLanes, testBit_flags_compareLanes]
      simp only [laneCompare_eq hty]
  case vcvt =>
    obtain ⟨t, ht, hgo⟩ := exec_vcvt (s := s) hd hsrc
    have hlt (i : Nat) (hi : i ∈ vcvtLanes f s src) : i < 512 / tyWidth f.ty :=
      lt_of_mem_cvtLanes (tyWidth_pos_of_le hty) (tyWidth_dvd hty hle) hpart (List.mem_of_mem_filter hi)
    have hold : s.vReg f.d = (s.ctx s.cur).getV d.toNat := by
      rw [hd]
      rfl
    refine ⟨t, _, _, ht, hgo, fun i hi => ?_, fun k => ?_⟩
    · rw [vcvtResult, lane_writeLanes hlt, hold]
      refine if_congr ?_ rfl rfl
      rw [mem_vcvtLanes, Bool.and_eq_true, Bool.and_eq_true, decide_eq_true_eq, decide_eq_true_eq, and_assoc]
    · rw [vcvtResult, testBit_flags_writeLanes]
      refine exists_congr fun i => ?_
      rw [decide_eq_true_eq]
      refine ⟨fun ⟨hi, hk⟩ => ?_, fun ⟨_, hg, hp, hm, hk⟩ => ⟨mem_vcvtLanes.2 ⟨hg, hp, hm⟩, hk⟩⟩
      obtain ⟨hg, hp, hm⟩ := mem_vcvtLanes.1 hi
      exact ⟨hlt i hi, hg, hp, hm, hk⟩

end Sys2Proof.Machine
end

section
/-! # Vector reductions, scans and dot products (O23)

An integer reduction is a fold of patterns, and the claim's a fold of their values. The value of a pattern carries the one to the other, step by
step; a lane that the guard leaves out counts as the identity, which changes no value. -/

namespace Sys2Proof.Machine

open Sys2Proof.Claims

/-! ### Values of a type (R88) -/

section

variable {ty : Nat}

/-- The least and the greatest value of a type. -/
def valMin (ty : Nat) : Int := if ty < 4 then -(2 ^ (tyWidth ty - 1)) else 0
def valMax (ty : Nat) : Int := if ty < 4 then 2 ^ (tyWidth ty - 1) - 1 else 2 ^ tyWidth ty - 1

theorem valMin_le_val (ty x : Nat) : valMin ty ≤ val ty x := by
  rw [valMin, val]
  split
  · exact BitVec.le_toInt _
  · exact Int.natCast_nonneg _

theorem val_le_valMax (ty x : Nat) : val ty x ≤ valMax ty := by
  rw [valMax, val]
  split
  · exact Int.le_sub_one_of_lt BitVec.toInt_lt
  · have h := (BitVec.ofNat (tyWidth ty) x).isLt
    have hcast : (((BitVec.ofNat (tyWidth ty) x).toNat : Nat) : Int) < 2 ^ tyWidth ty := by exact_mod_cast h
    omega

theorem clamp_val (ty x : Nat) : clamp ty (val ty x) = val ty x := by
  have hlo := valMin_le_val ty x
  have hhi := val_le_valMax ty x
  unfold valMin at hlo
  unfold valMax at hhi
  rw [clamp]
  split at hlo
  next h => rw [if_pos h] at hhi ⊢; omega
  next h => rw [if_neg h] at hhi ⊢; omega

theorem narrow_val (f : Fields) (x : Nat) : narrow f (val f.ty x) = x % 2 ^ tyWidth f.ty := by
  rw [narrow, clamp_val, ite_self, ofInt_val, BitVec.toNat_ofNat]

theorem narrow_mod (f : Fields) (x : Int) : narrow f x % 2 ^ tyWidth f.ty = narrow f x := Nat.mod_eq_of_lt (BitVec.isLt _)

end

/-! ### Reductions of integers (R153) -/

/-- The step of a reduction of values, and its identity. -/
def reduceOp (ty red : Nat) (x y : Int) : Int :=
  match red with
  | 0 => x + y
  | 1 => min x y
  | 2 => max x y
  | 3 => val ty ((BitVec.ofInt (tyWidth ty) x &&& BitVec.ofInt (tyWidth ty) y).toNat)
  | 4 => val ty ((BitVec.ofInt (tyWidth ty) x ||| BitVec.ofInt (tyWidth ty) y).toNat)
  | _ => val ty ((BitVec.ofInt (tyWidth ty) x ^^^ BitVec.ofInt (tyWidth ty) y).toNat)
def reduceUnit (ty red : Nat) : Int :=
  match red with
  | 1 => valMax ty
  | 2 => valMin ty
  | 3 => if ty < 4 then -1 else 2 ^ tyWidth ty - 1
  | _ => 0

/-- The step of a reduction of patterns, where it is not a sum. -/
def reducePat (ty red x y : Nat) : Nat :=
  match red with
  | 1 => if decide (tyVal ty x ≤ tyVal ty y) then x else y
  | 2 => if decide (tyVal ty y ≤ tyVal ty x) then x else y
  | 3 => x &&& y
  | 4 => x ||| y
  | _ => x ^^^ y

section

variable {ty red : Nat} (hty : ty < 8)

include hty

theorem val_intIdentity (hred : red < 6) : val ty (intIdentity ty red) = reduceUnit ty red := by
  have hall : ∀ t < 8, ∀ r < 6, val t (intIdentity t r) = reduceUnit t r := by decide +kernel
  exact hall ty hty red hred

/-- A step on patterns is the step on their values. -/
theorem reduceOp_val (hred : red < 6) (h0 : red ≠ 0) (x y : Nat) : reduceOp ty red (val ty x) (val ty y) = val ty (reducePat ty red x y) := by
  have hbits (x : Nat) : val ty (BitVec.ofNat (tyWidth ty) x).toNat = val ty x := by rw [BitVec.toNat_ofNat, val_mod_two_pow]
  match red, hred, h0 with
  | 1, _, _ =>
    rw [reducePat, tyVal_eq_val hty, tyVal_eq_val hty, reduceOp]
    simp only [decide_eq_true_eq, apply_ite (val ty)]
    exact min_def _ _
  | 2, _, _ =>
    rw [reducePat, tyVal_eq_val hty, tyVal_eq_val hty, reduceOp]
    simp only [decide_eq_true_eq, apply_ite (val ty)]
    exact (max_comm _ _).trans (max_def _ _)
  | 3, _, _ => rw [reduceOp, ofInt_val, ofInt_val, ← BitVec.ofNat_and, hbits, reducePat]
  | 4, _, _ => rw [reduceOp, ofInt_val, ofInt_val, ← BitVec.ofNat_or, hbits, reducePat]
  | 5, _, _ =>
    show val ty (BitVec.ofInt (tyWidth ty) (val ty x) ^^^ BitVec.ofInt (tyWidth ty) (val ty y)).toNat = val ty (x ^^^ y)
    rw [ofInt_val, ofInt_val, ← BitVec.ofNat_xor, hbits]

/-- What a reduction has gathered: any sum, or otherwise the value of a pattern. -/
def Gathered (ty red : Nat) (x : Int) : Prop := red = 0 ∨ ∃ m, x = val ty m

variable (hred : red < 6)

include hred

theorem gathered_unit : Gathered ty red (reduceUnit ty red) := .inr ⟨_, (val_intIdentity hty hred).symm⟩

theorem Gathered.step {x : Int} (h : Gathered ty red x) (m : Nat) : Gathered ty red (reduceOp ty red x (val ty m)) := by
  obtain h0 | ⟨k, rfl⟩ := h
  · exact .inl h0
  · by_cases h0 : red = 0
    · exact .inl h0
    · exact .inr ⟨_, reduceOp_val hty hred h0 k m⟩

/-- The identity changes nothing. -/
theorem Gathered.reduceOp_unit {x : Int} (h : Gathered ty red x) : reduceOp ty red x (reduceUnit ty red) = x := by
  obtain rfl | h0 := Nat.eq_zero_or_pos red
  · exact Int.add_zero x
  obtain ⟨m, rfl⟩ := h.resolve_left h0.ne'
  match red, hred, h0 with
  | 1, _, _ => exact min_eq_left (val_le_valMax ty m)
  | 2, _, _ => exact max_eq_left (valMin_le_val ty m)
  | 3, hr, h0 =>
    rw [← val_intIdentity hty hr, reduceOp_val hty hr h0.ne']
    show val ty (m &&& (2 ^ tyWidth ty - 1)) = val ty m
    rw [Nat.and_two_pow_sub_one_eq_mod, val_mod_two_pow]
  | 4, hr, h0 =>
    rw [← val_intIdentity hty hr, reduceOp_val hty hr h0.ne']
    exact congrArg (val ty) (Nat.or_zero m)
  | 5, hr, h0 =>
    rw [← val_intIdentity hty hr, reduceOp_val hty hr h0.ne']
    exact congrArg (val ty) (Nat.xor_zero m)

/-- The lanes that are left out count as the identity. -/
theorem foldl_filter_eq (p : Nat → Bool) (v : Nat → Nat) (l : List Nat) {x : Int} (hx : Gathered ty red x) :
    ((l.filter p).map (fun i => val ty (v i))).foldl (reduceOp ty red) x =
      (l.map (fun i => if p i then val ty (v i) else reduceUnit ty red)).foldl (reduceOp ty red) x := by
  induction l generalizing x with
  | nil => rfl
  | cons i l ih =>
    rw [List.map_cons, List.foldl_cons]
    cases hp : p i with
    | true =>
      rw [List.filter_cons_of_pos hp, List.map_cons, List.foldl_cons, if_pos rfl]
      exact ih (hx.step hty hred (v i))
    | false =>
      rw [List.filter_cons_of_neg (by rw [hp]; exact Bool.false_ne_true), if_neg Bool.false_ne_true, hx.reduceOp_unit hty hred]
      exact ih hx

omit hty in
/-- A reduction of patterns that is no sum. -/
theorem intReduce_eq_foldl (h0 : red ≠ 0) (sat : Bool) (xs : List Nat) :
    intReduce ty red sat xs = xs.foldl (reducePat ty red) (intIdentity ty red) := by
  match red, hred, h0 with
  | 1, _, _ | 2, _, _ | 3, _, _ | 4, _, _ | 5, _, _ => rfl

theorem val_intReduce (h0 : red ≠ 0) (sat : Bool) (xs : List Nat) :
    val ty (intReduce ty red sat xs) = (xs.map (val ty)).foldl (reduceOp ty red) (reduceUnit ty red) := by
  rw [intReduce_eq_foldl hred h0, ← val_intIdentity hty hred, List.foldl_map]
  exact (List.foldl_hom (val ty) fun x y => reduceOp_val hty hred h0 x y).symm

end

section

variable {f : Fields} {red : Nat} (hty : f.ty < 8) (hred : red < 6)

include hty hred

/-- The bits of a reduction are those of the reduction of the values: a sum is narrowed, and all else is a value of the type. -/
theorem intReduce_mod (xs : List Nat) : intReduce f.ty red (satOf f) xs % 2 ^ tyWidth f.ty =
    narrow f ((xs.map (val f.ty)).foldl (reduceOp f.ty red) (reduceUnit f.ty red)) := by
  by_cases h0 : red = 0
  · subst h0
    have hsum : intReduce f.ty 0 (satOf f) xs = narrow f ((xs.map (val f.ty)).foldl (· + ·) 0) := by
      rw [← laneNarrow_eq_narrow, ← funext (tyVal_eq_val hty)]
      rfl
    rw [hsum]
    exact narrow_mod f _
  · rw [← val_intReduce hty hred h0 (satOf f), narrow_val]

/-- The reduction over the lanes that are selected (R153). -/
theorem intReduce_filter_mod (p : Nat → Bool) (v : Nat → Nat) (l : List Nat) :
    intReduce f.ty red (satOf f) ((l.filter p).map v) % 2 ^ tyWidth f.ty =
      narrow f ((l.map (fun i => if p i then val f.ty (v i) else reduceUnit f.ty red)).foldl (reduceOp f.ty red) (reduceUnit f.ty red)) := by
  rw [intReduce_mod hty hred, List.map_map, ← foldl_filter_eq hty hred p v l (gathered_unit hty hred)]
  rfl

/-- The reduction in which the others are the identity's pattern (R154). -/
theorem intReduce_identity_mod (p : Nat → Bool) (v : Nat → Nat) (l : List Nat) :
    intReduce f.ty red (satOf f) (l.map (fun i => if p i then v i else intIdentity f.ty red)) % 2 ^ tyWidth f.ty =
      narrow f ((l.map (fun i => if p i then val f.ty (v i) else reduceUnit f.ty red)).foldl (reduceOp f.ty red) (reduceUnit f.ty red)) := by
  rw [intReduce_mod hty hred, List.map_map]
  simp only [Function.comp_def, apply_ite (val f.ty), val_intIdentity hty hred]

end

/-! ### VRED and VSCAN (R153, R154) -/

/-- Lanes hold the low bits of what is written to them. -/
theorem writesLanes_of_mod_eq {i : Instr} {s u : State} {f : Fields} {n : Nat} {g g' : Nat → Nat × Nat} (h : writesLanes i s u f n g)
    (hg : ∀ j, (g j).1 % 2 ^ n = (g' j).1 % 2 ^ n ∧ (g j).2 = (g' j).2) : writesLanes i s u f n g' := by
  obtain ⟨t, r, fl, d, hd, ht, hlanes, hflags, hgo⟩ := h
  refine ⟨t, r, fl, d, hd, ht, fun j hj => ?_, fun k => ?_, hgo⟩
  · rw [hlanes j hj, (hg j).1]
  · simp only [hflags k, (hg _).2]

/-- The lanes of a floating-point reduction, in FP32 (R153). -/
def redLanes (f : Fields) (s : State) (a : VReg) : List Nat :=
  (List.range (512 / tyWidth f.ty)).map (fun i => floatLane f.ty (f.md.toNat % 8) (s.guardBit f i) (lane a (tyWidth f.ty) i))

section

variable {f : Fields} {s u : State} {a : VReg} {d : BitVec 5} (ha : vecInA s f u a)

include ha

theorem exec_vred_float (hty : f.ty = 8 ∨ f.ty = 9) (hact : ∃ j < 512 / tyWidth f.ty, s.guardBit f j = true) {r : Flagged}
    (hr : floatEnd f.ty (halving (floatStep (f.md.toNat % 8)) (if f.ty = 9 then 5 else 4) (redLanes f s a) 0) = r) :
    ∃ t, exec (.vred f) s = .next t ∧ u.GoesOn t s.cur (addFlags r.2 (putC f.d (Claims.word r.1) (u.ctx s.cur))).advance := by
  refine exec_of_vecBody_putC_flags (body := vredBody f) rfl (cur_of_vecInA ha) ?_
  rw [← hr, ← CReg.word_eq, ← Fields.mod_zero_three]
  unfold vredBody
  refine (Exec.bind_of_ok (ha 0x150)).trans ?_
  dsimp only
  rw [activeLanes_nonempty hact, tyFloat_of_float hty, redLanes, ← Fields.mod_zero_three]
  rfl

theorem exec_vred_int (hty : f.ty < 8) (hred : f.md.toNat % 8 < 6) (hact : ∃ j < 512 / tyWidth f.ty, s.guardBit f j = true) :
    ∃ t, exec (.vred f) s = .next t ∧ u.GoesOn t s.cur (putC f.d (reg f.ty (val f.ty (narrow f
      (((List.range (512 / tyWidth f.ty)).map (fun i => if s.guardBit f i then val f.ty (lane a (tyWidth f.ty) i)
        else reduceUnit f.ty (f.md.toNat % 8))).foldl (reduceOp f.ty (f.md.toNat % 8)) (reduceUnit f.ty (f.md.toNat % 8))))))
      (u.ctx s.cur)).advance := by
  refine exec_of_vecBody_putC (body := vredBody f) rfl (cur_of_vecInA ha) ?_
  rw [← intReduce_filter_mod hty hred, val_mod_two_pow, ← ofTy_eq_reg_val (by omega), ← Fields.mod_zero_three]
  unfold vredBody
  refine (Exec.bind_of_ok (ha 0x150)).trans ?_
  dsimp only
  rw [activeLanes_nonempty hact, tyFloat_of_lt hty]
  rfl

variable (hd : f.d = .v d)

include hd

theorem writesLanes_vscan_float (hty : f.ty = 8 ∨ f.ty = 9) : writesLanes (.vscan f) s u f (tyWidth f.ty) (fun i =>
    floatEnd f.ty ((scanSteps (floatStep (f.md.toNat % 8)) (if f.ty = 9 then 5 else 4) 1 ((redLanes f s a).map (fun x => (x, 0)))).getD i (0, 0))) := by
  refine writesLanes_of_vecDone (body := vscanBody f) rfl hd (cur_of_vecInA ha) ?_
  rw [redLanes, List.map_map, ← Fields.mod_zero_three]
  unfold vscanBody
  refine (Exec.bind_of_ok (ha 0x151)).trans ?_
  dsimp only
  rw [tyFloat_of_float hty]
  rfl

theorem writesLanes_vscan_int (hty : f.ty < 8) (hred : f.md.toNat % 8 < 6) : writesLanes (.vscan f) s u f (tyWidth f.ty) (fun i =>
    (narrow f (((List.range (i + 1)).map (fun j => if s.guardBit f j then val f.ty (lane a (tyWidth f.ty) j)
      else reduceUnit f.ty (f.md.toNat % 8))).foldl (reduceOp f.ty (f.md.toNat % 8)) (reduceUnit f.ty (f.md.toNat % 8))), 0)) := by
  have hbody : vscanBody f s = u.vecDone s f (tyWidth f.ty) (fun i => (intReduce f.ty (f.md.toNat % 8) (satOf f) ((List.range (i + 1)).map
      (fun j => if s.guardBit f j then lane a (tyWidth f.ty) j else intIdentity f.ty (f.md.toNat % 8))), 0)) := by
    rw [← Fields.mod_zero_three]
    unfold vscanBody
    refine (Exec.bind_of_ok (ha 0x151)).trans ?_
    dsimp only
    rw [tyFloat_of_lt hty]
    rfl
  refine writesLanes_of_mod_eq (writesLanes_of_vecDone rfl hd (cur_of_vecInA ha) hbody) fun i => ⟨?_, rfl⟩
  rw [narrow_mod]
  exact intReduce_identity_mod hty hred _ _ _

end

/-! ### VDOT (R155) -/

/-- A byte of a lane of 32 bits is a lane of 8 bits. -/
theorem fld_lane (x : VReg) (j : Nat) {k : Nat} (hk : k < 4) : fld (lane x 32 j) (8 * k) 8 = lane x 8 (4 * j + k) := by
  refine Nat.eq_of_testBit_eq fun i => ?_
  rw [testBit_fld, testBit_lane, testBit_lane]
  by_cases hi : i < 8
  · rw [decide_eq_true (by omega : 8 * k + i < 32), Bool.true_and]
    congr 2
    omega
  · rw [decide_eq_false hi, Bool.false_and, Bool.false_and]

section

variable {f : Fields} {s u : State} {a b : VReg} {d : BitVec 5}

theorem writesLanes_vdot (hin : vecIn s f 32 f.imm.toNat u a b) (hd : f.d = .v d) : writesLanes (.vdot f) s u f 32 (fun j =>
    if f.ty = 9 then dotBf16 (lane a 32 j) (lane b 32 j) (lane ((s.ctx s.cur).getV d.toNat) 32 j)
    else (dotInt f (lane a 32 j) (lane b 32 j) (lane ((s.ctx s.cur).getV d.toNat) 32 j), 0)) := by
  have hold : s.vReg f.d = (s.ctx s.cur).getV d.toNat := by
    rw [hd]
    rfl
  refine writesLanes_of_vecDone (body := vdotBody f) rfl hd (cur_of_vecIn hin) ?_
  rw [← hold]
  exact Exec.bind_of_ok (hin 0x152)

/-- The product of two bytes, which R155 reads by the type and by MOD[5]. -/
def dotTerm (f : Fields) (a b : VReg) (j k : Nat) : Int :=
  val f.ty (lane a 8 (4 * j + k)) * val (if f.md.getLsbD 5 then 4 else f.ty) (lane b 8 (4 * j + k))

theorem dotInt_eq (hty : f.ty = 0 ∨ f.ty = 4) (a b : VReg) (j z : Nat) : dotInt f (lane a 32 j) (lane b 32 j) z =
    (let ty := if f.ty = 0 then 2 else 6
     let x := val ty z + (dotTerm f a b j 0 + dotTerm f a b j 1 + dotTerm f a b j 2 + dotTerm f a b j 3)
     (BitVec.ofInt 32 (if f.md.getLsbD 6 then clamp ty x else x)).toNat) := by
  have h8 : f.ty < 8 := by omega
  have hb8 : (if f.md.getLsbD 5 then 4 else f.ty) < 8 := by split <;> omega
  have hsgn : (if f.mod 5 1 = 1 then 4 else f.ty) = if f.md.getLsbD 5 then 4 else f.ty := by simp only [← Fields.mod_one, beq_iff_eq]
  have hterm {k : Nat} (hk : k < 4) : tyVal f.ty (fld (lane a 32 j) (8 * k) 8) *
      tyVal (if f.mod 5 1 = 1 then 4 else f.ty) (fld (lane b 32 j) (8 * k) 8) = dotTerm f a b j k := by
    rw [hsgn, fld_lane a j hk, fld_lane b j hk, tyVal_eq_val h8, tyVal_eq_val hb8, dotTerm]
  have hsum : (List.range 4).foldl (fun acc k => acc + tyVal f.ty (fld (lane a 32 j) (8 * k) 8) *
      tyVal (if f.mod 5 1 = 1 then 4 else f.ty) (fld (lane b 32 j) (8 * k) 8)) 0 =
        dotTerm f a b j 0 + dotTerm f a b j 1 + dotTerm f a b j 2 + dotTerm f a b j 3 := by
    rw [← hterm (by decide : 0 < 4), ← hterm (by decide : 1 < 4), ← hterm (by decide : 2 < 4), ← hterm (by decide : 3 < 4)]
    exact congrArg (· + _ + _ + _) (Int.zero_add _)
  have hacc : (if f.ty = 0 then 2 else 6) < 8 := by split <;> decide
  have hwidth : tyWidth (if f.ty = 0 then 2 else 6) = 32 := by split <;> rfl
  dsimp only [dotInt]
  rw [hsum, laneNarrow_eq, satOf_eq, tyVal_eq_val hacc, hwidth]

end

/-- Settles O23: a reduction of patterns is that of their values, the floating-point ones are the model's steps, and a byte of a lane of 32 bits
is a lane of 8 bits. -/
theorem vectorReductions : Obligations.VectorReductions := by
  refine ⟨fun f s u a b hty => ?float, fun f s u a b hty => ?int⟩
  case float =>
    dsimp only
    refine ⟨fun ha hact => exec_vred_float ha hty hact rfl, fun d hd ha => writesLanes_vscan_float ha hd hty, fun d hd h9 hin => ?_⟩
    have hdot := writesLanes_vdot hin hd
    simp only [h9, if_true] at hdot
    exact hdot
  case int =>
    dsimp only
    refine ⟨fun hred ha hact => exec_vred_int ha hty hred hact, fun d hd hred ha => writesLanes_vscan_int ha hd hty hred, fun d hd h8 hin => ?_⟩
    have hdot := writesLanes_vdot hin hd
    have h9 : f.ty ≠ 9 := by omega
    simp only [if_neg h9, dotInt_eq h8] at hdot
    exact hdot

end Sys2Proof.Machine
end

section
/-! # Bytes and tags after a store (R6, R159, R167)

A number is stored byte by byte, the least significant first; the tags of the granules that it touches are cleared, and a tagged value sets its own. -/

namespace Sys2Proof

theorem getD_natToBytes {n i : Nat} (x : Nat) (h : i < n) : (natToBytes n x).getD i 0 = BitVec.ofNat 8 (x / 256 ^ i) := by
  induction n generalizing x i with
  | zero => exact absurd h (Nat.not_lt_zero i)
  | succ n ih =>
    cases i with
    | zero =>
      rw [natToBytes, List.getD_cons_zero, pow_zero, Nat.div_one]
      exact BitVec.eq_of_toNat_eq (by simp only [BitVec.toNat_ofNat]; omega)
    | succ i => rw [natToBytes, List.getD_cons_succ, ih _ (Nat.lt_of_succ_lt_succ h), Nat.div_div_eq_div_mul, ← Nat.pow_succ']

theorem NatSet.mem_insert {m : NatSet} {i j : Nat} : j ∈ NatSet.insert m i ↔ j = i ∨ j ∈ m := by
  fun_induction NatSet.insert m i <;> grind

namespace Machine

open Sys2Proof.Claims

section

variable {s t u : State} {k a n x g : Nat} {c : Ctx}

theorem State.read_eq_le (s : State) (a n : Nat) : s.read a n = le s a n := bytesToNat_map _ _

theorem State.GoesOn.byte_eq (h : s.GoesOn t k c) (i : Nat) : t.byte i = s.byte i := congrArg (readByte · i) h.mem_eq

theorem State.GoesOn.tagAt_eq (h : s.GoesOn t k c) (g : Nat) : t.tagAt g = s.tagAt g := by
  obtain ⟨h1, -⟩ := h
  rw [h1]
  rfl

/-! ### Bytes -/

theorem stored_storeBytes (s : State) (a n x : Nat) : stored s (s.storeBytes a (natToBytes n x)) a n x := by
  intro i
  split
  next h =>
    obtain ⟨k, rfl⟩ := Nat.exists_eq_add_of_le h.1
    have hk : k < n := by omega
    rw [Nat.add_sub_cancel_left, ← getD_natToBytes x hk]
    exact readByte_writeBytes_inside _ _ _ _ (by rwa [natToBytes_length])
  next h => exact s.byte_storeBytes_outside a i _ (by rw [natToBytes_length]; omega)

theorem stored_write (s : State) (a n x : Nat) : stored s (s.write a n x) a n x := stored_storeBytes s a n x

theorem State.byte_writeTagged (s : State) (a : Nat) (r : CReg) (i : Nat) : (s.writeTagged a r).byte i = (s.write a 16 r.val.toNat).byte i := by
  unfold State.writeTagged
  dsimp only
  split <;> rfl

theorem stored_writeTagged (s : State) (a : Nat) (r : CReg) : stored s (s.writeTagged a r) a 16 r.val.toNat := fun i =>
  (s.byte_writeTagged a r i).trans (stored_write s a 16 _ i)

theorem stored_of_goesOn (h : stored s t a n x) (hgo : t.GoesOn u k c) : stored s u a n x := fun i => (hgo.byte_eq i).trans (h i)

/-! ### Tags -/

theorem State.tagAt_write (hn : 0 < n) :
    (s.write a n x).tagAt g = true ↔ s.tagAt g = true ∧ ¬(a / 16 ≤ g / 16 ∧ g / 16 ≤ (a + n - 1) / 16) := by
  show (clearTags s.tags a (natToBytes n x).length).contains (g / 16) = true ↔ _
  rw [natToBytes_length, clearTags, if_neg hn.ne', State.tagAt, List.contains_iff_mem, List.contains_iff_mem, List.mem_filter, Bool.not_eq_true',
    ← Bool.decide_and, decide_eq_false_iff_not]

theorem State.tagAt_writeTagged (s : State) (a : Nat) (r : CReg) (g : Nat) : (s.writeTagged a r).tagAt g = true ↔
    (r.tag = true ∧ g / 16 = a / 16) ∨ (s.write a 16 r.val.toNat).tagAt g = true := by
  unfold State.writeTagged
  dsimp only
  split
  next h =>
    rw [State.tagAt, State.tagAt, List.contains_iff_mem, List.contains_iff_mem, NatSet.mem_insert, and_iff_right h]
  next h => exact (or_iff_right fun h' => h h'.1).symm

theorem State.tagAt_writeTagged_self (s : State) (a : Nat) (r : CReg) : (s.writeTagged a r).tagAt a = r.tag := by
  have hcovered : a / 16 ≤ a / 16 ∧ a / 16 ≤ (a + 16 - 1) / 16 := by omega
  rw [Bool.eq_iff_iff, State.tagAt_writeTagged, State.tagAt_write (by decide)]
  exact ⟨fun h => h.elim (·.1) fun h' => absurd hcovered h'.2, fun h => .inl ⟨h, rfl⟩⟩

theorem State.tagAt_writeTagged_of_ne (s : State) {a : Nat} (r : CReg) (ha : a % 16 = 0) (h : g / 16 ≠ a / 16) :
    (s.writeTagged a r).tagAt g = s.tagAt g := by
  have hfar : ¬(a / 16 ≤ g / 16 ∧ g / 16 ≤ (a + 16 - 1) / 16) := by omega
  rw [Bool.eq_iff_iff, State.tagAt_writeTagged, State.tagAt_write (by decide), or_iff_right fun h' => h h'.2, and_iff_left hfar]

end

end Machine
end Sys2Proof
end

section
/-! # LD, LDC, LDV and GATH (O26)

A load reads memory as it stood, notes its access, and then writes D; one that meets an error writes D all the same and traps after it. -/

namespace Sys2Proof.Machine

open Sys2Proof.Claims

/-! ### Accesses -/

section

variable {s t u : State} {k n : Nat} {rq : Req} {r : CReg} {o : Opnd} {off : Int} {tagged permG : Bool} {l : Loc} {c : Ctx}

theorem Answers.raceCheck_of_unchecked {st : Bool} (h : l.chk = false) : Answers (fun t => t = s) (s.raceCheck k rq l n st) := by
  rw [State.raceCheck, h]
  exact Eq.refl s

/-- An access of a page that is not checked for races records nothing (R254). -/
theorem Answers.memAccess_unchecked : Answers (fun x => x.2.chk = false → x.1 = s) (Machine.memAccess s k rq r off tagged permG) := by
  refine (Answers.any _).bind fun _ _ => (Answers.any _).bind fun l _ => (Answers.any _).bind fun _ _ => (Answers.any _).bind fun _ _ => ?_
  by_cases h : l.chk = false
  · exact (Answers.raceCheck_of_unchecked h).bind fun _ ht => (Answers.any _).bind fun _ _ _ => ht
  · exact (Answers.any _).bind fun _ _ => (Answers.any _).bind fun _ _ h' => absurd h' h

theorem State.mem_noteAccess_of_notSampled {kind : Nat} (h : notSampled s) : (s.noteAccess s.cur l kind).mem = s.mem := by
  have hcount (u : State) : u = s.countPage (coreOf s.cur) l.page ∨ u = s →
      bitAt (u.drover (u.paddockOf (coreOf s.cur))).sampcfg.toNat 0 = false ∧ u.mem = s.mem := by
    rintro (rfl | rfl)
    · exact ⟨(bitAt_toNat _ _).trans h, rfl⟩
    · exact ⟨(bitAt_toNat _ _).trans h, rfl⟩
  unfold State.noteAccess
  split
  · rfl
  · extract_lets co v p cfg picked
    obtain ⟨hcfg, hmem⟩ := hcount v (ite_eq_or_eq _ _ _)
    have hcfg' : bitAt cfg 0 = false := hcfg
    rw [if_pos (by rw [hcfg', Bool.not_false, Bool.or_true, Bool.true_or, Bool.true_or])]
    exact hmem

theorem State.Noted.of_access (h : access s rq o off tagged permG u l) : s.Noted u := Answers.memAccess.of_ok h

theorem cur_of_access {kind : Nat} (h : access s rq o off tagged permG u l) : (u.noteAccess s.cur l kind).cur = s.cur :=
  ((State.Noted.of_access h).trans .noteAccess).cur

/-- An access that is neither checked for races nor sampled leaves every byte as it was. -/
theorem byte_of_access {kind : Nat} (h : access s rq o off tagged permG u l) (hgo : (u.noteAccess s.cur l kind).GoesOn t k c) :
    l.chk = false → notSampled s → ∀ a, t.byte a = s.byte a := by
  intro hchk hsampled a
  obtain rfl : u = s := Answers.memAccess_unchecked.of_ok h hchk
  exact (hgo.byte_eq a).trans (congrArg (readByte · a) (State.mem_noteAccess_of_notSampled hsampled))

end

/-! ### From the answer of a scalar body to what the instruction does -/

/-- A scalar instruction that acts runs its body, as a vector instruction does (R20). -/
theorem exec_eq_runVector {i : Instr} {f : Fields} {body : State → Exec Out} {s : State} (hi : exec i s = runScalar f body s) (hg : acts s f) :
    exec i s = runVector f body s := hi.trans (congrArg Host.Outcome.next (stepScalar_on f body s hg))

/-! ### Loads of a register (R166 to R168) -/

section

variable {f : Fields} {s u : State} {l : Loc} {n op : Nat} {cp : Bool}

/-- A register holds the low bits of what was read (R95, R166). -/
theorem ofTy_eq_reg_natCast {ty : Nat} (h : ty ≤ 9) (x : Nat) : CReg.ofTy ty x = reg ty x := by
  rw [ofTy_eq_reg_val h, reg, reg, ofInt_val, ← BitVec.ofInt_natCast]

theorem loadEnd_of_sound (h : u.poisoned l n = false) : loadEnd u l n = { s := u } := if_neg (by rw [h]; exact Bool.false_ne_true)

theorem loadEnd_of_poisoned (h : u.poisoned l n = true) : loadEnd u l n =
    { s := u.modCore l.core (fun c => { c with quarantined := true }), next := .after MATRIX_CHECK (2 ^ 63 + l.space % 8 * 2 ^ 60 + l.va % 2 ^ 56) } := if_pos h

/-- What an instruction answers, with a further write of its state. -/
def Out.writing (o : Out) (w : State → State) : Out := { o with s := w o.s }

theorem loadAt_of_access (h : access s (loadReq op f n cp) f.a (offs f) false false u l) :
    loadAt op f n cp s = .ok (loadEnd (u.noteAccess s.cur l 0) l n, l) := by
  rw [access, ← offsetOf_eq] at h
  exact Exec.bind_of_ok h

section

variable (h6 : (s.capOpnd f.a).cap.space ≠ 6)

include h6

theorem ldBody_of_access (hty : f.ty ≤ 9) (h : access s (loadReq 0x200 f (tyWidth f.ty / 8) false) f.a (offs f) false false u l) :
    ldBody f s = .ok ((loadEnd (u.noteAccess s.cur l 0) l (tyWidth f.ty / 8)).writing
      (·.setD f.d (reg f.ty (le s l.key (tyWidth f.ty / 8))))) := by
  rw [← State.read_eq_le, ← ofTy_eq_reg_natCast hty]
  exact (if_neg h6).trans (Exec.bind_of_ok (loadAt_of_access h))

theorem ldcBody_of_access (h : access s (loadReq 0x202 f 16 true) f.a (offs f) false false u l) :
    ldcBody f s = .ok ((loadEnd (u.noteAccess s.cur l 0) l 16).writing
      (·.setD f.d ⟨l.tags && s.tagAt l.key, BitVec.ofNat 128 (le s l.key 16)⟩)) := by
  rw [← State.read_eq_le]
  exact (if_neg h6).trans (Exec.bind_of_ok (loadAt_of_access h))

theorem ldvBody_of_access (h : access s (loadReq 0x204 f 64 false) f.a (offs f) false false u l) :
    ldvBody f s = .ok ((loadEnd (u.noteAccess s.cur l 0) l 64).writing
      (·.setVD f.d (BitVec.ofNat 512 (le s l.key 64)))) := by
  rw [← State.read_eq_le]
  exact (if_neg h6).trans (Exec.bind_of_ok (loadAt_of_access h))

end

section

variable {i : Instr} {body : State → Exec Out} {v : State} (hg : acts s f) (hi : exec i s = runScalar f body s) (hcur : v.cur = s.cur)

include hg hi hcur

/-- A sound load whose body writes a c register. -/
theorem exec_load_putC {r : CReg} (hsound : v.poisoned l n = false) (hb : body s = .ok ((loadEnd v l n).writing (·.setD f.d r))) :
    ∃ t, exec i s = .next t ∧ v.GoesOn t s.cur (putC f.d r (v.ctx s.cur)).advance := by
  rw [loadEnd_of_sound hsound] at hb
  exact exec_of_vecBody_putC (exec_eq_runVector hi hg) hcur hb

/-- A sound load whose body writes a v register. -/
theorem exec_load_setV {d : BitVec 5} {x : VReg} (hd : f.d = .v d) (hsound : v.poisoned l n = false)
    (hb : body s = .ok ((loadEnd v l n).writing (·.setVD f.d x))) :
    ∃ t, exec i s = .next t ∧ v.GoesOn t s.cur { v.ctx s.cur with v := (v.ctx s.cur).v.put d.toNat x }.advance := by
  rw [loadEnd_of_sound hsound, Out.writing, hd, State.setVD_v hcur] at hb
  exact exec_of_vecBody_modCtx (exec_eq_runVector hi hg) hb

end

/-- A trap after an effect that writes D: the rest is as the accesses left it (R346). -/
theorem exec_putC_traps_after {i : Instr} {body : State → Exec Out} {z : State} {r : CReg} {cause tval : Nat} (hi : exec i s = runScalar f body s)
    (hg : acts s f) (ht : s.entersTraps) (hz : s.Noted z) (hb : body s = .ok { s := z.setD f.d r, next := .after cause tval }) :
    ∃ t, exec i s = .next t ∧ (∀ n, (t.core n).quarantined = (z.core n).quarantined) ∧ (t.ctx s.cur).c = (putC f.d r (z.ctx s.cur)).c ∧
      (t.ctx s.cur).cause = BitVec.ofNat 64 cause := by
  obtain ⟨htvec, hin, hprobing⟩ := hz.entersTraps ht
  have hD : z.setD f.d r = { z with ctxs := (z.setD f.d r).ctxs } := z.setD_eq _ _
  have hslot : (z.setD f.d r).slotOf s.cur = z.slotOf s.cur := by
    rw [hD]
    rfl
  have hctx : (z.setD f.d r).ctx s.cur = putC f.d r (z.ctx s.cur) := State.ctx_setD_of_cur hz.cur
  have hinD : (putC f.d r (z.ctx s.cur)).inTrap = false := by
    cases f.d with
    | c n => exact (Ctx.setC_inTrap _ _ _).trans hin
    | _ => exact hin
  have hgo := s.finish_after (z.setD f.d r) f cause tval (hslot ▸ htvec) (hctx ▸ hinD) (hslot ▸ hprobing)
  obtain ⟨hc, -, hcause⟩ := ((z.setD f.d r).modCtx s.cur Ctx.advance).ctx_enterTrap s.cur 0 cause tval
  rw [State.ctx_modCtx_self, Ctx.advance_c, hctx] at hc
  refine ⟨_, exec_of_body hi hg hb, fun n => ?_, hgo.ctx_c.trans hc, ?_⟩
  · obtain ⟨-, -, hcore, -, -⟩ := hgo
    rw [hcore, hD]
    rfl
  · obtain ⟨-, -, -, -, hctx'⟩ := hgo
    rw [hctx']
    exact hcause.trans (by rw [Nat.zero_mul, Nat.zero_add])

/-- A load that meets an error writes D, and then traps with MATRIX_CHECK and has quarantined the core of the buffer (R160, log 109). -/
theorem ld_poisoned (h6 : (s.capOpnd f.a).cap.space ≠ 6) (hty : f.ty ≤ 9) (hg : acts s f) (ht : s.entersTraps)
    (h : access s (loadReq 0x200 f (tyWidth f.ty / 8) false) f.a (offs f) false false u l)
    (hp : (u.noteAccess s.cur l 0).poisoned l (tyWidth f.ty / 8) = true) :
    ∃ t, exec (.ld f) s = .next t ∧ (t.core l.core).quarantined = true ∧ (t.ctx s.cur).cause = 0x12 ∧
      ∀ m, f.d = .c m → m ≠ 0 → (t.ctx s.cur).getC m = reg f.ty (le s l.key (tyWidth f.ty / 8)) := by
  have hb := ldBody_of_access h6 hty h
  rw [loadEnd_of_poisoned hp] at hb
  have hz : s.Noted ((u.noteAccess s.cur l 0).modCore l.core (fun c => { c with quarantined := true })) :=
    ((State.Noted.of_access h).trans .noteAccess).trans (.modCore fun _ => by rfl)
  obtain ⟨t, ht, hcore, hc, hcause⟩ := exec_putC_traps_after (i := .ld f) rfl hg ht hz hb
  refine ⟨t, ht, (hcore l.core).trans ?_, hcause, fun m hd hm => ?_⟩
  · rw [State.core_modCore, if_pos rfl]
  · rw [Ctx.getC_of_c hc, hd, putC_c, Ctx.getC_setC_self _ _ hm]

/-- A load of a register window gives its register (R99, R166). -/
theorem does_ld_window {a : Nat} (hg : acts s f) (hty : f.ty ≤ 9) (h6 : (s.capOpnd f.a).cap.space = 6)
    (h : loadWindow 0x200 f (tyWidth f.ty / 8) false s = .ok a) : does (.ld f) s (putC f.d (reg f.ty a)) := by
  refine does_putC_of_body (body := ldBody f) rfl hg ?_
  rw [← ofTy_eq_reg_natCast hty]
  exact (if_pos h6).trans (Exec.bind_of_ok h)

end

theorem State.vReg_v {s : State} {o : Opnd} {m : BitVec 5} (h : o = .v m) : s.vReg o = (s.ctx s.cur).getV m.toNat := by
  rw [h]
  rfl

/-! ### The lanes of GATH and SCAT (R169) -/

section

variable {s t u : State} {rq : Req} {r : CReg} {off : Int} {ix : VReg} {n : Nat} {is : List Nat} {ls : List (Nat × Loc)}

theorem Answers.laneAccess (h : s.Noted t) : Answers (fun x => s.Noted x.1) (Machine.laneAccess s t rq r off) := by
  unfold Machine.laneAccess
  split
  next e => exact h.trans (Answers.memAccess.of_ok e)
  · exact trivial
  · exact Answers.memAccess

theorem Answers.laneAccesses (h : s.Noted t) :
    Answers (fun x => s.Noted x.1 ∧ x.2.map (·.1) = is) (Machine.laneAccesses s rq r off ix n t is) := by
  induction is generalizing t with
  | nil => exact ⟨h, rfl⟩
  | cons i is ih => exact (Answers.laneAccess h).bind fun _ ht => (ih ht).bind fun _ ⟨hu, hls⟩ => ⟨hu, congrArg (i :: ·) hls⟩

/-- The accesses of the lanes noted, in order (R194, R195). -/
def State.noteLanes (s : State) (k kind : Nat) (ls : List (Nat × Loc)) : State := ls.foldl (fun w p => w.noteAccess k p.2 kind) s

theorem State.Noted.noteLanes {k kind : Nat} : s.Noted (s.noteLanes k kind ls) :=
  List.foldlRecOn (motive := fun w : State => s.Noted w) ls _ .refl fun _ hw _ _ => hw.trans .noteAccess

theorem activeLanes_nodup (s : State) (f : Fields) (n : Nat) : (s.activeLanes f n).Nodup := List.nodup_range.filter _

/-- The vector `x` with each lane of the list loaded from its place. -/
def loadLanes (s : State) (n : Nat) (x : VReg) (ls : List (Nat × Loc)) : VReg :=
  ls.foldl (fun x p => setLane x n p.1 (s.read p.2.key (n / 8))) x

theorem le_lt (s : State) (a n : Nat) : le s a n < 256 ^ n := by
  have key (l : List Nat) : l.foldr (fun i acc => (s.byte (a + i)).toNat + 256 * acc) 0 < 256 ^ l.length := by
    induction l with
    | nil => exact Nat.one_pos
    | cons i l ih =>
      have hbyte : (s.byte (a + i)).toNat < 256 := (s.byte (a + i)).isLt
      rw [List.foldr_cons, List.length_cons, Nat.pow_succ']
      omega
  exact (key _).trans_eq (congrArg (256 ^ ·) List.length_range)

theorem lane_loadLanes (hn : 256 ^ (n / 8) = 2 ^ n) (hlt : ∀ p ∈ ls, p.1 < 512 / n) (hnodup : (ls.map (·.1)).Nodup) (x : VReg) (j : Nat) :
    lane (loadLanes s n x ls) n j = ((ls.find? (fun p => p.1 == j)).map (fun p => le s p.2.key (n / 8))).getD (lane x n j) := by
  induction ls generalizing x with
  | nil => rfl
  | cons p ls ih =>
    rw [List.forall_mem_cons] at hlt
    rw [List.map_cons, List.nodup_cons] at hnodup
    obtain ⟨hp, hlt⟩ := hlt
    obtain ⟨hnotin, hnodup⟩ := hnodup
    refine (ih hlt hnodup _).trans ?_
    rw [lane_setLane _ hp, State.read_eq_le, Nat.mod_eq_of_lt (hn ▸ le_lt s _ _), List.find?_cons]
    by_cases hj : p.1 = j
    · have hrest : ls.find? (fun q => q.1 == j) = none :=
        List.find?_eq_none.2 fun q hq hqj => hnotin (hj ▸ eq_of_beq hqj ▸ List.mem_map_of_mem hq)
      rw [hrest, if_pos hj.symm, beq_iff_eq.2 hj]
      rfl
    · rw [if_neg (Ne.symm hj), beq_eq_false_iff_ne.2 hj]

theorem pow_bytes_of_tyWidth {ty : Nat} (h : ty ≤ 9) : 256 ^ (tyWidth ty / 8) = 2 ^ tyWidth ty := by
  obtain hw | hw | hw | hw := tyWidth_mem_of_le h
  all_goals rw [hw]; rfl

end

/-- What each lane of GATH asks of memory. -/
def gathReq (f : Fields) : Req :=
  { op := 0x206, field := 2, opnd := f.a, n := tyWidth f.ty / 8, al := tyWidth f.ty / 8, ld := true, st := false, spaces := [0, 1, 2, 3, 4] }

theorem gath_of_sound {f : Fields} {s u : State} {d : BitVec 5} {ls : List (Nat × Loc)} (hd : f.d = .v d)
    (h : laneAccesses s (gathReq f) (s.capOpnd f.a) (offs f) (s.vReg f.b) (tyWidth f.ty) s (s.activeLanes f (tyWidth f.ty)) = .ok (u, ls))
    (hsound : ∀ p ∈ ls, (u.noteLanes s.cur 0 ls).poisoned p.2 (tyWidth f.ty / 8) = false) :
    let v := u.noteLanes s.cur 0 ls
    ∃ t, exec (.gath f) s = .next t ∧ v.GoesOn t s.cur
      { v.ctx s.cur with v := (v.ctx s.cur).v.put d.toNat (loadLanes s (tyWidth f.ty) ((s.ctx s.cur).getV d.toNat) ls) }.advance := by
  intro v
  obtain ⟨hu, -⟩ := (Answers.laneAccesses .refl).of_ok h
  have hnone : ls.find? (fun p => v.poisoned p.2 (tyWidth f.ty / 8)) = none :=
    List.find?_eq_none.2 fun p hp => by rw [hsound p hp]; exact Bool.false_ne_true
  have hbody : gathBody f s = done (v.modCtx s.cur fun c => c.setV d.toNat (loadLanes s (tyWidth f.ty) ((s.ctx s.cur).getV d.toNat) ls)) := by
    rw [← offsetOf_eq] at h
    refine (Exec.bind_of_ok h).trans ?_
    dsimp only
    rw [← State.noteLanes, hnone, State.vReg_v hd, hd, State.setVD_v (hu.trans .noteLanes).cur]
    rfl
  exact exec_of_vecBody_modCtx (i := .gath f) rfl hbody

/-- Settles O26: what each body answers where the access is admitted, and the lanes of GATH one by one. -/
theorem loads : Obligations.Loads := by
  refine ⟨fun f s u l hg h6 => ?scalar, fun f s a hg hty h6 h => does_ld_window hg (by omega) h6 h, fun f s u d ls hty hd => ?gath⟩
  case scalar =>
    dsimp only
    refine ⟨fun hty h hsound => ?ld, fun h hsound => ?ldc, fun d hd h hsound => ?ldv, fun hty h hp ht => ld_poisoned h6 (by omega) hg ht h hp⟩
    case ld =>
      obtain ⟨t, ht, hgo⟩ := exec_load_putC (i := .ld f) hg rfl (cur_of_access h) hsound (ldBody_of_access h6 (by omega) h)
      exact ⟨t, ht, hgo, byte_of_access h hgo⟩
    case ldc =>
      obtain ⟨t, ht, hgo⟩ := exec_load_putC (i := .ldc f) hg rfl (cur_of_access h) hsound (ldcBody_of_access h6 h)
      exact ⟨t, ht, hgo, byte_of_access h hgo⟩
    case ldv =>
      obtain ⟨t, ht, hgo⟩ := exec_load_setV (i := .ldv f) hg rfl (cur_of_access h) hd hsound (ldvBody_of_access h6 h)
      exact ⟨t, ht, hgo, byte_of_access h hgo⟩
  case gath =>
    dsimp only
    intro h hsound
    obtain ⟨-, hlanes⟩ := (Answers.laneAccesses .refl).of_ok h
    obtain ⟨t, ht, hgo⟩ := gath_of_sound hd h hsound
    refine ⟨hlanes, t, _, ht, hgo, fun j _ => ?_⟩
    have hlt (p : Nat × Loc) (hp : p ∈ ls) : p.1 < 512 / tyWidth f.ty :=
      (mem_activeLanes.1 (hlanes ▸ List.mem_map_of_mem (f := fun q : Nat × Loc => q.1) hp)).1
    rw [lane_loadLanes (pow_bytes_of_tyWidth (by omega)) hlt (hlanes ▸ activeLanes_nodup s f _)]
    cases ls.find? (fun p => p.1 == j) with
    | none => rfl
    | some p => rfl

end Sys2Proof.Machine
end

section
/-! # ST, STC, STV and SCAT (O27)

A store that is admitted notes its access and writes its bytes; in SPACE 6 it pushes a command or writes a register. -/

namespace Sys2Proof.Machine

open Sys2Proof.Claims

section

variable {f : Fields} {s u : State} {l : Loc} {n op : Nat} {cp tagged mayTag : Bool}

theorem storeAt_of_access (h : access s (storeReq op f n cp) f.d (offs f) tagged mayTag u l) :
    storeAt op f n cp tagged mayTag s = .ok (u.noteAccess s.cur l 1, l) := by
  rw [access, ← offsetOf_eq] at h
  exact Exec.bind_of_ok h

variable (hg : acts s f)

include hg

section

variable (h6 : (s.capOpnd f.d).cap.space ≠ 6)

include h6

theorem exec_st {x : Nat} (ha : holds s f.a x) (h : access s (storeReq 0x201 f (tyWidth f.ty / 8) false) f.d (offs f) false false u l) :
    ∃ t, exec (.st f) s = .next t ∧
      ((u.noteAccess s.cur l 1).write l.key (tyWidth f.ty / 8) x).GoesOn t s.cur ((u.noteAccess s.cur l 1).ctx s.cur).advance := by
  have hbody : stBody f s = done ((u.noteAccess s.cur l 1).write l.key (tyWidth f.ty / 8) x) :=
    (Exec.bind_of_ok (ha 0x201 2)).trans ((if_neg h6).trans (Exec.bind_of_ok (storeAt_of_access h)))
  exact exec_of_vecBody (exec_eq_runVector (i := .st f) rfl hg) hbody

theorem exec_stc {m : BitVec 6} (ha : f.a = .c m) (h : access s (storeReq 0x203 f 16 true) f.d (offs f) ((s.ctx s.cur).getC m).tag
      (((s.ctx s.cur).getC m).cap.perm.testBit 4) u l) :
    ∃ t, exec (.stc f) s = .next t ∧
      ((u.noteAccess s.cur l 1).writeTagged l.key ((s.ctx s.cur).getC m)).GoesOn t s.cur ((u.noteAccess s.cur l 1).ctx s.cur).advance := by
  have hbody : stcBody f s = done ((u.noteAccess s.cur l 1).writeTagged l.key ((s.ctx s.cur).getC m)) := by
    have hG : (s.capOpnd f.a).cap.has permG = (s.capOpnd f.a).cap.perm.testBit 4 := Cap.has_eq_testBit _ _
    rw [← State.capOpnd_c ha, ← hG] at h
    rw [← State.capOpnd_c ha, stcBody, if_neg h6, storeAt_of_access h]
    rfl
  obtain ⟨t, ht, hgo⟩ := exec_of_vecBody (exec_eq_runVector (i := .stc f) rfl hg) hbody
  rw [State.ctx_writeTagged] at hgo
  exact ⟨t, ht, hgo⟩

theorem exec_stv {m : BitVec 5} (ha : f.a = .v m) (h : access s (storeReq 0x205 f 64 false) f.d (offs f) false false u l) :
    ∃ t, exec (.stv f) s = .next t ∧
      ((u.noteAccess s.cur l 1).write l.key 64 ((s.ctx s.cur).getV m.toNat).toNat).GoesOn t s.cur ((u.noteAccess s.cur l 1).ctx s.cur).advance := by
  have hbody : stvBody f s = done ((u.noteAccess s.cur l 1).write l.key 64 ((s.ctx s.cur).getV m.toNat).toNat) := by
    rw [stvBody, if_neg h6, storeAt_of_access h, State.vReg_v ha]
    rfl
  exact exec_of_vecBody (exec_eq_runVector (i := .stv f) rfl hg) hbody

end

/-! ### Windows (R168, R197) -/

variable (h6 : (s.capOpnd f.d).cap.space = 6) {a : Nat}

include h6

theorem exec_st_window {x : Nat} (ha : holds s f.a x) (h : storeWindow 0x201 f (tyWidth f.ty / 8) false false s = .ok a) :
    ∃ t, exec (.st f) s = .next t ∧ (s.windowWrite s.cur a x).GoesOn t s.cur ((s.windowWrite s.cur a x).ctx s.cur).advance := by
  have hbody : stBody f s = done (s.windowWrite s.cur a x) := (Exec.bind_of_ok (ha 0x201 2)).trans ((if_pos h6).trans (Exec.bind_of_ok h))
  exact exec_of_vecBody (exec_eq_runVector (i := .st f) rfl hg) hbody

theorem exec_stv_push {m : BitVec 5} {e : Engine} (ha : f.a = .v m) (h : storeWindow 0x205 f 64 false true s = .ok a) (he : winEngine a = some e)
    (hpush : s.push s.cur e ((s.ctx s.cur).getV m.toNat) = .ok u) : ∃ t, exec (.stv f) s = .next t ∧ u.GoesOn t s.cur (u.ctx s.cur).advance := by
  have hbody : stvBody f s = done u := by
    refine (if_pos h6).trans ((Exec.bind_of_ok h).trans ?_)
    rw [he, State.vReg_v ha]
    exact Exec.bind_of_ok hpush
  exact exec_of_vecBody (exec_eq_runVector (i := .stv f) rfl hg) hbody

end

/-! ### SCAT (R169) -/

/-- The lanes of the list stored in their places, in order. -/
def storeLanes (n : Nat) (x : VReg) (ls : List (Nat × Loc)) (t : State) : State :=
  ls.foldl (fun u p => u.write p.2.key (n / 8) (laneOf x n p.1)) t

/-- A byte is of the last lane whose place covers it, and otherwise stays. -/
theorem byte_storeLanes (n : Nat) (x : VReg) (ls : List (Nat × Loc)) (t : State) (a : Nat) : (storeLanes n x ls t).byte a =
    ((ls.reverse.find? (fun p => decide (p.2.key ≤ a) && decide (a < p.2.key + n / 8))).map
      (fun p => BitVec.ofNat 8 (lane x n p.1 / 256 ^ (a - p.2.key)))).getD (t.byte a) := by
  induction ls using List.reverseRecOn with
  | nil => rfl
  | append_singleton ls p ih =>
    rw [storeLanes, List.foldl_concat, ← storeLanes, stored_write, ih, List.reverse_append, List.reverse_singleton, List.singleton_append, List.find?_cons,
      ← Bool.decide_and]
    by_cases h : p.2.key ≤ a ∧ a < p.2.key + n / 8
    · rw [if_pos h, decide_eq_true h]
      rfl
    · rw [if_neg h, decide_eq_false h]

/-- What each lane of SCAT asks of memory. -/
def scatReq (f : Fields) : Req :=
  { op := 0x207, field := 1, opnd := f.d, n := tyWidth f.ty / 8, al := tyWidth f.ty / 8, ld := false, st := true, spaces := [0, 1, 2, 3, 4] }

theorem exec_scat {f : Fields} {s u : State} {m : BitVec 5} {ls : List (Nat × Loc)} (ha : f.a = .v m)
    (h : laneAccesses s (scatReq f) (s.capOpnd f.d) (offs f) (s.vReg f.b) (tyWidth f.ty) s (s.activeLanes f (tyWidth f.ty)) = .ok (u, ls)) :
    ∃ t, exec (.scat f) s = .next t ∧
      ∃ c, (storeLanes (tyWidth f.ty) ((s.ctx s.cur).getV m.toNat) ls (u.noteLanes s.cur 1 ls)).GoesOn t s.cur c := by
  have hbody : scatBody f s = done (storeLanes (tyWidth f.ty) (s.vReg f.a) ls (u.noteLanes s.cur 1 ls)) := by
    rw [← offsetOf_eq] at h
    exact Exec.bind_of_ok h
  rw [ha] at hbody
  obtain ⟨t, ht, hgo⟩ := exec_of_vecBody (i := .scat f) rfl hbody
  exact ⟨t, ht, _, hgo⟩

/-- Settles O27: what each body answers where the access is admitted, with the bytes and tags of its write. -/
theorem stores : Obligations.Stores := by
  refine ⟨fun f s u l hg h6 => ?scalar, fun f s a hg h6 => ⟨fun m e u ha h he hpush => exec_stv_push hg h6 ha h he hpush,
    fun x _ ha h => exec_st_window hg h6 ha h⟩, fun f s u m ls hty ha => ?scat⟩
  case scalar =>
    dsimp only
    refine ⟨fun x hty ha h => ?st, fun m ha h hal => ?stc, fun m ha h => ?stv⟩
    case st =>
      obtain ⟨t, ht, hgo⟩ := exec_st hg h6 ha h
      have hn : 0 < tyWidth f.ty / 8 := by
        obtain hw | hw | hw | hw := tyWidth_mem_of_le (by omega : f.ty ≤ 9)
        all_goals rw [hw]; decide
      exact ⟨t, ht, hgo, stored_of_goesOn (stored_write _ _ _ _) hgo, fun g => by rw [hgo.tagAt_eq, State.tagAt_write hn]⟩
    case stc =>
      obtain ⟨t, ht, hgo⟩ := exec_stc hg h6 ha h
      exact ⟨t, ht, hgo, stored_of_goesOn (stored_writeTagged _ _ _) hgo, (hgo.tagAt_eq _).trans (State.tagAt_writeTagged_self _ _ _),
        fun g hne => (hgo.tagAt_eq g).trans (State.tagAt_writeTagged_of_ne _ _ hal hne)⟩
    case stv =>
      obtain ⟨t, ht, hgo⟩ := exec_stv hg h6 ha h
      exact ⟨t, ht, hgo, stored_of_goesOn (stored_write _ _ _ _) hgo⟩
  case scat =>
    dsimp only
    intro h
    obtain ⟨t, ht, c, hgo⟩ := exec_scat ha h
    refine ⟨t, ht, fun a => ?_⟩
    rw [hgo.byte_eq, byte_storeLanes]
    cases ls.reverse.find? (fun p => decide (p.2.key ≤ a) && decide (a < p.2.key + tyWidth f.ty / 8)) with
    | none => rfl
    | some p => rfl

end Sys2Proof.Machine
end

section
/-! # Posted stores (O28)

A posted store is a journal entry of its slot; the events of the far core and of the interface move the entry on from phase to phase. -/

namespace Sys2Proof.Machine

open Sys2Proof.Claims

/-! ### PST and PST.V (R172, R173) -/

section

variable {f : Fields} {s u : State} {l : Loc} {n x i : Nat}

/-- What a posted store asks of memory. -/
def postedReq (f : Fields) (n : Nat) : Req := { storeReq 0x208 f n false with remote := true, posted := true, spaces := [5] }

/-- The journal entry of a posted store of the context in hand. -/
def postedEntry (f : Fields) (s : State) (l : Loc) (n x : Nat) : JEntry :=
  { lid := (s.slotOf s.cur).lid, vcore := (s.slotOf s.cur).vcore, state := 1, addr := l.va, seq := (s.slotOf s.cur).pstSeq, sb := chargeOf f.hint, size := n,
    data := BitVec.ofNat 512 (x % 2 ^ (8 * n)), user := (s.ctx s.cur).mode == 0, order := s.turn }

/-- The access noted, and the entry in the journal. -/
def journaled (s u : State) (i : Nat) (e : JEntry) : State :=
  u.modSlot (s.slotKeyOf s.cur) (fun y => { y with journal := y.journal.put i e, pstSeq := ((s.slotOf s.cur).pstSeq + 1) % 2 ^ 16 })

theorem postStore_of_access (h : access s (postedReq f n) f.d (offs f) false false u l) (hfree : (s.slotOf s.cur).freeEntry = some i) :
    postStore f n x s = done ((journaled s u i (postedEntry f s l n x)).modCtx s.cur (fun c => c.chargeSb (chargeOf f.hint))) := by
  rw [access, ← offsetOf_eq] at h
  refine (Exec.bind_of_ok h).trans ?_
  dsimp only
  rw [hfree]
  rfl

/-- PST posts the bytes of its operand, and PST.V those of its vector. -/
theorem exec_posts {op : Instr} (h : (op = .pst f ∧ holds s f.a x ∧ n = tyWidth f.ty / 8) ∨
      (∃ m, op = .pstV f ∧ f.a = .v m ∧ n = 64 ∧ x = ((s.ctx s.cur).getV m.toNat).toNat)) :
    ∃ body, exec op s = runScalar f body s ∧ body s = postStore f n x s := by
  obtain ⟨rfl, ha, rfl⟩ | ⟨m, rfl, ha, rfl, rfl⟩ := h
  · exact ⟨pstBody f, rfl, Exec.bind_of_ok (ha 0x208 2)⟩
  · refine ⟨pstVBody f, rfl, ?_⟩
    rw [pstVBody, ha]
    rfl

theorem Ctx.getSb_of_sb {c d : Ctx} (h : d.sb = c.sb) (b : Nat) : d.getSb b = c.getSb b := congrArg (Sparse.get 0 · b) h

theorem Ctx.advance_sb_of_rep_none {c : Ctx} (h : c.rep = none) : c.advance.sb = c.sb := by
  rw [Ctx.advance, h]

theorem State.GoesOn.ctx_sb {s t : State} {k : Nat} {c : Ctx} (h : s.GoesOn t k c) : (t.ctx k).sb = c.sb := by
  obtain ⟨-, -, -, -, hctx⟩ := h
  rw [hctx]

/-- Outside a repetition the counter that the hint names goes up by one (R90, R103). -/
theorem Ctx.getSb_advance_charged {c : Ctx} {b : Nat} (hrep : c.rep = none) : (c.chargeSb (some b)).advance.getSb b = c.getSb b + 1 := by
  rw [Ctx.getSb_of_sb (Ctx.advance_sb_of_rep_none ((Ctx.chargeSb_rep _ _).trans hrep))]
  exact (Ctx.getSb_setSb _ _ _ _).trans (if_pos rfl)

theorem exec_posted {op : Instr} (hg : acts s f) (hop : ∃ body, exec op s = runScalar f body s ∧ body s = postStore f n x s)
    (h : access s (postedReq f n) f.d (offs f) false false u l) (hfree : (s.slotOf s.cur).freeEntry = some i) :
    ∃ t, exec op s = .next t ∧ (∀ a, t.byte a = u.byte a) ∧ Sparse.get {} (t.slot (s.slotKeyOf s.cur)).journal i = postedEntry f s l n x ∧
      ∀ b, chargeOf f.hint = some b → (s.ctx s.cur).rep = none → (t.ctx s.cur).getSb b = (u.ctx s.cur).getSb b + 1 := by
  obtain ⟨body, hi, hb⟩ := hop
  obtain ⟨t, ht, hgo⟩ := exec_of_vecBody_modCtx (exec_eq_runVector hi hg) (hb.trans (postStore_of_access h hfree))
  refine ⟨t, ht, hgo.byte_eq, ?_, fun b hcharge hrep => ?_⟩
  · rw [hgo.slot_eq, journaled, State.slot_modSlot, if_pos rfl]
    exact (Sparse.get_put _ _ _ _ _).trans (if_pos rfl)
  · obtain ⟨y, hy⟩ := (State.Noted.of_access h).ctx s.cur
    have hurep : (u.ctx s.cur).rep = none := by
      rw [hy]
      exact hrep
    rw [hcharge] at hgo
    exact (Ctx.getSb_of_sb hgo.ctx_sb b).trans (Ctx.getSb_advance_charged hurep)

end

/-! ### The journal (R173) -/

section

variable {s : State} {core slot i : Nat} {e : JEntry}

theorem State.jentry_setJentry (s : State) (core slot i : Nat) (e : JEntry) : (s.setJentry core slot i e).jentry core slot i = e := by
  rw [State.jentry, State.setJentry, State.slot_modSlot, if_pos rfl]
  exact (Sparse.get_put _ _ _ _ _).trans (if_pos rfl)

/-- The entry holds a store that has not retired (R173). -/
theorem outstanding_iff : (e.state == 1 || e.state == 2) = true ↔ e.state = 1 ∨ e.state = 2 := by
  rw [Bool.or_eq_true, beq_iff_eq, beq_iff_eq]

/-! ### What an interface has for a vcore (R174, R175, R361) -/

section

variable {lid vcore home : Nat} {o : Owed} {p : Pending}

theorem State.owe_of_resident (h : s.residentHome lid vcore = some home) : s.owe lid vcore o = s.takeOwed home o := by
  rw [State.owe, h]

theorem State.ctx_takeOwed : (s.takeOwed home o).ctx (hartOfSlot home) = (s.ctx (hartOfSlot home)).releaseSb o.sb := by
  rw [State.takeOwed, State.ctx_modSlot, State.ctx_modCtx, if_pos rfl]

theorem State.journal_takeOwed (k : Nat) : ((s.takeOwed home o).slot k).journal = (s.slot k).journal := by
  rw [State.takeOwed, State.slot_modSlot]
  split
  next h =>
    subst h
    split
    · rfl
    · rfl
  next => rfl

theorem State.jentry_takeOwed : (s.takeOwed home o).jentry core slot i = s.jentry core slot i :=
  congrArg (fun j : Sparse JEntry => Sparse.get ({} : JEntry) j i) (State.journal_takeOwed (slotKey core slot))

theorem mem_insertRefusal (next : Nat) (p : Pending) (l : List Pending) : p ∈ insertRefusal next p l := by
  induction l with
  | nil => exact List.mem_singleton_self p
  | cons x l ih =>
    unfold insertRefusal
    split
    · exact List.mem_cons_self
    · exact List.mem_cons_of_mem x ih

/-- A trap that an interface has for a vcore is pending in its slot. -/
theorem State.mem_pending_takeOwed (h : o.trap = some p) : p ∈ ((s.takeOwed home o).slot home).pending := by
  rw [State.takeOwed, State.slot_modSlot, if_pos rfl, h]
  exact mem_insertRefusal _ p _

end

/-! ### The events on an entry -/

variable (he : s.jentry core slot i = e) (hs : e.state = 1 ∨ e.state = 2)

include he hs

theorem outstanding_at {n : Nat} (hp : e.phase = n) :
    (decide ((s.jentry core slot i).phase = n) && ((s.jentry core slot i).state == 1 || (s.jentry core slot i).state == 2)) = true := by
  rw [he, outstanding_iff.2 hs, hp, decide_eq_true rfl, Bool.and_true]

/-! ### Arrival at the far core (R174, R176) -/

section

variable (hp : e.phase = 0) (hb : s.heldBack e = false)

include hp hb

/-- A store on its way that nothing holds back arrives. -/
theorem pstArrival_enabled : ¬(!((s.jentry core slot i).state == 1 || (s.jentry core slot i).state == 2) || decide ((s.jentry core slot i).phase ≠ 0) ||
    s.heldBack (s.jentry core slot i)) = true := by
  rw [he, outstanding_iff.2 hs, hb, hp]
  decide

/-- The store is performed at the far core's L where it is admitted and nothing makes it wait there (R162, log 126). -/
theorem pstArrival_performed (hv : s.pstVerdict e = none) (hrange : (s.core (fld e.addr 44 12)).mustWait 1 (fld e.addr 0 44) e.size true = false)
    (hfrozen : s.shareFrozen (fld e.addr 44 12) (fld e.addr 0 44) e.size = false) :
    exec (.pstArrival core slot i) s = .next ((s.storeBytes (placeKey 1 (fld e.addr 44 12) (fld e.addr 0 44)) (natToBytes e.size e.data.toNat)).setJentry
      core slot i { e with phase := 1 }) := by
  refine congrArg Host.Outcome.next ((if_neg (pstArrival_enabled he hs hp hb)).trans ?_)
  rw [he, hv]
  exact if_neg (by rw [hrange, hfrozen]; decide)

theorem pstArrival_sent_back (hv : s.pstVerdict e = some 3) : exec (.pstArrival core slot i) s =
    .next (s.setJentry core slot i { e with phase := 2, firstAt := some (e.firstAt.getD s.time) }) := by
  refine congrArg Host.Outcome.next ((if_neg (pstArrival_enabled he hs hp hb)).trans ?_)
  rw [he, hv]
  rfl

theorem pstArrival_refused {r : Nat} (hv : s.pstVerdict e = some r) (hr : r ≠ 3) : exec (.pstArrival core slot i) s =
    .next (s.setJentry core slot i { e with phase := 4, verdict := r }) := by
  refine congrArg Host.Outcome.next ((if_neg (pstArrival_enabled he hs hp hb)).trans ?_)
  rw [he, hv]
  split
  next h => exact absurd (Option.some.inj h) hr
  next h =>
    cases h
    rfl
  next h => cases h

end

/-! ### The answers of the far core (R174) -/

/-- A negative acknowledgement: 128 ns at first, and then twice as long each time, up to 16 µs. -/
theorem pstNack_backs_off (hp : e.phase = 2) : exec (.pstNack core slot i) s = .next (s.setJentry core slot i { e with
    state := 2, phase := 3, backoff := if e.backoff = 0 then 128 else min (2 * e.backoff) 16000,
    nextAt := s.time + if e.backoff = 0 then 128 else min (2 * e.backoff) 16000 }) := by
  refine congrArg Host.Outcome.next ((if_pos (outstanding_at he hs hp)).trans ?_)
  rw [he]

/-- An acknowledgement frees the entry and releases its counter (R174). -/
theorem pstAck_acknowledged {home : Nat} (hp : e.phase = 1)
    (hhome : (s.modSlot (slotKey core slot) (fun l => { l with journal := Sparse.drop l.journal i })).residentHome e.lid e.vcore = some home) :
    ∃ t, exec (.pstAck core slot i) s = .next t ∧ (t.jentry core slot i).state = 0 ∧ (∀ a, t.byte a = s.byte a) ∧
      t.ctx (hartOfSlot home) = (s.ctx (hartOfSlot home)).releaseSb e.sb := by
  have hstep : pstAckStep core slot i s = _ := if_pos (outstanding_at he hs hp)
  rw [he, State.owe_of_resident hhome] at hstep
  refine ⟨_, congrArg Host.Outcome.next hstep, ?_, fun _ => rfl, State.ctx_takeOwed⟩
  rw [State.jentry_takeOwed, State.jentry, State.slot_modSlot, if_pos rfl, Sparse.get_drop, if_pos rfl]

/-! ### Refusal (R174, R175) -/

/-- The trap of a refused entry (R175). -/
def refusal (core slot i : Nat) (e : JEntry) (r : Nat) : Pending :=
  { order := 2, cause := POSTED_STORE_REFUSED, tval := e.seq % 2 ^ 16 * 2 ^ 48 + r % 16 * 2 ^ 4 + i % 16, origin := slotKey core slot }

section

variable {home r : Nat} (hhome : (s.setJentry core slot i { e with state := 3, reason := r, phase := 0 }).residentHome e.lid e.vcore = some home)
  (hseat : s.seatOf e.lid e.vcore ≠ none)

include hhome hseat

omit hs in
/-- A refused entry stays, its counter goes down, and its trap is pending. -/
theorem State.refuse_spec : ((s.refuse core slot i r).jentry core slot i).state = 3 ∧ ((s.refuse core slot i r).jentry core slot i).reason = r ∧
    (s.refuse core slot i r).ctx (hartOfSlot home) = (s.ctx (hartOfSlot home)).releaseSb e.sb ∧
    refusal core slot i e r ∈ ((s.refuse core slot i r).slot home).pending := by
  have hseated : ¬((s.seatOf e.lid e.vcore).isNone && (s.parkedOf e.lid e.vcore).isNone) = true := by
    rw [Bool.and_eq_true, Option.isNone_iff_eq_none]
    exact fun h => hseat h.1
  have hrefuse : s.refuse core slot i r = (s.setJentry core slot i { e with state := 3, reason := r, phase := 0 }).takeOwed home
      { sb := e.sb, trap := some (refusal core slot i e r) } := by
    rw [State.refuse, he]
    exact (if_neg hseated).trans (State.owe_of_resident hhome)
  rw [hrefuse, State.jentry_takeOwed, State.jentry_setJentry]
  exact ⟨rfl, rfl, State.ctx_takeOwed, State.mem_pending_takeOwed rfl⟩

end

/-- The far core has refused the store. -/
theorem pstAck_refused {r : Nat} (hp : e.phase = 4) (hr : r = e.verdict) : exec (.pstAck core slot i) s = .next (s.refuse core slot i r) := by
  have hnot : ¬(decide ((s.jentry core slot i).phase = 1) && ((s.jentry core slot i).state == 1 || (s.jentry core slot i).state == 2)) = true := by
    rw [he, hp]
    exact Bool.false_ne_true
  refine congrArg Host.Outcome.next ((if_neg hnot).trans ((if_pos (outstanding_at he hs hp)).trans ?_))
  rw [he, hr]

/-! ### The end of a back-off, and of the retries (R174) -/

omit hs

theorem pstRetry_sends_again (hs : e.state = 2) (hp : e.phase = 3) (ht : e.nextAt ≤ s.time) :
    exec (.pstRetry core slot i) s = .next (s.setJentry core slot i { e with phase := 0 }) := by
  have hon : (decide ((s.jentry core slot i).state = 2) && decide ((s.jentry core slot i).phase = 3) && decide ((s.jentry core slot i).nextAt ≤ s.time)) =
      true := by
    rw [he, hs, hp, decide_eq_true ht]
    rfl
  refine congrArg Host.Outcome.next ((if_pos hon).trans ?_)
  rw [he]

/-- A store that retries is refused with PARKED 1 ms after its first attempt (R174). -/
theorem pstParkedTimeout_refuses {first : Nat} (hs : e.state = 2) (hp : e.phase = 3) (hfirst : e.firstAt = some first) (ht : first + 1000000 ≤ s.time) :
    exec (.pstParkedTimeout core slot i) s = .next (s.refuse core slot i 3) := by
  have hon : (decide ((s.jentry core slot i).state = 2) && decide ((s.jentry core slot i).phase = 3) &&
      decide ((s.jentry core slot i).firstAt.getD s.time + 1000000 ≤ s.time)) = true := by
    rw [he, hs, hp, hfirst, Option.getD_some, decide_eq_true ht]
    rfl
  exact congrArg Host.Outcome.next (if_pos hon)

end

/-- Settles O28: the entry that a posted store makes, and each event on an entry in its phase. -/
theorem postedStores : Obligations.PostedStores := by
  refine ⟨fun f s u l n x i op hg _ hop h hfree => ?post, fun core slot i s => ?events⟩
  case post =>
    obtain ⟨t, ht, hbytes, hentry, hcharged⟩ := exec_posted hg (exec_posts hop) h hfree
    refine ⟨t, ht, hbytes, ?_, hcharged⟩
    dsimp only
    rw [hentry]
    exact ⟨rfl, rfl, rfl, rfl, rfl, rfl, rfl, rfl, rfl, rfl⟩
  case events =>
    dsimp only
    intro hs
    refine ⟨fun hp hb hv hrange hfrozen => ?performed, fun hp hb hv => pstArrival_sent_back rfl hs hp hb hv,
      fun r hp hb hv hr => pstArrival_refused rfl hs hp hb hv hr, fun home hp hhome => pstAck_acknowledged rfl hs hp hhome, fun hp => pstNack_backs_off rfl hs hp,
      fun hs hp ht => pstRetry_sends_again rfl hs hp ht, fun home r hhome hseat => ⟨fun hp hr => ?refused, fun first hs2 hp hfirst ht hr => ?timeout⟩⟩
    case performed =>
      have hl : fld (s.jentry core slot i).addr 0 44 = (s.jentry core slot i).addr % 2 ^ 44 := fld_zero _ _
      rw [← hl] at hrange hfrozen ⊢
      refine ⟨_, pstArrival_performed rfl hs hp hb hv hrange hfrozen, ?_, stored_storeBytes _ _ _ _⟩
      rw [State.jentry_setJentry]
    case refused =>
      obtain ⟨hstate, hreason, hctx, hpending⟩ := State.refuse_spec rfl hhome hseat
      exact ⟨_, pstAck_refused rfl hs hp hr, hstate, hreason, hctx, _, hpending, rfl, rfl⟩
    case timeout =>
      obtain ⟨hstate, hreason, hctx, hpending⟩ := State.refuse_spec rfl hhome hseat
      subst hr
      exact ⟨_, pstParkedTimeout_refuses rfl hs2 hp hfirst ht, hstate, hreason, hctx, _, hpending, rfl, rfl⟩

end Sys2Proof.Machine
end

section
/-! # The TLB: removal, installation and the fill of a service core (O31)

A TLB is a table of its core, and the lock records that name its entries stand in the slots. An installation or a removal on one core
leaves the TLB of every other core, so what a list of cores holds afterwards is told core by core. -/

namespace Sys2Proof.Machine

open Sys2Proof.Claims

/-- What each step of a fold over a list keeps of the state before it, the fold keeps. -/
theorem rel_foldl {α : Type} {R : State → State → Prop} {f : State → α → State} (hrefl : ∀ s, R s s) (htrans : ∀ {s t u}, R s t → R t u → R s u)
    (h : ∀ s x, R s (f s x)) (xs : List α) (s : State) : R s (xs.foldl f s) := by
  induction xs generalizing s with
  | nil => exact hrefl s
  | cons x xs ih => exact htrans (h s x) (ih _)

/-! ### Lock records are renamed in slots alone (R184, R188) -/

section

variable {s t u : State} {core c img : Nat} {gone : Nat → Bool}

/-- The lock records of a core are renamed in its slots, and no core is changed. -/
theorem State.core_renameLocks (s : State) (core : Nat) (g : List Nat → List Nat) (c : Nat) : (s.renameLocks core g).core c = s.core c :=
  rel_foldl (R := fun s t => t.core c = s.core c) (fun _ => rfl) (fun h1 h2 => h2.trans h1) (fun s _ => by split <;> rfl) _ s

/-- `t` is `s` in all but its cores and slots, where TLBs and lock records stand. -/
def State.Retranslated (s t : State) : Prop := t = { s with slots := t.slots, cores := t.cores }

namespace State.Retranslated

theorem trans (h1 : s.Retranslated t) (h2 : t.Retranslated u) : s.Retranslated u := by
  unfold State.Retranslated at *
  rw [h2, h1]

theorem foldl {α : Type} {f : State → α → State} (h : ∀ (s : State) x, s.Retranslated (f s x)) (xs : List α) (s : State) :
    s.Retranslated (xs.foldl f s) := rel_foldl (R := State.Retranslated) (fun _ => rfl) trans h xs s

theorem renameLocks {g : List Nat → List Nat} : s.Retranslated (s.renameLocks core g) :=
  foldl (fun s _ => by split <;> rfl) _ s

theorem setCore {x : Core} : s.Retranslated (s.setCore core x) := rfl

theorem evict : s.Retranslated (s.evict core gone) := trans setCore renameLocks

theorem installValid : s.Retranslated (s.installValid core img) := by
  unfold State.installValid
  exact trans setCore renameLocks

theorem install : s.Retranslated (s.install core img) := by
  unfold State.install
  split
  · exact installValid
  · exact evict

theorem cur (h : s.Retranslated t) : t.cur = s.cur := by rw [h]
theorem mem (h : s.Retranslated t) : t.mem = s.mem := by rw [h]
theorem ctxs (h : s.Retranslated t) : t.ctxs = s.ctxs := by rw [h]
theorem folds (h : s.Retranslated t) : t.folds = s.folds := by rw [h]

end State.Retranslated

/-! ### One core's TLB (R184, R188) -/

theorem State.core_evict (c : Nat) : (s.evict core gone).core c =
    if c = core then { s.core core with tlb := (s.core core).tlb.filter (fun e => !(gone e.2.toNat)) } else s.core c :=
  (State.core_renameLocks _ _ _ _).trans (State.core_setCore _ _ _ _)

theorem Sparse.mem_put_self {α : Type} (m : Sparse α) (i : Nat) (x : α) : (i, x) ∈ m.put i x := by
  fun_induction Sparse.put m i x
  case case4 ih => exact List.mem_cons_of_mem _ ih
  all_goals exact List.mem_cons_self

/-- A core's TLB has an entry with the image. -/
def State.tlbHas (s : State) (c img : Nat) : Prop := ∃ ix, (ix, BitVec.ofNat 128 img) ∈ (s.core c).tlb

theorem State.tlbHas_installValid_self : (s.installValid core img).tlbHas core img := by
  unfold State.tlbHas State.installValid
  dsimp only
  rw [State.core_renameLocks, State.core_setCore, if_pos rfl]
  exact ⟨_, Sparse.mem_put_self _ _ _⟩

theorem State.tlbHas_installValid (h : s.tlbHas c img) : (s.installValid core img).tlbHas c img := by
  by_cases hc : c = core
  · subst hc
    exact State.tlbHas_installValid_self
  · unfold State.tlbHas State.installValid at *
    rw [State.core_renameLocks, State.core_setCore, if_neg hc]
    exact h

/-! ### The TLBs of a list of cores -/

/-- An image installed in the cores of a list is in each of their TLBs. -/
theorem State.tlbHas_installValid_foldl {cs : List Nat} (h : c ∈ cs ∨ s.tlbHas c img) :
    (cs.foldl (fun (s : State) c => s.installValid c img) s).tlbHas c img := by
  induction cs generalizing s with
  | nil => exact h.resolve_left List.not_mem_nil
  | cons d cs ih =>
    rw [List.foldl_cons]
    apply ih
    obtain hc | hc := h
    · obtain rfl | hc := List.mem_cons.1 hc
      · exact .inr State.tlbHas_installValid_self
      · exact .inl hc
    · exact .inr (State.tlbHas_installValid hc)

/-- Entries removed from the cores of a list are gone from each, however often it is named. -/
theorem State.tlb_evict_foldl (cs : List Nat) (s : State) : ((cs.foldl (fun (s : State) c => s.evict c gone) s).core c).tlb =
    if c ∈ cs then (s.core c).tlb.filter (fun e => !(gone e.2.toNat)) else (s.core c).tlb := by
  induction cs generalizing s with
  | nil => rfl
  | cons d cs ih =>
    rw [List.foldl_cons, ih, State.core_evict]
    by_cases hcd : c = d
    · subst hcd
      simp
    · simp [hcd]

end

/-! ### What an instruction that goes on leaves of cores and Folds -/

theorem State.GoesOn.tlb_eq {s t : State} {k : Nat} {c : Ctx} (h : s.GoesOn t k c) (n : Nat) : (t.core n).tlb = (s.core n).tlb := by
  obtain ⟨-, -, hcore, -, -⟩ := h
  rw [hcore]

theorem State.GoesOn.missQueue_eq {s t : State} {k : Nat} {c : Ctx} (h : s.GoesOn t k c) (n : Nat) :
    (t.fold n).missQueue = (s.fold n).missQueue := by
  obtain ⟨-, -, -, hfold, -⟩ := h
  rw [hfold]

/-! ### TINV (R188) -/

section

variable {s : State} {f : Fields} {gone ofPage : Nat → Bool}

theorem State.resultsDue_of_all {core : Nat} (h : s.resultsDue core (fun _ => true) = false) : s.resultsDue core ofPage = false := by
  unfold State.resultsDue at h ⊢
  simp only [Bool.or_eq_false_iff, List.any_eq_false, List.any_eq_true, Bool.and_true, Bool.and_eq_true] at h ⊢
  obtain ⟨hslots, hparked⟩ := h
  exact ⟨fun e he ⟨r, hr, hdue, _⟩ => hslots e he ⟨r, hr, hdue⟩, fun e he ⟨r, hr, hdue, _⟩ => hparked e he ⟨r, hr, hdue⟩⟩

theorem State.forgetTables_compute (hs : isService (coreOf s.cur) = false) : s.forgetTables gone = s := by
  rw [State.forgetTables, hs]
  rfl

/-- A TINV of a core that is not a service core acts on that core alone, and no table is told of it. -/
theorem State.invalidate_own (hs : isService (coreOf s.cur) = false) (hdue : s.resultsDue (coreOf s.cur) (fun _ => true) = false) :
    s.invalidate [coreOf s.cur] gone ofPage = done (s.evict (coreOf s.cur) gone) := by
  have hany : ¬[coreOf s.cur].any (fun c => s.resultsDue c ofPage) = true := by
    rw [List.any_cons, State.resultsDue_of_all hdue]
    exact Bool.false_ne_true
  rw [State.invalidate, if_neg hany]
  dsimp only [List.foldl_cons, List.foldl_nil, List.isEmpty_cons]
  rw [if_neg Bool.false_ne_true]
  have hcur : (s.evict (coreOf s.cur) gone).cur = s.cur := State.Retranslated.evict.cur
  rw [State.forgetTables_compute (by rw [hcur]; exact hs)]

theorem State.tinvCores_own (hs : isService (coreOf s.cur) = false) : s.tinvCores f = .ok [coreOf s.cur] :=
  if_neg (by simp [hs])

/-- Entries leave the TLB of the core in hand, and those of no other. -/
theorem exec_of_body_evict {i : Instr} {body : State → Exec Out} (hi : exec i s = runScalar f body s) (hg : acts s f)
    (hb : body s = done (s.evict (coreOf s.cur) gone)) : ∃ t, exec i s = .next t ∧
      (t.core (coreOf s.cur)).tlb = (s.core (coreOf s.cur)).tlb.filter (fun e => !(gone e.2.toNat)) ∧
      (∀ c, c ≠ coreOf s.cur → (t.core c).tlb = (s.core c).tlb) ∧ t.mem = s.mem := by
  have hgo := s.finish_seq (s.evict (coreOf s.cur) gone) f
  refine ⟨_, exec_of_body hi hg hb, ?_, fun c hc => ?_, hgo.mem_eq.trans State.Retranslated.evict.mem⟩
  · rw [hgo.tlb_eq, State.core_evict, if_pos rfl]
  · rw [hgo.tlb_eq, State.core_evict, if_neg hc]

theorem State.probeAddr_c {n : BitVec 6} (ha : f.a = .c n) : s.probeAddr f.a =
    if ((s.ctx s.cur).getC n).tag then (((s.ctx s.cur).getC n).cap.base + ((s.ctx s.cur).getC n).cap.off) % 2 ^ 56
    else ((s.ctx s.cur).getC n).val.toNat % 2 ^ 56 := by
  rw [State.probeAddr, State.capOpnd_c ha, fld_zero]
  rfl

end

/-! ### The cores of a mask (R189) -/

theorem mem_maskCores {fold b i : Nat} (hi : i < 16) : fold * 16 + i ∈ maskCores fold b ↔ b.testBit i = true := by
  simp [maskCores, bitAt_eq_testBit, hi]

theorem maskCores_isEmpty_iff {fold b : Nat} : (maskCores fold b).isEmpty = true ↔ b % 2 ^ 16 = 0 := by
  have hbits : (maskCores fold b).isEmpty = true ↔ ∀ i < 16, b.testBit i = false := by simp [maskCores, bitAt_eq_testBit]
  rw [hbits]
  refine ⟨fun h => Nat.eq_of_testBit_eq fun i => ?_, fun h i hi => ?_⟩
  · rw [Nat.testBit_mod_two_pow, Nat.zero_testBit, Bool.and_eq_false_imp]
    exact fun hi => h i (of_decide_eq_true hi)
  · rw [← Nat.zero_testBit i, ← h, Nat.testBit_mod_two_pow, decide_eq_true hi, Bool.true_and]

/-! ### TFILL (R189) -/

section

variable {s : State} {fold img p : Nat} {present : Bool}

/-- The state in which an image has been installed in the cores of a mask, and the misses that it serves are queued no longer. -/
def State.filled (s : State) (fold b img : Nat) : State :=
  (((maskCores fold b).foldl (fun (s : State) c => s.install c img) s).serveQueue fold img).noteTables (s.paddockOfFold fold) img (imgValid img)

/-- What TFILL answers of the queue; that a fill which serves no entry installs its image all the same is the model's choice (log 26). -/
def State.fillStatus (s : State) (fold img : Nat) : Nat := if (s.fold fold).missQueue.any (imgServes img) then 0 else 2

theorem State.fillStatus_cases : s.fillStatus fold img = 0 ∨ s.fillStatus fold img = 2 := by
  unfold State.fillStatus
  split
  · exact .inl rfl
  · exact .inr rfl

theorem State.fillStatus_eq_zero_iff : s.fillStatus fold img = 0 ↔ ∃ e ∈ (s.fold fold).missQueue, imgSpans img e.key = true := by
  rw [State.fillStatus, ite_eq_left_iff, ← List.any_eq_true]
  simp [imgServes]

/-- `t` is `s` in all but its cores, whose TLBs are as they were. -/
def State.Stalled (s t : State) : Prop := t = { s with cores := t.cores } ∧ ∀ c, (t.core c).tlb = (s.core c).tlb

theorem State.Stalled.refl (s : State) : s.Stalled s := ⟨rfl, fun _ => rfl⟩

theorem State.Stalled.trans {s t u : State} (h1 : s.Stalled t) (h2 : t.Stalled u) : s.Stalled u := by
  obtain ⟨e1, tlb1⟩ := h1
  obtain ⟨e2, tlb2⟩ := h2
  exact ⟨by rw [e2, e1], fun c => (tlb2 c).trans (tlb1 c)⟩

theorem State.Stalled.modMisses (s : State) (core : Nat) (g : List Miss → List Miss) :
    s.Stalled (s.modCore core (fun c => { c with misses := g c.misses })) := by
  refine ⟨rfl, fun c => ?_⟩
  rw [State.core_modCore]
  split
  next h => rw [h]
  next => rfl

theorem State.Stalled.ctxs {s t : State} (h : s.Stalled t) : t.ctxs = s.ctxs := by rw [h.1]
theorem State.Stalled.cur {s t : State} (h : s.Stalled t) : t.cur = s.cur := by rw [h.1]
theorem State.Stalled.folds {s t : State} (h : s.Stalled t) : t.folds = s.folds := by rw [h.1]

/-- The entries that an image serves leave the queue; what else changes is that accesses report again. -/
theorem State.stalled_serveQueue :
    (s.modFold fold (fun F => { F with missQueue := F.missQueue.filter (fun e => !(imgServes img e)) })).Stalled (s.serveQueue fold img) :=
  rel_foldl (R := State.Stalled) State.Stalled.refl State.Stalled.trans (fun s _ => by
    split
    · exact .refl _
    · exact .modMisses _ _ _) _ _

section

variable {b : Nat}

theorem State.cur_serveQueue : (s.serveQueue fold img).cur = s.cur := State.stalled_serveQueue.cur
theorem State.ctx_serveQueue (k : Nat) : (s.serveQueue fold img).ctx k = s.ctx k := by
  rw [State.ctx, State.stalled_serveQueue.ctxs]
  rfl
theorem State.tlb_serveQueue (c : Nat) : ((s.serveQueue fold img).core c).tlb = (s.core c).tlb := State.stalled_serveQueue.2 c

/-- The misses that an image serves leave the queue of its Fold, and no other (R189). -/
theorem State.missQueue_serveQueue : ((s.serveQueue fold img).fold fold).missQueue = (s.fold fold).missQueue.filter (fun e => !imgSpans img e.key) := by
  rw [State.fold, State.stalled_serveQueue.folds]
  refine (congrArg Fold.missQueue (State.fold_modFold s fold fold _)).trans ?_
  rw [if_pos rfl]
  rfl

theorem State.cur_noteTables : (s.noteTables p img present).cur = s.cur := rfl
theorem State.ctx_noteTables (k : Nat) : (s.noteTables p img present).ctx k = s.ctx k := rfl
theorem State.core_noteTables (c : Nat) : (s.noteTables p img present).core c = s.core c := rfl
theorem State.fold_noteTables (k : Nat) : (s.noteTables p img present).fold k = s.fold k := rfl

theorem State.retranslated_installs (s : State) (cs : List Nat) (img : Nat) :
    s.Retranslated (cs.foldl (fun (s : State) c => s.install c img) s) := .foldl (fun _ _ => .install) cs s

theorem State.cur_filled : (s.filled fold b img).cur = s.cur := by
  rw [State.filled, State.cur_noteTables, State.cur_serveQueue, (s.retranslated_installs _ img).cur]

theorem State.ctx_filled (k : Nat) : (s.filled fold b img).ctx k = s.ctx k := by
  rw [State.filled, State.ctx_noteTables, State.ctx_serveQueue, State.ctx, (s.retranslated_installs _ img).ctxs, State.ctx]

theorem State.missQueue_filled : ((s.filled fold b img).fold fold).missQueue = (s.fold fold).missQueue.filter (fun e => !imgSpans img e.key) := by
  rw [State.filled, State.fold_noteTables, State.missQueue_serveQueue, State.fold, (s.retranslated_installs _ img).folds, State.fold]

theorem State.tlb_filled (c : Nat) : ((s.filled fold b img).core c).tlb =
    (((maskCores fold b).foldl (fun (s : State) c => s.install c img) s).core c).tlb := by
  rw [State.filled, State.core_noteTables, State.tlb_serveQueue]

theorem State.tlbHas_filled {i : Nat} (hv : imgValid img = true) (hi : i < 16) (hb : b.testBit i = true) :
    (s.filled fold b img).tlbHas (fold * 16 + i) img := by
  have hinstall : (fun (s : State) c => s.install c img) = fun s c => s.installValid c img := funext₂ fun s c => if_pos hv
  rw [State.tlbHas, State.tlb_filled, hinstall]
  exact State.tlbHas_installValid_foldl (.inl ((mem_maskCores hi).2 hb))

theorem State.tlb_filled_of_invalid {i : Nat} (hv : imgValid img = false) (hi : i < 16) (hb : b.testBit i = true) :
    ((s.filled fold b img).core (fold * 16 + i)).tlb = (s.core (fold * 16 + i)).tlb.filter (fun e => !imgOverlaps e.2.toNat img) := by
  have hinstall : (fun (s : State) c => s.install c img) = fun s c => s.evict c (fun j => imgOverlaps j img) :=
    funext₂ fun s c => if_neg (by simp [hv])
  rw [State.tlb_filled, hinstall, State.tlb_evict_foldl, if_pos ((mem_maskCores hi).2 hb)]

end

end

section

variable {f : Fields} {s : State} {n : BitVec 6} {b : Nat} (ha : f.a = .c n) (htag : ((s.ctx s.cur).getC n).tag = false) (hb : holdsB s f false b)
  (hmd : f.md.getLsbD 0 = false)

include ha htag hb hmd

/-- With FAULT clear and an untagged image, TFILL looks at the mask and at the form of the image (R181, R189). -/
theorem tfillBody_eq : tfillBody f s =
    let fold := foldOf (coreOf s.cur)
    let img := ((s.ctx s.cur).getC n).val.toNat
    if b % 2 ^ 16 = 0 then done (s.setD f.d (word 0))
    else if imgWellFormed img then done ((s.filled fold b img).setD f.d (word (s.fillStatus fold img)))
    else done (s.setD f.d (word 1)) := by
  have hfault : ¬f.mod 0 1 = 1 := fun h => by
    have hbit : bitAt f.md.toNat 0 = true := beq_iff_eq.2 h
    rw [bitAt_toNat, hmd] at hbit
    exact Bool.false_ne_true hbit
  rw [tfillBody, State.capOpnd_c ha, htag]
  refine (need_bind_pass rfl).trans ((Exec.bind_of_ok (hb 0x224)).trans ?_)
  dsimp only
  rw [if_neg hfault]
  by_cases hcores : b % 2 ^ 16 = 0
  · rw [if_pos (maskCores_isEmpty_iff.2 hcores), if_pos hcores, CReg.word_eq]
  · rw [if_neg (mt maskCores_isEmpty_iff.1 hcores), if_neg hcores]
    by_cases hform : imgWellFormed ((s.ctx s.cur).getC n).val.toNat = true
    · rw [if_neg (by rw [hform]; exact Bool.false_ne_true), if_pos hform, CReg.word_eq, State.filled, State.fillStatus]
    · rw [if_pos (by rw [Bool.not_eq_true] at hform; rw [hform]; rfl), if_neg hform, CReg.word_eq]

variable (hg : acts s f)

include hg

/-- With an image of good form and a core in the mask, TFILL fills and answers of the queue. -/
theorem exec_tfill_fills (hcores : b % 2 ^ 16 ≠ 0) (hform : imgWellFormed ((s.ctx s.cur).getC n).val.toNat = true) :
    ∃ t, exec (.tfill f) s = .next t ∧ (s.filled (foldOf (coreOf s.cur)) b ((s.ctx s.cur).getC n).val.toNat).GoesOn t s.cur
      (putC f.d (word (s.fillStatus (foldOf (coreOf s.cur)) ((s.ctx s.cur).getC n).val.toNat)) (s.ctx s.cur)).advance := by
  have hbody := tfillBody_eq ha htag hb hmd
  dsimp only at hbody
  rw [if_neg hcores, if_pos hform] at hbody
  obtain ⟨t, ht, hgo⟩ := exec_of_vecBody_putC (exec_eq_runVector (i := .tfill f) rfl hg) State.cur_filled hbody
  rw [State.ctx_filled] at hgo
  exact ⟨t, ht, hgo⟩

theorem does_tfill_empty (hcores : b % 2 ^ 16 = 0) : does (.tfill f) s (putC f.d (word 0)) :=
  does_putC_of_body (body := tfillBody f) rfl hg ((tfillBody_eq ha htag hb hmd).trans (if_pos hcores))

theorem does_tfill_form (hcores : b % 2 ^ 16 ≠ 0) (hform : imgWellFormed ((s.ctx s.cur).getC n).val.toNat = false) :
    does (.tfill f) s (putC f.d (word 1)) :=
  does_putC_of_body (body := tfillBody f) rfl hg
    ((tfillBody_eq ha htag hb hmd).trans ((if_neg hcores).trans (if_neg (by rw [hform]; exact Bool.false_ne_true))))

end

/-- A destination written reads as what was written, where the context goes on. -/
theorem getC_of_goesOn_putC {s t : State} {k : Nat} {c : Ctx} {o : Opnd} {d : BitVec 6} {r : CReg} (hgo : s.GoesOn t k (putC o r c).advance)
    (ho : o = .c d) (hd : d ≠ 0) : (t.ctx k).getC d = r := by
  rw [Ctx.getC_of_c (hgo.ctx_c.trans (Ctx.advance_c _)), ho]
  exact Ctx.getC_setC_self c r hd

/-- Settles O31: TINV removes from its own TLB, and TFILL installs in each core of the mask and serves the queue of its Fold. -/
theorem tlbInvalidateAndFill : Obligations.TlbInvalidateAndFill := by
  intro f s n hg ha hs
  refine ⟨fun hdue => ⟨?tinv, ?all⟩, fun k b hservice hg' htag hb hmd =>
    ⟨fun hform hv => ?valid, fun hform hv hcores => ?invalid, fun hform hcores => ?form⟩⟩
  case tinv =>
    rw [← State.probeAddr_c ha]
    exact exec_of_body_evict (body := tinvBody f) rfl hg ((Exec.bind_of_ok (State.tinvCores_own hs)).trans (State.invalidate_own hs hdue))
  case all =>
    obtain ⟨t, ht, htlb, hothers, hmem⟩ := exec_of_body_evict (i := .tinvAll f) (body := tinvAllBody f) rfl hg
      ((Exec.bind_of_ok (State.tinvCores_own hs)).trans (State.invalidate_own (gone := fun _ => true) hs hdue))
    exact ⟨t, ht, htlb.trans (by simp), hothers, hmem⟩
  case valid =>
    by_cases hcores : b % 2 ^ 16 = 0
    · obtain ⟨t, ht, -⟩ := does_tfill_empty ha htag hb hmd hg' hcores
      refine ⟨t, 0, ht, fun h => absurd hcores h, fun _ _ _ h => absurd hcores h, fun i hi hbit => ?_⟩
      exact absurd ((mem_maskCores (fold := 0) hi).2 hbit) (List.isEmpty_iff.1 (maskCores_isEmpty_iff.2 hcores) ▸ List.not_mem_nil)
    · obtain ⟨t, ht, hgo⟩ := exec_tfill_fills ha htag hb hmd hg' hcores hform
      exact ⟨t, _, ht, fun _ => ⟨State.fillStatus_cases, State.fillStatus_eq_zero_iff, (hgo.missQueue_eq _).trans State.missQueue_filled⟩,
        fun d hd hd0 _ => getC_of_goesOn_putC hgo hd hd0, fun i hi hbit => (hgo.tlb_eq _).symm ▸ State.tlbHas_filled hv hi hbit⟩
  case invalid =>
    obtain ⟨t, ht, hgo⟩ := exec_tfill_fills ha htag hb hmd hg' hcores hform
    exact ⟨t, ht, (hgo.missQueue_eq _).trans State.missQueue_filled, fun i hi hbit => (hgo.tlb_eq _).trans (State.tlb_filled_of_invalid hv hi hbit)⟩
  case form => exact does_tfill_form ha htag hb hmd hg' hcores hform

end Sys2Proof.Machine
end

section
/-! # Miss reports, notices of translations and of migrations, MQTAIL and the fault buffer (O32)

Each of these events is one operation on a Fold's tables: its miss queue, its fault buffer, or what it counts of pages. What stands
beside it is a mark on the miss that reported, an entry in an inbox, or a register of the Drover context page. -/

namespace Sys2Proof.Machine

open Sys2Proof.Claims

/-! ### Miss reports (R183) -/

section

variable {s : State} {core slot : Nat} {m : Miss} {g : Miss → Bool}

theorem State.mem_misses_of_missOf (h : s.missOf core slot g = some m) : m ∈ (s.core core).misses := List.mem_of_find?_eq_some h

theorem missReport_eq (h : s.missOf core slot (fun x => x.tried.isNone) = some m) : exec (.missReport core slot) s = .next (s.reportMiss core m) := by
  show Host.Outcome.next (missReportStep core slot s) = _
  rw [missReportStep, h]

theorem missReportRepeat_eq
    (h : s.missOf core slot (fun x => match x.tried with | some t => decide (t + 1000 ≤ s.time) | none => false) = some m) :
    exec (.missReportRepeat core slot) s = .next (s.reportMiss core m) := by
  show Host.Outcome.next (missReportRepeatStep core slot s) = _
  rw [missReportRepeatStep]
  split
  next m' h' => rw [Option.some.inj (h'.symm.trans h)]
  next h' => cases h'.symm.trans h

variable (hkey : ∀ e ∈ (s.fold (foldOf core)).missQueue, e.key ≠ m.va / 2 ^ 19 * 2 ^ 19)

include hkey

theorem not_any_key : ¬((s.fold (foldOf core)).missQueue.any (fun e => e.key == m.va / 2 ^ 19 * 2 ^ 19) = true) := by
  simpa using hkey

/-- A report of a page that is not queued enters the queue while there is room. -/
theorem State.reportMiss_enters (hroom : (s.fold (foldOf core)).missQueue.length < 64) :
    ((s.reportMiss core m).fold (foldOf core)).missQueue = (s.fold (foldOf core)).missQueue ++ [⟨m.va / 2 ^ 19 * 2 ^ 19, 2 ^ (core % 16)⟩] ∧
      (s.reportMiss core m).mem = s.mem ∧ (s.reportMiss core m).ctxs = s.ctxs := by
  rw [State.reportMiss]
  dsimp only
  rw [if_neg (not_any_key hkey), if_pos hroom, State.fold_modCore, State.fold_modFold, if_pos rfl]
  exact ⟨rfl, rfl, rfl⟩

/-- One that finds the queue full is noted with the time (R183). -/
theorem State.reportMiss_full (hfull : (s.fold (foldOf core)).missQueue.length = 64) (hm : m ∈ (s.core core).misses) :
    ((s.reportMiss core m).fold (foldOf core)).missQueue = (s.fold (foldOf core)).missQueue ∧
      { m with tried := some s.time } ∈ ((s.reportMiss core m).core core).misses := by
  rw [State.reportMiss]
  dsimp only
  rw [if_neg (not_any_key hkey), if_neg (by omega), State.core_modCore, if_pos rfl]
  exact ⟨rfl, List.mem_map.2 ⟨m, hm, if_pos rfl⟩⟩

end

/-! ### Inboxes and notices of translations (R191, R212) -/

section

variable {s : State} {key fold i : Nat} {x : InEntry} {failed : Bool}

/-- What comes to the inbox of a vcore that has not ended is in it, or held for it. -/
theorem State.mem_putInbox (h : (s.slot key).ended = false) (names : List Nat) :
    x ∈ ((s.putInbox key x names).slot key).inbox ++ ((s.putInbox key x names).slot key).held.map (·.entry) := by
  rw [State.putInbox, State.slot_modSlot, if_pos rfl, h]
  split
  next hfull => cases hfull
  split
  · exact List.mem_append_left _ (List.mem_append_right _ List.mem_cons_self)
  · simp

theorem translationNotice_eq (hused : (Sparse.get {} (s.fold fold).faults i).used = true) (hkind : (Sparse.get {} (s.fold fold).faults i).kind = 1)
    (hnoticed : (Sparse.get {} (s.fold fold).faults i).noticed = false) (hslot : s.faulterSlot (Sparse.get {} (s.fold fold).faults i) = some key)
    (hroom : (s.slot key).inboxRoom = true) :
    exec (.translationNotice fold i failed) s = .next
      ((s.modFold fold (fun F => { F with faults := F.faults.put i { Sparse.get {} (s.fold fold).faults i with noticed := true } })).putInbox key
        { val := inboxEntry i 0x08 (if failed then 1 else 0) 0 (Sparse.get {} (s.fold fold).faults i).va }) := by
  show Host.Outcome.next (translationNoticeStep fold i failed s) = _
  rw [translationNoticeStep]
  dsimp only
  rw [if_neg (by rw [hused, hkind, hnoticed]; decide), hslot]
  dsimp only
  rw [if_neg (by simp [hroom])]

end

/-! ### Registers of the Drover context page (R193) -/

section

variable {s : State} {p off off' x : Nat}

theorem State.mem_setPageReg (s : State) (p off x : Nat) : (s.setPageReg p off x).mem = s.mem := rfl

theorem State.pageReg_setPageReg_self (hx : x < 2 ^ 64) : (s.setPageReg p off x).pageReg p off = x :=
  (s.pageReg_set p off x).trans (Nat.mod_eq_of_lt hx)

theorem State.pageReg_setPageReg_of_ne (h : off' ≠ off) : (s.setPageReg p off x).pageReg p off' = s.pageReg p off' := by
  unfold State.pageReg State.setPageReg
  rw [State.drover_modDrover, if_pos rfl, Sparse.get_set, if_neg h]

end

/-! ### Counts of accesses and migration notices (R195) -/

section

variable {s : State} {fold page core : Nat}

/-- A core's batch of 64 is taken from its count of the page. -/
def State.batchTaken (s : State) (core page : Nat) : State :=
  s.modCore core (fun C => { C with pageCounts := Sparse.set 0 C.pageCounts page (Sparse.get 0 C.pageCounts page - 64) })

/-- What a batch of 64 does to the Fold's count of the page: nothing while counting is off, a notice where it reaches the threshold, and otherwise
64 more. -/
theorem migrationCountReport_eq
    (h : (maskCores fold 0xFFFF).find? (fun c => decide (64 ≤ Sparse.get 0 (s.core c).pageCounts page)) = some core) :
    exec (.migrationCountReport fold page) s = .next (
      if s.pageReg (s.paddockOfFold fold) 0x288 % 2 ^ 32 = 0 then s.batchTaken core page
      else if s.pageReg (s.paddockOfFold fold) 0x288 % 2 ^ 32 ≤ (Sparse.get {} (s.fold fold).pages page).count + 64 then
        (s.batchTaken core page).migrationNotice fold page
      else (s.batchTaken core page).modFold fold (fun F => { F with
        pages := F.pages.put page { Sparse.get {} (s.fold fold).pages page with count := (Sparse.get {} (s.fold fold).pages page).count + 64 } })) := by
  show Host.Outcome.next (migrationCountReportStep fold page s) = _
  rw [migrationCountReportStep, h, fld_zero]
  rfl

theorem State.pageReg_batchTaken (p off : Nat) : (s.batchTaken core page).pageReg p off = s.pageReg p off := rfl
theorem State.fold_batchTaken (k : Nat) : (s.batchTaken core page).fold k = s.fold k := rfl
theorem State.paddockOfFold_batchTaken (k : Nat) : (s.batchTaken core page).paddockOfFold k = s.paddockOfFold k := rfl

/-- The notice of a page written at HEAD, HEAD advanced, and the page queued with its count at 0. -/
def State.noticePosted (s : State) (fold page : Nat) : State :=
  let p := s.paddockOfFold fold
  let size := page % 2 ^ 19
  let note := natToBytes 16 ((page - size) % 2 ^ 56 + size % 4 * 2 ^ 56 + fold % 2 ^ 7 * 2 ^ 64 + s.time % 2 ^ 32 * 2 ^ 96)
  (((s.walkWrite p (fld (s.pageReg p 0x268) 0 56 + 16 * (s.pageReg p 0x270 % 1024)) note).getD s).setPageReg p 0x270
    ((s.pageReg p 0x270 + 1) % 2 ^ 32)).modFold fold (fun F => { F with pages := F.pages.put page { count := 0, queued := true } })

theorem State.pageReg_noticePosted :
    (s.noticePosted fold page).pageReg (s.paddockOfFold fold) 0x270 = (s.pageReg (s.paddockOfFold fold) 0x270 + 1) % 2 ^ 32 :=
  State.pageReg_setPageReg_self ((Nat.mod_lt _ (by decide)).trans (by decide))

theorem State.queued_noticePosted : (Sparse.get {} ((s.noticePosted fold page).fold fold).pages page).queued = true := by
  rw [State.noticePosted, State.fold_modFold, if_pos rfl, Sparse.get_put, if_pos rfl]

/-- A crossing that is not queued posts its notice while the queue has room, and may raise the interrupt of its slot. -/
theorem State.migrationNotice_posts (hqueued : (Sparse.get {} (s.fold fold).pages page).queued = false)
    (hroom : (s.pageReg (s.paddockOfFold fold) 0x270 + 2 ^ 32 - s.pageReg (s.paddockOfFold fold) 0x278) % 2 ^ 32 ≠ 1024) :
    s.migrationNotice fold page = s.noticePosted fold page ∨
      ∃ key, s.migrationNotice fold page = (s.noticePosted fold page).modSlot key (fun l => { l with intrMigrate := true }) := by
  rw [State.migrationNotice]
  dsimp only
  rw [if_neg (by rw [hqueued]; exact Bool.false_ne_true), if_neg hroom]
  split
  next key _ =>
    split
    · exact .inr ⟨key, rfl⟩
    · exact .inl rfl
  next => exact .inl rfl

theorem State.migrationNotice_spec (hqueued : (Sparse.get {} (s.fold fold).pages page).queued = false)
    (hroom : (s.pageReg (s.paddockOfFold fold) 0x270 + 2 ^ 32 - s.pageReg (s.paddockOfFold fold) 0x278) % 2 ^ 32 ≠ 1024) :
    (s.migrationNotice fold page).pageReg (s.paddockOfFold fold) 0x270 = (s.pageReg (s.paddockOfFold fold) 0x270 + 1) % 2 ^ 32 ∧
      (Sparse.get {} ((s.migrationNotice fold page).fold fold).pages page).queued = true := by
  obtain h | ⟨key, h⟩ := State.migrationNotice_posts hqueued hroom
  · rw [h]
    exact ⟨State.pageReg_noticePosted, State.queued_noticePosted⟩
  · rw [h]
    exact ⟨State.pageReg_noticePosted, State.queued_noticePosted⟩

end

/-! ### MQTAIL (R195) -/

section

variable {s : State} {p j at_ : Nat} {value : Word64}

/-- `t` is `s` in all but its Folds. -/
def State.FoldsOnly (s t : State) : Prop := t = { s with folds := t.folds }

theorem State.FoldsOnly.trans {s t u : State} (h1 : s.FoldsOnly t) (h2 : t.FoldsOnly u) : s.FoldsOnly u := by
  unfold State.FoldsOnly at *
  rw [h2, h1]

theorem State.FoldsOnly.mem {s t : State} (h : s.FoldsOnly t) : t.mem = s.mem := by rw [h]

theorem State.FoldsOnly.pageReg {s t : State} (h : s.FoldsOnly t) (p off : Nat) : t.pageReg p off = s.pageReg p off := by
  unfold State.pageReg State.drover
  rw [h]

theorem State.foldsOnly_unqueue : s.FoldsOnly (s.unqueue p at_) := by
  unfold State.unqueue
  split <;> rfl

/-- The pages of the notices between TAIL and a new one are queued no longer. -/
def State.unqueuedTo (s : State) (j new : Nat) : State :=
  (List.range (Nat.min ((new + 2 ^ 32 - s.pageReg j 0x278) % 2 ^ 32) 1024)).foldl
    (fun (t : State) i => t.unqueue j (fld (s.pageReg j 0x268) 0 56 + 16 * ((s.pageReg j 0x278 + i) % 1024))) s

theorem State.foldsOnly_unqueuedTo (s : State) (j new : Nat) : s.FoldsOnly (s.unqueuedTo j new) :=
  rel_foldl (R := State.FoldsOnly) (fun _ => rfl) .trans (fun _ _ => State.foldsOnly_unqueue) _ s

theorem mqtailWrite_moves (hserving : s.serving = true) (hj : j < s.paddocks)
    (hok : tailOk (s.pageReg j 0x270) (s.pageReg j 0x278) (value.toNat % 2 ^ 32) = true) :
    exec (.mqtailWrite j value) s = .next ((s.unqueuedTo j (value.toNat % 2 ^ 32)).setPageReg j 0x278 (value.toNat % 2 ^ 32)) := by
  show Host.Outcome.next (mqtailWriteStep j value s) = _
  rw [mqtailWriteStep]
  dsimp only
  rw [fld_zero, if_neg (by rw [hserving, hok, decide_eq_false (Nat.not_le.2 hj)]; decide), State.unqueuedTo]

end

/-! ### The fault buffer (R351) -/

theorem fbfree_owned {s : State} {core slot i : Nat} {value : Word64} {e : FaultEntry} (hi : value.toNat % 2 ^ 8 = i)
    (he : Sparse.get {} (s.fold (foldOf core)).faults i = e) (hused : e.used = true) (hcore : e.core = core) (hslot : e.slot = slot)
    (hlid : e.lid = (s.slot (slotKey core slot)).lid) (hvcore : e.vcore = (s.slot (slotKey core slot)).vcore) :
    exec (.fbfree core slot value) s = .next (s.modFold (foldOf core) (fun F => { F with faults := Sparse.drop F.faults i })) := by
  show Host.Outcome.next (fbfreeStep core slot value s) = _
  rw [fbfreeStep, fld_zero, hi]
  show Host.Outcome.next (if _ then _ else _) = _
  rw [he, if_pos (by simp [hused, hcore, hslot, hlid, hvcore])]

/-- Settles O32: the equation of each event in its case, and what it leaves in the Fold, the inbox or the register. -/
theorem translationEvents : Obligations.TranslationEvents := by
  refine ⟨fun core slot s m => ?report, fun core slot s m => ?full, fun core slot s m => ?repeated, fun fold i key failed s => ?notice,
    fun fold page core s => ?count, fun j value s hserving hj hok => ?tail, fun core slot value s => ?free⟩
  case report =>
    intro fold h hroom hkey
    exact ⟨_, missReport_eq h, State.reportMiss_enters hkey hroom⟩
  case full =>
    intro fold h hfull hkey
    exact ⟨_, missReportRepeat_eq h, State.reportMiss_full hkey hfull (State.mem_misses_of_missOf h)⟩
  case repeated =>
    intro fold h hroom hkey
    exact ⟨_, missReportRepeat_eq h, State.reportMiss_enters hkey hroom⟩
  case notice =>
    intro e hused hkind hnoticed hslot hended hroom
    refine ⟨_, translationNotice_eq hused hkind hnoticed hslot hroom, ?_, _, State.mem_putInbox hended [], rfl⟩
    rw [State.putInbox, State.fold_modSlot, State.fold_modFold, if_pos rfl, Sparse.get_put, if_pos rfl]
  case count =>
    intro p h
    refine ⟨_, migrationCountReport_eq h, fun hon hbelow => ?below, fun hoff => ?off, fun hon hreached hqueued hroom => ?reached⟩
    case below =>
      rw [if_neg hon, if_neg (Nat.not_le.2 hbelow), State.fold_modFold, if_pos rfl, Sparse.get_put, if_pos rfl]
    case off =>
      rw [if_pos hoff, State.batchTaken, State.core_modCore, if_pos rfl, Sparse.get_set, if_pos rfl]
    case reached =>
      rw [if_neg hon, if_pos hreached]
      exact State.migrationNotice_spec (s := s.batchTaken core page) hqueued hroom
  case tail =>
    have hu := s.foldsOnly_unqueuedTo j (value.toNat % 2 ^ 32)
    exact ⟨_, mqtailWrite_moves hserving hj hok, State.pageReg_setPageReg_self ((Nat.mod_lt _ (by decide)).trans (by decide)),
      (State.mem_setPageReg _ _ _ _).trans hu.mem, (State.pageReg_setPageReg_of_ne (by decide)).trans (hu.pageReg _ _)⟩
  case free =>
    intro i e hused hcore hslot hlid hvcore
    have hi : value.toNat % 2 ^ 8 = i := congrArg (value.toNat % ·) (by decide)
    refine ⟨_, fbfree_owned hi rfl hused hcore hslot hlid hvcore, ?_, fun j hj => ?_, rfl, rfl⟩
    · rw [State.fold_modFold, if_pos rfl, Sparse.get_drop, if_pos rfl]
    · rw [State.fold_modFold, if_pos rfl, Sparse.get_drop, if_neg hj]

end Sys2Proof.Machine
end

section
/-! # Locked regions (O30)

TLOCK walks its region from page to page through the TLB, for 17 pages and as many more as its context has misses noted. The claim walks
17. Where the TLB lists each index once the two agree: 17 pages are 17 entries, and those are more than a slot may lock. A list of entries
that names an index twice is no table, and there the claim is false: 17 pages can be one entry, and the walk goes on to the 18th. -/

namespace Sys2Proof.Machine

open Sys2Proof.Claims

/-! ### The walk through a region (R186) -/

section

variable {C : Core} {failed : Nat → Bool} {hi fuel a : Nat} {acc es : List Nat} {bad bad' : Bool}

theorem tlbRegion_done (h : hi ≤ a) : tlbRegion C failed hi (fuel + 1) a acc bad = (acc, none, bad) := if_pos h

theorem tlbRegion_step {i img : Nat} (h : ¬hi ≤ a) (hfind : tlbFind C a = some (i, img)) :
    tlbRegion C failed hi (fuel + 1) a acc bad = tlbRegion C failed hi fuel (imgVA img + 2 ^ pageShift (imgSize img)) (acc ++ [i]) bad := by
  rw [tlbRegion, if_neg h, hfind]

theorem tlbRegion_missing (h : ¬hi ≤ a) (hfind : tlbFind C a = none) :
    tlbRegion C (fun _ => false) hi (fuel + 1) a acc bad = (acc, some a, bad) := by
  rw [tlbRegion, if_neg h, hfind]
  rfl

/-- The walk adds to what it has found. -/
theorem tlbRegion_extends : acc <+: (tlbRegion C failed hi fuel a acc bad).1 := by
  fun_induction tlbRegion C failed hi fuel a acc bad
  case case5 ih => exact List.IsPrefix.trans ⟨_, rfl⟩ ih
  case case3 ih => exact ih
  all_goals exact ⟨[], List.append_nil _⟩

/-- A walk that misses nothing has come to the end of the region, or has found as many entries as it had steps; one with more steps gives
the same, or goes on from there. -/
theorem tlbRegion_more (h : tlbRegion C (fun _ => false) hi fuel a acc bad = (es, none, bad')) :
    (∀ failed n, tlbRegion C failed hi (fuel + n) a acc bad = (es, none, bad')) ∨
      (es.length = acc.length + fuel ∧ ∀ failed n, es <+: (tlbRegion C failed hi (fuel + n) a acc bad).1) := by
  induction fuel generalizing a acc with
  | zero =>
    obtain rfl : acc = es := congrArg Prod.fst h
    exact .inr ⟨rfl, fun _ _ => tlbRegion_extends⟩
  | succ fuel ih =>
    simp only [Nat.add_right_comm fuel 1]
    by_cases hend : hi ≤ a
    · rw [tlbRegion_done hend] at h
      exact .inl fun _ _ => (tlbRegion_done hend).trans h
    · cases hfind : tlbFind C a with
      | none =>
        rw [tlbRegion_missing hend hfind] at h
        cases congrArg (·.2.1) h
      | some e =>
        rw [tlbRegion_step hend hfind] at h
        simp only [tlbRegion_step hend hfind]
        refine (ih h).imp_right fun ⟨hlen, hmore⟩ => ⟨?_, hmore⟩
        rw [hlen, List.length_append, List.length_singleton, Nat.add_assoc, Nat.add_comm 1]

/-- An address that a page spans lies below its end. -/
theorem lt_end_of_imgSpans {img va : Nat} (h : imgSpans img va = true) : va < imgVA img + 2 ^ pageShift (imgSize img) := by
  rw [imgSpans, beq_iff_eq] at h
  have hpos : 0 < 2 ^ pageShift (imgSize img) := Nat.two_pow_pos _
  have hva := Nat.div_add_mod va (2 ^ pageShift (imgSize img))
  have hlt := Nat.mod_lt va hpos
  have himg := Nat.div_mul_le_self (imgVA img) (2 ^ pageShift (imgSize img))
  rw [h, Nat.mul_comm] at hva
  omega

theorem tlbFind_spec {i img : Nat} (h : tlbFind C a = some (i, img)) : ∃ x : BitVec 128, (i, x) ∈ C.tlb ∧ x.toNat = img ∧ imgSpans img a = true := by
  obtain ⟨⟨j, x⟩, hfind, hx⟩ := Option.map_eq_some_iff.1 h
  cases hx
  have hcovers := List.find?_some hfind
  exact ⟨x, List.mem_of_find?_eq_some hfind, rfl, (Bool.and_eq_true_iff.1 hcovers).2⟩

/-- Where each index is listed once, the walk finds no entry twice: what it has found lies below it. -/
theorem nodup_tlbRegion (htlb : (C.tlb.map (·.1)).Nodup) (hacc : acc.Nodup)
    (hbelow : ∀ e ∈ C.tlb, e.1 ∈ acc → imgVA e.2.toNat + 2 ^ pageShift (imgSize e.2.toNat) ≤ a) :
    (tlbRegion C (fun _ => false) hi fuel a acc bad).1.Nodup := by
  induction fuel generalizing a acc with
  | zero => exact hacc
  | succ fuel ih =>
    by_cases hend : hi ≤ a
    · rw [tlbRegion_done hend]
      exact hacc
    · cases hfind : tlbFind C a with
      | none =>
        rw [tlbRegion_missing hend hfind]
        exact hacc
      | some e =>
        obtain ⟨i, img⟩ := e
        obtain ⟨x, hx, rfl, hspans⟩ := tlbFind_spec hfind
        have hlt := lt_end_of_imgSpans hspans
        rw [tlbRegion_step hend hfind]
        refine ih (List.nodup_append.2 ⟨hacc, List.nodup_singleton i, ?_⟩) fun e he hmem => ?_
        · intro j hj k hk hjk
          obtain rfl := List.mem_singleton.1 hk
          subst hjk
          exact absurd (hbelow _ hx hj) (Nat.not_le.2 hlt)
        · obtain hmem | hmem := List.mem_append.1 hmem
          · exact (hbelow e he hmem).trans hlt.le
          · obtain rfl : e = (i, x) := List.inj_on_of_nodup_map htlb he hx (List.mem_singleton.1 hmem)
            exact le_rfl

end

/-! ### Sets of entries -/

theorem NatSet.mem_foldl_insert {es : List Nat} {m : NatSet} {i : Nat} : i ∈ es.foldl NatSet.insert m ↔ i ∈ es ∨ i ∈ m := by
  induction es generalizing m with
  | nil => simp
  | cons e es ih => rw [List.foldl_cons, ih, NatSet.mem_insert, List.mem_cons, or_left_comm, or_assoc]

theorem NatSet.length_le_insert (m : NatSet) (i : Nat) : m.length ≤ (NatSet.insert m i).length := by
  fun_induction NatSet.insert m i <;> simp_all

theorem NatSet.length_le_foldl_insert (es : List Nat) (m : NatSet) : m.length ≤ (es.foldl NatSet.insert m).length := by
  induction es generalizing m with
  | nil => rfl
  | cons e es ih => exact (NatSet.length_le_insert m e).trans (ih _)

/-- More entries make no smaller set. -/
theorem NatSet.length_foldl_insert_mono {es es' : List Nat} (h : es <+: es') (m : NatSet) :
    (es.foldl NatSet.insert m).length ≤ (es'.foldl NatSet.insert m).length := by
  obtain ⟨rest, rfl⟩ := h
  rw [List.foldl_append]
  exact NatSet.length_le_foldl_insert rest _

theorem NatSet.length_le_of_nodup {es : List Nat} (h : es.Nodup) (m : NatSet) : es.length ≤ (es.foldl NatSet.insert m).length :=
  (h.subperm fun _ hi => NatSet.mem_foldl_insert.2 (.inl hi)).length_le

theorem State.mayLock_iff {s : State} {core : Nat} {sl : Slot} {es : List Nat} : s.mayLock core sl es = true ↔
    (es.foldl NatSet.insert sl.lockedEntries).length ≤ 16 ∧ (es.foldl NatSet.insert (s.coreLocked core)).length ≤ 96 := by
  rw [State.mayLock, Bool.and_eq_true, decide_eq_true_iff, decide_eq_true_iff]

/-! ### TLOCK (R186) -/

/-- The misses that a context has noted. -/
def State.missesOf (s : State) (k : Nat) : List Miss := (s.core (coreOf k)).misses.filter (fun m => m.ctx == some k)

/-- What TLOCK finds of a capability's region. -/
def State.lockRegion (s : State) (c : Cap) : List Nat × Option Nat × Bool :=
  tlbRegion (s.core (coreOf s.cur)) (fun a => (s.missesOf s.cur).any (fun m => m.va == a && m.kind == 0 && m.fail != 0)) (c.base + c.len)
    (17 + (s.missesOf s.cur).length) c.cursor [] false

/-- The record of a capability's region, locked with these entries. -/
def lockRec (c : Cap) (es : List Nat) : LockRec := { used := true, lo := c.cursor, hi := c.base + c.len, entries := es }

/-- An unsealed capability of SPACE 0 with R is what TLOCK takes. -/
theorem lockable {c : Cap} (hS : c.perm.testBit 6 = false) (hR : c.perm.testBit 0 = true) (hspace : c.space = 0) :
    (!(c.has permS) && c.space == 0 && c.has permR) = true := by
  rw [Cap.has_eq_testBit, Cap.has_eq_testBit, permS, permR, hS, hR, hspace]
  rfl

section

variable {f : Fields} {s : State} {n : BitVec 6} {c : Cap} {es : List Nat} {i : Nat} (ha : f.a = .c n) (htag : ((s.ctx s.cur).getC n).tag = true)
  (hc : ((s.ctx s.cur).getC n).cap = c) (hS : c.perm.testBit 6 = false) (hR : c.perm.testBit 0 = true) (hspace : c.space = 0) (hoff : c.off < c.len)

include ha htag hc hS hR hspace hoff

/-- A region that is found whole, and that the slot and the core may lock, is locked in the lowest free record. -/
theorem tlockBody_locks (hregion : s.lockRegion c = (es, none, false)) (hmay : s.mayLock (coreOf s.cur) (s.slotOf s.cur) es = true) (hi : i < 8)
    (hfree : (Sparse.get {} (s.slotOf s.cur).locks i).used = false) (hlow : ∀ j < i, (Sparse.get {} (s.slotOf s.cur).locks j).used = true) :
    tlockBody f s = done ((s.modSlot (s.slotKeyOf s.cur) (fun l => { l with locks := l.locks.put i (lockRec c es) })).setD f.d (word (i * 2 ^ 8))) := by
  have hlowest : (List.range 8).find? (fun i => !(Sparse.get {} (s.slotOf s.cur).locks i).used) = some i :=
    List.find?_range_eq_some.2 ⟨by rw [hfree]; rfl, List.mem_range.2 hi, fun j hj => by rw [hlow j hj]; rfl⟩
  rw [State.lockRegion, State.missesOf] at hregion
  rw [tlockBody, State.capOpnd_c ha, hc]
  refine (need_bind_pass htag).trans ((need_bind_pass (lockable hS hR hspace)).trans ((need_bind_pass (decide_eq_true hoff)).trans ?_))
  dsimp only
  rw [hregion, hlowest]
  dsimp only
  rw [if_neg (by rw [hmay]; exact Bool.false_ne_true), if_neg Bool.false_ne_true, Option.getD_some, CReg.word_eq, lockRec]

/-- No free record, or entries that the slot or the core may not lock: FULL, whatever the rest of the walk gives. -/
theorem tlockBody_full (h : (∀ i < 8, (Sparse.get {} (s.slotOf s.cur).locks i).used = true) ∨
      s.mayLock (coreOf s.cur) (s.slotOf s.cur) (s.lockRegion c).1 = false) :
    tlockBody f s = done (s.setD f.d (word 1)) := by
  have hfull : (((List.range 8).find? (fun i => !(Sparse.get {} (s.slotOf s.cur).locks i).used)).isNone ||
      !s.mayLock (coreOf s.cur) (s.slotOf s.cur) (s.lockRegion c).1) = true := by
    obtain h | h := h
    · rw [List.find?_eq_none.2 fun i hi => by rw [h i (List.mem_range.1 hi)]; exact Bool.false_ne_true]
      rfl
    · rw [h]
      exact Bool.or_true _
  rw [tlockBody, State.capOpnd_c ha, hc]
  refine (need_bind_pass htag).trans ((need_bind_pass (lockable hS hR hspace)).trans ((need_bind_pass (decide_eq_true hoff)).trans ?_))
  rw [State.lockRegion, State.missesOf] at hfull
  dsimp only
  rw [if_pos hfull, CReg.word_eq]

variable (hg : acts s f)

include hg

theorem tlock_goesOn (hregion : s.lockRegion c = (es, none, false)) (hmay : s.mayLock (coreOf s.cur) (s.slotOf s.cur) es = true) (hi : i < 8)
    (hfree : (Sparse.get {} (s.slotOf s.cur).locks i).used = false) (hlow : ∀ j < i, (Sparse.get {} (s.slotOf s.cur).locks j).used = true) :
    ∃ t, exec (.tlock f) s = .next t ∧ (s.modSlot (s.slotKeyOf s.cur) (fun l => { l with locks := l.locks.put i (lockRec c es) })).GoesOn t s.cur
      (putC f.d (word (i * 2 ^ 8)) (s.ctx s.cur)).advance :=
  exec_of_vecBody_putC (exec_eq_runVector (i := .tlock f) rfl hg) (State.modSlot_cur _ _ _)
    (tlockBody_locks ha htag hc hS hR hspace hoff hregion hmay hi hfree hlow)

variable (hwalk : tlbRegion (s.core (coreOf s.cur)) (fun _ => false) (c.base + c.len) 17 c.cursor [] false = (es, none, false))

include hwalk

/-- R186 as the claim has it, where the TLB of the core lists each index once: what a walk of 17 pages finds is locked. -/
theorem tlock_locks_of_nodup (htlb : ((s.core (coreOf s.cur)).tlb.map (·.1)).Nodup)
    (hmay : s.mayLock (coreOf s.cur) (s.slotOf s.cur) es = true) (hi : i < 8)
    (hfree : (Sparse.get {} (s.slotOf s.cur).locks i).used = false) (hlow : ∀ j < i, (Sparse.get {} (s.slotOf s.cur).locks j).used = true) :
    ∃ t, exec (.tlock f) s = .next t ∧ (s.modSlot (s.slotKeyOf s.cur) (fun l => { l with locks := l.locks.put i (lockRec c es) })).GoesOn t s.cur
      (putC f.d (word (i * 2 ^ 8)) (s.ctx s.cur)).advance := by
  have hnodup : es.Nodup := by
    have h := nodup_tlbRegion (hi := c.base + c.len) (fuel := 17) (a := c.cursor) (bad := false) htlb List.nodup_nil (fun _ _ h => absurd h List.not_mem_nil)
    rwa [hwalk] at h
  obtain hend | ⟨hlen, -⟩ := tlbRegion_more hwalk
  · exact tlock_goesOn ha htag hc hS hR hspace hoff hg (hend _ _) hmay hi hfree hlow
  · have hmany := NatSet.length_le_of_nodup hnodup (s.slotOf s.cur).lockedEntries
    rw [hlen] at hmany
    exact absurd (State.mayLock_iff.1 hmay).1 (Nat.not_le.2 (Nat.lt_of_lt_of_le (by decide) hmany))

/-- What a walk of 17 pages finds is too much already, or no record is free: FULL. -/
theorem does_tlock_full (h : (∀ i < 8, (Sparse.get {} (s.slotOf s.cur).locks i).used = true) ∨
      s.mayLock (coreOf s.cur) (s.slotOf s.cur) es = false) : does (.tlock f) s (putC f.d (word 1)) := by
  refine does_putC_of_body (body := tlockBody f) rfl hg (tlockBody_full ha htag hc hS hR hspace hoff (h.imp_right fun hmay => ?_))
  have hextends : es <+: (s.lockRegion c).1 := by
    obtain hend | ⟨-, hmore⟩ := tlbRegion_more hwalk
    · rw [State.lockRegion, hend]
    · exact hmore _ _
  rw [← Bool.not_eq_true, State.mayLock_iff] at hmay ⊢
  exact fun ⟨hslot, hcore⟩ => hmay ⟨(NatSet.length_foldl_insert_mono hextends _).trans hslot, (NatSet.length_foldl_insert_mono hextends _).trans hcore⟩

end

/-! ### TUNLOCK and TPROBE (R186, R187) -/

section

variable {f : Fields} {s : State} {b : Nat} (hg : acts s f)

include hg

theorem tunlock_frees (hb : holdsB s f false b) (hle : b ≤ 7) (hused : (Sparse.get {} (s.slotOf s.cur).locks b).used = true) :
    ∃ t, exec (.tunlock f) s = .next t ∧ (s.modSlot (s.slotKeyOf s.cur) (fun l => { l with locks := l.locks.drop b })).GoesOn t s.cur
      (putC f.d (word 0) (s.ctx s.cur)).advance := by
  have hbody : tunlockBody f s = done ((s.modSlot (s.slotKeyOf s.cur) (fun l => { l with locks := l.locks.drop b })).setD f.d (word 0)) := by
    refine (Exec.bind_of_ok (hb 0x221)).trans ((if_pos ?_).trans (by rw [CReg.word_eq]))
    rw [hused, decide_eq_true hle]
    rfl
  exact exec_of_vecBody_putC (exec_eq_runVector (i := .tunlock f) rfl hg) (State.modSlot_cur _ _ _) hbody

theorem does_tunlock_none (hb : holdsB s f false b) (h : 7 < b ∨ (Sparse.get {} (s.slotOf s.cur).locks b).used = false) :
    does (.tunlock f) s (putC f.d (word 3)) := by
  have hbody : tunlockBody f s = done (s.setD f.d (word 3)) := by
    refine (Exec.bind_of_ok (hb 0x221)).trans ((if_neg ?_).trans (by rw [CReg.word_eq]))
    rw [Bool.and_eq_true, decide_eq_true_iff, not_and_or, Nat.not_le, Bool.not_eq_true]
    exact h
  exact does_putC_of_body (body := tunlockBody f) rfl hg hbody

theorem does_tprobe : does (.tprobe f) s (putC f.d ⟨false, match tlbFind (s.core (coreOf s.cur)) (s.probeAddr f.a) with
    | some (_, img) => BitVec.ofNat 128 img
    | none => 0⟩) := by
  refine does_putC_of_body (body := tprobeBody f) rfl hg ?_
  rw [tprobeBody]
  cases tlbFind (s.core (coreOf s.cur)) (s.probeAddr f.a) with
  | none => rfl
  | some e => rfl

end

/-! ### The claim where each index is listed once -/

/-- What O30 says of the fields of an instruction in a state. -/
def LocksAndProbes (f : Fields) (s : State) (n : BitVec 6) : Prop :=
  let r := (s.ctx s.cur).getC n
  let c := r.cap
  let core := s.core (coreOf s.cur)
  let sl := s.slotOf s.cur
  let cursor := (c.base + c.off) % 2 ^ 56
  (∀ es, r.tag = true → c.perm.testBit 6 = false → c.perm.testBit 0 = true → c.space = 0 → c.off < c.len →
    tlbRegion core (fun _ => false) (c.base + c.len) 17 cursor [] false = (es, none, false) →
    let many := (es.foldl NatSet.insert sl.lockedEntries).length
    let all := (es.foldl NatSet.insert (s.coreLocked (coreOf s.cur))).length
    (∀ i < 8, (Sparse.get {} sl.locks i).used = false → (∀ j < i, (Sparse.get {} sl.locks j).used = true) → many ≤ 16 → all ≤ 96 →
      ∃ t, exec (.tlock f) s = .next t ∧
        (s.modSlot (s.slotKeyOf s.cur) (fun l => { l with locks := l.locks.put i (lockRec c es) })).GoesOn t s.cur
          (putC f.d (word (i * 2 ^ 8)) (s.ctx s.cur)).advance) ∧
    (16 < many ∨ 96 < all ∨ (∀ i < 8, (Sparse.get {} sl.locks i).used = true) → does (.tlock f) s (putC f.d (word 1)))) ∧
  (∀ b, holdsB s f false b →
    (b ≤ 7 → (Sparse.get {} sl.locks b).used = true → ∃ t, exec (.tunlock f) s = .next t ∧
      (s.modSlot (s.slotKeyOf s.cur) (fun l => { l with locks := l.locks.drop b })).GoesOn t s.cur (putC f.d (word 0) (s.ctx s.cur)).advance) ∧
    ((7 < b ∨ (Sparse.get {} sl.locks b).used = false) → does (.tunlock f) s (putC f.d (word 3)))) ∧
  (let va := if r.tag then cursor else r.val.toNat % 2 ^ 56
   does (.tprobe f) s (putC f.d ⟨false, match tlbFind core va with | some (_, img) => BitVec.ofNat 128 img | none => 0⟩))

theorem tlbLocksAndProbe_iff : Obligations.TlbLocksAndProbe ↔ ∀ f s n, acts s f → f.a = .c n → LocksAndProbes f s n := Iff.rfl

/-- O30 with the hypothesis that it lacks: the TLB of the core is a table, which lists each index once. -/
theorem locksAndProbes_of_nodup {f : Fields} {s : State} {n : BitVec 6} (hg : acts s f) (ha : f.a = .c n)
    (htlb : ((s.core (coreOf s.cur)).tlb.map (·.1)).Nodup) : LocksAndProbes f s n := by
  refine ⟨fun es htag hS hR hspace hoff hwalk => ⟨fun i hi hfree hlow hmany hall => ?locks, fun h => ?full⟩,
    fun b hb => ⟨fun hle hused => tunlock_frees hg hb hle hused, fun h => does_tunlock_none hg hb h⟩, ?probe⟩
  case locks => exact tlock_locks_of_nodup ha htag rfl hS hR hspace hoff hg hwalk htlb (State.mayLock_iff.2 ⟨hmany, hall⟩) hi hfree hlow
  case full =>
    refine does_tlock_full ha htag rfl hS hR hspace hoff hg hwalk ?_
    rw [← Bool.not_eq_true, State.mayLock_iff, not_and_or, Nat.not_le, Nat.not_le]
    obtain h | h | h := h
    · exact .inr (.inl h)
    · exact .inr (.inr h)
    · exact .inl h
  case probe =>
    have hprobe := does_tprobe hg
    rw [State.probeAddr_c ha] at hprobe
    exact hprobe

/-! ### A TLB that is no table -/

/-- TLOCK of the capability in c1. -/
def lockFields : Fields := ⟨⟨0, 0, 0⟩, false, 0, .c 2, .c 1, .c 0, 0, 0⟩

/-- A capability of 18 pages of 512 KiB, for which the entries of the core's TLB all stand at index 0; the context has noted a miss. -/
def oneIndex : State :=
  { ctxs := [(0, { c := [(1, mkCap 0 1 0 (18 * 2 ^ 19))] })]
    cores := [(0, { tlb := (List.range 18).map (fun i => (0, BitVec.ofNat 128 (i * 2 ^ 19 + 2 ^ 16)))
                    misses := [{ ctx := some 0, slot := 0, va := 0, kind := 0 }] })] }

theorem acts_oneIndex : acts oneIndex lockFields := by
  unfold acts
  decide +kernel

/-- The walk of 17 pages ends within the region, with one entry 17 times. -/
theorem walk_oneIndex : tlbRegion (oneIndex.core 0) (fun _ => false) (((oneIndex.ctx 0).getC 1).cap.base + ((oneIndex.ctx 0).getC 1).cap.len) 17
    ((((oneIndex.ctx 0).getC 1).cap.base + ((oneIndex.ctx 0).getC 1).cap.off) % 2 ^ 56) [] false = (List.replicate 17 0, none, false) := by
  decide +kernel

/-- TLOCK walks one page more for the miss that is noted. -/
theorem lockRegion_oneIndex : oneIndex.lockRegion ((oneIndex.ctx 0).getC 1).cap = (List.replicate 18 0, none, false) := by decide +kernel

/-- Record 0 is free, and holds what is locked. -/
theorem entries_of_goesOn {s t : State} {k : Nat} {c : Ctx} {es : List Nat} {i key : Nat} {x : Cap}
    (h : (s.modSlot key (fun l => { l with locks := l.locks.put i (lockRec x es) })).GoesOn t k c) :
    (Sparse.get {} (t.slot key).locks i).entries = es := by
  rw [h.slot_eq, State.slot_modSlot, if_pos rfl, Sparse.get_put, if_pos rfl]
  rfl

/-- Refutes O30: the record holds the 18 entries that TLOCK found, and the claim says 17. The state is one that no table write makes: its TLB
lists index 0 eighteen times. -/
theorem not_tlbLocksAndProbe : ¬ Obligations.TlbLocksAndProbe := by
  intro h
  obtain ⟨hlock, -, -⟩ := tlbLocksAndProbe_iff.1 h lockFields oneIndex 1 acts_oneIndex rfl
  have htag : ((oneIndex.ctx 0).getC 1).tag = true := by decide +kernel
  have hS : ((oneIndex.ctx 0).getC 1).cap.perm.testBit 6 = false := by decide +kernel
  have hR : ((oneIndex.ctx 0).getC 1).cap.perm.testBit 0 = true := by decide +kernel
  have hspace : ((oneIndex.ctx 0).getC 1).cap.space = 0 := by decide +kernel
  have hoff : ((oneIndex.ctx 0).getC 1).cap.off < ((oneIndex.ctx 0).getC 1).cap.len := by decide +kernel
  obtain ⟨hclaim, -⟩ := hlock _ htag hS hR hspace hoff walk_oneIndex
  obtain ⟨t, ht, hsays⟩ := hclaim 0 (by decide) rfl (fun j hj => absurd hj (Nat.not_lt_zero j)) (by decide +kernel) (by decide +kernel)
  obtain ⟨t', ht', hlocks⟩ := tlock_goesOn (i := 0) rfl htag rfl hS hR hspace hoff acts_oneIndex lockRegion_oneIndex (by decide +kernel) (by decide) rfl
    (fun j hj => absurd hj (Nat.not_lt_zero j))
  obtain rfl : t = t' := Host.Outcome.next.inj (ht.symm.trans ht')
  exact absurd ((entries_of_goesOn hsays).symm.trans (entries_of_goesOn hlocks)) (by decide)

end Sys2Proof.Machine
end

section
/-! # Engines: a read after a write (R197 to R200, R210 to R214)

What each operation on the engines of a core does to an engine, and what it leaves: queues, the command in hand, the completions that wait, range
entries, and the lists of a slot. -/

namespace Sys2Proof

/-- A field of a field. -/
theorem fld_fld {x lo w lo' w' : Nat} (h : lo' + w' ≤ w) : fld (fld x lo w) lo' w' = fld x (lo + lo') w' := by
  have hdvd : 2 ^ w' ∣ 2 ^ (w - lo') := pow_dvd_pow 2 (Nat.le_sub_of_add_le' h)
  have hpow : 2 ^ w = 2 ^ lo' * 2 ^ (w - lo') := by rw [← pow_add, Nat.add_sub_cancel' (by omega)]
  unfold fld
  rw [hpow, Nat.mod_mul_right_div_self, Nat.mod_mod_of_dvd _ hdvd, Nat.div_div_eq_div_mul, ← pow_add]

theorem bitAt_fld {x lo w i : Nat} (h : i < w) : bitAt (fld x lo w) i = x.testBit (lo + i) := by
  rw [← bitAt_eq_testBit]
  unfold bitAt
  rw [fld_fld h]

namespace Machine

open Sys2Proof.Claims

/-! ### Fields of a record (R198) -/

section

variable {c : Cmd}

theorem cmdKind_eq (c : Cmd) : cmdKind c = kindOf c := (fld_fld (lo := 0) (lo' := 0) (by decide)).trans (fld_zero _ _)

theorem tagOf_eq (c : Cmd) : fld (dw c.record 0) 16 16 = tagOf c := fld_fld (by decide)

theorem noCmp_eq (c : Cmd) : bitAt (dw c.record 0) 8 = noCmp c := (bitAt_fld (by decide)).trans (BitVec.testBit_toNat _)

end

/-! ### The engines of a core -/

section

variable {c : Core} {e e' : Engine} {x : EngineState}

@[simp] theorem Core.engine_setEngine : (c.setEngine e x).engine e' = if e' = e then x else c.engine e' := by
  cases e <;> cases e' <;> rfl

@[simp] theorem Core.setEngine_tile : (c.setEngine e x).tile = c.tile := by cases e <;> rfl
@[simp] theorem Core.setEngine_tileOwner : (c.setEngine e x).tileOwner = c.tileOwner := by cases e <;> rfl

end

section

variable {s t : State} {n m : Nat} {e e' : Engine}

/-- An engine is what its core holds of it. -/
theorem State.engine_of_core (h : (t.core n).engine e = (s.core n).engine e) : t.engine n e = s.engine n e := h

@[simp] theorem State.engine_modEngine {g : EngineState → EngineState} :
    (s.modEngine n e g).engine m e' = if m = n ∧ e' = e then g (s.engine n e) else s.engine m e' := by
  unfold State.modEngine State.engine
  rw [State.core_modCore]
  by_cases hm : m = n
  · subst hm
    simp
  · simp [hm]

theorem State.engine_modEngine_self {g : EngineState → EngineState} : (s.modEngine n e g).engine n e = g (s.engine n e) := by simp

theorem State.engine_modCore {g : Core → Core} (hg : ∀ c, (g c).engine e = c.engine e) : (s.modCore n g).engine m e = s.engine m e := by
  unfold State.engine
  rw [State.core_modCore]
  split
  next h => rw [hg, h]
  next => rfl

@[simp] theorem State.engine_modSlot {k : Nat} {f : Slot → Slot} : (s.modSlot k f).engine m e = s.engine m e := rfl

@[simp] theorem State.slot_modEngine {g : EngineState → EngineState} {k : Nat} : (s.modEngine n e g).slot k = s.slot k := rfl

theorem State.core_modEngine {g : EngineState → EngineState} :
    (s.modEngine n e g).core m = if m = n then (s.core n).setEngine e (g (s.engine n e)) else s.core m := State.core_modCore _ _ _ _

/-! ### Misses, ranges and lists -/

@[simp] theorem State.engine_dropEngMisses : (s.dropEngMisses n e).engine m e' = s.engine m e' := State.engine_modCore fun _ => by cases e' <;> rfl

theorem State.core_dropEngMisses : (s.dropEngMisses n e).core m = { s.core m with misses := ((s.dropEngMisses n e).core m).misses } := by
  unfold State.dropEngMisses
  rw [State.core_modCore]
  split
  next h => subst h; rfl
  next => rfl

@[simp] theorem State.quarantined_dropEngMisses : ((s.dropEngMisses n e).core m).quarantined = (s.core m).quarantined := by
  rw [State.core_dropEngMisses]

@[simp] theorem State.ranges_dropEngMisses : ((s.dropEngMisses n e).core m).ranges = (s.core m).ranges := by rw [State.core_dropEngMisses]

@[simp] theorem State.engine_releaseRanges {id : Nat} {r : Bool} : (s.releaseRanges n id e r).engine m e' = s.engine m e' :=
  State.engine_modCore fun _ => by cases e' <;> rfl

end

end Machine
end Sys2Proof
end

section
/-! # The ends of a command (R200, R212, R214)

A command that has run, or that its checks refused, leaves its engine: its completion waits, or none is asked for; an error ends its list. -/

namespace Sys2Proof.Machine

open Sys2Proof.Claims

section

variable {s t : State} {core : Nat} {e : Engine} {c : Cmd} {status count detail cause tval : Nat}

/-! ### Completion entries -/

theorem inboxEntry_eq (h : status < 256) : inboxEntry (tagOf c) (engineCls e) status count detail = entryOf c (engineCls e) status count detail := by
  have htag : tagOf c < 2 ^ 16 := Nat.mod_lt _ (by decide)
  have hcls : engineCls e < 2 ^ 8 := by cases e <;> decide
  unfold inboxEntry entryOf
  rw [Nat.mod_eq_of_lt htag, Nat.mod_eq_of_lt hcls, Nat.mod_eq_of_lt (show status < 2 ^ 8 from h)]

theorem completionOf_of_noCmp (hstatus : status < 16) (h4 : status ≠ 4) (hc : noCmp c = true) :
    completionOf e c status count detail cause tval = none := by
  have hcond : (decide (status < 0x10) && decide (status ≠ 0x04) && bitAt (dw c.record 0) 8) = true := by
    rw [noCmp_eq, hc, decide_eq_true hstatus, decide_eq_true h4]; rfl
  unfold completionOf
  rw [if_pos hcond]

theorem completionOf_of_entry (h : ¬(status < 16 ∧ status ≠ 4 ∧ noCmp c = true)) (hlt : status < 256) :
    completionOf e c status count detail 0 0 = some
      { cmd := c, entry := entryOf c (engineCls e) status count detail, cause := if 16 ≤ status ∧ status ≠ 0x19 then ENGINE_FAULT else 0
        tval := (entryOf c (engineCls e) status count detail).toNat % 2 ^ 64 } := by
  have hcond : ¬(decide (status < 0x10) && decide (status ≠ 0x04) && bitAt (dw c.record 0) 8) = true := by
    rw [noCmp_eq]
    simpa only [Bool.and_eq_true, decide_eq_true_eq, and_assoc] using h
  unfold completionOf
  rw [if_neg hcond, tagOf_eq, inboxEntry_eq hlt]
  simp only [ne_eq, not_true_eq_false, ↓reduceIte]

/-- An engine that holds nothing but a command's completion has ended it. -/
theorem ended_of_completionOf (hlt : status < 256) (h4 : status ≠ 4) (hrun : (t.engine core e).run = none)
    (hdone : (t.engine core e).done = (completionOf e c status count detail 0 0).toList) : ended t core e c (engineCls e) status count detail := by
  refine ⟨hrun, ?_⟩
  split
  next h => rw [hdone, completionOf_of_noCmp h.1 h4 h.2]; rfl
  next h =>
    rw [hdone, completionOf_of_entry (fun h' => h ⟨h'.1, h'.2.2⟩) hlt]
    refine ⟨_, rfl, rfl, rfl, ?_⟩
    dsimp only
    split
    next herr => exact ⟨fun _ => herr, fun _ => rfl⟩
    next herr => exact ⟨fun h0 => absurd h0 (by decide), fun h' => absurd h' herr⟩

/-! ### Ending a command, and its list -/

/-- What an error does to the list that a command came from (R210). -/
def State.listEnded (s : State) (core : Nat) (e : Engine) (c : Cmd) (status : Nat) : State :=
  if c.forked && decide (0x10 ≤ status) then s.endList core c.slot e true else s

theorem State.listEnded_of_not_forked (h : c.forked = false) : s.listEnded core e c status = s := by
  unfold State.listEnded
  rw [h]
  rfl

theorem State.finishCmd_eq : s.finishCmd core e c status count detail cause tval =
    match completionOf e c status count detail cause tval with
    | some d => ((s.listEnded core e c status).releaseRanges core c.id e true).modEngine core e (fun x => { x with done := x.done ++ [d] })
    | none => (s.listEnded core e c status).releaseRanges core c.id e false := rfl

theorem State.engine_finishCmd : (s.finishCmd core e c status count detail cause tval).engine core e =
    { (s.listEnded core e c status).engine core e with
      done := ((s.listEnded core e c status).engine core e).done ++ (completionOf e c status count detail cause tval).toList } := by
  rw [State.finishCmd_eq]
  split
  next d hd => rw [State.engine_modEngine_self, State.engine_releaseRanges, hd]; rfl
  next hd => rw [State.engine_releaseRanges, hd, Option.toList_none, List.append_nil]

theorem State.slot_finishCmd (k : Nat) : (s.finishCmd core e c status count detail cause tval).slot k = (s.listEnded core e c status).slot k := by
  rw [State.finishCmd_eq]
  split <;> rfl

theorem State.listEnded_mem : (s.listEnded core e c status).mem = s.mem := by
  unfold State.listEnded
  split <;> rfl

theorem State.finishCmd_mem : (s.finishCmd core e c status count detail cause tval).mem = s.mem := by
  rw [← s.listEnded_mem (core := core) (e := e) (c := c) (status := status), State.finishCmd_eq]
  split <;> rfl

/-- The completion of the command in hand, and the engine without it. -/
theorem State.engine_endCmd {r : Run} (hrun : (s.engine core e).run = some r) (hid : r.cmd.id = c.id) (hf : c.forked = false) :
    (s.endCmd core e c status count detail cause tval).engine core e =
      { s.engine core e with run := none, done := (s.engine core e).done ++ (completionOf e c status count detail cause tval).toList } := by
  have hany : (s.engine core e).run.any (fun r => r.cmd.id == c.id) = true := by rw [hrun]; exact beq_iff_eq.2 hid
  unfold State.endCmd
  rw [State.engine_finishCmd, State.listEnded_of_not_forked hf, State.engine_dropEngMisses, State.engine_modEngine_self, if_pos hany]

theorem State.endCmd_mem : (s.endCmd core e c status count detail cause tval).mem = s.mem := State.finishCmd_mem

/-- R200: the command in hand ends. -/
theorem ended_endCmd {r : Run} (hrun : (s.engine core e).run = some r) (hc : r.cmd = c) (hdone : (s.engine core e).done = []) (hf : c.forked = false)
    (hlt : status < 256) (h4 : status ≠ 4) : ended (s.endCmd core e c status count detail 0 0) core e c (engineCls e) status count detail := by
  have he := s.engine_endCmd hrun (congrArg Cmd.id hc) hf (status := status) (count := count) (detail := detail) (cause := 0) (tval := 0)
  exact ended_of_completionOf hlt h4 (by rw [he]) (by rw [he, hdone]; rfl)

/-! ### The command in hand -/

theorem headReady_of_atHead {q : List QItem} (h : atHead s core e c q) : s.headReady core e = some c := by
  obtain ⟨hfrozen, hrun, hdone, hqueue, hstatus, hranges, hhalt⟩ := h
  unfold State.headReady
  simp [hfrozen, hrun, hdone, hqueue, hstatus, hranges, hhalt]

/-- The command at the head of the queue starts. -/
theorem inHand_of_atHead {q : List QItem} {ok : Cmd → Bool} (h : atHead s core e c q) (hok : ok c = true) :
    s.inHand core e ok = some (s.startCmd core e c, freshRun c) := by
  have hready := headReady_of_atHead h
  obtain ⟨hfrozen, hrun, -⟩ := h
  unfold State.inHand
  simp [hfrozen, hrun, hready, hok]

/-- The command that runs goes on. -/
theorem inHand_of_run {r : Run} {ok : Cmd → Bool} (hrun : (s.engine core e).run = some r) (hfrozen : (s.engine core e).frozen = false)
    (hhalt : s.halting (slotKey r.cmd.issuer r.cmd.slot) = false) (hok : ok r.cmd = true) : s.inHand core e ok = some (s, r) := by
  unfold State.inHand
  simp [hfrozen, hrun, hhalt, hok]

theorem engine_startCmd {q : List QItem} (h : atHead s core e c q) : (s.startCmd core e c).engine core e =
    { s.engine core e with queue := q, run := some (freshRun c) } := by
  obtain ⟨-, -, -, hqueue, -⟩ := h
  unfold State.startCmd
  rw [State.engine_modEngine_self, hqueue]
  rfl

end

end Sys2Proof.Machine
end

section
/-! # How an engine reaches memory (R157, R160, R182)

In a buffer an engine reads and writes the bytes that are there, part by part as in one piece. Wherever it reads or writes, every engine stays as it is. -/

namespace Sys2Proof.Machine

open Sys2Proof.Claims

/-! ### An engine's reads and writes of a buffer (R157, R160) -/

section

variable {s : State} {core space a n x : Nat} {e : Engine} {c : Cmd}

/-- The bytes lie in the buffer, wherever errors are. -/
theorem engPlace_of_fits {st : Bool} (h1 : 1 ≤ space) (h4 : space ≤ 4) (hfits : a + n ≤ bufferBytes space) :
    engPlace s core e c space a n st = .ok (s, placeKey space core a) := by
  unfold engPlace
  rw [if_neg (by omega), if_neg (by omega), if_pos hfits]

theorem fits_of_buffer (h : buffer s core space a n) : 1 ≤ space ∧ space ≤ 4 ∧ a + n ≤ bufferBytes space := by
  obtain ⟨h1, h4, hfits, -⟩ := h
  refine ⟨h1, h4, ?_⟩
  interval_cases space <;> exact hfits

theorem not_poisoned_of_buffer (h : buffer s core space a n) : s.poison.any (fun w => overlaps (w * 8) 8 (placeKey space core a) n) = false := by
  obtain ⟨-, -, -, hclean⟩ := h
  refine List.any_eq_false.2 fun w hw => ?_
  have hw' := hclean w hw
  simp only [overlaps, Bool.and_eq_true, decide_eq_true_eq]
  omega

theorem engRead_of_buffer (h : buffer s core space a n) : engRead s core e c space a n = .ok (s, s.read (placeKey space core a) n) := by
  obtain ⟨h1, h4, hfits⟩ := fits_of_buffer h
  unfold engRead
  rw [engPlace_of_fits h1 h4 hfits]
  exact if_neg (Bool.eq_false_iff.1 (not_poisoned_of_buffer h))

theorem engReadAny_of_buffer (h : buffer s core space a n) : engReadAny s core e c space a n = .ok (s, s.read (placeKey space core a) n) := by
  obtain ⟨h1, -⟩ := fits_of_buffer h
  have h0 : space ≠ 0 := by omega
  unfold engReadAny
  simp only [if_neg h0, le_refl, if_true]
  exact engRead_of_buffer h

theorem engWrite_of_fits (h1 : 1 ≤ space) (h4 : space ≤ 4) (hfits : a + n ≤ bufferBytes space) :
    engWrite s core e c space a n x = .ok (s.write (placeKey space core a) n x) := by
  unfold engWrite
  rw [engPlace_of_fits h1 h4 hfits]
  rfl

end

/-! ### Ranges of bytes -/

theorem natToBytes_bytesToNat (bs : List Byte) : natToBytes bs.length (bytesToNat bs) = bs := by
  induction bs with
  | nil => rfl
  | cons b bs ih =>
    have hb : b.toNat < 256 := b.isLt
    have hlow : (b.toNat + 256 * bytesToNat bs) % 256 = b.toNat := by omega
    have hhigh : (b.toNat + 256 * bytesToNat bs) / 256 = bytesToNat bs := by omega
    rw [List.length_cons, natToBytes, bytesToNat, hlow, hhigh, ih, BitVec.ofNat_toNat, BitVec.setWidth_eq]

theorem State.length_bytesAt (s : State) (a n : Nat) : (s.bytesAt a n).length = n := by
  unfold State.bytesAt
  rw [List.length_map, List.length_range]

theorem State.natToBytes_read (s : State) (a n : Nat) : natToBytes n (s.read a n) = s.bytesAt a n := by
  have h := natToBytes_bytesToNat (s.bytesAt a n)
  rwa [s.length_bytesAt] at h

theorem State.bytesAt_add (s : State) (a n m : Nat) : s.bytesAt a (n + m) = s.bytesAt a n ++ s.bytesAt (a + n) m := by
  unfold State.bytesAt
  rw [List.range_add, List.map_append, List.map_map]
  congr 1
  exact List.map_congr_left fun i _ => congrArg s.byte (Nat.add_assoc a n i).symm

theorem State.getD_bytesAt (s : State) {a n i : Nat} (h : i < n) : (s.bytesAt a n).getD i 0 = s.byte (a + i) := by
  unfold State.bytesAt
  rw [List.getD_eq_getElem _ _ (by rwa [List.length_map, List.length_range]), List.getElem_map, List.getElem_range]

/-- The bytes `bs` stand at `a`, and every other byte is as before. -/
def holdsBytes (s t : State) (a : Nat) (bs : List Byte) : Prop :=
  ∀ i, t.byte i = if a ≤ i ∧ i < a + bs.length then bs.getD (i - a) 0 else s.byte i

theorem holdsBytes_storeBytes (s : State) (a : Nat) (bs : List Byte) : holdsBytes s (s.storeBytes a bs) a bs := by
  intro i
  split
  next h =>
    obtain ⟨k, rfl⟩ := Nat.exists_eq_add_of_le h.1
    rw [Nat.add_sub_cancel_left]
    exact readByte_writeBytes_inside _ _ _ _ (by omega)
  next h => exact s.byte_storeBytes_outside a i bs (by omega)

/-- One part and the parts behind it are written as one piece. -/
theorem holdsBytes_append {s t u : State} {a : Nat} {xs ys : List Byte} (hx : holdsBytes s t a xs) (hy : holdsBytes t u (a + xs.length) ys) :
    holdsBytes s u a (xs ++ ys) := by
  intro i
  rw [hy i, hx i, List.length_append]
  by_cases hlow : i < a + xs.length
  · rw [if_neg (by omega)]
    by_cases ha : a ≤ i
    · rw [if_pos ⟨ha, hlow⟩, if_pos ⟨ha, by omega⟩, List.getD_append _ _ _ _ (by omega)]
    · rw [if_neg (by omega), if_neg (by omega)]
  · by_cases hhigh : i < a + xs.length + ys.length
    · rw [if_pos ⟨by omega, hhigh⟩, if_pos ⟨by omega, by omega⟩, List.getD_append_right _ _ _ _ (by omega), Nat.sub_sub]
    · rw [if_neg (by omega), if_neg (by omega), if_neg (by omega)]

/-! ### The parts of a range -/

/-- Parts that follow each other from `a` to `b`. -/
def Consecutive : List (Nat × Nat) → Nat → Nat → Prop
  | [], a, b => a = b
  | p :: ps, a, b => p.1 = a ∧ Consecutive ps (a + p.2) b

theorem Consecutive.le {ps : List (Nat × Nat)} {a b : Nat} (h : Consecutive ps a b) : a ≤ b := by
  induction ps generalizing a with
  | nil => exact Nat.le_of_eq h
  | cons p ps ih => exact (Nat.le_add_right a p.2).trans (ih h.2)

theorem consecutive_linePieces (a n : Nat) : Consecutive (linePieces a n) a (a + n) := by
  unfold linePieces
  split
  next h => rw [h]; rfl
  next h =>
    rw [List.range_eq_range']
    have key (k j : Nat) (hk : j + k = (a + n - 1) / 64 - a / 64 + 1) : Consecutive ((List.range' j k).map (fun i =>
        (max a ((a / 64 + i) * 64), min (a + n) ((a / 64 + i + 1) * 64) - max a ((a / 64 + i) * 64))))
        (min (a + n) (max a ((a / 64 + j) * 64))) (a + n) := by
      induction k generalizing j with
      | zero => exact Nat.min_eq_left (by omega)
      | succ k ih =>
        have hnext := ih (j + 1) (by omega)
        rw [List.range'_succ, List.map_cons]
        refine ⟨by dsimp only; omega, ?_⟩
        rwa [show min (a + n) (max a ((a / 64 + j) * 64)) + (min (a + n) ((a / 64 + j + 1) * 64) - max a ((a / 64 + j) * 64)) =
          min (a + n) (max a ((a / 64 + (j + 1)) * 64)) by omega]
    have hall := key _ 0 (Nat.zero_add _)
    rwa [show min (a + n) (max a ((a / 64 + 0) * 64)) = a by omega] at hall

/-- Each part begins in the range. -/
theorem mem_linePieces {a n : Nat} {p : Nat × Nat} (h : p ∈ linePieces a n) : a ≤ p.1 ∧ p.1 < a + n := by
  unfold linePieces at h
  split at h
  next => cases h
  next hn =>
    obtain ⟨i, hi, rfl⟩ := List.mem_map.1 h
    rw [List.mem_range] at hi
    dsimp only
    omega

section

variable {s u : State} {core space a b n : Nat} {e : Engine} {c : Cmd} {ps : List (Nat × Nat)} {bs : List Byte}

theorem placeKey_add (h1 : 1 ≤ space) (a n : Nat) : placeKey space core (a + n) = placeKey space core a + n := by
  unfold placeKey
  simp only [if_neg (show space ≠ 0 by omega), Nat.add_assoc]

/-- A range within one that lies in a buffer. -/
theorem buffer_within (h : buffer s core space a n) {m k : Nat} (hle : k + m ≤ n) : buffer s core space (a + k) m := by
  obtain ⟨h1, h4, hfits, hclean⟩ := h
  have hkey := placeKey_add (core := core) h1 a
  refine ⟨h1, h4, le_trans (by omega) hfits, fun w hw hover => hclean w hw ?_⟩
  rw [hkey k] at hover
  omega

theorem engReadParts_of_buffer (hps : Consecutive ps a b) (h : buffer s core space a (b - a)) :
    engReadParts core e c space ps s = .ok (s, s.bytesAt (placeKey space core a) (b - a)) := by
  induction ps generalizing a with
  | nil =>
    obtain rfl : a = b := hps
    rw [Nat.sub_self]
    rfl
  | cons p ps ih =>
    obtain ⟨lo, m⟩ := p
    obtain ⟨rfl, hps⟩ := hps
    have hle := hps.le
    have hlen : b - lo = m + (b - (lo + m)) := by dsimp only at hle; omega
    have hread := engRead_of_buffer (e := e) (c := c) (buffer_within h (k := 0) (m := m) (by omega))
    have hrest := ih hps (by rw [show b - (lo + m) = b - lo - m by omega]; exact buffer_within h (by omega))
    obtain ⟨h1, -⟩ := h
    dsimp only at hread hrest ⊢
    rw [Nat.add_zero] at hread
    unfold engReadParts
    rw [hread]
    show (engReadParts core e c space ps s >>= fun y => Except.ok (y.1, natToBytes m (s.read (placeKey space core lo) m) ++ y.2)) = _
    rw [hrest, State.natToBytes_read, placeKey_add h1]
    show Except.ok _ = Except.ok _
    rw [hlen, State.bytesAt_add]

/-- A range of a buffer without errors is read as it stands. -/
theorem engReadRange_of_buffer (h : buffer s core space a n) : engReadRange s core e c space a n = .ok (s, s.bytesAt (placeKey space core a) n) := by
  have hread := engReadParts_of_buffer (e := e) (c := c) (consecutive_linePieces a n) (by rwa [Nat.add_sub_cancel_left])
  rwa [Nat.add_sub_cancel_left] at hread

theorem engWriteParts_of_fits (hps : Consecutive ps a b) (hlen : bs.length = b - a) (h1 : 1 ≤ space) (h4 : space ≤ 4) (hfits : b ≤ bufferBytes space) :
    ∃ t, engWriteParts core e c space ps bs s = .ok t ∧ s.Wrote t ∧ holdsBytes s t (placeKey space core a) bs := by
  induction ps generalizing a bs s with
  | nil =>
    obtain rfl : a = b := hps
    obtain rfl : bs = [] := List.eq_nil_of_length_eq_zero (by omega)
    exact ⟨s, rfl, .refl, fun i => (if_neg (by simp)).symm⟩
  | cons p ps ih =>
    obtain ⟨lo, m⟩ := p
    obtain ⟨rfl, hps⟩ := hps
    have hle : lo + m ≤ b := hps.le
    have htake : (bs.take m).length = m := by rw [List.length_take]; dsimp only at hlen; omega
    have hwrite : engWrite s core e c space lo m (bytesToNat (bs.take m)) = .ok (s.storeBytes (placeKey space core lo) (bs.take m)) := by
      have hbytes := natToBytes_bytesToNat (bs.take m)
      rw [htake] at hbytes
      rw [engWrite_of_fits h1 h4 (n := m) (by omega), State.write, hbytes]
    obtain ⟨t, ht, hwrote, hholds⟩ := ih (s := s.storeBytes (placeKey space core lo) (bs.take m)) (bs := bs.drop m) hps
      (by rw [List.length_drop, hlen]; dsimp only; omega)
    refine ⟨t, ?_, State.Wrote.storeBytes.trans hwrote, ?_⟩
    · unfold engWriteParts
      rw [hwrite]
      exact ht
    · rw [← List.take_append_drop m bs]
      refine holdsBytes_append (holdsBytes_storeBytes s _ _) ?_
      rw [htake, ← placeKey_add h1]
      exact hholds

theorem engWriteRange_of_fits (h1 : 1 ≤ space) (h4 : space ≤ 4) (hfits : a + bs.length ≤ bufferBytes space) :
    ∃ t, engWriteRange s core e c space a bs = .ok t ∧ s.Wrote t ∧ holdsBytes s t (placeKey space core a) bs :=
  engWriteParts_of_fits (consecutive_linePieces a bs.length) (by rw [Nat.add_sub_cancel_left]) h1 h4 hfits

end

/-! ### What an engine's access leaves of the engines -/

/-- Every engine is as before. -/
def State.SameEngines (s t : State) : Prop := ∀ n e, t.engine n e = s.engine n e

namespace State.SameEngines

variable {s t u : State}

theorem refl : s.SameEngines s := fun _ _ => rfl
theorem trans (h : s.SameEngines t) (h' : t.SameEngines u) : s.SameEngines u := fun n e => (h' n e).trans (h n e)

theorem of_cores (h : t.cores = s.cores) : s.SameEngines t := fun n e => by
  unfold State.engine State.core
  rw [h]

theorem of_wrote (h : s.Wrote t) : s.SameEngines t := of_cores (by rw [h])

theorem modCore {n : Nat} {g : Core → Core} (hg : ∀ c e, (g c).engine e = c.engine e) : s.SameEngines (s.modCore n g) :=
  fun _ e => State.engine_modCore fun c => hg c e

theorem dropEngMisses {n : Nat} {e : Engine} : s.SameEngines (s.dropEngMisses n e) := fun _ _ => State.engine_dropEngMisses

end State.SameEngines

/-- What the race detector leaves, if it leaves a state, has the same engines. -/
def RaceOut.SameEngines (s : State) : RaceOut → Prop
  | .ok t => s.SameEngines t
  | _ => True

section

variable {s t : State} {p n core space a : Nat} {e : Engine} {c : Cmd} {r : Racer} {store : Bool}

theorem Answers.shadowWrite_wrote {ws : List (Nat × Nat)} (h : s.Wrote t) : Answers s.Wrote (State.shadowWrite p ws t) := by
  induction ws generalizing t with
  | nil => exact h
  | cons w ws ih =>
    unfold State.shadowWrite
    split
    next u hu => exact ih (h.trans (.walkWrite hu))
    next => exact trivial

/-- The shadow written, and the marks and the read sets brought up to date. -/
theorem State.SameEngines.shadowed {ws : List (Nat × Nat)} {f : Drover → Drover} {m : Sparse RaceMark} (h : State.shadowWrite p ws s = .ok t) :
    s.SameEngines { t.modDrover p f with raceMarks := m } :=
  .of_cores (by
    have hw : s.Wrote t := (Answers.shadowWrite_wrote .refl).of_ok h
    show t.cores = s.cores
    rw [hw])

theorem RaceOut.sameEngines_recordRead {va w g : Nat} {chain : List Nat} {marks es : List AccessMark} :
    RaceOut.SameEngines s (s.recordRead p va w chain g marks es) := by
  unfold State.recordRead
  extract_lets
  split
  · exact trivial
  · split
    · exact trivial
    next ht => exact State.SameEngines.shadowed ht

theorem RaceOut.sameEngines_raceGranule {g : Nat} : RaceOut.SameEngines s (s.raceGranule p r store g) := by
  unfold State.raceGranule
  extract_lets
  split
  · exact trivial
  · split
    · exact trivial
    · extract_lets
      split
      · exact trivial
      · split
        · split
          · exact trivial
          next ht => exact State.SameEngines.shadowed ht
        · split
          · exact trivial
          · exact sameEngines_recordRead

theorem RaceOut.sameEngines_raceRange {gs : List Nat} (h : s.SameEngines t) : RaceOut.SameEngines s (t.raceRange p r store gs) := by
  induction gs generalizing t with
  | nil => exact h
  | cons g gs ih =>
    have hg : RaceOut.SameEngines t (t.raceGranule p r store g) := sameEngines_raceGranule
    unfold State.raceRange
    split
    next e => exact ih (h.trans (by rw [e] at hg; exact hg))
    next hx =>
      cases hr : t.raceGranule p r store g with
      | ok u => exact absurd hr (hx u)
      | _ => exact trivial

theorem Answers.engRace {pa va : Nat} {st : Bool} : Answers s.SameEngines (engRace s core e c pa n st va) := by
  unfold Machine.engRace
  refine .ite (.error trivial) ?_
  split
  next u hu =>
    have hr : RaceOut.SameEngines s (.ok u) := hu ▸ RaceOut.sameEngines_raceRange .refl
    exact hr
  · exact trivial
  · exact trivial

theorem State.SameEngines.engCount {img : Nat} : s.SameEngines (s.engCount core img) := by
  unfold State.engCount
  split
  · exact .modCore fun _ e => by cases e <;> rfl
  · exact .refl

theorem Answers.engPlace {st : Bool} : Answers (fun r => s.SameEngines r.1) (engPlace s core e c space a n st) :=
  .ite ((Answers.any _).bind fun _ _ => .ite trivial (.ite (Answers.engRace.bind fun _ h => State.SameEngines.engCount.trans h)
    .engCount)) (.ite (.ite .refl trivial) (.ite .refl trivial))

theorem Answers.engRead (h : s.SameEngines t) : Answers (fun r => s.SameEngines r.1) (engRead t core e c space a n) :=
  Answers.engPlace.bind fun _ h' => .ite trivial (h.trans h')

theorem Answers.engWrite {x : Nat} (h : s.SameEngines t) : Answers s.SameEngines (engWrite t core e c space a n x) :=
  Answers.engPlace.bind fun _ h' => (h.trans h').trans (.of_wrote .storeBytes)

theorem Answers.engReadParts {ps : List (Nat × Nat)} (h : s.SameEngines t) :
    Answers (fun r => s.SameEngines r.1) (engReadParts core e c space ps t) := by
  induction ps generalizing t with
  | nil => exact h
  | cons p ps ih => exact (Answers.engRead h).bind fun _ h1 => (ih h1).bind fun _ h2 => h2

theorem Answers.engWriteParts {ps : List (Nat × Nat)} {bs : List Byte} (h : s.SameEngines t) :
    Answers s.SameEngines (engWriteParts core e c space ps bs t) := by
  induction ps generalizing t bs with
  | nil => exact h
  | cons p ps ih => exact (Answers.engWrite h).bind fun _ h1 => ih h1

theorem Answers.engReadRange (h : s.SameEngines t) : Answers (fun r => s.SameEngines r.1) (engReadRange t core e c space a n) :=
  Answers.engReadParts h

theorem Answers.engWriteRange {bs : List Byte} (h : s.SameEngines t) : Answers s.SameEngines (engWriteRange t core e c space a bs) :=
  Answers.engWriteParts h

end

end Sys2Proof.Machine
end

section
/-! # The sequencer of a FORK list, and the completions of an engine (O40)

The sequencer of the list at the head of a queue waits, ends or abandons its list, or accepts the next command ahead of it; an engine writes the
entry of its oldest finished command, and ends a head that its checks refused. -/

namespace Sys2Proof.Machine

open Sys2Proof.Claims

/-! ### Fields of a completion entry (R212) -/

section

variable {c : Cmd} {e : Engine} {status count detail : Nat}

theorem entryOf_toNat (h : status < 256) : (entryOf c (engineCls e) status count detail).toNat =
    tagOf c + engineCls e * 2 ^ 16 + status * 2 ^ 24 + count % 2 ^ 32 * 2 ^ 32 + detail % 2 ^ 64 * 2 ^ 64 := by
  have htag : tagOf c < 2 ^ 16 := Nat.mod_lt _ (by decide)
  have hcls : engineCls e < 2 ^ 8 := by cases e <;> decide
  have hcount : count % 2 ^ 32 < 2 ^ 32 := Nat.mod_lt _ (by decide)
  have hdetail : detail % 2 ^ 64 < 2 ^ 64 := Nat.mod_lt _ (by decide)
  unfold entryOf
  rw [BitVec.toNat_ofNat]
  exact Nat.mod_eq_of_lt (by omega)

theorem entryOf_status (h : status < 256) : (entryOf c (engineCls e) status count detail).toNat / 2 ^ 24 % 2 ^ 8 = status := by
  have htag : tagOf c < 2 ^ 16 := Nat.mod_lt _ (by decide)
  have hcls : engineCls e < 2 ^ 8 := by cases e <;> decide
  rw [entryOf_toNat h]
  omega

theorem entryOf_detail (h : status < 256) (hd : detail < 2 ^ 64) : (entryOf c (engineCls e) status count detail).toNat / 2 ^ 64 = detail := by
  have htag : tagOf c < 2 ^ 16 := Nat.mod_lt _ (by decide)
  have hcls : engineCls e < 2 ^ 8 := by cases e <;> decide
  have hcount : count % 2 ^ 32 < 2 ^ 32 := Nat.mod_lt _ (by decide)
  rw [entryOf_toNat h]
  omega

end

/-! ### A list leaves its queue (R210) -/

section

variable {s : State} {core slot : Nat} {e : Engine} {c : Cmd} {abandon : Bool}

theorem State.engine_endList : (s.endList core slot e abandon).engine core e =
    { s.engine core e with queue := (s.engine core e).queue.filter (fun q => q != .list slot) } := by
  unfold State.endList
  rw [State.engine_modSlot, State.engine_modEngine_self]

theorem State.slot_endList : (s.endList core slot e abandon).slot (slotKey core slot) =
    { s.slot (slotKey core slot) with
      forks := (s.slot (slotKey core slot)).forks.put (forkIx e) { Sparse.get {} (s.slot (slotKey core slot)).forks (forkIx e) with active := false }
      abandoned := if abandon then setFld (s.slot (slotKey core slot)).abandoned (forkIx e) 1 1 else (s.slot (slotKey core slot)).abandoned } := by
  unfold State.endList
  rw [State.slot_modSlot, if_pos rfl, State.slot_modEngine]

theorem State.forks_endList : (Sparse.get {} ((s.endList core slot e abandon).slot (slotKey core slot)).forks (forkIx e)).active = false := by
  rw [State.slot_endList]
  dsimp only
  rw [Sparse.get_put, if_pos rfl]

theorem State.not_mem_endList : .list slot ∉ ((s.endList core slot e abandon).engine core e).queue := by
  rw [State.engine_endList]
  dsimp only
  rw [List.mem_filter]
  exact fun h => absurd h.2 (by simp)

theorem State.abandoned_endList : ((s.endList core slot e true).slot (slotKey core slot)).abandoned.testBit (forkIx e) = true := by
  rw [State.slot_endList]
  dsimp only
  rw [if_pos rfl, testBit_setFld]
  simp

theorem State.listEnded_of_forked {status : Nat} (hf : c.forked = true) (h : 16 ≤ status) :
    s.listEnded core e c status = s.endList core c.slot e true := by
  unfold State.listEnded
  rw [hf, decide_eq_true h]
  rfl

end

/-! ### A command that a sequencer accepts (R197, R210) -/

/-- The command has joined a queue, ahead of all that stood there, as the next of its stream, with a status and regions. -/
def State.Joined (s t : State) (core : Nat) (e : Engine) (c : Cmd) (status : Nat) (rs : List Region) : Prop :=
  ∃ d, (t.engine core e).queue = .cmd d :: (s.engine core e).queue ∧ d.record = c.record ∧ d.slot = c.slot ∧ d.forked = c.forked ∧ d.mode = c.mode ∧
    d.seq = Sparse.get 0 (s.slot (slotKey core c.slot)).engSeq (cmdStream e c) + 1 ∧ d.status = status ∧ d.regions = rs

section

variable {s : State} {core : Nat} {e : Engine} {c : Cmd} {rs : List Region}

theorem State.queue_enqueue_head : ((s.enqueue core e c rs .head).engine core e).queue =
    .cmd { c with id := (s.core core).nextCmd } :: (s.engine core e).queue := by
  unfold State.enqueue State.engine
  rw [State.core_modCore, if_pos rfl]
  cases e <;> rfl

theorem State.seq_nameCmd : (s.nameCmd core e c).2.seq = Sparse.get 0 (s.slot (slotKey core c.slot)).engSeq (cmdStream e c) + 1 := by
  unfold State.nameCmd State.countCmd
  dsimp only
  rw [State.slot_modSlot, if_pos rfl, Sparse.get_put, if_pos rfl]

/-- A command of the issuer alone, at the front of a queue of a unit that is in use. -/
theorem State.accept_front (hgroup : isGroup e c.record = false) (hquar : (s.core core).quarantined = false) : s.accept core e c true =
    match checkCommand (s.nameCmd core e c).1 core c.slot e c.record with
    | .error st => some ((s.nameCmd core e c).1.enqueue core e { (s.nameCmd core e c).2 with status := st } [] .head)
    | .ok (ab, bb, rs) =>
      if 32 < (s.core core).ranges.length + (rangeEntries 0 e rs).length then none
      else
        let t := (s.nameCmd core e c).1.enqueue core e { (s.nameCmd core e c).2 with abank := ab, bbank := bb, regions := rs } rs .head
        some (if e == .copy && fld (dw c.record 0) 0 8 == 0x12 && bitAt (dw c.record 0) 9 then
            { t with agenda := { dt := 0, what := .cmarkCancel core c.slot c.record } :: t.agenda }
          else t) := by
  have hquar' : (e == .matrix && ((s.nameCmd core e c).1.core core).quarantined) = false := by
    rw [show ((s.nameCmd core e c).1.core core).quarantined = false from hquar, Bool.and_false]
  unfold State.accept
  dsimp only
  rw [hquar', hgroup]
  rfl

/-- A command that its checks refuse is accepted all the same, with the status of the refusal (R199). -/
theorem State.accept_front_error {st : Nat} (hgroup : isGroup e c.record = false) (hquar : (s.core core).quarantined = false) (hregions : c.regions = [])
    (hcheck : checkCommand (s.nameCmd core e c).1 core c.slot e c.record = .error st) :
    ∃ t, s.accept core e c true = some t ∧ s.Joined t core e c st [] := by
  have haccept := State.accept_front hgroup hquar
  rw [hcheck] at haccept
  exact ⟨_, haccept, _, State.queue_enqueue_head, rfl, rfl, rfl, rfl, State.seq_nameCmd, rfl, hregions⟩

theorem State.accept_front_ok {ab bb : Nat} (hgroup : isGroup e c.record = false) (hquar : (s.core core).quarantined = false) (hstatus : c.status = 0)
    (hcheck : checkCommand (s.nameCmd core e c).1 core c.slot e c.record = .ok (ab, bb, rs)) (hroom : (s.core core).ranges.length + rs.length ≤ 32) :
    ∃ t, s.accept core e c true = some t ∧ s.Joined t core e c 0 rs := by
  have hentries : (rangeEntries 0 e rs).length ≤ rs.length := by
    unfold rangeEntries
    rw [List.length_map]
    exact List.length_filter_le _ _
  have haccept := State.accept_front hgroup hquar
  rw [hcheck] at haccept
  refine ⟨_, haccept.trans (if_neg (by omega)), ?_⟩
  split
  · exact ⟨_, State.queue_enqueue_head, rfl, rfl, rfl, rfl, State.seq_nameCmd, hstatus, rfl⟩
  · exact ⟨_, State.queue_enqueue_head, rfl, rfl, rfl, rfl, State.seq_nameCmd, hstatus, rfl⟩

end

/-! ### The record that a sequencer reads -/

theorem le_lt_two_pow (s : State) (a n : Nat) : le s a n < 2 ^ (8 * n) := by
  rw [pow_mul]
  exact le_lt s a n

theorem toNat_ofNat_le (s : State) (a n : Nat) : (BitVec.ofNat (8 * n) (le s a n)).toNat = le s a n := by
  rw [BitVec.toNat_ofNat, Nat.mod_eq_of_lt (le_lt_two_pow s a n)]

/-- A field of the first doubleword of the record of 64 bytes that stands at a place. -/
theorem fld_dw_le (s : State) (a : Nat) {lo w : Nat} (h : lo + w ≤ 64) : fld (dw (BitVec.ofNat 512 (le s a 64)) 0) lo w = le s a 64 / 2 ^ lo % 2 ^ w := by
  have hval : (BitVec.ofNat 512 (le s a 64)).toNat = le s a 64 := toNat_ofNat_le s a 64
  rw [dw, fld_fld h, hval, Nat.mul_zero, Nat.zero_add]
  rfl

/-! ### The sequencer (R210) -/

/-- The command that the sequencer of a slot's list reads next, before its record is read. -/
def State.nextOfList (s : State) (core slot : Nat) (e : Engine) : Cmd :=
  let sl := s.slot (slotKey core slot)
  { slot := slot, mode := (s.ctx (hartKey core slot)).mode, lid := sl.lid, vcore := sl.vcore, issuer := core
    clock := s.releaseClock (hartKey core slot), forked := true, seq := Sparse.get 0 sl.engSeq (forkIx e + 4) }

section

variable {s : State} {core slot : Nat} {e : Engine} {q : List QItem}
variable (hqueue : (s.engine core e).queue = .list slot :: q) (hfrozen : (s.engine core e).frozen = false) (hhalt : s.halting (slotKey core slot) = false)

include hqueue

/-- Log 87: the list waits for the command before it. -/
theorem forkSequenceReadStep_waits (h : s.listBusy core slot e = true ∨ (s.engine core e).run ≠ none ∨ (s.engine core e).parts ≠ []) :
    forkSequenceReadStep core e s = s := by
  unfold forkSequenceReadStep
  simp only [hqueue]
  refine if_pos ?_
  obtain h | h | h := h
  · rw [h, Bool.or_true]
  · rw [Option.isSome_iff_ne_none.2 h]
    simp
  · rw [List.isEmpty_eq_false_iff.2 h]
    simp

variable (hrun : (s.engine core e).run = none) (hparts : (s.engine core e).parts = []) (hbusy : s.listBusy core slot e = false)

include hfrozen hhalt hrun hparts hbusy

theorem forkSequenceReadStep_free : forkSequenceReadStep core e s =
    let l := Sparse.get {} (s.slot (slotKey core slot)).forks (forkIx e)
    let a := (l.cap.cap.base + (l.off + 64 * l.index)) % 2 ^ 56
    if l.cap.cap.len < l.off + 64 * l.index + 64 then s.listFails core e slot 0x13 (l.cap.cap.space * 2 ^ 60 + a)
    else
      match engReadAny s core e (s.nextOfList core slot e) l.cap.cap.space a 64 with
      | .error (.miss t) => s.keepMisses t
      | .error (.host _) => s
      | .error (.freeze a) => s.freezeEngine core e (s.nextOfList core slot e) a
      | .error (.fail status a) => s.listFails core e slot status (l.cap.cap.space * 2 ^ 60 + a % 2 ^ 56)
      | .ok (t, w) =>
        let r := BitVec.ofNat 512 w
        let t := t.dropEngMisses core e
        if fld (dw r 0) 0 8 = 0 && fld (dw r 0) 9 7 = 0 && fld (dw r 0) 32 32 = 0 then t.endList core slot e false
        else
          match t.accept core e { s.nextOfList core slot e with record := r } true with
          | none => s
          | some u => u.modSlot (slotKey core slot) (fun y => { y with forks := y.forks.put (forkIx e) { l with index := l.index + 1 } }) := by
  unfold forkSequenceReadStep
  simp only [hqueue]
  exact if_neg (by simp [hfrozen, hhalt, hrun, hparts, hbusy])

/-- R210: a command beyond the capability abandons the list, with BOUNDS at its address. -/
theorem forkSequenceReadStep_beyond (hlen : (Sparse.get {} (s.slot (slotKey core slot)).forks (forkIx e)).cap.cap.len <
      (Sparse.get {} (s.slot (slotKey core slot)).forks (forkIx e)).off + 64 * (Sparse.get {} (s.slot (slotKey core slot)).forks (forkIx e)).index + 64) :
    let t := forkSequenceReadStep core e s
    let l := Sparse.get {} (s.slot (slotKey core slot)).forks (forkIx e)
    (Sparse.get {} (t.slot (slotKey core slot)).forks (forkIx e)).active = false ∧
      (t.slot (slotKey core slot)).abandoned.testBit (forkIx e) = true ∧ .list slot ∉ (t.engine core e).queue ∧
      ∃ d ∈ (t.engine core e).done, d.entry.toNat / 2 ^ 24 % 2 ^ 8 = 0x13 ∧
        d.entry.toNat / 2 ^ 64 = l.cap.cap.space % 16 * 2 ^ 60 + (l.cap.cap.base + (l.off + 64 * l.index)) % 2 ^ 56 ∧ d.cause = 0x0F := by
  have hstep := forkSequenceReadStep_free hqueue hfrozen hhalt hrun hparts hbusy
  rw [if_pos hlen] at hstep
  dsimp only
  rw [hstep]
  unfold State.listFails
  rw [State.slot_finishCmd, State.engine_finishCmd, State.listEnded_of_forked rfl (by decide)]
  generalize Sparse.get {} (s.slot (slotKey core slot)).forks (forkIx e) = l
  have hspace : l.cap.cap.space < 16 := Nat.mod_lt _ (by decide)
  have hlt : (0x13 : Nat) < 256 := by decide
  rw [completionOf_of_entry (by omega) hlt]
  refine ⟨State.forks_endList, State.abandoned_endList, State.not_mem_endList, _, List.mem_append_right _ (List.mem_singleton_self _),
    entryOf_status hlt, ?_, rfl⟩
  rw [entryOf_detail hlt (by omega), Nat.mod_eq_of_lt hspace]

/-- R210: a command inside the capability, in a buffer, is read. -/
theorem forkSequenceReadStep_reads {l : ForkList} {r : Nat} (hl : Sparse.get {} (s.slot (slotKey core slot)).forks (forkIx e) = l)
    (hlen : l.off + 64 * l.index + 64 ≤ l.cap.cap.len) (hbuffer : buffer s core l.cap.cap.space ((l.cap.cap.base + (l.off + 64 * l.index)) % 2 ^ 56) 64)
    (hr : le s (placeKey l.cap.cap.space core ((l.cap.cap.base + (l.off + 64 * l.index)) % 2 ^ 56)) 64 = r) :
    forkSequenceReadStep core e s =
      if r % 2 ^ 8 = 0 ∧ r / 2 ^ 9 % 2 ^ 7 = 0 ∧ r / 2 ^ 32 % 2 ^ 32 = 0 then (s.dropEngMisses core e).endList core slot e false
      else
        match (s.dropEngMisses core e).accept core e { s.nextOfList core slot e with record := BitVec.ofNat 512 r } true with
        | none => s
        | some u => u.modSlot (slotKey core slot) (fun y => { y with forks := y.forks.put (forkIx e) { l with index := l.index + 1 } }) := by
  have hkind : fld (dw (BitVec.ofNat 512 r) 0) 0 8 = r % 2 ^ 8 := by rw [← hr, fld_dw_le s _ (by decide), Nat.pow_zero, Nat.div_one]
  have hlow : fld (dw (BitVec.ofNat 512 r) 0) 9 7 = r / 2 ^ 9 % 2 ^ 7 := by rw [← hr, fld_dw_le s _ (by decide)]
  have hhigh : fld (dw (BitVec.ofNat 512 r) 0) 32 32 = r / 2 ^ 32 % 2 ^ 32 := by rw [← hr, fld_dw_le s _ (by decide)]
  rw [forkSequenceReadStep_free hqueue hfrozen hhalt hrun hparts hbusy]
  dsimp only
  rw [hl, if_neg (by omega), engReadAny_of_buffer hbuffer, State.read_eq_le, hr]
  dsimp only
  rw [hkind, hlow, hhigh]
  simp only [Bool.and_eq_true, decide_eq_true_eq, and_assoc]

/-- The command that has been read joins the queue, and the list goes on to the next. -/
theorem forkSequenceRead_joins {l : ForkList} {r st : Nat} {rs : List Region} (hl : Sparse.get {} (s.slot (slotKey core slot)).forks (forkIx e) = l)
    (hlen : l.off + 64 * l.index + 64 ≤ l.cap.cap.len) (hbuffer : buffer s core l.cap.cap.space ((l.cap.cap.base + (l.off + 64 * l.index)) % 2 ^ 56) 64)
    (hr : le s (placeKey l.cap.cap.space core ((l.cap.cap.base + (l.off + 64 * l.index)) % 2 ^ 56)) 64 = r) (hkind : r % 256 ≠ 0)
    (h : ∃ t, (s.dropEngMisses core e).accept core e { s.nextOfList core slot e with record := BitVec.ofNat 512 r } true = some t ∧
      (s.dropEngMisses core e).Joined t core e { s.nextOfList core slot e with record := BitVec.ofNat 512 r } st rs) :
    ∃ t, exec (.forkSequenceRead core e) s = .next t ∧ (Sparse.get {} (t.slot (slotKey core slot)).forks (forkIx e)).index = l.index + 1 ∧
      ∃ c, (t.engine core e).queue = .cmd c :: (s.engine core e).queue ∧ c.record = BitVec.ofNat 512 r ∧ c.slot = slot ∧ c.forked = true ∧
        c.mode = (s.ctx (hartKey core slot)).mode ∧ c.seq = Sparse.get 0 (s.slot (slotKey core slot)).engSeq (forkIx e + 4) + 1 ∧ c.status = st ∧
        c.regions = rs := by
  obtain ⟨t, haccept, d, hd, hjoined⟩ := h
  refine ⟨forkSequenceReadStep core e s, rfl, ?_⟩
  rw [forkSequenceReadStep_reads hqueue hfrozen hhalt hrun hparts hbusy hl hlen hbuffer hr, if_neg fun h => hkind h.1, haccept]
  dsimp only
  rw [State.slot_modSlot, if_pos rfl, State.engine_modSlot]
  dsimp only
  rw [Sparse.get_put, if_pos rfl]
  exact ⟨rfl, d, by rw [hd, State.engine_dropEngMisses], hjoined⟩

end

theorem forkIx_of_mem {i : Nat} {e : Engine} (h : (i, e) ∈ [((0 : Nat), Engine.copy), (1, .matrix), (2, .quant)]) : i = forkIx e := by
  cases e <;> simpa [forkIx] using h

/-! ### Completions (R212, R214) -/

section

variable {s : State} {core : Nat} {e : Engine} {q : List QItem} {d : Completion} {rest : List Completion}

theorem Slot.withTrap_pending (l : Slot) (cause tval : Nat) : (l.withTrap cause tval).pending =
    if cause = 0 then l.pending else l.pending ++ [{ order := if cause = MATRIX_CHECK then 1 else 4, cause := cause, tval := tval }] := by
  unfold Slot.withTrap
  split <;> rfl

theorem Slot.withTrap_inbox (l : Slot) (cause tval : Nat) : (l.withTrap cause tval).inbox = l.inbox := by
  unfold Slot.withTrap
  split <;> rfl

/-- The slot that an entry comes to keeps what is pending. -/
theorem State.pending_putInbox {k : Nat} {x : InEntry} {names : List Nat} : ((s.putInbox k x names).slot k).pending = (s.slot k).pending := by
  unfold State.putInbox
  rw [State.slot_modSlot, if_pos rfl]
  split
  · rfl
  · split <;> rfl

/-- An inbox that has room takes an entry for a vcore that is there and has not ended. -/
theorem State.inbox_putInbox {k : Nat} {x : InEntry} {names : List Nat} (hroom : (s.slot k).inboxRoom = true) (hres : (s.slot k).resident = true)
    (hended : (s.slot k).ended = false) : ((s.putInbox k x names).slot k).inbox = (s.slot k).inbox ++ [x] := by
  have hheld : (s.slot k).held.isEmpty = true := by
    unfold Slot.inboxRoom at hroom
    rw [hres, hended] at hroom
    simp only [Bool.not_true, Bool.false_or, Bool.and_eq_true] at hroom
    exact hroom.1
  unfold State.putInbox
  rw [State.slot_modSlot, if_pos rfl, hended, hres, hheld]
  rfl

theorem engineCompletionStep_done (hdone : (s.engine core e).done = d :: rest) (hfrozen : (s.engine core e).frozen = false)
    (hroom : (s.slot (slotKey core d.cmd.slot)).inboxRoom = true) : engineCompletionStep core e s =
      (((s.modEngine core e (fun y => { y with done := rest })).releaseRanges core d.cmd.id e false).putInbox (slotKey core d.cmd.slot) (d.item e)
        (cmdNames e d.cmd)).modSlot (slotKey core d.cmd.slot) (fun l => l.withTrap d.cause d.tval) := by
  unfold engineCompletionStep
  simp only [hdone]
  exact if_neg (by simp [hfrozen, hroom])

theorem State.not_mem_releaseRanges {id : Nat} {r : RangeEntry} (h : r ∈ ((s.releaseRanges core id e false).core core).ranges) :
    ¬(r.cmd = id ∧ r.engine = e) := by
  unfold State.releaseRanges at h
  rw [State.core_modCore, if_pos rfl] at h
  have hkept := (List.mem_filter.1 h).2
  rintro ⟨rfl, rfl⟩
  simp at hkept

/-- With nothing finished, a head that its checks refused completes (R199). -/
theorem engineCompletionStep_failed {c : Cmd} (hdone : (s.engine core e).done = []) (hfrozen : (s.engine core e).frozen = false)
    (hrun : (s.engine core e).run = none) (hparts : (s.engine core e).parts = []) (hqueue : (s.engine core e).queue = .cmd c :: q)
    (hstatus : c.status ≠ 0) : engineCompletionStep core e s =
      (s.modEngine core e (fun y => { y with queue := y.queue.tail })).finishCmd core e c c.status 0 c.detail 0 0 := by
  unfold engineCompletionStep State.failHead
  simp [hdone, hfrozen, hrun, hparts, hqueue, hstatus]

/-- R212, R214: what the entry of the oldest finished command changes. -/
theorem engineCompletion_spec (hdone : (s.engine core e).done = d :: rest) (hfrozen : (s.engine core e).frozen = false)
    (hroom : (s.slot (slotKey core d.cmd.slot)).inboxRoom = true) :
    let key := slotKey core d.cmd.slot
    ∃ t, exec (.engineCompletion core e) s = .next t ∧ (t.engine core e).done = rest ∧ t.mem = s.mem ∧
      ((s.slot key).resident = true → (s.slot key).ended = false → ∃ x, (t.slot key).inbox = (s.slot key).inbox ++ [x] ∧ x.val = d.entry) ∧
      (d.cause = 0x0F → (t.slot key).pending = (s.slot key).pending ++ [{ order := 4, cause := 0x0F, tval := d.tval }]) ∧
      (d.cause = 0 → (t.slot key).pending = (s.slot key).pending) ∧ ∀ r ∈ (t.core core).ranges, ¬(r.cmd = d.cmd.id ∧ r.engine = e) := by
  intro key
  refine ⟨engineCompletionStep core e s, rfl, ?_⟩
  rw [engineCompletionStep_done hdone hfrozen hroom, State.slot_modSlot, if_pos rfl, Slot.withTrap_inbox, Slot.withTrap_pending,
    State.pending_putInbox]
  refine ⟨?done, rfl, fun hres hended => ⟨_, State.inbox_putInbox hroom hres hended, rfl⟩, fun hcause => ?fault, fun hcause => if_pos hcause,
    fun r hr => State.not_mem_releaseRanges hr⟩
  case done =>
    show ((((s.modEngine core e _).releaseRanges core d.cmd.id e false)).engine core e).done = rest
    rw [State.engine_releaseRanges, State.engine_modEngine_self]
  case fault =>
    rw [hcause]
    rfl

/-- R199: a head that failed its checks ends with their status. -/
theorem engineCompletion_failed {c : Cmd} (hdone : (s.engine core e).done = []) (hfrozen : (s.engine core e).frozen = false)
    (hrun : (s.engine core e).run = none) (hparts : (s.engine core e).parts = []) (hqueue : (s.engine core e).queue = .cmd c :: q)
    (hstatus : 16 ≤ c.status) (hlt : c.status < 256) (hf : c.forked = false) :
    ∃ t, exec (.engineCompletion core e) s = .next t ∧ (t.engine core e).queue = q ∧ ended t core e c (engineCls e) c.status 0 c.detail := by
  have hengine := State.engine_finishCmd (s := s.modEngine core e (fun y => { y with queue := y.queue.tail })) (core := core) (e := e) (c := c)
    (status := c.status) (count := 0) (detail := c.detail) (cause := 0) (tval := 0)
  rw [State.listEnded_of_not_forked hf, State.engine_modEngine_self, hqueue, hdone] at hengine
  refine ⟨engineCompletionStep core e s, rfl, ?_⟩
  rw [engineCompletionStep_failed hdone hfrozen hrun hparts hqueue (by omega)]
  exact ⟨by rw [hengine]; rfl, ended_of_completionOf hlt (by omega) (by rw [hengine]; exact hrun) (by rw [hengine]; rfl)⟩

end

/-- Settles O40: the sequencer's step by what stands at the head of the queue, and the completion of an engine by what it holds. -/
theorem listsAndCompletions : Obligations.ListsAndCompletions := by
  refine ⟨?list, fun core e d rest s hdone hfrozen => engineCompletion_spec hdone hfrozen,
    fun core e c q s hdone hfrozen hrun hparts hqueue h16 hlt hf => ?failed⟩
  case failed =>
    have h := engineCompletion_failed hdone hfrozen hrun hparts hqueue h16 hlt hf
    cases e <;> exact h
  case list =>
    intro core slot i e q s hie
    obtain rfl := forkIx_of_mem hie
    intro x sl l cap off a hqueue hfrozen hhalt
    refine ⟨fun h => congrArg Host.Outcome.next (forkSequenceReadStep_waits hqueue h), fun hrun hparts hbusy hlen => ⟨_, rfl, ?beyond⟩,
      fun hrun hparts hbusy hlen hbuffer => ?read⟩
    case beyond => exact forkSequenceReadStep_beyond hqueue hfrozen hhalt hrun hparts hbusy hlen
    case read =>
      intro r
      refine ⟨fun hkind hlow hhigh => ⟨_, rfl, ?ends⟩, fun hkind hgroup hquar => ?joins⟩
      case ends =>
        rw [forkSequenceReadStep_reads hqueue hfrozen hhalt hrun hparts hbusy rfl hlen hbuffer rfl, if_pos ⟨hkind, hlow, hhigh⟩]
        exact ⟨State.forks_endList, State.not_mem_endList, by rw [State.slot_endList]; rfl, rfl⟩
      case joins =>
        exact ⟨fun st hcheck => forkSequenceRead_joins hqueue hfrozen hhalt hrun hparts hbusy rfl hlen hbuffer rfl hkind
            (State.accept_front_error (s := s.dropEngMisses core e) hgroup (by rw [State.quarantined_dropEngMisses, hquar]) rfl hcheck),
          fun ab bb rs hcheck hroom => forkSequenceRead_joins hqueue hfrozen hhalt hrun hparts hbusy rfl hlen hbuffer rfl hkind
            (State.accept_front_ok (s := s.dropEngMisses core e) hgroup (by rw [State.quarantined_dropEngMisses, hquar]) rfl hcheck
              (by rw [State.ranges_dropEngMisses]; exact hroom))⟩

end Sys2Proof.Machine
end

section
/-! # The copy engine (O41)

A chunk is read whole and then written; the command goes on behind it, or ends with the bytes that it moved. CMARK ends at the head, and withdraws what it names;
a host access that fails ends its copy. -/

namespace Sys2Proof.Machine

open Sys2Proof.Claims

/-! ### NOTBEFORE (R202) -/

section

variable {s : State} {core : Nat} {c : Cmd} {q : List QItem}

theorem notBefore_copy (h : kindOf c = 0x10) : notBefore c = dw c.record 4 := if_pos ((cmdKind_eq c).trans h)

theorem notBefore_deal (h : kindOf c = 0x11) : notBefore c = dw c.record 5 := if_neg (by rw [cmdKind_eq, h]; decide)

theorem copyStep_starts (hhead : atHead s core .copy c q) (hkind : kindOf c = 0x10) (htime : dw c.record 4 ≤ s.time) :
    copyStep core s = copyChunk (s.startCmd core .copy c) core (freshRun c) := by
  have hok : (cmdKind c == 0x10 && timeCome s c) = true := by
    rw [cmdKind_eq, hkind, timeCome, notBefore_copy hkind, decide_eq_true htime]
    rfl
  unfold copyStep
  rw [inHand_of_atHead hhead hok]

theorem dealStep_starts (hhead : atHead s core .copy c q) (hkind : kindOf c = 0x11) (htime : dw c.record 5 ≤ s.time) :
    dealStep core s = dealChunk (s.startCmd core .copy c) core (freshRun c) := by
  have hok : (cmdKind c == 0x11 && timeCome s c) = true := by
    rw [cmdKind_eq, hkind, timeCome, notBefore_deal hkind, decide_eq_true htime]
    rfl
  unfold dealStep
  rw [inHand_of_atHead hhead hok]

/-- A command whose NOTBEFORE has come starts as one without. -/
theorem notbeforeReachedStep_copy (hhead : atHead s core .copy c q) (hkind : kindOf c = 0x10) (htime : dw c.record 4 ≤ s.time)
    (h0 : dw c.record 4 ≠ 0) : notbeforeReachedStep core s = copyStep core s := by
  unfold notbeforeReachedStep
  simp only [headReady_of_atHead hhead, timeCome, notBefore_copy hkind, cmdKind_eq, hkind, decide_eq_true htime]
  simp [h0]

theorem notbeforeReachedStep_deal (hhead : atHead s core .copy c q) (hkind : kindOf c = 0x11) (htime : dw c.record 5 ≤ s.time)
    (h0 : dw c.record 5 ≠ 0) : notbeforeReachedStep core s = dealStep core s := by
  unfold notbeforeReachedStep
  simp only [headReady_of_atHead hhead, timeCome, notBefore_deal hkind, cmdKind_eq, hkind, decide_eq_true htime]
  simp [h0]

end

/-! ### One chunk (R202) -/

/-- A command whose chunk of `n` bytes has been moved: it goes on, or ends with the bytes moved, `len` in all. -/
def State.chunkMoved (s : State) (core : Nat) (r : Run) (n len : Nat) : State :=
  let t := s.dropEngMisses core .copy
  if r.count + n < len then t.modEngine core .copy (fun x => { x with run := some { r with count := r.count + n, hostAt := none } })
  else t.endCmd core .copy r.cmd 0 (r.count + n) 0 0 0

section

variable {s t u : State} {core n len : Nat} {r : Run} {c : Cmd} {bs : List Byte}

theorem State.chunkMoved_mem : (s.chunkMoved core r n len).mem = s.mem := by
  unfold State.chunkMoved
  dsimp only
  split
  · rfl
  · exact State.endCmd_mem

theorem State.chunkMoved_goes_on (h : r.count + n < len) : (s.chunkMoved core r n len).engine core .copy =
    { s.engine core .copy with run := some { r with count := r.count + n, hostAt := none } } := by
  unfold State.chunkMoved
  dsimp only
  rw [if_pos h, State.engine_modEngine_self, State.engine_dropEngMisses]

section

variable (hrun : (s.engine core .copy).run = some r) (hf : r.cmd.forked = false)

include hrun hf

theorem State.chunkMoved_queue : ((s.chunkMoved core r n len).engine core .copy).queue = (s.engine core .copy).queue := by
  by_cases h : r.count + n < len
  · rw [State.chunkMoved_goes_on h]
  · unfold State.chunkMoved
    dsimp only
    rw [if_neg h, State.engine_endCmd (by rw [State.engine_dropEngMisses, hrun]) rfl hf, State.engine_dropEngMisses]

theorem State.chunkMoved_ends (hdone : (s.engine core .copy).done = []) (h : len ≤ r.count + n) :
    ended (s.chunkMoved core r n len) core .copy r.cmd 2 0 (r.count + n) 0 := by
  unfold State.chunkMoved
  dsimp only
  rw [if_neg (by omega)]
  exact ended_endCmd (r := r) (by rw [State.engine_dropEngMisses, hrun]) rfl (by rw [State.engine_dropEngMisses, hdone]) hf (by decide) (by decide)

end

/-- The bytes that were read are written to a buffer, of this core or of another one. -/
theorem moveChunk_of_read {ss sa ds da dcore : Nat} (hread : engReadRange s core .copy c ss sa n = .ok (u, bs)) (h1 : 1 ≤ ds) (h4 : ds ≤ 4)
    (hfits : da + bs.length ≤ bufferBytes ds) :
    ∃ t, moveChunk s core c ss sa ds da dcore n = .ok t ∧ u.Wrote t ∧ holdsBytes u t (placeKey ds dcore da) bs := by
  unfold moveChunk
  rw [hread]
  dsimp only
  by_cases hcore : dcore = core
  · subst hcore
    obtain ⟨t, ht, hwrote, hholds⟩ := engWriteRange_of_fits (s := u) (core := dcore) (e := .copy) (c := c) h1 h4 hfits
    rw [if_neg (fun h => h rfl), ht]
    exact ⟨t, rfl, hwrote, hholds⟩
  · rw [if_pos hcore]
    exact ⟨_, rfl, .storeBytes, holdsBytes_storeBytes _ _ _⟩

theorem copyChunk_of_moved {src dst : Region} (hlate : s.hostLate r = none) (hregions : r.cmd.regions = [src, dst])
    (hmove : moveChunk s core r.cmd src.space (src.addr + r.count) dst.space (dst.addr + r.count) core (min 4096 (src.len - r.count)) = .ok t) :
    copyChunk s core r = t.chunkMoved core r (min 4096 (src.len - r.count)) src.len := by
  unfold copyChunk
  rw [hlate, hregions]
  dsimp only
  rw [hmove]
  rfl

theorem copyChunk_late {a : Nat} (hlate : s.hostLate r = some a) : copyChunk s core r = s.endCmd core .copy r.cmd 0x18 r.count (a % 2 ^ 56) 0 0 := by
  unfold copyChunk
  rw [hlate]

theorem hostLate_freshRun : s.hostLate (freshRun c) = none := rfl

theorem count_freshRun (h : c.progress = 0) : (freshRun c).count = 0 := by
  unfold freshRun Cmd.counted
  rw [h, ite_self]

end

/-! ### COPY (R202) -/

section

variable {s : State} {core : Nat} {c : Cmd} {q : List QItem} {src dst : Region}

/-- R202: the first chunk of a copy between two buffers. -/
theorem copy_spec (hhead : atHead s core .copy c q) (hkind : kindOf c = 0x10) (hprogress : c.progress = 0) (hf : c.forked = false)
    (htime : dw c.record 4 ≤ s.time) (hregions : c.regions = [src, dst]) (hlen : src.len = dst.len) (hsrc : buffer s core src.space src.addr src.len)
    (hdst : buffer s core dst.space dst.addr dst.len) :
    let n := min 4096 src.len
    let t := copyStep core s
    (t.engine core .copy).queue = q ∧
      (∀ a, t.byte a = if placeKey dst.space core dst.addr ≤ a ∧ a < placeKey dst.space core dst.addr + n
        then s.byte (placeKey src.space core src.addr + (a - placeKey dst.space core dst.addr)) else s.byte a) ∧
      (src.len ≤ 4096 → ended t core .copy c 2 0 src.len 0) ∧
      (4096 < src.len → ∃ r, (t.engine core .copy).run = some r ∧ r.cmd = c ∧ r.count = 4096) := by
  intro n t
  have hcount := count_freshRun hprogress
  have hengine := engine_startCmd hhead
  have hstart := copyStep_starts hhead hkind htime
  obtain ⟨-, -, hdone, -⟩ := hhead
  have hread : engReadRange (s.startCmd core .copy c) core .copy c src.space src.addr n =
      .ok (s.startCmd core .copy c, (s.startCmd core .copy c).bytesAt (placeKey src.space core src.addr) n) :=
    engReadRange_of_buffer (buffer_within (k := 0) hsrc (by omega))
  have hbytes : ((s.startCmd core .copy c).bytesAt (placeKey src.space core src.addr) n).length = n := State.length_bytesAt _ _ _
  obtain ⟨h1, h4, hfits⟩ := fits_of_buffer hdst
  obtain ⟨m, hmove, hwrote, hholds⟩ := moveChunk_of_read (dcore := core) hread h1 h4 (da := dst.addr) (by omega)
  have hstep : t = m.chunkMoved core (freshRun c) n src.len := by
    have h := copyChunk_of_moved (s := s.startCmd core .copy c) (core := core) (r := freshRun c) (t := m) hostLate_freshRun hregions
      (by rw [hcount]; exact hmove)
    rw [hcount] at h
    exact hstart.trans h
  have hm : m.engine core .copy = { s.engine core .copy with queue := q, run := some (freshRun c) } :=
    ((State.SameEngines.of_wrote hwrote) core .copy).trans hengine
  have hrun : (m.engine core .copy).run = some (freshRun c) := by rw [hm]
  rw [hstep]
  refine ⟨by rw [State.chunkMoved_queue hrun hf, hm], fun a => ?bytes, fun h => ?ends, fun h => ?on⟩
  case bytes =>
    rw [State.byte, State.chunkMoved_mem]
    refine (hholds a).trans ?_
    rw [hbytes]
    exact ite_congr rfl (fun ha => State.getD_bytesAt _ (by omega)) fun _ => rfl
  case ends =>
    have hends := State.chunkMoved_ends hrun hf (n := n) (len := src.len) (by rw [hm]; exact hdone) (by omega)
    rwa [hcount, show 0 + n = src.len by omega] at hends
  case on =>
    rw [State.chunkMoved_goes_on (by omega)]
    exact ⟨_, rfl, rfl, by dsimp only; omega⟩

end

/-! ### DEAL (R203) -/

section

variable {s u : State} {core : Nat} {c : Cmd} {q : List QItem} {bs : List Byte}

theorem dealBlock_zero (r : BitVec 512) : dealBlock r 0 = (fld (dw r 4) 16 4, dw r 2 % 2 ^ 56) := by
  unfold dealBlock
  dsimp only
  rw [fld_zero, Nat.zero_mod, Nat.zero_div, Nat.zero_mul, Nat.zero_mul, Nat.add_zero, Nat.add_zero, Nat.mod_eq_of_lt (show _ < 16 from fld_lt _ _ _)]

/-- The first block goes to the share of the issuing slot's number, at the core of the command's first place. -/
theorem dealChunk_of_moved {t : State} {r : Run} (hlate : s.hostLate r = none) (hcount : r.count = 0) (htargets : dealTargetsOk s core r.cmd = true)
    (hlen : dw r.cmd.record 3 % 2 ^ 32 ≠ 0)
    (hmove : moveChunk s core r.cmd 0 (dw r.cmd.record 1 % 2 ^ 56) (fld (dw r.cmd.record 2) 56 4)
      (s.shareStart r.cmd.slot (fld (dw r.cmd.record 2) 56 4) + dw r.cmd.record 2 % 2 ^ 56) (core / 16 * 16 + fld (dw r.cmd.record 4) 16 4)
      (min 4096 (64 * (dw r.cmd.record 4 % 2 ^ 16))) = .ok t) :
    dealChunk s core r = t.chunkMoved core r (min 4096 (64 * (dw r.cmd.record 4 % 2 ^ 16))) (dw r.cmd.record 3 % 2 ^ 32) := by
  unfold dealChunk
  dsimp only
  rw [fld_zero, fld_zero, fld_zero, hcount, Nat.zero_div, dealBlock_zero, Nat.zero_mod, htargets, hlate]
  dsimp only
  rw [Nat.add_zero, Nat.add_zero, Nat.sub_zero, hmove, Bool.not_true, Bool.and_false, if_neg Bool.false_ne_true, if_neg (by omega)]
  rw [State.chunkMoved, hcount]

theorem deal_spec (hhead : atHead s core .copy c q) (hkind : kindOf c = 0x11) (hprogress : c.progress = 0) (hf : c.forked = false)
    (htime : dw c.record 5 ≤ s.time) (hlen : dw c.record 3 % 2 ^ 32 ≠ 0) (htargets : dealTargetsOk s core c = true)
    (hbuffer : buffer s core (fld (dw c.record 2) 56 4) (s.shareStart c.slot (fld (dw c.record 2) 56 4) + dw c.record 2 % 2 ^ 56)
      (min 4096 (64 * (dw c.record 4 % 2 ^ 16))))
    (hread : engReadRange (s.startCmd core .copy c) core .copy c 0 (dw c.record 1 % 2 ^ 56) (min 4096 (64 * (dw c.record 4 % 2 ^ 16))) = .ok (u, bs))
    (hbytes : bs.length = min 4096 (64 * (dw c.record 4 % 2 ^ 16))) :
    let n := min 4096 (64 * (dw c.record 4 % 2 ^ 16))
    let key := placeKey (fld (dw c.record 2) 56 4) (core / 16 * 16 + fld (dw c.record 4) 16 4)
      (s.shareStart c.slot (fld (dw c.record 2) 56 4) + dw c.record 2 % 2 ^ 56)
    let t := dealStep core s
    (∀ a, t.byte a = if key ≤ a ∧ a < key + n then bs.getD (a - key) 0 else u.byte a) ∧
      (dw c.record 3 % 2 ^ 32 ≤ n → ended t core .copy c 2 0 n 0) ∧
      (n < dw c.record 3 % 2 ^ 32 → ∃ r, (t.engine core .copy).run = some r ∧ r.cmd = c ∧ r.count = n) := by
  intro n key t
  have hcount := count_freshRun hprogress
  have hengine := engine_startCmd hhead
  have hstart := dealStep_starts hhead hkind htime
  obtain ⟨-, -, hdone, -⟩ := hhead
  obtain ⟨h1, h4, hfits⟩ := fits_of_buffer hbuffer
  obtain ⟨m, hmove, hwrote, hholds⟩ := moveChunk_of_read (dcore := core / 16 * 16 + fld (dw c.record 4) 16 4) hread h1 h4 (by rwa [hbytes])
  have hstep : t = m.chunkMoved core (freshRun c) n (dw c.record 3 % 2 ^ 32) :=
    hstart.trans (dealChunk_of_moved (r := freshRun c) hostLate_freshRun hcount htargets hlen hmove)
  have hm : m.engine core .copy = { s.engine core .copy with queue := q, run := some (freshRun c) } := by
    have hu : (s.startCmd core .copy c).SameEngines u := (Answers.engReadRange .refl).of_ok hread
    rw [State.SameEngines.of_wrote hwrote core .copy, hu core .copy, hengine]
  have hrun : (m.engine core .copy).run = some (freshRun c) := by rw [hm]
  rw [hstep]
  refine ⟨fun a => ?bytes, fun h => ?ends, fun h => ?on⟩
  case bytes =>
    rw [State.byte, State.chunkMoved_mem]
    refine (hholds a).trans ?_
    rw [hbytes]
  case ends =>
    have hends := State.chunkMoved_ends hrun hf (n := n) (len := dw c.record 3 % 2 ^ 32) (by rw [hm]; exact hdone) (by omega)
    rwa [hcount, Nat.zero_add] at hends
  case on =>
    rw [State.chunkMoved_goes_on (by omega)]
    exact ⟨_, rfl, rfl, by dsimp only; omega⟩

end

/-! ### CMARK (R204, R233) -/

section

variable {s : State} {core slot : Nat} {c m : Cmd} {q : List QItem}

/-- R204: a CMARK at the head of the queue ends. -/
theorem cmark_spec (hhead : atHead s core .copy c q) (hkind : kindOf c = 0x12) (hf : c.forked = false) :
    ∃ t, exec (.cmark core) s = .next t ∧ t.mem = s.mem ∧ (t.engine core .copy).queue = q ∧ ended t core .copy c 2 0 0 0 := by
  have hstep : cmarkStep core s = (s.startCmd core .copy c).endCmd core .copy c 0 0 0 0 0 := by
    unfold cmarkStep
    rw [inHand_of_atHead hhead (by rw [cmdKind_eq, hkind]; rfl)]
    rfl
  have hengine := engine_startCmd hhead
  obtain ⟨-, -, hdone, -⟩ := hhead
  have hrun : ((s.startCmd core .copy c).engine core .copy).run = some (freshRun c) := by rw [hengine]
  refine ⟨cmarkStep core s, rfl, ?_⟩
  rw [hstep]
  exact ⟨State.endCmd_mem, by rw [State.engine_endCmd (c := c) hrun rfl hf, hengine],
    ended_endCmd hrun rfl (by rw [hengine]; exact hdone) hf (by decide) (by decide)⟩

theorem isCancel_self (hslot : m.slot = slot) (hstatus : m.status = 0) (hkind : kindOf m = 0x12) (hcancel : m.record.getLsbD 9 = true) :
    isCancel slot m.record (.cmd m) = true := by
  have hbit : bitAt (dw m.record 0) 9 = true := by
    rw [dw, bitAt_fld (by decide), BitVec.testBit_toNat]
    exact hcancel
  have hk : fld (dw m.record 0) 0 8 = 0x12 := (cmdKind_eq m).trans hkind
  simp [isCancel, hslot, hstatus, hbit, hk]

theorem isCancel_of_kind {r : BitVec 512} (hkind : kindOf c ≠ 0x12) (hr : kindOf { c with record := r } = 0x12) : isCancel slot r (.cmd c) = false := by
  have hrecord : c.record ≠ r := by
    rintro rfl
    exact hkind hr
  simp [isCancel, hrecord]

/-- R204: what is withdrawn: an unstarted command of the slot whose tag agrees under the mask. -/
theorem withdraws_iff {r : BitVec 512} (hslot : c.slot = slot) (hstatus : c.status = 0) (hprogress : c.progress = 0) :
    withdraws slot r (.cmd c) = true ↔ 
      tagOf c &&& (r.toNat / 2 ^ 80 % 2 ^ 16) = (r.toNat / 2 ^ 64 % 2 ^ 16) &&& (r.toNat / 2 ^ 80 % 2 ^ 16) := by
  have htag : fld (dw r 1) 0 16 = r.toNat / 2 ^ 64 % 2 ^ 16 := fld_fld (by decide)
  have hmask : fld (dw r 1) 16 16 = r.toNat / 2 ^ 80 % 2 ^ 16 := fld_fld (by decide)
  unfold withdraws
  dsimp only
  rw [hslot, hstatus, hprogress, tagOf_eq, htag, hmask]
  simp only [beq_self_eq_true, Bool.true_and, beq_iff_eq]

/-- The commands of a queue but for those of some numbers. -/
def dropIds (ids : List Nat) (q : List QItem) : List QItem := q.filter (fun x => match x with | .cmd d => !(ids.contains d.id) | .list _ => true)

theorem dropIds_cmd (ids : List Nat) (d : Cmd) (q : List QItem) :
    dropIds ids (.cmd d :: q) = if d.id ∈ ids then dropIds ids q else .cmd d :: dropIds ids q := by
  unfold dropIds
  rw [List.filter_cons]
  by_cases h : d.id ∈ ids <;> simp [h]

theorem dropIds_of_fresh {ids : List Nat} (h : ∀ d ∈ q, ∀ x, d = .cmd x → x.id ∉ ids) : dropIds ids q = q :=
  List.filter_eq_self.2 fun d hd => by
    cases d with
    | cmd x => simpa using h _ hd x rfl
    | list _ => rfl

/-- The command of an item of a queue, if it is one. -/
def QItem.command? : QItem → Option Cmd
  | .cmd d => some d
  | .list _ => none

/-- What a CMARK with CANCEL withdraws: of what stands before it, the commands that it names. -/
def withdrawnBy (slot : Nat) (mark : Cmd) (q : List QItem) : List Cmd :=
  ((q.takeWhile (fun x => x != .cmd mark)).filter (withdraws slot mark.record)).filterMap QItem.command?

/-- The state without the withdrawn commands and the CMARK that withdrew them, all of which complete. -/
def State.withdrawn (s : State) (core : Nat) (mark : Cmd) (gone : List Cmd) : State :=
  (s.modEngine core .copy (fun y =>
    { y with queue := dropIds (mark.id :: gone.map (·.id)) y.queue
             done := y.done ++ gone.filterMap (fun d => completionOf .copy { d with seq := 0 } 0x04 0 0 0 0) ++
               (completionOf .copy { mark with seq := 0 } 0 gone.length 0 0 0).toList })).modCore core
    (fun C => { C with ranges := C.ranges.filter (fun r => !(r.engine == .copy && (mark.id :: gone.map (·.id)).contains r.cmd)) })

theorem cmarkCancelStep_of_found (hfind : (s.engine core .copy).queue.find? (isCancel slot m.record) = some (.cmd m)) :
    cmarkCancelStep core slot m.record s = s.withdrawn core m (withdrawnBy slot m (s.engine core .copy).queue) := by
  unfold cmarkCancelStep
  dsimp only
  rw [hfind]
  rfl

theorem State.engine_withdrawn {gone : List Cmd} : (s.withdrawn core m gone).engine core .copy =
    { s.engine core .copy with
      queue := dropIds (m.id :: gone.map (·.id)) (s.engine core .copy).queue
      done := (s.engine core .copy).done ++ gone.filterMap (fun d => completionOf .copy { d with seq := 0 } 0x04 0 0 0 0) ++
        (completionOf .copy { m with seq := 0 } 0 gone.length 0 0 0).toList } := by
  unfold State.withdrawn
  refine (State.engine_modCore ?_).trans State.engine_modEngine_self
  intro _
  rfl

/-- The command ahead of the CMARK, where it is named. -/
theorem withdrawnBy_pair (hne : c.id ≠ m.id) :
    withdrawnBy slot m (.cmd c :: .cmd m :: q) = if withdraws slot m.record (.cmd c) then [c] else [] := by
  have hcm : (QItem.cmd c != .cmd m) = true := bne_iff_ne.2 fun h => hne (congrArg Cmd.id (QItem.cmd.inj h))
  have hearlier : (QItem.cmd c :: .cmd m :: q).takeWhile (fun x => x != .cmd m) = [.cmd c] := by simp [hcm]
  unfold withdrawnBy
  rw [hearlier]
  split
  next h => rw [List.filter_cons_of_pos h]; rfl
  next h => rw [List.filter_cons_of_neg h]; rfl

/-- The completion of a command that leaves the queue without its place in its stream. -/
theorem completionOf_withdrawn {status count : Nat} (h : ¬(status < 16 ∧ status ≠ 4 ∧ noCmp c = true)) (hlt : status < 256) :
    ∃ d, completionOf .copy { c with seq := 0 } status count 0 0 0 = some d ∧ d.cmd = { c with seq := 0 } ∧ d.entry = entryOf c 2 status count 0 :=
  ⟨_, completionOf_of_entry (c := { c with seq := 0 }) h hlt, rfl, rfl⟩

/-- R204, R233: a CMARK with CANCEL behind one command of its slot. -/
theorem cmarkCancel_spec (hqueue : (s.engine core .copy).queue = .cmd c :: .cmd m :: q) (hne : c.id ≠ m.id)
    (hfresh : ∀ d ∈ q, ∀ x, d = .cmd x → x.id ≠ c.id ∧ x.id ≠ m.id) (hmslot : m.slot = slot) (hmstatus : m.status = 0) (hmkind : kindOf m = 0x12)
    (hcancel : m.record.getLsbD 9 = true) (hkind : kindOf c ≠ 0x12) (hslot : c.slot = slot) (hstatus : c.status = 0) (hprogress : c.progress = 0) :
    let mask := m.record.toNat / 2 ^ 80 % 2 ^ 16
    ∃ t, exec (.cmarkCancel core slot m.record) s = .next t ∧ t.mem = s.mem ∧
      (tagOf c &&& mask = (m.record.toNat / 2 ^ 64 % 2 ^ 16) &&& mask → (t.engine core .copy).queue = q ∧
        ∃ d, d.cmd = { c with seq := 0 } ∧ d.entry = entryOf c 2 4 0 0 ∧ d ∈ (t.engine core .copy).done ∧
          (noCmp m = false → ∃ y ∈ (t.engine core .copy).done, y.cmd = { m with seq := 0 } ∧ y.entry = entryOf m 2 0 1 0)) ∧
      (tagOf c &&& mask ≠ (m.record.toNat / 2 ^ 64 % 2 ^ 16) &&& mask → (t.engine core .copy).queue = .cmd c :: q) := by
  intro mask
  have hc : isCancel slot m.record (.cmd c) = false := isCancel_of_kind hkind hmkind
  have hfind : (s.engine core .copy).queue.find? (isCancel slot m.record) = some (.cmd m) := by
    rw [hqueue, List.find?_cons_of_neg (by rw [hc]; exact Bool.false_ne_true),
      List.find?_cons_of_pos (isCancel_self hmslot hmstatus hmkind hcancel)]
  have hstep := cmarkCancelStep_of_found hfind
  rw [hqueue, withdrawnBy_pair hne] at hstep
  refine ⟨cmarkCancelStep core slot m.record s, rfl, by rw [hstep]; rfl, fun h => ?agree, fun h => ?differ⟩
  case agree =>
    rw [hstep, if_pos ((withdraws_iff hslot hstatus hprogress).2 h), State.engine_withdrawn, hqueue]
    obtain ⟨d, hd, hdcmd, hdentry⟩ := completionOf_withdrawn (c := c) (status := 4) (count := 0) (by omega) (by decide)
    refine ⟨?_, d, hdcmd, hdentry, List.mem_append_left _ (List.mem_append_right _ (List.mem_filterMap.2 ⟨c, List.mem_singleton_self _, hd⟩)),
      fun hcmp => ?_⟩
    · dsimp only
      rw [dropIds_cmd, if_pos (by simp), dropIds_cmd, if_pos (by simp), dropIds_of_fresh fun d hd x hx => ?_]
      obtain ⟨h1, h2⟩ := hfresh d hd x hx
      simp [h1, h2]
    · obtain ⟨y, hy, hycmd, hyentry⟩ := completionOf_withdrawn (c := m) (status := 0) (count := 1)
        (fun h' => absurd (h'.2.2.symm.trans hcmp) (by decide)) (by decide)
      exact ⟨y, List.mem_append_right _ (Option.mem_toList.2 hy), hycmd, hyentry⟩
  case differ =>
    rw [hstep, if_neg fun h' => h ((withdraws_iff hslot hstatus hprogress).1 h'), State.engine_withdrawn, hqueue]
    dsimp only
    rw [dropIds_cmd, if_neg (by simpa using hne), dropIds_cmd, if_pos (by simp), dropIds_of_fresh fun d hd x hx => ?_]
    simpa using (hfresh d hd x hx).2

end

/-! ### A host access that fails (R232) -/

section

variable {s : State} {core a : Nat} {r : Run} {src dst : Region}

theorem hostLate_of_passed {t0 : Nat} (hat : r.hostAt = some (t0, a)) (h : t0 + 100000 ≤ s.time) : s.hostLate r = some a := by
  unfold State.hostLate
  rw [hat]
  simp [h]

/-- The lines of host accesses of a copy: of its source or its destination, in a page of the host tier. -/
theorem mem_hostLines (hkind : kindOf r.cmd = 0x10) (hregions : r.cmd.regions = [src, dst]) (h : a ∈ s.hostLines core r) :
    s.inHostTier core a = true ∧ ((src.addr + r.count ≤ a ∧ a < src.addr + r.count + min 4096 (src.len - r.count)) ∨
      (dst.addr + r.count ≤ a ∧ a < dst.addr + r.count + min 4096 (src.len - r.count))) := by
  have hnext : s.nextChunk core r =
      some (src.space, src.addr + r.count, dst.space, dst.addr + r.count, core, min 4096 (src.len - r.count)) := by
    unfold State.nextChunk
    rw [cmdKind_eq, hkind, hregions]
    rfl
  have inLines {space b n : Nat} (h : a ∈ if space = 0 then ((linePieces b n).map (·.1)).filter (s.inHostTier core) else []) :
      s.inHostTier core a = true ∧ b ≤ a ∧ a < b + n := by
    split at h
    · obtain ⟨hmem, htier⟩ := List.mem_filter.1 h
      obtain ⟨p, hp, rfl⟩ := List.mem_map.1 hmem
      exact ⟨htier, mem_linePieces hp⟩
    · cases h
  unfold State.hostLines at h
  rw [hnext] at h
  dsimp only at h
  split at h
  · exact (List.mem_append.1 h).elim (fun h => ⟨(inLines h).1, .inl (inLines h).2⟩) fun h => ⟨(inLines h).1, .inr (inLines h).2⟩
  · split at h
    · exact ⟨(inLines (List.mem_filter.1 h).1).1, .inl (inLines (List.mem_filter.1 h).1).2⟩
    · exact (List.mem_append.1 h).elim (fun h => ⟨(inLines h).1, .inl (inLines h).2⟩) fun h =>
        ⟨(inLines (List.mem_filter.1 h).1).1, .inr (inLines (List.mem_filter.1 h).1).2⟩
  · cases h

section

variable (hrun : (s.engine core .copy).run = some r) (hdone : (s.engine core .copy).done = []) (hfrozen : (s.engine core .copy).frozen = false)
  (hhalt : s.halting (slotKey r.cmd.issuer r.cmd.slot) = false) (hkind : kindOf r.cmd = 0x10) (htime : dw r.cmd.record 4 ≤ s.time)
  (hf : r.cmd.forked = false)

include hrun hdone hf in
/-- The copy in hand ends with ECC, at an address. -/
theorem ended_ecc (x : Nat) : ended (s.endCmd core .copy r.cmd 0x18 r.count x 0 0) core .copy r.cmd 2 0x18 r.count x :=
  ended_endCmd hrun rfl hdone hf (by decide) (by decide)

include hrun hfrozen hhalt hkind htime

theorem inHand_host : s.inHand core .copy (fun c => (cmdKind c == 0x10 || cmdKind c == 0x11) && timeCome s c) = some (s, r) :=
  inHand_of_run hrun hfrozen hhalt (by rw [cmdKind_eq, hkind, timeCome, notBefore_copy hkind, decide_eq_true htime]; rfl)

theorem cxlAccessTimeoutStep_late (hlate : s.hostLate r = some a) :
    cxlAccessTimeoutStep core s = s.endCmd core .copy r.cmd 0x18 r.count (a % 2 ^ 56) 0 0 := by
  unfold cxlAccessTimeoutStep
  rw [inHand_host hrun hfrozen hhalt hkind htime]
  dsimp only
  rw [hlate]

/-- One of the chunk's host accesses fails. -/
theorem cxlAccessTimeoutStep_fails (hlate : s.hostLate r = none) (hlines : s.hostLines core r ≠ []) : ∃ a ∈ s.hostLines core r,
    cxlAccessTimeoutStep core s = { s.endCmd core .copy r.cmd 0x18 r.count (a % 2 ^ 56) 0 0 with free := s.free + 1 } := by
  have hpos : 0 < (s.hostLines core r).length := List.length_pos_iff.2 hlines
  have hlt := Nat.mod_lt (Config.freeNat s.free) hpos
  refine ⟨(s.hostLines core r).getD (Config.freeNat s.free % (s.hostLines core r).length) 0, ?_, ?_⟩
  · rw [List.getD_eq_getElem _ _ hlt]
    exact List.getElem_mem hlt
  · unfold cxlAccessTimeoutStep
    rw [inHand_host hrun hfrozen hhalt hkind htime]
    dsimp only
    rw [hlate]
    dsimp only
    rw [List.isEmpty_eq_false_iff.2 hlines]
    rfl

theorem copyStep_late (hlate : s.hostLate r = some a) : copyStep core s = s.endCmd core .copy r.cmd 0x18 r.count (a % 2 ^ 56) 0 0 := by
  unfold copyStep
  rw [inHand_of_run hrun hfrozen hhalt (by rw [cmdKind_eq, hkind, timeCome, notBefore_copy hkind, decide_eq_true htime]; rfl)]
  exact copyChunk_late hlate

end

end

/-- Settles O41: the steps of the copy engine on a chunk between buffers or into one, on a mark, and on a host access that fails. -/
theorem copyEngine : Obligations.CopyEngine := by
  refine ⟨?copy, ?deal, fun core c q s hhead hkind hf => cmark_spec hhead hkind hf, ?cancel, ?host⟩
  case copy =>
    intro core c q src dst s hhead hkind hprogress hf htime hregions hlen hsrc hdst n
    obtain ⟨hqueue, hbytes, hends, hon⟩ := copy_spec hhead hkind hprogress hf htime hregions hlen hsrc hdst
    exact ⟨_, rfl, hqueue, hbytes, hends, hon, fun h0 => congrArg Host.Outcome.next (notbeforeReachedStep_copy hhead hkind htime h0)⟩
  case deal =>
    intro core c q bs s u hhead hkind hprogress hf dw blk sp n far at_ htime hblk hlen hmultiple hcyc htargets hbuffer hread hbytes
    obtain ⟨hmem, hends, hon⟩ := deal_spec hhead hkind hprogress hf htime hlen htargets hbuffer hread hbytes
    exact ⟨_, rfl, hmem, hends, hon, fun h0 => congrArg Host.Outcome.next (notbeforeReachedStep_deal hhead hkind htime h0)⟩
  case cancel =>
    intro core slot m c q s hqueue hne hfresh hmslot hmstatus hmkind hcancel hkind hslot hstatus hprogress mask
    exact cmarkCancel_spec hqueue hne hfresh hmslot hmstatus hmkind hcancel hkind hslot hstatus hprogress
  case host =>
    intro core r src dst s hrun hdone hfrozen hhalt hkind htime hf hregions n fails
    refine ⟨fun t0 a hat hpast => ⟨_, rfl, ?late⟩, fun t0 a hat hpast => ⟨_, rfl, ?copyLate⟩, fun hlate hlines => ?fails,
      fun a ha => mem_hostLines hkind hregions ha⟩
    case late =>
      rw [cxlAccessTimeoutStep_late hrun hfrozen hhalt hkind htime (hostLate_of_passed hat hpast)]
      exact ⟨State.endCmd_mem, ended_ecc hrun hdone hf _⟩
    case copyLate =>
      rw [copyStep_late hrun hfrozen hhalt hkind htime (hostLate_of_passed hat hpast)]
      exact ⟨State.endCmd_mem, ended_ecc hrun hdone hf _⟩
    case fails =>
      obtain ⟨a, ha, hstep⟩ := cxlAccessTimeoutStep_fails hrun hfrozen hhalt hkind htime hlate hlines
      exact ⟨_, a, ha, congrArg Host.Outcome.next hstep, State.endCmd_mem, ended_ecc hrun hdone hf _⟩

end Sys2Proof.Machine
end

section
/-! # The quantisation engine, MZERO and MMARK (O42)

A command of one row does its row and, at the next turn of its block, ends; what it read and wrote leaves every engine as it was. MZERO and MMARK end where
they stand at the head of a unit in use. -/

namespace Sys2Proof.Machine

open Sys2Proof.Claims

/-! ### Rows and scale entries leave the engines (R50) -/

section

variable {s t : State} {core base bank row p i k q x : Nat} {e : Engine} {c : Cmd} {w : Tensor} {xs : List Nat} {o : QuantOps}

theorem Answers.readPlanes (h : s.SameEngines t) : Answers (fun r => s.SameEngines r.1) (readPlanes t core e c w base row k q) := by
  induction k generalizing t q with
  | zero => exact h
  | succ k ih => exact (Answers.engReadRange h).bind fun _ h1 => (ih h1).bind fun _ h2 => h2

theorem Answers.readRow (h : s.SameEngines t) : Answers (fun r => s.SameEngines r.1) (readRow t core e c w bank p row) :=
  .ite ((Answers.readPlanes h).bind fun _ h1 => h1) ((Answers.engReadRange h).bind fun _ h1 => h1)

theorem Answers.writePlanes (h : s.SameEngines t) : Answers s.SameEngines (writePlanes core e c w base row xs k q t) := by
  induction k generalizing t q with
  | zero => exact h
  | succ k ih => exact (Answers.engWriteRange h).bind fun _ h1 => ih h1

theorem Answers.writeRow (h : s.SameEngines t) : Answers s.SameEngines (writeRow t core e c w bank row xs) :=
  .ite (Answers.writePlanes h) (Answers.engWriteRange h)

theorem Answers.readScale (h : s.SameEngines t) : Answers (fun r => s.SameEngines r.1) (readScale t core e c w bank i) :=
  (Answers.engRead h).bind fun _ h1 => h1

theorem Answers.readScales {is : List Nat} (h : s.SameEngines t) : Answers (fun r => s.SameEngines r.1) (readScales core e c w bank is t) := by
  induction is generalizing t with
  | nil => exact h
  | cons i is ih => exact (Answers.readScale h).bind fun _ h1 => (ih h1).bind fun _ h2 => h2

theorem Answers.rowScales (h : s.SameEngines t) : Answers (fun r => s.SameEngines r.1) (rowScales t core e c w bank row) :=
  .ite (Answers.readScales h) ((Answers.readScale h).bind fun _ h1 => h1)

end

/-! ### One row of each kind (R206 to R208) -/

section

variable {s u v w : State} {core row p : Nat} {c : Cmd} {o : QuantOps} {xs : List Nat} {ss : List FVal}

/-- A row has been done: its flags, and engines as they were. -/
def RowDone (s : State) (y : RowOut) (v : State) (sat inv : Bool) : Prop := y = .ok (v, sat, inv) ∧ s.SameEngines v

theorem qscaleRow_done (hread : readRow s core .quant c o.a c.abank o.a.p row = .ok (u, xs))
    (hwrite : engWrite u core .quant c o.b.sspace (o.b.scaleBase c.bbank + row * o.b.scaleBytes) o.b.scaleBytes
      (scaleEntry o.b.sfmt (qMax o.b) (xs.map (elemVal o.a.kind))).1 = .ok v) :
    RowDone s (qscaleRow s core c o row) v (scaleEntry o.b.sfmt (qMax o.b) (xs.map (elemVal o.a.kind))).2.1
      (scaleEntry o.b.sfmt (qMax o.b) (xs.map (elemVal o.a.kind))).2.2 := by
  have hu : s.SameEngines u := (Answers.readRow .refl).of_ok hread
  refine ⟨?_, (Answers.engWrite hu).of_ok hwrite⟩
  unfold qscaleRow
  rw [hread]
  simp only [atSpace, bind, Except.bind]
  generalize scaleEntry o.b.sfmt (qMax o.b) (xs.map (elemVal o.a.kind)) = e at hwrite ⊢
  obtain ⟨x, sat, inv⟩ := e
  dsimp only at hwrite ⊢
  rw [hwrite]

theorem qpackRow_done (hread : readRow s core .quant c o.a c.abank o.a.p row = .ok (u, xs)) (hscales : rowScales u core .quant c o.b c.bbank row = .ok (v, ss))
    {qs : List (Int × Bool × Bool)} (hqs : qs = List.zipWith (fun x y => packElem (planeLo o.b) (planeHi o.b) (elemVal o.a.kind x) y) xs ss)
    (hwrite : writeRow v core .quant c o.b c.bbank row (qs.map (fun z => (BitVec.ofInt o.b.p z.1).toNat)) = .ok w) :
    RowDone s (qpackRow s core c o row) w (qs.any (·.2.1)) (qs.any (·.2.2)) := by
  have hu : s.SameEngines u := (Answers.readRow .refl).of_ok hread
  have hv : s.SameEngines v := (Answers.rowScales hu).of_ok hscales
  refine ⟨?_, (Answers.writeRow hv).of_ok hwrite⟩
  simp only [← wrapN_eq_toNat] at hwrite
  subst hqs
  unfold qpackRow
  rw [hread]
  show (atSpace o.b.sspace (rowScales u core .quant c o.b c.bbank row) >>= _) = _
  rw [hscales]
  show (atSpace o.b.space (writeRow v core .quant c o.b c.bbank row _) >>= _) = _
  rw [hwrite]
  rfl

theorem zipWith_replicate {α β γ : Type} (f : α → β → γ) (y : β) (xs : List α) {n : Nat} (h : xs.length = n) :
    List.zipWith f xs (List.replicate n y) = xs.map (f · y) := by
  induction xs generalizing n with
  | nil => rfl
  | cons x xs ih =>
    subst h
    rw [List.length_cons, List.replicate_succ, List.zipWith_cons_cons, ih rfl, List.map_cons]

/-- The planes that QUNPACK reads: as many as its record says, or as many as the source holds. -/
def unpackPlanes (c : Cmd) (o : QuantOps) : Nat := if fld (dw c.record 1) 32 4 = 0 then o.a.dp else fld (dw c.record 1) 32 4

/-- R208 without APPLY: one element. -/
def unpackOne (c : Cmd) (o : QuantOps) (x : Nat) : Nat × Bool × Bool :=
  unpackElem o.b.kind false (planeRead (planeVal o.a x) o.a.p (unpackPlanes c o) (bitAt (dw c.record 1) 37)) (.fin false 1 0)

theorem qunpackRow_done (happly : bitAt (dw c.record 1) 38 = false) (hread : readRow s core .quant c o.a c.abank (unpackPlanes c o) row = .ok (u, xs))
    (hlen : xs.length = o.a.cols) {vs : List (Nat × Bool × Bool)} (hvs : vs = xs.map (unpackOne c o))
    (hwrite : writeRow u core .quant c o.b c.bbank row (vs.map (·.1)) = .ok v) :
    RowDone s (qunpackRow s core c o row) v (vs.any (·.2.1)) (vs.any (·.2.2)) := by
  have hu : s.SameEngines u := (Answers.readRow .refl).of_ok hread
  refine ⟨?_, (Answers.writeRow hu).of_ok hwrite⟩
  have hzip := zipWith_replicate (fun x y => unpackElem o.b.kind false (planeRead (planeVal o.a x) o.a.p (unpackPlanes c o) (bitAt (dw c.record 1) 37)) y)
    (FVal.fin false 1 0) xs hlen
  unfold unpackOne at hvs
  rw [← hzip] at hvs
  subst hvs
  unfold qunpackRow
  dsimp only
  rw [happly]
  unfold unpackPlanes at hread hwrite ⊢
  rw [hread]
  show (atSpace o.b.space (writeRow u core .quant c o.b c.bbank row _) >>= _) = _
  rw [hwrite]
  rfl

end

/-! ### A command of one row (R205) -/

section

variable {s v : State} {core : Nat} {c : Cmd} {q : List QItem} {o : QuantOps} {sat inv : Bool} {f : State → Cmd → QuantOps → Nat → RowOut}

/-- The state in which a command of one row has ended, its row done. -/
def State.rowEnded (v : State) (core : Nat) (c : Cmd) (sat inv : Bool) : State :=
  (v.dropEngMisses core .quant).endCmd core .quant c (satStatus sat inv) 1 0 0 0

theorem freshRun_of_unstopped (hprogress : c.progress = 0) (hdetail : c.detail = 0) :
    (freshRun c).count = 0 ∧ (freshRun c).sat = false ∧ (freshRun c).invalid = false := by
  refine ⟨count_freshRun hprogress, ?_, ?_⟩ <;> · unfold freshRun; rw [hdetail]; rfl

theorem quantBlock_of_row (hprogress : c.progress = 0) (hdetail : c.detail = 0) (hrows : (quantOps s core c).rows = 1)
    (hrow : f s c (quantOps s core c) (quantOps s core c).row0 = .ok (v, sat, inv)) :
    quantBlock core f s (freshRun c) = v.rowEnded core c sat inv := by
  obtain ⟨hcount, hsat, hinv⟩ := freshRun_of_unstopped hprogress hdetail
  have hops : quantOps s core (freshRun c).cmd = quantOps s core c := rfl
  unfold quantBlock
  dsimp only
  rw [hops, hcount, hrows, if_pos (by decide)]
  unfold quantRows
  rw [hcount, hrows, if_neg (by decide), Nat.add_zero]
  simp only [hostLate_freshRun]
  rw [show f s (freshRun c).cmd (quantOps s core c) (quantOps s core c).row0 = .ok (v, sat, inv) from hrow]
  dsimp only
  unfold quantRows
  rw [hrows, if_pos (Nat.le_refl 1), hsat, hinv]
  rfl

/-- R200, R205: what the command of one row leaves. -/
theorem rowEnded_spec (hhead : atHead s core .quant c q) (hf : c.forked = false) (hv : (s.startCmd core .quant c).SameEngines v) :
    (v.rowEnded core c sat inv).mem = v.mem ∧ ((v.rowEnded core c sat inv).engine core .quant).queue = q ∧
      ended (v.rowEnded core c sat inv) core .quant c 3 (satStatus sat inv) 1 0 := by
  have hengine := engine_startCmd hhead
  obtain ⟨-, -, hdone, -⟩ := hhead
  have hm : (v.dropEngMisses core .quant).engine core .quant = { s.engine core .quant with queue := q, run := some (freshRun c) } := by
    rw [State.engine_dropEngMisses, hv core .quant, hengine]
  have hrun : ((v.dropEngMisses core .quant).engine core .quant).run = some (freshRun c) := by rw [hm]
  have hlt : satStatus sat inv < 4 := by cases sat <;> cases inv <;> decide
  unfold State.rowEnded
  exact ⟨State.endCmd_mem, by rw [State.engine_endCmd (c := c) hrun rfl hf, hm], ended_endCmd hrun rfl (by rw [hm]; exact hdone) hf (by omega) (by omega)⟩

theorem quantBlock_spec (hhead : atHead s core .quant c q) (hprogress : c.progress = 0) (hdetail : c.detail = 0) (hf : c.forked = false)
    (hrows : (quantOps s core c).rows = 1)
    (hrow : RowDone (s.startCmd core .quant c) (f (s.startCmd core .quant c) c (quantOps s core c) (quantOps s core c).row0) v sat inv) :
    let t := quantBlock core f (s.startCmd core .quant c) (freshRun c)
    t.mem = v.mem ∧ (t.engine core .quant).queue = q ∧ ended t core .quant c 3 ((if sat then 1 else 0) + (if inv then 2 else 0)) 1 0 := by
  obtain ⟨hrow, hv⟩ := hrow
  intro t
  have ht : t = v.rowEnded core c sat inv := quantBlock_of_row (s := s.startCmd core .quant c) hprogress hdetail hrows hrow
  rw [ht]
  exact rowEnded_spec hhead hf hv

end

/-! ### The steps of the quantisation engine -/

section

variable {s : State} {core : Nat} {c : Cmd} {q : List QItem}

theorem qscaleStep_starts (hhead : atHead s core .quant c q) (hkind : kindOf c = 0x20) (haxis : (quantOps s core c).b.saxis = false) :
    qscaleStep core s = quantBlock core (fun s c o row => qscaleRow s core c o row) (s.startCmd core .quant c) (freshRun c) := by
  have haxis' : (quantOps (s.startCmd core .quant c) core (freshRun c).cmd).b.saxis = false := haxis
  unfold qscaleStep
  rw [inHand_of_atHead hhead (by rw [cmdKind_eq, hkind]; rfl)]
  dsimp only
  rw [haxis']
  rfl

theorem qpackStep_starts (hhead : atHead s core .quant c q) (hkind : kindOf c = 0x21) :
    qpackStep core s = quantBlock core (fun s c o row => qpackRow s core c o row) (s.startCmd core .quant c) (freshRun c) := by
  unfold qpackStep
  rw [inHand_of_atHead hhead (by rw [cmdKind_eq, hkind]; rfl)]

theorem qunpackStep_starts (hhead : atHead s core .quant c q) (hkind : kindOf c = 0x22) :
    qunpackStep core s = quantBlock core (fun s c o row => qunpackRow s core c o row) (s.startCmd core .quant c) (freshRun c) := by
  unfold qunpackStep
  rw [inHand_of_atHead hhead (by rw [cmdKind_eq, hkind]; rfl)]

end

/-! ### MZERO and MMARK (R217, R220) -/

section

variable {s : State} {core status count detail cause tval : Nat} {e : Engine} {c : Cmd} {q : List QItem}

/-- The tile of the matrix unit and its owner are as before. -/
def State.SameTile (s t : State) (core : Nat) : Prop := (t.core core).tile = (s.core core).tile ∧ (t.core core).tileOwner = (s.core core).tileOwner

theorem State.SameTile.trans {t u : State} (h : s.SameTile t core) (h' : t.SameTile u core) : s.SameTile u core :=
  ⟨h'.1.trans h.1, h'.2.trans h.2⟩

theorem State.sameTile_modEngine {g : EngineState → EngineState} : s.SameTile (s.modEngine core e g) core := by
  unfold State.SameTile
  rw [State.core_modEngine, if_pos rfl, Core.setEngine_tile, Core.setEngine_tileOwner]
  exact ⟨rfl, rfl⟩

theorem State.sameTile_dropEngMisses : s.SameTile (s.dropEngMisses core e) core := by
  unfold State.SameTile
  rw [State.core_dropEngMisses]
  exact ⟨rfl, rfl⟩

theorem State.sameTile_releaseRanges {id : Nat} {b : Bool} : s.SameTile (s.releaseRanges core id e b) core := by
  unfold State.SameTile State.releaseRanges
  rw [State.core_modCore, if_pos rfl]
  exact ⟨rfl, rfl⟩

theorem State.sameTile_finishCmd (hf : c.forked = false) : s.SameTile (s.finishCmd core e c status count detail cause tval) core := by
  rw [State.finishCmd_eq, State.listEnded_of_not_forked hf]
  split
  · exact State.sameTile_releaseRanges.trans State.sameTile_modEngine
  · exact State.sameTile_releaseRanges

/-- A command that is no part of a list ends without a change of the tile. -/
theorem State.sameTile_endCmd (hf : c.forked = false) : s.SameTile (s.endCmd core e c status count detail cause tval) core :=
  (State.sameTile_modEngine.trans State.sameTile_dropEngMisses).trans (State.sameTile_finishCmd hf)

/-- R217, R220: the tile is cleared and becomes that of the command's slot and launch. -/
theorem mzero_spec (hhead : atHead s core .matrix c q) (hf : c.forked = false) (hquar : (s.core core).quarantined = false) (hkind : kindOf c = 2) :
    let t := mzeroStep core s
    t.mem = s.mem ∧ (t.core core).tile = [] ∧ (t.core core).tileOwner = some (c.slot, c.lid) ∧ (t.engine core .matrix).queue = q ∧
      ended t core .matrix c 1 0 0 0 := by
  intro t
  let m := (s.startCmd core .matrix c).modCore core (fun C => { C with tile := [], tileOwner := some (c.slot, c.lid) })
  have hstep : t = m.endCmd core .matrix c 0 0 0 0 0 := by
    show mzeroStep core s = _
    unfold mzeroStep
    rw [hquar, inHand_of_atHead hhead (by rw [cmdKind_eq, hkind]; rfl)]
    rfl
  have hcore : m.core core = { (s.startCmd core .matrix c).core core with tile := [], tileOwner := some (c.slot, c.lid) } := by
    show (State.modCore _ _ _).core core = _
    rw [State.core_modCore, if_pos rfl]
  have hengine : m.engine core .matrix = { s.engine core .matrix with queue := q, run := some (freshRun c) } :=
    (State.engine_of_core (by rw [hcore]; rfl)).trans (engine_startCmd hhead)
  obtain ⟨-, -, hdone, -⟩ := hhead
  have hrun : (m.engine core .matrix).run = some (freshRun c) := by rw [hengine]
  obtain ⟨htile, howner⟩ : m.SameTile t core := hstep ▸ State.sameTile_endCmd hf
  refine ⟨hstep ▸ State.endCmd_mem, by rw [htile, hcore], by rw [howner, hcore], ?_, ?_⟩
  · rw [hstep, State.engine_endCmd (c := c) hrun rfl hf, hengine]
  · rw [hstep]
    exact ended_endCmd hrun rfl (by rw [hengine]; exact hdone) hf (by decide) (by decide)

theorem matrixQuiet_of_no_group (hparts : (s.engine core .matrix).parts = [])
    (hgroup : ∀ i < 16, ∀ d ∈ (s.engine (core / 16 * 16 + i) .matrix).done, isGroup .matrix d.cmd.record = false) : s.matrixQuiet core = true := by
  unfold State.matrixQuiet
  rw [hparts, List.isEmpty_nil, Bool.true_and, List.all_eq_true]
  intro i hi
  rw [List.all_eq_true]
  intro d hd
  rw [hgroup i (List.mem_range.1 hi) d hd, Bool.and_false, Bool.false_and]
  rfl

/-- R220: a MMARK at the head ends, once what stood before it has retired. -/
theorem mmark_spec (hhead : atHead s core .matrix c q) (hf : c.forked = false) (hquar : (s.core core).quarantined = false) (hkind : kindOf c = 3)
    (hquiet : s.matrixQuiet core = true) :
    let t := mmarkStep core s
    t.mem = s.mem ∧ (t.core core).tile = (s.core core).tile ∧ (t.engine core .matrix).queue = q ∧ ended t core .matrix c 1 0 0 0 := by
  intro t
  have hstep : t = (s.startCmd core .matrix c).endCmd core .matrix c 0 0 0 0 0 := by
    show mmarkStep core s = _
    unfold mmarkStep
    rw [hquar, hquiet, inHand_of_atHead hhead (by rw [cmdKind_eq, hkind]; rfl)]
    rfl
  have hengine := engine_startCmd hhead
  obtain ⟨-, -, hdone, -⟩ := hhead
  have hrun : ((s.startCmd core .matrix c).engine core .matrix).run = some (freshRun c) := by rw [hengine]
  have htile : s.SameTile t core := hstep ▸ State.sameTile_modEngine.trans (State.sameTile_endCmd hf)
  refine ⟨hstep ▸ State.endCmd_mem, htile.1, ?_, ?_⟩
  · rw [hstep, State.engine_endCmd (c := c) hrun rfl hf, hengine]
  · rw [hstep]
    exact ended_endCmd hrun rfl (by rw [hengine]; exact hdone) hf (by decide) (by decide)

end

/-- Settles O42: the row of a command is done through R50 and leaves the engines as they were, and the command ends with the flags of its row. -/
theorem quantAndMarks : Obligations.QuantAndMarks := by
  unfold Obligations.QuantAndMarks
  refine ⟨?quant, ?marks⟩
  case quant =>
    intro core c q s hhead hprogress hdetail hf t0 o d1 ends hrows
    refine ⟨?qscale, ?qpack, ?qunpack⟩
    case qscale =>
      intro u v xs hkind haxis hread e hwrite
      refine ⟨qscaleStep core s, rfl, ?_⟩
      rw [qscaleStep_starts hhead hkind haxis]
      exact quantBlock_spec hhead hprogress hdetail hf hrows (qscaleRow_done hread hwrite)
    case qpack =>
      intro u v w xs ss hkind hread hscales qs hwrite
      refine ⟨qpackStep core s, rfl, ?_⟩
      rw [qpackStep_starts hhead hkind]
      exact quantBlock_spec hhead hprogress hdetail hf hrows (qpackRow_done hread hscales rfl hwrite)
    case qunpack =>
      intro u v xs p hkind happly hread hlen vs hwrite
      have hvs : vs = xs.map (unpackOne c o) := by
        unfold unpackOne
        rw [bitAt_eq_testBit]
        rfl
      refine ⟨qunpackStep core s, rfl, ?_⟩
      rw [qunpackStep_starts hhead hkind]
      exact quantBlock_spec hhead hprogress hdetail hf hrows (qunpackRow_done ((bitAt_eq_testBit _ _).trans happly) hread hlen hvs hwrite)
  case marks =>
    exact fun core c q s hhead hf hquar => ⟨fun hkind => ⟨_, rfl, mzero_spec hhead hf hquar hkind⟩,
      fun hkind hparts hgroup => ⟨_, rfl, mmark_spec hhead hf hquar hkind (matrixQuiet_of_no_group hparts hgroup)⟩⟩

end Sys2Proof.Machine
end

section
/-! # FORK of an ill-formed block (O39)

FORK reads its block with the checks of R165. Where the page is checked for races, the first access of a context inside a range of which alone it
has acquired makes what it acquired there known for all that follows (R238, log 115), and what a context knows stands in its slot. So the slots
are not left as they were, as O39 says, by a FORK that answers FORM. -/

namespace Sys2Proof.Machine

open Sys2Proof.Claims

/-- FORK of the block at c1, with its answer in c2. -/
def forkFields : Fields := ⟨⟨0, 0, 0⟩, false, 0, .c 2, .c 1, .c 0, 0, 0⟩

theorem acts_fork_acquiredInPart : acts acquiredInPart forkFields := by
  unfold acts
  decide +kernel

/-- The access of FORK to its block. -/
def blockAccess : Exec (State × Loc) :=
  memAccess acquiredInPart acquiredInPart.cur { op := 0x300, field := 2, opnd := .c 1, n := 32, al := 32, ld := true, st := false, spaces := [0, 1] }
    (acquiredInPart.capOpnd (.c 1)) (offs forkFields) false false

/-- A block without an error, of zeros: it names no list. -/
def namesNoList (r : State × Loc) : Bool :=
  let u := r.1.noteAccess acquiredInPart.cur r.2 0
  !u.poisoned r.2 32 && le u r.2.key 32 == 0

/-- The access passes the checks of R165, and reads a block of zeros. -/
theorem blockAccess_reads_zeros : ∃ u l, blockAccess = .ok (u, l) ∧ namesNoList (u, l) = true := by
  obtain ⟨u, l, hacc⟩ := exists_eq_ok_of_isOk (x := blockAccess) (by decide +kernel)
  have hall : blockAccess.toOption.all namesNoList = true := by decide +kernel
  rw [hacc] at hall
  exact ⟨u, l, hacc, hall⟩

/-- After the FORK the acquisition is part of all that the vcore knows, and of no range any more. -/
theorem partials_fork_acquiredInPart : ((stepScalar forkFields (forkBody forkFields) acquiredInPart).slot 0).known.partials = [] := by
  decide +kernel

/-- Bit 63 of a doubleword of zeros. -/
theorem not_testBit_of_zeros (i : Nat) : ¬(0 / 2 ^ (64 * i) % 2 ^ 64).testBit 63 = true := by
  rw [Nat.zero_div, Nat.zero_mod, Nat.zero_testBit]
  exact Bool.false_ne_true

/-- Refutes O39: the clause of FORM says that no slot changes, and this FORK has linked what its vcore had acquired of the bytes of the block. -/
theorem not_forkAndInbox : ¬ Obligations.ForkAndInbox := by
  unfold Obligations.ForkAndInbox
  intro h
  obtain ⟨hfork, -⟩ := h
  obtain ⟨hfork, -⟩ := hfork forkFields acquiredInPart acts_fork_acquiredInPart
  obtain ⟨u, l, hacc, hread⟩ := blockAccess_reads_zeros
  obtain ⟨hclean, hzero⟩ : (u.noteAccess acquiredInPart.cur l 0).poisoned l 32 = false ∧ le (u.noteAccess acquiredInPart.cur l 0) l.key 32 = 0 := by
    simpa [namesNoList] using hread
  obtain ⟨hform, -⟩ := hfork u l hacc hclean
  rw [hzero] at hform
  obtain ⟨t, ⟨ht, -⟩, hslots⟩ := hform (.inr (.inr fun i _ => not_testBit_of_zeros i))
  obtain rfl : stepScalar forkFields (forkBody forkFields) acquiredInPart = t := Host.Outcome.next.inj ht
  have hslot := congrArg (fun m => (Sparse.get ({} : Slot) m 0).known.partials) hslots
  exact List.cons_ne_nil _ _ (hslot.symm.trans partials_fork_acquiredInPart)

end Sys2Proof.Machine
end
